-- ==== Sys2Proof/Word.lean ====
section
/-!
DEFINITION. The words of the model: bytes, 32- and 64-bit words, the numbers that name parts of the package,
and the two containers of the state: sparse tables and memories.
-/
namespace Sys2Proof

abbrev Byte := BitVec 8
abbrev W16 := BitVec 16
abbrev W32 := BitVec 32
abbrev W64 := BitVec 64

/-- Functions of H0: 0 is the PF, v is VF v (R59). -/
abbrev Fn := Fin 17
/-- Partitions 0 to 15 (R59). -/
abbrev PartId := Fin 16
/-- Physical cores CDn.Cmm as 52·n + mm (R3). -/
abbrev CoreId := Fin 208
/-- Positions CDn.q as 48·n + q: the places that patterns and partitions name (R5, R518, R627). -/
abbrev PosId := Fin 192
/-- Dies: 0–3 CD0–CD3; 4–7 XD0–XD3; 8–19 MS0–MS11 (Table 4 of ch. 14). -/
abbrev DieId := Fin 20
/-- Compute dies (R3). -/
abbrev CdId := Fin 4
/-- Link ports L0 to L15 (R3). -/
abbrev PortId := Fin 16
/-- Stacks MS0 to MS11 (R3). -/
abbrev StackId := Fin 12
/-- Far-memory ports F0 to F3 (R3). -/
abbrev FPortId := Fin 4
/-- Codec pairs CP0 to CP15 (R3). -/
abbrev PairId := Fin 16
/-- Rails, numbered as Table 1 of ch. 15 (R569). -/
abbrev RailId := Fin 24
/-- Micro-batch lanes of a pattern (Table 2 of ch. 13). -/
abbrev LaneId := Fin 8
/-- Fast-path slots of a function (R90). -/
abbrev SlotId := Fin 16

/-- A sparse table: keys strictly rising. -/
abbrev Table (α : Type) := List (Nat × α)

/-- A memory: bytes by address, addresses strictly rising, no entry equal to the byte an unlisted address reads as. -/
abbrev Memory := List (Nat × Byte)

end Sys2Proof
end

