-- ==== Sys2Proof/Syntax.lean ====
section
/-!
DEFINITION. The commands of the block: one constructor of `Instr` per row of spec/opcode_table.json, with the
operands that the row's rule gives it. Structures that the manual lays out as bits travel as those bits.
-/
namespace Sys2Proof

/-- The fields of a message's request header that its sender chooses (Table 8 of ch. 02). `part` is the partition
that a message through the PF acts on (R60; log 20). -/
structure Hdr where
  tag : W16 := 0
  cookie : W64 := 0
  cvec : W16 := 0xFFFF
  target : W64 := 0
  replyIrq : Bool := false
  part : Option PartId := none
  deriving DecidableEq, Repr

/-- A tensor descriptor, 64 bytes (Table 12a of ch. 02). -/
abbrev DescWord := BitVec 512

/-- An entry of a pattern's binding table (R222): a tensor descriptor or one of the words that the manual lays out. -/
inductive Binding where
  | desc (w : DescWord)
  | update (w : BitVec 512)
  | call (w : BitVec 512)
  | act (w : BitVec 512)
  | attn (w : BitVec 512)
  | window (w : BitVec 256)
  | mask (w : BitVec 256)
  | words (ws : List W32)
  deriving DecidableEq, Repr

/-- The header of an array or stem stitch (R170 and the text after Table 6 of ch. 04; R258, R272, R277). Binding
indices are 0xFF where none is named. -/
structure ArrayStitch where
  mode : W64
  act : Nat
  wt : Nat
  dst : Nat := 0xFF
  count : Nat := 0xFF
  refAct : Nat := 0xFF
  refWt : Nat := 0xFF
  window : Nat := 0xFF
  haloAbove : Nat := 0xFF
  haloBelow : Nat := 0xFF
  tokens : Nat
  passes : Nat
  firstRow : Nat
  deriving DecidableEq, Repr

/-- A pooling or crop-and-resize stitch (R283, R287): window word, input map, box list, destination, CVT, halo slots of a
pooling stitch (R277). -/
structure WindowStitch where
  window : Nat
  src : Nat
  box : Nat := 0xFF
  dst : Nat
  cvt : BitVec 5 := 0
  haloAbove : Nat := 0xFF
  haloBelow : Nat := 0xFF
  deriving DecidableEq, Repr

/-- The PREFETCH mark of a core-mover transfer (R360). -/
structure Prefetch where
  layer : Nat
  need : Nat
  slack : Nat
  deriving DecidableEq, Repr

/-- What an entry of a stitch list does. -/
inductive EntryOp where
  | array (a : ArrayStitch)
  | vector (instrs : List (BitVec 128))
  | window (w : WindowStitch)
  | stem (a : ArrayStitch)
  | walk (attn : Nat)
  | fence (cond : W64)
  | wait (sem : Nat)
  | signal (sem : Nat)
  | acquire (lock : Nat) (csBound : Nat)
  | release (lock : Nat)
  | mover (src dst : Nat) (cvt : BitVec 5) (sem : Option Nat) (pre : Option Prefetch)
  | haloPut (src slot : Nat) (layer ready : Nat)
  | haloFence (slot : Nat) (layer ready : Nat)
  | call (b : Nat)
  | callFence (call : Nat)
  | amaxFence (dst : Nat) (merge : Option Nat)
  | codec (b : Nat)
  | append (seq layer k v : Nat)
  deriving DecidableEq, Repr

/-- A range of T0 that a stitch declares: SPACE and SPACE_CORE as a descriptor has them, first byte, bytes (R172; log 144). -/
structure T0Range where
  space : Nat
  slot : Nat
  addr : Nat
  bytes : Nat
  deriving DecidableEq, Repr

/-- An entry of a core's stitch list: its micro-batch lane, its declared length in c (R34), the ranges that it declares to read
and to write beside those of its operands (R172; log 144), the stitch it may overlap (R254), the fate of R371 with its
TENSOR_ID, and what it does. -/
structure Entry where
  lane : Nat := 0
  cycles : Nat := 0
  reads : List T0Range := []
  writes : List T0Range := []
  pair : Option Nat := none
  fate : Option (Nat × W32) := none
  op : EntryOp
  deriving DecidableEq, Repr

/-- Kinds of steward merge (Table 4 of ch. 06). -/
inductive MergeKind where
  | csum | max | min | sum
  deriving DecidableEq, Repr

/-- A steward merge declared by a pattern header (R250). -/
structure MergeDecl where
  num : Nat
  kind : MergeKind
  slots : List Nat
  deriving DecidableEq, Repr

/-- A non-pre-emptible window of the scheduling block (Table 2 of ch. 13). -/
structure NpWindow where
  first : Nat
  last : Nat
  slot : Nat
  bound : Nat
  deriving DecidableEq, Repr

/-- A halo slot that a pattern header declares: the binding of its header and rows, and its semaphores READY and FREE
(R278). -/
structure HaloSlot where
  slot : Nat
  ready : Nat
  free : Nat
  deriving DecidableEq, Repr

/-- What a pattern header declares for one sequence binding (R318). -/
structure AppendDecl where
  seq : Nat
  tokens : Nat
  tags : Nat
  permit : BitVec 3
  deriving DecidableEq, Repr

/-- A pattern image with its header, scheduling block, binding table and stitch lists (R509, Table 2 of ch. 13).
The manual lays out the words it holds but not the image around them (log 21). -/
structure PatternImage where
  cores : Nat
  lanes : Nat
  accFoot : Nat
  spFoot : Nat
  locks : W64 := 0
  schedRsv : Bool := false
  sems : List (Nat × Nat) := []
  npWindows : List NpWindow := []
  bindings : List Binding := []
  merges : List MergeDecl := []
  holds : List Nat := []
  haloSlots : List HaloSlot := []
  appends : List AppendDecl := []
  sentinelArea : Nat := 0xFF
  residencyArea : Nat := 0xFF
  digestsIn : List Nat := []
  digestsOut : List Nat := []
  lists : List (List Entry) := []
  imageCrc : W64 := 0
  deriving DecidableEq, Repr, Inhabited

/-- The operands of a step submission (Table 9 of ch. 13). `table` is the content of the binding table that
`bindDesc` names; empty means the image's own. -/
structure StepOps where
  job : W64
  bindDesc : DescWord := 0
  table : List Binding := []
  words : List W64 := []
  seed : W64 := 0
  retry : W64 := 0
  det : W64 := 0
  deriving DecidableEq, Repr

/-- The operands of BANK_CREATE (Table 7 of ch. 05). -/
structure BankOps where
  header : W64
  elements : W64
  opt : W64
  work : W64
  wfmt : W64
  w0 : DescWord
  w1 : DescWord
  m0 : DescWord
  m1 : DescWord
  v0 : DescWord
  v1 : DescWord
  k0 : DescWord := 0
  k1 : DescWord := 0
  init : DescWord
  deriving DecidableEq, Repr

/-- The Table 3 parameters of an HEVC encode session (R378). -/
structure EncParams where
  width : W64 := 0
  height : W64 := 0
  bitDepth : W64 := 8
  level : W64 := 0
  irapPeriod : W64 := 1
  bPictures : W64 := 0
  sliceRows : W64 := 0
  wpp : W64 := 0
  rateMode : W64 := 0
  qp : W64 := 0
  bitrate : W64 := 0
  deriving DecidableEq, Repr

/-- The operands of CODEC_SESSION_OPEN (Table 16 of ch. 10). -/
structure CodecOpenOps where
  kind : W64
  cls : W64
  pairs : W64
  entries : W64 := 0
  buffer : DescWord := 0
  pitch : W64 := 0
  inRing : DescWord := 0
  inWriteback : W64 := 0
  outRing : DescWord := 0
  outArea : DescWord := 0
  tensorOut : DescWord := 0
  offset : W64 := 0
  gain : W64 := 0
  cvt : W64 := 0
  starve : W64 := 4
  opPoint : W64 := 0
  preGrain : W64 := 0
  enc : EncParams := {}
  spill : DescWord := 0
  deriving DecidableEq, Repr

/-- One of the three regions of a KV space (R315, Table 11 of ch. 08). -/
structure KvRegionOps where
  tier : W64
  desc : DescWord
  pages : W64
  deriving DecidableEq, Repr

/-- The operands of KV_SPACE_CREATE (Table 11 of ch. 08). -/
structure KvSpaceOps where
  control : DescWord
  layers : W64
  kvHeads : W64
  dh : W64
  format : W64
  regions : List KvRegionOps
  maxSeq : W64
  maxPages : W64
  prefixOn : W64
  prefixMax : W64
  salt : W64
  deriving DecidableEq, Repr

/-- A redistribution pair of PELOTON_RESHARD (R495): old and new shard, old and new chunk tables. -/
structure ReshardPair where
  oldShard : DescWord
  newShard : DescWord
  oldChunks : DescWord
  newChunks : DescWord
  deriving DecidableEq, Repr

/-- A flit of 640 bytes: header, payload chunks, CRC (R423). -/
structure Flit where
  header : BitVec 192
  payload : List Byte
  crc : W64
  deriving DecidableEq, Repr

/-- A steward or microcode image as it lies in memory or in the flash: the 1 KiB header and the body (R599). -/
structure FwImage where
  header : List Byte
  body : List Byte
  deriving DecidableEq, Repr, Inhabited

/-- What the monitors and timers measured over the interval that a tick edge closes (R39): temperatures in 1/16 °C
per die, package power in mW, rail voltages in mV and currents in 0.1 A (Table 12 of ch. 14), per-job time its quads
ran in quad-ns (R513), dies whose sensors reached or stayed clear of their throttle point (R578), rails that stayed
above warning plus hysteresis throughout (R573), bytes of migration traffic finished per route (R350), and whether
the steward had not finished the earlier tick (R42). -/
structure TickEnv where
  temps : List Int := []
  powerMw : Nat := 0
  rails : List (Nat × Nat) := []
  ranNs : List ((Nat × Nat) × Nat) := []
  hot : List Nat := []
  cool : List Nat := []
  calmRails : List Nat := []
  late : Bool := false
  deriving DecidableEq, Repr

/-- References whose loss takes ports down (R584). -/
inductive PhyRef where
  | h0
  | far (f : FPortId)
  | links (xd : Fin 4)
  deriving DecidableEq, Repr

/-- The board's input pins that a release samples (R615). -/
structure Straps where
  strap0 : Bool := false
  strap1 : Bool := false
  testEn : Bool := false
  deriving DecidableEq, Repr

/-- What the board and the package bring to a start-up: expander capacities in frames per F port, stacks that train
(R366, R620), pins. -/
structure BootEnv where
  straps : Straps := {}
  farFrames : List Nat := [524288, 524288, 524288, 524288]
  stacksOk : BitVec 12 := 0xFFF
  deriving DecidableEq, Repr

/-- One command of the block: one constructor per row of spec/opcode_table.json, in the table's order. -/
inductive Instr where
  | mbxDoorbell (fn : Fn) (value : W64)
  | mbxStatusWrite (fn : Fn) (value : W64)
  | ringHeadWrite (fn : Fn) (value : W64)
  | slotDb (fn : Fn) (slot : SlotId) (value : W64)
  | barWrite (fn : Fn) (bar : Nat) (offset : Nat) (bytes : List Byte)
  | poisonedTlp (fn : Fn) (bar : Nat) (offset : Nat)
  | oversizeBarRead (fn : Fn) (bar : Nat) (offset : Nat) (size : Nat)
  | dmaReadError (handle : W64) (addr : W64)
  | vfFunctionLevelReset (vf : PartId)
  | pfFunctionLevelReset
  | vfEnableClear
  | vfEnableSet
  | hotReset
  | coalesceTimer (fn : Fn) (vector : W16)
  | deviceInfo (fn : Fn) (hdr : Hdr)
  | ringSet (fn : Fn) (hdr : Hdr) (base entries writeback k t : W64)
  | handleQuery (fn : Fn) (hdr : Hdr)
  | eventRoute (fn : Fn) (hdr : Hdr) (vector : W64)
  | castOn (fn : Fn) (hdr : Hdr) (desc : BitVec 1024)
  | bindOff (fn : Fn) (hdr : Hdr) (partition : W64)
  | partitionList (fn : Fn) (hdr : Hdr)
  | tickSet (fn : Fn) (hdr : Hdr) (period : W64)
  | memAlloc (fn : Fn) (hdr : Hdr) (pages cls readOnly : W64) (backing : DescWord)
  | memFree (fn : Fn) (hdr : Hdr) (object : W64)
  | memClassSet (fn : Fn) (hdr : Hdr) (object cls : W64)
  | memMigrate (fn : Fn) (hdr : Hdr) (object first count tier : W64)
  | memCopy (fn : Fn) (hdr : Hdr) (src dst : DescWord) (cvt : W64)
  | memFill (fn : Fn) (hdr : Hdr) (object first count pattern : W64)
  | memQuery (fn : Fn) (hdr : Hdr) (object : W64)
  | poolQuery (fn : Fn) (hdr : Hdr)
  | memHostRegister (fn : Fn) (hdr : Hdr) (addrs : List W64)
  | memHostRelease (fn : Fn) (hdr : Hdr) (count list : W64)
  | tierMapRead (fn : Fn) (hdr : Hdr) (first count : W64) (dst : DescWord)
  | tierSet (fn : Fn) (hdr : Hdr) (mode : W64) (shares : List W64) (darnLimit : W64)
  | patternLoad (fn : Fn) (hdr : Hdr) (desc : DescWord) (image : PatternImage)
  | patternUnload (fn : Fn) (hdr : Hdr) (pattern : W64)
  | jobCreate (fn : Fn) (hdr : Hdr) (pattern cls quads banks weight slice : W64) (context : DescWord)
  | jobDestroy (fn : Fn) (hdr : Hdr) (job : W64)
  | jobSet (fn : Fn) (hdr : Hdr) (job cls weight slice : W64)
  | stepSubmit (fn : Fn) (hdr : Hdr) (ops : StepOps)
  | stepStop (fn : Fn) (hdr : Hdr)
  | stepResume (fn : Fn) (hdr : Hdr)
  | schedQuery (fn : Fn) (hdr : Hdr) (job : W64)
  | fastpathArm (fn : Fn) (hdr : Hdr) (slot : W64) (ops : StepOps)
  | fastpathDisarm (fn : Fn) (hdr : Hdr) (slot : W64)
  | stepCommit (fn : Fn) (hdr : Hdr)
  | stepFrog (fn : Fn) (hdr : Hdr)
  | bankCreate (fn : Fn) (hdr : Hdr) (ops : BankOps)
  | bankExport (fn : Fn) (hdr : Hdr) (bank : W64) (w m v : DescWord)
  | bankImport (fn : Fn) (hdr : Hdr) (bank : W64) (w m v : DescWord) (t p1 p2 : W64)
  | bankDestroy (fn : Fn) (hdr : Hdr) (bank : W64)
  | replayLogSet (fn : Fn) (hdr : Hdr) (addr size : W64)
  | replay (fn : Fn) (hdr : Hdr) (epoch : W64) (subs : List (W32 × DescWord)) (outs : List DescWord) (report : DescWord)
  | pelotonForm (fn : Fn) (hdr : Hdr) (desc : DescWord)
  | pelotonDisband (fn : Fn) (hdr : Hdr) (peloton : W64)
  | pelotonReshard (fn : Fn) (hdr : Hdr) (peloton epoch : W64) (shards : DescWord) (pairs : List ReshardPair)
  | pelotonFrog (fn : Fn) (hdr : Hdr) (peloton epoch : W64)
  | pelotonSubstitute (fn : Fn) (hdr : Hdr) (peloton rank linkId port : W64)
  | pelotonPolicy (fn : Fn) (hdr : Hdr) (peloton window peerLimit latePolicy thin headroom : W64)
  | pelotonQuery (fn : Fn) (hdr : Hdr) (peloton : W64)
  | codecSessionOpen (fn : Fn) (hdr : Hdr) (ops : CodecOpenOps)
  | codecSessionClose (fn : Fn) (hdr : Hdr) (session : W64)
  | codecFeed (fn : Fn) (hdr : Hdr) (session count : W64)
  | codecRelease (fn : Fn) (hdr : Hdr) (session entries area : W64)
  | codecEncFrame (fn : Fn) (hdr : Hdr) (session buffer timestamp forceIrap : W64)
  | codecQuery (fn : Fn) (hdr : Hdr) (session : W64)
  | actEncode (fn : Fn) (hdr : Hdr) (call : BitVec 512) (src dst ref bound : DescWord)
  | actDecode (fn : Fn) (hdr : Hdr) (call : BitVec 512) (src dst ref bound : DescWord)
  | actRelease (fn : Fn) (hdr : Hdr) (session spill : W64)
  | kvSpaceCreate (fn : Fn) (hdr : Hdr) (ops : KvSpaceOps)
  | kvSpaceDestroy (fn : Fn) (hdr : Hdr) (space : W64)
  | kvSeqOpen (fn : Fn) (hdr : Hdr) (space : W64)
  | kvSeqFork (fn : Fn) (hdr : Hdr) (space parent length : W64)
  | kvSeqTruncate (fn : Fn) (hdr : Hdr) (space seq length : W64)
  | kvSeqClose (fn : Fn) (hdr : Hdr) (space seq : W64)
  | kvAttach (fn : Fn) (hdr : Hdr) (space seq : W64) (tags : DescWord) (blocks : W64)
  | kvAppend (fn : Fn) (hdr : Hdr) (space seq n : W64) (k v tags : DescWord) (permit : W64)
  | kvSeqQuery (fn : Fn) (hdr : Hdr) (space seq : W64)
  | prefixRead (fn : Fn) (hdr : Hdr) (space : W64) (dst : DescWord) (first : W64)
  | prefixFlush (fn : Fn) (hdr : Hdr) (space : W64)
  | counterSet (fn : Fn) (hdr : Hdr) (scope counter word : W64)
  | eventRead (fn : Fn) (hdr : Hdr) (first count : W64) (dst : DescWord)
  | faultClear (fn : Fn) (hdr : Hdr) (tick code : W64)
  | telemetryRead (fn : Fn) (hdr : Hdr)
  | serviceSet (fn : Fn) (hdr : Hdr) (limit : W64)
  | coreSpare (fn : Fn) (hdr : Hdr) (core spare : W64)
  | fwUpdate (fn : Fn) (hdr : Hdr) (image : FwImage)
  | fwCommit (fn : Fn) (hdr : Hdr)
  | fwRevert (fn : Fn) (hdr : Hdr)
  | ucodeLoad (fn : Fn) (hdr : Hdr) (pair : W64) (image : FwImage)
  | stewardSwitch (fn : Fn) (hdr : Hdr)
  | linkGroupSet (fn : Fn) (hdr : Hdr) (desc : BitVec 128)
  | linkRecal (fn : Fn) (hdr : Hdr) (port : W64)
  | linkTrain (fn : Fn) (hdr : Hdr) (port : W64)
  | stackRecal (fn : Fn) (hdr : Hdr) (stack : W64)
  | farPortRestart (fn : Fn) (hdr : Hdr) (port : W64)
  | attest (fn : Fn) (hdr : Hdr) (nonce : BitVec 512) (dst : DescWord)
  | identityRead (fn : Fn) (hdr : Hdr) (dst : DescWord)
  | ownerEnroll (fn : Fn) (hdr : Hdr) (key signature : List Byte)
  | powerSet (fn : Fn) (hdr : Hdr) (word : W64)
  | settingsSave (fn : Fn) (hdr : Hdr)
  | settingsQuery (fn : Fn) (hdr : Hdr)
  | fwRecover (fn : Fn) (hdr : Hdr) (addr length : W64) (ownerKey : List Byte)
  | settingsRecordWrite (readBackOk : Bool)
  | tickEdge (env : TickEnv)
  | stepAdmission (handle : W64)
  | classZeroStart (handle : W64)
  | stateSave (core : CoreId)
  | restore (core : CoreId)
  | stitchCommit (core : CoreId) (lane : LaneId)
  | weightReadyFence (core : CoreId) (lane : LaneId) (waited : Nat)
  | sentinelRecompute (core : CoreId)
  | stepHeld (handle : W64)
  | frogComplete (handle : W64)
  | branchingFence (core : CoreId) (lane : LaneId)
  | stewardMerge (handle : W64) (merge : Nat)
  | amaxFence (handle : W64) (index : Nat)
  | signal (core : CoreId) (lane : LaneId)
  | wait (core : CoreId) (lane : LaneId)
  | acquire (core : CoreId) (lane : LaneId)
  | release (core : CoreId) (lane : LaneId)
  | csOverrun (part : PartId) (lock : Nat)
  | coreMoverTransfer (core : CoreId) (index : Nat)
  | prefetchDeadline (core : CoreId) (layer : Nat) (waited : Nat)
  | haloPut (core : CoreId) (lane : LaneId)
  | haloFence (core : CoreId) (lane : LaneId)
  | stemStitch (die : CdId)
  | appendEntry (core : CoreId) (lane : LaneId)
  | collectiveCall (core : CoreId) (lane : LaneId)
  | collectiveFence (core : CoreId) (lane : LaneId)
  | redScatter (part : PartId) (peloton : Nat)
  | redGather (part : PartId) (peloton : Nat)
  | paramGather (part : PartId) (peloton : Nat)
  | exchange (part : PartId) (peloton : Nat)
  | exchangeReturn (part : PartId) (peloton : Nat)
  | ringKv (part : PartId) (peloton : Nat)
  | ringGrad (part : PartId) (peloton : Nat)
  | ringLate (core : CoreId) (lane : LaneId)
  | reshardData (part : PartId) (peloton : Nat)
  | reshardToken (part : PartId) (peloton : Nat)
  | substToken (part : PartId) (peloton : Nat)
  | groupFrog (part : PartId) (peloton : Nat)
  | abort (part : PartId) (peloton : Nat)
  | lateExclusion (part : PartId) (peloton : Nat) (call : Nat)
  | lateContribution (part : PartId) (peloton : Nat) (call : Nat)
  | peerTimeout (part : PartId) (peloton : Nat) (call : Nat)
  | lapTimeout (part : PartId) (peloton : Nat)
  | pelotonFormed (part : PartId) (peloton : Nat)
  | migrationComplete (page : Nat)
  | darnLimit (page : Nat) (row : BitVec 64) (spareLeft : Bool)
  | hbmUncorrectable (page : Nat) (row : BitVec 64) (spareLeft : Bool)
  | pageRestore (page : Nat)
  | farPoison (page : Nat) (handle : W64)
  | farLinkDown (port : FPortId)
  | farMedia (port : FPortId) (code : W32)
  | scrub (target : Nat) (corrected : List (Nat × Nat))
  | coreDegraded (core : CoreId)
  | stackDrift (stack : StackId)
  | coreSwap (core : CoreId)
  | faultCollected
  | coreSramUe (core : CoreId) (addr : Nat)
  | coreParity (core : CoreId) (block : Nat)
  | mapbufUe (die : CdId) (bank : Fin 16) (addr : Nat)
  | stemFault (die : CdId)
  | codecPairUe (pair : PairId)
  | linkBufferUe (port : PortId)
  | slotStoreError (fn : Fn) (slot : SlotId)
  | collectorSelfFault (mask : W64)
  | overTemperature (die : DieId) (temp : Int)
  | stewardCoreFault (core : Fin 4)
  | stewardDoubleFault (core : Fin 4)
  | clusterSelfTest (pass : Bool)
  | handover
  | dataFlit (port : PortId) (codewordOk : Bool) (flit : Flit)
  | idleFlit (port : PortId) (codewordOk : Bool) (flit : Flit)
  | nak (port : PortId) (codewordOk : Bool) (flit : Flit)
  | fenceIdle (port : PortId)
  | replayTimeout (port : PortId)
  | fastRetrain (port : PortId) (lanes : BitVec 4) (advanced : Bool)
  | fullTraining (port : PortId) (lanes : BitVec 4)
  | codewordLockLost (port : PortId)
  | laneDegrade (port : PortId) (lane : Fin 4)
  | laneRecalDone (port : PortId) (lane : Fin 4) (pass : Bool)
  | config (port : PortId) (linkId : W16) (partnerPort : W16) (lanes : BitVec 4) (baud : Bool) (ackSeq : BitVec 12) (isSwitch : Bool)
  | echoReq (port : PortId) (time : W64)
  | echoResp (port : PortId) (time turnaround now : W64)
  | vcReset (port : PortId) (vc : Fin 8)
  | answer (port : PortId) (src : W16) (payload : BitVec 256)
  | tickMarker (port : PortId) (accum : BitVec 12) (tickLo : BitVec 6) (phase : Int)
  | markerMissed
  | syncIn (sinceLast : Nat)
  | linkReferenceLost (ref : PhyRef)
  | unitBoundary (pair : PairId)
  | unitRecord (part : PartId) (session : Nat)
  | starveLimit (part : PartId) (session : Nat)
  | pictureOutput (part : PartId) (session : Nat) (entry : Nat)
  | activationCallComplete (part : PartId) (call : Nat)
  | ucodeLoadDone (pair : PairId)
  | supplyDip (rail : RailId) (lowest : Nat)
  | supplyDipRecord (rail : RailId) (lowest below : Nat)
  | supplyCollapse (rail : RailId)
  | gearStep (die : CdId)
  | avsAck (die : CdId)
  | avsTimeout (die : CdId)
  | freewheel (die : DieId)
  | powerOn (env : BootEnv)
  | resetN (lowNs : Nat) (env : BootEnv)
  | perstN (lowNs : Nat) (env : BootEnv)
  | trstN
  | bmcRead (address : BitVec 7) (offset : Nat) (count : Nat)
  | standbyStewardFault
  | farPortEnumerated (port : FPortId) (frames : Nat) (same : Bool)
  | farLinkBackUp (port : FPortId)
  | testAccessPortInstruction (code : Nat)
  deriving DecidableEq, Repr

end Sys2Proof
end

