-- ==== Sys2Proof/Config.lean ====
section
/-!
DEFINITION. What an implementation of the V20 fixes and the values that the manual leaves open. Every `opaque`
constant here is a free value: nothing in Lean can say what it is (log 4 and the entries it names).
-/
namespace Sys2Proof.Config

/-- Free values by index: times inside a tick, waiting cycles and other figures that no rule states (log 4). -/
opaque freeWord : Nat → BitVec 64

/-- The functions VOP 0x10–0x15 and 0x18–0x1B: one fixed algorithm each, within 1 or 2 ulp (R234; log 22). -/
opaque fastFn : Nat → BitVec 32 → BitVec 32

/-- The order of roundings of the last step of LNORM (0x60) and RMSNORM (0x61), which no rule states: which of the orders of
`normTail` the engine follows (R181, R234; log 27). -/
opaque normOrder : Nat → Nat

/-- SHA-512 (FIPS 180-4, named by R596). -/
opaque sha512 : List (BitVec 8) → BitVec 512
/-- ECDSA P-521 verification of a 132-byte signature under a 133-byte public key (R596). -/
opaque ecdsaVerify : List (BitVec 8) → BitVec 512 → List (BitVec 8) → Bool
/-- A signature by the identity key with the deterministic nonce of RFC 6979 (R596). -/
opaque ecdsaSign : BitVec 512 → BitVec 1056
/-- The four Relhorn image keys of the boot ROM (Table 1 of ch. 16). -/
opaque relhornKey : Nat → List (BitVec 8)
/-- The identity public key (R595, R608). -/
opaque identityKey : List (BitVec 8)
/-- The fused digest of the identity certificate (Table 1 of ch. 16). -/
opaque certDigest : BitVec 512
/-- The device serial (R608). -/
opaque serial : BitVec 64
/-- The boot ROM version (Table 5 of ch. 16). -/
opaque romVersion : BitVec 32
/-- A steward image (its header) can read journals of a version (R556). -/
opaque readsJournal : List (BitVec 8) → Nat → Bool
/-- The silicon revision (Table 10c of ch. 02). -/
opaque siliconRevision : BitVec 32
/-- The steward image, the microcode image and the identity certificate that the settings flash holds when a device
is made (Table 2 of ch. 16). -/
opaque factoryImage : FwImage
opaque factoryUcode : FwImage
opaque factoryCert : List (BitVec 8)

/-- What a pattern image of these bytes holds: the manual lays out its words but not the image (log 21). -/
opaque decodeImage : List (BitVec 8) → PatternImage
/-- What a binding table of these bytes holds (log 21). -/
opaque decodeTable : List (BitVec 8) → List Binding
/-- The partition that a message of these bytes through the PF acts on (log 20). -/
opaque pfPartition : List (BitVec 8) → Option (Fin 16)

/-- The number that a withdrawn T1 frame has where frames are numbered over other stacks: from the stacks and the number that it was
withdrawn under, by the stacks of the new numbering. The place of a frame in a stack is no part of the manual (R367; log 142). -/
opaque sameFrame : Nat → Nat → Nat → Nat
/-- A command's read of a page meets the page's poisoned line: by the free values taken so far and the page (R364; log 143). -/
opaque meetsPoison : Nat → Nat → Bool

/-- A value of a park that a logged step added and its commit has used up, as a replay of the step adds it: by TENSOR_ID, CALL
and element (R213, R488; log 133). -/
opaque parkGone : BitVec 32 → Nat → Nat → BitVec 32

/-- Relhorn's PCI-SIG vendor ID (R57): the manual gives no number. -/
opaque vendorId : BitVec 16
/-- The descriptor that a binding field of a call word in an ACT_ENCODE or ACT_DECODE message stands for, by message bytes
and field: 0 B_SRC, 1 B_DST, 2 B_REF, 3 B_BOUND (log 39). -/
opaque callBinding : List (BitVec 8) → Nat → BitVec 512

/-- The 16 bits that an element-addressed stochastic rounding takes of the 128 that CG gives it (R130, R209; log 71). -/
opaque drawHalf : BitVec 32 → BitVec 32 → BitVec 32 → BitVec 32 → BitVec 16

/-- The fused AVS setpoint in mV of compute die `d` at gear `g` (R570). -/
opaque setpoint : Nat → Nat → Nat
/-- The state of an HEVC or AV1 stream after a unit record or an input picture (R377, R378; log 23). -/
opaque codecState : Nat → List (BitVec 8) → BitVec 64 → BitVec 64
/-- What the HEVC or AV1 standard makes of a unit record: kind of session, payload, state of the stream (R377; log 23).
The answer packs: [0] parameter set outside Table 2; [1] the unit breaks its syntax (R394); [2] the unit starts a
picture; [3] the picture is a reference; [4] the picture is due for output; [5] IRAP; [6] it names a reference picture that the pool
does not hold and for which the standard prescribes nothing; [7] decoded picture hash differs; [8] a NAL unit of another layer;
[9] the unit ends its picture; [12] it names a missing reference picture; [47:16] order; [63:48] blocks written under R394. For an
encoded picture [11:10] is its type. -/
opaque videoUnit : Nat → List (BitVec 8) → BitVec 64 → BitVec 64

/-- The pictures of a stream: luma columns and rows of the coded area, bit depth, chroma planes present, and the conformance cropping
window in luma samples. -/
structure StreamShape where
  width : Nat := 0
  height : Nat := 0
  depth : Nat := 8
  chroma : Bool := true
  cropX : Nat := 0
  cropY : Nat := 0
  cropW : Nat := 0
  cropH : Nat := 0
  deriving DecidableEq, Repr, Inhabited

/-- The shape of the pictures of an HEVC or AV1 stream in a state (log 23). -/
opaque streamShape : Nat → BitVec 64 → StreamShape
/-- The reference picture set of a picture's first slice: order counts, and whether each is long-term (R390; log 23). -/
opaque refSet : Nat → List (BitVec 8) → BitVec 64 → List (Nat × Bool)
/-- The refresh_frame_flags of an AV1 frame (R390; log 23). -/
opaque refreshFlags : List (BitVec 8) → BitVec 64 → BitVec 8
/-- The missing reference picture that a unit names: [31:0] order, [39:32] AV1 slots, [40] long-term (R391; log 23). -/
opaque missingRef : Nat → List (BitVec 8) → BitVec 64 → BitVec 64
/-- The pool entry that a unit shows without decoding a frame (AV1 show_existing_frame; log 23). -/
opaque shownAgain : List (BitVec 8) → BitVec 64 → Option Nat
/-- How many waiting pictures fall due at a unit in the standard's output order (R393; log 23). -/
opaque videoBump : Nat → List (BitVec 8) → BitVec 64 → Nat
/-- A sample that a unit decodes or an encoder reconstructs, by plane (0 luma, 1 Cb, 2 Cr), column and row; none outside the unit's
part of the picture (R377; log 23). -/
opaque videoSample : Nat → List (BitVec 8) → BitVec 64 → Nat → Nat → Nat → Option Nat
/-- A sample lies in the CTBs or superblocks that are left of a slice or tile group when it breaks its syntax (R394; log 23). -/
opaque videoBroken : Nat → List (BitVec 8) → BitVec 64 → Nat → Nat → Nat → Bool
/-- A sample with the AV1 film grain of its frame header applied (Table 2; log 23). -/
opaque filmGrain : BitVec 64 → Nat → Nat → Nat → Nat → Nat
/-- The bytes of an encoded access unit (R378; log 23). -/
opaque encodedUnit : Nat → List (BitVec 8) → BitVec 64 → List (BitVec 8)
/-- The encoder's structure of pictures (R378; log 153): how many of the pictures submitted next it codes together, from their
force flags, and which of the pictures left of a group it codes next. -/
opaque groupLength : List (BitVec 8) → BitVec 64 → List Bool → Nat
opaque groupPick : List (BitVec 8) → BitVec 64 → Nat → Nat
/-- The cost of a mode of an activation coding block, from the values that the mode codes and the bound: 0 RAW, 1 INTRA, 2 INTER,
3 SKIP (R403; log 24). -/
opaque modeCost : Nat → List Int → Nat → Nat
/-- Parts of the motion search that R395 names and does not define (log 24): whether an average that is no integer rounds up, by the
sum and the count; whether a block at 1/4 or 1/2 resolution lies on that resolution's own block grid; the scale of a sum of Hadamard
coefficients. -/
opaque averageUp : Int → Nat → Bool
opaque searchAligned : Bool
opaque satdScale : Nat → Nat

end Sys2Proof.Config
end

