-- ==== Sys2Proof/Machine/State.lean ====
section
/-!
DEFINITION. The state of the block as plain data, with the rule of spec/ that names each part, the reasons a step can
stop, and the state right after a power-on start-up (`State.reset`).
-/
namespace Sys2Proof.Machine

/-- Why the machine stops with a fault. -/
inductive Fault where
  /-- A BAR write or read outside the aperture of its BAR: raised by BAR_WRITE, POISONED_TLP and OVERSIZE_BAR_READ,
  since no BAR claims that address (R65, Table 7 of ch. 02). Safe: the run ends. -/
  | noSuchAddress (offset : Nat)
  deriving DecidableEq, Repr

/-- Why a command has no meaning. -/
inductive Refusal where
  /-- A command whose meaning is not written, raised by `exec` alone. Safe: the run ends. -/
  | notModelled (mnemonic : String)
  deriving DecidableEq, Repr

/-! ## The host port (chapter 02) -/

/-- A completion entry before it is posted (Table 10a of ch. 02). -/
structure Completion where
  handle : Nat := 0
  status : Nat := 0
  epoch : Nat := 0
  cookie : W64 := 0
  result : W64 := 0
  /-- CVEC of the command; none for 0xFFFF; vector 0 for the postings of R38 and R92 (R85). -/
  cvec : Option Nat := none
  deriving DecidableEq, Repr

/-- A configured completion ring (R84, R86). -/
structure Ring where
  base : Nat
  entries : Nat
  writeback : Nat
  k : Nat
  t : Nat
  deriving DecidableEq, Repr

/-- The STATE of a fast-path slot with what it was armed with (Table 6 of ch. 02, R90). `weights` is R91's load. -/
structure Slot where
  state : Nat := 0
  handle : Nat := 0
  weights : Bool := false
  deriving DecidableEq, Repr

/-- What a function's BAR0 holds (R65, Tables 2 to 6 of ch. 02). -/
structure FnState where
  lastTag : W16 := 0
  replyReady : Bool := false
  busy : Bool := false
  ring : Option Ring := none
  head : Nat := 0
  tail : Nat := 0
  phase : Bool := true
  overflow : List Completion := []
  /-- Entries pending per vector under coalescing (R86). -/
  waiting : Table Nat := []
  slots : Table Slot := []
  deriving DecidableEq, Repr

/-- The PCIe features of Table 1 of ch. 02, those that H0 has and those that it lacks. -/
inductive PcieCap where
  | laneReversal | polarityInversion | extendedTag | tenBitTag | relaxedOrdering | ecrc | sriov | ari | msix | aer | flr | ptm
  | msi | intx | aspmL0s | aspmL1 | aspmL1Substates | ats | pri | pasid | resizableBar
  deriving DecidableEq, Repr

/-- What the configuration space of H0's functions shows (R56, R57): IDs, rates in units of 0.1 GT/s, widths, payload and
read sizes in bytes, MSI-X table sizes, and the capabilities that are there; one that Table 1 does not support is absent. -/
structure PciConfig where
  vendor : W16 := Config.vendorId
  devicePf : W16 := 0x2014
  deviceVf : W16 := 0x2015
  rates : List Nat := [25, 50, 80, 160, 320]
  widths : List Nat := [16, 8, 4]
  payloads : List Nat := [128, 256, 512]
  maxRead : Nat := 4096
  vfs : Nat := 16
  vectorsPf : Nat := 64
  vectorsVf : Nat := 16
  caps : List PcieCap := [.laneReversal, .polarityInversion, .extendedTag, .tenBitTag, .relaxedOrdering, .ecrc, .sriov, .ari,
    .msix, .aer, .flr, .ptm]
  deriving DecidableEq, Repr

/-- The host port: configuration space (R56, R57), the width and rate that H0 trained to (R350; log 117), SR-IOV enable (R59), the event vector (R100), the functions and host memory (R58). -/
structure HostPort where
  vfEnable : Bool := false
  eventVector : Nat := 1
  fns : Table FnState := []
  linkUp : Bool := true
  config : PciConfig := {}
  width : Nat := 16
  rate : Nat := 320
  deriving DecidableEq, Repr

/-! ## Handles and the steward (chapters 02 and 14) -/

/-- The states that HANDLE_QUERY reports (Table 10 of ch. 02). -/
inductive HState where
  | pending | queued | running | held | stopped | committed | discarded | complete | ended
  deriving DecidableEq, Repr

/-- What a handle's long operation works on. -/
inductive LongOp where
  | none
  | step
  | alloc (object : Nat)
  | move (object : Nat)
  | fill (object first count : Nat) (pattern : W32)
  | copy (src dst : DescWord) (cvt : Nat)
  | pelForm (peloton : Nat)
  | pelLap (peloton : Nat)
  | pelFrog (peloton : Nat)
  | session (session : Nat)
  | call (call : Nat)
  | kv
  | replay
  | spare (core spare : Nat)
  | update
  | commit
  | revert
  | ucode (pair : Nat)
  | switch
  | recal (port : Nat)
  | train (port : Nat)
  | stack (stack : Nat)
  | far (port : Nat)
  | power
  | save
  deriving DecidableEq, Repr

/-- An issued handle (R79 to R83): who gets its entry, its state and, once it has ended, its status. -/
structure HandleRec where
  fn : Nat
  cookie : W64
  cvec : W16
  part : Option Nat
  kind : Nat
  op : LongOp := .none
  state : HState := .pending
  status : Nat := 0
  /-- Still owes its completion entry (R81). -/
  owed : Bool := true
  deriving DecidableEq, Repr

/-- The device's life (Table 7 of ch. 15): held in reset, boot ROM recovery mode (R602), steward ready. -/
inductive Life where
  | held | recovery | ready
  deriving DecidableEq, Repr

/-- The standby cluster (R552 to R557). -/
inductive Standby where
  | healthy | testing | none
  deriving DecidableEq, Repr

/-- Phases of a live update (Table 8 of ch. 14). -/
inductive UpdatePhase where
  | idle | follow | handedOver
  deriving DecidableEq, Repr

/-- A COUNTER_SET waiting for a tick edge (R563): scope true for a core counter. -/
structure CounterWord where
  core : Bool
  index : Nat
  word : W64
  deriving DecidableEq, Repr

/-- The steward: counters of handles, tick, clusters, updates (R39, R40, R79, R80, R552 to R557). -/
structure Steward where
  life : Life := .ready
  seq : Table Nat := []
  generation : Table Nat := []
  handles : Table HandleRec := []
  tick : W64 := 0
  period : Nat := 250
  nextPeriod : Option Nat := none
  /-- The acting cluster is on XD1 (after a takeover). -/
  onXd1 : Bool := false
  standby : Standby := .healthy
  image : FwImage := Config.factoryImage
  standbyImage : FwImage := Config.factoryImage
  oldImage : Option FwImage := none
  phase : UpdatePhase := .idle
  switchPending : Bool := false
  revertPending : Bool := false
  counterWords : List CounterWord := []
  /-- The event vector is to be raised at the next tick edge (R546). -/
  eventDue : Bool := false
  deriving DecidableEq, Repr

/-! ## Memory tiers (chapter 09) -/

/-- A tier-map entry (Table 2 of ch. 09); absence is VALID = 0. -/
structure TierEntry where
  tier : Nat
  part : Nat
  object : Nat
  cls : Nat
  mig : Bool := false
  lost : Bool := false
  frame : Nat
  use : Nat
  /-- Waiting for a restore (R370): the frame row was lost and the backing copy is not yet written back. -/
  restoring : Bool := false
  deriving DecidableEq, Repr

/-- A memory object of a partition (R343, R373). -/
structure MemObject where
  first : Nat
  pages : Nat
  cls : Nat
  /-- Tiers of the pages that still wait for a frame, in page order from the next page on (R345). -/
  plan : List Nat := []
  readOnly : Bool := false
  backing : Option DescWord := none
  deriving DecidableEq, Repr

/-- Why a page moves: a demotion for reserved frames, a command's move, a promotion, a retirement (R349, R368). -/
inductive MoveKind where
  | demotion | command | promotion | retire
  deriving DecidableEq, Repr

/-- A page move waiting for a batch or under way (R349, R351). -/
structure Move where
  page : Nat
  tier : Nat
  kind : MoveKind
  handle : Nat := 0
  started : Bool := false
  frame : Nat := 0
  deriving DecidableEq, Repr

/-- An F port (R365, R561) with the width and rate, in units of 0.1 GT/s, that its link trained to (R350; log 117). -/
structure FarPort where
  linkUp : Bool := true
  inService : Bool := true
  frames : Nat := 524288
  restarting : Bool := false
  width : Nat := 16
  rate : Nat := 320
  deriving DecidableEq, Repr

/-- A stack: in service, the channel that STACK_RECAL retrains next (R355, R559). -/
structure Stack where
  inService : Bool := true
  recal : Option Nat := none
  deriving DecidableEq, Repr

/-- A T1 frame out of service (R368): the stacks, as a mask, over which its number counted when it was withdrawn (R355, R356), its
number there, and the stack of the row that failed. -/
structure Withdrawn where
  mask : Nat
  frame : Nat
  stack : Nat
  deriving DecidableEq, Repr

/-- The memory tiers of the device (R335 to R370). -/
structure Tiers where
  map : Table TierEntry := []
  reserve : Nat := 16
  withdrawn : List Withdrawn := []
  withdrawnHolding : List Nat := []
  promote : List Nat := []
  moves : List Move := []
  /-- Frames reserved for accepted commands, by 4 · partition + tier (R342). -/
  reserved : Table Nat := []
  far : Table FarPort := []
  stackList : Table Stack := []
  sweep : Nat := 0
  /-- Pages of T2 with a line that an expander has returned poisoned and that no write of the whole page has covered since (R364). -/
  poisoned : List Nat := []
  /-- Corrected errors of a row, which DARN_LIMIT bounds over 4,096 ticks: stack, row, errors, tick of the first (R367). -/
  rowErrors : List (Nat × Nat × Nat × Nat) := []
  /-- What is left of the tick's migration budgets, in bytes by route (R350). -/
  budget : Table Nat := []
  deriving DecidableEq, Repr

/-! ## Partitions, jobs and steps (chapters 01, 05, 13) -/

/-- The service state of a job (R508 to R515). -/
structure Job where
  pattern : Nat
  cls : Nat
  quads : W64
  banks : W64
  weight : Nat
  slice : Nat
  ctx : DescWord
  balance : Int := 0
  sliceLeft : Nat := 0
  holdsQuads : Bool := false
  lent : Option Nat := none
  overrun : Nat := 0
  carried : Nat := 0
  nextSet : Option (Nat × Nat × Nat) := none
  deriving DecidableEq, Repr

/-- The states of a step (Table 6 of ch. 01). -/
inductive StepState where
  | queued | running | held | stopped | committed | discarded
  deriving DecidableEq, Repr

/-- What an applied or skipped update staged of a bank's header (R194, R197 to R199, Table 6 of ch. 05). -/
structure BankStage where
  bank : Nat
  /-- The guard's decision: none before the bank's first update stitch, then apply or skip (Table 5 of ch. 05). -/
  applied : Option Bool := none
  /-- NaN blocks are taken as gradient +0 (ZERO_BLOCK). -/
  zeroed : Bool := false
  t : Nat := 0
  p1 : W32 := 0
  p2 : W32 := 0
  gs : W32 := 0
  nonfinMade : Nat := 0
  deriving DecidableEq, Repr

/-- What a step or KV_APPEND staged of a sequence (R319, R322, R323). -/
structure SeqStage where
  permit : BitVec 3 := 7
  space : Nat
  seq : Nat
  tokens : Nat
  pages : List Nat
  copyPage : Option Nat := none
  copied : Bool := false
  table : List Nat
  tags : List W64 := []
  entries : List Nat := []
  /-- Layers whose rows have landed. -/
  layers : List Nat := []
  deriving DecidableEq, Repr

/-- A parked contribution staged or published (R488): key (TENSOR_ID, CALL), FP32 values. -/
structure Park where
  pel : Nat
  tensor : W32
  call : Nat
  values : List W32
  deriving DecidableEq, Repr

/-- A peloton's call on this member (R466, R470). -/
inductive CallPhase where
  | waiting | scatter | gather | done
  deriving DecidableEq, Repr

/-- The member's state of one call of a step: passes, tags, totals, exclusion (R466 to R488). -/
structure CallRun where
  call : Nat
  word : BitVec 512
  core : Nat
  issued : Bool := false
  phase : CallPhase := .waiting
  pass : Nat := 1
  /-- Blocks of this pass finished on this member, by chunk. -/
  done : Table Nat := []
  /-- Tags that blocks have at the end of this pass: chunk, block, tag (Table 7 of ch. 12). -/
  tags : List (Nat × Nat × Nat) := []
  /-- Blocks of the own chunk that this member finished in this pass: block, tag, element codes. -/
  finished : List (Nat × Nat × List Nat) := []
  /-- Blocks that go round in this pass, by chunk, with the scale code they start from; none in pass 1: all. -/
  again : Option (List (Nat × Nat × Nat)) := none
  /-- The agreed scale of the call. -/
  agreed : Nat := 0
  /-- Ranks whose message of the call has been taken (KIND 2 to 4). -/
  heard : List Nat := []
  /-- Totals by chunk and pass: (chunk, pass, s, c, NaN blocks, amax). -/
  totals : List (Nat × Nat × W32 × W32 × Nat × W32) := []
  /-- Tick edges since the first RED_SCATTER of the call arrived, its own cores not having issued it (R487). -/
  waited : Nat := 0
  quiet : Nat := 0
  /-- A message of the call has been taken: its sender runs the call too (R218). -/
  joined : Bool := false
  excluded : Bool := false
  /-- A thinned call, complete at issue: it runs no reduction (R493). -/
  thinned : Bool := false
  late : Nat := 0
  nanSeen : Bool := false
  dropped : Nat := 0
  /-- KIND 3: slots of the rows that each member sent, in their order (R499, R500). -/
  got : Table (List Nat) := []
  deriving DecidableEq, Repr

/-- What a step keeps of a peloton at its admission: layout epoch, sync count and policy (R493, R494, R503). -/
structure PelMark where
  num : Nat
  layout : Nat
  sync : Nat
  window : Nat
  peerLimit : Nat
  latePolicy : Nat
  thin : Nat
  headroom : Nat
  deriving DecidableEq, Repr

/-- What a replay is to compare (R217 to R219). -/
structure ReplayInfo where
  subs : List (W32 × DescWord) := []
  /-- Input and output digests of the record. -/
  ins : List (W32 × W64) := []
  outs : List DescWord
  report : DescWord
  logged : List (W32 × W64)
  late : List (Nat × Nat × Nat × Nat) := []
  /-- The logged step is committed: the parks that it added are used up (R488). -/
  parkGone : Bool := false
  resident : Bool := false
  deriving DecidableEq, Repr

/-- What a step did to the resident rows of one of its cores (R164): rows whose committed content lies in a copy, rows that
it made resident, rows whose ACC 3 commit ends their residence. -/
structure RowMarks where
  copied : List Nat := []
  fresh : List Nat := []
  final : List Nat := []
  deriving DecidableEq, Repr

/-- The length and the block table of a sequence as they were at a step's admission (R48, R300). -/
structure SeqView where
  space : Nat
  seq : Nat
  length : Nat
  table : List Nat
  deriving DecidableEq, Repr

/-- A step (R45 to R54, R202 to R210). -/
structure Step where
  job : Nat
  state : StepState := .queued
  epoch : Nat := 0
  attempt : Nat := 0
  retry : Option Nat := none
  words : List W32 := []
  seed : W64 := 0
  det : Bool := false
  table : List Binding := []
  /-- The conditions of R206, bits [6:0] of RESULT. -/
  conds : BitVec 16 := 0
  /-- The completion status when a fault or a host action ended it. -/
  status : Nat := 0
  result : W64 := 0
  suspended : Bool := false
  frogging : Bool := false
  holds : List Nat := []
  banks : List BankStage := []
  amax : Table W32 := []
  seqs : List SeqStage := []
  parksNew : List Park := []
  /-- Keys of the parks that it has added: peloton, TENSOR_ID, call. -/
  parksUsed : List (Nat × W32 × Nat) := []
  /-- The committed amax history and the published parks as they were at its admission (R48, R482, R488). -/
  amaxSeen : Table W32 := []
  parksSeen : List Park := []
  /-- Spill windows reserved for its codec calls: session, offset, bytes (R409). -/
  spills : List (Nat × Nat × Nat) := []
  calls : List CallRun := []
  pelotons : List PelMark := []
  /-- Summaries handed to merges: merge, slot, SREG_OUT, value (R250). -/
  merges : List (Nat × Nat × Nat × W64) := []
  tickStart : W64 := 0
  slot : Option (Nat × Nat) := none
  replayOf : Option ReplayInfo := none
  guardAct : Nat := 0
  clip : W32 := 0x3F800000
  norm : W32 := 0
  nonfinBlocks : Nat := 0
  /-- The replay log that was in force at its admission, by address (R214), and the offset of its record there, when one was
  written (R215). -/
  log : Option Nat := none
  record : Option Nat := none
  /-- Resident rows, by pattern core slot (R164). -/
  rows : Table RowMarks := []
  /-- Sequences that its walks read, as they were at its admission. -/
  views : List SeqView := []
  /-- Late decisions for the replay log: peloton, call, rank, 0 parked, 1 dropped, 2 added from a park. -/
  lateLog : List (Nat × Nat × Nat × Nat) := []
  deriving DecidableEq, Repr

/-- A bank of master weights (R189, Table 3 of ch. 05). -/
structure Bank where
  header : Nat
  elements : Nat
  opt : Nat
  work : Bool
  wfmt : Nat
  cur : Nat := 0
  t : Nat × Nat := (0, 0)
  p1 : W32 × W32 := (0x3F800000, 0x3F800000)
  p2 : W32 × W32 := (0x3F800000, 0x3F800000)
  skipped : Nat := 0
  nonfinMade : Nat := 0
  w : DescWord × DescWord
  m : DescWord × DescWord
  v : DescWord × DescWord
  k : DescWord × DescWord
  deriving DecidableEq, Repr

/-- A counting semaphore or a lock of a partition (R525, R526). A waiter is (core, lane). -/
structure Sem where
  value : Nat := 0
  waiters : List (Nat × Nat) := []
  deriving DecidableEq, Repr

structure Lock where
  holder : Option Nat := none
  bound : Nat := 0
  /-- Waiters in the order in which they began: (step handle, core, lane). -/
  waiters : List (Nat × Nat × Nat) := []
  loan : Bool := false
  deriving DecidableEq, Repr

/-- The replay log of a partition (R214). -/
structure ReplayLog where
  addr : Nat
  size : Nat
  offset : Nat := 64
  wraps : Nat := 0
  deriving DecidableEq, Repr

/-! ## KV spaces (chapter 08) -/

/-- A page directory entry (Table 7 of ch. 08). -/
structure KvPage where
  refs : Nat := 0
  pfx : Option Nat := none
  state : Nat := 0
  deriving DecidableEq, Repr

/-- A sequence record with its block table (Table 8 of ch. 08). -/
structure KvSeq where
  runHash : W64
  tailHash : W64
  table : List Nat := []
  length : Nat := 0
  parent : Nat := 0xFFFF
  state : Nat := 1
  /-- The tags of its tokens, from which RUN_HASH and TAIL_HASH at a shorter length follow (R317, R326). -/
  tags : List W64 := []
  deriving DecidableEq, Repr

/-- A region of a space (R315). -/
structure KvRegion where
  tier : Nat
  base : Nat
  pages : Nat
  deriving DecidableEq, Repr

/-- A KV space (R314 to R316). Pages are keyed by page id. -/
structure KvSpace where
  control : Nat
  layers : Nat
  kvHeads : Nat
  dh : Nat
  format : Nat
  regions : List KvRegion
  maxSeq : Nat
  maxPages : Nat
  prefixOn : Bool
  prefixMax : Nat
  salt : W64
  seqs : Table KvSeq := []
  pages : Table KvPage := []
  deriving DecidableEq, Repr

/-- A prefix-table entry (Table 9 of ch. 08); `idle` orders eviction: smaller has been idle longer (R327). -/
structure PrefixEntry where
  hash : W64
  page : Nat
  part : Nat
  space : Nat
  parent : Nat
  root : Bool
  committed : Bool
  owner : Nat := 0
  idle : Nat := 0
  deriving DecidableEq, Repr

/-! ## Pelotons (chapter 12) -/

/-- A peloton message as the links deliver it (R427, R472). -/
structure CollMsg where
  mtype : Nat
  format : Nat := 0
  src : W16 := 0
  stepEpoch : Nat := 0
  layoutEpoch : Nat := 0
  header : BitVec 512
  body : List Byte := []
  /-- Tick edges since its arrival (R218, R487). -/
  age : Nat := 0
  /-- The port by which it came and the header of its first flit, for an ANSWER after it was held (R434, R493). -/
  port : Nat := 0
  head : BitVec 192 := 0
  deriving DecidableEq, Repr

/-- A command lap in progress (R492, R495, R497). -/
inductive Lap where
  /-- `lap`: 0 accepted, 1 the first lap runs, 2 switched, 3 the elements move; `got` counts elements received. -/
  | reshard (epoch : Nat) (shards : List (BitVec 256)) (pairs : List ReshardPair) (lap got : Nat)
  /-- The header, the member table, the layout epoch and DESC16 before the substitution, for a refused token (R473). -/
  | subst (header : BitVec 512) (members : List W64) (layout desc16 : Nat)
  deriving DecidableEq, Repr

/-- A peloton of a partition (R461 to R503, Tables 1 to 3 of ch. 12). -/
structure Peloton where
  header : BitVec 512
  members : List W64
  shards : List (BitVec 256)
  layout : Nat
  desc16 : Nat
  window : Nat
  peerLimit : Nat
  latePolicy : Nat
  thin : Nat
  headroom : Nat
  sync : Nat := 0
  formed : Bool := false
  handle : Nat := 0
  lap : Option Lap := none
  lapHandle : Nat := 0
  lapWaited : Nat := 0
  /-- A group frog in progress, which a re-shard that drains does not hold off (R496, R497): its step epoch, its handle, the tick
  edges that it has waited. -/
  frog : Option Nat := none
  frogHandle : Nat := 0
  frogWaited : Nat := 0
  inbox : List CollMsg := []
  lastCommitted : Option Nat := none
  late : Nat := 0
  repass : Nat := 0
  stale : Nat := 0
  disagree : Nat := 0
  dropped : Nat := 0
  deriving DecidableEq, Repr

/-! ## The codec (chapter 10) -/

/-- A picture of a video session on its way to the output ring (Table 7 of ch. 10). -/
structure Picture where
  /-- Pool entry; 64 for none. -/
  pool : Nat
  time : W64
  order : Nat := 0
  /-- Blocks written under R394. -/
  blocks : Nat := 0
  err : Bool := false
  hashFail : Bool := false
  irap : Bool := false
  ptype : Nat := 0
  /-- Needed for output. -/
  shown : Bool := true
  addr : Nat := 0
  length : Nat := 0
  /-- The state of the stream that it was decoded under. -/
  stream : W64 := 0
  deriving DecidableEq, Repr

/-- A codec session of a partition (R386, R380 to R394). -/
structure Session where
  kind : Nat
  cls : Nat
  /-- Its pair or pair set; empty once R385 or a fault of the pair has stopped it. -/
  pairs : List Nat
  handle : Nat
  entries : List Nat := []
  buffer : DescWord := 0
  pitch : Nat := 0
  ringBase : Nat := 0
  ringSize : Nat := 0
  inWriteback : Nat := 0
  write : Nat := 0
  consumed : Nat := 0
  outBase : Nat := 0
  outEntries : Nat := 0
  outIndex : Nat := 0
  /-- Pool entries of the output entries that have been posted and not returned; 64 for none. -/
  posted : List Nat := []
  outPhase : Bool := true
  outSeq : Nat := 0
  areaBase : Nat := 0
  areaSize : Nat := 0
  areaWrite : Nat := 0
  areaFree : Nat := 0
  tensorOut : DescWord := 0
  tensorSlot : Nat := 0
  offset : W32 := 0
  gain : W32 := 0
  cvt : Nat := 0
  starve : Nat := 4
  opPoint : Nat := 0
  preGrain : Bool := false
  enc : EncParams := {}
  spillBase : Nat := 0
  spillSize : Nat := 0
  spills : List (Nat × Nat) := []
  /-- Pictures waiting to be encoded: frame buffer, TIMESTAMP, force IRAP (R417). -/
  frames : List (Nat × W64 × Bool) := []
  /-- The picture being encoded, and how many pictures at the front of the queue are left of its group (R378). -/
  encoding : Option (Nat × W64 × Bool) := none
  group : Nat := 0
  stream : W64 := 0
  pictures : Nat := 0
  starves : Nat := 0
  bitErrors : Nat := 0
  blocked : Nat := 0
  starving : Bool := false
  starveTicks : Nat := 0
  abandoned : Bool := false
  /-- By pair: the stamp since which it has waited there (R387). -/
  since : Table Nat := []
  /-- The unit that the entropy engine has parsed and the pixel engine has not finished: what the standard makes of it,
  its payload, EOS (R381, R387). -/
  parsed : Option (W64 × List Byte × Bool) := none
  /-- The picture being decoded, pictures decoded and not yet due for output, pictures due. -/
  current : Option Picture := none
  waiting : List Picture := []
  due : List Picture := []
  /-- Pictures decoded without being due for output, which a later unit may show. -/
  hidden : List Picture := []
  deriving DecidableEq, Repr

/-- An activation call in progress (R410, R413). -/
structure ActCall where
  word : BitVec 512
  src : DescWord
  dst : DescWord
  ref : DescWord
  bound : DescWord
  session : Nat
  handle : Nat := 0
  step : Option Nat := none
  /-- The core that issued it, for its residency figures (R413). -/
  core : Nat := 0
  /-- The base of its spill window. -/
  spill : Nat := 0
  /-- A replay that may not write its destination: it only completes (R217). -/
  dry : Bool := false
  /-- It has ended; the units in progress of its pairs still finish. -/
  ended : Bool := false
  /-- By pair of the set: segments finished, bytes used of its share, bytes used of its part of the spill window (R408). -/
  done : Table Nat := []
  used : Table Nat := []
  spilled : Table Nat := []
  total : Nat := 0
  /-- The vectors of the last frame coded, by plane and slab: predictors of the search (R395). -/
  vectors : Table (List (Int × Int)) := []
  deriving DecidableEq, Repr

/-- A pool table entry (Table 6 of ch. 10). -/
structure PoolEntry where
  addr : Nat
  order : Nat := 0
  session : Nat
  mark : Nat := 0
  output : Bool := false
  busy : Bool := false
  err : Bool := false
  slots : BitVec 8 := 0
  deriving DecidableEq, Repr

/-- A codec pair (R374, R387, R558). Session slots name (partition, session). -/
structure Pair where
  pool : Table PoolEntry := []
  slots : Table (Nat × Nat) := []
  running : Option (Nat × Nat) := none
  /-- The activation call whose segment is the running unit. -/
  call : Nat := 0
  ucode : FwImage := Config.factoryUcode
  loading : Option (FwImage × Nat) := none
  deriving DecidableEq, Repr

/-- A partition (R504 to R507) with everything it owns. -/
structure Partition where
  desc : BitVec 1024
  epoch : Nat := 1
  objects : Table MemObject := []
  patterns : Table PatternImage := []
  jobs : Table Job := []
  steps : Table Step := []
  discardedEpochs : List (Nat × Nat × Nat) := []
  banks : Table Bank := []
  amax : Table W32 := []
  parks : List Park := []
  log : Option ReplayLog := none
  /-- The logs that steps were admitted under, by address (R214). -/
  logs : Table ReplayLog := []
  sems : Table Sem := []
  locks : Table Lock := []
  t3 : Table Nat := []
  spaces : Table KvSpace := []
  pelotons : Table Peloton := []
  sessions : Table Session := []
  calls : Table ActCall := []
  /-- Bytes written in each sentinel or residency area, by its address (R180, R371). -/
  areas : Table Nat := []
  t1Quota : Nat := 0
  t2Quota : Nat := 0
  deriving DecidableEq, Repr

/-! ## Cores and compute dies (chapters 01, 04, 06, 07, 13, 15) -/

/-- What a lane of a core waits on (Table 4 of ch. 13). -/
inductive WaitOn where
  | sem (n : Nat) | lock (n : Nat) | merge (n : Nat) | call (n : Nat) | halo (n : Nat) | amax (n : Nat) | stem | ring
  deriving DecidableEq, Repr

/-- A micro-batch lane of a core: next stitch-list index, what it waits on, whether that entry's stitch has started,
whether the lane has passed the final fence. -/
structure LaneState where
  next : Nat := 0
  waitOn : Option WaitOn := none
  started : Bool := false
  finished : Bool := false
  /-- SREG[BOX_SREG] as it was at the start of a crop-and-resize stitch (R288). -/
  box : W64 := 0
  deriving DecidableEq, Repr

/-- An attention walk in progress on a core (R293 to R309): the key block that comes
next, the hop of a ring walk, what B_STAGE holds. -/
structure Walk where
  next : Nat := 0
  /-- Visited pairs so far, and the generated stitches of the present pair's group that have reached their commit points (R293,
  R303). -/
  pair : Nat := 0
  phase : Nat := 0
  hop : Nat := 0
  /-- The walk has begun: its rows stand at R301's start, or its Dr are computed, in the first copy of B_STAGE (R303). -/
  begun : Bool := false
  /-- The hop and key block that the buffers of the present pair in B_STAGE hold (R297). -/
  fetched : Option (Nat × Nat) := none
  /-- The chunk of a ring hop after the first, and whether its accumulators are here too (R310, R313). -/
  chunk : Option (List Byte) := none
  grads : Bool := false
  /-- Accumulators of dK and dV of a backward walk, by key row (R306). -/
  dk : Table (List W32) := []
  dv : Table (List W32) := []
  deriving DecidableEq, Repr

/-- Why a core is asked to stop (Table 7 of ch. 04, R516, R549). -/
inductive StopKind where
  | schedule | frog | preempt | host | swap
  deriving DecidableEq, Repr

/-- A sample that the sentinel holds (R178): weight TENSOR_ID, formats, the captured values, the sentinel's inputs. -/
structure Sample where
  tensor : W32
  wfmt : Nat
  afmt : Nat
  captured : List W32
  reference : List W32
  /-- Input regions that it holds, as (first bit of `State.mem`, bits). -/
  held : List (Nat × Nat) := []
  deriving DecidableEq, Repr

/-- A core's sentinel figures of one weight TENSOR_ID in a step (R180, Table 8 of ch. 04). -/
structure SentinelRec where
  tensor : W32
  wfmt : Nat
  afmt : Nat
  sampled : Nat := 0
  skipped : Nat := 0
  maxRel : W32 := 0
  elements : Nat := 0
  bins : Table Nat := []
  deriving DecidableEq, Repr

/-- Residency figures of one TENSOR_ID (Table 10 of ch. 09). -/
structure Residency where
  tensor : W32
  fate : Nat
  produced : Nat := 0
  stored : Nat := 0
  bytesOut : Nat := 0
  bytesIn : Nat := 0
  tier : Nat := 0
  workNs : Nat := 0
  stall : Nat := 0
  deriving DecidableEq, Repr

/-- The state that a stop saved of a core: the context record and the footprint lie in memory (R511, R512, R518); kept
here is what the record does not hold. -/
structure Saved where
  step : Nat
  part : Nat
  slot : Nat
  lanes : Table LaneState
  walk : Table Walk := []
  sentinel : List SentinelRec := []
  residency : List Residency := []
  /-- Waits at ready fences by layer so far, and the layers whose weight-late event has been raised in the step (R361). -/
  lateLayers : List Nat := []
  layerWaits : Table Nat := []
  /-- True: footprint in the state-save area (class-0 pre-emption); false: in the context object. -/
  inSlot : Bool
  deriving DecidableEq, Repr

/-- A physical core (Table 2 of ch. 01). -/
structure Core where
  inService : Bool := true
  sregs : Table W64 := []
  resident : List Nat := []
  /-- Committed resident rows of a step that was frogged while its state was saved: they go back before the core is used
  again (R164, Table 6 of ch. 05). -/
  rowsBack : List (Nat × List Byte) := []
  /-- Rows whose ACC 3 commit came while another step was running on the core or saved there, each with that step: they leave the
  resident set and are cleared once it is gone (R48, R164). -/
  rowsFinal : List (Nat × Nat) := []
  /-- The row map of the accumulator store: which of its 2,304 physical rows holds a row, where it is not the row of the same
  number; and the physical rows that serve as staging rows, lowest first (R160, R162; log 119). -/
  rowMap : Table Nat := []
  staging : List Nat := (List.range 256).map (2048 + ·)
  /-- The values that staging rows keep of the rows that they replaced, by physical row; +0 where none is listed. -/
  stagingRows : Table (List Byte) := []
  walk : Table Walk := []
  amax : W32 := 0
  step : Option Nat := none
  part : Nat := 0
  slot : Nat := 0
  lanes : Table LaneState := []
  /-- Stitch-list index of the stitch whose weights the active registers hold, and which of its passes (R91, R158). -/
  weights : Option Nat := none
  pass : Nat := 0
  /-- The 128 × 128 active registers of 16 bits, that of row r and column n at 128·r + n, and the shadow registers with the
  stitch and pass that they are loaded for; one that is not listed holds nothing of a weight tensor (R141, R156, R171). -/
  active : Table Nat := []
  shadow : Table Nat := []
  shadowFor : Option (Nat × Nat) := none
  /-- The array waits on the weight-ready fence (R157). -/
  fenced : Bool := false
  stop : Option StopKind := none
  npOpen : Option Nat := none
  movers : List Nat := []
  saving : Bool := false
  restoring : Bool := false
  saved : List Saved := []
  sample : Option Sample := none
  sentinel : List SentinelRec := []
  residency : List Residency := []
  lateLayers : List Nat := []
  layerWaits : Table Nat := []
  /-- Its core-degraded event has been raised (R548). -/
  ceRaised : Bool := false
  deriving DecidableEq, Repr

/-- A compute die: gear and its causes (R575 to R582), the stem engine (R275). -/
structure Cd where
  gear : Nat := 15
  thermal : Nat := 15
  power : Nat := 15
  target : Nat := 15
  dips : List Nat := []
  /-- A setpoint request on AVSBus for this gear, and the gear whose setpoint the rail has (R577). -/
  avs : Option Nat := none
  setpoint : Nat := 15
  stem : List (Nat × Nat) := []
  stemFault : Bool := false
  deriving DecidableEq, Repr

/-- The cores and compute dies (Table 2 of ch. 01). -/
structure Cores where
  cores : Table Core := []
  /-- Which core holds a position, where it is not the core of reset (R4, R5). -/
  place : Table Nat := []
  cds : Table Cd := []
  /-- Dies that freewheel, and dies whose auxiliary PLL drives them (R581, R582). -/
  freewheel : List Nat := []
  onAux : List Nat := []
  /-- System references that are lost (R582, R583). -/
  refsLost : List Nat := []
  deriving DecidableEq, Repr

/-! ## Links (chapter 11) -/

/-- Port states (Table 6 of ch. 11). -/
inductive PortState where
  | down | training | up4 | up3 | recal | fenced
  deriving DecidableEq, Repr

/-- A virtual channel of a port: its binding, the sender's credits, the receive buffer. -/
structure Vc where
  bound : Option (Nat × Nat) := none
  credits : Nat := 0
  first : Bool := false
  buffer : Nat := 0
  /-- Credits that the partner holds for this VC, and credits waiting to be returned (R430, R431). -/
  partner : Nat := 0
  owed : Nat := 0
  /-- The message being received: header of its first flit and payload so far (R427). -/
  rx : Option (BitVec 192 × List Byte) := none
  /-- The rest of a message that failed a check is being discarded (R459). -/
  discarding : Bool := false
  deriving DecidableEq, Repr

/-- A flit that waits to be sent: once it goes out, it has its 19 chunks and its CRC (R423, R425). -/
structure TxFlit where
  header : BitVec 192
  payload : List Byte := []
  crc : W64 := 0
  deriving DecidableEq, Repr

/-- A link port (R418 to R446). -/
structure Port where
  state : PortState := .down
  lanes : BitVec 4 := 0
  nextSeq : Nat := 0
  expectSeq : Nat := 0
  replay : List TxFlit := []
  txq : List TxFlit := []
  vcs : Table Vc := []
  lastVc : Nat := 0
  /-- The VC whose credits were returned last (R431). -/
  lastCr : Nat := 14
  /-- A fast retrain is under way: the port carries nothing until it ends (R439). -/
  retraining : Bool := false
  /-- The partner asks for 106.25 GBd (R419). -/
  slow : Bool := false
  /-- By SEQ of its first flit, the call and attempt of a call's message that this port has sent (R434, R473). -/
  sent : Table (Nat × Nat) := []
  nakSent : Bool := false
  replays : Nat := 0
  fastRetrains : Nat := 0
  peerId : Option W16 := none
  faultyLane : Option Nat := none
  recalLane : Option Nat := none
  recalHandle : Nat := 0
  trainHandle : Nat := 0
  echoes : List Nat := []
  latency : Nat := 0
  fencedByPeer : Bool := false
  violations : Table Nat := []
  answersIn : Table Nat := []
  eventThisTick : Bool := false
  deriving DecidableEq, Repr

/-- The ports, the link group descriptor and tick alignment (R447 to R455). -/
structure Links where
  ports : Table Port := []
  group : BitVec 128 := 0xFFFF000000000001F400000000000000
  nextGroup : Option (BitVec 128) := none
  misses : Nat := 0
  lastTickLo : Option Nat := none
  phaseErr : Int := 0
  syncLost : Bool := false
  deriving DecidableEq, Repr

/-! ## Faults, counters, events (chapter 14) -/

/-- A fault on the fault lines (R533, R534). -/
structure FaultIn where
  code : Nat
  cls : Nat
  sev : Nat
  die : Nat := 31
  unit : Nat := 0xFFFF
  detail : W64 := 0
  handle : Nat := 0
  /-- Partitions whose cores, stacks, virtual channels, sessions or pages it touches (R537). -/
  parts : List Nat := []
  deriving DecidableEq, Repr

/-- The first-fault record (Table 4 of ch. 14). -/
structure FirstFault where
  valid : Bool := false
  overflow : Bool := false
  later : Nat := 0
  code : Nat := 0
  cls : Nat := 0
  sev : Nat := 0
  die : Nat := 0
  unit : Nat := 0
  pvalid : Bool := false
  part : Nat := 0
  detail : W64 := 0
  tick : W64 := 0
  offsetNs : W32 := 0
  handle : Nat := 0
  deriving DecidableEq, Repr

/-- An event record (Table 6 of ch. 14). -/
structure EventRec where
  id : Nat
  seq : Nat
  cls : Nat := 0
  sev : Nat := 0
  die : Nat := 31
  unit : Nat := 0xFFFF
  pvalid : Bool := false
  part : Nat := 0
  tick : W64 := 0
  offsetNs : W32 := 0
  handle : Nat := 0
  data : BitVec 256 := 0
  deriving DecidableEq, Repr

/-- A counter of Table 9 of ch. 14. -/
structure Counter where
  word : W64
  live : Nat := 0
  snap : Nat := 0
  deriving DecidableEq, Repr

/-- The fault collector, the event log and the counters (R532 to R546, R562 to R565). -/
structure Collector where
  lines : List FaultIn := []
  first : FirstFault := {}
  partOpen : List Nat := []
  safe : Bool := false
  stewardLost : Bool := false
  recordLost : Bool := false
  log : List EventRec := []
  nextSeq : Nat := 0
  overruns : Nat := 0
  /-- Core counter k of core i has key 16·i + k. An absent counter is at its default word with value 0. -/
  coreCtrs : Table Counter := []
  devCtrs : Table Counter := []
  telemetry : List Byte := []
  alert : Bool := false
  deriving DecidableEq, Repr

/-! ## Power and trust (chapters 15 and 16) -/

/-- The retained set of the record in force (Table 4a of ch. 16). -/
structure Settings where
  power : W64 := 0xBB8C96BDC00000
  mode : Nat := 0
  migShare : List Nat := [50, 50, 50, 50, 50]
  darnLimit : Nat := 8
  ceLimit : Nat := 64
  genCeil : Table Nat := []
  slotB : Bool := false
  ucodeB : Bool := false
  counters : Table W64 := []
  spares : List (Nat × Nat) := []
  darns : Table (List W64) := []
  deriving DecidableEq, Repr

/-- The ceilings that the first boot record sets: GENERATION 1 plus 63 (R607; log 8). -/
def bootCeilings : Table Nat := (List.range 17).map fun k => (k, 64)

/-- IMAGE_VERSION of an image header (Table 3 of ch. 16). -/
def imageVersion (f : FwImage) : W32 :=
  (f.header.getD 11 0 ++ f.header.getD 10 0 ++ f.header.getD 9 0 ++ f.header.getD 8 0 : BitVec 32)

/-- A trigger of a settings record (R606) with the handle that waits for it. -/
structure Trigger where
  handle : Nat := 0
  save : Bool := false
  deriving DecidableEq, Repr

/-- The settings flash, the fuses, the record in force (Tables 1, 2, 4, 4a of ch. 16). -/
structure Trust where
  imageA : FwImage := Config.factoryImage
  imageB : FwImage := { header := [], body := [] }
  ucodeA : FwImage := Config.factoryUcode
  ucodeB : FwImage := { header := [], body := [] }
  cert : List Byte := Config.factoryCert
  ownerKeys : Table (List Byte) := []
  ownerDigests : Table (BitVec 512) := []
  revoked : BitVec 4 := 0
  svn : Nat := 0
  inForce : Settings := { genCeil := bootCeilings }
  inForceSeq : Nat := 1
  inForceFw : W32 := imageVersion Config.factoryImage
  half : Nat := 0
  used : Nat := 4096
  stale : Bool := false
  failed : Nat := 0
  /-- The retained set as commands have changed it, and the triggers of the record being written and of the next. -/
  current : Settings := { genCeil := bootCeilings }
  writing : Option (Settings × List Trigger) := none
  retried : Bool := false
  next : List Trigger := []
  actingB : Bool := false
  fallback : Bool := false
  uncommitted : Bool := false
  commitHandle : Option Nat := none
  deriving DecidableEq, Repr

/-- Rails and pins (R571 to R574, R614, R615). -/
structure Board where
  power : W64 := 0xBB8C96BDC00000
  nextPower : Option W64 := none
  /-- Rails below warning: rail, whether its supply-dip record is written. -/
  dips : Table Bool := []
  collapsed : List Nat := []
  straps : Straps := {}
  tapIr : Nat := 0
  deriving DecidableEq, Repr

/-! ## The whole machine -/

/-- What the block sends out of its boundary (log 5). -/
inductive Output where
  | msix (fn vector : Nat)
  | aerPoisoned (fn : Nat)
  | completerAbort (fn : Nat)
  | readData (fn : Nat) (value : W64)
  | flit (port : Nat) (flit : TxFlit)
  | nak (port ackSeq : Nat)
  | fence (port : Nat)
  | control (port mtype : Nat) (payload : BitVec 256)
  | marker (port accum tickLo : Nat)
  | avs (die mv : Nat)
  | syncOut
  | bus (bytes : Option (List Byte))
  | tap (code : Nat)
  | h0Down
  deriving DecidableEq, Repr

/-- The state of the block. -/
structure State where
  /-- The queue of waiting commands, first in, first out. -/
  pending : List Instr := []
  /-- Index of the next free value: the model's own field (log 4). -/
  free : Nat := 0
  /-- Every byte memory of the block and the host memory it reaches, keyed by `Space.base` of Machine/Ops.lean. -/
  mem : Memory := []
  outbox : List Output := []
  host : HostPort := {}
  steward : Steward := {}
  tiers : Tiers := {}
  parts : Table Partition := []
  prefixes : Table PrefixEntry := []
  cores : Cores := {}
  links : Links := {}
  pairs : Table Pair := []
  collector : Collector := {}
  trust : Trust := {}
  board : Board := {}
  deriving DecidableEq, Repr

/-- The machine right after a power-on start-up (R589, R591, R592): no partition cast on, every table empty, every
register at the value its field map gives it or, where none is given, at the value the log names. -/
def State.reset : State := {}

end Sys2Proof.Machine
end

