-- ==== Sys2Proof/Machine/Ops.lean ====
section
/-!
DEFINITION. The named operations that the meanings share: bit fields, tables and memories, host writes and interrupts,
events and faults, handles, completion entries, message replies, the safe state.
-/
namespace Sys2Proof.Machine

/-! ## Bits and bytes (R11 of ch. 00: little-endian) -/

/-- Bits hi down to lo of a word, as a number. -/
def fld {n : Nat} (w : BitVec n) (hi lo : Nat) : Nat := (w.toNat >>> lo) % 2 ^ (hi + 1 - lo)

def bitAt {n : Nat} (w : BitVec n) (i : Nat) : Bool := w.getLsbD i

def w64 (n : Nat) : W64 := BitVec.ofNat 64 n
def w32 (n : Nat) : W32 := BitVec.ofNat 32 n

/-- The low k bytes of v, least significant first. -/
def leBytes : Nat → Nat → List Byte
  | 0, _ => []
  | k + 1, v => BitVec.ofNat 8 v :: leBytes k (v >>> 8)

/-- The number that little-endian bytes spell. -/
def leNat : List Byte → Nat
  | [] => 0
  | b :: bs => b.toNat + 256 * leNat bs

/-- The indices of the bits set in the low n bits of v. -/
def bitsOf (n v : Nat) : List Nat := (List.range n).filter fun i => v.testBit i

/-- The number whose set bits are the members of a list. -/
def maskOf (l : List Nat) : Nat := l.foldl (fun m i => m ||| 2 ^ i) 0

/-- A signed value from the low n bits. -/
def signed (n v : Nat) : Int := if v % 2 ^ n < 2 ^ (n - 1) then (v % 2 ^ n : Nat) else (v % 2 ^ n : Nat) - (2 ^ n : Nat)

def b2n (b : Bool) : Nat := if b then 1 else 0

def isSomeEq (o : Option Nat) (n : Nat) : Bool := o == some n

/-! ## Sparse tables -/

def tget? {α : Type} : Table α → Nat → Option α
  | [], _ => none
  | (k, v) :: t, i => if k = i then some v else tget? t i

def tget {α : Type} (t : Table α) (i : Nat) (d : α) : α := (tget? t i).getD d

def tset {α : Type} : Table α → Nat → α → Table α
  | [], i, v => [(i, v)]
  | (k, w) :: t, i, v => if i < k then (i, v) :: (k, w) :: t else if i = k then (i, v) :: t else (k, w) :: tset t i v

def tdel {α : Type} (t : Table α) (i : Nat) : Table α := t.filter fun p => p.1 != i

/-- Change the value at i, or the default where none is held. -/
def tmod {α : Type} (t : Table α) (i : Nat) (d : α) (f : α → α) : Table α := tset t i (f (tget t i d))

/-- Change the value at i where one is held. -/
def tupd {α : Type} (t : Table α) (i : Nat) (f : α → α) : Table α :=
  match tget? t i with
  | some v => tset t i (f v)
  | none => t

def tkeys {α : Type} (t : Table α) : List Nat := t.map Prod.fst

def tmap {α : Type} (t : Table α) (f : Nat → α → α) : Table α := t.map fun p => (p.1, f p.1 p.2)

/-- The lowest of 0 to n − 1 that a table does not hold. -/
def tfree {α : Type} (t : Table α) (n : Nat) : Option Nat := (List.range n).find? fun i => (tget? t i).isNone

def listMod {α : Type} (l : List α) (i : Nat) (f : α → α) : List α :=
  (List.range l.length).zip l |>.map fun p => if p.1 = i then f p.2 else p.2

/-! ## Memory -/

/-- The byte at an address. An unlisted address reads 0 (R338, R506). -/
def memRead : Memory → Nat → Byte
  | [], _ => 0
  | (k, b) :: m, a => if k = a then b else memRead m a

/-- Write one byte, keeping the canonical form: 0 is never listed. -/
def memSet : Memory → Nat → Byte → Memory
  | [], a, b => if b = 0 then [] else [(a, b)]
  | (k, c) :: m, a, b =>
    if a < k then (if b = 0 then (k, c) :: m else (a, b) :: (k, c) :: m)
    else if a = k then (if b = 0 then m else (a, b) :: m)
    else (k, c) :: memSet m a b

/-- Make every byte from lo up to but not including hi read 0. -/
def memClear (m : Memory) (lo hi : Nat) : Memory := m.filter fun c => !(lo ≤ c.1 && c.1 < hi)

/-- Make every byte of one bank of a map buffer that begins at `base` read 0: the banks are interleaved at 4 KiB (Table 5 of
ch. 09). -/
def memClearBank (m : Memory) (base bank : Nat) : Memory :=
  m.filter fun c => !(base ≤ c.1 && c.1 < base + 2 ^ 27 && (c.1 - base) / 4096 % 16 == bank)

/-- The canonical form: addresses strictly rising and no byte 0 listed. -/
abbrev Memory.wf (m : Memory) : Prop := m.Pairwise (fun x y => x.1 < y.1) ∧ ∀ c ∈ m, c.2 ≠ 0

/-- The byte memories: the unified range (R335), host memory (R58), a function's message window (Table 2 of ch. 02), a
core's scratchpad and accumulator store, a die's map buffer and state-save area (Table 5 of ch. 09, R518). -/
inductive Space where
  | unified
  | host
  | window (fn : Nat)
  | spad (core : Nat)
  | acc (core : Nat)
  | mapbuf (die : Nat)
  | save (die : Nat)
  | stem (die : Nat)
  deriving DecidableEq, Repr

/-- Where a space begins in `State.mem`; every space has room for 2⁶⁴ bytes. -/
def Space.base : Space → Nat
  | .unified => 0
  | .host => 2 ^ 64
  | .window f => (0x100 + f) * 2 ^ 64
  | .spad c => (0x200 + c) * 2 ^ 64
  | .acc c => (0x300 + c) * 2 ^ 64
  | .mapbuf d => (0x400 + d) * 2 ^ 64
  | .save d => (0x500 + d) * 2 ^ 64
  | .stem d => (0x600 + d) * 2 ^ 64

/-- Bytes of a page of the unified range (R335). -/
def pageSize : Nat := 2 ^ 22

/-- The bus address of the host frame that holds a T3 page (Table 1 of ch. 09, R373). -/
def hostFrame (s : State) (page : Nat) : Option Nat :=
  match tget? s.tiers.map page with
  | none => none
  | some e => if e.tier = 3 then (tget? s.parts e.part).bind fun x => tget? x.t3 e.frame else none

/-- Where the bytes of a page begin in `State.mem`: in its host frame, or under the page's own address (log 41). -/
def pagePlace (s : State) (page : Nat) : Nat :=
  match hostFrame s page with
  | some b => Space.host.base + b
  | none => page * pageSize

/-- The place in `State.mem` of an address of a space. -/
def State.place (s : State) (sp : Space) (a : Nat) : Nat :=
  match sp with
  | .unified => pagePlace s (a / pageSize) + a % pageSize
  | sp => sp.base + a

/-- Write bytes at the places that f gives to consecutive addresses. -/
def memWriteAt (f : Nat → Nat) : Nat → List Byte → Memory → Memory
  | _, [], m => m
  | a, b :: bs, m => memWriteAt f (a + 1) bs (memSet m (f a) b)

/-- Copy n bytes from one place to another that does not overlap it. -/
def memCopy (m : Memory) (src dst n : Nat) : Memory :=
  (m.filter fun c => decide (src ≤ c.1) && decide (c.1 < src + n)).foldl (fun m c => memSet m (dst + (c.1 - src)) c.2) (memClear m dst (dst + n))

def State.byte (s : State) (sp : Space) (a : Nat) : Byte := memRead s.mem (s.place sp a)

def State.read (s : State) (sp : Space) (a n : Nat) : List Byte := (List.range n).map fun i => s.byte sp (a + i)

def State.readNat (s : State) (sp : Space) (a n : Nat) : Nat := leNat (s.read sp a n)

def State.write (s : State) (sp : Space) (a : Nat) (bs : List Byte) : State :=
  { s with mem := memWriteAt (s.place sp) a bs s.mem }

def State.writeNat (s : State) (sp : Space) (a n v : Nat) : State := s.write sp a (leBytes n v)

/-- Make n bytes of the unified range from a read 0, page by page. -/
def clearUnified (s : State) (a n : Nat) : State :=
  (List.range ((a + n + pageSize - 1) / pageSize - a / pageSize)).foldl (fun s i =>
    let g := a / pageSize + i
    let lo := max a (g * pageSize) - g * pageSize
    let hi := min (a + n) ((g + 1) * pageSize) - g * pageSize
    { s with mem := memClear s.mem (pagePlace s g + lo) (pagePlace s g + hi) }) s

/-- Make n bytes from a read 0. -/
def State.clear (s : State) (sp : Space) (a n : Nat) : State :=
  match sp with
  | .unified => clearUnified s a n
  | sp => { s with mem := memClear s.mem (sp.base + a) (sp.base + a + n) }

/-- Make one bank of a die's map buffer read 0. -/
def State.clearBank (s : State) (die bank : Nat) : State := { s with mem := memClearBank s.mem (Space.mapbuf die).base bank }

/-- Copy n bytes between places of the memory (step 5 of R351). -/
def State.copyPlace (s : State) (src dst n : Nat) : State := { s with mem := memCopy s.mem src dst n }

/-! ## Free values and outputs -/

/-- Take the next free value (log 4). -/
def takeFree (s : State) : W64 × State := (Config.freeWord s.free, { s with free := s.free + 1 })

def emit (o : Output) (s : State) : State := { s with outbox := s.outbox ++ [o] }

/-- A device that runs: started, and not in the safe state. -/
def live (s : State) : Bool := s.steward.life == .ready && !s.collector.safe

/-- A hardware event changes the state of a running device only (R541, R592); elsewhere nothing happens. -/
def whenLive (f : State → State) (s : State) : Host.Outcome State Fault Refusal :=
  .next (if live s then f s else s)

/-! ## Counters (R562, R563) -/

/-- The device events of Table 11 of ch. 14 in ascending ID. -/
def devEventIds : List Nat :=
  [0x0001, 0x0002, 0x0003, 0x0004, 0x0005, 0x0006, 0x0007, 0x0008,
   0x1010, 0x1011, 0x1012, 0x1013, 0x1014, 0x1015, 0x1016, 0x1017, 0x1018,
   0x2020, 0x2021, 0x2022, 0x2023, 0x2024, 0x2025, 0x2026, 0x2027, 0x2028, 0x2029, 0x202A] ++
  [0x3001, 0x3002, 0x3003, 0x3004, 0x3005, 0x3006, 0x3007, 0x3008, 0x3009, 0x300A, 0x300B, 0x300C, 0x300D, 0x300E,
   0x300F, 0x3010, 0x4001, 0x4002, 0x4003, 0x4004, 0x4005, 0x5010, 0x5011, 0x5012, 0x5013, 0x6001, 0x6002, 0x6003, 0x6004]

/-- A control word (Table 9 of ch. 14) with MODE 1 and EN. -/
def ctrWord (qual event : Nat) : W64 := w64 (qual <<< 48 ||| event <<< 16 ||| 5)

/-- Default words (R563; that EN is 1 in them is log 25). -/
def coreDefault (k : Nat) : W64 := ctrWord 0 (0x2001 + k)
def devDefault (k : Nat) : W64 := ctrWord 0xFFFF (devEventIds.getD (k % devEventIds.length) 1)

def coreCtr (s : State) (core k : Nat) : Counter := tget s.collector.coreCtrs (16 * core + k) { word := coreDefault k }
def devCtr (s : State) (k : Nat) : Counter := tget s.collector.devCtrs k { word := devDefault k }

def setCoreCtr (core k : Nat) (c : Counter) (s : State) : State :=
  { s with collector.coreCtrs := tset s.collector.coreCtrs (16 * core + k) c }
def setDevCtr (k : Nat) (c : Counter) (s : State) : State :=
  { s with collector.devCtrs := tset s.collector.devCtrs k c }

/-- A counter counts this event: enabled, its EVENT, and for a device counter its QUAL. -/
def ctrMatches (w : W64) (id : Nat) (qual : Option Nat) : Bool :=
  bitAt w 0 && fld w 31 16 == id &&
    match qual with
    | some q => fld w 63 48 == 0xFFFF || fld w 63 48 == q
    | none => true

/-- Add to a counter; it wraps at 2⁴⁸ (R562). The answer says how often it wrapped. -/
def ctrAdd (c : Counter) (n : Nat) : Counter × Nat := ({ c with live := (c.live + n) % 2 ^ 48 }, (c.live + n) / 2 ^ 48)

/-- Count a device event in every counter that selects it; answers the wraps. -/
def countDev (id qual n : Nat) (s : State) : State × Nat :=
  (List.range 128).foldl (fun (p : State × Nat) k =>
    let c := devCtr p.1 k
    if ctrMatches c.word id (some qual) then
      let r := ctrAdd c n
      (setDevCtr k r.1 p.1, p.2 + r.2)
    else p) (s, 0)

/-- A device event n times in the unit `qual`; a counter that wraps counts a counter-wrap event (R562). -/
def devEvent (id qual : Nat) (n : Nat) (s : State) : State :=
  if n = 0 then s else
    let r := countDev id qual n s
    if r.2 = 0 then r.1 else (countDev 0x6001 0xFFFE r.2 r.1).1

/-- A core event n times in a physical core. -/
def coreEvent (core id n : Nat) (s : State) : State :=
  if n = 0 then s else
    let r := (List.range 16).foldl (fun (p : State × Nat) k =>
      let c := coreCtr p.1 core k
      if ctrMatches c.word id none then
        let r := ctrAdd c n
        (setCoreCtr core k r.1 p.1, p.2 + r.2)
      else p) (s, 0)
    devEvent 0x6001 0xFFFE r.2 r.1

/-- A waiting time that no rule fixes, counted in a per-cycle core event (R631; log 4). -/
def coreWaitFree (core id : Nat) (s : State) : State :=
  let r := takeFree s
  coreEvent core id (r.1.toNat % 2 ^ 13) r.2

/-! ## Event records (R544, R546) -/

def msix (fn vec : Nat) (s : State) : State := emit (.msix fn vec) s

/-- Append a record, with its SEQ, tick and the time after the edge (a free value); a full log loses its oldest. -/
def logRecord (r : EventRec) (s : State) : State :=
  let f := takeFree s
  let c := f.2.collector
  let r := { r with seq := c.nextSeq, tick := f.2.steward.tick, offsetNs := f.1.setWidth 32 }
  let full := decide (8192 ≤ c.log.length)
  let c := { c with log := (if full then c.log.drop 1 else c.log) ++ [r], nextSeq := (c.nextSeq + 1) % 2 ^ 32,
                    overruns := c.overruns + b2n full }
  let s := { f.2 with collector := c, steward.eventDue := true }
  if full then devEvent 0x6002 0xFFFE 1 s else s

/-- DATA of an event record: values in order from bit 256, each (width, value) (Table 6 of ch. 14). -/
def packData : List (Nat × Nat) → Nat
  | [] => 0
  | (w, v) :: r => v % 2 ^ w + 2 ^ w * packData r

/-- An event that Table 11 marks "rec": counted and recorded. -/
def recEvent (id qual : Nat) (part : Option Nat) (die unit handle : Nat) (data : List (Nat × Nat)) (s : State) : State :=
  logRecord { id := id, seq := 0, die := die, unit := unit, pvalid := part.isSome, part := part.getD 0, tick := 0,
              handle := handle, data := BitVec.ofNat 256 (packData data) } (devEvent id qual 1 s)

/-! ## Faults (R533 to R537) -/

/-- A fault goes from its concentrator to the collector (R534). -/
def raiseFault (f : FaultIn) (s : State) : State := { s with collector.lines := s.collector.lines ++ [f] }

/-- The order in which faults of one cycle are taken (R536). -/
def faultBefore (a b : FaultIn) : Bool :=
  if a.sev ≠ b.sev then b.sev < a.sev
  else if a.die ≠ b.die then a.die < b.die
  else if a.unit ≠ b.unit then a.unit < b.unit
  else a.code ≤ b.code

def insertFault (f : FaultIn) : List FaultIn → List FaultIn
  | [] => [f]
  | g :: r => if faultBefore f g then f :: g :: r else g :: insertFault f r

def sortFaults : List FaultIn → List FaultIn
  | [] => []
  | f :: r => insertFault f (sortFaults r)

/-- PVALID and PARTITION: exactly one partition touched (R537). -/
def onePart (f : FaultIn) : Option Nat :=
  match f.parts with
  | [p] => some p
  | _ => none

/-- The collector takes one fault: its log record (R534), its count, the first-fault record (R535) and, for severity 1
and 2, the partition-open bits (R537) and the event vector at once (R546). -/
def collect (f : FaultIn) (s : State) : State :=
  let due := s.steward.eventDue
  let s := devEvent f.code f.unit 1 s
  let s := logRecord { id := f.code, seq := 0, cls := f.cls, sev := f.sev, die := f.die, unit := f.unit,
                       pvalid := (onePart f).isSome, part := (onePart f).getD 0, tick := 0, handle := f.handle,
                       data := BitVec.ofNat 256 f.detail.toNat } s
  if f.sev = 0 then s else
    let c := s.collector
    let first : FirstFault :=
      if c.first.valid then { c.first with overflow := true, later := min 0xFFFF (c.first.later + 1) }
      else { valid := true, code := f.code, cls := f.cls, sev := f.sev, die := f.die, unit := f.unit,
             pvalid := (onePart f).isSome, part := (onePart f).getD 0, detail := f.detail, tick := s.steward.tick,
             offsetNs := (c.log.getLast?.map (·.offsetNs)).getD 0, handle := f.handle }
    let opened := if f.parts.isEmpty then List.range 16 else f.parts
    msix 0 s.host.eventVector
      { s with steward.eventDue := due, collector.first := first,
               collector.partOpen := (List.range 16).filter fun p => c.partOpen.contains p || opened.contains p }

/-- Every fault that waits at the collector is taken (R534 to R537). -/
def collectAll (s : State) : State :=
  (sortFaults s.collector.lines).foldl (fun s f => collect f s) { s with collector.lines := [] }

/-! ## Functions, rings and completion entries (R84 to R90) -/

def fnOf (s : State) (f : Nat) : FnState := tget s.host.fns f {}

def setFn (f : Nat) (x : FnState) (s : State) : State := { s with host.fns := tset s.host.fns f x }

def modFn (f : Nat) (g : FnState → FnState) (s : State) : State := setFn f (g (fnOf s f)) s

/-- A function after its reset: no ring, an idle mailbox with an empty message window (log 130), no slot armed; entries
that wait in its overflow queue stay (R62, R81, R84, R87). -/
def freshFn (f : Nat) (s : State) : State := (setFn f { overflow := (fnOf s f).overflow } s).clear (.window f) 0 0x1000

def slotOf (x : FnState) (i : Nat) : Slot := tget x.slots i {}

/-- A function has the vectors of its MSI-X table (Table 1 of ch. 02). -/
def vectorsOf (f : Nat) : Nat :=
  let c : PciConfig := {}
  if f = 0 then c.vectorsPf else c.vectorsVf

/-- Vendor ID and device ID in the configuration space of a function (R57). -/
def pciId (s : State) (f : Nat) : W16 × W16 := (s.host.config.vendor, if f = 0 then s.host.config.devicePf else s.host.config.deviceVf)

/-- A capability stands in the configuration space of H0's functions (R56). -/
def hasCap (s : State) (c : PcieCap) : Bool := s.host.config.caps.contains c

/-- The width and the rate, in units of 0.1 GT/s, that a link trains to: its partner's part in that is a free value
(log 117). -/
def trained (r : W64) : Nat × Nat := ([16, 8, 4].getD (r.toNat % 3) 16, [320, 160, 80, 50, 25].getD (r.toNat / 4 % 5) 320)

/-- Raise vector v for one more entry, subject to coalescing (R86). -/
def ringVector (f : Nat) (v : Nat) (s : State) : State :=
  let x := fnOf s f
  match x.ring with
  | none => msix f v s
  | some r =>
    let n := tget x.waiting v 0 + 1
    if r.t = 0 || r.k ≤ n then msix f v (setFn f { x with waiting := tdel x.waiting v } s)
    else setFn f { x with waiting := tset x.waiting v n } s

/-- A completion entry as 32 bytes (Table 10a of ch. 02). -/
def entryBytes (c : Completion) (phase : Bool) : List Byte :=
  leBytes 32 (c.handle ||| c.status <<< 64 ||| b2n phase <<< 80 ||| c.epoch <<< 96 ||| c.cookie.toNat <<< 128 ||| c.result.toNat <<< 192)

/-- RING_TAIL's layout (Table 5 of ch. 02). -/
def tailWord (x : FnState) : Nat := x.tail ||| b2n x.phase <<< 16

/-- Write an entry at TAIL, advance TAIL, write the write-back location, then raise the vector (R85). A fired slot
returns to STATE 0 when its step's entry is posted (R90). -/
def writeEntry (f : Nat) (r : Ring) (c : Completion) (s : State) : State :=
  let x := fnOf s f
  let s := s.write .host (r.base + 32 * x.tail) (entryBytes c x.phase)
  let t := (x.tail + 1) % r.entries
  let x := { x with tail := t, phase := if t = 0 then !x.phase else x.phase,
                    slots := tmap x.slots fun _ sl =>
                      if sl.state = 2 && sl.handle = c.handle && c.handle ≠ 0 then {} else sl }
  let s := setFn f x s
  let s := if r.writeback = 0 then s else s.write .host r.writeback (leBytes 8 (tailWord x))
  match c.cvec with
  | some v => ringVector f v s
  | none => s

/-- The ring is full (R87). -/
def ringFull (x : FnState) (r : Ring) : Bool := (x.tail + 1) % r.entries == x.head

/-- Post an entry: into the ring, or behind the overflow queue when the ring is full or absent (R87). -/
def postEntry (f : Nat) (c : Completion) (s : State) : State :=
  let x := fnOf s f
  match x.ring with
  | none => setFn f { x with overflow := x.overflow ++ [c] } s
  | some r =>
    if ringFull x r || !x.overflow.isEmpty then setFn f { x with overflow := x.overflow ++ [c] } s
    else writeEntry f r c s

/-- Post the waiting entries in order while there is room (R87). -/
def drainOverflow (f : Nat) : Nat → State → State
  | 0, s => s
  | n + 1, s =>
    let x := fnOf s f
    match x.ring, x.overflow with
    | some r, c :: rest => if ringFull x r then s else drainOverflow f n (writeEntry f r c (setFn f { x with overflow := rest } s))
    | _, _ => s

def drain (f : Nat) (s : State) : State := drainOverflow f (fnOf s f).overflow.length s

/-! ## Handles (R79 to R83) -/

/-- The scope that a kind belongs to: a partition, or 16 for device-wide kinds (Table 9b of ch. 02). -/
def scopeOf (part kind : Nat) : Nat := if 9 ≤ kind then 16 else part

def seqOf (s : State) (scope : Nat) : Nat := tget s.steward.seq scope 1
def genOf (s : State) (scope : Nat) : Nat := tget s.steward.generation scope 1

/-- GENERATION never takes the value 0 (R80). -/
def nextGen (g : Nat) : Nat := if g = 0xFFFF then 1 else g + 1

/-- The layout of Table 9a of ch. 02. -/
def handleWord (part kind seq gen : Nat) : Nat := part <<< 60 ||| kind <<< 56 ||| seq <<< 16 ||| gen

def handlePart (h : Nat) : Nat := h >>> 60
def handleKind (h : Nat) : Nat := (h >>> 56) % 16
def handleGen (h : Nat) : Nat := h % 2 ^ 16

def getHandle (s : State) (h : Nat) : Option HandleRec := tget? s.steward.handles h

def setHandle (h : Nat) (r : HandleRec) (s : State) : State :=
  { s with steward.handles := tset s.steward.handles h r }

def modHandle (h : Nat) (f : HandleRec → HandleRec) (s : State) : State :=
  { s with steward.handles := tupd s.steward.handles h f }

/-- Issue the next handle of a kind (R79). -/
def issue (fn : Nat) (hdr : Hdr) (part : Option Nat) (kind : Nat) (op : LongOp) (s : State) : Nat × State :=
  let p := if 9 ≤ kind then 0 else part.getD 0
  let scope := scopeOf p kind
  let q := seqOf s scope
  let h := handleWord p kind q (genOf s scope)
  let s := setHandle h { fn := fn, cookie := hdr.cookie, cvec := hdr.cvec, part := part, kind := kind, op := op } s
  let st := s.steward
  let st := if q + 1 = 2 ^ 40 then { st with seq := tset st.seq scope 1, generation := tset st.generation scope (nextGen (genOf s scope)) }
            else { st with seq := tset st.seq scope (q + 1) }
  (h, { s with steward := st })

/-- The handle's operation ends with its one completion entry (R81). A handle that was ended without an entry stays so (R62). -/
def complete (h : Nat) (state : HState) (status : Nat) (result : W64) (epoch : Nat) (s : State) : State :=
  match getHandle s h with
  | none => s
  | some r =>
    let s := if r.state == .ended then s else setHandle h { r with state := state, status := status, owed := false } s
    if r.owed then
      postEntry r.fn { handle := h, status := status, epoch := epoch, cookie := r.cookie, result := result,
                       cvec := if r.cvec = 0xFFFF then none else some r.cvec.toNat } s
    else s

def finish (h : Nat) (status : Nat) (result : W64) (s : State) : State := complete h .complete status result 0 s

/-- A Function Level Reset ends a handle without an entry (R62, R81). -/
def endSilently (h : Nat) (s : State) : State :=
  modHandle h (fun r => { r with state := .ended, status := 0x0301, owed := false }) s

/-- Handles whose operation is not over. -/
def openHandles (s : State) (p : HandleRec → Bool) : List Nat :=
  (s.steward.handles.filter fun e => e.2.owed && p e.2).map Prod.fst

/-- The refusal that a TARGET meets (R83), for the partition that the message acts on; none where it may be used. -/
def targetError (s : State) (part : Option Nat) (h : Nat) : Option Nat :=
  let scope := scopeOf (handlePart h) (handleKind h)
  if part.isSome && (scope = 16 || part != some (handlePart h)) then some 0x0205
  else if handleGen h ≠ genOf s scope then some 0x0204
  else if (getHandle s h).isNone then some 0x0201
  else none

/-! ## Messages (R71 to R77) -/

/-- What a command answers: the state it leaves, RESULT, HANDLE and the data after the reply header. A command that
finishes at once finishes after its reply: `after` runs then (R82). -/
structure Ans where
  st : State
  result : W64 := 0
  handle : Nat := 0
  data : List Byte := []
  status : Nat := 0
  after : State → State := id

/-- A command's body: an answer, or the REFUSED status. -/
abbrev Body := State → Except Nat Ans

/-- Refuse with a status unless a condition holds. -/
def need {α : Type} (c : Bool) (code : Nat) (k : Except Nat α) : Except Nat α := if c then k else .error code

/-- Refuse with a status where a value is absent. -/
def have' {α β : Type} (o : Option α) (code : Nat) (k : α → Except Nat β) : Except Nat β :=
  match o with
  | some a => k a
  | none => .error code

/-- The reply in the window, LAST_TAG, REPLY_READY, and vector 0 when asked for (R71, R75, Table 8a). -/
def reply (f : Nat) (opcode : Nat) (hdr : Hdr) (status : Nat) (result : W64) (handle : Nat) (data : List Byte) (s : State) : State :=
  let head := opcode ||| (32 + data.length) <<< 16 ||| hdr.tag.toNat <<< 32 ||| status <<< 48 ||| handle <<< 64 |||
    result.toNat <<< 128 ||| hdr.cookie.toNat <<< 192
  let s := s.write (.window f) 0 (leBytes 32 head ++ data)
  let s := modFn f (fun x => { x with lastTag := hdr.tag, replyReady := true, busy := false }) s
  if hdr.replyIrq then msix f 0 s else s

/-- The function is there for the host: H0 has its link, and a VF exists while VF Enable is 1 (R59). -/
def fnExists (s : State) (f : Nat) : Bool := s.host.linkUp && (f == 0 || s.host.vfEnable)

/-- Messages reach something that answers: a powered device out of reset whose steward survives (R542, R602). -/
def answers (s : State) : Bool :=
  match s.steward.life with
  | .ready => !(s.collector.safe && s.collector.stewardLost)
  | .recovery => true
  | _ => false

/-- The partition that a message acts on: a VF's own, or the one that a PF message names (R60; log 20). -/
def msgPart (f : Nat) (hdr : Hdr) : Option Nat := if f = 0 then hdr.part.map (·.val) else some (f - 1)

def cvecOk (f : Nat) (hdr : Hdr) : Bool := hdr.cvec == 0xFFFF || hdr.cvec.toNat < vectorsOf f

/-- Apply a body's answer: the reply first, then what the command does after it; a refusal changes no state (R77). -/
def settle (f : Nat) (opcode : Nat) (hdr : Hdr) (r : Except Nat Ans) (s : State) : State :=
  match r with
  | .error code => reply f opcode hdr code 0 0 [] s
  | .ok a => a.after (reply f opcode hdr a.status a.result a.handle a.data a.st)

/-- The safe state: the steward answers DEVICE_INFO and refuses every other message (R542). In recovery mode the ROM
answers DEVICE_INFO and FW_RECOVER and refuses the rest (R602); outside it FW_RECOVER is refused (Table 7 of ch. 16). -/
def modeRefuses (opcode : Nat) (s : State) : Bool :=
  match s.steward.life with
  | .recovery => opcode != 0x0001 && opcode != 0x0710
  | _ => (s.collector.safe && opcode != 0x0001) || opcode == 0x0710

/-- A message of opcode `opcode` through function f: dropped where nothing answers, refused by the framing rules (R14, R61,
R105 and Table 12 of ch. 02), else carried out by its body. Of several mistakes in one message the framing comes first, then
CVEC, then the PF-only test (log 104). A TARGET in a message of a command that acts on no handle is not looked at (R83;
DESIGN CHOICE, log 152). -/
def message (f : Fn) (hdr : Hdr) (opcode : Nat) (pfOnly : Bool) (body : Body) (s : State) : Host.Outcome State Fault Refusal :=
  .next (
    if !(answers s && fnExists s f) then s
    else if modeRefuses opcode s then reply f opcode hdr 0x0205 0 0 [] s
    else if !cvecOk f hdr then reply f opcode hdr 0x0201 0 0 [] s
    else if pfOnly && f != 0 then reply f opcode hdr 0x0205 0 0 [] s
    else settle f opcode hdr (body s) s)

/-- A command that issues a handle is refused while its function's overflow queue is full (R87). -/
def needQueue {α : Type} (f : Nat) (s : State) (k : Except Nat α) : Except Nat α :=
  need (decide ((fnOf s f).overflow.length < 1024)) 0x0206 k

/-- Answer a long command with a fresh handle; `after` gets the handle once the reply is written. -/
def long (f : Nat) (hdr : Hdr) (part : Option Nat) (kind : Nat) (op : LongOp) (st : State) (result : W64 := 0)
    (after : Nat → State → State := fun _ s => s) : Except Nat Ans :=
  needQueue f st (
    let r := issue f hdr part kind op st
    .ok { st := r.2, handle := r.1, result := result, after := after r.1 })

/-- The handle that the next `issue` will give, for state that names it. -/
def nextHandle (s : State) (part kind : Nat) : Nat :=
  let p := if 9 ≤ kind then 0 else part
  handleWord p kind (seqOf s (scopeOf p kind)) (genOf s (scopeOf p kind))

/-! ## Partitions -/

def getPart (s : State) (p : Nat) : Option Partition := tget? s.parts p

def setPart (p : Nat) (x : Partition) (s : State) : State := { s with parts := tset s.parts p x }

def modPart (p : Nat) (f : Partition → Partition) (s : State) : State := { s with parts := tupd s.parts p f }

/-- The body of a command that acts on a cast-on partition; otherwise it is outside the function's rights in the
current state (Table 11 of ch. 02). -/
def withPart (f : Nat) (hdr : Hdr) (s : State) (k : Nat → Partition → Except Nat Ans) : Except Nat Ans :=
  match msgPart f hdr with
  | none => .error 0x0201
  | some p =>
    match getPart s p with
    | none => .error 0x0205
    | some x => k p x

/-- Fields of the partition descriptor (Table 1 of ch. 13). -/
def Partition.quads (x : Partition) : Nat := fld x.desc 767 720
def Partition.c0Quads (x : Partition) : Nat := fld x.desc 719 672
def Partition.mapbuf (x : Partition) : Nat := fld x.desc 895 832
def Partition.c0Mapbuf (x : Partition) : Nat := fld x.desc 831 768
def Partition.stacks (x : Partition) : Nat := fld x.desc 671 660
def Partition.codec (x : Partition) : Nat := fld x.desc 659 644
def Partition.vcs (x : Partition) : Nat := fld x.desc 1023 896

/-! ## Cores and positions (R3 to R5, R627) -/

def coreOf (s : State) (c : Nat) : Core := tget s.cores.cores c {}
def setCore (c : Nat) (x : Core) (s : State) : State := { s with cores.cores := tset s.cores.cores c x }
def modCore (c : Nat) (f : Core → Core) (s : State) : State := setCore c (f (coreOf s c)) s

/-- The core that holds position q = 48·n + 4·k + j: at reset CDn.C(4k + j) (R4). -/
def coreAt (s : State) (q : Nat) : Nat := tget s.cores.place q (52 * (q / 48) + q % 48)

def dieOfCore (c : Nat) : Nat := c / 52

/-- The position that a core holds; none for a free spare or a core out of service. -/
def posOf (s : State) (c : Nat) : Option Nat := (List.range 192).find? fun q => coreAt s q == c

/-- Free spares of a die: in service and holding no position. -/
def freeSpares (s : State) (die : Nat) : List Nat :=
  ((List.range 52).map (52 * die + ·)).filter fun c => (coreOf s c).inService && (posOf s c).isNone

def cdOf (s : State) (d : Nat) : Cd := tget s.cores.cds d {}
def modCd (d : Nat) (f : Cd → Cd) (s : State) : State := { s with cores.cds := tset s.cores.cds d (f (cdOf s d)) }

/-- The positions of a quad mask of 48 bits, in ascending die and quad (R627): quad bit 12·n + k. -/
def quadPositions (mask : Nat) : List Nat :=
  (bitsOf 48 mask).flatMap fun b => (List.range 4).map fun j => 48 * (b / 12) + 4 * (b % 12) + j

/-- The cores of a partition. -/
def partCores (s : State) (x : Partition) : List Nat := (quadPositions x.quads).map (coreAt s)

/-- The partitions that hold a core. -/
def partsOfCore (s : State) (c : Nat) : List Nat :=
  (s.parts.filter fun e => (partCores s e.2).contains c).map Prod.fst

def stackOf (s : State) (i : Nat) : Stack := tget s.tiers.stackList i {}
def farOf (s : State) (i : Nat) : FarPort := tget s.tiers.far i {}
def modStack (i : Nat) (f : Stack → Stack) (s : State) : State := { s with tiers.stackList := tset s.tiers.stackList i (f (stackOf s i)) }
def modFar (i : Nat) (f : FarPort → FarPort) (s : State) : State := { s with tiers.far := tset s.tiers.far i (f (farOf s i)) }

def portOf (s : State) (i : Nat) : Port := tget s.links.ports i {}
def setPort (i : Nat) (x : Port) (s : State) : State := { s with links.ports := tset s.links.ports i x }
def modPort (i : Nat) (f : Port → Port) (s : State) : State := setPort i (f (portOf s i)) s

def pairOf (s : State) (i : Nat) : Pair := tget s.pairs i {}
def modPair (i : Nat) (f : Pair → Pair) (s : State) : State := { s with pairs := tset s.pairs i (f (pairOf s i)) }

/-- A port is in UP4, UP3 or RECAL (Table 6 of ch. 11). -/
def portLit (x : Port) : Bool := x.state == .up4 || x.state == .up3 || x.state == .recal

/-- A port carries traffic: it is up and no fast retrain is under way (R439, Table 6 of ch. 11). -/
def portUp (x : Port) : Bool := portLit x && !x.retraining

/-- The period of the tick in µs: the aligned group's, or the device's own (R40, R447). -/
def tickPeriod (s : State) : Nat := if fld s.links.group 51 50 = 0 then s.steward.period else fld s.links.group 67 57

/-! ## The safe state (R541 to R543) -/

/-- Enter the safe state for one fault: the collector latches it with every fault on its lines, running stitches, codec
units, mover transfers and migrations are discarded, every port that is up sends FENCE_IDLE, ALERT_N is asserted and the
event vector is raised once (Table 5 of ch. 14). A record write in progress is abandoned (R610). -/
def enterSafe (f : FaultIn) (stewardLost recordLost : Bool) (s : State) : State :=
  let s := collectAll (raiseFault f s)
  let ups := (List.range 16).filter fun i => portLit (portOf s i)
  let s := ups.foldl (fun s i => emit (.fence i) (modPort i (fun p => { p with state := .fenced, retraining := false }) s)) s
  { s with
    collector.safe := true
    collector.stewardLost := s.collector.stewardLost || stewardLost
    collector.recordLost := s.collector.recordLost || recordLost
    collector.alert := true
    cores.cores := tmap s.cores.cores fun _ c => { c with movers := [], saving := false, restoring := false, sample := none }
    tiers.moves := []
    pairs := tmap s.pairs fun _ p => { p with running := none, loading := none }
    trust.writing := none
    trust.next := [] }

end Sys2Proof.Machine
end

