-- ==== Sys2Proof/Machine/Flags.lean ====
section
/-!
DEFINITION. The status that a step's completion entry carries and the condition bits of its RESULT (R206), and the two
actions of commands that the retained settings share: asking for a settings record and counting a host-port mistake.
-/
namespace Sys2Proof.Machine

/-! ## The conditions of a step (R206) -/

/-- RESULT[6:0] of a step's completion entry. -/
inductive Cond where
  | nonfinite | lateExcluded | scaleRepass | npOverrun | indexFilled | emptyOutput | guardSkipped
  deriving DecidableEq, Repr

def Cond.bit : Cond → Nat
  | .nonfinite => 0
  | .lateExcluded => 1
  | .scaleRepass => 2
  | .npOverrun => 3
  | .indexFilled => 4
  | .emptyOutput => 5
  | .guardSkipped => 6

def condSet (c : Cond) (w : BitVec 16) : BitVec 16 := w ||| BitVec.ofNat 16 (2 ^ c.bit)
def condIf (b : Bool) (c : Cond) (w : BitVec 16) : BitVec 16 := if b then condSet c w else w

/-- STATUS of a step that reached its final fence: the first condition in the order of R206. -/
def condStatus (w : BitVec 16) : Nat :=
  if bitAt w 0 then 0x0103
  else if bitAt w 1 then 0x0101
  else if bitAt w 2 then 0x0102
  else if bitAt w 3 then 0x0106
  else if bitAt w 4 then 0x0104
  else if bitAt w 5 then 0x0105
  else 0x0000

/-! ## Host-port mistakes (R105, R106) -/

/-- One host-port protocol event of a function. -/
def hostMistake (fn : Nat) (s : State) : State := devEvent 0x0001 fn 1 s

/-! ## Triggers of a settings record (R606) -/

/-- A change asks for a record: it begins at once, or follows the record that is being programmed. -/
def settingsTrigger (t : Trigger) (s : State) : State :=
  match s.trust.writing with
  | none => { s with trust.writing := some (s.trust.current, [t]), trust.retried := false }
  | some _ => { s with trust.next := s.trust.next ++ [t] }

/-! ## Free random words -/

/-- n free 16-bit words, for roundings whose generator no rule names (log 4). -/
def freeHalves : Nat → State → List Nat × State
  | 0, s => ([], s)
  | n + 1, s =>
    let f := takeFree s
    let r := freeHalves n f.2
    (f.1.toNat % 65536 :: r.1, r.2)

end Sys2Proof.Machine
end

