-- ==== Sys2Proof/Machine/Formats.lean ====
section
/-!
DEFINITION. Number formats and conversions (chapter 03): exact values, element codes, rounding, narrowing, block
scales and widening.
-/
namespace Sys2Proof.Machine

/-- An exact value: NaN, ±∞, or ± m · 2ᵉ with its sign kept when m is 0 (R111). -/
inductive Val where
  | nan
  | inf (neg : Bool)
  | fin (neg : Bool) (m : Nat) (e : Int)
  deriving DecidableEq, Repr

def Val.zero : Val := .fin false 0 0
def Val.one : Val := .fin false 1 0

def Val.isFin : Val → Bool
  | .fin _ _ _ => true
  | _ => false

def Val.isNan : Val → Bool
  | .nan => true
  | _ => false

def Val.isZero : Val → Bool
  | .fin _ 0 _ => true
  | _ => false

def Val.negative : Val → Bool
  | .nan => false
  | .inf n => n
  | .fin n _ _ => n

def Val.neg : Val → Val
  | .nan => .nan
  | .inf n => .inf (!n)
  | .fin n m e => .fin (!n) m e

def Val.abs : Val → Val
  | .nan => .nan
  | .inf _ => .inf false
  | .fin _ m e => .fin false m e

/-- A magnitude m · 2ᵉ as a fraction. -/
def fracOf (m : Nat) (e : Int) : Nat × Nat := if 0 ≤ e then (m * 2 ^ e.toNat, 1) else (m, 2 ^ (-e).toNat)

def pow2Frac (e : Int) : Nat × Nat := fracOf 1 e

/-- A finite value as a signed integer times a power of two. -/
def Val.toInt (m : Nat) (neg : Bool) : Int := if neg then -(m : Int) else m

/-- The exact sum; ∞ − ∞ is NaN; an exact zero sum of unlike signs is +0, of like signs keeps the sign. -/
def Val.add : Val → Val → Val
  | .nan, _ => .nan
  | _, .nan => .nan
  | .inf a, .inf b => if a = b then .inf a else .nan
  | .inf a, _ => .inf a
  | _, .inf b => .inf b
  | .fin a m e, .fin b n f =>
    let g := min e f
    let x := Val.toInt (m * 2 ^ (e - g).toNat) a + Val.toInt (n * 2 ^ (f - g).toNat) b
    if x = 0 then .fin (a && b) 0 0 else .fin (x < 0) x.natAbs g

def Val.mul : Val → Val → Val
  | .nan, _ => .nan
  | _, .nan => .nan
  | .inf a, .inf b => .inf (a != b)
  | .inf a, .fin b m _ => if m = 0 then .nan else .inf (a != b)
  | .fin a m _, .inf b => if m = 0 then .nan else .inf (a != b)
  | .fin a m e, .fin b n f => .fin (a != b) (m * n) (e + f)

/-- The exact order of two values that are not NaN: less, equal or greater as −1, 0, 1. -/
def Val.cmp (a b : Val) : Int :=
  match a, b with
  | .inf x, .inf y => if x = y then 0 else if x then -1 else 1
  | .inf x, _ => if x then -1 else 1
  | _, .inf y => if y then 1 else -1
  | .fin x m e, .fin y n f =>
    let g := min e f
    let i := Val.toInt (m * 2 ^ (e - g).toNat) x
    let j := Val.toInt (n * 2 ^ (f - g).toNat) y
    if i < j then -1 else if i = j then 0 else 1
  | _, _ => 0

def Val.lt (a b : Val) : Bool := !a.isNan && !b.isNan && decide (Val.cmp a b < 0)
def Val.eqv (a b : Val) : Bool := !a.isNan && !b.isNan && decide (Val.cmp a b = 0)

/-! ## Formats (Table 1) -/

/-- Element width in bits. -/
def fmtBits (f : Nat) : Nat :=
  match f with
  | 0x00 => 32 | 0x01 => 16 | 0x02 => 8 | 0x03 => 8 | 0x04 => 8 | 0x05 => 8 | 0x06 => 6 | 0x07 => 6
  | 0x08 => 4 | 0x09 => 8 | 0x0A => 4 | 0x0B => 2 | 0x0C => 48 | _ => 32

def fmtKnown (f : Nat) : Bool := decide (f ≤ 0x0E)

/-- Block length, 0 for a format without block scales. -/
def blockLen (f : Nat) : Nat :=
  if 0x04 ≤ f && f ≤ 0x09 then 32 else if f == 0x0A || f == 0x0B then 16 else 0

def scaled (f : Nat) : Bool := blockLen f != 0

/-- The element grids of Tables 2 and 7 and R112: mantissa bits and bias, largest finite code, or integers. -/
inductive Grid where
  | float (m : Nat) (b : Nat) (max : Nat)
  | int (max : Nat)
  deriving DecidableEq, Repr

def gridOf (f : Nat) (neg : Bool) : Grid :=
  match f with
  | 0x00 => .float 23 127 0x7F7FFFFF
  | 0x01 => .float 7 127 0x7F7F
  | 0x02 => .float 3 7 0x7E
  | 0x03 => .float 2 15 0x7B
  | 0x04 => .float 3 7 0x7E
  | 0x05 => .float 2 15 0x7B
  | 0x06 => .float 3 1 31
  | 0x07 => .float 2 3 31
  | 0x08 => .float 1 1 7
  | 0x09 => .int 127
  | 0x0A => .float 1 1 7
  | 0x0B => .int (if neg then 1 else 2)
  | 0x0C => .float 39 127 (0x7F8000000000 - 1)
  | 0x0D => .int (if neg then 2 ^ 31 else 2 ^ 31 - 1)
  | _ => .int (if neg then 0 else 2 ^ 32 - 1)

/-- The value of a magnitude code on a floating grid (R108). -/
def floatVal (m b : Nat) (neg : Bool) (code : Nat) : Val :=
  let e := code / 2 ^ m
  let f := code % 2 ^ m
  if e = 0 then .fin neg f (1 - (b : Int) - m) else .fin neg (2 ^ m + f) ((e : Int) - b - m)

/-- The value of a magnitude code on a grid. -/
def gridVal (g : Grid) (neg : Bool) (code : Nat) : Val :=
  match g with
  | .float m b _ => floatVal m b neg code
  | .int _ => .fin neg code 0

def gridMax : Grid → Nat
  | .float _ _ m => m
  | .int m => m

/-- ⌊log₂⌋ of a positive fraction. -/
def log2Frac (n d : Nat) : Int :=
  let k : Int := (Nat.log2 n : Int) - Nat.log2 d
  let c := pow2Frac k
  if n * c.2 < c.1 * d then k - 1 else k

/-- The greatest code at or below n/d on a grid without an upper limit, and the discarded fraction of the spacing. -/
def floorCode (g : Grid) (n d : Nat) : Nat × Nat × Nat :=
  match g with
  | .int _ => (n / d, n % d, d)
  | .float m b _ =>
    if n = 0 then (0, 0, 1) else
      let e := max (log2Frac n d) (1 - (b : Int))
      let s := pow2Frac (e - m)
      let x := n * s.2
      let y := d * s.1
      let u := x / y
      ((e + b - 1).toNat * 2 ^ m + u, x % y, y)

/-! ## Rounding (R127 to R132) -/

/-- ROUND of a CVT word (Table 10). -/
inductive Round where
  | rne | rtz | sr
  deriving DecidableEq, Repr

def cvtRound (cvt : Nat) : Round := if cvt % 4 = 1 then .rtz else if cvt % 4 = 2 then .sr else .rne
def cvtNosat (cvt : Nat) : Bool := cvt.testBit 2
def cvtScaleMode (cvt : Nat) : Nat := cvt / 8 % 4
/-- Reserved values of CVT (R127). -/
def cvtOk (cvt : Nat) : Bool := decide (cvt < 32) && cvt % 4 != 3 && decide (cvtScaleMode cvt < 2)

/-- Counts of a conversion (R133, R140). -/
structure Cnt where
  sat : Nat := 0
  und : Nat := 0
  nonfin : Nat := 0
  made : Nat := 0
  deriving DecidableEq, Repr

def Cnt.add (a b : Cnt) : Cnt :=
  { sat := a.sat + b.sat, und := a.und + b.und, nonfin := a.nonfin + b.nonfin, made := a.made + b.made }

/-- Round a magnitude n/d on a grid without an upper limit: RNE with ties to the even code, RTZ, or SR with 16 random
bits (R129, R130). -/
def roundCode (g : Grid) (rd : Round) (r : Nat) (n d : Nat) : Nat :=
  let q := floorCode g n d
  match rd with
  | .rtz => q.1
  | .rne => if 2 * q.2.1 > q.2.2 || (2 * q.2.1 == q.2.2 && q.1 % 2 == 1) then q.1 + 1 else q.1
  | .sr => if r < q.2.1 * 65536 / q.2.2 then q.1 + 1 else q.1

/-- The magnitude overflows the grid (R131); under RTZ it exceeds the range. -/
def overflows (g : Grid) (rd : Round) (n d : Nat) : Bool :=
  let q := floorCode g n d
  let m := gridMax g
  if m < q.1 then true
  else if q.1 = m then
    match rd with
    | .rne => decide (q.2.2 ≤ 2 * q.2.1)
    | _ => decide (0 < q.2.1)
  else false

/-- A finite magnitude on a grid with saturation: (code, saturated). -/
def satCode (g : Grid) (rd : Round) (r : Nat) (n d : Nat) : Nat × Bool :=
  if overflows g rd n d then (gridMax g, true) else (min (roundCode g rd r n d) (gridMax g), false)

/-- Magnitude codes of infinity and of the NaN that the V20 writes, for unscaled floating formats (Table 3). -/
def infCode (f : Nat) : Nat :=
  match f with
  | 0x00 => 0x7F800000 | 0x01 => 0x7F80 | 0x02 => 0x7F | 0x03 => 0x7C | _ => 0x7F8000000000
def nanCode (f : Nat) : Nat :=
  match f with
  | 0x00 => 0x7FC00000 | 0x01 => 0x7FC0 | 0x02 => 0x7F | 0x03 => 0x7E | _ => 0x7FC000000000

/-- The code with which the V20 writes a value that it moves unchanged: an M48 value whose EXP is 0xFF and whose tail is not zero
is NaN, and what is written has a zero tail (R117). -/
def m48Canon (f c : Nat) : Nat :=
  if f = 0x0C && c / 2 ^ 39 % 256 = 0xFF && c % 65536 ≠ 0 then nanCode 0x0C else c

/-- Place the sign on a magnitude code. -/
def signCode (f : Nat) (neg : Bool) (c : Nat) : Nat := c + b2n neg * 2 ^ (fmtBits f - 1)

/-- Two's complement of a signed integer magnitude. -/
def intCode (bits : Nat) (neg : Bool) (c : Nat) : Nat := if neg then (2 ^ bits - c) % 2 ^ bits else c

/-- The limits of INT32 and UINT32 (R115). -/
def intMin (f : Nat) : Int := if f = 0x0D then -2147483648 else 0
def intMax (f : Nat) : Int := if f = 0x0D then 2147483647 else 4294967295

/-- A finite value into INT32 or UINT32: rounded under the conversion control first, then saturated at the limits with a
count (R115; log 116). A non-zero value whose result is 0 counts an underflow (R133). -/
def narrowInt (f cvt r : Nat) (neg : Bool) (m : Nat) (e : Int) : Nat × Cnt :=
  let q := fracOf m e
  let i := Val.toInt (roundCode (.int 0) (cvtRound cvt) r q.1 q.2) neg
  let j := max (intMin f) (min (intMax f) i)
  (intCode 32 (j < 0) j.natAbs, { sat := b2n (j != i), und := b2n (j == 0 && m != 0) })

/-- Narrow into an unscaled format: FP32, BF16, E4M3, E5M2, M48, INT32, UINT32 (Table 11, R115, R133). -/
def narrow (f cvt r : Nat) (v : Val) : Nat × Cnt :=
  if f = 0x0D || f = 0x0E then
    match v with
    | .nan => (0, { nonfin := 1 })
    | .inf neg => (if f = 0x0D then (if neg then 2 ^ 31 else 2 ^ 31 - 1) else (if neg then 0 else 2 ^ 32 - 1), { nonfin := 1 })
    | .fin neg m e => narrowInt f cvt r neg m e
  else
    match v with
    | .nan => (nanCode f, { nonfin := 1 })
    | .inf neg => (if f = 0x02 then 0x7F else signCode f neg (infCode f), { nonfin := 1 })
    | .fin neg m e =>
      let q := fracOf m e
      let g := gridOf f neg
      let rd := cvtRound cvt
      if overflows g rd q.1 q.2 && cvtNosat cvt && rd != .rtz then
        (if f = 0x02 then 0x7F else signCode f neg (infCode f), {})
      else
        let c := satCode g rd r q.1 q.2
        (signCode f neg c.1, { sat := b2n c.2, und := b2n (c.1 == 0 && m != 0) })

/-- Widen to FP32 or BF16: round without an upper limit; beyond the largest finite value the result is ±∞ and counts as
a non-finite value produced (R140). -/
def widen (f cvt r : Nat) (v : Val) : Nat × Cnt :=
  match v with
  | .nan => (nanCode f, {})
  | .inf neg => (signCode f neg (infCode f), {})
  | .fin neg m e =>
    let q := fracOf m e
    let g := gridOf f neg
    let c := roundCode g (cvtRound cvt) r q.1 q.2
    if gridMax g < c then (signCode f neg (infCode f), { made := 1 }) else (signCode f neg c, {})

/-! ## Reading elements (R112 to R125) -/

/-- The value of an element code without its scales; an M48 code is FP32 word · 2¹⁶ + tail (R116). -/
def codeVal (f code : Nat) : Val :=
  match f with
  | 0x09 => let s := signed 8 code; .fin (s < 0) s.natAbs (-6)
  | 0x0B => match code % 4 with
    | 0 => .fin false 0 0 | 1 => .fin false 1 0 | 2 => .fin false 2 0 | _ => .fin true 1 0
  | 0x0D => let s := signed 32 code; .fin (s < 0) s.natAbs 0
  | 0x0E => .fin false code 0
  | _ =>
    let w := fmtBits f
    let neg := code.testBit (w - 1)
    let c := code % 2 ^ (w - 1)
    let plain := gridVal (gridOf f neg) neg c
    match f with
    | 0x00 => if c < 0x7F800000 then plain else if c = 0x7F800000 then .inf neg else .nan
    | 0x01 => if c < 0x7F80 then plain else if c = 0x7F80 then .inf neg else .nan
    | 0x02 => if c = 0x7F then .nan else plain
    | 0x04 => if c = 0x7F then .nan else plain
    | 0x03 => if c < 0x7C then plain else if c = 0x7C then .inf neg else .nan
    | 0x05 => if c < 0x7C then plain else if c = 0x7C then .inf neg else .nan
    | 0x0C => if c < 0x7F8000000000 then plain else if c = 0x7F8000000000 then .inf neg else .nan
    | _ => plain

/-- FP32 words as values and back. -/
def f32 (w : W32) : Val := codeVal 0x00 w.toNat
/-- Round once into FP32 under RNE, overflow to ±∞ (NOSAT). -/
def toF32 (v : Val) : W32 := w32 (narrow 0x00 4 0 v).1

/-- A block scale as an exact positive value; NaN where it is NaN (R113, R125). -/
def scaleVal (f code : Nat) : Val :=
  if blockLen f = 32 then (if code = 0xFF then .nan else .fin false 1 ((code : Int) - 127))
  else if 0x7F ≤ code then .nan else codeVal 0x02 code

/-- The value of a block-scaled element (R124, R125). A zero that a zero scale makes carries the sign of the element's own
code value, whatever the sign of the tensor scale. -/
def elemVal (f code scale : Nat) (tscale : W32) : Val :=
  if !scaled f then codeVal f code else
    let t : Val := if f = 0x0A then (match f32 tscale with | .fin n m e => .fin n m e | _ => .nan) else .one
    let q := codeVal f code
    match scaleVal f scale with
    | .nan => .nan
    | sc =>
      if t.isNan then .nan
      else if q.isFin && (sc.isZero || t.isZero) then .fin q.negative 0 0
      else Val.mul (Val.mul q sc) t

/-! ## Block scales (R134 to R138) -/

/-- The largest finite magnitude of a list of values. -/
def maxMag (vs : List Val) : Val :=
  vs.foldl (fun a v => if v.isFin && Val.lt a v.abs then v.abs else a) .zero

/-- emax of R134. -/
def emaxOf (f : Nat) : Int :=
  match f with
  | 0x04 => 8 | 0x05 => 15 | 0x06 => 2 | 0x07 => 4 | 0x08 => 2 | _ => 0

/-- The scale code that an MX block takes (R134). -/
def mxScale (f : Nat) (a : Val) : Nat :=
  match a with
  | .fin _ m e => if m = 0 then 0 else
    let q := fracOf m e
    let x := log2Frac q.1 q.2 - emaxOf f
    ((max (-127) (min 127 x)) + 127).toNat
  | _ => 0

/-- A positive fraction rounded up to the next E4M3 value and clamped to 2⁻⁹ to 448 (R135, R136). -/
def e4m3Up (n d : Nat) : Nat :=
  if n = 0 then 0 else
    let q := floorCode (.float 3 7 0x7E) n d
    max 1 (min 0x7E (if q.2.1 = 0 then q.1 else q.1 + 1))

/-- The tensor scale of R135 for a largest magnitude A_t. -/
def f4sTensorScale (a : Val) : W32 :=
  match a with
  | .fin _ m e => if m = 0 then 0x3F800000 else
    let q := fracOf m e
    w32 (max 0x00800000 (min 0x7F7FFFFF (roundCode (.float 23 127 0x7F7FFFFF) .rne 0 q.1 (q.2 * 2688))))
  | _ => 0x3F800000

/-- Divide a finite magnitude by a positive finite value, as a fraction. -/
def quot (m : Nat) (e : Int) (s : Val) : Nat × Nat :=
  match s with
  | .fin _ n f => let a := fracOf m e; let b := fracOf n f; (a.1 * b.2, a.2 * b.1)
  | _ => (0, 1)

/-- The block scale chosen under SCALE_MODE 0 (R134 to R136). -/
def chooseScale (f : Nat) (tscale : W32) (vs : List Val) : Nat :=
  if blockLen f = 32 then mxScale f (maxMag vs)
  else if f = 0x0A then
    match maxMag vs with
    | .fin _ m e => if m = 0 then 0 else let q := quot m e (Val.mul (.fin false 6 0) (f32 tscale)); e4m3Up q.1 q.2
    | _ => 0
  else
    let p := maxMag (vs.filter fun v => !v.negative)
    let n := maxMag (vs.filter fun v => v.negative)
    let half := Val.mul p (.fin false 1 (-1))
    match (if Val.lt half n then n else half) with
    | .fin _ m e => let q := fracOf m e; e4m3Up q.1 q.2
    | _ => 0

/-- A narrowed block: element codes, scale code, counts, scale excess (R138). -/
structure BlockOut where
  codes : List Nat
  scale : Nat
  cnt : Cnt
  excess : Nat
  deriving DecidableEq, Repr

/-- Least e from 0 to 255 with n/d ≤ 2ᵉ. -/
def leastShift (n d : Nat) : Nat :=
  if n ≤ d then 0 else
    let k := (log2Frac n d).toNat
    min 255 (if n ≤ d * 2 ^ k then k else k + 1)

/-- The scale excess of a block under a given scale (R138). -/
def excessOf (f : Nat) (s : Val) (vs : List Val) : Nat :=
  let ratio (v : Val) (top : Val) : Nat := match v with
    | .fin _ m e => if m = 0 then 0 else let q := quot m e (Val.mul top s); leastShift q.1 q.2
    | _ => 0
  if f = 0x0B then
    max (ratio (maxMag (vs.filter fun v => !v.negative)) (.fin false 2 0)) (ratio (maxMag (vs.filter fun v => v.negative)) .one)
  else
    let g := gridOf f false
    let top := if f = 0x09 then Val.fin false 127 (-6) else gridVal g false (gridMax g)
    ratio (maxMag vs) top

/-- One element against an exact positive scale: its code and counts. -/
def narrowElem (f cvt r : Nat) (s : Val) (v : Val) : Nat × Cnt :=
  match v with
  | .fin neg m e =>
    let q := quot m e (if f = 0x09 then Val.mul s (.fin false 1 (-6)) else s)
    let c := satCode (gridOf f neg) (cvtRound cvt) r q.1 q.2
    let code := if f = 0x09 then intCode 8 neg c.1
      else if f = 0x0B then (if c.1 = 0 then 0 else if neg then 3 else c.1)
      else signCode f neg c.1
    (code, { sat := b2n c.2, und := b2n (c.1 == 0 && m != 0) })
  | _ => (0, {})

/-- An element of a block whose computed scale has nothing to scale: a zero with its sign, +0 for MXINT8 and T2 (R111,
Table 11). -/
def zeroElem (f : Nat) (v : Val) : Nat := if f = 0x09 || f = 0x0B then 0 else signCode f v.negative 0

/-- The scale excess that a block reports under a given scale, from its finite inputs: 0 under a NaN scale, 255 under a
zero scale unless nothing is there to scale, else R138's least e. -/
def givenExcess (f : Nat) (scale tscale : Val) (vs : List Val) : Nat :=
  if scale.isNan || !tscale.isFin then 0
  else if scale.isZero || tscale.isZero then (if (maxMag vs).isZero then 0 else 255)
  else excessOf f (Val.mul scale tscale).abs vs

/-- Narrow one block (R133 to R138): `given` is the destination's scale under SCALE_MODE 1; `rs` the random words. A block
with a non-finite input is written as NaN: its scale becomes the NaN code of its format, whatever NaN code was given
(log 110). A negative F4S tensor scale narrows the negated values against its magnitude (log 109). -/
def narrowBlock (f cvt : Nat) (tscale : W32) (given : Option Nat) (vs : List Val) (rs : List Nat) : BlockOut :=
  let t := if f = 0x0A then f32 tscale else .one
  let nanScale := if blockLen f = 32 then 0xFF else 0x7F
  let zeros := vs.map fun _ => 0
  let excess := match given with
    | some g => givenExcess f (scaleVal f g) t vs
    | none => 0
  if vs.any (fun v => !v.isFin) then { codes := zeros, scale := nanScale, cnt := { nonfin := 1 }, excess := excess }
  else
    let sc := match given with
      | some g => g
      | none => chooseScale f tscale vs
    let sv := scaleVal f sc
    if sv.isNan || !t.isFin then { codes := zeros, scale := sc, cnt := {}, excess := excess }
    else
      let full := Val.mul sv t
      if full.isZero || (given.isNone && (maxMag vs).isZero) then
        let nz := (vs.filter fun v => !v.isZero).length
        { codes := if given.isSome then zeros else vs.map (zeroElem f), scale := sc, cnt := { und := if given.isSome then nz else 0 },
          excess := excess }
      else
        let es := (vs.zip (rs ++ vs.map fun _ => 0)).map fun p => narrowElem f cvt p.2 full.abs (if full.negative then p.1.neg else p.1)
        { codes := es.map Prod.fst, scale := sc, cnt := (es.map Prod.snd).foldl Cnt.add {}, excess := excess }

/-! ## Conversions between formats (R128, R139, R140) -/

/-- A conversion from `src` into an unscaled target is a widening one (Table 12). -/
def widening (src dst : Nat) : Bool :=
  (dst == 0x00 && src != 0x00 && src != 0x0C) || (dst == 0x01 && src != 0x00 && src != 0x01 && src != 0x0C)

/-- Convert one value of a source format into an unscaled target. -/
def convert (src dst cvt r : Nat) (v : Val) : Nat × Cnt :=
  if widening src dst then widen dst cvt r v else narrow dst cvt r v

end Sys2Proof.Machine
end

