-- ==== Sys2Proof/Machine/Operands.lean ====
section
/-!
DEFINITION. Tensor descriptors: their fields and checks (R95 to R98, R107), where their elements lie (R95, R118, R119,
R122), and reading and writing the elements they name.
-/
namespace Sys2Proof.Machine

/-! ## Fields of the descriptor (Table 12a of ch. 02) -/

def dAddr (d : DescWord) : Nat := fld d 42 0
def dSpace (d : DescWord) : Nat := fld d 45 43
def dCore (d : DescWord) : Nat := fld d 53 46
def dFmt (d : DescWord) : Nat := fld d 58 54
def dRank (d : DescWord) : Nat := fld d 61 59
def dPad (d : DescWord) : Nat := fld d 63 62
def dScaleAddr (d : DescWord) : Nat := fld d 106 64
def dScaleSpace (d : DescWord) : Nat := fld d 109 107
def dScaleCore (d : DescWord) : Nat := fld d 117 110
def dTensorId (d : DescWord) : W32 := w32 (fld d 159 128)
def dFill (d : DescWord) : W32 := w32 (fld d 191 160)
def dSize (d : DescWord) (i : Nat) : Nat := fld d (215 + 24 * i) (192 + 24 * i)
def dStride (d : DescWord) (i : Nat) : Nat := if i = 0 then 1 else fld d (370 + 35 * (i - 1)) (336 + 35 * (i - 1))
def dSizes (d : DescWord) : List Nat := (List.range 6).map (dSize d)
def dCount (d : DescWord) : Nat := (dSizes d).foldl (· * ·) 1
/-- Bytes that the elements take, the capacity of R624. -/
def dCapacity (d : DescWord) : Nat := dCount d * fmtBits (dFmt d) / 8

/-- Rows of dimension 0 and blocks in a row (R121, R122). -/
def dRows (d : DescWord) : Nat := dCount d / max 1 (dSize d 0)
def dBlocks (d : DescWord) : Nat := if blockLen (dFmt d) = 0 then 0 else (dSize d 0 + blockLen (dFmt d) - 1) / blockLen (dFmt d)
def dPitch (d : DescWord) : Nat := 32 * ((dBlocks d + 31) / 32)
def dScaleHeader (d : DescWord) : Nat := if dFmt d = 0x0A then 32 else 0
def dScaleBytes (d : DescWord) : Nat := if blockLen (dFmt d) = 0 then 0 else dScaleHeader d + dRows d * dPitch d

/-- Linear element offset of the last element (R95). -/
def dLastOffset (d : DescWord) : Nat :=
  (List.range 6).foldl (fun a i => a + dStride d i * (dSize d i - 1)) 0

/-- Bytes from ADDR to the end of the last element; M48 in groups of 96 (R118). -/
def dExtent (d : DescWord) : Nat :=
  if dFmt d = 0x0C then 96 * (dLastOffset d / 16 + 1) else ((dLastOffset d + 1) * fmtBits (dFmt d) + 7) / 8

/-- The reserved fields of a descriptor are zero, also of one that the form of a message leaves unused (R14). -/
def descReservedOk (d : DescWord) : Bool := !bitAt d 511 && fld d 127 118 == 0

/-- The rules of R96 and the reserved fields of R14. -/
def descFormOk (d : DescWord) : Bool :=
  let r := dRank d
  descReservedOk d &&
  fmtKnown (dFmt d) && dPad d != 3 && decide (dSpace d ≤ 3) && r != 0 && r != 7 &&
  (List.range 6).all (fun i => if r ≤ i then dSize d i == 1 && (i == 0 || dStride d i == 0) else dSize d i != 0) &&
  dAddr d % 32 == 0 && dScaleAddr d % 32 == 0 &&
  (List.range 6).all (fun i => i == 0 || dStride d i * fmtBits (dFmt d) % 256 == 0) &&
  (if scaled (dFmt d) then decide (dScaleSpace d ≤ 3)
   else dScaleSpace d == 0 && dScaleAddr d == 0 && dScaleCore d == 0)

/-- Size of a T0 block: 4 MiB scratchpad, 1 MiB accumulator store, 128 MiB map buffer (Table 2 of ch. 01). -/
def t0Size (space : Nat) : Nat := if space = 1 then 2 ^ 22 else if space = 2 then 2 ^ 20 else 2 ^ 27

/-- A T0 extent within its block, and CORE zero for the unified range (R97); an extent past the end of the unified range is
refused like one past a T0 block (log 108). -/
def spaceOk (space core addr bytes : Nat) (coreMax : Nat → Bool) : Bool :=
  if space = 0 then core == 0 && decide (addr + bytes ≤ 2 ^ 43) else coreMax core && decide (addr + bytes ≤ t0Size space)

/-- The status of a descriptor that a command carries, 0 when it passes R96 and R97. -/
def descCheck (coreOk : Nat → Bool) (d : DescWord) : Bool :=
  descFormOk d && spaceOk (dSpace d) (dCore d) (dAddr d) (dExtent d) coreOk &&
  (!scaled (dFmt d) || spaceOk (dScaleSpace d) (dScaleCore d) (dScaleAddr d) (dScaleBytes d) coreOk)

/-- A core number of a command's descriptor: at most 51 (R97). -/
def cmdCoreOk (c : Nat) : Bool := decide (c % 64 ≤ 51)
/-- A slot of a pattern's descriptor: one of its CORES (R97). -/
def slotOk (cores : Nat) (c : Nat) : Bool := decide (c < cores)

/-! ## Pages of the unified range (R98, R335) -/

/-- Pages from a byte address over a length. -/
def pagesOf (addr bytes : Nat) : List Nat :=
  if bytes = 0 then [] else (List.range ((addr + bytes - 1) / pageSize - addr / pageSize + 1)).map (addr / pageSize + ·)

def pageEntry (s : State) (page : Nat) : Option TierEntry := tget? s.tiers.map page

/-- The pages are allocated to the partition. -/
def pagesOwned (s : State) (p : Nat) (addr bytes : Nat) : Bool :=
  (pagesOf addr bytes).all fun g => match pageEntry s g with
    | some e => e.part == p
    | none => false

/-- The bank of a die that holds a byte of its map buffer: sixteen banks, interleaved at 4 KiB (Table 5 of ch. 09). -/
def bankOfAddr (a : Nat) : Nat := a / 4096 % 16

/-- The banks that an extent of a map buffer reaches. -/
def banksOf (addr bytes : Nat) : List Nat :=
  if bytes = 0 then []
  else (List.range (min 16 ((addr + bytes - 1) / 4096 - addr / 4096 + 1))).map fun i => bankOfAddr (addr + 4096 * i)

/-- A map-buffer extent lies in banks that the mask of 64 bits holds: bank b of CDn is bit 16·n + b (R353). -/
def banksHeld (mask die addr bytes : Nat) : Bool := (banksOf addr bytes).all fun b => mask.testBit (16 * die + b)

/-- One extent permitted to a partition: its pages, or a core of the partition, and for SPACE 3 the banks too (R98; log 134);
`core` is a physical core. -/
def extentPermitted (s : State) (p : Nat) (x : Partition) (mask : Nat) (space core addr bytes : Nat) : Bool :=
  if space = 0 then pagesOwned s p addr bytes
  else (partCores s x).contains core && (space != 3 || banksHeld mask (dieOfCore core) addr bytes)

/-- The physical core that a command's descriptor names (R97). -/
def cmdCore (c : Nat) : Nat := 52 * (c / 64) + c % 64

def descPermitted (s : State) (p : Nat) (x : Partition) (mask : Nat) (phys : Nat → Nat) (d : DescWord) : Bool :=
  extentPermitted s p x mask (dSpace d) (phys (dCore d)) (dAddr d) (dExtent d) &&
  (!scaled (dFmt d) || extentPermitted s p x mask (dScaleSpace d) (phys (dScaleCore d)) (dScaleAddr d) (dScaleBytes d))

/-- Check a command's descriptor: REFUSED_BAD_DESCRIPTOR, then REFUSED_NOT_PERMITTED (R96 to R98). -/
def needDesc {α : Type} (s : State) (p : Nat) (x : Partition) (d : DescWord) (k : Except Nat α) : Except Nat α :=
  need (descCheck cmdCoreOk d) 0x0202 (need (descPermitted s p x x.mapbuf cmdCore d) 0x0205 k)

/-- As `needDesc` for a destination or source that must have SPACE 0 (R624). -/
def needUnified {α : Type} (s : State) (p : Nat) (x : Partition) (d : DescWord) (k : Except Nat α) : Except Nat α :=
  need (descCheck cmdCoreOk d && dSpace d == 0 && (!scaled (dFmt d) || dScaleSpace d == 0)) 0x0202
    (need (descPermitted s p x x.mapbuf cmdCore d) 0x0205 k)

/-! ## Tensors: a descriptor with its cores resolved -/

/-- The space that SPACE and a physical core name. -/
def spaceFor (space core : Nat) : Space :=
  if space = 0 then .unified else if space = 1 then .spad core else if space = 2 then .acc core else .mapbuf (dieOfCore core)

/-- A descriptor whose CORE fields have been turned into physical cores. -/
structure Tensor where
  d : DescWord
  core : Nat := 0
  score : Nat := 0
  deriving DecidableEq, Repr

def Tensor.space (t : Tensor) : Space := spaceFor (dSpace t.d) t.core
def Tensor.scaleSpace (t : Tensor) : Space := spaceFor (dScaleSpace t.d) t.score

def cmdTensor (d : DescWord) : Tensor := { d := d, core := cmdCore (dCore d), score := cmdCore (dScaleCore d) }

/-- The indices i0 to i5 of the k-th element in logical order, dimension 0 innermost. -/
def indexOf (d : DescWord) (k : Nat) : List Nat :=
  ((List.range 6).foldl (fun (p : List Nat × Nat) i => (p.1 ++ [p.2 % max 1 (dSize d i)], p.2 / max 1 (dSize d i))) ([], k)).1

/-- Linear element offset of an index (R95). -/
def offsetOf (d : DescWord) (ix : List Nat) : Nat :=
  ((List.range 6).zip ix).foldl (fun a p => a + dStride d p.1 * p.2) 0

/-- Row index of an index in the block-scale array (R122). -/
def rowOf (d : DescWord) (ix : List Nat) : Nat :=
  ((List.range 5).reverse).foldl (fun a i => ix.getD (i + 1) 0 + dSize d (i + 1) * a) 0

/-- n bits of a space from stream bit b of an address (R119). -/
def readBits (s : State) (sp : Space) (addr b n : Nat) : Nat :=
  (s.readNat sp (addr + b / 8) ((b % 8 + n + 7) / 8) >>> (b % 8)) % 2 ^ n

/-- Write n bits at stream bit b, leaving the other bits of the bytes as they are (R120). -/
def writeBits (s : State) (sp : Space) (addr b n v : Nat) : State :=
  let k := (b % 8 + n + 7) / 8
  let old := s.readNat sp (addr + b / 8) k
  let mask := (2 ^ n - 1) <<< (b % 8)
  let new := (old - (old &&& mask)) + (v % 2 ^ n) <<< (b % 8)
  s.write sp (addr + b / 8) (leBytes k new)

/-- Element code at linear offset k (R118, R119). -/
def Tensor.readCode (s : State) (t : Tensor) (k : Nat) : Nat :=
  let f := dFmt t.d
  if f = 0x0C then
    let a := dAddr t.d + 96 * (k / 16)
    s.readNat t.space (a + 4 * (k % 16)) 4 * 65536 + s.readNat t.space (a + 64 + 2 * (k % 16)) 2
  else readBits s t.space (dAddr t.d) (fmtBits f * k) (fmtBits f)

def Tensor.writeCode (s : State) (t : Tensor) (k code : Nat) : State :=
  let f := dFmt t.d
  if f = 0x0C then
    let a := dAddr t.d + 96 * (k / 16)
    (s.writeNat t.space (a + 4 * (k % 16)) 4 (code / 65536)).writeNat t.space (a + 64 + 2 * (k % 16)) 2 code
  else writeBits s t.space (dAddr t.d) (fmtBits f * k) (fmtBits f) code

/-- The tensor scale of an F4S tensor (R123). -/
def Tensor.tscale (s : State) (t : Tensor) : W32 :=
  if dFmt t.d = 0x0A then w32 (s.readNat t.scaleSpace (dScaleAddr t.d) 4) else 0x3F800000

def Tensor.scaleAt (t : Tensor) (row block : Nat) : Nat :=
  dScaleAddr t.d + dScaleHeader t.d + row * dPitch t.d + block

def Tensor.readScale (s : State) (t : Tensor) (row block : Nat) : Nat := (s.byte t.scaleSpace (t.scaleAt row block)).toNat

/-- The value that a code has as the element at an index. -/
def Tensor.valueOf (s : State) (t : Tensor) (ix : List Nat) (code : Nat) : Val :=
  let f := dFmt t.d
  if scaled f then elemVal f code (t.readScale s (rowOf t.d ix) (ix.getD 0 0 / blockLen f)) (t.tscale s) else codeVal f code

/-- The value of the element at an index. -/
def Tensor.value (s : State) (t : Tensor) (ix : List Nat) : Val := t.valueOf s ix (t.readCode s (offsetOf t.d ix))

/-- Every value in logical order. -/
def Tensor.values (s : State) (t : Tensor) : List Val :=
  (List.range (dCount t.d)).map fun k => t.value s (indexOf t.d k)

/-- The element codes in logical order: "packed elements as stream bits", for copies that do not convert. -/
def Tensor.codes (s : State) (t : Tensor) : List Nat :=
  (List.range (dCount t.d)).map fun k => t.readCode s (offsetOf t.d (indexOf t.d k))

/-- An element code as its bytes lie in memory, first byte lowest: of M48 the FP32 word, then the tail word (R118). -/
def memCode (f c : Nat) : Nat := if f = 0x0C then c / 65536 + c % 65536 * 2 ^ 32 else c
def codeOfMem (f n : Nat) : Nat := if f = 0x0C then n % 2 ^ 32 * 65536 + n / 2 ^ 32 else n

/-- The element bytes in memory order of ascending logical offset, packed elements as stream bits, as R624 and R216 take
them. -/
def Tensor.bytes (s : State) (t : Tensor) : List Byte :=
  let w := fmtBits (dFmt t.d)
  let cs := t.codes s
  let n := cs.foldr (fun c a => memCode (dFmt t.d) c + 2 ^ w * a) 0
  leBytes ((w * cs.length + 7) / 8) n

/-- Write the first `bits` bits of an element's memory image and leave its other bits as they are. -/
def Tensor.writePart (s : State) (t : Tensor) (k bits v : Nat) : State :=
  let f := dFmt t.d
  let old := memCode f (t.readCode s k)
  t.writeCode s k (codeOfMem f (old - old % 2 ^ bits + v % 2 ^ bits))

/-- Write bytes into a descriptor's elements in ascending logical offset; an element that the bytes fill in part keeps the
rest of its bits (R624). -/
def Tensor.writeBytes (s : State) (t : Tensor) (bs : List Byte) : State :=
  let w := fmtBits (dFmt t.d)
  let n := leNat bs
  (List.range (min (dCount t.d) ((8 * bs.length + w - 1) / w))).foldl
    (fun s k => t.writePart s (offsetOf t.d (indexOf t.d k)) (min w (8 * bs.length - w * k)) (n >>> (w * k))) s

/-- Zero into the bytes that follow the last block of a scale row (R122). -/
def Tensor.padRow (s : State) (t : Tensor) (r : Nat) : State :=
  s.write t.scaleSpace (t.scaleAt r (dBlocks t.d)) (List.replicate (dPitch t.d - dBlocks t.d) 0)

/-- Zero into the bytes that follow the last block of every scale row, and bytes 4 to 31 of an F4S header (R122, R123). -/
def Tensor.padScales (s : State) (t : Tensor) : State :=
  if !scaled (dFmt t.d) then s else
    let s := if dFmt t.d = 0x0A then s.write t.scaleSpace (dScaleAddr t.d + 4) (List.replicate 28 0) else s
    (List.range (dRows t.d)).foldl (fun s r => t.padRow s r) s

/-- What a store did to one block (or, in a format without block scales, one group of 32): its counts and scale excess. -/
structure StoreBlk where
  row : Nat
  block : Nat
  cnt : Cnt
  excess : Nat := 0
  deriving DecidableEq, Repr

/-- Totals of a store. -/
def totalCnt (bs : List StoreBlk) : Cnt := bs.foldl (fun a b => Cnt.add a b.cnt) {}

/-- Write one block of values that begins at element k (logical order) of row r. -/
def Tensor.storeBlock (t : Tensor) (src cvt : Nat) (ts : W32) (s : State) (r b k : Nat) (vs : List Val) (rs : List Nat) :
    State × StoreBlk :=
  let f := dFmt t.d
  let put (s : State) (codes : List Nat) : State :=
    ((List.range codes.length).zip codes).foldl (fun s p => t.writeCode s (offsetOf t.d (indexOf t.d (k + p.1))) p.2) s
  if scaled f then
    let bo := narrowBlock f cvt ts (if cvtScaleMode cvt = 0 then none else some (t.readScale s r b)) vs rs
    (put (s.write t.scaleSpace (t.scaleAt r b) [BitVec.ofNat 8 bo.scale]) bo.codes,
     { row := r, block := b, cnt := bo.cnt, excess := bo.excess })
  else
    let es := (vs.zip (rs ++ vs.map fun _ => 0)).map fun p => convert src f cvt p.2 p.1
    (put s (es.map Prod.fst), { row := r, block := b, cnt := (es.map Prod.snd).foldl Cnt.add {} })

/-- Write values from element k on in logical order, block by block. Where k lies inside a block, the part written alone
gives the block its scale (log 111). -/
def Tensor.storeFrom (t : Tensor) (src cvt : Nat) (ts : W32) : Nat → State → Nat → List Val → List Nat → State × List StoreBlk
  | 0, s, _, _, _ => (s, [])
  | fuel + 1, s, k, vs, rs =>
    if vs.isEmpty then (s, []) else
      let l := if scaled (dFmt t.d) then blockLen (dFmt t.d) else 32
      let n0 := max 1 (dSize t.d 0)
      let i0 := k % n0
      let n := min (l - i0 % l) (n0 - i0)
      let o := t.storeBlock src cvt ts s (k / n0) (i0 / l) k (vs.take n) (rs.take n)
      let r := t.storeFrom src cvt ts fuel o.1 (k + n) (vs.drop n) (rs.drop n)
      (r.1, o.2 :: r.2)

/-- A run of a store: its first element in logical order, the random words of its elements, their values. -/
abbrev StoreRun := Nat × List Nat × List Val

/-- Write runs of values of a source format under a CVT word against a tensor scale (R128 to R138). -/
def Tensor.storeWith (s : State) (t : Tensor) (src cvt : Nat) (ts : W32) (runs : List StoreRun) : State × List StoreBlk :=
  let o := runs.foldl (fun (p : State × List StoreBlk) r =>
    let q := t.storeFrom src cvt ts r.2.2.length p.1 r.1 r.2.2 r.2.1
    (q.1, p.2 ++ q.2)) (s, [])
  (t.padScales o.1, o.2)

/-- Write runs of values. A computed F4S tensor scale is that of a tensor of largest finite magnitude `top` (R135). -/
def Tensor.storeAs (s : State) (t : Tensor) (src cvt : Nat) (top : Val) (runs : List StoreRun) : State × List StoreBlk :=
  let computed := cvtScaleMode cvt == 0
  let ts := if dFmt t.d = 0x0A && computed then f4sTensorScale top else t.tscale s
  let s := if dFmt t.d = 0x0A && computed then s.writeNat t.scaleSpace (dScaleAddr t.d) 4 ts.toNat else s
  t.storeWith s src cvt ts runs

/-- Write runs that a computed F4S tensor scale is taken from. -/
def Tensor.storeRuns (s : State) (t : Tensor) (src cvt : Nat) (runs : List StoreRun) : State × List StoreBlk :=
  t.storeAs s src cvt (maxMag (runs.flatMap fun r => r.2.2)) runs

/-- Write a run of values from element k on; `rs` are the random words, one per element. -/
def Tensor.storeRange (s : State) (t : Tensor) (src cvt k : Nat) (rs : List Nat) (vs : List Val) : State × List StoreBlk :=
  t.storeRuns s src cvt [(k, rs, vs)]

/-- Write a whole tensor. -/
def Tensor.store (s : State) (t : Tensor) (src cvt : Nat) (rs : List Nat) (vs : List Val) : State × List StoreBlk :=
  t.storeRange s src cvt 0 rs (vs.take (dCount t.d))

/-- The unified bytes that a tensor's elements and scales occupy, as (address, bytes). -/
def unifiedSpans (d : DescWord) : List (Nat × Nat) :=
  (if dSpace d = 0 then [(dAddr d, dExtent d)] else []) ++
  (if scaled (dFmt d) && dScaleSpace d == 0 then [(dScaleAddr d, dScaleBytes d)] else [])

/-- The pages that a descriptor's extent reaches. -/
def descPages (d : DescWord) : List Nat := (unifiedSpans d).flatMap fun p => pagesOf p.1 p.2

end Sys2Proof.Machine
end

