-- ==== Sys2Proof/Machine/Tiers.lean ====
section
/-!
DEFINITION. The memory tiers (chapter 09): frames and pools, eviction, migration, accesses to pages.
-/
namespace Sys2Proof.Machine

/-! ## Classes (Table 3) -/

def homeTier (cls : Nat) : Nat := if cls = 0 || cls = 3 || cls = 4 then 1 else if cls = 1 || cls = 5 then 2 else 3
def pinned (cls : Nat) : Bool := decide (cls ≤ 2)
def floorTier (cls : Nat) : Nat := if pinned cls then homeTier cls else 3
/-- Eviction rank: HOT 2, SPILL and WARM 1. -/
def evictRank (cls : Nat) : Nat := if cls = 3 then 2 else 1

/-! ## Pools (R336, R342) -/

/-- Stacks that a partition's T1 frames are numbered over in mode 1 (R356). -/
def stackCount (x : Partition) : Nat := (bitsOf 12 x.stacks).length

/-- T1 frames that pools can have in all: 196,224 less the withdrawn ones (R336, R368). -/
def t1Total : Nat := 196224
def t1Mode (s : State) : Nat := s.trust.current.mode

/-- The stacks over which a partition's T1 frames are numbered: all twelve in mode 0, its own in mode 1 (R355, R356). -/
def t1Stacks (s : State) (among : Nat) : Nat := if t1Mode s = 0 then 0xFFF else among
/-- T1 frames numbered over some stacks. -/
def t1Frames (s : State) (among : Nat) : Nat := if t1Mode s = 0 then t1Total else 16352 * (bitsOf 12 among).length

/-- Frame f of a numbering is out of service (R368). A frame that was withdrawn under another numbering keeps its place (log 142). -/
def frameGone (s : State) (among f : Nat) : Bool :=
  s.tiers.withdrawn.any fun w => among.testBit w.stack &&
    (if w.mask = among then w.frame else Config.sameFrame w.mask w.frame among % max 1 (t1Frames s among)) == f

/-- Frames that are withdrawn from some stacks: those of a row of one of them. -/
def goneFrom (s : State) (among : Nat) : Nat := (s.tiers.withdrawn.filter fun w => among.testBit w.stack).length

/-- Which stack holds granule g of T1 frame f (R356). -/
def granuleStack (s : State) (among f g : Nat) : Nat :=
  if t1Mode s = 0 then [0, 3, 6, 9, 1, 4, 7, 10, 2, 5, 8, 11].getD ((f + g) % 12) 0
  else let k := bitsOf 12 among; k.getD ((f + g) % max 1 k.length) 0

/-- The fabric's endpoints that n bytes of the unified range from an address on lie behind: stacks 0 to 11, F ports from 12 on, H0 16
(R24, R356). -/
def endpointsOf (s : State) (at' n : Nat) : List Nat :=
  ((pagesOf at' n).flatMap fun page => match pageEntry s page with
    | none => []
    | some e =>
      if e.tier = 1 then
        let lo := (max at' (page * pageSize) - page * pageSize) / 4096
        let hi := (min (at' + n) ((page + 1) * pageSize) - 1 - page * pageSize) / 4096
        (List.range (min 12 (hi + 1 - lo))).map fun i => granuleStack s (((getPart s e.part).map (·.stacks)).getD 0) e.frame (lo + i)
      else if e.tier = 2 then [12 + e.frame / 2 ^ 19] else [16]).eraseDups

/-- Pages of a partition in a tier. -/
def pagesIn (s : State) (p t : Nat) : List Nat :=
  (s.tiers.map.filter fun e => e.2.part == p && e.2.tier == t).map Prod.fst

/-- Moves under way into a tier of a partition's pool: their destination frames are taken. -/
def arriving (s : State) (p t : Nat) : List Move :=
  s.tiers.moves.filter fun m => m.started && m.tier == t && (match pageEntry s m.page with | some e => e.part == p | none => false)

/-- A retired page that stands in a frame of the retirement reserve, numbered from 196,224 on, or still in its withdrawn
frame: no pool frame holds it (R368; log 52). -/
def offPool (s : State) (page : Nat) : Bool :=
  match pageEntry s page with
  | some e => e.tier == 1 && (decide (t1Total ≤ e.frame) || s.tiers.withdrawnHolding.contains page)
  | none => false

def usedFrames (s : State) (p t : Nat) : Nat := ((pagesIn s p t).filter fun g => !offPool s g).length + (arriving s p t).length
def reservedFrames (s : State) (p t : Nat) : Nat := tget s.tiers.reserved (4 * p + t) 0
def quotaOf (x : Partition) (t : Nat) : Nat := if t = 1 then x.t1Quota else if t = 2 then x.t2Quota else x.t3.length

/-- Frames of T2 that lie on F ports in service and that no page holds (R365). -/
def farRoom (s : State) : Nat :=
  ((List.range 4).map fun f =>
    let far := farOf s f
    if far.inService then
      far.frames - ((s.tiers.map.filter fun e => e.2.tier == 2 && e.2.frame / 2 ^ 19 == f).length +
        (s.tiers.moves.filter fun m => m.started && m.tier == 2 && m.frame / 2 ^ 19 == f).length)
    else 0).foldl (· + ·) 0

/-- Free frames of pool (p, t): quota − used − reserved (R342). -/
def freeFrames (s : State) (p : Nat) (x : Partition) (t : Nat) : Nat := quotaOf x t - (usedFrames s p t + reservedFrames s p t)

/-- Free frames that R345 and R346 can choose: a T2 frame must also lie on a port in service (R365). -/
def openFrames (s : State) (p : Nat) (x : Partition) (t : Nat) : Nat :=
  if t = 2 then
    min (freeFrames s p x t) (farRoom s - ((List.range 16).map fun q => reservedFrames s q 2).foldl (· + ·) 0)
  else freeFrames s p x t

def reserve (p t n : Nat) (s : State) : State :=
  { s with tiers.reserved := tset s.tiers.reserved (4 * p + t) (reservedFrames s p t + n) }
def unreserve (p t n : Nat) (s : State) : State :=
  { s with tiers.reserved := tset s.tiers.reserved (4 * p + t) (reservedFrames s p t - n) }

/-! ## Candidates (R344, R347) -/

def stepHolds (x : Step) : Bool := x.state == .running || x.state == .held || x.state == .stopped

/-- An object that a step holds (R347). -/
def objHeld (x : Partition) (obj : Nat) : Bool := x.steps.any fun e => stepHolds e.2 && e.2.holds.contains obj

def pageAge (s : State) (e : TierEntry) : Nat := (s.steward.tick.toNat % 65536 + 65536 - e.use) % 65536

/-- Eviction order: rank, then age descending, then page. -/
def evictBefore (a b : Nat × Nat × Nat) : Bool :=
  if a.1 ≠ b.1 then a.1 < b.1 else if a.2.1 ≠ b.2.1 then b.2.1 < a.2.1 else a.2.2 ≤ b.2.2

def insertEvict (a : Nat × Nat × Nat) : List (Nat × Nat × Nat) → List (Nat × Nat × Nat)
  | [] => [a]
  | b :: r => if evictBefore a b then a :: b :: r else b :: insertEvict a r

def moving (s : State) (page : Nat) : Bool := s.tiers.moves.any fun m => m.page == page

/-- The page is selected for demotion already: it is not taken again. -/
def demoting (s : State) (page : Nat) : Bool := s.tiers.moves.any fun m => m.page == page && m.kind == .demotion

/-- The status that an access to one page ends with: a LOST page, or a page on an F port out of service. -/
def pageTrouble (s : State) (page : Nat) : Option Nat :=
  match pageEntry s page with
  | none => none
  | some e =>
    if e.lost then some 0x0402
    else if e.tier == 2 && !(farOf s (e.frame / 2 ^ 19)).inService then some 0x0403
    else none

/-- The eviction candidates of pool (p, t), in order; a page that stands in no frame of the pool frees none (log 52), and the V20 moves
no page off a port that is out of service (R365). -/
def candidates (s : State) (p : Nat) (x : Partition) (t : Nat) : List Nat :=
  if 3 ≤ t then [] else
    let es := s.tiers.map.filter fun e => e.2.part == p && e.2.tier == t && !pinned e.2.cls && !e.2.mig && (pageTrouble s e.1).isNone &&
      !objHeld x e.2.object && !demoting s e.1 && !offPool s e.1
    ((es.map fun e => (evictRank e.2.cls, pageAge s e.2, e.1)).foldr insertEvict []).map (·.2.2)

/-- Frames that pool (p, t) can give, by its free frames and by demotions down the tiers (R345, R346). -/
def available (s : State) (p : Nat) (x : Partition) : Nat → Nat → Nat
  | 0, _ => 0
  | fuel + 1, t =>
    if 4 ≤ t then 0 else
      openFrames s p x t + min (candidates s p x t).length (available s p x fuel (t + 1))

/-- Reserve n frames of pool (p, t): free frames first, then one demotion for each further frame (R345, R346). A
deeper demotion stands ahead of the one that needs its frame. -/
def reserveIn (p : Nat) (x : Partition) : Nat → Nat → Nat → State → State
  | 0, _, _, s => s
  | fuel + 1, t, n, s =>
    let d := n - openFrames s p x t
    let pages := (candidates s p x t).take d
    let s := reserve p t n s
    let s := reserveIn p x fuel (t + 1) pages.length s
    { s with tiers.moves := s.tiers.moves ++ pages.map fun g => { page := g, tier := t + 1, kind := .demotion } }

/-- Take n frames from tier t down to a floor: the tiers of the frames in order, with the state that reserves them; none
when they cannot be found (R345). -/
def takeFrames (p : Nat) (x : Partition) (floor : Nat) : Nat → Nat → Nat → State → Option (List Nat × State)
  | 0, _, n, s => if n = 0 then some ([], s) else none
  | fuel + 1, t, n, s =>
    if n = 0 then some ([], s)
    else if floor < t then none
    else
      let a := min n (available s p x 4 t)
      let s := if a = 0 then s else reserveIn p x 4 t a s
      match takeFrames p x floor fuel (t + 1) (n - a) s with
      | some r => some (List.replicate a t ++ r.1, r.2)
      | none => none

/-! ## Frames -/

/-- Physical frames of a tier that are taken, as the pool numbers them. -/
def frameTaken (s : State) (p t f : Nat) : Bool :=
  let mine (q : Nat) : Bool := (t == 2) || q == p || (t == 1 && t1Mode s == 0)
  s.tiers.map.any (fun e => e.2.tier == t && mine e.2.part && e.2.frame == f) ||
  s.tiers.moves.any (fun m => m.started && m.tier == t && m.frame == f &&
    (match pageEntry s m.page with | some e => mine e.part | none => false)) ||
  (t == 1 && (getPart s p).any fun x => frameGone s (t1Stacks s x.stacks) f)

/-- A frame number that a pool may take. -/
def frameExists (s : State) (x : Partition) (t f : Nat) : Bool :=
  if t = 1 then decide (f < t1Frames s x.stacks)
  else if t = 2 then (farOf s (f / 2 ^ 19)).inService && decide (f % 2 ^ 19 < (farOf s (f / 2 ^ 19)).frames)
  else (tget? x.t3 f).isSome

/-- The first of the n numbers from i on that a test accepts. -/
def firstFrom (ok : Nat → Bool) : Nat → Nat → Option Nat
  | 0, _ => none
  | n + 1, i => if ok i then some i else firstFrom ok n (i + 1)

/-- A free frame of a tier; which one, no rule says (a free value, log 4). -/
def pickFrame (p : Nat) (x : Partition) (t : Nat) (s : State) : Option Nat × State :=
  let r := takeFree s
  let n := 2 ^ 21
  let at' (i : Nat) : Nat := (r.1.toNat + i) % n
  ((firstFrom (fun i => frameExists s x t (at' i) && !frameTaken s p t (at' i)) n 0).map at', r.2)

def setEntry (page : Nat) (e : TierEntry) (s : State) : State := { s with tiers.map := tset s.tiers.map page e }
def modEntry (page : Nat) (f : TierEntry → TierEntry) (s : State) : State := { s with tiers.map := tupd s.tiers.map page f }

def useNow (s : State) : Nat := s.steward.tick.toNat % 65536

/-- Give a new page a zeroed frame out of the reservation (R338, R341). -/
def placePage (p : Nat) (x : Partition) (obj cls t page : Nat) (s : State) : State :=
  let f := pickFrame p x t s
  match f.1 with
  | none => f.2
  | some fr =>
    let s := unreserve p t 1 f.2
    (setEntry page { tier := t, part := p, object := obj, cls := cls, frame := fr, use := useNow s } s).clear .unified
      (page * pageSize) pageSize

/-- A frame of the tier is at hand for a page that waits: used frames leave room within the quota. -/
def frameAtHand (s : State) (p : Nat) (x : Partition) (t : Nat) : Bool :=
  decide (usedFrames s p t < quotaOf x t) && (t != 2 || decide (0 < farRoom s))

/-- Give the waiting pages of one object their frames, in page order, while frames are at hand. -/
def servePages (p obj : Nat) : Nat → State → State
  | 0, s => s
  | fuel + 1, s =>
    match getPart s p with
    | none => s
    | some x =>
      match tget? x.objects obj with
      | none => s
      | some o =>
        match o.plan with
        | [] => s
        | t :: rest =>
          if frameAtHand s p x t then
            servePages p obj fuel
              (modPart p (fun x => { x with objects := tset x.objects obj { o with plan := rest } })
                (placePage p x obj o.cls t (o.first + o.pages - o.plan.length) s))
          else s

/-! ## Accesses (R341, R348, R364, R365, R369) -/

/-- The first access in an interval stamps USE; a HOT page below T1 is queued for promotion once. -/
def touchPage (page : Nat) (s : State) : State :=
  match pageEntry s page with
  | none => s
  | some e =>
    let s := setEntry page { e with use := useNow s } s
    if e.cls == 3 && e.tier != 1 && !s.tiers.promote.contains page then { s with tiers.promote := s.tiers.promote ++ [page] } else s

def touchPages (pages : List Nat) (s : State) : State := pages.foldl (fun s g => touchPage g s) s

/-- The first page of an access that meets trouble: status and page. -/
def accessTrouble (s : State) (pages : List Nat) : Option (Nat × Nat) :=
  pages.findSome? fun g => (pageTrouble s g).map fun st => (st, g)

/-- A page of T2 whose poisoned line a command's read meets: the expander reports it again, as long as it returns the line so (R364;
log 143). -/
def poisonMet (s : State) (pages : List Nat) : Option Nat :=
  pages.find? fun g => s.tiers.poisoned.contains g && Config.meetsPoison s.free g && (pageEntry s g).any fun e => e.tier == 2

/-- The first trouble of a command's reads and writes. -/
def readTrouble (s : State) (reads writes : List Nat) : Option (Nat × Nat) :=
  match accessTrouble s (reads ++ writes) with
  | some t => some t
  | none => (poisonMet s reads).map fun g => (0x0403, g)

/-- The fault record of poisoned data (R364, Table 3 of ch. 14). -/
def poisonRecord (page h : Nat) (s : State) : State :=
  match pageEntry s page with
  | none => s
  | some e =>
    let port := e.frame / 2 ^ 19
    raiseFault { code := 0x1803, cls := 6, sev := 1, die := 4 + port, unit := port, detail := w64 page, handle := h, parts := [e.part] } s

/-- A command ends with the trouble that it met; poisoned data of a port in service has its record, a port out of service has had
its own (R364, R365). -/
def failAccess (h : Nat) (t : Nat × Nat) (s : State) : State :=
  finish h t.1 (w64 t.2) (if t.1 = 0x0403 && pageTrouble s t.2 != some 0x0403 then poisonRecord t.2 h s else s)

/-- A page of the access waits for its restore (R370). -/
def accessWaits (s : State) (pages : List Nat) : Bool :=
  pages.any fun g => match pageEntry s g with | some e => e.restoring | none => false

/-- Bytes of a KV page (R314) and of a space's control object, both rounded up (R316). -/
def kvWidth (f : Nat) : Nat := if f = 1 then 2 else 1
def kvPageBytes (k : KvSpace) : Nat :=
  65536 * ((k.layers * 2 * k.kvHeads * 256 * k.dh * kvWidth k.format + 65535) / 65536)
def controlBytes (k : KvSpace) : Nat :=
  let n := 4096 + 64 * k.maxSeq + 4 * k.maxSeq * k.maxPages + 8 * (k.regions.map (·.pages)).foldl (· + ·) 0
  pageSize * ((n + pageSize - 1) / pageSize)

/-- A page of a KV space's control object, which the V20 alone writes (R316). -/
def controlPage (s : State) (page : Nat) : Bool :=
  s.parts.any fun p => p.2.spaces.any fun k =>
    decide (k.2.control / pageSize ≤ page) && decide (page * pageSize < k.2.control + controlBytes k.2)

/-- A page lies in an object that was allocated read-only (R373). -/
def readOnlyPage (s : State) (page : Nat) : Bool :=
  match pageEntry s page with
  | none => false
  | some e =>
    match getPart s e.part with
    | none => false
    | some x => match tget? x.objects e.object with | some o => o.readOnly | none => false

/-- A destination that no command or pattern may write (R373). -/
def readOnlyDesc (s : State) (d : DescWord) : Bool := (descPages d).any fun g => readOnlyPage s g || controlPage s g

/-! ## Moves (R349 to R352) -/

/-- The partition that a page belongs to, with a frame or still without one. -/
def pageOwner (s : State) (page : Nat) : Option Nat :=
  match pageEntry s page with
  | some e => some e.part
  | none => (s.parts.find? fun q => q.2.objects.any fun o => decide (o.2.first ≤ page) && decide (page < o.2.first + o.2.pages)).map (·.1)

/-- Take moves off the list: reserved frames of those not begun return to their pools, MIG of those begun is cleared. -/
def cancelMoves (f : Move → Bool) (s : State) : State :=
  let gone := s.tiers.moves.filter f
  let s := { s with tiers.moves := s.tiers.moves.filter fun m => !f m }
  gone.foldl (fun s m =>
    if m.started then modEntry m.page (fun e => { e with mig := false }) s
    else if m.kind == .promotion || m.kind == .retire then s
    else match pageOwner s m.page with
      | some p => unreserve p m.tier 1 s
      | none => s) s

/-- Handles of long operations that wait on nothing any more complete: allocations whose pages all have frames, moves
that have all run. -/
def settleHandle (h : Nat) (s : State) : State :=
  match getHandle s h with
  | none => s
  | some r =>
    if !r.owed then s else
      match r.op, r.part with
      | .move _, some _ => if s.tiers.moves.any (fun m => m.handle == h) then s else finish h 0 0 s
      | _, _ => s

/-- Copy a backing object's bytes into a read-only object's pages (R370, Table 11). -/
def fillFromBacking (d : DescWord) (first pages : Nat) (s : State) : State :=
  s.write .unified (first * pageSize) (((cmdTensor d).bytes s).take (pages * pageSize))

/-- An allocation goes on: pages take frames; with the last one the object is filled and the handle completes. -/
def serveAlloc (h : Nat) (s : State) : State :=
  match getHandle s h with
  | none => s
  | some r =>
    match r.op, r.part, r.owed with
    | .alloc obj, some p, true =>
      let s := servePages p obj (2 ^ 21) s
      match (getPart s p).bind fun x => tget? x.objects obj with
      | none => s
      | some o =>
        if !o.plan.isEmpty then s else
          match o.backing with
          | none => finish h 0 0 s
          | some d =>
            if accessWaits s (descPages d) then s else
              match readTrouble s (descPages d) [] with
              | some t => failAccess h t s
              | none => finish h 0 0 (touchPages (descPages d) (fillFromBacking d o.first o.pages s))
    | _, _, _ => s

/-- The 32-bit pattern over whole pages; LOST is cleared, and no line is poisoned any more (R364, R369). -/
def fillPages (pages : List Nat) (pattern : W32) (s : State) : State :=
  pages.foldl (fun s g =>
    modEntry g (fun e => { e with lost := false })
      (({ s with tiers.poisoned := s.tiers.poisoned.filter (· != g) }).write .unified (g * pageSize)
        ((List.replicate (pageSize / 4) (leBytes 4 pattern.toNat)).flatten))) s

/-- MEM_FILL goes on once each of its pages has a frame and none waits for its restore (R345, R370). -/
def runFill (h obj first count : Nat) (pattern : W32) (s : State) : State :=
  match ((getHandle s h).bind (·.part)).bind fun p => (getPart s p).bind fun x => tget? x.objects obj with
  | none => s
  | some o =>
    let pages := (List.range count).map (o.first + first + ·)
    if pages.any (fun g => (pageEntry s g).isNone) || accessWaits s pages then s else
      match (pages.filter fun g => pageTrouble s g == some 0x0403).head? with
      | some g => finish h 0x0403 (w64 g) s
      | none => finish h 0 0 (touchPages pages (fillPages pages pattern s))

def serveFill (h : Nat) (s : State) : State :=
  match getHandle s h with
  | none => s
  | some r => match r.op, r.owed with
    | .fill obj first count pattern, true => runFill h obj first count pattern s
    | _, _ => s

/-- After frames came free: waiting allocations go on, in the order of their handles, and then the fills that wait for them. -/
def serveAllocs (s : State) : State :=
  let s := (openHandles s fun r => match r.op with | .alloc _ => true | _ => false).foldl (fun s h => serveAlloc h s) s
  (openHandles s fun r => match r.op with | .fill _ _ _ _ => true | _ => false).foldl (fun s h => serveFill h s) s

/-- The routes that a move's bytes cross: F port n reads as 2n, writes as 2n + 1, H0 as 8 and 9 (R350). -/
def moveRoutes (src srcFrame dst dstFrame : Nat) : List Nat :=
  (if src = 2 then [2 * (srcFrame / 2 ^ 19)] else if src = 3 then [8] else []) ++
  (if dst = 2 then [2 * (dstFrame / 2 ^ 19) + 1] else if dst = 3 then [9] else [])

/-- Width and rate, in tenths of GT/s, to which the link of a route trained. -/
def routeLink (s : State) (r : Nat) : Nat × Nat :=
  if r / 2 < 4 then ((farOf s (r / 2)).width, (farOf s (r / 2)).rate) else (s.host.width, s.host.rate)

/-- Bytes that a route carries in a tick interval at its share: 64 GB/s · share at ×16 and 32 GT/s, less in proportion on a
narrower or slower link (R350; log 29). -/
def routeBudget (s : State) (r : Nat) : Nat :=
  let l := routeLink s r
  640 * s.trust.current.migShare.getD (r / 2) 50 * tickPeriod s * l.1 * l.2 / (16 * 320)

/-- Take a move that has nothing to do off the list: a commanded one of a page that its running move has brought to the command's
tier, or a demotion of a page that has left its tier; the frame reserved for it returns to its pool (Table 4). -/
def dropMove (m : Move) (s : State) : State :=
  let s := cancelMoves (fun n => n == m) s
  if m.kind == .command then settleHandle m.handle s else s

def moveIdle (m : Move) (e : TierEntry) : Bool :=
  match m.kind with
  | .command => m.tier == e.tier && !e.mig
  | .demotion => m.tier != e.tier + 1
  | _ => false

/-- Start one move when its routes have budget left and a frame is at hand; the budget that remains. -/
def startMove (m : Move) (b : Table Nat) (s : State) : Table Nat × State :=
  match pageEntry s m.page with
  | none => (b, s)
  | some e =>
    if moveIdle m e then (b, dropMove m s) else
    match getPart s e.part with
    | none => (b, s)
    | some x =>
      let free := if m.kind == .promotion || m.kind == .retire then decide (0 < freeFrames s e.part x m.tier) else frameAtHand s e.part x m.tier
      if e.mig || (e.restoring && m.kind != .retire) || !free then (b, s) else
        let f := pickFrame e.part x m.tier s
        match f.1 with
        | none => (b, f.2)
        | some fr =>
          let rs := moveRoutes e.tier e.frame m.tier fr
          if rs.any (fun r => tget b r 0 == 0) then (b, f.2) else
            let s := f.2
            let s := if m.kind == .promotion || m.kind == .retire then s else unreserve e.part m.tier 1 s
            let s := modEntry m.page (fun e => { e with mig := true }) s
            let first := s.tiers.moves.findIdx? fun n => n == m
            let s := { s with tiers.moves := match first with
              | some i => listMod s.tiers.moves i fun n => { n with started := true, frame := fr }
              | none => s.tiers.moves }
            (rs.foldl (fun b r => tset b r (tget b r 0 - pageSize)) b, s)

/-- Order of a batch (R349): demotions, commanded moves (and moves out of the retirement reserve), promotions. -/
def moveGroup (m : Move) : Nat :=
  match m.kind with
  | .demotion => 0
  | .retire => 0
  | .command => 1
  | .promotion => 2

/-- Budgets at a batch: each route's share less what is left of the moves still running (a free value, log 4). -/
def batchBudgets (s : State) : Table Nat × State :=
  let full : Table Nat := (List.range 10).map fun r => (r, routeBudget s r)
  (s.tiers.moves.filter (·.started)).foldl (fun (p : Table Nat × State) m =>
    match pageEntry p.2 m.page with
    | none => p
    | some e =>
      let f := takeFree p.2
      let rem := f.1.toNat % (pageSize + 1)
      ((moveRoutes e.tier e.frame m.tier m.frame).foldl (fun b r => tset b r (tget b r 0 - rem)) p.1, f.2)) (full, s)

/-- A page of the promotion queue stays while it is a HOT page below T1 (R348). -/
def promotable (s : State) (page : Nat) : Bool :=
  match pageEntry s page with
  | some e => e.cls == 3 && e.tier != 1
  | none => false

/-- A retired page in a reserve frame or a withdrawn frame asks for a frame of its pool; where the pool is full a
demotion is selected, and where none can be found a page in the reserve stays there, which shrinks the reserve (R368). -/
def retireDemands (s : State) : State :=
  (s.tiers.moves.filter fun m => m.kind == .retire && !m.started).foldl (fun s m =>
    match pageEntry s m.page with
    | none => s
    | some e =>
      match getPart s e.part with
      | none => s
      | some x =>
        if 0 < freeFrames s e.part x 1 then s
        else match (if available s e.part x 4 2 = 0 then [] else candidates s e.part x 1) with
          | [] =>
            if s.tiers.withdrawnHolding.contains m.page then s
            else recEvent 0x1013 0xFFFE none 31 0xFFFF 0 [] { s with tiers.moves := s.tiers.moves.filter fun n => n != m }
          | g :: _ =>
              { reserveIn e.part x 4 2 1 s with tiers.moves :=
                (reserveIn e.part x 4 2 1 s).tiers.moves ++ [{ page := g, tier := 2, kind := .demotion }] }) s

/-- Moves that have not begun and whose page is LOST or lies on a port that is out of service end: a command completes with the status
that names the page, a demotion gives its frame to the next candidate, a promotion waits in its queue (R352, R365, R369). -/
def dropTroubled (s : State) : State :=
  (s.tiers.moves.filter fun m => !m.started && m.kind != .retire).foldl (fun s m =>
    match pageTrouble s m.page with
    | none => s
    | some st =>
      if !s.tiers.moves.contains m then s else match m.kind with
        | .command => finish m.handle st (w64 m.page) (cancelMoves (fun n => n.handle == m.handle && n.kind == .command) s)
        | .demotion =>
          let s := cancelMoves (fun n => n == m) s
          match (pageOwner s m.page).bind fun p => (getPart s p).bind fun x => (candidates s p x (m.tier - 1)).head?.map fun g => (p, g) with
          | none => s
          | some q => reserve q.1 m.tier 1 { s with tiers.moves := s.tiers.moves ++ [{ page := q.2, tier := m.tier, kind := .demotion }] }
        | _ => cancelMoves (fun n => n == m) s) s

/-- Action 7 of a tick: the migration batch (R349). -/
def migrationBatch (s : State) : State :=
  let s := { s with tiers.promote := s.tiers.promote.filter (promotable s) }
  let s := retireDemands (dropTroubled s)
  let queued := (s.tiers.promote.filter fun g => !moving s g && (pageTrouble s g).isNone).map fun g => ({ page := g, tier := 1, kind := .promotion } : Move)
  let s := { s with tiers.moves := s.tiers.moves.filter (fun m => m.started || m.kind != .promotion) ++ queued }
  let b := batchBudgets s
  let order := [0, 1, 2].flatMap fun g => b.2.tiers.moves.filter fun m => !m.started && moveGroup m == g
  let r := order.foldl (fun (p : Table Nat × State) m => startMove m p.1 p.2) b
  { r.2 with tiers.moves := r.2.tiers.moves.filter (fun m => m.started || m.kind != .promotion), tiers.budget := r.1 }

/-- The sweep of a tick: 256 entries in page order; an age above 32,768 is set to 32,768 (R341). -/
def useSweep (s : State) : State :=
  let lo := s.tiers.sweep
  let now := useNow s
  { s with
    tiers.map := tmap s.tiers.map fun g e =>
      if lo ≤ g && g < lo + 256 && decide (32768 < pageAge s e) then { e with use := (now + 32768) % 65536 } else e
    tiers.sweep := (lo + 256) % 2 ^ 21 }

/-- A demotion that ended early is replaced by the next candidate in the same batch, within what is left of its budgets (R350,
Table 4). -/
def replaceDemotion (p t page : Nat) (s : State) : State :=
  match getPart s p with
  | none => s
  | some x =>
    match (candidates s p x t).filter (· != page) with
    | [] => s
    | g :: _ =>
      let r := startMove { page := g, tier := t + 1, kind := .demotion } s.tiers.budget
        (reserve p (t + 1) 1 { s with tiers.moves := s.tiers.moves ++ [{ page := g, tier := t + 1, kind := .demotion }] })
      { r.2 with tiers.budget := r.1 }

/-- A page's running move ends without moving it: a command completes with a status that names the page, a demotion is
replaced (Table 4). -/
def endMove (page status : Nat) (s : State) : State :=
  match s.tiers.moves.find? fun m => m.page == page && m.started with
  | none => s
  | some m =>
    let s := { s with tiers.moves := s.tiers.moves.filter fun n => n != m }
    let s := modEntry page (fun e => { e with mig := false }) s
    match m.kind with
    | .command =>
      finish m.handle status (w64 page) (cancelMoves (fun n => n.handle == m.handle && n.kind == .command) s)
    | .demotion => match pageEntry s page with
      | some e => replaceDemotion e.part e.tier page s
      | none => s
    | _ => s

/-- The moves of a page that is left LOST and that have not begun end: it is not moved again (Table 4). -/
def failMoves (page status : Nat) (s : State) : State :=
  (s.tiers.moves.filter fun m => m.page == page && !m.started && m.kind != .retire).foldl (fun s m =>
    if !s.tiers.moves.contains m then s else match m.kind with
      | .command => finish m.handle status (w64 page) (cancelMoves (fun n => n.handle == m.handle && n.kind == .command) s)
      | .demotion => replaceDemotion (((pageEntry s page).map (·.part)).getD 0) (m.tier - 1) page (cancelMoves (fun n => n == m) s)
      | _ => cancelMoves (fun n => n == m) s) s

/-- Commanded moves next in a page's order that bring it nowhere new end, one after another. -/
def dropArrived (page : Nat) : Nat → State → State
  | 0, s => s
  | fuel + 1, s =>
    match s.tiers.moves.find? fun m => m.page == page, pageEntry s page with
    | some m, some e => if m.kind == .command && !m.started && moveIdle m e then dropArrived page fuel (dropMove m s) else s
    | _, _ => s

/-- Cycles for which writes to the page were held: a free count of the migration-hold counter of each core that runs a step of the
page's partition, and so can write it (step 4 of R351; log 4). -/
def heldWrites (p : Nat) (s : State) : State :=
  (s.cores.cores.filter fun e => match e.2.step with | some h => handlePart h == p | none => false).foldl (fun s e => coreWaitFree e.1 0x1002 s) s

/-- The page copy finishes and the entry switches (step 5 of R351). -/
def completeMove (page : Nat) (s : State) : State :=
  match s.tiers.moves.find? fun m => m.page == page && m.started with
  | none => s
  | some m =>
    match pageEntry s page with
    | none => s
    | some e =>
      let port := if m.tier = 2 then m.frame / 2 ^ 19 else if e.tier = 2 then e.frame / 2 ^ 19 else 0xFFFF
      let at' := pagePlace s page
      let s := setEntry page { e with tier := m.tier, frame := m.frame, mig := false } s
      let s := if pagePlace s page = at' then s else s.copyPlace at' (pagePlace s page) pageSize
      let s := { s with
        tiers.moves := s.tiers.moves.filter fun n => n != m
        tiers.promote := s.tiers.promote.filter fun g => g != page || m.tier != 1
        tiers.reserve := if m.kind == .retire && !s.tiers.withdrawnHolding.contains page then s.tiers.reserve + 1 else s.tiers.reserve
        tiers.withdrawnHolding := s.tiers.withdrawnHolding.filter (· != page) }
      let s := heldWrites e.part (devEvent 0x1018 port 1 s)
      serveAllocs (dropArrived page s.tiers.moves.length (if m.kind == .command then settleHandle m.handle s else s))

end Sys2Proof.Machine
end

