-- ==== Sys2Proof/Machine/MemoryCommands.lean ====
section
/-!
DEFINITION. The memory and tier commands 0x0100 to 0x0110 (Table 11 of ch. 09, R372, R373).
-/
namespace Sys2Proof.Machine

/-- A word is a flag: bit 0 only (R625). -/
def flagOk (w : W64) : Bool := decide (w.toNat ≤ 1)

/-- Runs of page indices that objects of all partitions occupy. -/
def occupied (s : State) : List (Nat × Nat) := s.parts.flatMap fun p => p.2.objects.map fun o => (o.2.first, o.2.pages)

/-- The lowest run of n free page indices (R373): it begins at 0 or where an object ends. -/
def freeRun (s : State) (n : Nat) : Option Nat :=
  let occ := occupied s
  let ok (a : Nat) : Bool := decide (a + n ≤ 2 ^ 21) && occ.all fun o => decide (a + n ≤ o.1) || decide (o.1 + o.2 ≤ a)
  ((0 :: occ.map fun o => o.1 + o.2).filter ok).foldl (fun b a => match b with | none => some a | some c => some (min c a)) none

/-- MEM_ALLOC. -/
def allocBody (f : Nat) (hdr : Hdr) (pages cls readOnly : W64) (backing : DescWord) : Body := fun s =>
  withPart f hdr s fun p x =>
    need (0 < pages.toNat && decide (cls.toNat ≤ 5) && flagOk readOnly) 0x0201 (
    let ro := readOnly == 1
    let go : Except Nat Ans :=
      have' (tfree x.objects 4096) 0x0206 fun obj =>
      have' (freeRun s pages.toNat) 0x0206 fun first =>
      have' (takeFrames p x (floorTier cls.toNat) 4 (homeTier cls.toNat) pages.toNat s) 0x0203 fun r =>
        let o : MemObject := { first := first, pages := pages.toNat, cls := cls.toNat, plan := r.1, readOnly := ro,
                               backing := if ro then some backing else none }
        long f hdr (some p) 2 (.alloc obj) (modPart p (fun x => { x with objects := tset x.objects obj o }) r.2)
          (w64 (first * pageSize ||| obj <<< 48)) serveAlloc
    if ro then needUnified s p x backing go else go)

def execMemAlloc (fn : Fn) (hdr : Hdr) (pages cls readOnly : W64) (backing : DescWord) (s : State) :
    Host.Outcome State Fault Refusal :=
  message fn hdr 0x0100 false (allocBody fn hdr pages cls readOnly backing) s

/-- Long commands that work on an object. -/
def worksOn (p obj : Nat) (o : MemObject) (r : HandleRec) : Bool :=
  r.part == some p && match r.op with
    | .alloc k => k == obj
    | .move k => k == obj
    | .fill k _ _ _ => k == obj
    | .copy a b _ => (descPages a ++ descPages b).any fun g => decide (o.first ≤ g) && decide (g < o.first + o.pages)
    | _ => false

/-- Free an object: its commands end with PARTIAL_ABORTED_BY_HOST, its migrations end, its entries and its waiting
reservations go (R373, Table 4). -/
def freeObject (p obj : Nat) (o : MemObject) (s : State) : State :=
  let mine (g : Nat) : Bool := decide (o.first ≤ g) && decide (g < o.first + o.pages)
  let s := cancelMoves (fun m => mine m.page) s
  let s := o.plan.foldl (fun s t => unreserve p t 1 s) s
  let s := { s with
    tiers.map := s.tiers.map.filter fun e => !mine e.1
    tiers.promote := s.tiers.promote.filter fun g => !mine g
    tiers.poisoned := s.tiers.poisoned.filter fun g => !mine g
    tiers.withdrawnHolding := s.tiers.withdrawnHolding.filter fun g => !mine g }
  let s := modPart p (fun x => { x with objects := tdel x.objects obj }) s
  (openHandles s (worksOn p obj o)).foldl (fun s h => finish h 0x0301 0 s) s

def freeBody (f : Nat) (hdr : Hdr) (object : W64) : Body := fun s =>
  withPart f hdr s fun p x =>
    have' (tget? x.objects object.toNat) 0x0201 fun o =>
    need (!objHeld x object.toNat) 0x0205 (
      .ok { st := s, result := w64 o.pages, after := fun s => serveAllocs (freeObject p object.toNat o s) })

def execMemFree (fn : Fn) (hdr : Hdr) (object : W64) (s : State) : Host.Outcome State Fault Refusal :=
  message fn hdr 0x0101 false (freeBody fn hdr object) s

/-- The tier of a page of an object; of one that still waits for its frame, the tier that the allocation has in view for it. -/
def tierOf (s : State) (o : MemObject) (page : Nat) : Option Nat :=
  match pageEntry s page with
  | some e => some e.tier
  | none => o.plan[page - (o.first + o.pages - o.plan.length)]?

/-- The tier in which a page's moves leave it. -/
def tierAhead (s : State) (o : MemObject) (page : Nat) : Option Nat :=
  match (s.tiers.moves.filter fun m => m.page == page && m.kind != .retire).getLast? with
  | some m => some m.tier
  | none => tierOf s o page

/-- Queue commanded moves of pages to tiers, after reserving their frames, and issue the handle (R345, R349). A page for which only a
frame of the tier where it lies could be found stays, and the frame returns to its pool (log 68). A page that waits for its frame moves
once it has it. A page that is LOST, or on a port out of service, ends the command (R365, R369). -/
def moveBody (f : Nat) (hdr : Hdr) (p : Nat) (x : Partition) (obj : Nat) (o : MemObject) (floor tier : Nat) (pages : List Nat) (s : State) : Except Nat Ans :=
  have' (takeFrames p x floor 4 tier pages.length s) 0x0203 fun r =>
    let h := nextHandle r.2 p 2
    let stays (q : Nat × Nat) : Bool := !moving r.2 q.1 && tierAhead r.2 o q.1 == some q.2
    let ms := ((pages.zip r.1).filter fun q => !stays q).map fun q => ({ page := q.1, tier := q.2, kind := .command, handle := h } : Move)
    let s := ((pages.zip r.1).filter stays).foldl (fun s q => unreserve p q.2 1 s) r.2
    long f hdr (some p) 2 (.move obj) { s with tiers.moves := s.tiers.moves ++ ms } 0 fun h s =>
      match accessTrouble s (ms.map (·.page)) with
      | some t => finish h t.1 (w64 t.2) (cancelMoves (fun m => m.handle == h && m.kind == .command) s)
      | none => settleHandle h s

/-- A page needs no move: it lies, or is to lie, in a tier that will do, and no move takes it away or is on its way (Table 4). -/
def liesIn (s : State) (o : MemObject) (page : Nat) (ok : Nat → Bool) : Bool :=
  match tierOf s o page with
  | some t => ok t && !(s.tiers.moves.any fun m => m.page == page && m.kind != .retire && m.kind != .promotion)
  | none => true

def classSetBody (f : Nat) (hdr : Hdr) (object cls : W64) : Body := fun s =>
  withPart f hdr s fun p x =>
    need (decide (cls.toNat ≤ 5)) 0x0201 (
    have' (tget? x.objects object.toNat) 0x0201 fun o =>
      let c := cls.toNat
      let ok (t : Nat) : Bool := decide (homeTier c ≤ t) && decide (t ≤ floorTier c)
      let pages := ((List.range o.pages).map (o.first + ·)).filter fun g => !liesIn s o g ok
      let s' := modPart p (fun x => { x with objects := tset x.objects object.toNat { o with cls := c } })
        { s with tiers.map := tmap s.tiers.map fun g e => if o.first ≤ g && g < o.first + o.pages then { e with cls := c } else e }
      moveBody f hdr p x object.toNat o (floorTier c) (homeTier c) pages s')

def execMemClassSet (fn : Fn) (hdr : Hdr) (object cls : W64) (s : State) : Host.Outcome State Fault Refusal :=
  message fn hdr 0x0102 false (classSetBody fn hdr object cls) s

def migrateBody (f : Nat) (hdr : Hdr) (object first count tier : W64) : Body := fun s =>
  withPart f hdr s fun p x =>
    have' (tget? x.objects object.toNat) 0x0201 fun o =>
    need (0 < count.toNat && decide (first.toNat + count.toNat ≤ o.pages) && decide (1 ≤ tier.toNat) && decide (tier.toNat ≤ 3)) 0x0201 (
    need (!pinned o.cls && decide (homeTier o.cls ≤ tier.toNat) && decide (tier.toNat ≤ floorTier o.cls)) 0x0205 (
      let pages := ((List.range count.toNat).map (o.first + first.toNat + ·)).filter fun g => !liesIn s o g (· == tier.toNat)
      moveBody f hdr p x object.toNat o (floorTier o.cls) tier.toNat pages s))

def execMemMigrate (fn : Fn) (hdr : Hdr) (object first count tier : W64) (s : State) : Host.Outcome State Fault Refusal :=
  message fn hdr 0x0103 false (migrateBody fn hdr object first count tier) s

/-- Copy element by element in ascending logical offset, converting under CVT (R373, R128). Equal formats without scales
move the codes, an M48 NaN with a tail of zero (R117). -/
def copyElements (src dst : DescWord) (cvt : Nat) (s : State) : State :=
  let a := cmdTensor src
  let b := cmdTensor dst
  let n := dCount src
  if dFmt src = dFmt dst && !scaled (dFmt src) then
    ((List.range n).zip (a.codes s)).foldl (fun s q => b.writeCode s (offsetOf dst (indexOf dst q.1)) (m48Canon (dFmt dst) q.2)) s
  else
    let r := if cvtRound cvt = .sr then freeHalves n s else ([], s)
    (b.store r.2 (dFmt src) cvt r.1 (a.values s)).1

/-- MEM_COPY goes on once no page of it waits for its restore (R370). -/
def runCopy (src dst : DescWord) (cvt h : Nat) (s : State) : State :=
  if accessWaits s (descPages src ++ descPages dst) then s else
    match readTrouble s (descPages src) (descPages dst) with
    | some t => failAccess h t s
    | none => finish h 0 0 (touchPages (descPages src ++ descPages dst) (copyElements src dst cvt s))

/-- Copies and fills that wait for a restore go on, in the order of their handles. -/
def serveCopies (s : State) : State :=
  (openHandles s fun r => match r.op with | .copy _ _ _ => true | _ => false).foldl (fun s h =>
    match getHandle s h with
    | none => s
    | some r => match r.op with
      | .copy src dst cvt => runCopy src dst cvt h s
      | _ => s) s

def copyBody (f : Nat) (hdr : Hdr) (src dst : DescWord) (cvt : W64) : Body := fun s =>
  withPart f hdr s fun p x =>
    need (cvtOk cvt.toNat) 0x0201 (
    needUnified s p x src (needUnified s p x dst (
    need (dCount src == dCount dst) 0x0202 (
    need (!readOnlyDesc s dst) 0x0205 (
      long f hdr (some p) 2 (.copy src dst cvt.toNat) s 0 (runCopy src dst cvt.toNat))))))

def execMemCopy (fn : Fn) (hdr : Hdr) (src dst : DescWord) (cvt : W64) (s : State) : Host.Outcome State Fault Refusal :=
  message fn hdr 0x0104 false (copyBody fn hdr src dst cvt) s

def fillBody (f : Nat) (hdr : Hdr) (object first count pattern : W64) : Body := fun s =>
  withPart f hdr s fun p x =>
    have' (tget? x.objects object.toNat) 0x0201 fun o =>
    need (0 < count.toNat && decide (first.toNat + count.toNat ≤ o.pages) && decide (pattern.toNat < 2 ^ 32)) 0x0201 (
    need (!o.readOnly) 0x0205 (
      long f hdr (some p) 2 (.fill object.toNat first.toNat count.toNat (pattern.setWidth 32)) s 0 serveFill))

def execMemFill (fn : Fn) (hdr : Hdr) (object first count pattern : W64) (s : State) : Host.Outcome State Fault Refusal :=
  message fn hdr 0x0105 false (fillBody fn hdr object first count pattern) s

/-- Immediate results as words (R626). -/
def wordsData (ws : List Nat) : List Byte := ws.flatMap (leBytes 8)

def queryBody (f : Nat) (hdr : Hdr) (object : W64) : Body := fun s =>
  withPart f hdr s fun _ x =>
    have' (tget? x.objects object.toNat) 0x0201 fun o =>
      let es := s.tiers.map.filter fun e => decide (o.first ≤ e.1) && decide (e.1 < o.first + o.pages)
      let cnt (c : TierEntry → Bool) : Nat := (es.filter fun e => c e.2).length
      .ok { st := s, data := wordsData [o.cls, cnt (·.tier == 1), cnt (·.tier == 2), cnt (·.tier == 3), cnt (·.mig),
                                        cnt (·.lost), b2n (objHeld x object.toNat)] }

def execMemQuery (fn : Fn) (hdr : Hdr) (object : W64) (s : State) : Host.Outcome State Fault Refusal :=
  message fn hdr 0x0106 false (queryBody fn hdr object) s

def poolBody (f : Nat) (hdr : Hdr) : Body := fun s =>
  withPart f hdr s fun p x =>
    .ok { st := s, data := wordsData (([1, 2, 3].flatMap fun t =>
      [quotaOf x t, usedFrames s p t, reservedFrames s p t, freeFrames s p x t]) ++ [s.tiers.withdrawn.length, s.tiers.reserve]) }

def execPoolQuery (fn : Fn) (hdr : Hdr) (s : State) : Host.Outcome State Fault Refusal :=
  message fn hdr 0x0107 false (poolBody fn hdr) s

/-- A registration fills the indices that releases emptied, in ascending order, then appends (R373). -/
def registerFrames : List Nat → Table Nat → Table Nat
  | [], t => t
  | a :: r, t => registerFrames r (tset t ((tfree t (t.length + 1)).getD t.length) a)

def hostRegisterBody (f : Nat) (hdr : Hdr) (addrs : List W64) : Body := fun s =>
  withPart f hdr s fun p x =>
    let as := addrs.map (·.toNat)
    need (0 < as.length && decide (as.length ≤ 500) && as.all (· % pageSize == 0)) 0x0201 (
    let known := s.parts.flatMap fun q => q.2.t3.map Prod.snd
    need (as.all (fun a => !known.contains a) && as.eraseDups.length == as.length) 0x0205 (
    need (decide (known.length + as.length ≤ 2 ^ 21)) 0x0206 (
      let t3 := registerFrames as x.t3
      .ok { st := modPart p (fun x => { x with t3 := t3 }) s, result := w64 t3.length })))

def execMemHostRegister (fn : Fn) (hdr : Hdr) (addrs : List W64) (s : State) : Host.Outcome State Fault Refusal :=
  message fn hdr 0x0108 false (hostRegisterBody fn hdr addrs) s

/-- Registered frames that hold no page, in descending index, up to the count; frames that accepted commands have
reserved stay (log 30). -/
def releasable (s : State) (p : Nat) (x : Partition) (count : Nat) : List (Nat × Nat) :=
  ((x.t3.filter fun e => !frameTaken s p 3 e.1).reverse).take (min count (freeFrames s p x 3))

def hostReleaseBody (f : Nat) (hdr : Hdr) (count list : W64) : Body := fun s =>
  withPart f hdr s fun p x =>
    let rs := releasable s p x count.toNat
    let s := s.write .host list.toNat (wordsData (rs.map Prod.snd))
    .ok { st := modPart p (fun x => { x with t3 := x.t3.filter fun e => !(rs.map Prod.fst).contains e.1 }) s,
          result := w64 rs.length }

def execMemHostRelease (fn : Fn) (hdr : Hdr) (count list : W64) (s : State) : Host.Outcome State Fault Refusal :=
  message fn hdr 0x0109 false (hostReleaseBody fn hdr count list) s

/-- A tier-map entry as its 64-bit word (Table 2). -/
def entryWord (e : TierEntry) : Nat :=
  1 <<< 63 ||| e.tier <<< 61 ||| e.part <<< 57 ||| e.object <<< 45 ||| e.cls <<< 42 ||| b2n e.mig <<< 41 |||
  b2n e.lost <<< 40 ||| e.frame <<< 16 ||| e.use

/-- What a function sees of a page's entry (R339). -/
def seenEntry (s : State) (f : Nat) (page : Nat) : Nat :=
  match pageEntry s page with
  | none => 0
  | some e => if f = 0 || e.part = f - 1 then entryWord e else 0

/-- The destination of a command that copies records of n bytes: SPACE 0, its block scales anywhere that R97 allows, and room for one
record (R624). -/
def needRecords {α : Type} (s : State) (p : Nat) (x : Partition) (d : DescWord) (n : Nat) (k : Except Nat α) : Except Nat α :=
  need (descCheck cmdCoreOk d && dSpace d == 0) 0x0202
    (need (descPermitted s p x x.mapbuf cmdCore d) 0x0205
      (need (decide (n ≤ dCapacity d)) 0x0202 (need (!readOnlyDesc s d) 0x0205 k)))

/-- Write records into a destination: as many whole ones as it holds; how many. -/
def writeRecords (d : DescWord) (n : Nat) (rs : List (List Byte)) (s : State) : Nat × State :=
  let k := min rs.length (dCapacity d / n)
  (k, touchPages (descPages d) ((cmdTensor d).writeBytes s (rs.take k).flatten))

/-- The partition whose memory a PF command's destination lies in: the one that the message names, else the owner of its first page. -/
def destPart (s : State) (f : Nat) (hdr : Hdr) (d : DescWord) : Option Nat :=
  match msgPart f hdr with
  | some p => some p
  | none => (pageEntry s (dAddr d / pageSize)).map (·.part)

def tierMapBody (f : Nat) (hdr : Hdr) (first count : W64) (dst : DescWord) : Body := fun s =>
  match (destPart s f hdr dst).map fun p => (p, getPart s p) with
  | none => .error 0x0202
  | some (_, none) => .error 0x0205
  | some (p, some x) =>
    need (decide (first.toNat + count.toNat ≤ 2 ^ 21)) 0x0201 (
    needRecords s p x dst 8 (
      long f hdr (some p) 2 .none s 0 fun h s =>
        match accessTrouble s (descPages dst) with
        | some t => finish h t.1 (w64 t.2) s
        | none =>
          let k := min count.toNat (dCapacity dst / 8)
          let r := writeRecords dst 8 ((List.range k).map fun i => leBytes 8 (seenEntry s f (first.toNat + i))) s
          finish h 0 (w64 r.1) r.2))

def execTierMapRead (fn : Fn) (hdr : Hdr) (first count : W64) (dst : DescWord) (s : State) : Host.Outcome State Fault Refusal :=
  message fn hdr 0x010A false (tierMapBody fn hdr first count dst) s

def tierSetBody (mode : W64) (shares : List W64) (darnLimit : W64) : Body := fun s =>
  need (flagOk mode && shares.length == 5 && shares.all (fun m => decide (10 ≤ m.toNat) && decide (m.toNat ≤ 100)) &&
    decide (2 ≤ darnLimit.toNat) && decide (darnLimit.toNat ≤ 64)) 0x0201 (
  need (mode.toNat == t1Mode s || s.parts.isEmpty) 0x0205 (
    .ok { st := settingsTrigger {} { s with trust.current := { s.trust.current with
      mode := mode.toNat, migShare := shares.map (·.toNat), darnLimit := darnLimit.toNat } } }))

def execTierSet (fn : Fn) (hdr : Hdr) (mode : W64) (shares : List W64) (darnLimit : W64) (s : State) :
    Host.Outcome State Fault Refusal :=
  message fn hdr 0x0110 true (tierSetBody mode shares darnLimit) s

/-- MIGRATION_COMPLETE: a page's copy finishes (R351). -/
def execMigrationComplete (page : Nat) (s : State) : Host.Outcome State Fault Refusal := whenLive (completeMove page) s

end Sys2Proof.Machine
end

