-- ==== Sys2Proof/Machine/Cabac.lean ====
section
/-!
DEFINITION. The arithmetic coding engine of ITU-T H.265 that R404 names: its tables and its coding and decoding of
decision, bypass and terminate bins (log 46).
-/
namespace Sys2Proof.Machine

/-- rangeTabLps: per pStateIdx, for qRangeIdx 0 to 3, packed low byte first. -/
def rangeTab : List Nat :=
  [0xF0D0B080, 0xE3C5A780, 0xD8BB9E80, 0xCDB2967B, 0xC3A98E74, 0xB9A0876F, 0xAF988069, 0xA6907A64] ++
  [0x9E89745F, 0x96826E5A, 0x8E7B6855, 0x87756351, 0x806F5E4D, 0x7A695949, 0x74645545, 0x6E5F5042] ++
  [0x685A4C3E, 0x6356483B, 0x5E514538, 0x594D4135, 0x55493E33, 0x50453B30, 0x4C42382E, 0x483F352B] ++
  [0x453B3229, 0x41383027, 0x3E362D25, 0x3B332B23, 0x38302921, 0x352E2720, 0x322B251E, 0x3029231D] ++
  [0x2D27211B, 0x2B251F1A, 0x29231E18, 0x27211C17, 0x25201B16, 0x231E1A15, 0x211D1814, 0x1F1B1713] ++
  [0x1E1A1612, 0x1C191511, 0x1B171410, 0x1916130F, 0x1815120E, 0x1714110E, 0x1613100D, 0x15120F0C] ++
  [0x14110E0C, 0x13100E0B, 0x120F0D0B, 0x110F0C0A, 0x100E0C0A, 0x0F0D0B09, 0x0E0C0B09, 0x0E0C0A08] ++
  [0x0D0B0908, 0x0C0B0907, 0x0C0A0907, 0x0B0A0807, 0x0B090806, 0x0A090706, 0x09080706, 0x02020202]

/-- transIdxLps. -/
def transLps : List Nat :=
  [0, 0, 1, 2, 2, 4, 4, 5, 6, 7, 8, 9, 9, 11, 11, 12, 13, 13, 15, 15, 16, 16, 18, 18, 19, 19, 21, 21, 22, 22, 23, 24] ++
  [24, 25, 26, 26, 27, 27, 28, 29, 29, 30, 30, 30, 31, 32, 32, 33, 33, 33, 34, 34, 35, 35, 35, 36, 36, 36, 37, 37, 37, 38, 38, 63]

def rangeLps (state range : Nat) : Nat := rangeTab.getD state 0 / 256 ^ (range / 64 % 4) % 256

/-- A context variable: pStateIdx and valMps. -/
abbrev Ctx := Nat × Nat

/-- The state after a bin of a context. -/
def ctxNext (c : Ctx) (bin : Nat) : Ctx :=
  if bin = c.2 then (min 62 (c.1 + 1), c.2)
  else (transLps.getD c.1 0, if c.1 = 0 then 1 - c.2 else c.2)

/-- A bin to code: of a context, bypass, or terminate. -/
inductive Bin where
  | ctx (c : Nat) (v : Nat)
  | byp (v : Nat)
  | term (v : Nat)
  deriving DecidableEq, Repr

/-! ## The encoder -/

/-- The coding engine. `bits` holds the output, last bit first. -/
structure Enc where
  low : Nat := 0
  range : Nat := 510
  first : Bool := true
  outstanding : Nat := 0
  ctxs : Table Ctx := []
  bits : List Bool := []

def Enc.putBit (e : Enc) (b : Bool) : Enc :=
  let e := if e.first then { e with first := false } else { e with bits := b :: e.bits }
  { e with bits := List.replicate e.outstanding (!b) ++ e.bits, outstanding := 0 }

/-- One step of the renormalisation: a bit goes out, or stays outstanding. -/
def Enc.shift (e : Enc) : Enc :=
  let e := if e.low < 256 then e.putBit false
    else if 512 ≤ e.low then { e with low := e.low - 512 }.putBit true
    else { e with low := e.low - 256, outstanding := e.outstanding + 1 }
  { e with low := 2 * e.low, range := 2 * e.range }

def Enc.renorm : Nat → Enc → Enc
  | 0, e => e
  | n + 1, e => if e.range < 256 then Enc.renorm n e.shift else e

def Enc.decision (e : Enc) (c bin : Nat) : Enc :=
  let x := tget e.ctxs c (0, 0)
  let lps := rangeLps x.1 e.range
  let r := e.range - lps
  let e := if bin = x.2 then { e with range := r } else { e with low := e.low + r, range := lps }
  Enc.renorm 8 { e with ctxs := tset e.ctxs c (ctxNext x bin) }

def Enc.bypass (e : Enc) (bin : Nat) : Enc :=
  let low := 2 * e.low + (if bin = 1 then e.range else 0)
  if 1024 ≤ low then { e with low := low - 1024 }.putBit true
  else if low < 512 then { e with low := low }.putBit false
  else { e with low := low - 512, outstanding := e.outstanding + 1 }

/-- The terminate bin; with value 1 the engine is flushed. -/
def Enc.terminate (e : Enc) (bin : Nat) : Enc :=
  let e := { e with range := e.range - 2 }
  if bin = 0 then Enc.renorm 8 e else
    let e := Enc.renorm 8 { e with low := e.low + e.range, range := 2 }
    let e := e.putBit (e.low / 512 % 2 == 1)
    { e with bits := true :: (e.low / 256 % 2 == 1) :: e.bits }

def Enc.put (e : Enc) : Bin → Enc
  | .ctx c v => e.decision c v
  | .byp v => e.bypass v
  | .term v => e.terminate v

/-- Bytes of a bit list, first bit in bit 7. -/
def packBits : Nat → List Bool → List Byte
  | 0, _ => []
  | n + 1, bs => BitVec.ofNat 8 ((List.range 8).foldl (fun a i => 2 * a + b2n (bs.getD i false)) 0) :: packBits n (bs.drop 8)

/-- A substream (R404): the bins, a terminate bin of 1, the flush, a 1 bit, zeros to a 4-byte boundary. -/
def substream (bins : List Bin) : List Byte :=
  let e := (bins.foldl Enc.put {}).terminate 1
  let bits := (true :: e.bits).reverse
  packBits (4 * ((bits.length + 31) / 32)) bits

/-! ## The decoder -/

/-- The decoding engine over the bits of a substream. `short` is set when it needs bytes beyond the substream. -/
structure Dec where
  bits : List Bool
  range : Nat := 510
  offset : Nat := 0
  ctxs : Table Ctx := []
  short : Bool := false

def Dec.bit (d : Dec) : Nat × Dec :=
  match d.bits with
  | [] => (0, { d with short := true })
  | b :: r => (b2n b, { d with bits := r })

/-- Shift one bit into the offset. -/
def Dec.feed (d : Dec) : Dec := let r := d.bit; { r.2 with offset := 2 * r.2.offset + r.1 }

def unpackBits (bs : List Byte) : List Bool := bs.flatMap fun b => (List.range 8).map fun i => b.getLsbD (7 - i)

def decInit (bs : List Byte) : Dec := (List.range 9).foldl (fun d _ => d.feed) { bits := unpackBits bs }

def Dec.renorm : Nat → Dec → Dec
  | 0, d => d
  | n + 1, d => if d.range < 256 then Dec.renorm n { d.feed with range := 2 * d.range } else d

def Dec.decision (d : Dec) (c : Nat) : Nat × Dec :=
  let x := tget d.ctxs c (0, 0)
  let lps := rangeLps x.1 d.range
  let r := d.range - lps
  let lower := decide (r ≤ d.offset)
  let bin := if lower then 1 - x.2 else x.2
  let d := if lower then { d with offset := d.offset - r, range := lps } else { d with range := r }
  (bin, Dec.renorm 8 { d with ctxs := tset d.ctxs c (ctxNext x bin) })

def Dec.bypass (d : Dec) : Nat × Dec :=
  let d := d.feed
  if d.range ≤ d.offset then (1, { d with offset := d.offset - d.range }) else (0, d)

end Sys2Proof.Machine
end

