-- ==== Sys2Proof/Machine/ActCoding.lean ====
section
/-!
DEFINITION. Activation coding (R396 to R408, R410 to R412): the geometry of a coded tensor, prediction, the syntax of a
coding block, the segments of a coded object, and the checks of a call word.
-/
namespace Sys2Proof.Machine

/-! ## Geometry (R396, R406 to R408) -/

/-- What a coded object's header says of its tensor. -/
structure Geo where
  channels : Nat
  w : Nat
  h : Nat
  frames : Nat
  slabRows : Nat
  run : Nat
  fmt : Nat
  deriving DecidableEq, Repr

def Geo.planes (g : Geo) : Nat := (g.channels + 15) / 16
def Geo.slabs (g : Geo) : Nat := (g.h + g.slabRows - 1) / g.slabRows
def Geo.segs (g : Geo) : Nat := g.frames * g.planes * g.slabs
def Geo.chans (g : Geo) (p : Nat) : Nat := min 16 (g.channels - 16 * p)
def Geo.rows (g : Geo) (sl : Nat) : Nat := min g.slabRows (g.h - sl * g.slabRows)
def Geo.cbCols (g : Geo) : Nat := (g.w + 7) / 8
def Geo.cbs (g : Geo) (sl : Nat) : Nat := g.cbCols * ((g.rows sl + 7) / 8)

/-- R407. -/
def Geo.wseg (g : Geo) (p sl : Nat) : Nat :=
  let c := g.chans p
  let n := g.cbs sl
  32 * ((4 * (1 + c) + 16 * n + c * (g.w * g.rows sl + 2 * n) + 8 * (1 + c) + 31) / 32)

/-- Header, bound table and segment table, up to the first segment (R406; log 47). -/
def Geo.tables (g : Geo) : Nat := 32 * ((64 + 32 * ((g.planes + 31) / 32) + 16 * g.segs + 31) / 32)

/-- Planes of pair i of n, and the k-th segment that it codes: frame, plane, slab (R408). -/
def Geo.planesOf (g : Geo) (n i : Nat) : Nat := (g.planes + n - 1 - i) / n
def Geo.segsOf (g : Geo) (n i : Nat) : Nat := g.frames * g.planesOf n i * g.slabs
def Geo.seg (g : Geo) (n i k : Nat) : Nat × Nat × Nat :=
  (k / (g.planesOf n i * g.slabs), i + n * (k / g.slabs % g.planesOf n i), k % g.slabs)
def Geo.index (g : Geo) (q : Nat × Nat × Nat) : Nat := (q.1 * g.planes + q.2.1) * g.slabs + q.2.2

/-- A pair's share of the object region, and its part of the spill window. -/
def Geo.share (g : Geo) (cap n : Nat) : Nat := (cap - g.tables) / n / 32 * 32
def Geo.part (g : Geo) (cap n i : Nat) : Nat :=
  ((List.range (g.segsOf n i)).map fun k => g.wseg (g.seg n i k).2.1 (g.seg n i k).2.2).foldl (· + ·) 0 - g.share cap n
def Geo.partBase (g : Geo) (cap n i : Nat) : Nat := ((List.range i).map fun j => g.part cap n j).foldl (· + ·) 0
def Geo.window (g : Geo) (cap n : Nat) : Nat := g.partBase cap n n

/-! ## The call word (Table 13) -/

abbrev ActWord := BitVec 512

def awCap (c : ActWord) : Nat := fld c 511 448
def awSrc (c : ActWord) : Nat := fld c 447 440
def awDst (c : ActWord) : Nat := fld c 439 432
def awRef (c : ActWord) : Nat := fld c 431 424
def awBound (c : ActWord) : Nat := fld c 423 416
def awSession (c : ActWord) : Nat := fld c 407 400
def awSlab (c : ActWord) : Nat := fld c 399 384
def awRun (c : ActWord) : Nat := fld c 383 378 + 1
def awDecode (c : ActWord) : Bool := bitAt c 377
def awSem (c : ActWord) : Nat := fld c 376 368

/-- Geometry of an encode call. -/
def encodeGeo (c : ActWord) (src : DescWord) : Geo :=
  { channels := dSize src 0, w := dSize src 1, h := dSize src 2, frames := dSize src 3, slabRows := awSlab c, run := awRun c, fmt := dFmt src }

/-- Bytes of reference scratch (R410). -/
def scratchBytes (t : DescWord) : Nat := 2 * ((dSize t 0 + 15) / 16) * dSize t 1 * dSize t 2 * 16

/-- The checks of R411; `sems` are the semaphores that the pattern declares. -/
def actWordOk (c : ActWord) (src dst ref bound : DescWord) (sems : Nat → Bool) : Bool :=
  let t := if awDecode c then dst else src
  fld c 415 408 == 0 && fld c 367 0 == 0 && dSpace src == 0 && dSpace dst == 0 && dSpace ref == 0 &&
  (dFmt t == 0x02 || dFmt t == 0x03) && dRank t == 4 && decide (dSize t 1 ≤ 4096) && decide (dSize t 2 ≤ 4096) &&
  (awSem c == 0x1FF || (decide (awSem c ≤ 447) && sems (awSem c))) && decide (scratchBytes t ≤ dCapacity ref) &&
  (awDecode c || (awSlab c != 0 && awSlab c % 8 == 0 && decide (dSize t 1 * awSlab c ≤ 8192) && awCap c % 32 == 0 &&
    decide ((encodeGeo c src).tables ≤ awCap c) && decide (awCap c ≤ dCapacity dst) && dSpace bound == 0 && dFmt bound == 0x0E &&
    decide (dCount bound = (encodeGeo c src).planes)))

/-- The error bounds of a call's planes (R398). -/
def boundsOf (s : State) (bound : DescWord) : List Nat :=
  let t := cmdTensor bound
  (List.range (dCount bound)).map fun i => t.readCode s (offsetOf bound (indexOf bound i))

/-! ## Ordered values and prediction (R397, R400 to R402) -/

def ordv (code : Nat) : Int := if 128 ≤ code then -((code % 128 : Nat) : Int) - 1 else (code : Int)
def unord (o : Int) : Nat := if 0 ≤ o then o.toNat else 128 + (-o - 1).toNat

/-- A NaN or infinity code of E4M3 or E5M2. -/
def codeNonFinite (fmt code : Nat) : Bool := if fmt = 0x02 then code % 128 == 127 else decide (124 ≤ code % 128)

def oMin (fmt : Nat) : Int := if fmt = 0x02 then -127 else -124
def oMax (fmt : Nat) : Int := if fmt = 0x02 then 126 else 123
def oClamp (fmt : Nat) (x : Int) : Int := max (oMin fmt) (min (oMax fmt) x)

def intraPred (a b c : Option Int) : Int :=
  match a, b with
  | none, none => 0
  | none, some y => y
  | some x, none => x
  | some x, some y =>
    let z := c.getD x
    if max x y ≤ z then min x y else if z ≤ min x y then max x y else x + y - z

def quantise (k : Nat) (r : Int) : Int :=
  let d : Int := 2 * k + 1
  if 0 ≤ r then (r + k) / d else -((k - r) / d)

def median3 (a b c : Int) : Int := max (min a b) (min (max a b) c)

/-- A call at work on one segment: where the reconstructed planes lie (log 48), what is coded, and the vectors of the
same slab of the frame before (R395). -/
structure SegEnv where
  g : Geo
  ref : Nat
  f : Nat
  p : Nat
  sl : Nat
  k : Nat
  near : List (Int × Int) := []

def SegEnv.at' (e : SegEnv) (f x y c : Nat) : Nat :=
  e.ref + ((f % 2 * e.g.planes + e.p) * (e.g.w * e.g.h) + y * e.g.w + x) * 16 + c

/-- The ordered value of a reconstructed sample; 0 for a non-finite code (R397). -/
def SegEnv.sample (e : SegEnv) (s : State) (f x y c : Nat) : Int :=
  let code := (s.byte .unified (e.at' f x y c)).toNat
  if codeNonFinite e.g.fmt code then 0 else ordv code

/-- Frame f − 1 with edge samples outside the picture (R401). -/
def SegEnv.refSample (e : SegEnv) (s : State) (x y : Int) (c : Nat) : Int :=
  e.sample s (e.f + 1) (max 0 (min x (e.g.w - 1 : Nat))).toNat (max 0 (min y (e.g.h - 1 : Nat))).toNat c

def interPred (e : SegEnv) (s : State) (mv : Int × Int) (x y c : Nat) : Int :=
  let xi := 4 * (x : Int) + mv.1
  let yi := 4 * (y : Int) + mv.2
  let x0 := xi / 4
  let y0 := yi / 4
  let fx := xi % 4
  let fy := yi % 4
  (e.refSample s x0 y0 c * ((4 - fx) * (4 - fy)) + e.refSample s (x0 + 1) y0 c * (fx * (4 - fy)) +
   e.refSample s x0 (y0 + 1) c * ((4 - fx) * fy) + e.refSample s (x0 + 1) (y0 + 1) c * (fx * fy) + 8) / 16

/-- The prediction of a sample; `inter` carries the vector. -/
def predict (e : SegEnv) (s : State) (inter : Option (Int × Int)) (x y c : Nat) : Int :=
  match inter with
  | some mv => interPred e s mv x y c
  | none =>
    let top := e.sl * e.g.slabRows
    let left := if x = 0 then none else some (e.sample s e.f (x - 1) y c)
    let up := if y = top then none else some (e.sample s e.f x (y - 1) c)
    let ul := if x = 0 || y = top then none else some (e.sample s e.f (x - 1) (y - 1) c)
    intraPred left up ul

/-- Coded positions of a CB in raster order. -/
def cbPositions (e : SegEnv) (cb : Nat) : List (Nat × Nat) :=
  let x0 := cb % e.g.cbCols * 8
  let y0 := cb / e.g.cbCols * 8
  (List.range (min 8 (e.g.rows e.sl - y0))).flatMap fun y => (List.range (min 8 (e.g.w - x0))).map fun x =>
    (x0 + x, e.sl * e.g.slabRows + y0 + y)

/-- The modes of R399. -/
inductive CbMode where
  | raw | intra | inter | skip
  deriving DecidableEq, Repr

/-- The vector that a CB predicts from its neighbours (R401): `mvs` holds the vectors of the CBs before it. -/
def predVector (e : SegEnv) (mvs : List (Int × Int)) (cb : Nat) : Int × Int :=
  let n := e.g.cbCols
  let at' (ok : Bool) (i : Nat) : Int × Int := if ok then mvs.getD i (0, 0) else (0, 0)
  let left := at' (cb % n != 0) (cb - 1)
  let up := at' (decide (n ≤ cb)) (cb - n)
  let ur := if decide (n ≤ cb) && decide (cb % n + 1 < n) then at' true (cb - n + 1) else at' (decide (n ≤ cb) && cb % n != 0) (cb - n - 1)
  (median3 left.1 up.1 ur.1, median3 left.2 up.2 ur.2)

/-! ## Syntax (Table 10) -/

def egk : Nat → Nat → Nat → List Bin
  | 0, _, _ => []
  | fuel + 1, v, k =>
    if 2 ^ k ≤ v then .byp 1 :: egk fuel (v - 2 ^ k) (k + 1)
    else .byp 0 :: ((List.range k).reverse.map fun i => Bin.byp (v / 2 ^ i % 2))

def modeBins (first : Bool) (m : CbMode) : List Bin :=
  if first then [.ctx 0 (b2n (m == .intra))]
  else match m with
    | .skip => [.ctx 1 1]
    | .inter => [.ctx 1 0, .ctx 2 1]
    | .intra => [.ctx 1 0, .ctx 2 0, .ctx 3 1]
    | .raw => [.ctx 1 0, .ctx 2 0, .ctx 3 0]

def mvdBins (v : Int) : List Bin :=
  if v = 0 then [.ctx 4 0] else .ctx 4 1 :: .byp (b2n (decide (v < 0))) :: egk 16 (v.natAbs - 1) 1

def rawBins (code : Nat) : List Bin := (List.range 8).reverse.map fun i => Bin.byp (code / 2 ^ i % 2)

/-- The order of the next remainder code (R405). -/
def krNext (kr v : Nat) : Nat := if 3 * 2 ^ kr < v && kr < 4 then kr + 1 else kr

/-- Non-zero values at the left and above positions within the CB, of width w. -/
def nearCount (w : Nat) (qs : List Int) (i : Nat) : Nat :=
  b2n (i % w != 0 && qs.getD (i - 1) 0 != 0) + b2n (decide (w ≤ i) && qs.getD (i - w) 0 != 0)

/-- One coded value. -/
def valueBins (a b kr : Nat) (q : Int) : List Bin × Nat :=
  let m := q.natAbs
  if m = 0 then ([.ctx (2 + a + 3 * b) 0], kr) else
    let sign := [Bin.byp (b2n (decide (q < 0)))]
    let head := [Bin.ctx (2 + a + 3 * b) 1, Bin.ctx (8 + min a 1) (b2n (decide (1 < m)))]
    if m = 1 then (head ++ sign, kr)
    else if m = 2 then (head ++ [.ctx 10 0] ++ sign, kr)
    else (head ++ [.ctx 10 1] ++ egk 16 (m - 3) kr ++ sign, krNext kr (m - 3))

/-- A channel's part of an INTRA or INTER CB. -/
def channelBins (inter : Bool) (b w kr : Nat) (qs : List Int) : List Bin × Nat :=
  let cbf := qs.any (· != 0)
  let head := [Bin.ctx (b2n inter) (b2n cbf)]
  if !cbf then (head, kr) else
    (List.range qs.length).foldl (fun (p : List Bin × Nat) i =>
      let v := valueBins (nearCount w qs i) b p.2 (qs.getD i 0)
      (p.1 ++ v.1, v.2)) (head, kr)

/-! ## Encoding a segment -/

/-- The encoder's progress in a segment. -/
structure SegOut where
  s : State
  mvs : List (Int × Int) := []
  side : List Bin := []
  chans : List (List Bin)
  krs : List Nat
  /-- Blocks that held a non-finite code (R403). -/
  nonfin : Nat := 0

/-- The source code of a sample. -/
def srcCode (e : SegEnv) (s : State) (src : Tensor) (x y c : Nat) : Nat :=
  src.readCode s (offsetOf src.d [16 * e.p + c, x, y, e.f, 0, 0])

/-- Code one channel of an INTRA or INTER block: the values q, and the state with the reconstruction (R402). -/
def codeChannel (e : SegEnv) (src : Tensor) (inter : Option (Int × Int)) (c : Nat) (ps : List (Nat × Nat)) (s : State) : List Int × State :=
  ps.foldl (fun (a : List Int × State) q =>
    let pred := predict e a.2 inter q.1 q.2 c
    let v := quantise e.k (ordv (srcCode e a.2 src q.1 q.2 c) - pred)
    let r := oClamp e.g.fmt (pred + v * (2 * e.k + 1))
    (a.1 ++ [v], a.2.write .unified (e.at' e.f q.1 q.2 c) [BitVec.ofNat 8 (unord r)])) ([], s)

/-! ## The motion search (R395, Table 8) -/

/-- The source's ordered value, with edge samples outside the picture. -/
def SegEnv.srcSample (e : SegEnv) (src : Tensor) (s : State) (x y : Int) (c : Nat) : Int :=
  let code := srcCode e s src (max 0 (min x (e.g.w - 1 : Nat))).toNat (max 0 (min y (e.g.h - 1 : Nat))).toNat c
  if codeNonFinite e.g.fmt code then 0 else ordv code

/-- The candidate of lower cost; ties go to the smaller |mvx| + |mvy|, then the smaller mvy, then the smaller mvx. -/
def candBefore (a b : Nat × Int × Int) : Bool :=
  let size (v : Nat × Int × Int) : Nat := v.2.1.natAbs + v.2.2.natAbs
  decide (a.1 < b.1) || (a.1 == b.1 && (decide (size a < size b) || (size a == size b &&
    (decide (a.2.2 < b.2.2) || (a.2.2 == b.2.2 && decide (a.2.1 < b.2.1))))))

def bestCand (cost : Int × Int → Nat) (vs : List (Int × Int)) : Int × Int :=
  match vs with
  | [] => (0, 0)
  | v :: r => (r.foldl (fun a w => let b := (cost w, w); if candBefore b a then b else a) (cost v, v)).2

/-- Vectors up to r steps from a centre, in quarter samples and within the range of R401. -/
def around (r : Nat) (step : Int) (c : Int × Int) : List (Int × Int) :=
  let ds := (List.range (2 * r + 1)).map fun (i : Nat) => ((i : Int) - (r : Int)) * step
  let ok (v : Int) : Bool := decide (-1024 ≤ v) && decide (v ≤ 1023)
  ds.flatMap fun y => (ds.map fun x => (c.1 + x, c.2 + y)).filter fun v => ok v.1 && ok v.2

/-- A vector on the grid of a step. -/
def onGrid (step : Int) (v : Int × Int) : Int × Int := (v.1 / step * step, v.2 / step * step)

/-- An average of n samples: the integer below or, as no rule says how it rounds, the one above (log 24). -/
def average (sum : Int) (n : Nat) : Int := sum / n + if sum % n != 0 && Config.averageUp sum n then 1 else 0

/-- A sample at 1/n resolution. -/
def lowSample (n : Nat) (f : Int → Int → Int) (x y : Int) : Int :=
  average ((List.range n).flatMap fun (j : Nat) => (List.range n).map fun (i : Nat) => f (n * x + i) (n * y + j)).sum (n * n)

/-- The first coordinate, at 1/n resolution, of the block of b × b samples that is searched for a coding block at x: on the grid of
such blocks, or where the coding block begins (log 24). -/
def searchAnchor (n b x : Nat) : Nat := if Config.searchAligned then x / (n * b) * b else x / n

/-- SAD of a block of b × b samples at 1/n resolution, over the channels of the plane. -/
def lowSad (e : SegEnv) (src : Tensor) (s : State) (n b x0 y0 : Nat) (v : Int × Int) : Nat :=
  let ax : Int := searchAnchor n b x0
  let ay : Int := searchAnchor n b y0
  ((List.range (e.g.chans e.p)).flatMap fun (c : Nat) => (List.range b).flatMap fun (j : Nat) => (List.range b).map fun (i : Nat) =>
    (lowSample n (fun x y => e.srcSample src s x y c) (ax + i) (ay + j) -
      lowSample n (fun x y => e.refSample s x y c) (ax + i + v.1 / (4 * n)) (ay + j + v.2 / (4 * n))).natAbs).sum

/-- The sign at (u, i) of the 4 × 4 Hadamard matrix. -/
def hadamardSign (u i : Nat) : Int := if (u % 2 * (i % 2) + u / 2 * (i / 2)) % 2 = 1 then -1 else 1

/-- The sum of the absolute Hadamard coefficients of a 4 × 4 block of differences. -/
def hadamardSum (f : Nat → Nat → Int) : Nat :=
  ((List.range 16).map fun k => ((List.range 16).map fun j =>
    hadamardSign (k % 4) (j % 4) * hadamardSign (k / 4) (j / 4) * f (j % 4) (j / 4)).sum.natAbs).sum

/-- The cost of the full, half and quarter steps: SATD over the 4 × 4 blocks and channels of the coding block, and λ, 4 for activation
coding, for each bin of the vector's difference (Table 10; log 24). -/
def fineCost (e : SegEnv) (src : Tensor) (s : State) (pv : Int × Int) (ps : List (Nat × Nat)) (v : Int × Int) : Nat :=
  let x0 := (ps.headD (0, 0)).1
  let y0 := (ps.headD (0, 0)).2
  let diff (c x y : Nat) : Int := if ps.contains (x, y) then e.srcSample src s x y c - interPred e s v x y c else 0
  let sums := (List.range (e.g.chans e.p)).flatMap fun c => (List.range 4).map fun b =>
    hadamardSum fun i j => diff c (x0 + b % 2 * 4 + i) (y0 + b / 2 * 4 + j)
  Config.satdScale sums.sum + 4 * ((mvdBins (v.1 - pv.1)).length + (mvdBins (v.2 - pv.2)).length)

/-- The predictors: the vectors of the left, above and above-right blocks and of the co-located one. -/
def predictors (e : SegEnv) (mvs : List (Int × Int)) (cb : Nat) : List (Int × Int) :=
  let n := e.g.cbCols
  let put (ok : Bool) (l : List (Int × Int)) (i : Nat) : List (Int × Int) := if ok then (l[i]?).toList else []
  put (cb % n != 0) mvs (cb - 1) ++ put (decide (n ≤ cb)) mvs (cb - n) ++
    put (decide (n ≤ cb) && decide (cb % n + 1 < n)) mvs (cb - n + 1) ++ put true e.near cb

/-- The vector of a coding block. Each step starts from the best candidate of the step before it. -/
def motionSearch (e : SegEnv) (src : Tensor) (s : State) (pv : Int × Int) (mvs : List (Int × Int)) (ps : List (Nat × Nat)) (cb : Nat) : Int × Int :=
  let seeds := (0, 0) :: predictors e mvs cb
  let x0 := cb % e.g.cbCols * 8
  let y0 := e.sl * e.g.slabRows + cb / e.g.cbCols * 8
  let fine := fineCost e src s pv ps
  let full :=
    if e.g.w < 64 || e.g.h < 64 then bestCand fine (seeds.flatMap fun v => around 8 4 (onGrid 4 v))
    else
      let cost := lowSad e src s 4 4 x0 y0
      let cs := (seeds.flatMap fun v => around 32 16 (onGrid 16 v)).eraseDups
      let first := bestCand cost cs
      let second := bestCand cost (cs.filter (· != first))
      let mid := bestCand (lowSad e src s 2 8 x0 y0) (around 4 8 first ++ around 4 8 second)
      bestCand fine (around 2 4 mid)
  let half := bestCand fine (around 1 2 full)
  bestCand fine (around 1 1 half)

/-- The values that a block codes in a mode, from the reconstruction so far: its codes for RAW, else its q by channel. -/
def modeValues (e : SegEnv) (src : Tensor) (ps : List (Nat × Nat)) (s : State) (m : CbMode × (Int × Int)) : List Int :=
  (List.range (e.g.chans e.p)).flatMap fun c => match m.1 with
    | .raw => ps.map fun q => (srcCode e s src q.1 q.2 c : Int)
    | .intra => (codeChannel e src none c ps s).1
    | _ => (codeChannel e src (some m.2) c ps s).1

/-- The mode of lowest cost; of equal costs the one that stands first (R403; log 24). -/
def cheapest (cost : CbMode × (Int × Int) → Nat) : List (CbMode × (Int × Int)) → CbMode × (Int × Int)
  | [] => (.raw, (0, 0))
  | m :: r => r.foldl (fun a b => if cost b < cost a then b else a) m

/-- A mode's number in R403's order. -/
def modeIndex : CbMode → Nat
  | .raw => 0
  | .intra => 1
  | .inter => 2
  | .skip => 3

/-- The mode of a block: RAW where a code is non-finite, SKIP only where no value is left to code, INTER with the searched vector,
and of the modes that it allows the cheapest in the order RAW, INTRA, INTER, SKIP (R399, R403). -/
def chooseMode (e : SegEnv) (src : Tensor) (raw first : Bool) (pv : Int × Int) (mvs : List (Int × Int)) (ps : List (Nat × Nat)) (cb : Nat)
    (s : State) : CbMode × (Int × Int) :=
  let codes := modeValues e src ps s (.raw, (0, 0))
  if raw || codes.any (fun v => codeNonFinite e.g.fmt v.toNat) then (.raw, (0, 0)) else
    let cost (m : CbMode × (Int × Int)) : Nat := Config.modeCost (modeIndex m.1) (modeValues e src ps s m) e.k
    let inter := if first then [] else [(CbMode.inter, motionSearch e src s pv mvs ps cb)]
    let skip := if !first && (modeValues e src ps s (.skip, pv)).all (· == 0) then [(CbMode.skip, pv)] else []
    cheapest cost ([(CbMode.raw, ((0 : Int), (0 : Int))), (.intra, (0, 0))] ++ inter ++ skip)

/-- Append a channel's bins. -/
def SegOut.addChan (o : SegOut) (c : Nat) (bins : List Bin) (kr : Nat) (s : State) : SegOut :=
  { o with s := s, chans := o.chans.set c (o.chans.getD c [] ++ bins), krs := o.krs.set c kr }

/-- Code a block in a mode. -/
def codeCb (e : SegEnv) (src : Tensor) (pv : Int × Int) (cb : Nat) (o : SegOut) (m : CbMode × (Int × Int)) : SegOut :=
  let ps := cbPositions e cb
  let w := min 8 (e.g.w - cb % e.g.cbCols * 8)
  let first := e.f % e.g.run == 0
  let cs := List.range (e.g.chans e.p)
  let bad := cs.any fun c => ps.any fun q => codeNonFinite e.g.fmt (srcCode e o.s src q.1 q.2 c)
  let mv := if m.1 == .inter || m.1 == .skip then m.2 else (0, 0)
  let side := modeBins first m.1 ++ (if m.1 == .inter then mvdBins (m.2.1 - pv.1) ++ mvdBins (m.2.2 - pv.2) else [])
  let o := { o with mvs := o.mvs ++ [mv], side := o.side ++ side, nonfin := o.nonfin + b2n bad }
  cs.foldl (fun o c =>
    match m.1 with
    | .raw =>
      let codes := ps.map fun q => srcCode e o.s src q.1 q.2 c
      let s := (ps.zip codes).foldl (fun s q => s.write .unified (e.at' e.f q.1.1 q.1.2 c) [BitVec.ofNat 8 q.2]) o.s
      o.addChan c (codes.flatMap rawBins) (o.krs.getD c 0) s
    | .intra =>
      let r := codeChannel e src none c ps o.s
      let b := channelBins false (b2n (e.k != 0)) w (o.krs.getD c 0) r.1
      o.addChan c b.1 b.2 r.2
    | .inter =>
      let r := codeChannel e src (some mv) c ps o.s
      let b := channelBins true (b2n (e.k != 0)) w (o.krs.getD c 0) r.1
      o.addChan c b.1 b.2 r.2
    | .skip =>
      let r := codeChannel e src (some mv) c ps o.s
      o.addChan c [] (o.krs.getD c 0) r.2) o

/-- The substreams of the blocks 0 to cb keep to the shares that WSEG gives them (R407): 16 bytes a block for modes and vectors, a byte
a position and 2 a block for a channel, and 8 for the end of each. -/
def withinShares (e : SegEnv) (cb : Nat) (o : SegOut) : Bool :=
  let n := cb + 1
  let positions := ((List.range n).map fun i => (cbPositions e i).length).sum
  decide ((substream o.side).length ≤ 16 * n + 8) && o.chans.all fun b => decide ((substream b).length ≤ positions + 2 * n + 8)

/-- Code a block: in the chosen mode, or RAW where that would cost more bytes than WSEG allows it (R403). -/
def encodeCb (e : SegEnv) (src : Tensor) (raw : Bool) (o : SegOut) (cb : Nat) : SegOut :=
  let pv := predVector e o.mvs cb
  let m := chooseMode e src raw (e.f % e.g.run == 0) pv o.mvs (cbPositions e cb) cb o.s
  let r := codeCb e src pv cb o m
  if m.1 == .raw || withinShares e cb r then r else codeCb e src pv cb o (.raw, (0, 0))

/-- Pad a byte list with zeros to a multiple of 32. -/
def pad32 (bs : List Byte) : List Byte := bs ++ List.replicate ((32 - bs.length % 32) % 32) 0

/-- The bytes of a segment (R406). -/
def segmentBytes (o : SegOut) : List Byte :=
  let subs := substream o.side :: o.chans.map substream
  pad32 (pad32 (subs.flatMap fun b => leBytes 4 b.length) ++ subs.flatten)

def encodeWith (e : SegEnv) (src : Tensor) (raw : Bool) (s : State) : SegOut :=
  (List.range (e.g.cbs e.sl)).foldl (encodeCb e src raw)
    { s := s, chans := List.replicate (e.g.chans e.p) [], krs := List.replicate (e.g.chans e.p) 0 }

/-- Encode a segment within its worst case: the reconstructed plane in the state, the bytes, blocks with non-finite codes,
the vectors of its blocks. -/
def encodeSegment (e : SegEnv) (src : Tensor) (s : State) : State × List Byte × Nat × List (Int × Int) :=
  let o := encodeWith e src false s
  let b := segmentBytes o
  if b.length ≤ e.g.wseg e.p e.sl then (o.s, b, o.nonfin, o.mvs) else
    let r := encodeWith e src true s
    (r.s, segmentBytes r, r.nonfin, r.mvs)

/-! ## Decoding a segment -/

def decEgk : Nat → Nat → Nat → Dec → Nat × Dec
  | 0, _, acc, d => (acc, d)
  | fuel + 1, k, acc, d =>
    let r := d.bypass
    if r.1 = 1 then decEgk fuel (k + 1) (acc + 2 ^ k) r.2
    else
      let q := (List.range k).foldl (fun (p : Nat × Dec) _ => let b := p.2.bypass; (2 * p.1 + b.1, b.2)) (0, r.2)
      (acc + q.1, q.2)

def decMode (first : Bool) (d : Dec) : CbMode × Dec :=
  if first then let r := d.decision 0; (if r.1 = 1 then .intra else .raw, r.2)
  else
    let a := d.decision 1
    if a.1 = 1 then (.skip, a.2) else
      let b := a.2.decision 2
      if b.1 = 1 then (.inter, b.2) else
        let c := b.2.decision 3
        (if c.1 = 1 then .intra else .raw, c.2)

def decMvd (d : Dec) : Int × Dec :=
  let r := d.decision 4
  if r.1 = 0 then (0, r.2) else
    let g := r.2.bypass
    let v := decEgk 16 1 0 g.2
    (if g.1 = 1 then -((v.1 : Int) + 1) else (v.1 : Int) + 1, v.2)

/-- One coded value: q, the next order, the engine. -/
def decValue (a b kr : Nat) (d : Dec) : Int × Nat × Dec :=
  let s0 := d.decision (2 + a + 3 * b)
  if s0.1 = 0 then (0, kr, s0.2) else
    let sgn (m : Nat) (kr : Nat) (d : Dec) : Int × Nat × Dec := let r := d.bypass; (if r.1 = 1 then -(m : Int) else m, kr, r.2)
    let g1 := s0.2.decision (8 + min a 1)
    if g1.1 = 0 then sgn 1 kr g1.2 else
      let g2 := g1.2.decision 10
      if g2.1 = 0 then sgn 2 kr g2.2 else
        let r := decEgk 16 kr 0 g2.2
        sgn (r.1 + 3) (krNext kr r.1) r.2

def decChannel (inter : Bool) (b w n kr : Nat) (d : Dec) : List Int × Nat × Dec :=
  let c := d.decision (b2n inter)
  if c.1 = 0 then (List.replicate n 0, kr, c.2) else
    (List.range n).foldl (fun (p : List Int × Nat × Dec) i =>
      let v := decValue (nearCount w p.1 i) b p.2.1 p.2.2
      (p.1 ++ [v.1], v.2.1, v.2.2)) ([], kr, c.2)

/-- The decoder's progress in a segment; `bad` once it has met R412. -/
structure SegIn where
  s : State
  mvs : List (Int × Int) := []
  side : Dec
  chans : List Dec
  krs : List Nat
  bad : Bool := false

/-- Write a decoded code into the destination and the reference scratch. -/
def putSample (e : SegEnv) (dst : Tensor) (x y c code : Nat) (s : State) : State :=
  dst.writeCode (s.write .unified (e.at' e.f x y c) [BitVec.ofNat 8 code]) (offsetOf dst.d [16 * e.p + c, x, y, e.f, 0, 0]) code

def rebuild (e : SegEnv) (dst : Tensor) (inter : Option (Int × Int)) (c : Nat) (ps : List (Nat × Nat)) (qs : List Int) (s : State) : State :=
  (ps.zip qs).foldl (fun s q =>
    let pred := predict e s inter q.1.1 q.1.2 c
    putSample e dst q.1.1 q.1.2 c (unord (oClamp e.g.fmt (pred + q.2 * (2 * e.k + 1)))) s) s

def decRaw (n : Nat) (d : Dec) : List Nat × Dec :=
  (List.range n).foldl (fun (p : List Nat × Dec) _ =>
    let r := (List.range 8).foldl (fun (q : Nat × Dec) _ => let b := q.2.bypass; (2 * q.1 + b.1, b.2)) (0, p.2)
    (p.1 ++ [r.1], r.2)) ([], d)

def decodeCb (e : SegEnv) (dst : Tensor) (o : SegIn) (cb : Nat) : SegIn :=
  if o.bad then o else
    let ps := cbPositions e cb
    let w := min 8 (e.g.w - cb % e.g.cbCols * 8)
    let first := e.f % e.g.run == 0
    let pv := predVector e o.mvs cb
    let m := decMode first o.side
    let dx := if m.1 == .inter then decMvd m.2 else (0, m.2)
    let dy := if m.1 == .inter then decMvd dx.2 else (0, dx.2)
    let mv := if m.1 == .inter then (pv.1 + dx.1, pv.2 + dy.1) else if m.1 == .skip then pv else (0, 0)
    let far := !(decide (-1024 ≤ mv.1) && decide (mv.1 ≤ 1023) && decide (-1024 ≤ mv.2) && decide (mv.2 ≤ 1023))
    let o := { o with mvs := o.mvs ++ [mv], side := dy.2, bad := dy.2.short || far }
    (List.range (e.g.chans e.p)).foldl (fun o c =>
      if o.bad then o else
        let d := o.chans.getD c { bits := [] }
        match m.1 with
        | .raw =>
          let r := decRaw ps.length d
          let s := (ps.zip r.1).foldl (fun s q => putSample e dst q.1.1 q.1.2 c q.2 s) o.s
          { o with s := s, chans := o.chans.set c r.2, bad := r.2.short }
        | .skip => { o with s := rebuild e dst (some mv) c ps (List.replicate ps.length 0) o.s }
        | _ =>
          let r := decChannel (m.1 == .inter) (b2n (e.k != 0)) w ps.length (o.krs.getD c 0) d
          let s := rebuild e dst (if m.1 == .inter then some mv else none) c ps r.1 o.s
          { o with s := s, chans := o.chans.set c r.2.2, krs := o.krs.set c r.2.1, bad := r.2.2.short }) o

/-- Decode a segment of a coded object; none of it stands when its data are bad (R412). -/
def decodeSegment (e : SegEnv) (dst : Tensor) (bytes : List Byte) (s : State) : Option State :=
  let n := 1 + e.g.chans e.p
  let lens := (List.range n).map fun i => leNat ((bytes.drop (4 * i)).take 4)
  let head := 32 * ((4 * n + 31) / 32)
  let sub (i : Nat) : Dec := decInit (((bytes.drop (head + (lens.take i).foldl (· + ·) 0)).take (lens.getD i 0)))
  let o := (List.range (e.g.cbs e.sl)).foldl (decodeCb e dst)
    { s := s, side := sub 0, chans := (List.range (n - 1)).map fun i => sub (i + 1), krs := List.replicate (n - 1) 0 }
  if o.bad || decide (bytes.length < head + lens.foldl (· + ·) 0) then none else some o.s

/-! ## The coded object (Tables 11 and 12) -/

/-- The header of a finished object. -/
def objectHeader (g : Geo) (coded inSpill spill : Nat) : List Byte :=
  leBytes 64 (0x31434156 ||| 0x01 <<< 32 ||| g.fmt <<< 40 ||| (g.run - 1) <<< 48 ||| g.channels <<< 64 ||| g.w <<< 88 ||| g.h <<< 104 |||
    g.frames <<< 120 ||| g.slabRows <<< 136 ||| g.segs <<< 152 ||| coded <<< 184 ||| inSpill <<< 248 ||| spill <<< 312)

def segEntry (loc off len : Nat) : List Byte := leBytes 16 (loc <<< 55 ||| off <<< 56 ||| len <<< 96)

/-- The geometry that an object's header gives, when it is one of the V20's and matches the destination (R412). -/
def readGeo (s : State) (obj : Nat) (dst : DescWord) : Option (Geo × Nat) :=
  let h := BitVec.ofNat 512 (s.readNat .unified obj 64)
  let g : Geo :=
    { channels := fld h 87 64, w := fld h 103 88, h := fld h 119 104, frames := fld h 135 120, slabRows := fld h 151 136, run := fld h 53 48 + 1, fmt := fld h 44 40 }
  if fld h 31 0 == 0x31434156 && fld h 39 32 == 0x01 && g.fmt == dFmt dst && g.channels == dSize dst 0 && g.w == dSize dst 1 &&
    g.h == dSize dst 2 && g.frames == dSize dst 3 && g.slabRows != 0 && fld h 183 152 == g.segs
  then some (g, fld h 354 312) else none

end Sys2Proof.Machine
end

