-- ==== Sys2Proof/Machine/Random.lean ====
section
/-!
DEFINITION. Random bits (R208 to R212), digests (R216) and compensated sums (R182 to R184).
-/
namespace Sys2Proof.Machine

/-! ## The counter generator (R208) -/

def cgRot : List (Nat × Nat) :=
  [(13, 19), (7, 25), (17, 11), (29, 3), (5, 23), (21, 9), (11, 27), (19, 6), (3, 14), (25, 17), (9, 30), (27, 12)]

structure CgState where
  x0 : W32
  x1 : W32
  x2 : W32
  x3 : W32
  k0 : W32
  k1 : W32
  deriving DecidableEq, Repr

def cgRound (c : CgState) (r : Nat × Nat) : CgState :=
  let x0 := c.x0 + (c.x1 ^^^ c.k0)
  let x1 := c.x1.rotateLeft r.1 ^^^ x0
  let x0 := x0 * 0x8B4F2E6D#32
  let x2 := c.x2 + (c.x3 ^^^ c.k1)
  let x3 := c.x3.rotateLeft r.2 ^^^ x2
  let x2 := x2 * 0xC2D59A17#32
  { x0 := x0, x1 := x3, x2 := x2, x3 := x1, k0 := c.k0 + 0x6C8E9CF5#32, k1 := c.k1.rotateLeft 7 + 0x3A5F21D3#32 }

/-- The 128 bits of CG as four words. -/
def cg (seed : W64) (purpose : Nat) (tensor : W32) (index : Nat) (epoch : W32) : List W32 :=
  let c := cgRot.foldl cgRound
    { x0 := w32 index, x1 := w32 (index >>> 32 % 65536 ||| (purpose % 65536) <<< 16), x2 := tensor, x3 := epoch,
      k0 := seed.setWidth 32, k1 := w32 (fld seed 63 32) }
  [c.x0, c.x1, c.x2, c.x3]

/-- The 16 bits that an element-addressed stochastic rounding takes (R209, R210): CG's words under purpose 0x0000 at the
element's logical offset; which 16 of the 128 they are, no rule says (log 71). -/
def elementHalf (seed : W64) (epoch tensor : W32) (k : Nat) : Nat :=
  let o := cg seed 0x0000 tensor k epoch
  (Config.drawHalf (o.getD 0 0) (o.getD 1 0) (o.getD 2 0) (o.getD 3 0)).toNat

/-! ## Lane generators (R211, R212) -/

def laneSeedIndex (slot lane ordinal q : Nat) : Nat :=
  (slot % 256) <<< 40 ||| (lane % 256) <<< 32 ||| (ordinal % 2 ^ 26) <<< 6 ||| q % 64

/-- State of lane generator l at the start of a stitch. -/
def laneSeed (seed : W64) (epoch tensor : W32) (slot lane ordinal l : Nat) : W64 :=
  let o := cg seed 0xFFFF tensor (laneSeedIndex slot lane ordinal (l / 2)) epoch
  let v := if l % 2 = 0 then w64 ((o.getD 1 0).toNat <<< 32 ||| (o.getD 0 0).toNat) else w64 ((o.getD 3 0).toNat <<< 32 ||| (o.getD 2 0).toNat)
  if v = 0 then 0x5DEECE66D1A4F87B#64 else v

def laneNext (s : W64) : W64 :=
  let s := s ^^^ (s <<< 13)
  let s := s ^^^ (s >>> 7)
  s ^^^ (s <<< 17)

/-- The 32 bits that a state yields. -/
def laneOut (s : W64) : W32 := w32 (fld (s * 0xD6E8FEB86659FD93#64) 63 32)

/-- The first n draws of 32 bits. -/
def laneDraws : Nat → W64 → List W32
  | 0, _ => []
  | n + 1, s => let t := laneNext s; laneOut t :: laneDraws n t

/-- The first n 16-bit words that stochastic roundings take: low half first. -/
def laneHalves (n : Nat) (s : W64) : List Nat :=
  (laneDraws ((n + 1) / 2) s).flatMap fun d => [d.toNat % 65536, d.toNat / 65536]

/-! ## CRC-64 (R216) -/

def crc64Bit (c : W64) : W64 := if c.msb then (c <<< 1) ^^^ 0x42F0E1EBA9EA3693#64 else c <<< 1

def crc64Byte (c : W64) (b : Byte) : W64 :=
  let c := c ^^^ ((b.setWidth 64) <<< 56)
  crc64Bit (crc64Bit (crc64Bit (crc64Bit (crc64Bit (crc64Bit (crc64Bit (crc64Bit c)))))))

/-- CRC-64 with the ECMA-182 polynomial, initial value 0, no reflection, no final XOR. -/
def crc64 (bs : List Byte) : W64 := bs.foldl crc64Byte 0

/-- The digest of an object: element bytes in logical order, then its block scales (R216, R122). -/
def digestOf (s : State) (t : Tensor) : W64 :=
  crc64 (t.bytes s ++ (if scaled (dFmt t.d) then s.read t.scaleSpace (dScaleAddr t.d) (dScaleBytes t.d) else []))

/-! ## FP32 arithmetic under RNE -/

def fadd (a b : W32) : W32 := toF32 (Val.add (f32 a) (f32 b))
def fsub (a b : W32) : W32 := toF32 (Val.add (f32 a) (Val.neg (f32 b)))
def fmul (a b : W32) : W32 := toF32 (Val.mul (f32 a) (f32 b))
/-- a · b + c rounded once. -/
def fma (a b c : W32) : W32 := toF32 (Val.add (Val.mul (f32 a) (f32 b)) (f32 c))
def fneg (a : W32) : W32 := a ^^^ 0x80000000#32
def fabs (a : W32) : W32 := a &&& 0x7FFFFFFF#32
def fIsNan (a : W32) : Bool := (f32 a).isNan
def fFinite (a : W32) : Bool := (f32 a).isFin
def fOne : W32 := 0x3F800000#32
def fNan : W32 := 0x7FC00000#32

/-- Correctly rounded quotient under RNE (R233). -/
def fdiv (a b : W32) : W32 :=
  match f32 a, f32 b with
  | .nan, _ => fNan
  | _, .nan => fNan
  | .inf _, .inf _ => fNan
  | .inf x, .fin y _ _ => toF32 (.inf (x != y))
  | .fin x _ _, .inf y => toF32 (.fin (x != y) 0 0)
  | .fin x m e, .fin y n f =>
    if n = 0 then (if m = 0 then fNan else toF32 (.inf (x != y)))
    else
      let p := fracOf m e
      let q := fracOf n f
      let c := roundCode (.float 23 127 0x7F7FFFFF) .rne 0 (p.1 * q.2) (p.2 * q.1)
      w32 (signCode 0 (x != y) (min c 0x7F800000))

/-- Integer square root by bits, from bit k down. -/
def isqrtGo (n : Nat) : Nat → Nat → Nat
  | 0, r => if (r + 1) * (r + 1) ≤ n then r + 1 else r
  | k + 1, r => isqrtGo n k (if (r + 2 ^ (k + 1)) * (r + 2 ^ (k + 1)) ≤ n then r + 2 ^ (k + 1) else r)

def isqrt (n : Nat) : Nat := isqrtGo n (Nat.log2 n / 2 + 1) 0

/-- Correctly rounded square root under RNE. -/
def fsqrt (a : W32) : W32 :=
  match f32 a with
  | .nan => fNan
  | .inf x => if x then fNan else a
  | .fin x m e =>
    if m = 0 then a else if x then fNan else
      let q := fracOf m e
      -- root of n/d = root(n·d·4⁹⁶) / (d·2⁹⁶), with a sticky half unit when it is not exact
      let n := q.1 * q.2 * 2 ^ 192
      let r := isqrt n
      let st := if r * r = n then 0 else 1
      toF32 (let c := roundCode (.float 23 127 0x7F7FFFFF) .rne 0 (2 * r + st) (2 * q.2 * 2 ^ 96)
             codeVal 0 c)

/-! ## Compensated sums (R182 to R184) -/

structure CSum where
  s : W32 := 0
  c : W32 := 0
  deriving DecidableEq, Repr

/-- |a| ≥ |b| as the pseudocode compares. -/
def fabsGe (a b : W32) : Bool := !fIsNan a && !fIsNan b && !Val.lt (f32 a).abs (f32 b).abs

def csumAdd (p : CSum) (x : W32) : CSum :=
  let t := fadd p.s x
  let c := if fabsGe p.s x then fadd p.c (fadd (fsub p.s t) x) else fadd p.c (fadd (fsub x t) p.s)
  { s := t, c := c }

def csumMerge (a b : CSum) : CSum :=
  let r := csumAdd a b.s
  { r with c := fadd r.c b.c }

/-- The result; a non-finite s stands alone (R184). -/
def csumResult (p : CSum) : W32 := if fFinite p.s then fadd p.s p.c else p.s

/-- Merge neighbours pairwise until one remains: lane 2j takes lane 2j + 1, and so on (R183). -/
def mergePairs : List CSum → List CSum
  | a :: b :: r => csumMerge a b :: mergePairs r
  | l => l

def mergeTree : Nat → List CSum → CSum
  | 0, l => l.headD {}
  | n + 1, l => mergeTree n (mergePairs l)

/-- The compensated sum of elements with their lanes: each lane in order, then the tree over 128 lanes (R183). -/
def csumLanes (xs : List (Nat × W32)) : CSum :=
  mergeTree 7 ((List.range 128).map fun l => xs.foldl (fun a p => if p.1 = l then csumAdd a p.2 else a) {})

/-- The compensated sum of a row, element i0 in lane i0 mod 128 (R228). -/
def csumRow (xs : List W32) : CSum := csumLanes (((List.range xs.length).map (· % 128)).zip xs)

end Sys2Proof.Machine
end

