-- ==== Sys2Proof/Machine/ArrayCore.lean ====
section
/-!
DEFINITION. The arithmetic of the matrix array and the stem engine (R142 to R153, R272, R273), their feeders (R257 to
R271, R277, R628), the output stage (R167 to R169) and the window unit (R283 to R291).
-/
namespace Sys2Proof.Machine

/-! ## The mode word (Table 6 of ch. 04) -/

def mSentRate (m : W64) : Nat := fld m 55 52
def mCols (m : W64) : Nat := fld m 51 45
def mKvalid (m : W64) : Nat := fld m 44 36
def mFeed (m : W64) : Nat := fld m 35 34
def mAcc (m : W64) : Nat := fld m 33 32
def mSwap (m : W64) : Bool := bitAt m 31
def mOutEn (m : W64) : Bool := bitAt m 30
def mOutFmt (m : W64) : Nat := fld m 29 25
def mCvt (m : W64) : Nat := fld m 24 20
def mAfmt (m : W64) : Nat := fld m 19 15
def mWfmt (m : W64) : Nat := fld m 14 10
def mCountEn (m : W64) : Bool := bitAt m 9

/-- The 8-bit and narrow sets of Table 4. -/
def in8 (f : Nat) : Bool := f == 0x02 || f == 0x03 || f == 0x04 || f == 0x05 || f == 0x09
def inNarrow (f : Nat) : Bool := f == 0x06 || f == 0x07 || f == 0x08 || f == 0x0A
def inMx6 (f : Nat) : Bool := f == 0x06 || f == 0x07

/-- The packing factor of an accepted operand pair; none for a refused one (Table 4, R154). BF16 takes one channel per
row over four cycles. -/
def packing (wf af : Nat) : Option Nat :=
  if wf = 0x0B && (af = 0x08 || af = 0x0A) then some 4
  else if wf = 0x0B && inMx6 af then some 2
  else if inNarrow wf && inNarrow af then some 2
  else if (in8 wf || inNarrow wf || wf = 0x0B) && in8 af then some 1
  else if in8 wf && inNarrow af then some 1
  else if wf = 0x01 && (af = 0x01 || in8 af) then some 1
  else if in8 wf && af = 0x01 then some 1
  else none

/-- Pairs whose band sum is windowed (Table 2, R149); a pair that Table 2 does not list is summed exactly (log 112). -/
def windowed (wf af : Nat) : Bool :=
  wf == 0x01 || af == 0x01 || ((wf == 0x03 || wf == 0x05) && (af == 0x03 || af == 0x05))

/-! ## Bands and chain (R148 to R153) -/

/-- The exponent of a magnitude: ⌊log₂⌋ of m · 2ᵉ. -/
def magExp (m : Nat) (e : Int) : Int := (Nat.log2 m : Int) + e

/-- Drop the magnitude bits of weight below 2ᵏ (R149). -/
def truncBelow (k : Int) (v : Val) : Val :=
  match v with
  | .fin n m e => if e < k then .fin n (m / 2 ^ (k - e).toNat) k else v
  | _ => v

/-- The band output of the products of one band: exact sum, or windowed, rounded once to FP32. -/
def bandOut (wnd : Bool) (prods : List Val) : W32 :=
  let ps := if wnd then
      let top := maxMag prods
      match top with
      | .fin _ m e => if m = 0 then prods else prods.map (truncBelow (magExp m e - 60))
      | _ => prods
    else prods
  match ps with
  | [] => 0
  | p :: r => toF32 (r.foldl Val.add p)

/-- Cut a list into bands of n. -/
def bands {α : Type} (n : Nat) (xs : List α) : List (List α) := (List.range 4).map fun b => (xs.drop (n * b)).take n

/-- One FP32 addition and whether it became non-finite from finite operands. -/
def addMade (a b : W32) : W32 × Bool := let r := fadd a b; (r, fFinite a && fFinite b && !fFinite r)

/-- The column output of one pass over its valid channels: the chain of R150 over the bands that hold any (R153). -/
def passOut (wnd : Bool) (per : Nat) (prods : List Val) : Option (W32 × Bool) :=
  ((bands per prods).filter fun b => !b.isEmpty).foldl (fun c b =>
    match c with
    | none => some (bandOut wnd b, false)
    | some (x, m) => let r := addMade x (bandOut wnd b); some (r.1, m || r.2)) none

/-- A feeder's view of a stitch: the activations of (token, pass) and the weights of (pass, column), over the valid
channels of the pass in order. -/
structure Feed where
  passes : Nat
  acts : Nat → Nat → List Val
  wts : Nat → Nat → List Val
  /-- The weight element of (pass, channel of the pass, column), the channels of a pass that the tensor holds, and the columns
  0 to COLS, beyond which none is read (R628): what the weight registers are loaded with. -/
  index : Nat → Nat → Nat → List Nat
  chans : Nat → Nat
  cols : Nat
  /-- Channels of one band: 32·P. -/
  band : Nat
  wnd : Bool

/-- Column outputs of one token and column, pass by pass. -/
def Feed.outs (f : Feed) (t n : Nat) : List (W32 × Bool) :=
  (List.range f.passes).filterMap fun p =>
    passOut f.wnd f.band (((f.acts t p).zip (f.wts p n)).map fun q => Val.mul q.1 q.2)

/-- Fold column outputs onto a committed value: replaced by the first under `start`, added to otherwise (R150, R163). -/
def accumulate (start : Bool) (old : W32) (outs : List (W32 × Bool)) : W32 × Bool :=
  (outs.foldl (fun (a : Option W32 × Bool) o =>
    match a.1 with
    | none => (some o.1, a.2 || o.2)
    | some x => let r := addMade x o.1; (some r.1, a.2 || o.2 || r.2))
    (if start then none else some old, false)) |> fun r => (r.1.getD old, r.2)

/-! ## Feeders -/

/-- The scratchpad and map-buffer feeders (R628): channels in dimension 0, tokens over the others. -/
def plainFeed (s : State) (m : W64) (act wt : Tensor) : Feed :=
  let p := (packing (mWfmt m) (mAfmt m)).getD 1
  let k := dSize act.d 0
  let per := 128 * p
  let n := (k + per - 1) / per
  let valid (pass : Nat) : List Nat :=
    ((List.range per).filter fun c => per * pass + c < k && (pass + 1 < n || c ≤ mKvalid m)).map (per * pass + ·)
  { passes := n
    acts := fun t pass => (valid pass).map fun c => act.value s (indexOf act.d (c + k * t))
    wts := fun pass col => (valid pass).map fun c => wt.value s [c, col, 0, 0, 0, 0]
    index := fun pass i col => [per * pass + i, col, 0, 0, 0, 0]
    chans := fun pass => min per (k - per * pass)
    cols := mCols m + 1
    band := 32 * p
    wnd := windowed (mWfmt m) (mAfmt m) }

/-! ### The window word (Table 1 of ch. 07) -/

abbrev WWord := BitVec 256

def wImg (w : WWord) : Nat := fld w 191 176
def wCo0 (w : WWord) : Nat := fld w 175 160
def wOy0 (w : WWord) : Nat := fld w 159 144
def wOx0 (w : WWord) : Nat := fld w 143 128
def wOc (w : WWord) : Nat := fld w 127 120
def wOr (w : WWord) : Nat := fld w 119 117
def wG0 (w : WWord) : Nat := fld w 116 109
def wGn (w : WWord) : Nat := fld w 108 101
def wPt (w : WWord) : Nat := fld w 100 95
def wPb (w : WWord) : Nat := fld w 94 89
def wPl (w : WWord) : Nat := fld w 88 83
def wPr (w : WWord) : Nat := fld w 82 77
def wSh (w : WWord) : Nat := fld w 76 73 + 1
def wSw (w : WWord) : Nat := fld w 72 69 + 1
def wDh (w : WWord) : Nat := fld w 68 65 + 1
def wDw (w : WWord) : Nat := fld w 64 61 + 1
def wKh (w : WWord) : Nat := fld w 60 55 + 1
def wKw (w : WWord) : Nat := fld w 54 49 + 1
def wTy0 (w : WWord) : Nat := fld w 48 43
def wTx0 (w : WWord) : Nat := fld w 42 37
def wTh (w : WWord) : Nat := fld w 36 33 + 1
def wTw (w : WWord) : Nat := fld w 32 29 + 1
def wRh (w : WWord) : Nat := fld w 28 21
def wRw (w : WWord) : Nat := fld w 20 13
def wBoxSreg (w : WWord) : Nat := fld w 12 8
def wBoxDyn (w : WWord) : Bool := bitAt w 7
def wAlign (w : WWord) : Bool := bitAt w 6
def wCntPad (w : WWord) : Bool := bitAt w 5
def wOp (w : WWord) : Nat := fld w 4 2

/-- Output size of one dimension (R260). -/
def outSize (n before after k dil stride : Nat) : Nat :=
  let span := dil * (k - 1) + 1
  let avail := n + before + after
  if avail < span then 0 else (avail - span) / stride + 1

def outRows (w : WWord) (map : DescWord) : Nat := outSize (dSize map 2) (wPt w) (wPb w) (wKh w) (wDh w) (wSh w)
def outCols (w : WWord) (map : DescWord) : Nat := outSize (dSize map 1) (wPl w) (wPr w) (wKw w) (wDw w) (wSw w)
def outEmpty (w : WWord) (map : DescWord) : Bool := outRows w map == 0 || outCols w map == 0

/-- Where a padded index reads: inside, or nothing under zero padding (R263). -/
def padIndex (pad : Nat) (i : Int) (n : Nat) : Option Nat :=
  if 0 ≤ i && i < n then some i.toNat
  else match pad with
    | 1 => some ((if i < 0 then -i else 2 * (n : Int) - 2 - i).toNat)
    | 2 => some (if i < 0 then 0 else n - 1)
    | _ => none

/-- The halo slots that a stitch names (R277): rows of the slot from byte 64 on. -/
structure Halos where
  above : Option Tensor := none
  below : Option Tensor := none

/-- A slot's rows as a tensor: its descriptor 64 bytes on (R278). -/
def haloRows (t : Tensor) : Tensor := { t with d := t.d + BitVec.ofNat 512 64 }

/-- A channel of the padded input map; none for a zero-padding position. -/
def pixel (s : State) (map : Tensor) (h : Halos) (w : WWord) (y x : Int) (frame c : Nat) : Option Val :=
  let rows := dSize map.d 2
  match padIndex (dPad map.d) x (dSize map.d 1) with
  | none => none
  | some xi =>
    if y < 0 && h.above.isSome then
      match h.above with
      | some a => some ((haloRows a).value s [c, xi, ((wPt w : Int) + y).toNat, 0, 0, 0])
      | none => none
    else if (rows : Int) ≤ y && h.below.isSome then
      match h.below with
      | some b => some ((haloRows b).value s [c, xi, (y - rows).toNat, 0, 0, 0])
      | none => none
    else match padIndex (dPad map.d) y rows with
      | none => none
      | some yi => some (map.value s [c, xi, yi, frame, 0, 0])

/-- The output position of token t of the rectangle, row by row. -/
def tokenPos (w : WWord) (t : Nat) : Nat × Nat := (wOy0 w + t / (wOc w + 1), wOx0 w + t % (wOc w + 1))

def rectTokens (w : WWord) : Nat := (wOr w + 1) * (wOc w + 1)

/-- The padded input position of an output position under a tap (R260). -/
def tapPos (w : WWord) (o : Nat × Nat) (ky kx : Nat) : Int × Int :=
  ((o.1 * wSh w + ky * wDh w : Nat) - (wPt w : Int), (o.2 * wSw w + kx * wDw w : Nat) - (wPl w : Int))

/-- Columns of a line-buffer segment (R267). -/
def segCols (w : WWord) : Nat :=
  if (wTw w - 1) * wDw w < wSw w then (wOc w + 1) * wTw w else wOc w * wSw w + (wTw w - 1) * wDw w + 1

/-- Activation bytes per cycle of an operand pair (Table 4 of ch. 04). -/
def actBytes (m : W64) : Nat :=
  let p := (packing (mWfmt m) (mAfmt m)).getD 1
  let n := 128 * p * fmtBits (mAfmt m) / 8
  if mWfmt m = 0x01 || mAfmt m = 0x01 then n / 4 else n + if scaled (mAfmt m) then 128 * p / blockLen (mAfmt m) else 0

/-- A bank of the line buffers can be late for its passes: there is more than one, and it is filled from the map buffer, whose port
the die shares, or its granules take longer than the passes of the other bank (R265, R266, R268). -/
def convLate (m : W64) (w : WWord) (map : DescWord) : Bool :=
  let bytes := 128 * (packing (mWfmt m) (mAfmt m)).getD 1 * fmtBits (mAfmt m) / 8
  let fill := (wOr w + 1) * segCols w * (32 * (bytes / 32 + 2)) / 512
  decide (1 < (wGn w + 1) * wTh w) && (dSpace map == 3 || decide (wTw w * (max (rectTokens w) 128 + 1) < fill))

/-- A pooling stitch fills more than one bank: its segments are TH + 1 for each output row of a group (R268, R283). -/
def poolLate (w : WWord) : Bool := decide (8 < (wOr w + 1) * wTh w) || decide (0 < wGn w)

/-- The convolution feeder (R264, R269): groups, then ky, then kx. -/
def convFeed (s : State) (m : W64) (w : WWord) (map wt : Tensor) (h : Halos) : Feed :=
  let p := (packing (mWfmt m) (mAfmt m)).getD 1
  let per := 128 * p
  let k := dSize map.d 0
  let lastGroup := (k + per - 1) / per - 1
  let taps := wTh w * wTw w
  let groupOf (pass : Nat) : Nat := wG0 w + pass / taps
  let tapOf (pass : Nat) : Nat × Nat := (wTy0 w + pass % taps / wTw w, wTx0 w + pass % taps % wTw w)
  let valid (pass : Nat) : List Nat :=
    ((List.range per).filter fun c => per * groupOf pass + c < k && (groupOf pass < lastGroup || c ≤ mKvalid m)).map (per * groupOf pass + ·)
  { passes := (wGn w + 1) * taps
    acts := fun t pass =>
      let q := tapOf pass
      let pos := tapPos w (tokenPos w t) q.1 q.2
      (valid pass).map fun c => (pixel s map h w pos.1 pos.2 (wImg w) c).getD .zero
    wts := fun pass col =>
      let q := tapOf pass
      (valid pass).map fun c => wt.value s [c, wCo0 w + col, q.2, q.1, 0, 0]
    index := fun pass i col => let q := tapOf pass; [per * groupOf pass + i, wCo0 w + col, q.2, q.1, 0, 0]
    chans := fun pass => min per (k - per * groupOf pass)
    cols := mCols m + 1
    band := 32 * p
    wnd := windowed (mWfmt m) (mAfmt m) }

/-- The stem engine's feeder (R273): taps and channels reduced together. -/
def stemFeed (s : State) (m : W64) (w : WWord) (map wt : Tensor) (h : Halos) : Feed :=
  let c0 := dSize map.d 0
  let total := c0 * wTw w * wTh w
  let chans (pass : Nat) : List Nat := ((List.range 128).filter fun i => 128 * pass + i < total &&
    (pass + 1 < (total + 127) / 128 || i ≤ mKvalid m)).map (128 * pass + ·)
  let split (r : Nat) : Nat × Nat × Nat := (r % c0, r / c0 % wTw w, r / c0 / wTw w)
  { passes := (total + 127) / 128
    acts := fun t pass => (chans pass).map fun r =>
      let q := split r
      let pos := tapPos w (tokenPos w t) (wTy0 w + q.2.2) (wTx0 w + q.2.1)
      (pixel s map h w pos.1 pos.2 (wImg w) q.1).getD .zero
    wts := fun pass col => (chans pass).map fun r =>
      let q := split r
      wt.value s [q.1, wCo0 w + col, wTx0 w + q.2.1, wTy0 w + q.2.2, 0, 0]
    index := fun pass i col => let q := split (128 * pass + i); [q.1, wCo0 w + col, wTx0 w + q.2.1, wTy0 w + q.2.2, 0, 0]
    chans := fun pass => min 128 (total - 128 * pass)
    cols := mCols m + 1
    band := 32
    wnd := windowed (mWfmt m) (mAfmt m) }

/-! ## Weight registers (R141, R156 to R158) -/

/-- Values of w bits each, the first in the lowest bits. -/
def packAll (w : Nat) (vs : List Nat) : Nat := vs.foldr (fun v a => v % 2 ^ w + 2 ^ w * a) 0

/-- What a load of a pass's weights puts into the registers: channel i of the pass lies in row i / P, the lowest of a row's P
codes first (R141, R154, Table 4 of ch. 04). -/
def passRegs (s : State) (wt : Tensor) (f : Feed) (pass : Nat) : Table Nat :=
  let p := f.band / 32
  let n := f.chans pass
  (List.range ((n + p - 1) / p)).flatMap fun r => (List.range (min 128 f.cols)).map fun col =>
    (128 * r + col, packAll (fmtBits (dFmt wt.d)) ((List.range (min p (n - p * r))).map fun k =>
      wt.readCode s (offsetOf wt.d (f.index pass (p * r + k) col))))

/-- The feed of a stitch that starts with the active registers as they stand: the codes of its first pass are theirs, and their
block scales are those of the stitch's own weight tensor, SWAP 0 included, where no rule says which scales stand. A register
that no load has filled, its column lying beyond the COLS of the stitch that loaded them, holds a free value (R170; DESIGN
CHOICE, log 145). -/
def Feed.armed (f : Feed) (s : State) (wt : Tensor) (regs : Table Nat) : Feed :=
  let p := f.band / 32
  let w := fmtBits (dFmt wt.d)
  { f with wts := fun pass col =>
      if pass = 0 then (List.range (f.wts 0 col).length).map fun i =>
        let r := 128 * (i / p) + col
        wt.valueOf s (f.index 0 i col) (tget regs r (Config.freeWord (s.free + r)).toNat >>> (w * (i % p)) % 2 ^ w)
      else f.wts pass col }

/-! ## Accumulator rows (R160 to R164) -/

/-- Read and write accumulator row r, column n: byte 512·r + 4·n; the stem engine's rows hold 64 columns. -/
def accAt (sp : Space) (r n : Nat) : Nat := match sp with | .stem _ => 256 * r + 4 * n | _ => 512 * r + 4 * n

def accRead (s : State) (sp : Space) (r n : Nat) : W32 := w32 (s.readNat sp (accAt sp r n) 4)

/-- What an array stitch wrote: rows of column values and how many elements became non-finite. -/
structure ArrayOut where
  rows : List (List W32)
  made : Nat
  deriving DecidableEq, Repr

/-- The rows that tokens 0 to n − 1 leave; `start r` says whether row r's first output replaces it. -/
def arrayRows (s : State) (sp : Space) (f : Feed) (first tokens cols : Nat) (start : Nat → Bool) : ArrayOut :=
  let rs := (List.range tokens).map fun t => (List.range cols).map fun n =>
    accumulate (start (first + t)) (accRead s sp (first + t) n) (f.outs t n)
  { rows := rs.map fun r => r.map Prod.fst, made := (rs.flatMap fun r => r.filter Prod.snd).length }

def writeRows (sp : Space) (first : Nat) (rows : List (List W32)) (s : State) : State :=
  ((List.range rows.length).zip rows).foldl
    (fun s p => s.write sp (accAt sp (first + p.1) 0) (p.2.flatMap fun v => leBytes 4 v.toNat)) s

/-! ## The output stage (R167 to R169) -/

/-- Destination with OUT_FMT as its format. -/
def withFmt (t : Tensor) (f : Nat) : Tensor :=
  { t with d := BitVec.ofNat 512 (t.d.toNat - (dFmt t.d) <<< 54 + f <<< 54) }

/-- A count word (Table 5 of ch. 04). -/
def countWord (c : Cnt) : Nat := b2n (c.nonfin != 0) <<< 3 ||| c.und <<< 4 ||| c.sat <<< 10

/-- Write one count word per destination block at COUNT_ADDR + 2·r·P + 2·b (R169). -/
def writeCounts (count dst : Tensor) (blks : List StoreBlk) (s : State) : State :=
  let nb := if scaled (dFmt dst.d) then dBlocks dst.d else (dSize dst.d 0 + 31) / 32
  let pitch := 32 * ((nb + 31) / 32)
  blks.foldl (fun s b => s.write count.space (dAddr count.d + 2 * b.row * pitch + 2 * b.block) (leBytes 2 (countWord b.cnt))) s

/-- Random words of the output stage: column n uses lane n, one per row (R168, R212). -/
def outRandom (cvt : Nat) (seed : Nat → W64) (cols rows : Nat) : List Nat :=
  if cvtRound cvt = .sr then
    let per := (List.range cols).map fun n => laneHalves rows (seed n)
    (List.range rows).flatMap fun r => (List.range cols).map fun n => (per.getD n []).getD r 0
  else []

/-- Narrow the first `cols` values of each row into the same row of the destination: the state and the blocks written. -/
def outputStage (s : State) (cvt : Nat) (dst : Tensor) (seed : Nat → W64) (cols : Nat) (rows : List (List W32)) : State × List StoreBlk :=
  let rs := outRandom cvt seed cols rows.length
  ((List.range rows.length).zip rows).foldl (fun (p : State × List StoreBlk) r =>
    let o := dst.storeRange p.1 0x00 cvt (dSize dst.d 0 * r.1) ((rs.drop (cols * r.1)).take cols) ((r.2.take cols).map f32)
    (o.1, p.2 ++ o.2)) (s, [])

/-! ## The window unit: pooling (R283 to R286) and crop-and-resize (R287 to R291) -/

/-- The taps of a pooling window: none for a zero-padding position. -/
def poolTaps (s : State) (w : WWord) (map : Tensor) (h : Halos) (o : Nat × Nat) (c : Nat) : List (Option Val) :=
  (List.range (wTh w)).flatMap fun ky => (List.range (wTw w)).map fun kx =>
    let pos := tapPos w o (wTy0 w + ky) (wTx0 w + kx)
    pixel s map h w pos.1 pos.2 (wImg w) c

/-- A value of a format widened to FP32 (R139). -/
def widenF (fmt : Nat) (v : Val) : W32 := w32 (convert fmt 0x00 0 0 v).1

/-- Finite values that widening makes infinite (R140). -/
def widenMade (fmt : Nat) (vs : List Val) : Nat := (vs.filter fun v => v.isFin && !fFinite (widenF fmt v)).length

/-- The larger value with +0 above −0, NaN if either is (R284). -/
def poolMax (a b : W32) : W32 :=
  if fIsNan a || fIsNan b then fNan
  else if Val.lt (f32 a) (f32 b) || (Val.eqv (f32 a) (f32 b) && (f32 a).negative) then b else a

/-- A pooled value and whether the window held no position taking part. -/
def poolOne (avg cntpad : Bool) (taps : List (Option W32)) : W32 × Bool :=
  let real := taps.filterMap id
  if avg then
    let n := if cntpad then taps.length else real.length
    if n = 0 then (0, true) else
      let xs := if cntpad then taps.map (·.getD 0) else real
      (fdiv (xs.tail.foldl fadd (xs.headD 0)) (toF32 (.fin false n 0)), false)
  else match real with
    | [] => (0, true)
    | x :: r => (r.foldl poolMax (if fIsNan x then fNan else x), false)

/-- Box b of a box list: IMAGE, X2, Y2, X1, Y1 (Table 4 of ch. 07). -/
structure Box where
  image : Nat
  x2 : W32
  y2 : W32
  x1 : W32
  y1 : W32
  deriving DecidableEq, Repr

def readBox (s : State) (t : Tensor) (b : Nat) : Box :=
  let w := fun i => t.readCode s (offsetOf t.d [i, b, 0, 0, 0, 0])
  { y1 := w32 (w 0), x1 := w32 (w 1), y2 := w32 (w 2), x2 := w32 (w 3), image := w 4 }

def natF32 (n : Nat) : W32 := toF32 (.fin false n 0)

/-- The i-th sample position between two coordinates with R + 1 samples (R289). -/
def samplePos (align : Bool) (r i : Nat) (a b : W32) : W32 :=
  if align then
    if r = 0 then fmul 0x3F000000#32 (fadd a b)
    else fma (natF32 i) (fdiv (fsub b a) (natF32 r)) a
  else fsub (fma (fadd (natF32 i) 0x3F000000#32) (fdiv (fsub b a) (natF32 (r + 1))) a) 0x3F000000#32

/-- ⌊x⌋ of a finite non-negative FP32. -/
def floorF (x : W32) : Nat :=
  match f32 x with
  | .fin false m e => let q := fracOf m e; q.1 / q.2
  | _ => 0

/-- A position lies in 0 to n − 1. -/
def insideF (x : W32) (n : Nat) : Bool :=
  match f32 x with
  | .fin ng m e => let q := fracOf m e; (m = 0 || !ng) && decide (q.1 ≤ (n - 1) * q.2)
  | _ => false

/-- The rows and columns that a sample lies between (R290). -/
def cornersOf (s t : W32) (n wd : Nat) : Nat × Nat × Nat × Nat :=
  let y0 := min (floorF s) (n - 1)
  let x0 := min (floorF t) (wd - 1)
  (y0, min (y0 + 1) (n - 1), x0, min (x0 + 1) (wd - 1))

/-- The resampled value of one channel (R290). -/
def resample (v : Nat → Nat → W32) (s t : W32) (n wd : Nat) : W32 :=
  let (y0, y1, x0, x1) := cornersOf s t n wd
  let fy := fsub s (natF32 y0)
  let fx := fsub t (natF32 x0)
  let gy := fsub fOne fy
  let gx := fsub fOne fx
  let top := fadd (fmul (v y0 x0) gx) (fmul (v y0 x1) fx)
  let bot := fadd (fmul (v y1 x0) gx) (fmul (v y1 x1) fx)
  fadd (fmul top gy) (fmul bot fy)

/-! ## The sentinel (R175 to R179) -/

/-- An operand as E4M3 values under RNE (R177), saturating as CVT 0 does (log 113). -/
def toE4m3 (v : Val) : Val := codeVal 0x02 (narrow 0x02 0 0 v).1

/-- The sentinel's sums: E4M3 bands of 32 channels, one pass per 128. -/
def sentinelFeed (f : List Val × List Val) : List (W32 × Bool) :=
  let prods := (f.1.zip f.2).map fun q => Val.mul (toE4m3 q.1) (toE4m3 q.2)
  (List.range ((prods.length + 127) / 128)).filterMap fun p => passOut false 32 ((prods.drop (128 * p)).take 128)

/-- The relative error bin of R179 and the error itself where it is finite, rounded to FP32 under RNE and held to FP32's
largest finite value (log 114). -/
def relBin (a s : W32) : Nat × Option Val :=
  match f32 a, f32 s with
  | .fin na ma ea, .fin ns ms es =>
    match Val.add (.fin na ma ea) (Val.neg (.fin ns ms es)) with
    | .fin _ m e =>
      if m = 0 then (0, some .zero) else
        let base := if Val.lt (.fin false ms es) (.fin false 1 (-126)) then Val.fin false 1 (-126) else .fin false ms es
        let q := quot m e base
        let lg := log2Frac q.1 q.2
        let rel := codeVal 0 (min 0x7F7FFFFF (roundCode (.float 23 127 0x7F7FFFFF) .rne 0 q.1 q.2))
        (if lg < -14 then 1 else if -1 ≤ lg then 15 else (lg + 16).toNat, some rel)
    | _ => (15, none)
  | .nan, .nan => (0, none)
  | .inf x, .inf y => if x = y then (0, none) else (15, none)
  | _, _ => (15, none)

end Sys2Proof.Machine
end

