-- ==== Sys2Proof/Machine/TensorSpans.lean ====
section
/-!
DEFINITION. The bits of memory that a tensor's elements and block scales occupy, as spans (R118, R119, R122, R123, R224).
-/
namespace Sys2Proof.Machine

/-- A span of bits: first bit (bit b of the byte at place p of `State.mem` is 8·p + b) and length in bits. -/
abbrev Span := Nat × Nat

def spansMeet (a b : Span) : Bool := decide (a.1 < b.1 + b.2) && decide (b.1 < a.1 + a.2)
def anyMeet (a b : List Span) : Bool := a.any fun x => b.any (spansMeet x)

/-- What is left of a span without another. -/
def cutSpan (a b : Span) : List Span :=
  if !spansMeet a b then [a] else
    (if a.1 < b.1 then [(a.1, b.1 - a.1)] else []) ++ (if b.1 + b.2 < a.1 + a.2 then [(b.1 + b.2, a.1 + a.2 - (b.1 + b.2))] else [])

def cutSpans (as : List Span) (bs : List Span) : List Span := bs.foldl (fun as b => as.flatMap fun a => cutSpan a b) as

/-- Runs of consecutive elements, as (first linear offset, elements), of the n positions of dimension 1 from `lo` on: rows that
follow one another without a gap are one. -/
def elemRuns (d : DescWord) (lo n : Nat) : List (Nat × Nat) :=
  (List.range 5).foldl (fun rs i =>
    let n := if i = 0 then n else dSize d (i + 1)
    let st := dStride d (i + 1)
    match rs with
    | [(a, len)] => if n = 1 then rs else if st = len then [(a, len * n)] else (List.range n).map fun k => (a + st * k, len)
    | _ => (List.range n).flatMap fun k => rs.map fun r => (r.1 + st * k, r.2)) [(dStride d 1 * lo, dSize d 0)]

/-- The bytes of the M48 elements of one group of 16 from slot `lo` up to slot `hi`: their FP32 words and their tails. -/
def m48Part (g lo hi : Nat) : List (Nat × Nat) :=
  if hi ≤ lo then [] else [(96 * g + 4 * lo, 4 * (hi - lo)), (96 * g + 64 + 2 * lo, 2 * (hi - lo))]

/-- The bytes of a run of M48 elements (R118). -/
def m48Run (r : Nat × Nat) : List (Nat × Nat) :=
  let fin := r.1 + r.2
  let g0 := r.1 / 16
  let g1 := fin / 16
  if g0 = g1 then m48Part g0 (r.1 % 16) (fin % 16)
  else
    let full := if r.1 % 16 = 0 then g0 else g0 + 1
    (if r.1 % 16 = 0 then [] else m48Part g0 (r.1 % 16) 16) ++
    (if full < g1 then [(96 * full, 96 * (g1 - full))] else []) ++ m48Part g1 0 (fin % 16)

/-- Bits from the bit at which ADDR begins, of a slice of dimension 1. -/
def elemSpans (d : DescWord) (lo n : Nat) : List Span :=
  let w := fmtBits (dFmt d)
  if dFmt d = 0x0C then (elemRuns d lo n).flatMap fun r => (m48Run r).map fun b => (8 * b.1, 8 * b.2)
  else (elemRuns d lo n).map fun r => (w * r.1, w * r.2)

/-- Bits of the block-scale array from the bit at which SCALE_ADDR begins: a read takes the tensor scale and the blocks'
scales, a write also fills the header and the rest of each row (R122, R123); of a slice of dimension 1. -/
def scaleSpans (d : DescWord) (write : Bool) (lo n : Nat) : List Span :=
  let per := if write then dPitch d else dBlocks d
  let head := if dFmt d = 0x0A then [(0, 8 * if write then 32 else 4)] else []
  let n1 := max 1 (dSize d 1)
  head ++ (if per = dPitch d && n = dSize d 1 then [(8 * dScaleHeader d, 8 * (dRows d * per))]
    else ((List.range (dRows d)).filter fun r => decide (lo ≤ r % n1) && decide (r % n1 < lo + n)).map fun r =>
      (8 * (dScaleHeader d + r * dPitch d), 8 * per))

def shiftSpans (b : Nat) (l : List Span) : List Span := l.map fun x => (8 * b + x.1, x.2)

/-- The bits that a slice of dimension 1 of a tensor occupies in T0, or with `far` in the unified range: its elements, and its
block scales as a read or a write touches them. -/
def sliceSpans (far write : Bool) (t : Tensor) (lo n : Nat) : List Span :=
  (if (dSpace t.d == 0) == far then shiftSpans (t.space.base + dAddr t.d) (elemSpans t.d lo n) else []) ++
  (if scaled (dFmt t.d) && (dScaleSpace t.d == 0) == far then shiftSpans (t.scaleSpace.base + dScaleAddr t.d) (scaleSpans t.d write lo n) else [])

/-- The bits of T0 that a tensor occupies. -/
def tensorSpans (t : Tensor) : List Span := sliceSpans false false t 0 (dSize t.d 1)
def writeSpans (t : Tensor) : List Span := sliceSpans false true t 0 (dSize t.d 1)
/-- The bits of the unified range that a tensor occupies. -/
def farSpans (t : Tensor) : List Span := sliceSpans true true t 0 (dSize t.d 1)

end Sys2Proof.Machine
end

