-- ==== Sys2Proof/Machine/FastFn.lean ====
section
/-!
DEFINITION. The functions of the vector engine that are not correctly rounded (VOP 0x10 to 0x15 and 0x18 to 0x1B of Table 3
of ch. 06): a free value within the 1 or 2 ulp that R234 states (log 22), the exact values of R302, and IEEE 754 on
non-finite values (R227).
-/
namespace Sys2Proof.Machine

/-! ## The exact functions, to 2⁻⁹⁰ of their value -/

/-- A finite value in units of 2⁻¹⁰⁰. -/
def fx (v : Val) : Int :=
  match v with
  | .fin n m e => Val.toInt (if 0 ≤ e + 100 then m * 2 ^ (e + 100).toNat else m / 2 ^ (-(e + 100)).toNat) n
  | _ => 0

def fxVal (x : Int) : Val := .fin (x < 0) x.natAbs (-100)
def fxMul (a b : Int) : Int := a * b / (2 ^ 100 : Nat)

/-- 2·artanh t for |t| ≤ 1/3. -/
def fxArtanh2 (t : Int) : Int :=
  2 * ((List.range 34).foldl (fun (p : Int × Int) i => (p.1 + p.2 / (2 * i + 1 : Nat), fxMul p.2 (fxMul t t))) (0, t)).1

def fxLn2 : Int := fxArtanh2 ((2 ^ 100 / 3 : Nat) : Int)

/-- eʳ for 0 ≤ r < 1. -/
def fxExp (r : Int) : Int :=
  (List.range 28).foldl (fun (a : Int) i => (2 ^ 100 : Nat) + fxMul a r / (28 - i : Nat)) (2 ^ 100 : Nat)

/-- eˣ; beyond ±200, where FP32 overflows or vanishes, of ±200. -/
def expVal (x : Int) : Val :=
  let x := max (-(200 * 2 ^ 100 : Nat) : Int) (min (200 * 2 ^ 100 : Nat) x)
  let k := x / fxLn2
  .fin false (fxExp (x - k * fxLn2)).toNat (k - 100)

/-- ln (m · 2ᵉ) for m ≠ 0. -/
def fxLn (m : Nat) (e : Int) : Int :=
  let l := Nat.log2 m
  let f : Int := (m * 2 ^ 100 / 2 ^ l : Nat)
  (e + l) * fxLn2 + fxArtanh2 ((f - (2 ^ 100 : Nat)) * (2 ^ 100 : Nat) / (f + (2 ^ 100 : Nat)))

/-- A quotient of finite values, the divisor not 0. -/
def quotVal (a b : Val) : Val :=
  match a, b with
  | .fin x m e, .fin y n f => let s := 140 + Nat.log2 n; .fin (x != y) (m * 2 ^ s / n) (e - f - s)
  | _, _ => .nan

/-- 1 / (1 + e⁻ˣ). -/
def sigmoidVal (x : Int) : Val :=
  if x < 0 then quotVal (expVal x) (Val.add .one (expVal x)) else quotVal .one (Val.add .one (expVal (-x)))

def tanhVal (x : Val) : Val :=
  if Val.lt x.abs (.fin false 1 (-30)) then x
  else
    let e := expVal (-2 * (fx x).natAbs)
    let r := quotVal (Val.add .one e.neg) (Val.add .one e)
    if x.negative then r.neg else r

/-- √(2/π) and 0.044715 in units of 2⁻¹⁰⁰: the constants of GELU's tanh form. -/
def geluRoot : Int := 1011438842414589465875856631813
def geluCube : Int := 56682996589205277687925083828

/-- 2u of the tanh form u = √(2/π)·(x + 0.044715·x³): 0.5·(1 + tanh u) is the sigmoid of 2u. -/
def geluArg (x : Int) : Int := 2 * fxMul geluRoot (fxMul x ((2 ^ 100 : Nat) + fxMul geluCube (fxMul x x)))

/-- 1/√(m · 2ᵉ) for m ≠ 0. -/
def rsqrtVal (m : Nat) (e : Int) : Val :=
  let q := fracOf m e
  -- root of d/n to 120 bits below its leading one
  let s := 120 + Nat.log2 q.1
  .fin false (isqrt (q.2 * 2 ^ (2 * s) / q.1)) (-s)

/-! ## What R234 allows -/

/-- The unit in the last place of FP32 at a value, as a power of two. -/
def ulpExp (q : Val) : Int :=
  match q with
  | .fin _ m e => if m = 0 then -149 else max ((Nat.log2 m : Int) + e) (-126) - 23
  | _ => 0

/-- An FP32 word within k ulp of a value; ∞ counts as 2¹²⁸. -/
def withinUlp (k : Nat) (q : Val) (r : W32) : Bool :=
  let v := match f32 r with | .inf n => Val.fin n 1 128 | v => v
  v.isFin && v.negative == q.negative && !Val.lt (.fin false k (ulpExp q)) (Val.add v q.neg).abs

/-- What a function gives: one word, any word within k ulp of a value, or nothing stated. -/
inductive FastResult where
  | word (w : W32)
  | near (k : Nat) (q : Val)
  | any

/-- The logarithms' arguments. -/
def logResult (x : W32) (f : Nat → Int → FastResult) : FastResult :=
  match f32 x with
  | .fin n m e => if m = 0 then .word 0xFF800000 else if n then .word fNan else f m e
  | .inf n => .word (if n then fNan else x)
  | .nan => .word fNan

/-- R234's row for a VOP and an operand. -/
def fastResult (vop : Nat) (x : W32) : FastResult :=
  match f32 x, vop with
  | .nan, _ => .word fNan
  | .inf n, 0x10 => .word (if n then 0 else x)
  | .inf n, 0x11 => .word (if n then 0 else x)
  | .fin n m e, 0x10 => if m = 0 then .word fOne else .near 1 (expVal (fx (.fin n m e)))
  | .fin n m e, 0x11 => .near 1 (expVal (fxMul (fx (.fin n m e)) fxLn2))
  | _, 0x12 => if x = fOne then .word 0 else logResult x fun m e => .near 1 (fxVal (fxLn m e))
  | _, 0x13 => logResult x fun m e => .near 1 (fxVal (fxLn m e * (2 ^ 100 : Nat) / fxLn2))
  | .inf n, 0x14 => .word (if n then 0x80000000 else 0)
  | .fin n m e, 0x14 => if m = 0 then .word (if n then 0xFF800000 else 0x7F800000) else .near 1 (quotVal .one (.fin n m e))
  | .inf n, 0x15 => .word (if n then fNan else 0)
  | .fin n m e, 0x15 => if m = 0 then .word (if n then 0xFF800000 else 0x7F800000) else if n then .word fNan else .near 1 (rsqrtVal m e)
  | .inf n, 0x18 => .word (if n then 0xBF800000 else fOne)
  | .fin n m e, 0x18 => .near 2 (tanhVal (.fin n m e))
  | .inf n, 0x19 => .word (if n then 0 else fOne)
  | .fin n m e, 0x19 => .near 2 (sigmoidVal (fx (.fin n m e)))
  | .inf n, _ => if n then .any else .word x
  | .fin n m e, 0x1A => .near 2 (Val.mul (.fin n m e) (sigmoidVal (geluArg (fx (.fin n m e)))))
  | .fin n m e, _ => .near 2 (Val.mul (.fin n m e) (sigmoidVal (fx (.fin n m e))))

/-- A function of Table 3: the engine's own value where R234 allows it, else the nearest FP32 value. -/
def fastF (vop : Nat) (x : W32) : W32 :=
  match fastResult vop x with
  | .word w => w
  | .near k q => let r := Config.fastFn vop x; if withinUlp k q r then r else toF32 q
  | .any => Config.fastFn vop x

/-- EXP and LOG, with the exact values of R302. -/
def fexp (x : W32) : W32 := fastF 0x10 x
def flog (x : W32) : W32 := fastF 0x12 x

end Sys2Proof.Machine
end

