-- ==== Sys2Proof/Machine/Vector.lean ====
section
/-!
DEFINITION. The vector engine (chapter 06): the instructions of Table 3 on tensors, in the lane order of R228, with
their counts and summaries.
-/
namespace Sys2Proof.Machine

/-! ## The instruction word (Table 1) -/

abbrev VInstr := BitVec 128

def vVop (w : VInstr) : Nat := fld w 127 120
def vDst (w : VInstr) : Nat := fld w 119 112
def vSrc0 (w : VInstr) : Nat := fld w 111 104
def vSrc1 (w : VInstr) : Nat := fld w 103 96
def vSrc2 (w : VInstr) : Nat := fld w 95 88
def vAxes (w : VInstr) : Nat := fld w 87 82
def vCvt (w : VInstr) : Nat := fld w 81 77
def vMod (w : VInstr) : Nat := fld w 76 73
def vScalar (w : VInstr) : Nat := fld w 72 71
def vSregIn (w : VInstr) : Nat := fld w 70 66
def vSumto (w : VInstr) : Nat := fld w 65 64
def vImm (w : VInstr) : W32 := w32 (fld w 63 32)
def vSregOut (w : VInstr) : Nat := fld w 31 27
def vMerge (w : VInstr) : Nat := fld w 26 21
def vAxis (w : VInstr) : Option Nat := (List.range 6).find? fun d => (vAxes w).testBit d

/-! ## Running state of a vector stitch -/

/-- A summary that waits for the commit point (R248): register, merge number if any, value. -/
structure Summary where
  sreg : Nat
  merge : Option Nat
  value : W64
  deriving DecidableEq, Repr

/-- What a vector stitch has done so far: memory, lane generators (state and a half draw left over), counts,
summaries, the INDEX_FILLED mark, the largest magnitudes narrowed by TENSOR_ID (R203). -/
structure VState where
  s : State
  gens : Table (W64 × Option Nat) := []
  cnt : Cnt := {}
  wraps : Nat := 0
  filled : Nat := 0
  compOver : Nat := 0
  sums : List Summary := []
  amax : List (W32 × W32) := []

/-- What a vector stitch needs of its core: the binding table's tensors, the scalar registers, the lane seeds. -/
structure VEnv where
  tensor : Nat → Option Tensor
  sreg : Nat → W64
  seed : Nat → W64

/-- One stochastic-rounding word of a lane: the low half of a draw first, then the high half (R212, R230). -/
def drawHalf (e : VEnv) (g : Table (W64 × Option Nat)) (lane : Nat) : Nat × Table (W64 × Option Nat) :=
  let c := tget g lane (e.seed lane, none)
  match c.2 with
  | some h => (h, tset g lane (c.1, none))
  | none => let t := laneNext c.1; let d := (laneOut t).toNat; (d % 65536, tset g lane (t, some (d / 65536)))

/-- The random words of elements by the indices i0 at which their lanes process them, drawn only under ROUND = SR. -/
def drawAt (e : VEnv) (g : Table (W64 × Option Nat)) (cvt : Nat) (i0s : List Nat) : List Nat × Table (W64 × Option Nat) :=
  if cvtRound cvt = .sr then
    i0s.foldl (fun p k => let d := drawHalf e p.2 (k % 128); (p.1 ++ [d.1], d.2)) ([], g)
  else ([], g)

/-- The indices i0 of the first n positions of a row-major walk. -/
def walkLanes (n0 n : Nat) : List Nat := (List.range n).map fun k => k % max 1 n0

/-- The random words of the positions of a row-major walk. -/
def drawAll (e : VEnv) (g : Table (W64 × Option Nat)) (cvt n0 n : Nat) : List Nat × Table (W64 × Option Nat) :=
  drawAt e g cvt (walkLanes n0 n)

/-- Narrow a result into the destination (R226): values of a source format for every position of DST, drawn for in the lanes
that `lanes` gives, or else those of the positions (R230). -/
def vStore (e : VEnv) (w : VInstr) (src : Nat) (vals : List Val) (v : VState) (lanes : Option (List Nat) := none) : VState :=
  match e.tensor (vDst w) with
  | none => v
  | some t =>
    let r := drawAt e v.gens (vCvt w) (lanes.getD (walkLanes (dSize t.d 0) vals.length))
    let o := t.store v.s src (vCvt w) r.1 vals
    { v with s := o.1, gens := r.2, cnt := Cnt.add v.cnt (totalCnt o.2), amax := v.amax ++ [(dTensorId t.d, toF32 (maxMag vals))] }

/-! ## Sources -/

def isInt (f : Nat) : Bool := f == 0x0D || f == 0x0E

/-- Where a position reads a source: a dimension of size 1 is broadcast (R225). -/
def bcast (d : DescWord) (ix : List Nat) : List Nat :=
  ((List.range 6).zip ix).map fun p => if dSize d p.1 = 1 then 0 else p.2

/-- A source element widened to FP32 (R226). -/
def srcF (s : State) (t : Tensor) (ix : List Nat) : W32 :=
  if dFmt t.d = 0x00 then w32 (t.readCode s (offsetOf t.d (bcast t.d ix)))
  else w32 (convert (dFmt t.d) 0x00 (if dFmt t.d = 0x0C then 4 else 0) 0 (t.value s (bcast t.d ix))).1

/-- A source element of INT32 or UINT32 as an integer. -/
def srcI (s : State) (t : Tensor) (ix : List Nat) : Int :=
  let c := t.readCode s (offsetOf t.d (bcast t.d ix))
  if dFmt t.d = 0x0D then signed 32 c else c

/-- A finite element that widens to a non-finite FP32 value (R140). -/
def widensOut (s : State) (t : Tensor) (ix : List Nat) : Bool :=
  scaled (dFmt t.d) && (t.value s (bcast t.d ix)).isFin && !fFinite (srcF s t ix)

/-- How many reads of a binding at some positions widen to a non-finite value. -/
def wideCount (e : VEnv) (s : State) (b : Nat) (ps : List (List Nat)) : Nat :=
  match e.tensor b with
  | some t => if scaled (dFmt t.d) then (ps.filter (widensOut s t)).length else 0
  | none => 0

/-- The scalar that replaces SRC1 (Table 1). -/
def scalarOf (e : VEnv) (w : VInstr) : Option W32 :=
  if vScalar w = 1 then some (vImm w) else if vScalar w = 2 then some ((e.sreg (vSregIn w)).setWidth 32) else none

def opF (e : VEnv) (s : State) (b : Nat) (sc : Option W32) (ix : List Nat) : W32 :=
  match sc with
  | some x => x
  | none => match e.tensor b with
    | some t => srcF s t ix
    | none => 0

def opI (e : VEnv) (s : State) (b : Nat) (sc : Option W32) (isSigned : Bool) (ix : List Nat) : Int :=
  match sc with
  | some x => if isSigned then signed 32 x.toNat else x.toNat
  | none => match e.tensor b with
    | some t => srcI s t ix
    | none => 0

/-- A non-negative integer as an index. -/
def natIndex (i : Int) : Option Nat := if i < 0 then none else some i.toNat

/-- An index of SRC1, or the scalar that replaces it: none where it is negative. -/
def indexAt (e : VEnv) (s : State) (w : VInstr) (ix : List Nat) : Option Nat :=
  match scalarOf e w with
  | some x => natIndex (signed 32 x.toNat)
  | none => (e.tensor (vSrc1 w)).bind fun t => natIndex (srcI s t ix)

/-- The indices of every position of a shape, in walking order. -/
def positions (d : DescWord) : List (List Nat) := (List.range (dCount d)).map (indexOf d)

/-! ## Element-wise operations (R226, R227) -/

/-- The order that MIN and MAX use: −0 below +0. -/
def fBelow (a b : W32) : Bool :=
  Val.lt (f32 a) (f32 b) || (Val.eqv (f32 a) (f32 b) && (f32 a).negative && !(f32 b).negative)

def fmin (a b : W32) : W32 := if fIsNan a || fIsNan b then fNan else if fBelow b a then b else a
def fmax (a b : W32) : W32 := if fIsNan a || fIsNan b then fNan else if fBelow a b then b else a

def fNonZero (a : W32) : Bool := !(f32 a).isZero

/-- The result of a floating element-wise VOP. -/
def elemF (vop : Nat) (a b c : W32) : W32 :=
  match vop with
  | 0x01 => fadd a b
  | 0x02 => fsub a b
  | 0x03 => fmul a b
  | 0x04 => fma a b c
  | 0x05 => fmin a b
  | 0x06 => fmax a b
  | 0x07 => fabs a
  | 0x08 => fneg a
  | 0x09 => fmin (fmax a b) c
  | 0x0B => if fNonZero a then b else c
  | 0x16 => fdiv a b
  | 0x17 => fsqrt a
  | _ => fastF vop a

/-- How many sources a floating element-wise VOP reads. -/
def arity (vop : Nat) : Nat :=
  if vop = 0x04 || vop = 0x09 || vop = 0x0B then 3
  else if (0x01 ≤ vop && vop ≤ 0x06) || vop = 0x0C || vop = 0x16 || (0x20 ≤ vop && vop ≤ 0x29) then 2 else 1

/-- Sources that a VOP needs (Table 3): the fields SRC0, SRC1, SRC2. -/
def vNeeds (v : Nat) : List Nat :=
  if v = 0x0D then [] else if v = 0x53 then [1]
  else if v = 0x51 || v = 0x52 || v = 0x60 then [0, 1, 2]
  else if v = 0x41 || v = 0x50 || v = 0x54 || v = 0x61 || v = 0x64 || v = 0x70 then [0, 1]
  else List.range (arity v)

def vField (w : VInstr) (i : Nat) : Nat := if i = 0 then vSrc0 w else if i = 1 then vSrc1 w else vSrc2 w

/-- Fields whose tensor an instruction reads: those that its VOP needs, without an SRC1 that a scalar replaces (Table 1). -/
def vUses (w : VInstr) : List Nat := (vNeeds (vVop w)).filter fun i => !(i == 1 && vScalar w != 0)

/-- The shape that an element-wise instruction walks: DST's (R225); SRC0's where DST is left out (log 123). -/
def walkShape (e : VEnv) (w : VInstr) : DescWord :=
  match e.tensor (vDst w), e.tensor (vSrc0 w) with
  | some t, _ => t.d
  | none, some a => a.d
  | none, none => 0

/-- CMP's relation (MOD). -/
def cmpF (m : Nat) (a b : W32) : Bool :=
  let x := f32 a
  let y := f32 b
  let n := x.isNan || y.isNan
  match m with
  | 0 => Val.eqv x y
  | 1 => n || !Val.eqv x y
  | 2 => Val.lt x y
  | 3 => !n && !Val.lt y x
  | 4 => Val.lt y x
  | _ => !n && !Val.lt x y

def shiftSigned (x : Int) (k : Nat) : Int := x / (2 ^ k : Nat)

/-- The exact result of an integer VOP; `wa`, `wb` are the 32-bit words of the operands. -/
def elemI (vop : Nat) (a b : Int) (sg : Bool) : Int :=
  let wa := (a % (2 ^ 32 : Nat)).toNat
  let wb := (b % (2 ^ 32 : Nat)).toNat
  match vop with
  | 0x20 => a + b
  | 0x21 => a - b
  | 0x22 => a * b
  | 0x23 => (wa &&& wb : Nat)
  | 0x24 => (wa ||| wb : Nat)
  | 0x25 => (wa ^^^ wb : Nat)
  | 0x26 => a * (2 ^ (wb % 32) : Nat)
  | 0x27 => if sg then shiftSigned a (wb % 32) else ((wa >>> (wb % 32) : Nat) : Int)
  | 0x28 => min a b
  | _ => max a b

/-- The word of an integer result and whether it wrapped in its format; bitwise results never wrap (R226). -/
def wrapI (vop : Nat) (sg : Bool) (x : Int) : Nat × Bool :=
  let w := (x % (2 ^ 32 : Nat)).toNat
  let back : Int := if sg then signed 32 w else w
  (w, !(0x23 ≤ vop && vop ≤ 0x25) && decide (back ≠ x))

def made (finiteIn : Bool) (r : W32) : Nat := b2n (finiteIn && !fFinite r)

/-- Element-wise VOPs 0x01 to 0x29 over DST's shape. -/
def vElement (e : VEnv) (w : VInstr) (v : VState) : VState :=
  let vop := vVop w
  let ps := positions (walkShape e w)
  let sc := scalarOf e w
  let n := arity vop
  if vop = 0x0D then
    vStore e w 0x0E ((List.range ps.length).map fun k => .fin false (k % 2 ^ 32) 0) v
  else if 0x20 ≤ vop then
    let sg := match e.tensor (vSrc0 w) with | some a => dFmt a.d == 0x0D | none => false
    let out := match e.tensor (vDst w) with | some t => dFmt t.d | none => if sg then 0x0D else 0x0E
    let rs := ps.map fun ix => wrapI vop (out == 0x0D) (elemI vop (opI e v.s (vSrc0 w) none sg ix) (opI e v.s (vSrc1 w) sc sg ix) sg)
    vStore e w out (rs.map fun r => codeVal out r.1)
      { v with wraps := v.wraps + (rs.filter Prod.snd).length }
  else if vop = 0x0A then
    match e.tensor (vSrc0 w) with
    | none => v
    | some a => vStore e w (dFmt a.d) (ps.map fun ix => a.value v.s (bcast a.d ix)) v
  else if vop = 0x0C then
    let rs := ps.map fun ix => cmpF (vMod w) (opF e v.s (vSrc0 w) none ix) (opF e v.s (vSrc1 w) sc ix)
    let v := vStore e w 0x0E (rs.map fun b => .fin false (b2n b) 0) v
    if vSumto w = 0 then v else
      { v with sums := v.sums ++ [{ sreg := vSregOut w, merge := if vSumto w = 2 then some (vMerge w) else none,
                                    value := w64 (rs.filter id).length }] }
  else
    let rs := ps.map fun ix =>
      let a := opF e v.s (vSrc0 w) none ix
      let b := if n ≤ 1 then 0 else opF e v.s (vSrc1 w) sc ix
      let c := if n ≤ 2 then 0 else opF e v.s (vSrc2 w) none ix
      let r := elemF vop a b c
      (r, made (fFinite a && fFinite b && fFinite c) r)
    let v := vStore e w 0x00 (rs.map fun r => f32 r.1) v
    { v with cnt := { v.cnt with made := v.cnt.made + (rs.map Prod.snd).foldl (· + ·) 0 } }

/-! ## Reductions (R235, R236) -/

/-- The positions of SRC0 that reduce to one output position: every index along AXES, in ascending linear offset. -/
def group (d : DescWord) (axes : Nat) (out : List Nat) : List (List Nat) :=
  (positions d).filter fun ix =>
    ((List.range 6).zip (ix.zip out)).all fun p => axes.testBit p.1 || p.2.1 == p.2.2

/-- The output positions: dimensions in AXES at 0. -/
def reducedPositions (d : DescWord) (axes : Nat) : List (List Nat) :=
  (positions d).filter fun ix => ((List.range 6).zip ix).all fun p => !axes.testBit p.1 || p.2 == 0

/-- A compensated sum along AXES: with dimension 0 the lanes and the tree, without it one lane in order (R236). -/
def sumGroup (axes : Nat) (xs : List (List Nat × W32)) : CSum :=
  if axes.testBit 0 then csumLanes (xs.map fun p => ((p.1.getD 0 0) % 128, p.2)) else xs.foldl (fun a p => csumAdd a p.2) {}

/-- The pair of a compensated sum as a summary (Table 4); c of a sum that is not finite is discarded (R184). -/
def csumWord (c : CSum) : W64 := if fFinite c.s then c.c ++ c.s else c.s.setWidth 64

/-- Result, summary and counts of one reduction: (FP32 or count, 64-bit summary, non-finite made, wraps). -/
def reduceOne (vop axes : Nat) (xs : List (List Nat × W32)) : Val × W64 × Nat × Nat :=
  let fin := xs.all fun p => fFinite p.2
  match vop with
  | 0x30 => let c := sumGroup axes xs; let r := csumResult c; (f32 r, csumWord c, made fin r, 0)
  | 0x31 => let c := sumGroup axes (xs.map fun p => (p.1, fmul p.2 p.2)); let r := csumResult c; (f32 r, csumWord c, made fin r, 0)
  | 0x32 => let r := (xs.map Prod.snd).foldl fmax ((xs.headD ([], 0)).2); (f32 r, r.setWidth 64, 0, 0)
  | 0x33 => let r := (xs.map Prod.snd).foldl fmin ((xs.headD ([], 0)).2); (f32 r, r.setWidth 64, 0, 0)
  | 0x34 => let r := toF32 (maxMag (xs.map fun p => f32 p.2)); (f32 r, r.setWidth 64, 0, 0)
  | 0x35 => let n := (xs.filter fun p => fNonZero p.2).length; (.fin false (min n (2 ^ 32 - 1)) 0, w64 n, 0, b2n (decide (2 ^ 32 ≤ n)))
  | _ => let n := (xs.filter fun p => !fFinite p.2).length; (.fin false (min n (2 ^ 32 - 1)) 0, w64 n, 0, b2n (decide (2 ^ 32 ≤ n)))

def vReduce (e : VEnv) (w : VInstr) (v : VState) : VState :=
  match e.tensor (vSrc0 w) with
  | none => v
  | some a =>
    let rs := (reducedPositions a.d (vAxes w)).map fun out =>
      reduceOne (vVop w) (vAxes w) ((group a.d (vAxes w) out).map fun ix => (ix, srcF v.s a ix))
    let v := vStore e w (if vVop w = 0x35 || vVop w = 0x36 then 0x0E else 0x00) (rs.map (·.1)) v
    let v := { v with cnt := { v.cnt with made := v.cnt.made + rs.foldl (fun n r => n + r.2.2.1) 0 },
                      wraps := v.wraps + rs.foldl (fun n r => n + r.2.2.2) 0 }
    if vSumto w = 0 then v else
      { v with sums := v.sums ++ [{ sreg := vSregOut w, merge := if vSumto w = 2 then some (vMerge w) else none,
                                    value := (rs.headD (.zero, 0, 0, 0)).2.1 }] }

/-! ## Scans (R237 to R240) -/

/-- One Hillis–Steele round at distance d with restarts: lane l takes lane l − d unless a segment starts after it. -/
def hsRound (add : W32 → W32 → W32) (d : Nat) (x : List W32) (start : Nat → Nat → Bool) : List W32 :=
  (List.range x.length).map fun l => if d ≤ l && !start (l - d) l then add (x.getD (l - d) 0) (x.getD l 0) else x.getD l 0

/-- The seven rounds of a beat (R238). -/
def hsBeat (x : List W32) (flags : List Bool) : List W32 :=
  let start := fun lo hi => ((flags.drop (lo + 1)).take (hi - lo)).any id
  [1, 2, 4, 8, 16, 32, 64].foldl (fun x d => hsRound fadd d x start) x

/-- Inclusive and exclusive results of one beat of a floating add scan and the carry after it; masked lanes hold +0 (R238,
R239). -/
def scanBeat (carry : W32) (x : List W32) (flags : List Bool) : List (W32 × W32) × W32 :=
  let y := hsBeat (x ++ List.replicate (128 - x.length) 0) flags
  let seen := fun l => (flags.take (l + 1)).any id
  let incl := fun l => if seen l then y.getD l 0 else fadd carry (y.getD l 0)
  let excl := fun l => if flags.getD l false then 0 else if l = 0 then carry else incl (l - 1)
  ((List.range x.length).map fun l => (incl l, excl l), incl 127)

/-- A scan in order: inclusive results by a combining step and an identity. -/
def scanSeq {α : Type} (f : α → α → α) (ident : α) : α → List (α × Bool) → List α
  | _, [] => []
  | c, (x, st) :: r => let y := if st then x else f c x; y :: scanSeq f ident y r

/-- Exclusive results from inclusive ones. -/
def toExclusive {α : Type} (ident : α) (incl : List α) (starts : List Bool) : List α :=
  (List.range incl.length).map fun i => if i = 0 || starts.getD i false then ident else incl.getD (i - 1) ident

def posInf : W32 := 0x7F800000#32
def negInf : W32 := 0xFF800000#32

/-- One prefix of a floating scan, inclusive and exclusive: beats along dimension 0 when it is scanned, else one lane in
order. Rows of dimension 0 begin new beats, so `xs` carries its rows. -/
def scanF (m axes n0 : Nat) (xs : List (W32 × Bool)) : List (W32 × W32) :=
  let both (ident : W32) (l : List W32) : List (W32 × W32) := l.zip (toExclusive ident l (xs.map Prod.snd))
  match m % 4 with
  | 0 =>
    if axes.testBit 0 then
      -- rows of n0 positions: each row is cut into beats of 128, the carry passing on (R228, R238)
      let rows := (xs.length + n0 - 1) / max 1 n0
      ((List.range rows).foldl (fun (p : List (W32 × W32) × W32) r =>
        let row := (xs.drop (r * n0)).take n0
        let nb := (row.length + 127) / 128
        let q := (List.range nb).foldl (fun (q : List (W32 × W32) × W32) b =>
          let beat := (row.drop (128 * b)).take 128
          let o := scanBeat q.2 (beat.map Prod.fst) (beat.map Prod.snd)
          (q.1 ++ o.1, o.2)) ([], p.2)
        (p.1 ++ q.1, q.2)) ([], 0)).1
    else both 0 (scanSeq fadd 0 0 xs)
  | 1 => both negInf (scanSeq fmax negInf negInf xs)
  | _ => both posInf (scanSeq fmin posInf posInf xs)

/-- The inclusive integer scan, exact before it wraps. -/
def scanI (m : Nat) (sg : Bool) (xs : List (Int × Bool)) : List (Int × Bool) :=
  let wrap (x : Int) : Int := let w := (x % (2 ^ 32 : Nat)).toNat; if sg then signed 32 w else w
  let go := xs.foldl (fun (p : List (Int × Bool) × Option Int) x =>
    let y := match p.2 with
      | some c => if x.2 then x.1 else (match m % 4 with | 0 => c + x.1 | 1 => max c x.1 | _ => min c x.1)
      | none => x.1
    (p.1 ++ [(wrap y, decide (wrap y ≠ y))], some (wrap y))) ([], none)
  go.1

/-- The identity of an integer scan in its format: 0, or the least or greatest value for max or min (R237). -/
def identI (m : Nat) (sg : Bool) : Int :=
  match m % 4 with
  | 0 => 0
  | 1 => if sg then -(2 ^ 31 : Nat) else 0
  | _ => if sg then (2 ^ 31 - 1 : Nat) else (2 ^ 32 - 1 : Nat)

/-- Non-finite results of a prefix whose elements so far, since the last segment start, are finite (R227): for each element
whether it is finite, whether it starts a segment, and its result. -/
def scanMade (excl : Bool) (xs : List (Bool × Bool × W32)) : Nat :=
  (xs.foldl (fun (p : Bool × Nat) x =>
    let before := x.2.1 || p.1
    let here := before && x.1
    (here, p.2 + b2n ((if excl then before else here) && !fFinite x.2.2))) (true, 0)).2

def vScan (e : VEnv) (w : VInstr) (v : VState) : VState :=
  match e.tensor (vSrc0 w) with
  | none => v
  | some a =>
    let seg := vVop w = 0x41
    let flagOf (ix : List Nat) : Bool := seg && opI e v.s (vSrc1 w) (scalarOf e w) false ix != 0
    let excl := (vMod w).testBit 3
    let outs := reducedPositions a.d (vAxes w)
    let groups := outs.map (group a.d (vAxes w))
    -- the first element of a prefix of SEGSCAN starts a segment (R239)
    let flags := groups.map fun g => ((List.range g.length).zip g).map fun p => seg && (p.1 == 0 || flagOf p.2)
    if isInt (dFmt a.d) then
      let sg := dFmt a.d == 0x0D
      let incl := (groups.zip flags).map fun g => scanI (vMod w) sg ((g.1.map fun ix => srcI v.s a ix).zip g.2)
      let res := (incl.zip flags).map fun g =>
        if excl then toExclusive (identI (vMod w) sg, false) g.1 g.2 else g.1
      let tbl := (groups.zip res).flatMap fun g => g.1.zip g.2
      let valOf (ix : List Nat) : Val := match tbl.find? (fun p => p.1 == ix) with
        | some p => .fin (p.2.1 < 0) p.2.1.natAbs 0
        | none => .zero
      let v := vStore e w (dFmt a.d) ((positions a.d).map valOf) v
      let v := { v with wraps := v.wraps + (res.flatMap fun l => l.filter Prod.snd).length }
      let last := (((incl.getLastD []).getLastD (0, false)).1 % (2 ^ 64 : Nat)).toNat
      if vSumto w = 0 then v else { v with sums := v.sums ++ [{ sreg := vSregOut w, merge := none, value := w64 last }] }
    else
      let incl := (groups.zip flags).map fun g => scanF (vMod w) (vAxes w) (dSize a.d 0) ((g.1.map fun ix => srcF v.s a ix).zip g.2)
      let res := incl.map fun g => g.map fun p => if excl then p.2 else p.1
      let tbl := (groups.zip res).flatMap fun g => g.1.zip g.2
      let valOf (ix : List Nat) : Val := match tbl.find? (fun p => p.1 == ix) with | some p => f32 p.2 | none => .zero
      let made := if vMod w % 4 = 0 then ((groups.zip (flags.zip res)).map fun g =>
          scanMade excl ((g.1.map fun ix => fFinite (srcF v.s a ix)).zip (g.2.1.zip g.2.2))).foldl (· + ·) 0 else 0
      let v := vStore e w 0x00 ((positions a.d).map valOf) v
      let v := { v with cnt := { v.cnt with made := v.cnt.made + made } }
      if vSumto w = 0 then v else
        { v with sums := v.sums ++ [{ sreg := vSregOut w, merge := none, value := ((incl.getLastD []).getLastD (0, 0)).1.setWidth 64 }] }

/-! ## Top-k (R246) -/

/-- Ranks above: higher score first, equal scores by lower index, NaN below −∞. -/
def rankAbove (a b : Nat × W32) : Bool :=
  if fIsNan a.2 then fIsNan b.2 && decide (a.1 < b.1)
  else if fIsNan b.2 then true
  else if Val.eqv (f32 a.2) (f32 b.2) then decide (a.1 < b.1) else Val.lt (f32 b.2) (f32 a.2)

def insertRank (x : Nat × W32) : List (Nat × W32) → List (Nat × W32)
  | [] => [x]
  | y :: r => if rankAbove x y then x :: y :: r else y :: insertRank x r

def rankAll (xs : List (Nat × W32)) : List (Nat × W32) := xs.foldr insertRank []

def vTopk (e : VEnv) (w : VInstr) (v : VState) : VState :=
  -- DST or, where it is left out, the scores' tensor gives the shape (log 123)
  match e.tensor (vSrc0 w), vAxis w with
  | some a, some d =>
    let ranked := fun (ix : List Nat) =>
      rankAll ((List.range (dSize a.d d)).map fun i => (i, srcF v.s a (ix.set d i)))
    let ps := match e.tensor (vDst w), e.tensor (vSrc1 w) with
      | some t, _ => positions t.d
      | none, some t => positions t.d
      | none, none => []
    let at' := fun (ix : List Nat) => (ranked ix).getD (ix.getD d 0) (0, 0)
    let nans := ((positions a.d).filter fun ix => fIsNan (srcF v.s a ix)).length
    let idx := ps.map fun ix => Val.fin false (at' ix).1 0
    let scores := ps.map fun ix => f32 (at' ix).2
    let v := vStore e w 0x0E idx v
    let v := { v with cnt := { v.cnt with made := v.cnt.made + nans } }
    match e.tensor (vSrc1 w) with
    | some sd =>
      let r := drawAll e v.gens (vCvt w) (dSize sd.d 0) scores.length
      let o := sd.store v.s 0x00 (vCvt w) r.1 scores
      { v with s := o.1, gens := r.2, cnt := Cnt.add v.cnt (totalCnt o.2), amax := v.amax ++ [(dTensorId sd.d, toF32 (maxMag scores))] }
    | none => v
  | _, _ => v

/-! ## Gathers, scatters, masks (R241 to R245) -/

/-- The FILL of a destination as a value (R242). -/
def fillVal (t : Tensor) : Val := if isInt (dFmt t.d) then codeVal (dFmt t.d) (dFill t.d).toNat else f32 (dFill t.d)

/-- Store results of which some are FILL: a FILL is rounded from FP32 under CVT, or is the raw pattern of an integer
destination (R242). -/
def vStoreFill (e : VEnv) (w : VInstr) (src : Nat) (vals : List (Option Val)) (v : VState) (lanes : Option (List Nat) := none) : VState :=
  match e.tensor (vDst w) with
  | none => v
  | some t =>
    if !isInt src || isInt (dFmt t.d) || scaled (dFmt t.d) then vStore e w src (vals.map (·.getD (fillVal t))) v lanes
    else
      let r := drawAt e v.gens (vCvt w) (lanes.getD (walkLanes (dSize t.d 0) vals.length))
      let es := (vals.zip (r.1 ++ vals.map fun _ => 0)).map fun p => match p.1 with
        | some x => convert src (dFmt t.d) (vCvt w) p.2 x
        | none => convert 0x00 (dFmt t.d) (vCvt w) p.2 (fillVal t)
      let s := ((List.range es.length).zip es).foldl (fun s p => t.writeCode s (offsetOf t.d (indexOf t.d p.1)) p.2.1) v.s
      { v with s := s, gens := r.2, cnt := Cnt.add v.cnt ((es.map Prod.snd).foldl Cnt.add {})
               amax := v.amax ++ [(dTensorId t.d, toF32 (maxMag (vals.map (·.getD (fillVal t)))))] }

def countFilled (w : VInstr) (n : Nat) (v : VState) : VState :=
  let v := { v with filled := v.filled + n }
  if vSumto w = 0 then v else
    { v with sums := v.sums ++ [{ sreg := vSregOut w, merge := if vSumto w = 2 then some (vMerge w) else none, value := w64 n }] }

/-- The element that an index names along the axis, or as a linear offset when AXES is 0. -/
def pick (d : DescWord) (axis : Option Nat) (ix : List Nat) (i : Nat) : List Nat :=
  match axis with
  | some a => ix.set a i
  | none => indexOf d i

def vecLen (d : DescWord) (axis : Option Nat) : Nat :=
  match axis with
  | some a => dSize d a
  | none => dCount d

/-- A source's value as the format it converts from: its own for CVT-like moves through FP32. -/
def valF (s : State) (t : Tensor) (ix : List Nat) : Val := if isInt (dFmt t.d) then t.value s ix else f32 (srcF s t ix)

def vGather (e : VEnv) (w : VInstr) (v : VState) : VState :=
  match e.tensor (vSrc0 w) with
  | none => v
  | some a =>
    let n := vecLen a.d (vAxis w)
    let at' := (positions (walkShape e w)).map fun ix =>
      match indexAt e v.s w ix with
      | some i => if i < n then some (bcast a.d (pick a.d (vAxis w) ix i)) else none
      | none => none
    let wide := wideCount e v.s (vSrc0 w) (at'.filterMap id)
    let v' := vStoreFill e w (if isInt (dFmt a.d) then dFmt a.d else 0x00) (at'.map fun q => q.map (valF v.s a)) v
    countFilled w (at'.filter (·.isNone)).length { v' with cnt := { v'.cnt with made := v'.cnt.made + wide } }

/-- SCATTER and SCATTER_ADD: the positions of SRC1 in ascending linear offset; a scalar that replaces SRC1 stands at every
position of SRC0 (R243). -/
def vScatter (e : VEnv) (w : VInstr) (add : Bool) (v : VState) : VState :=
  match e.tensor (vSrc0 w), e.tensor (vSrc2 w) with
  | some a, some b =>
    let out := match e.tensor (vDst w) with | some t => t.d | none => b.d
    let n := vecLen out (vAxis w)
    let ps := positions out
    let ns := match scalarOf e w, e.tensor (vSrc1 w) with
      | none, some x => positions x.d
      | _, _ => positions a.d
    -- an integer addition takes integers on both sides; otherwise both widen to FP32 (R226, R243)
    let ints := isInt (dFmt a.d) && isInt (dFmt b.d)
    let val (t : Tensor) (ix : List Nat) : Val := if ints then t.value v.s ix else f32 (srcF v.s t ix)
    let base := ps.map fun ix => val b (bcast b.d ix)
    let sg := dFmt a.d == 0x0D
    let step := fun (p : List Val × Nat × Nat × Nat) (ix : List Nat) =>
      match indexAt e v.s w ix with
      | some i => if i < n then
          let q := pick out (vAxis w) ix i
          let k := (ps.findIdx? (· == q)).getD 0
          let c := val a (bcast a.d ix)
          let wide := b2n (widensOut v.s a ix)
          let old := p.1.getD k .zero
          if !add then (p.1.set k c, p.2.1, p.2.2.1, p.2.2.2 + wide)
          else if ints then
            match Val.add old c with
            | .fin ng m ex =>
              let f := fracOf m ex
              let r := wrapI 0x20 sg (if ng then -(f.1 : Int) else f.1)
              (p.1.set k (codeVal (dFmt a.d) r.1), p.2.1, p.2.2.1 + b2n r.2, p.2.2.2)
            | y => (p.1.set k y, p.2)
          else
            let r := fadd (toF32 old) (toF32 c)
            (p.1.set k (f32 r), p.2.1, p.2.2.1, p.2.2.2 + wide + made (old.isFin && c.isFin) r)
        else (p.1, p.2.1 + 1, p.2.2)
      | none => (p.1, p.2.1 + 1, p.2.2)
    let r := ns.foldl step (base, 0, 0, wideCount e v.s (vSrc2 w) ps)
    let v := vStore e w (if ints then dFmt a.d else 0x00) r.1 v
    countFilled w r.2.1 { v with wraps := v.wraps + r.2.2.1, cnt := { v.cnt with made := v.cnt.made + r.2.2.2 } }
  | _, _ => v

def vOnehot (e : VEnv) (w : VInstr) (v : VState) : VState :=
  match e.tensor (vDst w), vAxis w with
  | some t, some d =>
    let n := dSize t.d d
    let ok := fun (ix : List Nat) => match indexAt e v.s w ix with | some i => decide (i < n) | none => false
    let vals := (positions t.d).map fun ix =>
      if ok ix then some (Val.fin false (b2n (indexAt e v.s w ix == some (ix.getD d 0))) 0) else none
    let bad := ((positions t.d).filter fun ix => ix.getD d 0 == 0 && !ok ix).length
    countFilled w bad (vStoreFill e w 0x0E vals v)
  | _, _ => v

/-- COMPACT: a keep flag is SRC1's element, or the scalar that replaces it. -/
def vCompact (e : VEnv) (w : VInstr) (v : VState) : VState :=
  match e.tensor (vSrc0 w) with
  | none => v
  | some a =>
    let ps := (positions a.d).filter fun ix => fNonZero (opF e v.s (vSrc1 w) (scalarOf e w) ix)
    let n := match e.tensor (vDst w) with | some t => dCount t.d | none => ps.length
    let vals := (ps.take n).map (fun ix => some (valF v.s a ix)) ++ List.replicate (n - ps.length) none
    let wide := wideCount e v.s (vSrc0 w) (ps.take n)
    -- a kept element is narrowed in the lane of its place in SRC0, FILL in that of its place in DST (R225, R230)
    let n0 := match e.tensor (vDst w) with | some t => dSize t.d 0 | none => 1
    let lanes := (ps.take n).map (fun ix => ix.getD 0 0) ++ (walkLanes n0 n).drop ps.length
    let v := vStoreFill e w (if isInt (dFmt a.d) then dFmt a.d else 0x00) vals v (some lanes)
    let v := { v with compOver := v.compOver + b2n (decide (n < ps.length)), cnt := { v.cnt with made := v.cnt.made + wide } }
    if vSumto w = 0 then v else
      { v with sums := v.sums ++ [{ sreg := vSregOut w, merge := if vSumto w = 2 then some (vMerge w) else none, value := w64 ps.length }] }

def vTranspose (e : VEnv) (w : VInstr) (v : VState) : VState :=
  match e.tensor (vDst w), e.tensor (vSrc0 w) with
  | some t, some a =>
    let d := ((List.range 6).find? fun i => i != 0 && (vAxes w).testBit i).getD 0
    let vals := (positions t.d).map fun ix =>
      let q := (ix.set 0 (ix.getD d 0)).set d (ix.getD 0 0)
      valF v.s a (bcast a.d q)
    vStore e w (if isInt (dFmt a.d) then dFmt a.d else 0x00) vals v
  | _, _ => v

/-! ## Normalisations (R181) -/

def natF (n : Nat) : W32 := toF32 (.fin false n 0)

/-- The elements of one row of SRC0. -/
def rowVals (s : State) (a : Tensor) (ix : List Nat) : List W32 :=
  (List.range (dSize a.d 0)).map fun i => srcF s a (ix.set 0 i)

def rowMax (xs : List W32) : W32 := xs.foldl fmax (xs.headD 0)

/-- A compensated sum over a row and, where finite inputs give a result that is not, its count (R184). -/
def rowSum (xs : List W32) : W32 × Nat := let r := csumResult (csumRow xs); (r, made (xs.all fFinite) r)

/-- Exponentials of a row after its maximum, their compensated sum and its count. -/
def rowExp (xs : List W32) : List W32 × W32 × Nat :=
  let m := rowMax xs
  let es := xs.map fun x => fexp (fsub x m)
  (es, rowSum es)

def rowLse (xs : List W32) : W32 × Nat := let r := (rowExp xs).2; (fadd (rowMax xs) (flog r.1), r.2)

/-- An element of LNORM or RMSNORM: its deviation over the root of the mean square and ε, times gain, plus bias. No rule states
the order of the roundings: the quotient by the root, the product with its reciprocal, or with RSQRT; gain first or last;
the bias added or fused (R181, R234; log 27). -/
def normTail (vop : Nat) (x mean var gain bias eps : W32) : W32 :=
  let o := Config.normOrder vop
  let d := if vop = 0x60 then fsub x mean else x
  let den := fadd var eps
  let inv := if o % 3 = 1 then fdiv fOne (fsqrt den) else fastF 0x15 den
  let gained (y : W32) : W32 := if vop = 0x60 then (if o / 3 % 2 = 0 then fadd (fmul y gain) bias else fma y gain bias) else fmul y gain
  if o % 3 = 0 then gained (fdiv d (fsqrt den))
  else if o / 6 % 2 = 0 then gained (fmul d inv)
  else
    let g := fmul inv gain
    if vop = 0x60 then (if o / 3 % 2 = 0 then fadd (fmul d g) bias else fma d g bias) else fmul d g

/-- A row of LNORM or RMSNORM and the count of its sums. -/
def normRow (vop : Nat) (eps : W32) (xs : List W32) (gain bias : Nat → W32) : List W32 × Nat :=
  let n := natF xs.length
  let sum := if vop = 0x60 then rowSum xs else (0, 0)
  let mean := if vop = 0x60 then fdiv sum.1 n else 0
  let dev := xs.map fun x => let d := if vop = 0x60 then fsub x mean else x; fmul d d
  let sq := rowSum dev
  let var := fdiv sq.1 n
  (((List.range xs.length).zip xs).map fun p => normTail vop p.2 mean var (gain p.1) (bias p.1) eps, sum.2 + sq.2)

def vNorm (e : VEnv) (w : VInstr) (v : VState) : VState :=
  match e.tensor (vSrc0 w) with
  | none => v
  | some a =>
    let vop := vVop w
    let rows := (positions a.d).filter fun ix => ix.getD 0 0 == 0
    let outs := rows.map fun ix =>
      let xs := rowVals v.s a ix
      match vop with
      | 0x60 => normRow vop (vImm w) xs (fun i => opF e v.s (vSrc1 w) (scalarOf e w) (ix.set 0 i)) (fun i => opF e v.s (vSrc2 w) none (ix.set 0 i))
      | 0x61 => normRow vop (vImm w) xs (fun i => opF e v.s (vSrc1 w) (scalarOf e w) (ix.set 0 i)) (fun _ => 0)
      | 0x62 => let r := rowExp xs; (r.1.map fun x => fdiv x r.2.1, r.2.2)
      | _ => let r := rowLse xs; ([r.1], r.2)
    -- the other operands of element i: gain, bias and ε (R227)
    let rest (ix : List Nat) (i : Nat) : Bool :=
      !(vop = 0x60 || vop = 0x61) || (fFinite (vImm w) && fFinite (opF e v.s (vSrc1 w) (scalarOf e w) (ix.set 0 i)) &&
        (vop != 0x60 || fFinite (opF e v.s (vSrc2 w) none (ix.set 0 i))))
    let mk := (outs.zip rows).foldl (fun n o =>
      let fin := (rowVals v.s a o.2).all fFinite
      n + o.1.2 + (((List.range o.1.1.length).zip o.1.1).filter fun r => fin && rest o.2 r.1 && !fFinite r.2).length) 0
    let v := vStore e w 0x00 (outs.flatMap fun l => l.1.map f32) v
    { v with cnt := { v.cnt with made := v.cnt.made + mk } }

def vXent (e : VEnv) (w : VInstr) (v : VState) : VState :=
  match e.tensor (vSrc0 w) with
  | none => v
  | some a =>
    let rows := (positions a.d).filter fun ix => ix.getD 0 0 == 0
    let outs := rows.map fun ix =>
      let xs := rowVals v.s a ix
      match indexAt e v.s w ix with
      | some i => if i < xs.length then
          let r := rowLse xs
          let y := fsub r.1 (xs.getD i 0)
          (some (f32 y), r.2 + made (xs.all fFinite) y)
        else (none, 0)
      | none => (none, 0)
    let v := vStoreFill e w 0x00 (outs.map Prod.fst) v
    let v := { v with cnt := { v.cnt with made := v.cnt.made + outs.foldl (fun n o => n + o.2) 0 } }
    countFilled w (outs.filter (·.1.isNone)).length v

/-- Reads of an instruction's sources that widen to a non-finite value, over the positions that it walks (R140, R225);
gathers, scatters and COMPACT count theirs where they read. -/
def vWide (e : VEnv) (w : VInstr) (s : State) : Nat :=
  let vop := vVop w
  if vop = 0x0A || (0x20 ≤ vop && vop ≤ 0x29) || (0x50 ≤ vop && vop ≤ 0x54) then 0
  else
    let d := ((List.range 6).find? fun i => i != 0 && (vAxes w).testBit i).getD 0
    let ps := if vop ≤ 0x1B then positions (walkShape e w)
      else if vop = 0x55 then (positions (walkShape e w)).map fun ix => (ix.set 0 (ix.getD d 0)).set d (ix.getD 0 0)
      else match e.tensor (vSrc0 w) with
      | some a => positions a.d
      | none => []
    ((vUses w).filter fun i => !((vop = 0x41 || vop = 0x64) && i == 1)).foldl (fun n i => n + wideCount e s (vField w i) ps) 0

/-- One vector instruction other than UPDATE. -/
def vInstr (e : VEnv) (w : VInstr) (v : VState) : VState :=
  let vop := vVop w
  let v := { v with cnt := { v.cnt with made := v.cnt.made + vWide e w v.s } }
  if vop ≤ 0x29 then vElement e w v
  else if vop ≤ 0x36 then vReduce e w v
  else if vop = 0x40 || vop = 0x41 then vScan e w v
  else if vop = 0x48 then vTopk e w v
  else if vop = 0x50 then vGather e w v
  else if vop = 0x51 then vScatter e w false v
  else if vop = 0x52 then vScatter e w true v
  else if vop = 0x53 then vOnehot e w v
  else if vop = 0x54 then vCompact e w v
  else if vop = 0x55 then vTranspose e w v
  else if vop = 0x64 then vXent e w v
  else vNorm e w v

end Sys2Proof.Machine
end

