-- ==== Sys2Proof/Machine/Steps.lean ====
section
/-!
DEFINITION. Steps, their jobs, cores and bindings, the stitch lists of cores (R34 to R36, R47, R222, R627), what a stitch
takes from its core (R211, R247), and the resident rows of the accumulator store (R160 to R165).
-/
namespace Sys2Proof.Machine

/-! ## Steps and their cores -/

def getStep (s : State) (h : Nat) : Option Step := (getPart s (handlePart h)).bind fun x => tget? x.steps h

def setStep (h : Nat) (st : Step) (s : State) : State :=
  modPart (handlePart h) (fun x => { x with steps := tset x.steps h st }) s

def modStep (h : Nat) (f : Step → Step) (s : State) : State :=
  modPart (handlePart h) (fun x => { x with steps := tupd x.steps h f }) s

def getJob (s : State) (p j : Nat) : Option Job := (getPart s p).bind fun x => tget? x.jobs j
def modJob (p j : Nat) (f : Job → Job) (s : State) : State := modPart p (fun x => { x with jobs := tupd x.jobs j f }) s

/-- The job and pattern of a step. -/
def stepJob (s : State) (h : Nat) : Option Job := (getStep s h).bind fun st => getJob s (handlePart h) st.job
def stepPattern (s : State) (h : Nat) : Option PatternImage :=
  (stepJob s h).bind fun j => (getPart s (handlePart h)).bind fun x => tget? x.patterns j.pattern

/-- The cores that hold a job's quads, in the order of R627. -/
def jobCores (s : State) (j : Job) : List Nat := (quadPositions j.quads.toNat).map (coreAt s)

/-- The core of each pattern slot of a step (R627). -/
def stepCores (s : State) (h : Nat) : List Nat :=
  match stepJob s h, stepPattern s h with
  | some j, some pat => (jobCores s j).take pat.cores
  | _, _ => []

/-- Entry i of the binding table that a step uses: its own table, or the image's (R222; log 21). -/
def stepBinding (s : State) (h i : Nat) : Option Binding :=
  if i = 0xFF then none else match getStep s h, stepPattern s h with
  | some st, some pat => if st.table.isEmpty then pat.bindings[i]? else st.table[i]?
  | _, _ => none

/-- A pattern's descriptor with its slots resolved to cores (R97, R627). -/
def slotTensor (cores : List Nat) (d : DescWord) : Tensor :=
  { d := d, core := cores.getD (dCore d) 0, score := cores.getD (dScaleCore d) 0 }

/-- The tensor that binding i of a step names. -/
def stepTensor (s : State) (h i : Nat) : Option Tensor :=
  match stepBinding s h i with
  | some (.desc d) => some (slotTensor (stepCores s h) d)
  | _ => none

/-! ## The stitch list of a core -/

def coreList (s : State) (c : Nat) : List Entry :=
  match (coreOf s c).step.bind (stepPattern s) with
  | some pat => pat.lists.getD (coreOf s c).slot []
  | none => []

/-- The first entry of a lane at or after index n. -/
def nextEntry (es : List Entry) (lane n : Nat) : Nat :=
  ((List.range es.length).find? fun i => decide (n ≤ i) && (match es[i]? with | some e => e.lane == lane | none => false)).getD es.length

def laneOf (s : State) (c l : Nat) : LaneState := tget (coreOf s c).lanes l {}
def modLane (c l : Nat) (f : LaneState → LaneState) (s : State) : State :=
  modCore c (fun x => { x with lanes := tset x.lanes l (f (tget x.lanes l {})) }) s

/-- The entry that a lane stands at. -/
def laneEntry (s : State) (c l : Nat) : Option (Nat × Entry) :=
  if (tget? (coreOf s c).lanes l).isNone then none else
    let n := (laneOf s c l).next
    ((coreList s c)[n]?).map fun e => (n, e)

/-- Array, vector, window and walk entries are stitches of the core; a stem stitch runs in the die's engine. -/
def isStitch (e : Entry) : Bool :=
  match e.op with
  | .array _ => true
  | .vector _ => true
  | .window _ => true
  | .walk _ => true
  | _ => false

/-- The NP window of the core's slot that begins or ends at an index (R522). -/
def windowAt (s : State) (c n : Nat) (last : Bool) : Option Nat :=
  match (coreOf s c).step.bind (stepPattern s) with
  | none => none
  | some pat => (List.range pat.npWindows.length).find? fun i =>
      match pat.npWindows[i]? with
      | some w => w.slot == (coreOf s c).slot && (if last then w.last == n else w.first == n)
      | none => false

/-! ## Halo slots (R277, R280, R282) -/

/-- The halo slots that a stitch reads. -/
def haloReads (x : Entry) : List Nat :=
  match x.op with
  | .array a => [a.haloAbove, a.haloBelow].filter (· != 0xFF)
  | .stem a => [a.haloAbove, a.haloBelow].filter (· != 0xFF)
  | .window a => [a.haloAbove, a.haloBelow].filter (· != 0xFF)
  | _ => []

def isFenceOf (slot : Nat) (x : Entry) : Bool := match x.op with | .haloFence b _ _ => b == slot | _ => false

/-! ## What stitches take from their step and core -/

def stepWindow (s : State) (h b : Nat) : Option WWord := match stepBinding s h b with | some (.window w) => some w | _ => none

def sreg (s : State) (c i : Nat) : W64 := tget (coreOf s c).sregs i 0
def setSreg (c i : Nat) (v : W64) (s : State) : State := modCore c (fun x => { x with sregs := tset x.sregs i v }) s

/-- Lane seeds of a stitch: the entry's index in the core's list is its ordinal (R211). -/
def stitchSeed (s : State) (h c lane n : Nat) (tensor : W32) (l : Nat) : W64 :=
  match getStep s h with
  | some st => laneSeed st.seed (w32 st.epoch) tensor (coreOf s c).slot lane n l
  | none => 0

/-- TENSOR_ID of the stitch's first destination; 0 when there is none (R211). -/
def firstDest (s : State) (h : Nat) (is : List VInstr) : W32 :=
  (is.findSome? fun w => if vVop w = 0x70 then none else (stepTensor s h (vDst w)).map fun t => dTensorId t.d).getD 0

def vecEnv (s : State) (h c l n : Nat) (is : List VInstr) : VEnv where
  tensor := fun b => if b = 0xFF then none else stepTensor s h b
  sreg := sreg s c
  seed := stitchSeed s h c l n (firstDest s h is)

/-- Random words for n elements of a tensor from offset k on, where a step's conversion draws them by element (R209). -/
def stepHalves (s : State) (h : Nat) (t : Tensor) (k n : Nat) : List Nat :=
  match getStep s h with
  | some st => (List.range n).map fun i => elementHalf st.seed (w32 st.epoch) (dTensorId t.d) (k + i)
  | none => []

/-! ## Resident rows (R164) -/

def rowBytes (s : State) (c r : Nat) : List Byte := s.read (.acc c) (512 * r) 512

/-- What a step did to the resident rows of a core. -/
def coreMarks (s : State) (h c : Nat) : RowMarks :=
  match getStep s h with
  | some st => ((stepCores s h).findIdx? (· == c)).elim {} fun i => tget st.rows i {}
  | none => {}

def modMarks (h c : Nat) (f : RowMarks → RowMarks) (s : State) : State :=
  match (stepCores s h).findIdx? (· == c) with
  | some i => modStep h (fun st => { st with rows := tset st.rows i (f (tget st.rows i {})) }) s
  | none => s

/-- A resident row holds committed content: no step in flight has written it. -/
def rowCommitted (s : State) (c r : Nat) : Bool :=
  (coreOf s c).resident.contains r && match getPart s (coreOf s c).part with
    | some x => x.steps.all fun e => e.2.rows.isEmpty || !stepHolds e.2 ||
        (let m := coreMarks s e.1 c
         !m.copied.contains r && !m.fresh.contains r)
    | none => true

/-- Copy the rows that hold committed content before the step's first write to them; what it writes is its own, and no commit that
came before ends it any more. -/
def protectRows (h c : Nat) (rows : List Nat) (s : State) : State :=
  modCore c (fun x => { x with rowsFinal := x.rowsFinal.filter fun e => !(e.1 == h && rows.contains e.2) })
    (rows.foldl (fun s r =>
      if rowCommitted s c r then
        modMarks h c (fun m => { m with copied := m.copied ++ [r] }) (s.write (.acc c) (512 * (1024 + r)) (rowBytes s c r))
      else s) s)

/-- The rows of a core's accumulator store that spans of bits reach. -/
def rowsIn (c : Nat) (l : List Span) : List Nat :=
  let base := (Space.acc c).base
  (l.flatMap fun x => if base ≤ x.1 / 8 && x.1 / 8 < base + 2 ^ 20 then
    extent (x.1 / 8 - base) ((x.1 % 8 + x.2 + 7) / 8) else []).eraseDups
where
  /-- The rows of an extent. -/
  extent (a n : Nat) : List Nat := if n = 0 then [] else (List.range ((a + n - 1) / 512 - a / 512 + 1)).map (a / 512 + ·)

/-- Protect the resident rows that a store to a tensor writes. -/
def protectTensor (h : Nat) (t : Tensor) (s : State) : State :=
  if dSpace t.d = 2 then protectRows h t.core ((rowsIn t.core (writeSpans t)).filter (· < 1024)) s else s

/-- Rows of ACC 2 and 3 join the resident set; those of ACC 3 leave it at commit (R163, R164). -/
def joinRows (h c acc : Nat) (rows : List Nat) (s : State) : State :=
  if acc < 2 then s else
    let old := (coreOf s c).resident
    let new := rows.filter fun r => !old.contains r
    modMarks h c (fun m => { m with fresh := m.fresh ++ new, final := if acc = 3 then (m.final ++ rows).eraseDups else m.final })
      (modCore c (fun x => { x with resident := (List.range 1024).filter fun r => old.contains r || new.contains r }) s)

/-- The row map makes the staging rows of a stitch the committed rows (R160, R162): each written row takes the lowest staging
row in turn, and the rows that they replace become staging rows, with the values that they had (log 119). `State.mem` holds the rows
under the numbers that readers give them, so that the map moves none of its bytes. -/
def mapRows (c : Nat) (rows : List Nat) (was : List (List Byte)) (s : State) : State :=
  modCore c (fun x =>
    let old := rows.map fun r => tget x.rowMap r r
    let rest := x.staging.drop rows.length
    { x with stagingRows := (old.zip was).foldl (fun t q => tset t q.1 q.2) ((x.staging.take rows.length).foldl (fun t r => tdel t r) x.stagingRows)
             rowMap := (rows.zip x.staging).foldl (fun t q => if q.1 = q.2 then tdel t q.1 else tset t q.1 q.2) x.rowMap
             staging := (List.range 2304).filter fun r => rest.contains r || old.contains r }) s


/-- A held message is a RED_SCATTER of a call of an epoch and attempt (R471, R487). -/
def scatterOf (epoch attempt call : Nat) (m : CollMsg) : Bool :=
  m.mtype == 0x10 && m.stepEpoch == epoch && fld m.header 198 191 == attempt && fld m.header 255 240 == call

/-- Tick edges since the first RED_SCATTER of a call arrived: those that the oldest one held has aged (R487). -/
def scatterAge (x : Partition) (epoch attempt : Nat) (c : CallRun) : Nat :=
  match tget? x.pelotons (fld c.word 511 496) with
  | some q => ((q.inbox.filter (scatterOf epoch attempt c.call)).map (·.age)).foldl max 0
  | none => 0

/-- Admissions of an epoch so far, replays among them (R220, R471). -/
def attemptsOf (x : Partition) (epoch : Nat) : Nat := (x.steps.filter fun e => e.2.epoch == epoch && e.2.state != .queued).length

/-! ## Replays -/

/-- A replay writes only the scratch destinations that it names (R217): a descriptor outside the unified range, or one of them. -/
def mayWrite (s : State) (h : Nat) (d : DescWord) : Bool :=
  match (getStep s h).bind (·.replayOf) with
  | none => true
  | some r => (dSpace d != 0 && (!scaled (dFmt d) || dScaleSpace d != 0)) || r.outs.any fun o => dAddr o == dAddr d

end Sys2Proof.Machine
end

