-- ==== Sys2Proof/Machine/CodecWork.lean ====
section
/-!
DEFINITION. Work for the codec pairs (chapter 10): sessions, input rings and unit records, which sessions of a pair are ready and
how long they have waited.
-/
namespace Sys2Proof.Machine

/-! ## Sessions and pairs -/

def getSession (s : State) (p n : Nat) : Option Session := (getPart s p).bind fun x => tget? x.sessions n
def modSession (p n : Nat) (f : Session → Session) (s : State) : State :=
  modPart p (fun x => { x with sessions := tupd x.sessions n f }) s

/-- The I/O die of a pair (Table 4 of ch. 14). -/
def dieOfPair (i : Nat) : Nat := 4 + i / 4

/-- The slot of a session on a pair. -/
def slotOn (r : Pair) (p n : Nat) : Nat := ((r.slots.find? fun q => q.2 == (p, n)).map Prod.fst).getD 16

/-- A stamp later than every stamp taken so far (R387). -/
def nextStamp (s : State) : Nat :=
  s.parts.foldl (fun m e => e.2.sessions.foldl (fun m q => q.2.since.foldl (fun m v => max m (v.2 + 1)) m) m) 0

/-! ## Input rings (R380 to R385) -/

/-- n bytes of an input ring from a position. -/
def ringBytes (s : State) (e : Session) (at' n : Nat) : List Byte :=
  (List.range n).map fun i => s.byte .unified (e.ringBase + (at' + i) % max 1 e.ringSize)

/-- The header of the record at the consumed count; none while the write count lies inside it. -/
def recordHead (s : State) (e : Session) : Option (BitVec 256) :=
  if e.write < e.consumed + 32 then none else some (BitVec.ofNat 256 (leNat (ringBytes s e e.consumed 32)))

def recLength (h : BitVec 256) : Nat := fld h 63 32
def recType (h : BitVec 256) : Nat := fld h 23 16

/-- A record's header breaks R385: reserved fields, TYPE (of the session's standard, or padding), LENGTH. -/
def recordBad (e : Session) (h : BitVec 256) : Bool :=
  fld h 191 64 != 0 || fld h 31 24 != 0 || fld h 15 2 != 0 || !(recType h == e.kind || recType h == 2) ||
  recLength h == 0 || decide (e.ringSize - 64 < recLength h)

/-- The whole record is in the ring, or its header is bad enough to stop the session. -/
def recordReady (s : State) (e : Session) : Bool :=
  match recordHead s e with
  | none => false
  | some h => recordBad e h || decide (e.consumed + 32 + recLength h ≤ e.write)

/-- The unit at the front has begun to arrive and is not complete: it is starved (R383). -/
def recordPartial (s : State) (e : Session) : Bool := decide (e.consumed < e.write) && !recordReady s e

/-! ## Activation calls: readiness (R387, R408, R414) -/

/-- A call may start units: it has not ended, and its step is neither frogged nor stopped (Table 14). -/
def actLive (s : State) (a : ActCall) : Bool :=
  !a.ended &&
  match a.step with
  | none => true
  | some h => match getStep s h with
    | some st => (st.state == .running && !st.frogging) || st.state == .held || st.state == .committed
    | none => false

/-- The geometry that a call works with: its own, or its object's header; none for a header of R412. -/
def actGeo (s : State) (a : ActCall) : Option (Geo × Nat) :=
  if awDecode a.word then readGeo s (dAddr a.src) a.dst else some (encodeGeo a.word a.src, a.spill)

/-- Segments that pair i of a session's set still owes a call; one, which will fail, for a bad header. -/
def actLeft (s : State) (a : ActCall) (n i : Nat) : Nat :=
  if a.dry then 0 else
    match actGeo s a with
    | some g => g.1.segsOf n i - tget a.done i 0
    | none => if i = 0 then 1 else 0

/-- The first call of a session, in the order of issue, that has a segment for pair i of its set. -/
def readyAct (s : State) (p n : Nat) (e : Session) (i : Nat) : Option Nat :=
  match getPart s p with
  | none => none
  | some x => (x.calls.find? fun q => q.2.session == n && actLive s q.2 && decide (0 < actLeft s q.2 e.pairs.length i)).map Prod.fst

/-- The place of a pair in a session's set. -/
def placeIn (e : Session) (i : Nat) : Nat := e.pairs.findIdx (· == i)

/-- The encoder can code a picture: some are left of its group, or the pictures of the next group have all been submitted (log 153). -/
def encReady (e : Session) : Bool := decide (0 < e.group) || decide (e.enc.bPictures.toNat < e.frames.length)

/-- A session has work on a pair. -/
def sessionReady (s : State) (p n i : Nat) (e : Session) : Bool :=
  e.pairs.contains i &&
  match e.kind with
  | 2 => encReady e
  | 3 => (readyAct s p n e (placeIn e i)).isSome
  | _ => e.parsed.isNone && !e.abandoned && decide (e.consumed < e.write)

/-- The ready sessions of a pair. -/
def readySessions (s : State) (i : Nat) : List (Nat × Nat × Session) :=
  (pairOf s i).slots.filterMap fun q =>
    match getSession s q.2.1 q.2.2 with
    | some e => if sessionReady s q.2.1 q.2.2 i e then some (q.2.1, q.2.2, e) else none
    | none => none

/-- Lowest class, then the one that has waited longest (R387). -/
def sessionBefore (i : Nat) (a b : Nat × Nat × Session) : Bool :=
  if a.2.2.cls ≠ b.2.2.cls then a.2.2.cls < b.2.2.cls else tget a.2.2.since i 0 ≤ tget b.2.2.since i 0

/-- A session that has work begins to wait on its pairs (R387). -/
def startWait (p n : Nat) (s : State) : State :=
  let t := nextStamp s
  modSession p n (fun e => { e with since := e.pairs.foldl (fun m i =>
    if (tget? m i).isNone && sessionReady s p n i e && (pairOf s i).running != some (p, n) then tset m i t else m) e.since }) s

/-- The session that a command names (R60, R417): one of another partition is refused with REFUSED_NOT_PERMITTED. -/
def withSession {α : Type} (s : State) (p n : Nat) (k : Session → Except Nat α) : Except Nat α :=
  match getSession s p n with
  | some e => k e
  | none => .error (if s.parts.any fun q => (tget? q.2.sessions n).isSome then 0x0205 else 0x0201)

/-- Bytes of a frame buffer of an encode session: both planes of the coded area (R392). -/
def encHeight (e : Session) : Nat := 8 * ((e.enc.height.toNat + 7) / 8)
def frameSize (e : Session) : Nat := e.pitch * encHeight e + e.pitch * (encHeight e / 2)

end Sys2Proof.Machine
end

