-- ==== Sys2Proof/Machine/KvOps.lean ====
section
/-!
DEFINITION. KV spaces and the prefix table (R314 to R333): page pools, references, block hashes, reservations, appends,
commit and frog of what an append staged.
-/
namespace Sys2Proof.Machine

/-! ## Pages of a space (R314, R315) -/

def pageId (tier n : Nat) : Nat := tier <<< 30 ||| n
def idTier (id : Nat) : Nat := id >>> 30
def idIndex (id : Nat) : Nat := id % 2 ^ 30

def kvRegion (k : KvSpace) (tier : Nat) : Option KvRegion := k.regions.find? fun r => r.tier == tier

/-- Byte address of a page; 0 for an id outside the regions. -/
def kvAddr (k : KvSpace) (id : Nat) : Nat :=
  match kvRegion k (idTier id) with
  | some r => r.base + idIndex id * kvPageBytes k
  | none => 0

/-- Offset of an element in a page: layer, part, head, token, dimension (R314). -/
def kvOffset (k : KvSpace) (l v h t d : Nat) : Nat :=
  ((((l * 2 + v) * k.kvHeads + h) * 256 + t) * k.dh + d) * kvWidth k.format

/-- The element of a sequence at token position t under a block table. -/
def kvCode (s : State) (k : KvSpace) (table : List Nat) (l v h t d : Nat) : Nat :=
  s.readNat .unified (kvAddr k (table.getD (t / 256) 0) + kvOffset k l v h (t % 256) d) (kvWidth k.format)

def kvPage (k : KvSpace) (id : Nat) : KvPage := tget k.pages id {}
def setKvPage (id : Nat) (g : KvPage) (k : KvSpace) : KvSpace := { k with pages := tset k.pages id g }

/-- Space and sequence that a sequence binding names: [31:16] and [15:0] of its word (Table 1 of ch. 08). -/
def seqBinding (b : Option Binding) : Option (Nat × Nat) :=
  match b with
  | some (.words (a :: _)) => some (fld a 31 16, fld a 15 0)
  | _ => none

/-- What a step has staged of a sequence (R319). -/
def stageOf (st : Step) (sp q : Nat) : Option SeqStage := st.seqs.find? fun g => g.space == sp && g.seq == q

def getSpace (s : State) (p sp : Nat) : Option KvSpace := (getPart s p).bind fun x => tget? x.spaces sp
def modSpace (p sp : Nat) (f : KvSpace → KvSpace) (s : State) : State :=
  modPart p (fun x => { x with spaces := tupd x.spaces sp f }) s

/-- The directory entry's position in the control object: regions in order, pages by index (R316). -/
def dirIndex (k : KvSpace) (id : Nat) : Nat :=
  (k.regions.foldl (fun (a : Nat × Bool) r => if a.2 || r.tier == idTier id then (a.1, true) else (a.1 + r.pages, false)) (0, false)).1 + idIndex id

/-- A page directory entry (Table 7) and a sequence record (Table 8). -/
def dirWord (g : KvPage) : Nat := g.refs <<< 48 ||| b2n g.pfx.isSome <<< 47 ||| (g.pfx.getD 0) <<< 27 ||| g.state <<< 25
def seqWord (q : KvSeq) : Nat :=
  q.runHash.toNat <<< 192 ||| q.tailHash.toNat <<< 128 ||| q.table.length <<< 96 ||| q.length <<< 64 ||| q.parent <<< 48 ||| q.state

def dirAddr (k : KvSpace) (id : Nat) : Nat := k.control + 4096 + 64 * k.maxSeq + 4 * k.maxSeq * k.maxPages + 8 * dirIndex k id

/-- A page as the directory shows it: a prefix entry that is only staged is not committed state (R316). -/
def shownPage (s : State) (g : KvPage) : KvPage :=
  { g with pfx := g.pfx.filter fun i => ((tget? s.prefixes i).map (·.committed)).getD false }

/-- The control object shows the committed records, tables and entries (R316): write what changed. -/
def showControl (p sp : Nat) (seqs pages : List Nat) (s : State) : State :=
  match getSpace s p sp with
  | none => s
  | some k =>
    let s := seqs.foldl (fun s i =>
      match tget? k.seqs i with
      | some q => touchPages (pagesOf (k.control + 4096 + 64 * i) 64 ++ pagesOf (k.control + 4096 + 64 * k.maxSeq + 4 * k.maxPages * i) (4 * q.table.length))
          ((s.writeNat .unified (k.control + 4096 + 64 * i) 64 (seqWord q)).write .unified
            (k.control + 4096 + 64 * k.maxSeq + 4 * k.maxPages * i) (q.table.flatMap (leBytes 4)))
      | none => touchPages (pagesOf (k.control + 4096 + 64 * i) 64) (s.clear .unified (k.control + 4096 + 64 * i) 64)) s
    pages.foldl (fun s id => touchPages (pagesOf (dirAddr k id) 8) (s.writeNat .unified (dirAddr k id) 8 (dirWord (shownPage s (kvPage k id))))) s

/-! ## Block hashes (R326) -/

def HA : W64 := 0x8F3C5D21B7E4A96B#64
def HB : W64 := 0xC13FA9A902A6328F#64
def runStart (parent : W64) : W64 := parent ^^^ HB
def runAbsorb (x t : W64) : W64 := let y := (x ^^^ t) * HA; y ^^^ (y >>> 31)
def runFinish (x : W64) : W64 :=
  let y := (x ^^^ (x >>> 33)) * HB
  let z := y ^^^ (y >>> 29)
  if z = 0 then 1 else z

/-- RUN_HASH and TAIL_HASH after a list of tags (R326). -/
def hashAfter (salt : W64) (tags : List W64) : W64 × W64 :=
  let r := tags.foldl (fun (a : W64 × W64 × Nat) t =>
    let x := runAbsorb a.1 t
    if a.2.2 + 1 = 256 then (let h := runFinish x; (runStart h, h, 0)) else (x, a.2.1, a.2.2 + 1)) (runStart salt, salt, 0)
  (r.1, r.2.1)

/-- The chained hash of block b. -/
def blockHash (salt : W64) (tags : List W64) (b : Nat) : W64 := (hashAfter salt (tags.take (256 * (b + 1)))).2

/-! ## The prefix table (R327 to R329) -/

def setOf (h : W64) : Nat := h.toNat % 65536

/-- The page of an entry has REFS = 0 and the entry is committed (R327). -/
def entryIdle (s : State) (e : PrefixEntry) : Bool :=
  e.committed && match getSpace s e.part e.space with
    | some k => (kvPage k e.page).refs == 0
    | none => true

/-- Entries that descend from some of the given ones, with them: one generation per round. -/
def descend (es : Table PrefixEntry) : Nat → List Nat → List Nat
  | 0, l => l
  | n + 1, l =>
    let more := (es.filter fun e => !e.2.root && l.contains e.2.parent && !l.contains e.1).map Prod.fst
    if more.isEmpty then l else descend es n (l ++ more)

/-- A page goes back to its free pool; a lost page stays lost (R333). -/
def freePage (p sp id : Nat) (s : State) : State :=
  let s := modSpace p sp (fun k =>
    let g := kvPage k id
    if g.state = 3 then setKvPage id { refs := 0, pfx := none, state := 3 } k else { k with pages := tdel k.pages id }) s
  showControl p sp [] [id] s

/-- Evict an idle entry and its idle descendants: their pages return to their free pools (R327); how many went. -/
def evict (i : Nat) (s : State) : Nat × State :=
  let gone := (descend s.prefixes s.prefixes.length [i]).filter fun j =>
    match tget? s.prefixes j with | some e => entryIdle s e | none => false
  (gone.length, gone.foldl (fun s j =>
    match tget? s.prefixes j with
    | none => s
    | some e => devEvent 0x5010 e.part 1 (freePage e.part e.space e.page { s with prefixes := tdel s.prefixes j })) s)

/-- Of some idle entries, the one idle longest. -/
def oldest (l : List (Nat × PrefixEntry)) : Option Nat :=
  (l.foldl (fun (b : Option (Nat × Nat)) e => match b with
    | none => some (e.1, e.2.idle)
    | some c => if e.2.idle < c.2 then some (e.1, e.2.idle) else some c) none).map Prod.fst

def nextIdle (s : State) : Nat := (s.prefixes.map fun e => e.2.idle).foldl max 0 + 1

/-- A sequence lets go of a page (R325): at REFS 0 it becomes idle with a committed prefix entry, else free. -/
def dropRef (p sp id : Nat) (s : State) : State :=
  match getSpace s p sp with
  | none => s
  | some k =>
    let g := kvPage k id
    let g := { g with refs := g.refs - 1 }
    let s := modSpace p sp (setKvPage id g) s
    if g.refs ≠ 0 then showControl p sp [] [id] s else
      match g.pfx.bind (tget? s.prefixes) with
      | some e =>
        if e.committed && g.state != 3 then
          showControl p sp [] [id] { s with prefixes := tset s.prefixes (g.pfx.getD 0) { e with idle := nextIdle s } }
        else freePage p sp id s
      | none => freePage p sp id s

/-! ## Reservations (R319 to R321, R324) -/

/-- Free pages of a region. -/
def regionFree (k : KvSpace) (r : KvRegion) : List Nat :=
  ((List.range r.pages).map (pageId r.tier)).filter fun id => (tget? k.pages id).isNone

/-- Take one page of a region's free pool; which one, no rule says (a free value, log 4). -/
def takeFreePage (p sp tier : Nat) (s : State) : Option (Nat × State) :=
  (getSpace s p sp).bind fun k => (kvRegion k tier).bind fun r =>
    let l := regionFree k r
    if l.isEmpty then none else
      let f := takeFree s
      let id := l.getD (f.1.toNat % l.length) 0
      some (id, showControl p sp [] [id] (modSpace p sp (setKvPage id { state := 2 }) f.2))

/-- One page from the permitted tiers in order: the free pool, then by evicting the oldest idle entry of the region. -/
def takePage (p sp : Nat) (permit : BitVec 3) (s : State) : Option (Nat × State) :=
  [1, 2, 3].findSome? fun t =>
    if !bitAt permit (t - 1) then none else
      match takeFreePage p sp t s with
      | some r => some r
      | none =>
        match oldest (s.prefixes.filter fun e => e.2.part == p && e.2.space == sp && idTier e.2.page == t && entryIdle s e.2) with
        | some i => takeFreePage p sp t (evict i s).2
        | none => none

def takePages (p sp : Nat) (permit : BitVec 3) : Nat → State → Option (List Nat × State)
  | 0, s => some ([], s)
  | n + 1, s =>
    match takePage p sp permit s with
    | none => none
    | some r => (takePages p sp permit n r.2).map fun q => (r.1 :: q.1, q.2)

def blocksOf (n : Nat) : Nat := (n + 255) / 256

/-- Reserve what an append of n tokens needs and hold the sequence (R319); none when the permitted regions cannot
supply it (R321), or the block table cannot hold it (log 129). -/
def reserveSeq (p sp seq n : Nat) (permit : BitVec 3) (s : State) : Option (SeqStage × State) :=
  (getSpace s p sp).bind fun k => (tget? k.seqs seq).bind fun q =>
    let new := blocksOf (q.length + n) - blocksOf q.length
    let last := q.table.getLastD 0
    let copy := q.length % 256 != 0 && decide (1 < (kvPage k last).refs)
    if k.maxPages < blocksOf (q.length + n) then none else (takePages p sp permit (new + b2n copy) s).map fun r =>
      let pages := r.1.drop (b2n copy)
      let table := (if copy then q.table.dropLast ++ r.1.take 1 else q.table) ++ pages
      let s := modSpace p sp (fun k => { k with seqs := tset k.seqs seq { q with state := 2 } }) r.2
      ({ permit := permit, space := sp, seq := seq, tokens := n, pages := pages, copyPage := if copy then r.1.head? else none, table := table,
         tags := q.tags }, showControl p sp [seq] [] s)

/-- Whether a sequence may take part in a reservation: it exists (0x0201), it is open and not held (0x0205). -/
def needSeq {α : Type} (k : KvSpace) (seq : Nat) (c : KvSeq → Except Nat α) : Except Nat α :=
  have' (tget? k.seqs seq) 0x0201 fun q => need (q.state == 1) 0x0205 (c q)

/-! ## Appends (R322, R323, R328) -/

/-- A page that an access reaches is lost (R333). -/
def lostPage (k : KvSpace) (ids : List Nat) : Option Nat := ids.find? fun id => (kvPage k id).state == 3

/-- Pages that an append to a staged sequence reaches: those of its new tokens, and the shared last page that it copies. -/
def appendReach (q : KvSeq) (st : SeqStage) : List Nat :=
  (if st.copyPage.isSome && !st.copied then [q.table.getLastD 0] else []) ++ st.table.drop (q.length / 256)

/-- The tier pages of KV pages. -/
def kvTierPages (k : KvSpace) (ids : List Nat) : List Nat := (ids.flatMap fun id => pagesOf (kvAddr k id) (kvPageBytes k)).eraseDups

/-- The tier pages that an append of n tokens to a staged sequence reaches: those of its rows, and of a copy that it makes (R341). -/
def appendPages (k : KvSpace) (q : KvSeq) (st : SeqStage) : List Nat :=
  kvTierPages k (appendReach q st)

/-- Copy the valid tokens of every layer of the shared last page into the copy page (R322). -/
def copyOnAppend (k : KvSpace) (q : KvSeq) (st : SeqStage) (s : State) : State :=
  match st.copyPage with
  | none => s
  | some c =>
    let n := q.length % 256
    let src := kvAddr k (q.table.getLastD 0)
    (List.range (k.layers * 2 * k.kvHeads)).foldl (fun s i =>
      let off := i * 256 * k.dh * kvWidth k.format
      s.write .unified (kvAddr k c + off) (s.read .unified (src + off) (n * k.dh * kvWidth k.format))) s

/-- Write the K and V rows of one layer beyond the committed length: element c + DH·KVHEADS·t of a source is channel c
of token t, head c / DH (log 31). -/
def appendRows (k : KvSpace) (len : Nat) (table : List Nat) (layer n : Nat) (kv : Nat → Nat → Nat → Nat) (s : State) : State :=
  let w := kvWidth k.format
  (List.range 2).foldl (fun s v => (List.range n).foldl (fun s t => (List.range k.kvHeads).foldl (fun s h =>
    let pos := len + t
    s.write .unified (kvAddr k (table.getD (pos / 256) 0) + kvOffset k layer v h (pos % 256) 0)
      ((List.range k.dh).flatMap fun d => leBytes w (kv v t (h * k.dh + d)))) s) s) s

def countSpace (s : State) (p sp : Nat) : Nat := (s.prefixes.filter fun e => e.2.part == p && e.2.space == sp).length

/-- A place for a new entry of a set: an empty way, or one that evicting the longest-idle entry leaves (R327). -/
def prefixWay (h : W64) (s : State) : Option (Nat × State) :=
  let base := 16 * setOf h
  match (List.range 16).find? fun w => (tget? s.prefixes (base + w)).isNone with
  | some w => some (base + w, s)
  | none =>
    match oldest (s.prefixes.filter fun e => decide (base ≤ e.1) && decide (e.1 < base + 16) && entryIdle s e.2) with
    | some i => some (i, (evict i s).2)
    | none => none

/-- The same key as a committed entry. -/
def sameKey (a b : PrefixEntry) : Bool :=
  a.hash == b.hash && a.part == b.part && a.space == b.space && a.root == b.root && (a.root || a.parent == b.parent)

/-- Insert a staged entry for a filled block, or skip it (R328). -/
def insertPrefix (p sp owner : Nat) (k : KvSpace) (st : SeqStage) (b : Nat) (s : State) : SeqStage × State :=
  let skip := (st, devEvent 0x5011 p 1 s)
  let page := st.table.getD b 0
  let up := if b = 0 then some 0 else (getSpace s p sp).bind fun k => (kvPage k (st.table.getD (b - 1) 0)).pfx
  match up with
  | none => skip
  | some parent =>
    let e : PrefixEntry := { hash := blockHash k.salt st.tags b, page := page, part := p, space := sp, parent := parent,
                             root := b == 0, committed := false, owner := owner }
    if k.prefixMax ≤ countSpace s p sp || s.prefixes.any (fun f => f.2.committed && sameKey f.2 e) then skip else
      match prefixWay e.hash s with
      | none => skip
      | some w =>
        ({ st with entries := st.entries ++ [w.1] },
         modSpace p sp (fun k => setKvPage page { kvPage k page with pfx := some w.1 } k)
           { w.2 with prefixes := tset w.2.prefixes w.1 e })

/-- All layers of the tokens have landed: their tags are absorbed and the pages that they fill enter the prefix table. -/
def absorbTags (p sp owner : Nat) (k : KvSpace) (len : Nat) (tags : List W64) (st : SeqStage) (s : State) : SeqStage × State :=
  let st := { st with tags := (st.tags.take len) ++ tags }
  if !k.prefixOn then (st, s) else
    let full := (List.range ((len + tags.length) / 256)).drop (len / 256)
    full.foldl (fun r b => insertPrefix p sp owner k r.1 b r.2) (st, s)

/-! ## Commit and frog of a stage (R323, R328, R329) -/

/-- A staged entry becomes committed, or is removed when the same key is committed already (R329). Entries below a
removed one name the entry that stays (log 32). -/
def commitPrefix (p sp i : Nat) (s : State) : State :=
  match tget? s.prefixes i with
  | none => s
  | some e =>
    match s.prefixes.find? fun f => f.2.committed && sameKey f.2 e with
    | some f =>
      let s := { s with prefixes := tmap (tdel s.prefixes i) fun _ c => if !c.root && c.parent == i then { c with parent := f.1 } else c }
      devEvent 0x5012 p 1 (modSpace p sp (fun k => setKvPage e.page { kvPage k e.page with pfx := none } k) s)
    | none => { s with prefixes := tset s.prefixes i { e with committed := true } }

/-- A staged page joins the block table: state 1 and one reference; a lost page stays lost. -/
def keepPage (p sp id : Nat) (s : State) : State :=
  modSpace p sp (fun k =>
    let g := kvPage k id
    setKvPage id { g with refs := 1, state := if g.state = 3 then 3 else 1 } k) s

/-- Publish length, block table, REFS and hashes (commit column of Table 6 of ch. 05). -/
def publishSeq (p : Nat) (st : SeqStage) (s : State) : State :=
  match (getSpace s p st.space).bind fun k => (tget? k.seqs st.seq).map fun q => (k, q) with
  | none => s
  | some kq =>
    let s := (st.pages ++ st.copyPage.toList).foldl (fun s id => keepPage p st.space id s) s
    let s := if st.copyPage.isSome then dropRef p st.space (kq.2.table.getLastD 0) s else s
    let h := hashAfter kq.1.salt st.tags
    let q := { kq.2 with table := st.table, length := kq.2.length + st.tokens, tags := st.tags, runHash := h.1, tailHash := h.2, state := 1 }
    let s := modSpace p st.space (fun k => { k with seqs := tset k.seqs st.seq q }) s
    let named := (st.entries.filterMap (tget? s.prefixes)).map (·.page)
    let s := st.entries.foldl (fun s i => commitPrefix p st.space i s) s
    showControl p st.space [st.seq] (st.pages ++ st.copyPage.toList ++ named) s

/-- Restore what a discarded stage held (frog column). -/
def discardSeq (p : Nat) (st : SeqStage) (s : State) : State :=
  let s := { s with prefixes := s.prefixes.filter fun e => !(st.entries.contains e.1 && !e.2.committed) }
  let s := (st.pages ++ st.copyPage.toList).foldl (fun s id => freePage p st.space id s) s
  let s := modSpace p st.space (fun k =>
    let k := { k with pages := tmap k.pages fun _ g => if st.entries.contains (g.pfx.getD (2 ^ 20)) then { g with pfx := none } else g }
    { k with seqs := tupd k.seqs st.seq fun q => { q with state := 1 } }) s
  showControl p st.space [st.seq] [] s

/-- KV pages of a space that overlap a tier page. -/
def overlapping (k : KvSpace) (page : Nat) : List Nat :=
  k.regions.flatMap fun r => ((List.range r.pages).map (pageId r.tier)).filter fun id =>
    decide (kvAddr k id < (page + 1) * pageSize) && decide (page * pageSize < kvAddr k id + kvPageBytes k)

/-- A tier page is retired: the KV pages that overlap it are lost and their prefix entries go (R333). -/
def loseKvPages (page : Nat) (s : State) : State :=
  s.parts.foldl (fun s e => e.2.spaces.foldl (fun s q =>
    (overlapping q.2 page).foldl (fun s id =>
      let s := modSpace e.1 q.1 (fun k => setKvPage id { kvPage k id with pfx := none, state := 3 } k) s
      showControl e.1 q.1 [] [id] { s with prefixes := s.prefixes.filter fun f => !(f.2.part == e.1 && f.2.space == q.1 && f.2.page == id) }) s) s) s

/-- A reserved page that is lost is replaced from the free pools of the permitted tiers at once, where one is left (R333). -/
def replaceLost (p : Nat) (st : SeqStage) (s : State) : SeqStage × State :=
  match getSpace s p st.space with
  | none => (st, s)
  | some k =>
    (st.pages ++ st.copyPage.toList).foldl (fun (r : SeqStage × State) id =>
      if (kvPage k id).state ≠ 3 then r else
        match [1, 2, 3].findSome? fun t => if bitAt st.permit (t - 1) then takeFreePage p st.space t r.2 else none with
        | none => r
        | some n =>
          let sub (l : List Nat) : List Nat := l.map fun i => if i = id then n.1 else i
          ({ r.1 with pages := sub r.1.pages, copyPage := r.1.copyPage.map fun i => if i = id then n.1 else i, table := sub r.1.table }, n.2))
      (st, s)

end Sys2Proof.Machine
end

