-- ==== Sys2Proof/Machine/PelotonWords.lean ====
section
/-!
DEFINITION. The fields of call words and of peloton descriptors (Tables 1, 2, 4 and 5 of ch. 12).
-/
namespace Sys2Proof.Machine

/-! ## Call words (Table 4) and pelotons (Table 1 of ch. 12) -/

abbrev CallWord := BitVec 512

def cwPel (w : CallWord) : Nat := fld w 511 496
def cwCall (w : CallWord) : Nat := fld w 495 480
def cwSrc (w : CallWord) : Nat := fld w 479 472
def cwDst (w : CallWord) : Nat := fld w 471 464
def cwChunks (w : CallWord) : Nat := fld w 463 456
def cwRank (w : CallWord) : Nat := fld w 455 448
def cwSlot (w : CallWord) : Nat := fld w 447 440
def cwOvf (w : CallWord) : Nat := fld w 439 432
def cwCap (w : CallWord) : Nat := fld w 431 416
def cwOvfCap (w : CallWord) : Nat := fld w 415 400
def cwSreg (w : CallWord) : Nat := fld w 399 395
def cwKind (w : CallWord) : Nat := fld w 394 392
def cwOvfPolicy (w : CallWord) : Nat := fld w 391 390
def cwNorm (w : CallWord) : Bool := bitAt w 389
def cwThin (w : CallWord) : Bool := bitAt w 388
def cwDir (w : CallWord) : Bool := bitAt w 387

def pelN (q : Peloton) : Nat := fld q.header 495 484 + 1
def pelRank (q : Peloton) : Nat := fld q.header 483 472
def pelMode (q : Peloton) : Nat := fld q.header 443 442
def pelGin (q : Peloton) : Nat := fld q.header 430 426
def pelGop (q : Peloton) : Nat := fld q.header 425 421
def pelGcvt (q : Peloton) : Nat := fld q.header 420 416
def pelPortNext (q : Peloton) : Nat := fld q.header 415 412
def pelPortPrev (q : Peloton) : Nat := fld q.header 411 408
def pelVcRed (q : Peloton) : Nat := fld q.header 407 404
def pelVcGat (q : Peloton) : Nat := fld q.header 403 400
def pelVcExc (q : Peloton) : Nat := fld q.header 399 396
def pelVcAtt (q : Peloton) : Nat := fld q.header 395 392
/-- The base of the park object; 0 where there is none (Table 1). -/
def pelParkAddr (q : Peloton) : Nat := fld q.header 381 339
def pelParkPages (q : Peloton) : Nat := fld q.header 338 318

def getPel (s : State) (p n : Nat) : Option Peloton := (getPart s p).bind fun x => tget? x.pelotons n
def modPel (p n : Nat) (f : Peloton → Peloton) (s : State) : State := modPart p (fun x => { x with pelotons := tupd x.pelotons n f }) s

/-- The first held message of a type. -/
def heldOf (q : Peloton) (t : Nat) : Option CollMsg := q.inbox.find? fun m => m.mtype == t

/-- A message is held no longer. -/
def dropMsg (p n : Nat) (m : CollMsg) (s : State) : State := modPel p n (fun q => { q with inbox := q.inbox.erase m }) s

/-- The port toward a rank: PORT_NEXT, PORT_PREV, else its member entry (Tables 1 and 2). -/
def portTo (q : Peloton) (r : Nat) : Nat :=
  if r = (pelRank q + 1) % pelN q then pelPortNext q
  else if (r + 1) % pelN q = pelRank q then pelPortPrev q
  else fld (q.members.getD r 0) 47 44

def linkIdOf (q : Peloton) (r : Nat) : Nat := fld (q.members.getD r 0) 63 48

/-- The VC of a message type (Table 5). -/
def vcOfType (q : Peloton) (t : Nat) : Nat :=
  if t = 0x12 || t = 0x17 then (if pelVcGat q = 0xF then pelVcRed q else pelVcGat q)
  else if t = 0x13 || t = 0x14 then pelVcExc q
  else if t = 0x15 || t = 0x16 then pelVcAtt q
  else pelVcRed q

/-- The next member in a direction. -/
def nextRank (q : Peloton) (dir : Bool) : Nat := if dir then (pelRank q + pelN q - 1) % pelN q else (pelRank q + 1) % pelN q

end Sys2Proof.Machine
end

