-- ==== Sys2Proof/Machine/Attention.lean ====
section
/-!
DEFINITION. The block procedure of attention (R294 to R308): the attention word, the mask, the classification of pairs,
the forward and backward work of one pair, and the rows that a walk leaves.
-/
namespace Sys2Proof.Machine

abbrev AWord := BitVec 512
abbrev MaskWord := BitVec 256

def aScale (a : AWord) : W32 := w32 (fld a 511 480)
def aRing (a : AWord) : Nat := fld a 479 464
def aQ (a : AWord) : Nat := fld a 463 456
def aK (a : AWord) : Nat := fld a 455 448
def aV (a : AWord) : Nat := fld a 447 440
def aO (a : AWord) : Nat := fld a 439 432
def aStats (a : AWord) : Nat := fld a 431 424
def aMask (a : AWord) : Nat := fld a 423 416
def aDo (a : AWord) : Nat := fld a 415 408
def aDq (a : AWord) : Nat := fld a 407 400
def aDk (a : AWord) : Nat := fld a 399 392
def aDv (a : AWord) : Nat := fld a 391 384
def aStage (a : AWord) : Nat := fld a 383 376
def aSeq (a : AWord) : Nat := fld a 375 368
def aLayer (a : AWord) : Nat := fld a 367 352
def aHead (a : AWord) : Nat := fld a 351 336
def aDh (a : AWord) : Nat := fld a 335 328
def aQrows (a : AWord) : Nat := fld a 327 320
def aPfmt (a : AWord) : Nat := fld a 286 282
def aPcvt (a : AWord) : Nat := fld a 281 277
def aOcvt (a : AWord) : Nat := fld a 276 272
def aDsfmt (a : AWord) : Nat := fld a 271 267
def aSrc (a : AWord) : Nat := fld a 266 265
def aDir (a : AWord) : Bool := bitAt a 264

/-! ## The mask (Tables 2 and 3) -/

def kW (m : MaskWord) : Int := fld m 255 224
def kDiag (m : MaskWord) : Int := signed 32 (fld m 223 192)
def kKlim (m : MaskWord) : Int := fld m 191 160
def kKmin (m : MaskWord) : Int := fld m 159 128
def kKoff (m : MaskWord) : Int := fld m 127 96
def kQoff (m : MaskWord) : Int := fld m 95 64
def kG (m : MaskWord) : Int := fld m 63 48
def kMode (m : MaskWord) : Nat := fld m 2 0

/-- Query index i may attend to key index j (R298). -/
def allowed (m : MaskWord) (i j : Int) : Bool :=
  decide (kKmin m ≤ j) && decide (j < kKlim m) &&
    match kMode m with
    | 0 => true
    | 1 => decide (j ≤ i + kDiag m)
    | 2 => decide (j / kG m ≤ i / kG m + kDiag m)
    | _ => decide (i + kDiag m - kW m < j) && decide (j ≤ i + kDiag m)

/-- A pair of query indices ia to ib and key indices ja to jb is skipped (Table 3). -/
def pairSkipped (m : MaskWord) (ia ib ja jb : Int) : Bool :=
  decide (jb < kKmin m) || decide (kKlim m ≤ ja) ||
    match kMode m with
    | 0 => false
    | 1 => decide (ib + kDiag m < ja)
    | 2 => decide (ib / kG m + kDiag m < ja / kG m)
    | _ => decide (ib + kDiag m < ja) || decide (jb ≤ ia + kDiag m - kW m)

/-- A pair applies no element mask (Table 3). -/
def pairFull (m : MaskWord) (ia ib ja jb : Int) : Bool :=
  decide (kKmin m ≤ ja) && decide (jb < kKlim m) &&
    match kMode m with
    | 0 => true
    | 1 => decide (jb ≤ ia + kDiag m)
    | 2 => decide (jb / kG m ≤ ia / kG m + kDiag m)
    | _ => decide (ib + kDiag m - kW m < ja) && decide (jb ≤ ia + kDiag m)

/-! ## Rows and blocks -/

/-- The keys and values that a walk visits: the codes of position j, dimension d, with the formats that the array reads them in,
the key count and the key index of position 0. -/
structure Keys where
  kcode : Nat → Nat → Nat
  vcode : Nat → Nat → Nat
  kfmt : Nat
  vfmt : Nat
  count : Nat
  koff : Int

def Keys.k (ks : Keys) (j d : Nat) : Val := codeVal ks.kfmt (ks.kcode j d)
def Keys.v (ks : Keys) (j d : Nat) : Val := codeVal ks.vfmt (ks.vcode j d)

/-- The state of one query row (R301); for a backward walk `o` accumulates dQ. -/
structure RowState where
  m : W32 := 0xFF800000#32
  ls : W32 := 0
  lc : W32 := 0
  o : List W32
  deriving DecidableEq, Repr

/-- Valid positions of key block kb. -/
def blockKeys (count kb : Nat) : List Nat := (List.range (min 128 (count - 128 * kb))).map (128 * kb + ·)

/-- One array product sum over passes of 128 channels, from a replaced row. -/
def dotArray (wf af : Nat) (acts wts : List Val) : W32 :=
  let prods := (acts.zip wts).map fun q => Val.mul q.1 q.2
  let outs := (List.range ((prods.length + 127) / 128)).filterMap fun p =>
    passOut (windowed wf af) 32 ((prods.drop (128 * p)).take 128)
  (accumulate true 0 outs).1

/-- A probability or a score gradient as its element code, with what narrowing it counts (R133). -/
def narrowP (fmt cvt : Nat) (x : W32) : Nat × Cnt := narrow fmt cvt 0 (f32 x)

/-- The sum of counts. -/
def cntSum (l : List Cnt) : Cnt := l.foldl Cnt.add {}

/-- The scores of one row against a block: S[j]·SCALE where the pair is allowed (R301). -/
def rowScores (a : AWord) (m : MaskWord) (ks : Keys) (qfmt : Nat) (q : Nat → Val) (i : Int) (full : Bool) (js : List Nat) :
    List (Option W32) :=
  js.map fun (j : Nat) =>
    if full || allowed m i (ks.koff + (j : Nat)) then
      some (fmul (dotArray ks.kfmt qfmt ((List.range (aDh a + 1)).map q) ((List.range (aDh a + 1)).map (ks.k j))) (aScale a))
    else none

/-- The forward work of one row against one block (R301): its state, its probability codes, its counts. -/
def forwardRow (a : AWord) (ks : Keys) (js : List Nat) (xs : List (Option W32)) (st : RowState) : RowState × List Nat × Cnt :=
  let bm := xs.foldl (fun b x => match x with | some y => fmax b y | none => b) negInf
  let mn := fmax st.m bm
  if mn = negInf then (st, xs.map fun _ => 0, {}) else
    let al := if st.m = negInf then 0 else fexp (fsub st.m mn)
    let ps : List (Nat × Cnt) := xs.map fun x => match x with
      | some y => if y = negInf then (0, {}) else narrowP (aPfmt a) (aPcvt a) (fexp (fsub y mn))
      | none => (0, {})
    let pq := ps.map fun p => codeVal (aPfmt a) p.1
    let bs := csumResult (csumRow (pq.map toF32))
    let c := csumAdd { s := fmul st.ls al, c := fmul st.lc al } bs
    let o := (List.range (aDh a + 1)).map fun d =>
      fma (st.o.getD d 0) al (dotArray ks.vfmt (aPfmt a) pq (js.map fun j => ks.v j d))
    ({ m := mn, ls := c.s, lc := c.c, o := o }, ps.map Prod.fst, cntSum (ps.map Prod.snd))

/-- The record of Table 4 of a finished row and its output values (R301, R305); the flag counts a non-finite row. -/
def finishRow (a : AWord) (st : RowState) : List W32 × List W32 × Bool × Bool :=
  let n := aDh a + 1
  if st.m = negInf then (List.replicate n 0, [negInf, 0, 0, negInf], false, true)
  else if !fFinite st.m then (List.replicate n fNan, [fNan, fNan, fNan, fNan], true, false)
  else
    let l := fadd st.ls st.lc
    ((List.range n).map fun d => fdiv (st.o.getD d 0) l, [st.m, st.ls, st.lc, fadd st.m (flog l)], false, false)

/-- A backward pair: narrowed probabilities and score gradients of one row (R306). -/
def backwardRow (a : AWord) (xs : List (Option W32)) (lse dr : W32) (dp : List W32) : List (Nat × Cnt) × List (Nat × Cnt) :=
  let pq := xs.map fun x => match x with
    | some y => if lse = negInf || y = negInf then narrowP (aPfmt a) (aPcvt a) 0 else narrowP (aPfmt a) (aPcvt a) (fexp (fsub y lse))
    | none => narrowP (aPfmt a) (aPcvt a) 0
  let ds := (pq.zip dp).map fun p =>
    narrowP (aDsfmt a) (aPcvt a) (fmul (fmul (toF32 (codeVal (aPfmt a) p.1.1)) (fsub p.2 dr)) (aScale a))
  (pq, ds)

end Sys2Proof.Machine
end

