-- ==== Sys2Proof/Machine/Spans.lean ====
section
/-!
DEFINITION. What a stitch-list entry reads and writes in T0, as spans of bits of `State.mem` (R172, R223, R224, R254).
-/
namespace Sys2Proof.Machine

/-- Bits that a read or a write of a binding's tensor touches. -/
def bindSpans (t : Nat → Option Tensor) (i : Nat) : List Span := match t i with | some x => tensorSpans x | none => []
def putSpans (t : Nat → Option Tensor) (i : Nat) : List Span := match t i with | some x => writeSpans x | none => []

/-- Bits of the columns of a weight tensor that a stitch reads: COLS + 1 of them, a convolution's from CO0 on (R264, R628). -/
def colSpans (t : Nat → Option Tensor) (i lo n : Nat) : List Span :=
  match t i with
  | some x => sliceSpans false false x lo (min n (dSize x.d 1 - lo))
  | none => []

/-- The ranges that a stitch declares (R172; log 144). -/
def rangeSpans (l : List T0Range) : List Span :=
  l.map fun r => (8 * ((spaceFor r.space (if r.space = 3 then 0 else r.slot)).base + r.addr), 8 * r.bytes)

/-- The count words of a destination (R169). -/
def countSpans (t : Nat → Option Tensor) (count dst : Nat) (fmt : Nat) : List Span :=
  match t count, t dst with
  | some c, some d =>
    let nb := if scaled fmt then (dSize d.d 0 + blockLen fmt - 1) / blockLen fmt else (dSize d.d 0 + 31) / 32
    [(8 * (c.space.base + dAddr c.d), 16 * dRows d.d * (32 * ((nb + 31) / 32)))]
  | _, _ => []

/-- Bindings whose tensors a vector instruction reads (Table 3 of ch. 06). -/
def vReads (w : VInstr) : List Nat :=
  ((vUses w).filter fun i => !(vVop w = 0x70 && i == 1)).map (vField w) |>.filter (· != 0xFF)

def vWrites (w : VInstr) : List Nat :=
  let v := vVop w
  if v = 0x70 then [] else if v = 0x48 then [vDst w, vSrc1 w].filter (· != 0xFF) else [vDst w].filter (· != 0xFF)

/-- Reads and writes of an entry; `c` is its core, `t` resolves its bindings and `co` gives the first output column of a window
word. Accumulator rows that an array stitch adds to are among its writes only, since staging rows hold its sums until its
commit point (R162). -/
def entrySpans (t : Nat → Option Tensor) (attn : Nat → Option AWord) (co : Nat → Nat) (c : Nat) (e : Entry) : List Span × List Span :=
  match e.op with
  | .array a =>
    let lo := if mFeed a.mode = 1 then co a.window else 0
    ([a.act, a.haloAbove, a.haloBelow, a.refAct].flatMap (bindSpans t) ++ [a.wt, a.refWt].flatMap (fun i => colSpans t i lo (mCols a.mode + 1)),
     [(8 * ((Space.acc c).base + 512 * a.firstRow), 4096 * a.tokens)] ++
     (if mOutEn a.mode then putSpans t a.dst else []) ++
     (if mCountEn a.mode then countSpans t a.count a.dst (mOutFmt a.mode) else []))
  | .stem a =>
    ([a.act, a.haloAbove, a.haloBelow].flatMap (bindSpans t) ++ colSpans t a.wt (co a.window) (mCols a.mode + 1),
     (if mOutEn a.mode then putSpans t a.dst else []) ++
     (if mCountEn a.mode then countSpans t a.count a.dst (mOutFmt a.mode) else []))
  | .vector is =>
    is.foldl (fun r w => (r.1 ++ cutSpans ((vReads w).flatMap (bindSpans t)) r.2, r.2 ++ (vWrites w).flatMap (putSpans t))) ([], [])
  | .window w => ([w.src, w.box, w.haloAbove, w.haloBelow].flatMap (bindSpans t), putSpans t w.dst)
  | .walk b =>
    match attn b with
    | none => ([], [])
    | some a =>
      let dense := if aSrc a = 0 then [aK a, aV a] else []
      if aDir a then (([aQ a, aO a, aStats a, aDo a] ++ dense).flatMap (bindSpans t), [aDq a, aDk a, aDv a, aStage a].flatMap (putSpans t))
      else (([aQ a] ++ dense).flatMap (bindSpans t), [aO a, aStats a, aStage a].flatMap (putSpans t))
  | .mover a b _ _ _ => (bindSpans t a, putSpans t b)
  | .haloPut a b _ _ => (bindSpans t a, putSpans t b)
  | .haloFence _ _ _ => ([], [])
  | .append _ _ k v => (bindSpans t k ++ bindSpans t v, [])
  | _ => ([], [])

/-- First output column of a window word. -/
def firstColumn (w : Option WWord) : Nat := (w.map wCo0).getD 0

end Sys2Proof.Machine
end

