-- ==== Sys2Proof/Machine/Windows.lean ====
section
/-!
DEFINITION. What pooling and crop-and-resize stitches write (R283 to R291), and the part of it that a cut leaves in T0 (R173).
-/
namespace Sys2Proof.Machine

def halosOf (s : State) (h above below : Nat) : Halos := { above := stepTensor s h above, below := stepTensor s h below }

/-- A run of channels from index [c0, x, y, f] of a map on. -/
def mapRun (d : DescWord) (c0 x y f : Nat) (vals : List Val) : Nat × List Val :=
  (c0 + dSize d 0 * (x + dSize d 1 * (y + dSize d 2 * f)), vals)

/-- Channels of the groups that a window word names, group by group. -/
def groupsOf (w : WWord) (channels : Nat) : List (List Nat) :=
  (List.range (wGn w + 1)).map fun g => ((List.range 128).map (128 * (wG0 w + g) + ·)).filter (· < channels)

/-- What a window stitch writes: runs of consecutive elements, the finite inputs that widening made infinite and the boxes that
are not numbers, the empty windows or outside samples, the boxes that receive FILL. -/
structure WinOut where
  runs : List (Nat × List Val) := []
  made : Nat := 0
  marks : Nat := 0
  filled : Nat := 0

def WinOut.add (a b : WinOut) : WinOut :=
  { runs := a.runs ++ b.runs, made := a.made + b.made, marks := a.marks + b.marks, filled := a.filled + b.filled }

/-- One output position of a pooling stitch. Each tap that is widened counts by itself (log 127). -/
def poolAt (s : State) (w : WWord) (src : Tensor) (halos : Halos) (d : DescWord) (t : Nat) : WinOut :=
  let o := tokenPos w t
  let gs := (groupsOf w (dSize src.d 0)).map fun cs => (cs.headD 0, cs.map fun ch => poolTaps s w src halos o ch)
  let one (taps : List (Option Val)) := poolOne (wOp w == 3) (wCntPad w) (taps.map fun v => v.map (widenF (dFmt src.d)))
  { runs := gs.map fun g => mapRun d g.1 o.2 o.1 (wImg w) (g.2.map fun x => f32 (one x).1)
    made := (gs.flatMap fun g => g.2.map fun x => widenMade (dFmt src.d) (x.filterMap id)).foldl (· + ·) 0
    marks := b2n (((gs.headD (0, [])).2).any fun x => (one x).2) }

/-- The number of boxes, and whether the register that the stitch read at its start exceeds the list (R288). -/
def boxCount (w : WWord) (reg : W64) (boxes : Tensor) : Nat × Bool :=
  let cap := dSize boxes.d 1
  if wBoxDyn w then (min cap reg.toNat, decide (cap < reg.toNat)) else (cap, false)

/-- One box of a crop-and-resize stitch (R289 to R291). -/
def cropBox (s : State) (w : WWord) (src dst boxes : Tensor) (b : Nat) : WinOut :=
  let box := readBox s boxes b
  let gs := groupsOf w (dSize src.d 0)
  let grid := (List.range (wRh w + 1)).flatMap fun i => (List.range (wRw w + 1)).map fun j => (i, j)
  let at' (p : Nat × Nat) (f : Nat → Val) : List (Nat × List Val) := gs.map fun cs => mapRun dst.d (cs.headD 0) p.2 p.1 b (cs.map f)
  if dSize src.d 3 ≤ box.image then { runs := grid.flatMap fun p => at' p fun _ => fillVal dst, filled := 1 }
  else if !([box.y1, box.x1, box.y2, box.x2].all fFinite) then { runs := grid.flatMap fun p => at' p fun _ => .nan, made := 1 }
  else
    let n := dSize src.d 2
    let wd := dSize src.d 1
    grid.foldl (fun (a : WinOut) p =>
      let y := samplePos (wAlign w) (wRh w) p.1 box.y1 box.y2
      let x := samplePos (wAlign w) (wRw w) p.2 box.x1 box.x2
      let v (ch yy xx : Nat) : Val := src.value s [ch, xx, yy, box.image, 0, 0]
      if insideF y n && insideF x wd then
        let (y0, y1, x0, x1) := cornersOf y x n wd
        WinOut.add a
          { runs := at' p fun ch => f32 (resample (fun yy xx => widenF (dFmt src.d) (v ch yy xx)) y x n wd)
            made := (gs.flatMap fun cs => cs.map fun ch => widenMade (dFmt src.d) [v ch y0 x0, v ch y0 x1, v ch y1 x0, v ch y1 x1]).foldl (· + ·) 0 }
      else WinOut.add a { runs := at' p fun _ => fillVal dst, marks := 1 }) {}

/-- Everything that a pooling stitch writes. -/
def poolOut (s : State) (w : WWord) (src : Tensor) (halos : Halos) (dst : Tensor) : WinOut :=
  (List.range (rectTokens w)).foldl (fun a t => WinOut.add a (poolAt s w src halos dst.d t)) {}

/-- Everything that a crop-and-resize stitch writes, for a number of boxes. -/
def cropOut (s : State) (w : WWord) (src dst boxes : Tensor) (n : Nat) : WinOut :=
  (((List.range (wOc w + 1)).map (wImg w + ·)).filter (· < n)).foldl (fun a b => WinOut.add a (cropBox s w src dst boxes b)) {}

/-- Write some runs of a window stitch's output, drawing by element (R209). A computed F4S tensor scale is that of the whole output
where it is the whole tensor; a stitch that writes a part of its tensor stores under the scale that stands in the header (R135;
DESIGN CHOICE, log 137). -/
def putWindow (h cvt : Nat) (dst : Tensor) (o : WinOut) (part : List (Nat × List Val)) (s : State) : State × List StoreBlk :=
  let s := protectTensor h dst s
  let runs : List StoreRun := part.map fun r => (r.1, if cvtRound cvt = .sr then stepHalves s h dst r.1 r.2.length else [], r.2)
  if decide (dCount dst.d ≤ (o.runs.map fun r => r.2.length).sum) then dst.storeAs s 0x00 cvt (maxMag (o.runs.flatMap (·.2))) runs
  else dst.storeWith s 0x00 cvt (dst.tscale s) runs

/-- What the window stitch of a lane writes, and where; none for an empty output. -/
def windowOut (s : State) (h c l : Nat) (x : WindowStitch) : Option (Tensor × WinOut) :=
  match stepWindow s h x.window, stepTensor s h x.src, stepTensor s h x.dst with
  | some w, some src, some dst =>
    if wOp w = 4 then (stepTensor s h x.box).map fun b => (dst, cropOut s w src dst b (boxCount w (laneOf s c l).box b).1)
    else if outEmpty w src.d then none
    else some (dst, poolOut s w src (halosOf s h x.haloAbove x.haloBelow) dst)
  | _, _, _ => none

/-- The writes of a cut window stitch that have landed stay: whole runs in order, how many a free value says (R173, R283;
log 124). -/
def cutWindow (h c l : Nat) (x : WindowStitch) (s : State) : State :=
  match windowOut s h c l x with
  | none => s
  | some (dst, o) =>
    let f := takeFree s
    (putWindow h x.cvt.toNat dst o (o.runs.take (f.1.toNat % (o.runs.length + 1))) f.2).1

end Sys2Proof.Machine
end

