-- ==== Sys2Proof/Machine/Pairs.lean ====
section
/-!
DEFINITION. The visited pairs of attention walks (R293 to R308): the keys that a walk reads, the staging area, and the forward and
backward work of a pair.
-/
namespace Sys2Proof.Machine

/-! ## Keys of a walk -/

def stepAttn (s : State) (h b : Nat) : Option AWord := match stepBinding s h b with | some (.attn a) => some a | _ => none
def stepMask (s : State) (h b : Nat) : Option MaskWord := match stepBinding s h b with | some (.mask m) => some m | _ => none

/-- Row r, position d of a dense tensor whose dimension 0 is the head width. -/
def rowCode (s : State) (t : Tensor) (r d : Nat) : Nat := t.readCode s (offsetOf t.d (indexOf t.d (d + dSize t.d 0 * r)))
def rowVal (s : State) (t : Tensor) (r d : Nat) : Val := t.value s (indexOf t.d (d + dSize t.d 0 * r))

/-- KSTART and KLEN of a rank (R310). -/
def ringChunk (q : Peloton) (r : Nat) : Nat × Nat := (fld (q.shards.getD r 0) 159 128, fld (q.shards.getD r 0) 127 96)

/-- The rank whose chunk a member visits at a hop. -/
def ringOrigin (q : Peloton) (hop : Nat) : Nat := (pelRank q + pelN q - hop % pelN q) % pelN q

/-- Keys in a received chunk: rows of K, then rows of V, each in its own format. -/
def chunkKeys (kf vf dh count : Nat) (koff : Int) (bs : List Byte) : Keys :=
  let at' (f off j d : Nat) : Nat := leNat ((bs.drop (off + (j * dh + d) * kvWidth f)).take (kvWidth f))
  { kcode := at' kf 0, vcode := at' vf (count * dh * kvWidth kf), kfmt := kf, vfmt := vf, count := count, koff := koff }

/-- The sequence that a walk of SRC 2 reads: space, block table, length. They are those of the step's admission (R48, R300); a
sequence that the step appends to has its staged length, and its block table names the copy of a shared page once the first
append has made it (R322, R323). -/
def walkSeq (s : State) (h : Nat) (a : AWord) : Option (KvSpace × List Nat × Nat) :=
  match seqBinding (stepBinding s h (aSeq a)), getStep s h with
  | some (sp, sq), some st =>
    match getSpace s (handlePart h) sp with
    | none => none
    | some kv => (tget? kv.seqs sq).map fun q =>
        let old := match st.views.find? fun v => v.space == sp && v.seq == sq with
          | some v => (v.table, v.length)
          | none => (q.table, q.length)
        match stageOf st sp sq with
        | some g => (kv, if g.copied then g.table else old.1 ++ g.table.drop old.1.length, old.2 + g.tokens)
        | none => (kv, old.1, old.2)
  | _, _ => none

/-! ## The staging area (R297, R303, R310) -/

/-- A row of a walk: m, ls, lc and O (R301), or LSE, Dr, +0 and dQ (R306). -/
abbrev WRow := W32 × W32 × W32 × List W32

/-- Write bytes of the staging area from a byte on, up to its end. -/
def putStageBytes (s : State) (h : Nat) (a : AWord) (off room : Nat) (bs : List Byte) : State :=
  match stepTensor s h (aStage a) with
  | some t => s.write t.space (dAddr t.d + off) (bs.take (min room (dCapacity t.d - off)))
  | none => s

def stageRead (s : State) (h : Nat) (a : AWord) (off n : Nat) : List Byte :=
  match stepTensor s h (aStage a) with
  | some t => s.read t.space (dAddr t.d + off) n
  | none => []

/-- Bytes of one copy of the rows, of the probability tile, and of a key block or a value block in B_STAGE, which lie one after
another (R303; log 128). -/
def stageCopy (a : AWord) : Nat := (aQrows a + 1) * (aDh a + 4) * 4
def stageTile (a : AWord) : Nat := (aQrows a + 1) * 128 * 2
def stageBlock (a : AWord) (w : Nat) : Nat := 128 * (aDh a + 1) * w
def stageEnd (a : AWord) (w : Nat) : Nat := 2 * stageCopy a + stageTile a + 4 * stageBlock a w

/-- Rows of a walk as the bytes of a copy: m, ls, lc, then o of each row; a backward walk's LSE, Dr, +0, then dQ. -/
def rowsBytes (rows : List WRow) : List Byte :=
  rows.flatMap fun r => ([r.1, r.2.1, r.2.2.1] ++ r.2.2.2).flatMap fun (v : W32) => leBytes 4 v.toNat

/-- The chunk slot of a hop: its first byte in B_STAGE and its bytes (R310; log 128). -/
def chunkSlot (s : State) (h : Nat) (a : AWord) (w hop : Nat) : Nat × Nat :=
  let n := (((stepTensor s h (aStage a)).map fun t => dCapacity t.d).getD 0 - stageEnd a w) / 2
  (stageEnd a w + hop % 2 * n, n)

/-- A ring chunk in the chunk slot of its hop (R310). -/
def stageChunk (h : Nat) (a : AWord) (w hop : Nat) (bs : List Byte) (s : State) : State :=
  let slot := chunkSlot s h a w hop
  putStageBytes s h a slot.1 slot.2 bs

/-- The keys that a walk visits at its present hop. -/
def walkKeys (s : State) (h : Nat) (a : AWord) (m : MaskWord) (x : Walk) : Option Keys :=
  let dense (count : Nat) (koff : Int) : Option Keys :=
    match stepTensor s h (aK a), stepTensor s h (aV a) with
    | some k, some v => some { kcode := rowCode s k, vcode := rowCode s v, kfmt := dFmt k.d, vfmt := dFmt v.d, count := count, koff := koff }
    | _, _ => none
  let paged (count : Option Nat) (koff : Int) : Option Keys := (walkSeq s h a).map fun r =>
    let at' (part j d : Nat) : Nat := kvCode s r.1 r.2.1 (aLayer a) part (aHead a) j d
    { kcode := at' 0, vcode := at' 1, kfmt := r.1.format, vfmt := r.1.format, count := count.getD r.2.2, koff := koff }
  if aRing a ≠ 0xFFFF then
    match getPel s (handlePart h) (aRing a) with
    | none => none
    | some q =>
      let o := ringChunk q (ringOrigin q x.hop)
      let own := if aSrc a = 2 then paged (some o.2) o.1 else dense o.2 o.1
      if x.hop = 0 then own
      else match x.chunk, own with
        | some bs, some k =>
          -- the chunk stands in its slot of B_STAGE where that holds it
          let slot := chunkSlot s h a (kvWidth k.kfmt) x.hop
          let bs := if bs.length ≤ slot.2 then stageRead s h a slot.1 bs.length else bs
          some (chunkKeys k.kfmt k.vfmt (aDh a + 1) o.2 o.1 bs)
        | _, _ => none
  else if aSrc a = 2 then paged none (kKoff m)
  else match stepTensor s h (aK a) with
    | some k => dense (dRows k.d) (kKoff m)
    | none => none

/-- Class of key block kb for a walk of n query rows (R299). -/
def blockSkipped (m : MaskWord) (n : Nat) (ks : Keys) (kb : Nat) : Bool :=
  let js := blockKeys ks.count kb
  js.isEmpty || pairSkipped m (kQoff m) (kQoff m + (n - 1 : Nat)) (ks.koff + (128 * kb : Nat)) (ks.koff + (js.getLastD 0 : Nat))

def blockFull (m : MaskWord) (n : Nat) (ks : Keys) (kb : Nat) : Bool :=
  let js := blockKeys ks.count kb
  pairFull m (kQoff m) (kQoff m + (n - 1 : Nat)) (ks.koff + (128 * kb : Nat)) (ks.koff + (js.getLastD 0 : Nat))

def keyBlocksOf (ks : Keys) : Nat := (ks.count + 127) / 128

/-! ## The work of a pair -/

/-- A finite value that FP32 does not hold (R140). -/
def widensAway (v : Val) : Bool := v.isFin && !fFinite (toF32 v)

/-- The rows of a walk at its start: R301's, or LSE and Dr with a zero dQ (R306); the count is of elements that widening makes
non-finite (R140) and of sums Dr that are non-finite although their products are finite (R184). -/
def startRows (s : State) (h : Nat) (a : AWord) (n : Nat) : List WRow × Nat :=
  let zero := List.replicate (aDh a + 1) (0 : W32)
  if !aDir a then (List.replicate n (negInf, 0, 0, zero), 0)
  else match stepTensor s h (aO a), stepTensor s h (aDo a), stepTensor s h (aStats a) with
    | some o, some d, some st =>
      let rs := (List.range n).map fun r =>
        let ps := (List.range (aDh a + 1)).map fun i => fmul (toF32 (rowVal s d r i)) (toF32 (rowVal s o r i))
        let dr := csumResult (csumRow ps)
        let wide := (List.range (aDh a + 1)).filter fun i => widensAway (rowVal s d r i) || widensAway (rowVal s o r i)
        ((toF32 (rowVal s st r 3), dr, (0 : W32), zero), wide.length + b2n (ps.all fFinite && !fFinite dr))
      (rs.map Prod.fst, (rs.map Prod.snd).sum)
    | _, _, _ => ([], 0)

/-- What a pair leaves: the rows, the codes of its probability tile by row, the narrowing counts, and for a backward walk the
block's sums for dK and dV by key position. -/
structure PairOut where
  rows : List WRow
  tile : List (List Nat)
  cnt : Cnt
  dk : List (Nat × List W32) := []
  dv : List (Nat × List W32) := []

/-- A forward pair (R301). -/
def forwardPair (s : State) (a : AWord) (m : MaskWord) (ks : Keys) (q : Tensor) (kb : Nat) (rows : List WRow) : PairOut :=
  let js := blockKeys ks.count kb
  let full := blockFull m rows.length ks kb
  let rs := ((List.range rows.length).zip rows).map fun e =>
    let xs := rowScores a m ks (dFmt q.d) (rowVal s q e.1) (kQoff m + (e.1 : Nat)) full js
    forwardRow a ks js xs { m := e.2.1, ls := e.2.2.1, lc := e.2.2.2.1, o := e.2.2.2.2 }
  { rows := rs.map fun r => (r.1.m, r.1.ls, r.1.lc, r.1.o), tile := rs.map (·.2.1), cnt := cntSum (rs.map (·.2.2)) }

/-- A backward pair (R306, R308): the rows with their new dQ, and the block's sums for dK and dV by key position. -/
def backwardPair (s : State) (a : AWord) (m : MaskWord) (ks : Keys) (q d : Tensor) (kb : Nat) (rows : List WRow) : PairOut :=
  let js := blockKeys ks.count kb
  let full := blockFull m rows.length ks kb
  let dims := List.range (aDh a + 1)
  let per := ((List.range rows.length).zip rows).map fun e =>
    let xs := rowScores a m ks (dFmt q.d) (rowVal s q e.1) (kQoff m + (e.1 : Nat)) full js
    let dp := js.map fun j => dotArray ks.vfmt (dFmt d.d) (dims.map (rowVal s d e.1)) (dims.map (ks.v j))
    (e, backwardRow a xs e.2.1 e.2.2.1 dp)
  let pv (e : (Nat × WRow) × List (Nat × Cnt) × List (Nat × Cnt)) : List Val := e.2.1.map fun p => codeVal (aPfmt a) p.1
  let dsv (e : (Nat × WRow) × List (Nat × Cnt) × List (Nat × Cnt)) : List Val := e.2.2.map fun p => codeVal (aDsfmt a) p.1
  let rows' := per.map fun e =>
    let dq := dims.map fun i => fadd (e.1.2.2.2.2.getD i 0) (dotArray ks.kfmt (aDsfmt a) (dsv e) (js.map fun j => ks.k j i))
    (e.1.2.1, e.1.2.2.1, e.1.2.2.2.1, dq)
  let idx := (List.range js.length).zip js
  { rows := rows', tile := per.map fun e => e.2.1.map Prod.fst
    cnt := cntSum (per.flatMap fun e => (e.2.1 ++ e.2.2).map Prod.snd)
    dk := idx.map fun j => (j.2, dims.map fun i =>
      dotArray (dFmt q.d) (aDsfmt a) (per.map fun e => (dsv e).getD j.1 .zero) (per.map fun e => rowVal s q e.1.1 i))
    dv := idx.map fun j => (j.2, dims.map fun i =>
      dotArray (dFmt d.d) (aPfmt a) (per.map fun e => (pv e).getD j.1 .zero) (per.map fun e => rowVal s d e.1.1 i)) }

/-! ## A pair in the staging area (R297, R303, R308) -/

/-- Keys of some positions, then their values, in their formats' bytes. -/
def keyBytes (a : AWord) (ks : Keys) (js : List Nat) : List Byte × List Byte :=
  let rows (f : Nat) (code : Nat → Nat → Nat) : List Byte :=
    js.flatMap fun j => (List.range (aDh a + 1)).flatMap fun d => leBytes (kvWidth f) (code j d)
  (rows ks.kfmt ks.kcode, rows ks.vfmt ks.vcode)

/-- Where the key and value buffers of a pair begin, and the bytes of one. -/
def blockAt (a : AWord) (ks : Keys) (pair : Nat) : Nat × Nat :=
  let n := stageBlock a (kvWidth ks.kfmt)
  (2 * stageCopy a + stageTile a + pair % 2 * (2 * n), n)

/-- The core mover fetches a key block and its value block into the buffers of a pair (R297). -/
def stageKeys (h : Nat) (a : AWord) (ks : Keys) (pair kb : Nat) (s : State) : State :=
  let at' := blockAt a ks pair
  let b := keyBytes a ks (blockKeys ks.count kb)
  putStageBytes (putStageBytes s h a at'.1 at'.2 b.1) h a (at'.1 + at'.2) at'.2 b.2

/-- The keys that a pair computes from: for SRC 1 and SRC 2 those that its buffers hold (R297). Values of a wider format than
the keys', for which R303 gives the buffers no room, are read at their source. -/
def stagedKeys (s : State) (h : Nat) (a : AWord) (ks : Keys) (pair kb : Nat) : Keys :=
  if aSrc a = 0 then ks else
    let at' := blockAt a ks pair
    let bs := stageRead s h a at'.1 (2 * at'.2)
    let code (off w j d : Nat) : Nat := leNat ((bs.drop (off + ((j - 128 * kb) * (aDh a + 1) + d) * w)).take w)
    { ks with
      kcode := code 0 (kvWidth ks.kfmt)
      vcode := if kvWidth ks.vfmt ≤ kvWidth ks.kfmt then code at'.2 (kvWidth ks.vfmt) else ks.vcode }

/-- The rows that pair number k reads: copy k mod 2 (R303, R308). -/
def stagedRows (s : State) (h : Nat) (a : AWord) (pair n : Nat) : List WRow :=
  let bs := stageRead s h a (pair % 2 * stageCopy a) (stageCopy a)
  let word (r i : Nat) : W32 := w32 (leNat ((bs.drop (4 * (r * (aDh a + 4) + i))).take 4))
  (List.range n).map fun r => (word r 0, word r 1, word r 2, (List.range (aDh a + 1)).map fun d => word r (3 + d))

/-- Array and vector stitches that the sequencer generates for a visited pair: the score stitch, the vector stitch and the output
stitch; for a backward walk the score stitch, that of dO and V, the vector stitch, and those of dV, dK and dQ (R293; log 128). -/
def pairStitches (a : AWord) : Nat := if aDir a then 6 else 3

/-- Which of them is the vector stitch. -/
def vectorPhase (a : AWord) : Nat := if aDir a then 2 else 1

/-- The bytes that a pair's vector stitch writes: the first three words of each row, and the probability tile. -/
def headBytes (o : PairOut) : List (List Byte) := o.rows.map fun r => [r.1, r.2.1, r.2.2.1].flatMap fun (v : W32) => leBytes 4 v.toNat
def tileBytes (o : PairOut) : List Byte := o.tile.flatMap fun r => (List.range 128).flatMap fun j => leBytes 2 (r.getD j 0)

/-- Rows' words from word i on go to copy (k + 1) mod 2 of B_STAGE (R303). -/
def stageRows (h : Nat) (a : AWord) (pair i : Nat) (rows : List (List Byte)) (s : State) : State :=
  ((List.range rows.length).zip rows).foldl (fun s r =>
    putStageBytes s h a ((pair + 1) % 2 * stageCopy a + 4 * (r.1 * (aDh a + 4) + i)) (4 * (aDh a + 4)) r.2) s

/-- What a pair's vector stitch leaves in B_STAGE. -/
def stageVector (h : Nat) (a : AWord) (pair : Nat) (o : PairOut) (s : State) : State :=
  putStageBytes (stageRows h a pair 0 (headBytes o) s) h a (2 * stageCopy a) (stageTile a) (tileBytes o)

/-- What a pair's last stitch leaves there: O, or dQ. -/
def stageSums (h : Nat) (a : AWord) (pair : Nat) (o : PairOut) (s : State) : State :=
  stageRows h a pair 3 (o.rows.map fun r => r.2.2.2.flatMap fun v => leBytes 4 v.toNat) s

/-- Everything that a pair makes of the copy of the rows and the keys that it reads. -/
def pairOut (s : State) (h : Nat) (a : AWord) (m : MaskWord) (ks : Keys) (q : Tensor) (kb pair : Nat) : Option PairOut :=
  let ks := stagedKeys s h a ks pair kb
  let rows := stagedRows s h a pair (dRows q.d)
  if aDir a then (stepTensor s h (aDo a)).map fun d => backwardPair s a m ks q d kb rows
  else some (forwardPair s a m ks q kb rows)

/-- The key blocks that a walk has still to pass at its present hop: those skipped first, and the rest from the next visited one
on. -/
def blocksAhead (m : MaskWord) (rows : Nat) (ks : Keys) (x : Walk) : List Nat × List Nat :=
  ((List.range (keyBlocksOf ks)).filter fun kb => decide (x.next ≤ kb)).span (blockSkipped m rows ks)

/-- The vector stitch of a walk is cut: writes of it that have landed stay, how many a free value says (R173, R293; log 124). -/
def cutWalk (h c l b : Nat) (s : State) : State :=
  let x := tget (coreOf s c).walk l {}
  match stepAttn s h b with
  | none => s
  | some a =>
    match stepMask s h (aMask a), stepTensor s h (aQ a) with
    | some m, some q =>
      if !x.begun || x.phase ≠ vectorPhase a then s else
        match (walkKeys s h a m x).bind fun ks => (blocksAhead m (dRows q.d) ks x).2.head?.bind fun kb => pairOut s h a m ks q kb x.pair with
        | none => s
        | some o =>
          let f := takeFree s
          let g := takeFree f.2
          let t := tileBytes o
          putStageBytes (stageRows h a x.pair 0 ((headBytes o).take (f.1.toNat % (o.rows.length + 1))) g.2) h a
            (2 * stageCopy a) (stageTile a) (t.take (g.1.toNat % (t.length + 1)))
    | _, _ => s

/-! ## Pages that a walk reaches (R300, R333, R369) -/

/-- Pages of the unified range that a visited block's keys and values lie on: those of its rows, or of its KV page (R300,
R333). -/
def blockPages (s : State) (h : Nat) (a : AWord) (x : Walk) (ks : Keys) (kb : Nat) : List Nat :=
  if x.hop ≠ 0 || aSrc a = 0 then []
  else if aSrc a = 1 then ([aK a, aV a].flatMap fun b => match stepTensor s h b with
    | some t => (blockKeys ks.count kb).flatMap fun j =>
        pagesOf (dAddr t.d + offsetOf t.d (indexOf t.d (dSize t.d 0 * j)) * fmtBits (dFmt t.d) / 8) ((aDh a + 1) * kvWidth (dFmt t.d))
    | none => []).eraseDups
  else match walkSeq s h a with
    | some r => pagesOf (kvAddr r.1 (r.2.1.getD (kb / 2) 0)) (kvPageBytes r.1)
    | none => []

/-- A lost KV page that a visited block's keys and values lie on: space, page id, tier page (R333). -/
def blockLost (s : State) (h : Nat) (a : AWord) (kb : Nat) : Option (Nat × Nat × Nat) :=
  if aSrc a ≠ 2 then none else
    match seqBinding (stepBinding s h (aSeq a)), walkSeq s h a with
    | some (sp, _), some r => (lostPage r.1 [r.2.1.getD (kb / 2) 0]).map fun id => (sp, id, kvAddr r.1 id / pageSize)
    | _, _ => none

end Sys2Proof.Machine
end

