-- ==== Sys2Proof/Machine/Lanes.lean ====
section
/-!
DEFINITION. The lanes of a core: which entry of its stitch list a lane stands at, how it goes on, the weight registers, and
what a stop does at a stitch boundary (R34 to R36, R91, R156 to R158, R171, R173, R174, R253, R516, R522, R523).
-/
namespace Sys2Proof.Machine

/-- The engine that a stitch takes: the vector engine, or the array with its feeder. -/
def onVector (e : Entry) : Bool := match e.op with | .vector _ => true | _ => false

/-- The resident rows that an array stitch of ACC 2 or 3 writes: the first and how many (R163). -/
def residentRows (e : Entry) : Option (Nat × Nat) :=
  match e.op with
  | .array a => if 2 ≤ fld a.mode 33 32 then some (a.firstRow, a.tokens) else none
  | _ => none

def rowsMeet (a b : Option (Nat × Nat)) : Bool :=
  match a, b with
  | some x, some y => decide (x.1 < y.1 + y.2) && decide (y.1 < x.1 + x.2)
  | _, _ => false

/-- Accumulator rows of the core that a stitch writes, and whether it makes them resident. -/
def rowsWritten (s : State) (h c : Nat) (e : Entry) : List Nat × Bool :=
  let dests (is : List Nat) : List Nat := is.flatMap fun i => match stepTensor s h i with
    | some t => if dSpace t.d = 2 && t.core == c then rowsIn c (writeSpans t) else []
    | none => []
  match e.op with
  | .array a => ((List.range a.tokens).map (a.firstRow + ·), (residentRows e).isSome)
  | .vector is => (dests ((is.filter fun w => vVop w != 0x70).map vDst), false)
  | .window w => (dests [w.dst], false)
  | _ => ([], false)

/-- Two stitches write one row that is resident or that one of them makes so. -/
def shareRow (s : State) (h c : Nat) (a b : Entry) : Bool :=
  let x := rowsWritten s h c a
  let y := rowsWritten s h c b
  x.1.any fun r => y.1.contains r && (x.2 || y.2 || (coreOf s c).resident.contains r)

/-- In deterministic-order mode a stitch waits for the stitches of lower lanes that write its resident rows (R165, R213). -/
def orderHeld (s : State) (c l : Nat) (e : Entry) : Bool :=
  match (coreOf s c).step, (coreOf s c).step.bind (getStep s) with
  | some h, some st =>
    let es := coreList s c
    st.det && (coreOf s c).lanes.any fun q => decide (q.1 < l) && !q.2.finished &&
      (List.range es.length).any fun i => decide (q.2.next ≤ i) && match es[i]? with
        | some k => k.lane == q.1 && shareRow s h c k e
        | none => false
  | _, _ => false

/-- A sequencer runs one array stitch and one vector stitch at once, and only a marked pair overlaps (R254). -/
def mayStart (s : State) (c n : Nat) (e : Entry) : Bool :=
  !orderHeld s c e.lane e && (coreOf s c).lanes.all fun q => !q.2.started || match (coreList s c)[q.2.next]? with
    | some k => onVector k != onVector e && (k.pair == some n || e.pair == some q.2.next)
    | none => true

/-- A stop of the core is pending and no window holds it off. -/
def stopDue (x : Core) : Bool := x.stop.isSome && x.npOpen.isNone

/-! ## Codec calls (R378, R409, R410) -/

/-- The encode calls of a binding table, in binding order. -/
def encodeCalls (t : List Binding) : List Nat :=
  (List.range t.length).filter fun i => match t[i]? with
    | some (.act w) => !awDecode w
    | _ => false

/-- The descriptor that a binding of a step names; all zeros where it names none. -/
def stepDesc (s : State) (h i : Nat) : DescWord := match stepBinding s h i with | some (.desc d) => d | _ => 0

/-- The first call number that a partition does not use. -/
def nextAct (x : Partition) : Nat := (x.calls.map Prod.fst).foldl (fun m k => max m (k + 1)) 0

/-- Issue the activation call of a binding. A replay whose scratch destinations leave its destination out only completes it. -/
def issueAct (h c b : Nat) (w : ActWord) (s : State) : State :=
  match getPart s (handlePart h), getStep s h, stepPattern s h with
  | some x, some st, some pat =>
    let t := if st.table.isEmpty then pat.bindings else st.table
    let spill := match st.spills[(encodeCalls t).findIdx (· == b)]? with
      | some v => if awDecode w || v.2.2 = 0 then 0 else v.2.1 + ((tget? x.sessions v.1).map (·.spillBase)).getD 0
      | none => 0
    let dst := stepDesc s h (awDst w)
    let dry := match st.replayOf with
      | some r => !(r.outs.any fun o => dAddr o == dAddr dst)
      | none => false
    let call : ActCall :=
      { word := w, src := stepDesc s h (awSrc w), dst := dst, ref := stepDesc s h (awRef w), bound := stepDesc s h (awBound w), session := awSession w, step := some h, core := c, spill := spill, dry := dry }
    startWait (handlePart h) (awSession w) (modPart (handlePart h) (fun x => { x with calls := tset x.calls (nextAct x) call }) s)
  | _, _, _ => s

/-- A picture enters an encode session's queue. -/
def queueFrame (p n buffer : Nat) (time : W64) (force : Bool) (s : State) : State :=
  startWait p n (modSession p n (fun e => { e with frames := e.frames ++ [(buffer, time, force)] }) s)

/-- A picture that a pattern hands to an encode session, with the operands of CODEC_ENC_FRAME as words: session, buffer,
TIMESTAMP, force IRAP. None while sixteen wait (R417). What the command would refuse (a session of another kind, a frame buffer
that is not the partition's) is not queued (log 154). -/
def issueFrame (h : Nat) (ws : List W32) (s : State) : Option State :=
  let p := handlePart h
  let n := (ws.getD 0 0).toNat
  let buf := (ws.getD 1 0).toNat + 2 ^ 32 * (ws.getD 2 0).toNat
  match getSession s p n with
  | none => some s
  | some e =>
    if e.kind != 2 || !pagesOwned s p buf (frameSize e) then some s
    else if 16 ≤ e.frames.length then none
    else some (queueFrame p n buf (w64 ((ws.getD 3 0).toNat + 2 ^ 32 * (ws.getD 4 0).toNat)) (ws.getD 5 0 != 0) s)

/-! ## Weight registers (R91, R141, R156 to R158) -/

/-- The feeder of an array stitch for an activation and a weight tensor; none for a convolution whose output is empty. -/
def arrayFeed (s : State) (h : Nat) (a : ArrayStitch) (act wt : Tensor) : Option (Feed × Nat) :=
  if mFeed a.mode = 1 then
    match stepWindow s h a.window with
    | none => none
    | some w => if outEmpty w act.d then none else some (convFeed s a.mode w act wt (halosOf s h a.haloAbove a.haloBelow), rectTokens w)
  else some (plainFeed s a.mode act wt, a.tokens)

/-- The feeder of an array stitch over its own tensors, and its weights. -/
def ownFeed (s : State) (h : Nat) (a : ArrayStitch) : Option (Feed × Tensor) :=
  match stepTensor s h a.act, stepTensor s h a.wt with
  | some act, some wt => (arrayFeed s h a act wt).map fun f => (f.1, wt)
  | _, _ => none

/-- The prefetches in flight whose destinations hold some of the spans, for the entry at index n, NEED having come: LAYER and fate of
each (R360, R371). -/
def prefetchesMet (s : State) (h c n : Nat) (reads : List Span) : List (Nat × Option (Nat × W32)) :=
  (coreOf s c).movers.filterMap fun i => match (coreList s c)[i]? with
    | some k => match k.op with
      | .mover _ d _ _ (some f) => if decide (f.need ≤ n) && (match stepTensor s h d with
        | some t => anyMeet reads (writeSpans t)
        | none => false) then some (f.layer, k.fate) else none
      | _ => none
    | none => none

def prefetchMeets (s : State) (h c n : Nat) (reads : List Span) : Bool := !(prefetchesMet s h c n reads).isEmpty

/-- Add to the figures of a TENSOR_ID under a fate. -/
def addResidency (c : Nat) (r : Residency) (s : State) : State :=
  modCore c (fun x =>
    if x.residency.any (fun q => q.tensor == r.tensor && q.fate == r.fate) then
      { x with residency := x.residency.map fun q => if q.tensor == r.tensor && q.fate == r.fate then
          { q with produced := q.produced + r.produced, stored := q.stored + r.stored, bytesOut := q.bytesOut + r.bytesOut,
                   bytesIn := q.bytesIn + r.bytesIn, tier := max q.tier r.tier, workNs := q.workNs + r.workNs, stall := q.stall + r.stall } else q }
    else { x with residency := x.residency ++ [r] }) s

/-- Cycles at a ready fence count in its counter, for the layers of the prefetches that it waits for, and for their tensors (R360,
R361, R371). -/
def fenceStall (c counter waited : Nat) (met : List (Nat × Option (Nat × W32))) (s : State) : State :=
  let s := coreEvent c counter waited s
  let s := modCore c (fun x => { x with layerWaits := (met.map Prod.fst).eraseDups.foldl (fun t k => tmod t k 0 (· + waited)) x.layerWaits }) s
  (met.filterMap Prod.snd).eraseDups.foldl (fun s f => addResidency c { tensor := f.2, fate := f.1, stall := waited } s) s

/-- The weights of the array stitch at index n stand in the active registers: with SWAP 1, or where nothing usable is held,
those of its first pass are loaded from their source (R158), unless arming has loaded them; with SWAP 0 the registers stay as
they are (log 121). The shadow registers take the next pass's (R156). -/
def loadWeights (h c n : Nat) (a : ArrayStitch) (s : State) : State :=
  match ownFeed s h a with
  | none => modCore c (fun x => { x with weights := some n, fenced := false }) s
  | some (f, wt) =>
    modCore c (fun x =>
      let keep := x.weights == some n || (!mSwap a.mode && !x.active.isEmpty)
      { x with weights := some n, fenced := false, pass := 0, active := if keep then x.active else passRegs s wt f 0
               shadow := if 1 < f.passes then passRegs s wt f 1 else []
               shadowFor := if 1 < f.passes then some (n, 1) else none }) s

/-- The weights in T0 that an array stitch loads; none where its output is empty (R261, R264, R628). -/
def weightSpans (s : State) (h : Nat) (a : ArrayStitch) : List Span :=
  if (ownFeed s h a).isNone then [] else
    colSpans (stepTensor s h) a.wt (if mFeed a.mode = 1 then firstColumn (stepWindow s h a.window) else 0) (mCols a.mode + 1)

/-- The start of an array stitch: it waits on the weight-ready fence while a prefetch of its weights is in flight (R157,
R360). -/
def startWeights (h c n : Nat) (a : ArrayStitch) (s : State) : State :=
  if prefetchMeets s h c n (weightSpans s h a) then modCore c (fun x => { x with fenced := true }) s else loadWeights h c n a s

/-- What a stitch takes at its start: its first weights, or the box count of a crop-and-resize stitch (R288). -/
def startStitch (c l n : Nat) (e : Entry) (s : State) : State :=
  match e.op, (coreOf s c).step with
  | .array a, some h => startWeights h c n a s
  | .window x, some h => match stepWindow s h x.window with
    | some w => modLane c l (fun a => { a with box := sreg s c (wBoxSreg w) }) s
    | none => s
  | _, _ => s

/-- Nothing usable is left in the weight registers (R158). -/
def dropWeights (x : Core) : Core :=
  { x with weights := none, pass := 0, active := [], shadow := [], shadowFor := none, fenced := false }

/-- A stitch that begins at an index opens the NP window that starts there (R522). -/
def openWindow (c n : Nat) (s : State) : State :=
  match windowAt s c n false with
  | some w => modCore c (fun x => { x with npOpen := some w }) s
  | none => s

/-- The stem engine begins the stitch at the head of its queue: an NP window that starts with it opens (R275, R522). -/
def openStem (d : Nat) (s : State) : State :=
  match (cdOf s d).stem with
  | [] => s
  | (c, l) :: _ => match laneEntry s c l with
    | some (n, _) => if (coreOf s c).npOpen.isNone then openWindow c n s else s
    | none => s

/-- Go to the entry at index n: issue core-mover transfers while fewer than sixteen are in flight (R354) and codec calls, queue a stem
stitch while the die's queue has room and holds none of the core (R275), start a stitch. -/
def settleLane (c l : Nat) : Nat → State → State
  | 0, s => s
  | fuel + 1, s =>
    let x := coreOf s c
    let es := coreList s c
    let n := nextEntry es l (laneOf s c l).next
    let s := modLane c l (fun a => { a with next := n }) s
    match es[n]? with
    | none => modLane c l (fun a => { a with finished := true, started := false }) s
    | some e =>
      if stopDue x then s else
        match e.op with
        | .mover _ _ _ _ _ =>
          if x.movers.length < 16 then
            settleLane c l fuel (modLane c l (fun a => { a with next := n + 1 }) (modCore c (fun x => { x with movers := x.movers ++ [n] }) s))
          else s
        | .codec b =>
          match x.step with
          | none => s
          | some h =>
            let go (s : State) : State := settleLane c l fuel (modLane c l (fun a => { a with next := n + 1 }) s)
            match stepBinding s h b with
            | some (.act w) => go (issueAct h c b w s)
            | some (.words ws) => match issueFrame h ws s with
              | some s => go s
              | none => s
            | _ => go s
        | .stem _ =>
          let q := (cdOf s (dieOfCore c)).stem
          if (laneOf s c l).waitOn.isNone && decide (q.length < 16) && !q.any (fun k => k.1 == c) then
            openStem (dieOfCore c)
              (modCd (dieOfCore c) (fun d => { d with stem := d.stem ++ [(c, l)] }) (modLane c l (fun a => { a with waitOn := some .stem }) s))
          else s
        | _ =>
          if isStitch e && ((laneOf s c l).started || mayStart s c n e) then
            let s := if (laneOf s c l).started then s else startStitch c l n e s
            openWindow c n (modLane c l (fun a => { a with started := true }) s)
          else s

def laneFuel (s : State) (c : Nat) : Nat := (coreList s c).length + 1

/-- Lanes that stand at a stitch which can start now start it. -/
def settleOthers (c l : Nat) (s : State) : State :=
  (tkeys (coreOf s c).lanes).foldl (fun s k =>
    let a := laneOf s c k
    if k = l || a.finished || a.started || a.waitOn.isSome then s else settleLane c k (laneFuel s c) s) s

/-- The stem engine goes on with the head of its queue, and lanes of the die that stand at a stem stitch which now fits the queue
issue it (R275). -/
def wakeStem (d : Nat) (s : State) : State :=
  let s := openStem d s
  (tkeys s.cores.cores).foldl (fun s c => if dieOfCore c = d && !(coreOf s c).saving && !(coreOf s c).restoring then
    (tkeys (coreOf s c).lanes).foldl (fun s l => match laneEntry s c l with
      | some (_, e) => match e.op with
        | .stem _ => if (laneOf s c l).waitOn.isNone && !(laneOf s c l).finished then settleLane c l (laneFuel s c) s else s
        | _ => s
      | none => s) s
    else s) s

/-- The stem engine runs a stitch of the core. -/
def stemRuns (s : State) (c : Nat) : Bool := ((cdOf s (dieOfCore c)).stem.head?.map Prod.fst) == some c

/-- A core's stem stitch leaves the engine or its queue: it is to be issued again, and the next stitch can take its place (R275). -/
def leaveStem (c : Nat) (s : State) : State :=
  let d := dieOfCore c
  if !(cdOf s d).stem.any (fun q => q.1 == c) then s else
    let s := modCore c (fun x => { x with lanes := tmap x.lanes fun _ l => if l.waitOn == some .stem then { l with waitOn := none } else l }) s
    modCd d (fun k => { k with stem := k.stem.filter fun q => q.1 != c }) s

/-- A lane leaves the entry that it stands at. -/
def passEntry (c l : Nat) (s : State) : State :=
  let s := modLane c l (fun a => { a with next := a.next + 1, waitOn := none, started := false }) s
  settleOthers c l (settleLane c l (laneFuel s c) s)

/-- A lane branches to an entry of its list (R251). -/
def jumpEntry (c l n : Nat) (s : State) : State :=
  let s := modLane c l (fun a => { a with next := n, waitOn := none, started := false }) s
  settleOthers c l (settleLane c l (laneFuel s c) s)

def anyStarted (x : Core) : Bool := x.lanes.any fun l => l.2.started

/-- The lanes of a core that a step no longer uses. -/
def idleCore (x : Core) : Core :=
  { dropWeights x with step := none, lanes := [], stop := none, npOpen := none, movers := [], saving := false,
                       restoring := false, walk := [], layerWaits := [], lateLayers := [], sample := none }

def coreIdle (x : Core) : Bool := x.step.isNone && !x.saving && !x.restoring

/-- Every core of a job is idle. -/
def coresIdle (s : State) (j : Job) : Bool := (jobCores s j).all fun c => coreIdle (coreOf s c)

/-- The first array stitch of a list, whose weights arming loads (R91). -/
def firstArray (es : List Entry) : Option (Nat × ArrayStitch) :=
  (List.range es.length).findSome? fun i => match es[i]? with
    | some e => match e.op with | .array a => some (i, a) | _ => none
    | none => none

/-- Load the first stitch's weights into the cores of an armed step (R91). -/
def armCores (h : Nat) (s : State) : State :=
  match stepPattern s h with
  | none => s
  | some pat =>
    let cores := stepCores s h
    ((List.range cores.length).zip cores).foldl (fun s q => match firstArray (pat.lists.getD q.1 []) with
      | some (n, a) => loadWeights h q.2 n a (modCore q.2 dropWeights s)
      | none => s) s

/-- Whether a slot's weights are loaded. -/
def markSlot (f i : Nat) (loaded : Bool) (s : State) : State :=
  setFn f { fnOf s f with slots := tset (fnOf s f).slots i { tget (fnOf s f).slots i {} with weights := loaded } } s

/-- Another armed slot has its weights in the registers of a core of a step. -/
def regsHeld (s : State) (h : Nat) : Bool :=
  s.host.fns.any fun f => f.2.slots.any fun y => y.2.state == 1 && y.2.handle != h && y.2.weights &&
    (stepCores s y.2.handle).any (stepCores s h).contains

/-- The registers of a step's cores take its weights: another armed slot that had its own there has them no longer (R91). -/
def takeRegs (h : Nat) (s : State) : State :=
  let cores := stepCores s h
  { s with host.fns := tmap s.host.fns fun _ f => { f with slots := tmap f.slots fun _ y =>
      if y.state == 1 && y.handle != h && (stepCores s y.handle).any cores.contains then { y with weights := false } else y } }

/-- Armed slots whose cores are idle have their weights loaded, unless another armed slot's stand in the same registers; a slot
whose cores are busy has not (R91). -/
def armSlots (s : State) : State :=
  s.host.fns.foldl (fun s f => f.2.slots.foldl (fun s y =>
    if y.2.state ≠ 1 then s else
      let idle := match stepJob s y.2.handle with | some j => coresIdle s j | none => false
      let loads := idle && !regsHeld s y.2.handle
      let has := (tget (fnOf s f.1).slots y.1 {}).weights
      if has && idle || !has && !loads then s else
        let s := markSlot f.1 y.1 loads s
        if loads then armCores y.2.handle s else s) s) s

/-- A sample under way is given up and counts as skipped (R178). -/
def dropSample (x : Core) : Core :=
  match x.sample with
  | none => x
  | some m => { x with sample := none, sentinel := x.sentinel.map fun r => if r.tensor == m.tensor then { r with skipped := r.skipped + 1 } else r }

/-- What a core that stands at a boundary does about a pending stop (R173, R174, R517, R549): a save begins; a frogged
step's core is idle; a swap waits for CORE_SWAP. -/
def takeBoundary (c : Nat) (s : State) : State :=
  match (coreOf s c).stop with
  | none => s
  | some k =>
    if (coreOf s c).npOpen.isSome || anyStarted (coreOf s c) || stemRuns s c then s else
      let s := leaveStem c s
      let x := coreOf s c
      wakeStem (dieOfCore c) (match k with
        | .frog => armSlots (setCore c (idleCore x) s)
        | .swap => s
        | .schedule => setCore c { x with saving := true } s
        | _ => setCore c { dropSample x with saving := true } s)

/-- Store the first n elements of a tensor as another state holds them. -/
def takePart (t : Tensor) (n : Nat) (from' s : State) : State :=
  (List.range n).foldl (fun s i => let k := offsetOf t.d (indexOf t.d i); t.writeCode s k (t.readCode from' k)) s

/-- The T0 writes of a cut vector stitch that have landed stay: those of its first instructions and the first elements of the
next one, how many a free value says (R173, R253; log 124). No summary, count or condition is handed on. -/
def cutVector (h c l n : Nat) (is : List VInstr) (s : State) : State :=
  let s := is.foldl (fun s w => match stepTensor s h (vDst w) with
    | some t => if vVop w = 0x70 then s else protectTensor h t s
    | none => s) s
  let f := takeFree s
  let k := f.1.toNat % (is.length + 1)
  let e := vecEnv f.2 h c l n is
  let run (v : VState) (w : VInstr) : VState := if vVop w = 0x70 then v else vInstr e w v
  let v := (is.take k).foldl run { s := f.2 }
  match is[k]? with
  | some w => match (if vVop w = 0x70 then none else e.tensor (vDst w)) with
    | some t => let g := takeFree v.s; takePart t (g.1.toNat % (dCount t.d + 1)) (run v w).s g.2
    | none => v.s
  | none => v.s

/-- What the running stitches of a core leave in T0 when they are cut: a part of what vector and window stitches and the vector
stitches of walks write. An array stitch leaves nothing of its output stage (R173, R253, R283; DESIGN CHOICE, log 124). -/
def leaveParts (c : Nat) (s : State) : State :=
  match (coreOf s c).step with
  | none => s
  | some h => (coreOf s c).lanes.foldl (fun s q => if !q.2.started then s else match laneEntry s c q.1 with
      | some (n, e) => match e.op with
        | .vector is => cutVector h c q.1 n is s
        | .window x => cutWindow h c q.1 x s
        | .walk b => cutWalk h c q.1 b s
        | _ => s
      | none => s) s

/-- Cut the running stitches of a core: they run again from their start, and nothing usable is left in the weight registers
(R158, R173). What a cut array stitch's output stage wrote is dropped with its staging (DESIGN CHOICE, log 124). -/
def cutStitches (c : Nat) (s : State) : State :=
  let n := ((coreOf s c).lanes.filter fun l => l.2.started).length + b2n (stemRuns s c)
  let s := leaveStem c (leaveParts c s)
  let x := coreOf s c
  let x := if n = 0 then x else dropSample x
  coreEvent c 0x2004 n (setCore c { dropWeights x with lanes := tmap x.lanes fun _ l => { l with started := false } } s)

/-- Whether a stop waits for the running stitch (Table 7 of ch. 04). -/
def finishing : StopKind → Bool
  | .preempt => false
  | .host => false
  | _ => true

/-- Ask a core to stop. A cut replaces a pending finishing stop; a finishing stop does not replace a cut (R174). -/
def stopCore (k : StopKind) (c : Nat) (s : State) : State :=
  let x := coreOf s c
  if x.step.isNone || x.saving || x.restoring then s else
    let kind := match x.stop with
      | none => k
      | some old => if finishing old then k else old
    let s := setCore c { x with stop := some kind } s
    let s := if !finishing kind && x.npOpen.isNone then cutStitches c s else s
    takeBoundary c s

/-- The cores of a step stop. -/
def stopStep (k : StopKind) (h : Nat) (s : State) : State := (stepCores s h).foldl (fun s c => stopCore k c s) s

/-- The cores that run a step now. -/
def runningOn (s : State) (h : Nat) : List Nat := (s.cores.cores.filter fun e => e.2.step == some h).map Prod.fst

/-- Forget what cores keep of a step. -/
def releaseCores (h : Nat) (s : State) : State :=
  let s := { s with cores.cores := tmap s.cores.cores fun _ x =>
    let x := { x with saved := x.saved.filter fun v => v.step != h }
    if x.step == some h then idleCore x else x }
  armSlots { s with cores.cds := tmap s.cores.cds fun _ d => { d with stem := d.stem.filter fun q => (coreOf s q.1).step.isSome } }

/-- The class-0 step that waits for a core (R521, R523). -/
def class0Waiter (s : State) (c : Nat) : Option Nat :=
  s.parts.findSome? fun e => (e.2.steps.find? fun q =>
    q.2.state == .running && !q.2.suspended && !q.2.frogging &&
    (match tget? e.2.jobs q.2.job with | some j => j.cls == 0 && (jobCores s j).contains c | none => false) &&
    ((runningOn s q.1).isEmpty || ((coreOf s c).saved.any fun v => v.step == q.1))).map Prod.fst

/-- At the end of a window a free time has passed: it may exceed the bound (R523) and, with a stop pending, runs over
the slice (R522). -/
def closeWindow (c n : Nat) (s : State) : State :=
  let x := coreOf s c
  match windowAt s c n true, x.step with
  | some i, some h =>
    if x.npOpen ≠ some i then s else
      let t := takeFree s
      let bound := (((stepPattern s h).bind fun p => p.npWindows[i]?).map (·.bound)).getD 0
      let job := ((getStep s h).map (·.job)).getD 0
      let us := t.1.toNat % 2 ^ 16
      let beyond := t.1.toNat / 2 ^ 16 % 2 ^ 24
      let s := setCore c { x with npOpen := none } t.2
      let s := if x.stop == some .schedule then
          modJob (handlePart h) job (fun j => { j with carried := j.carried + beyond, overrun := j.overrun + beyond }) s
        else s
      if bound < us then
        recEvent 0x2023 (handlePart h) (some (handlePart h)) (dieOfCore c) c ((class0Waiter s c).getD h)
          [(8, job), (16, c), (8, i), (8, bound), (16, us)] (modStep h (fun st => { st with conds := st.conds ||| 8 }) s)
      else s
  | _, _ => s

/-- At a boundary: a window that ends here closes, and a stop that waited takes effect (R173, R522). -/
def atBoundary (c : Nat) (s : State) : State :=
  let x := coreOf s c
  match x.stop with
  | none => s
  | some k =>
    let s := if x.npOpen.isNone && !finishing k then cutStitches c s else s
    takeBoundary c s

end Sys2Proof.Machine
end

