-- ==== Sys2Proof/Machine/Links.lean ====
section
/-!
DEFINITION. Tolnex links (chapter 11): flits, credits, messages, retry, the answers of Table 10, what a peloton makes of
a message that its VC delivers (R459, R465, R471, R493), port states.
-/
namespace Sys2Proof.Machine

/-! ## Flit headers (Table 3 of ch. 11) -/

abbrev FlitHead := BitVec 192

def hType (w : FlitHead) : Nat := fld w 3 0
def hVc (w : FlitHead) : Nat := fld w 7 4
def hSeq (w : FlitHead) : Nat := fld w 19 8
def hAck (w : FlitHead) : Nat := fld w 31 20
def hAckValid (w : FlitHead) : Bool := bitAt w 32
def hSom (w : FlitHead) : Bool := bitAt w 33
def hEom (w : FlitHead) : Bool := bitAt w 34
def hChunks (w : FlitHead) : Nat := fld w 39 35
def hCrVc (w : FlitHead) : Nat := fld w 43 40
def hCrCount (w : FlitHead) : Nat := fld w 55 44
def hDst (w : FlitHead) : Nat := fld w 71 56
def hSrc (w : FlitHead) : Nat := fld w 87 72
def hStep (w : FlitHead) : Nat := fld w 119 88
def hLayout (w : FlitHead) : Nat := fld w 135 120
def hPel (w : FlitHead) : Nat := fld w 151 136
def hRsv (w : FlitHead) : Nat := fld w 154 152
def hFmt (w : FlitHead) : Nat := fld w 159 155
def hMtype (w : FlitHead) : Nat := fld w 167 160
def hLength (w : FlitHead) : Nat := fld w 191 168

/-- The message fields of a flit that begins a message. -/
structure MsgHead where
  mtype : Nat
  fmt : Nat := 0
  pel : Nat := 0
  layout : Nat := 0
  step : Nat := 0
  src : Nat := 0
  dst : Nat := 0
  length : Nat := 0
  deriving DecidableEq, Repr

def msgBits (m : MsgHead) : Nat :=
  m.dst <<< 56 ||| m.src <<< 72 ||| m.step <<< 88 ||| m.layout <<< 120 ||| m.pel <<< 136 ||| m.fmt <<< 155 ||| m.mtype <<< 160 |||
  m.length <<< 168

def headWord (type vc : Nat) (som eom : Bool) (chunks msg : Nat) : FlitHead :=
  BitVec.ofNat 192 (type ||| vc <<< 4 ||| b2n som <<< 33 ||| b2n eom <<< 34 ||| chunks <<< 35 ||| 0xF <<< 40 ||| msg)

/-- Payload bytes of a flit: 19 chunks, those beyond the message's last byte zero (R423, R424). -/
def fillFlit (bs : List Byte) : List Byte := bs ++ List.replicate (608 - bs.length) 0

/-- The flits of a message on a VC (R423, R424, R427). -/
def cutFlits (type vc msg : Nat) : Nat → Bool → List Byte → List TxFlit
  | 0, _, _ => []
  | fuel + 1, som, bs =>
    let now := bs.take 608
    let rest := bs.drop 608
    let f : TxFlit := { header := headWord type vc som rest.isEmpty (max 1 ((now.length + 31) / 32)) (if som then msg else 0), payload := fillFlit now }
    if rest.isEmpty then [f] else f :: cutFlits type vc msg fuel false rest

/-- CRC-64 over bytes 0 to 631 of a flit (R425). -/
def crcOf (header : FlitHead) (payload : List Byte) : W64 :=
  ((leBytes 24 header.toNat ++ payload).foldl crc64Byte (0xFFFFFFFFFFFFFFFF#64)) ^^^ 0xFFFFFFFFFFFFFFFF#64

def flitCrc (f : Flit) : W64 := crcOf f.header f.payload

/-- The flit of 640 bytes as it goes out: its payload filled, its CRC in place (R423 to R425). -/
def sealed (f : TxFlit) : TxFlit := { header := f.header, payload := fillFlit f.payload, crc := crcOf f.header (fillFlit f.payload) }

/-- The header of a received flit as the receiver takes it: the message fields mean nothing but in a first DATA or CONTROL flit
(R424). -/
def ownHead (w : FlitHead) : FlitHead :=
  if (hType w == 1 || hType w == 2) && hSom w then w else BitVec.ofNat 192 (fld w 55 0)

/-! ## The link group descriptor (Table 8) -/

def lgLinkId (g : BitVec 128) : Nat := fld g 127 112
def lgPortEn (g : BitVec 128) : Nat := fld g 111 96
def lgDownMask (g : BitVec 128) : Nat := fld g 95 80
def lgLg (g : BitVec 128) : Nat := fld g 79 68
def lgPeriod (g : BitVec 128) : Nat := fld g 67 57
def lgSyncOut (g : BitVec 128) : Bool := bitAt g 56
def lgUpPort (g : BitVec 128) : Nat := fld g 55 52
def lgSource (g : BitVec 128) : Nat := fld g 51 50

/-! ## Virtual channels and sending (R430 to R432, R437, R438) -/

/-- VC 8 has 16 flits of buffer at all times (R430). -/
def vcOf (p : Port) (v : Nat) : Vc := tget p.vcs v { buffer := if v = 8 then 16 else 0 }
def setVc (v : Nat) (c : Vc) (p : Port) : Port := { p with vcs := tset p.vcs v c }

/-- The VC that sends next: VC 8 first, then data VCs in turn (R432); a fenced partner holds the data VCs (R446). -/
def nextVc (p : Port) : Option Nat :=
  let can (v : Nat) : Bool := (p.txq.any fun f => hVc f.header == v) && decide (0 < (vcOf p v).credits)
  if can 8 then some 8
  else if p.fencedByPeer then none
  else ((List.range 8).map fun i => (p.lastVc + 1 + i) % 8).find? can

/-- A flit as it goes out, with SEQ and the acknowledgement. -/
def stamped (seq ack : Nat) (f : TxFlit) : TxFlit :=
  sealed { f with header := f.header ||| BitVec.ofNat 192 (seq <<< 8 ||| ack <<< 20 ||| 1 <<< 32) }

/-- The port keeps, by SEQ of its first flit, the call and the attempt of a call's message that it sends, for an ANSWER (R473). -/
def noteSent (f : TxFlit) (p : Port) : Port :=
  if hSom f.header && decide (0x10 ≤ hMtype f.header) && decide (hMtype f.header ≤ 0x14) then
    let h := leNat (f.payload.take 64)
    { p with sent := tset p.sent p.nextSeq (h / 2 ^ 240 % 2 ^ 16, h / 2 ^ 191 % 2 ^ 8) }
  else { p with sent := tdel p.sent p.nextSeq }

/-- Send what credits and the replay buffer allow. -/
def pumpPort (i : Nat) : Nat → State → State
  | 0, s => s
  | fuel + 1, s =>
    let p := portOf s i
    if !portUp p || 512 ≤ p.replay.length then s else
      match nextVc p with
      | none => s
      | some v =>
        match p.txq.find? fun f => hVc f.header == v with
        | none => s
        | some f =>
          let g := stamped p.nextSeq ((p.expectSeq + 4095) % 4096) f
          let p := setVc v { vcOf p v with credits := (vcOf p v).credits - 1 }
            { noteSent f p with txq := p.txq.erase f, replay := p.replay ++ [g], nextSeq := (p.nextSeq + 1) % 4096, lastVc := if v < 8 then v else p.lastVc }
          pumpPort i fuel (emit (.flit i g) (setPort i p s))

def pump (i : Nat) (s : State) : State := pumpPort i (portOf s i).txq.length s

/-- Queue a message on a port and send what can go. -/
def sendMsg (i type vc : Nat) (m : MsgHead) (body : List Byte) (s : State) : State :=
  let fs := cutFlits type vc (msgBits { m with length := body.length }) (body.length / 608 + 1) true body
  pump i (modPort i (fun p => { p with txq := p.txq ++ fs }) s)

/-- A control message: one flit on VC 8 (R433). -/
def sendControl (i mtype dst : Nat) (body : List Byte) (s : State) : State :=
  sendMsg i 2 8 { mtype := mtype, src := lgLinkId s.links.group, dst := dst } body s

/-- An IDLE flit returns credits and acknowledges (R426, R431). -/
def sendIdle (i v n : Nat) (s : State) : State :=
  let p := portOf s i
  emit (.flit i (sealed { header := BitVec.ofNat 192 (((p.expectSeq + 4095) % 4096) <<< 20 ||| 1 <<< 32 ||| v <<< 40 ||| n <<< 44) })) s

/-- The VCs that have credits pending, in turn after the VC served last (R431); 0xF names no VC. -/
def duesOf (p : Port) : List Nat := ((List.range 15).map fun i => (p.lastCr + 1 + i) % 15).filter fun v => 0 < (vcOf p v).owed

/-- Return every pending credit, VC by VC; a port that has none acknowledges with an empty IDLE flit. -/
def returnCredits (i : Nat) (s : State) : State :=
  if !portUp (portOf s i) then s else
    let due := duesOf (portOf s i)
    if due.isEmpty then sendIdle i 0xF 0 s else
      due.foldl (fun s v =>
        let c := vcOf (portOf s i) v
        sendIdle i v c.owed (modPort i (fun p => setVc v { c with partner := c.partner + c.owed, owed := 0 } { p with lastCr := v }) s)) s

/-- Send again every unacknowledged flit in SEQ order; credits are not spent again (R438). While the partner is fenced, those of
the data VCs are held (R446). -/
def replayAll (i : Nat) (s : State) : State :=
  if !portUp (portOf s i) then s else
    ((portOf s i).replay.filter fun f => hVc f.header == 8 || !(portOf s i).fencedByPeer).foldl (fun s f => emit (.flit i f) s) s

/-- A fast retrain begins: the port carries nothing until it ends (R439). -/
def beginRetrain (i : Nat) (s : State) : State := modPort i (fun p => { p with retraining := true, nakSent := false }) s

/-- A replay; after eight in a row without an advance of the acknowledgement a fast retrain begins (R438, R439). -/
def replayOnce (i : Nat) (s : State) : State :=
  let s := modPort i (fun p => { p with replays := p.replays + 1 }) s
  if 8 ≤ (portOf s i).replays then beginRetrain i s else replayAll i s

/-! ## Violations and answers (Table 10, R434, R436, R459) -/

/-- Count a violation of row `row`; the first of a port in a tick is recorded. -/
def violation (i row vc src seq : Nat) (s : State) : State :=
  let p := portOf s i
  let s := setPort i { p with violations := tset p.violations row (tget p.violations row 0 + 1), eventThisTick := true } s
  if p.eventThisTick then s else recEvent 0x3002 i none (4 + i / 4) i 0 [(16, row), (16, vc), (16, src), (16, seq)] s

/-- The peloton that a data VC of a port is bound to. -/
def vcPeloton (s : State) (i v : Nat) : Option (Nat × Nat × Peloton) :=
  (vcOf (portOf s i) v).bound.bind fun b => ((getPart s b.1).bind fun x => tget? x.pelotons b.2).map fun q => (b.1, b.2, q)

def answerStatus (reason : Nat) : Nat :=
  match reason with | 1 => 0x0206 | 2 => 0x0205 | 3 => 0x0204 | 4 => 0x0205 | _ => 0x0201

/-- Answer a refused message; at most 64 answers wait per port (R436). -/
def sendAnswer (i reason : Nat) (w : FlitHead) (s : State) : State :=
  let p := portOf s i
  if 64 ≤ (p.txq.filter fun f => hVc f.header == 8 && hMtype f.header == 5).length then devEvent 0x3003 i 1 s
  else
    let expect := match vcPeloton s i (hVc w) with | some q => q.2.2.layout | none => 0
    let body := hStep w <<< 224 ||| hLayout w <<< 208 ||| expect <<< 192 ||| hPel w <<< 176 ||| hMtype w <<< 168 ||| hVc w <<< 164 |||
      reason <<< 160 ||| answerStatus reason <<< 144 ||| hSeq w <<< 132
    sendControl i 5 (hSrc w) (leBytes 32 body) s

/-- Refuse a message: count the row and answer its first flit's header. -/
def refuseMsg (i row reason : Nat) (w : FlitHead) (s : State) : State :=
  sendAnswer i reason w (violation i row (hVc w) (hSrc w) (hSeq w) s)

/-! ## What a peloton makes of a delivered message (R465, R471, R493) -/

/-- Later in serial order modulo 2³². -/
def serialNewer (a b : Nat) : Bool := let d := (a + 2 ^ 32 - b) % 2 ^ 32; d != 0 && decide (d < 2 ^ 31)

def collAttempt (h : BitVec 512) : Nat := fld h 198 191
def collThin (h : BitVec 512) : Nat := fld h 190 183
def collDesc16 (h : BitVec 512) : Nat := fld h 174 159

/-- The running step of a partition that a peloton's messages of an epoch and attempt belong to. -/
def runningStepOf (x : Partition) (epoch attempt : Nat) : Option Nat :=
  (x.steps.find? fun e => e.2.state == .running && e.2.epoch == epoch && e.2.attempt == attempt).map Prod.fst

/-- A message may belong to a replay of a step of this member that is still to come or waits for its turn (R218). -/
def mayJoin (x : Partition) (epoch attempt : Nat) : Bool :=
  (x.steps.any fun e => e.2.epoch == epoch && e.2.state != .queued && e.2.replayOf.isNone) && attempt == attemptsOf x epoch % 256

/-- The defined message types (Table 5 of ch. 12). -/
def mtypeOk (t : Nat) : Bool := (decide (0x10 ≤ t) && decide (t ≤ 0x17)) || (decide (0x20 ≤ t) && decide (t ≤ 0x23))

/-- The sync count of a peloton for a step: the one at its admission, else the peloton's own (R493). -/
def syncOf (st : Option Step) (n : Nat) (q : Peloton) : Nat :=
  match st.bind fun st => st.pelotons.find? fun m => m.num == n with
  | some m => m.sync
  | none => q.sync

/-- Keep a message in its peloton's inbox. -/
def keepMsg (p n : Nat) (m : CollMsg) (s : State) : State :=
  modPart p (fun x => { x with pelotons := tupd x.pelotons n fun q => { q with inbox := q.inbox ++ [m] } }) s

/-- Put a message into its peloton's inbox, or refuse or drop it. A message of the running step, a re-shard's or a substitution's
is held against the sync count on arrival, one of a step still to come at that step's admission; a group frog reaches members
that have committed and is held against none (R471, R493, R497; log 57). -/
def deliverMsg (i p n : Nat) (q : Peloton) (w : FlitHead) (bytes : List Byte) (s : State) : State :=
  let h : BitVec 512 := BitVec.ofNat 512 (leNat (bytes.take 64))
  if bytes.length < 64 || !mtypeOk (hMtype w) || collDesc16 h ≠ q.desc16 then refuseMsg i 12 5 w s
  else
    match getPart s p with
    | none => s
    | some x =>
      let m : CollMsg := { mtype := hMtype w, format := hFmt w, src := BitVec.ofNat 16 (hSrc w), stepEpoch := hStep w, layoutEpoch := hLayout w,
                           header := h, body := bytes.drop 64, port := i, head := w }
      let keepThin (c : Nat) (s : State) : State := if collThin h = c % 256 then keepMsg p n m s else sendAnswer i 3 w s
      if hMtype w = 0x21 then keepMsg p n m s
      else if 0x21 < hMtype w || hMtype w = 0x17 then keepThin q.sync s
      else if (x.discardedEpochs.any fun d => d.2.1 == hStep w && d.2.2 == collAttempt h) then
        devEvent 0x300D n 1 (modPart p (fun x => { x with pelotons := tupd x.pelotons n fun q => { q with stale := q.stale + 1 } }) s)
      else
        let newer := match q.lastCommitted with | some l => serialNewer (hStep w) l | none => true
        match (runningStepOf x (hStep w) (collAttempt h)).bind (tget? x.steps) with
        | some st => keepThin (syncOf (some st) n q) s
        | none => if newer || mayJoin x (hStep w) (collAttempt h) then keepMsg p n m s else sendAnswer i 3 w s

/-- A held message of a step's epoch and attempt whose THIN_LO is not the sync count at the step's admission (R493). -/
def thinOff (st : Step) (n : Nat) (q : Peloton) (m : CollMsg) : Bool :=
  m.stepEpoch == st.epoch && collAttempt m.header == st.attempt && decide (m.mtype ≤ 0x20) && m.mtype != 0x17 &&
  collThin m.header != syncOf (some st) n q % 256

/-- At its admission, a step's held messages are held against its sync counts; those that differ are answered (R471, R493). -/
def answerThin (h : Nat) (s : State) : State :=
  match getPart s (handlePart h), getStep s h with
  | some x, some st => x.pelotons.foldl (fun s e => (e.2.inbox.filter (thinOff st e.1 e.2)).foldl (fun s m => sendAnswer m.port 3 m.head s)
      (modPart (handlePart h) (fun x => { x with pelotons := tupd x.pelotons e.1 fun q => { q with inbox := q.inbox.filter fun m => !thinOff st e.1 e.2 m } }) s)) s
  | _, _ => s

/-! ## Receiving flits (R437, R428, R459, R460) -/

/-- Release acknowledged flits. -/
def ackTo (ack : Nat) (p : Port) : Port :=
  let keep := p.replay.filter fun f => decide (2048 ≤ (ack + 4096 - hSeq f.header) % 4096)
  if keep.length < p.replay.length then { p with replay := keep, replays := 0, fastRetrains := 0 } else p

/-- The credits that a sender may hold for a VC: the buffer of the peloton's CREDITS once the VC is bound here, all that
the data VCs of a port may have before that (R430, R431, Table 10; log 56). -/
def creditLimit (v : Nat) (c : Vc) : Nat := if v < 8 && c.bound.isNone then 1008 else c.buffer

/-- Take the acknowledgement and returned credits of a flit; credits beyond the VC's buffer are ignored and counted. A
partner that formed first returns credits before the VC is bound here, and they stand (R464). -/
def takeReturns (i : Nat) (w : FlitHead) (s : State) : State :=
  let s := if hAckValid w then modPort i (ackTo (hAck w)) s else s
  let v := hCrVc w
  if v = 0xF || hCrCount w = 0 then pump i s else
    let c := vcOf (portOf s i) v
    let n := min (hCrCount w) (creditLimit v c - c.credits)
    let s := modPort i (setVc v { c with credits := c.credits + n, first := c.first || decide (0 < n) }) s
    pump i (if n < hCrCount w then violation i 7 v (hSrc w) (hSeq w) s else s)

/-- One NAK for a run of discarded flits. -/
def nakOnce (i : Nat) (s : State) : State :=
  let p := portOf s i
  if p.nakSent then s else emit (.nak i ((p.expectSeq + 4095) % 4096)) (setPort i { p with nakSent := true } s)

/-- A flit's credit comes back, whatever became of its message (R460). -/
def oweCredit (i v : Nat) (s : State) : State :=
  let c := vcOf (portOf s i) v
  modPort i (setVc v { c with owed := c.owed + 1, partner := c.partner - 1 }) s

def setRx (i v : Nat) (rx : Option (BitVec 192 × List Byte)) (discarding : Bool) (s : State) : State :=
  modPort i (fun p => setVc v { vcOf p v with rx := rx, discarding := discarding } p) s

/-- A gather names its input format; any other FORMAT is refused (R457). -/
def formatOk (q : Peloton) (w : FlitHead) : Bool := hMtype w != 0x12 || hFmt w == fld q.header 430 426

/-- A whole message stands on a VC. -/
def messageDone (i v : Nat) (w : FlitHead) (bytes : List Byte) (s : State) : State :=
  if v = 8 then
    (if hDst w ≠ lgLinkId s.links.group && hDst w ≠ 0xFFFF then refuseMsg i 11 4 w s
     else if 1 ≤ hMtype w && hMtype w ≤ 5 then s else violation i 14 8 (hSrc w) (hSeq w) s)
  else
    match vcPeloton s i v with
    | none => s
    | some (p, n, q) =>
      if hLayout w ≠ q.layout then refuseMsg i 10 3 w s
      else if hDst w ≠ lgLinkId s.links.group then refuseMsg i 11 4 w s
      else if !formatOk q w then refuseMsg i 13 5 w s
      else deliverMsg i p n q w bytes s

/-- An accepted flit joins its message; what is refused is the message, by the header of its first flit. -/
def takeFlit (i : Nat) (f : Flit) (s : State) : State :=
  let w := ownHead f.header
  let v := hVc w
  let c := vcOf (portOf s i) v
  let dead := c.discarding && !hSom w
  let rest := !hEom w
  let first := match c.rx with | some r => if hSom w then w else r.1 | none => w
  if dead then setRx i v none rest s
  else if decide (9 ≤ v) || (v != 8 && c.bound.isNone) then refuseMsg i 8 2 first (setRx i v none rest s)
  else if (v = 8) != (hType w = 2) then refuseMsg i 9 5 first (setRx i v none rest s)
  else if c.partner = 0 then refuseMsg i 6 1 first (setRx i v none rest s)
  else
    let data := f.payload.take (32 * hChunks w)
    if hSom w && c.rx.isSome then refuseMsg i 12 5 w (setRx i v none rest s)
    else if !hSom w && c.rx.isNone then refuseMsg i 12 5 w (setRx i v none rest s)
    else
      let bytes := (match c.rx with | some r => r.2 | none => []) ++ data
      if rest then setRx i v (some (first, bytes)) false s
      else
        let s := setRx i v none false s
        if hLength first = 0 || (hLength first + 31) / 32 * 32 ≠ bytes.length then refuseMsg i 12 5 first s
        else messageDone i v first (bytes.take (hLength first)) s

/-- A flit that fails its CRC or codeword is counted as a CRC retry; one NAK goes out for the run that is discarded. -/
def badFlit (i : Nat) (w : FlitHead) (s : State) : State := nakOnce i (violation i 1 (hVc w) 0 (hSeq w) (devEvent 0x3001 i 1 s))

/-- Reserved header bits are set. They lie among the message fields, which only a first DATA or CONTROL flit has (R424). -/
def reservedSet (w : FlitHead) : Bool := (hType w == 1 || hType w == 2) && hSom w && hRsv w != 0

/-- A DATA or CONTROL flit arrives. One of the expected SEQ is acknowledged and its credit comes back, also where its CHUNKS is
wrong (R460). -/
def dataFlit (i : Nat) (ok : Bool) (f : Flit) (s : State) : State :=
  let p := portOf s i
  let w := ownHead f.header
  if !portUp p then s
  else if !ok || flitCrc f != f.crc then badFlit i w s
  else if 5 ≤ hType w || reservedSet w then violation i 4 (hVc w) (hSrc w) (hSeq w) s
  else if hType w ≠ 1 && hType w ≠ 2 then s
  else if hSeq w ≠ p.expectSeq then
    (if decide ((p.expectSeq + 4095 - hSeq w) % 4096 < 2048) then s
     else nakOnce i (violation i 2 (hVc w) (hSrc w) (hSeq w) s))
  else
    let s := setPort i { p with expectSeq := (p.expectSeq + 1) % 4096, nakSent := false, fencedByPeer := false } s
    if hChunks w = 0 || 19 < hChunks w then
      nakOnce i (returnCredits i (oweCredit i (hVc w) (violation i 5 (hVc w) (hSrc w) (hSeq w) s)))
    else returnCredits i (oweCredit i (hVc w) (takeFlit i f (takeReturns i w s)))

def execDataFlit (port : PortId) (codewordOk : Bool) (flit : Flit) (s : State) : Host.Outcome State Fault Refusal :=
  whenLive (dataFlit port.val codewordOk flit) s

/-- FENCE_IDLE: the data VCs are held; the event is counted once (R446). -/
def partnerFenced (i : Nat) (s : State) : State :=
  let p := portOf s i
  if !portUp p || p.fencedByPeer then s
  else recEvent 0x3006 i none (4 + i / 4) i 0 [(16, i)] (setPort i { p with fencedByPeer := true } s)

/-- An IDLE flit: acknowledgement and credits. A FENCE_IDLE flit whose CHUNKS is not 0 is discarded like it. -/
def idleFlit (i : Nat) (ok : Bool) (f : Flit) (s : State) : State :=
  let w := ownHead f.header
  if !portUp (portOf s i) then s
  else if !ok || flitCrc f != f.crc then badFlit i w s
  else if hType w = 4 then (if hChunks w ≠ 0 then nakOnce i (violation i 5 (hVc w) 0 (hSeq w) s) else partnerFenced i s)
  else if hType w ≠ 0 then violation i 4 (hVc w) 0 (hSeq w) s
  else if hChunks w ≠ 0 then nakOnce i (violation i 5 (hVc w) 0 (hSeq w) s)
  else takeReturns i w (modPort i (fun p => { p with fencedByPeer := false }) s)

def execIdleFlit (port : PortId) (codewordOk : Bool) (flit : Flit) (s : State) : Host.Outcome State Fault Refusal :=
  whenLive (idleFlit port.val codewordOk flit) s

/-- A NAK: flits up to ACK_SEQ are acknowledged, the credits that it carries are taken and the rest go again; one that names a flit
no longer held calls for a full training. -/
def nakFlit (i : Nat) (ok : Bool) (f : Flit) (s : State) : State :=
  let w := ownHead f.header
  let p := portOf s i
  if !portUp p then s
  else if !ok || flitCrc f != f.crc then badFlit i w s
  else if hChunks w ≠ 0 || hType w ≠ 3 then nakOnce i (violation i 5 (hVc w) 0 (hSeq w) s)
  else
    let next := (hAck w + 1) % 4096
    if next ≠ p.nextSeq && !(p.replay.any fun g => hSeq g.header == next) then
      modPort i (fun p => { p with state := .training }) (violation i 3 (hVc w) 0 (hAck w) s)
    else
      let s := modPort i (fun p => ackTo (hAck w) { p with fencedByPeer := false }) s
      pump i (replayOnce i (takeReturns i w s))

def execNak (port : PortId) (codewordOk : Bool) (flit : Flit) (s : State) : Host.Outcome State Fault Refusal :=
  whenLive (nakFlit port.val codewordOk flit) s

def execFenceIdle (port : PortId) (s : State) : Host.Outcome State Fault Refusal := whenLive (partnerFenced port.val) s

/-- No acknowledgement for 4 µs while flits wait (R438). -/
def replayTimeout (i : Nat) (s : State) : State :=
  let p := portOf s i
  if !portUp p || p.replay.isEmpty then s else replayOnce i s

def execReplayTimeout (port : PortId) (s : State) : Host.Outcome State Fault Refusal := whenLive (replayTimeout port.val) s

/-! ## Port states (Table 6, R439 to R445) -/

def portCode : PortState → Nat
  | .down => 0 | .training => 1 | .up4 => 2 | .up3 => 3 | .recal => 4 | .fenced => 5

/-- The partitions whose VCs a port carries. -/
def portParts (p : Port) : List Nat := (p.vcs.filterMap fun e => e.2.bound.map Prod.fst).eraseDups

/-- The commands that wait for a port end when it goes DOWN (R445, R560). -/
def endPortWork (i status : Nat) (s : State) : State :=
  let p := portOf s i
  let s := setPort i { p with recalHandle := 0, trainHandle := 0, recalLane := none } s
  let s := if p.recalHandle = 0 then s else finish p.recalHandle status 0 s
  if p.trainHandle = 0 then s else finish p.trainHandle status 0 s

/-- A port goes DOWN with a fault record of the link class; what is queued for it stays (R441). -/
def portDown (code : Nat) (extra : Nat) (i : Nat) (s : State) : State :=
  let p := portOf s i
  if p.state == .down then s else
    let s := setPort i { p with state := .down, lanes := 0 } s
    let f : FaultIn := { code := code, cls := 7, sev := 1, die := 4 + i / 4, unit := i, detail := w64 (i ||| extra <<< 16), parts := portParts p }
    endPortWork i 0x0401 (raiseFault f s)

def linkDown (i : Nat) (s : State) : State := portDown 0x3801 (portCode (portOf s i).state) i s

def laneCount (m : BitVec 4) : Nat := (bitsOf 4 m.toNat).length

/-- The state of a port that carries on the lanes of a mask. -/
def stateOfLanes (m : BitVec 4) : PortState := if laneCount m = 4 then .up4 else if laneCount m = 3 then .up3 else .down

/-- The port runs at 106.25 GBd: the descriptor or the partner asks for it (R419). -/
def slowPort (s : State) (i : Nat) : Bool := fld s.links.group 49 48 == 1 || (portOf s i).slow

/-- CONFIG goes out at the end of every training and fast retrain (R433, R439): LINK_ID, port number, active lanes, baud, the last
ACK_SEQ; the mark of a switch is 0 (log 135). -/
def sendConfig (i : Nat) (s : State) : State :=
  let p := portOf s i
  sendControl i 1 0xFFFF (leBytes 32 (lgLinkId s.links.group ||| i <<< 16 ||| p.lanes.toNat <<< 32 ||| b2n (slowPort s i) <<< 36 |||
    ((p.expectSeq + 4095) % 4096) <<< 40)) s

/-- The lane that a mask leaves out. -/
def missingLane (m : BitVec 4) : Option Nat := (List.range 4).find? fun l => !m.getLsbD l

/-- A fast retrain ends: CONFIG, then a replay; three in a row without an advance make a full training. A port that comes back on
three lanes has a faulty one (R439, R442, R444). -/
def fastRetrain (i : Nat) (m : BitVec 4) (advanced : Bool) (s : State) : State :=
  let p := portOf s i
  if !portLit p then s else
    let n := if advanced then 0 else p.fastRetrains + 1
    let p := { p with retraining := false, replays := 0 }
    if 3 ≤ n then setPort i { p with state := .training, fastRetrains := 0 } s
    else match stateOfLanes m with
      | .down => linkDown i s
      | st =>
        let q := if p.state == .recal then p else { p with state := st, faultyLane := missingLane m }
        replayAll i (sendConfig i (setPort i { q with lanes := m, fastRetrains := n } s))

def execFastRetrain (port : PortId) (lanes : BitVec 4) (advanced : Bool) (s : State) : Host.Outcome State Fault Refusal :=
  whenLive (fastRetrain port.val lanes advanced) s

/-- Full training ends: UP4, UP3, or DOWN with a fault (R439, R440, R560). VC 8's buffer is returned as credits. -/
def fullTraining (i : Nat) (m : BitVec 4) (s : State) : State :=
  let p := portOf s i
  if p.state != .training then s else
    match stateOfLanes m with
    | .down => linkDown i s
    | st =>
      let c := vcOf p 8
      let p := { p with state := st, lanes := m, replays := 0, fastRetrains := 0, retraining := false, echoes := [], peerId := none, faultyLane := missingLane m }
      let p := setVc 8 { c with owed := 16 - c.partner } p
      let h := p.trainHandle
      let s := setPort i { p with trainHandle := 0 } s
      let s := (List.range 64).foldl (fun s _ => let t := takeFree s; sendControl i 2 0xFFFF (leBytes 8 t.1.toNat) t.2) s
      let s := replayAll i (sendConfig i (returnCredits i s))
      if h = 0 then s else finish h 0 0 s

def execFullTraining (port : PortId) (lanes : BitVec 4) (s : State) : Host.Outcome State Fault Refusal :=
  whenLive (fullTraining port.val lanes) s

/-- Codeword lock is lost: a fast retrain begins, and the port carries nothing until it ends (R422, R439). -/
def lockLost (i : Nat) (s : State) : State := if portUp (portOf s i) then beginRetrain i s else s

def execCodewordLockLost (port : PortId) (s : State) : Host.Outcome State Fault Refusal := whenLive (lockLost port.val) s

/-- A faulty lane: UP4 goes to UP3; a second one takes the port DOWN (R442, R443). -/
def laneDegrade (i : Nat) (l : Fin 4) (s : State) : State :=
  let p := portOf s i
  if !portLit p || !p.lanes.getLsbD l.val then s
  else if p.state == .up4 then
    let m := p.lanes &&& ~~~(BitVec.ofNat 4 (2 ^ l.val))
    let s := devEvent 0x3005 i 1 (setPort i { p with state := .up3, lanes := m, retraining := false, faultyLane := some l.val } s)
    let f : FaultIn := { code := 0x3802, cls := 7, sev := 0, die := 4 + i / 4, unit := i, detail := w64 (i ||| l.val <<< 16) }
    replayAll i (sendConfig i (raiseFault f s))
  else linkDown i s

def execLaneDegrade (port : PortId) (lane : Fin 4) (s : State) : Host.Outcome State Fault Refusal :=
  whenLive (laneDegrade port.val lane) s

/-! ## Control messages (Table 4) -/

/-- CONFIG: the partner's identity, its baud and last ACK_SEQ; another LINK_ID than the one learnt at the last full training takes
the port DOWN (R419, Table 10). -/
def configMsg (i : Nat) (id : W16) (slow : Bool) (ack : BitVec 12) (s : State) : State :=
  let p := portOf s i
  if !portLit p then s
  else match p.peerId with
    | some k => if k = id then pump i (modPort i (fun p => ackTo ack.toNat { p with slow := slow }) s) else portDown 0x3803 id.toNat i s
    | none => pump i (modPort i (fun p => ackTo ack.toNat { p with peerId := some id, slow := slow }) s)

def execConfig (port : PortId) (linkId : W16) (_partnerPort : W16) (_lanes : BitVec 4) (baud : Bool) (ackSeq : BitVec 12)
    (_isSwitch : Bool) (s : State) : Host.Outcome State Fault Refusal := whenLive (configMsg port.val linkId baud ackSeq) s

/-- ECHO_REQ is answered with its time and the turnaround, which is a free value. -/
def echoReq (i : Nat) (t : W64) (s : State) : State :=
  if !portUp (portOf s i) then s else
    let f := takeFree s
    sendControl i 3 0xFFFF (leBytes 8 t.toNat ++ leBytes 8 f.1.toNat) f.2

def execEchoReq (port : PortId) (time : W64) (s : State) : Host.Outcome State Fault Refusal := whenLive (echoReq port.val time) s

/-- ECHO_RESP: half the mean of 64 round trips less the turnaround, in ps (R440). -/
def echoResp (i : Nat) (time turnaround now : W64) (s : State) : State :=
  let p := portOf s i
  if !portUp p || 64 ≤ p.echoes.length then s else
    let es := p.echoes ++ [now.toNat - time.toNat - turnaround.toNat]
    setPort i { p with echoes := es, latency := if es.length = 64 then es.foldl (· + ·) 0 / 128 else p.latency } s

def execEchoResp (port : PortId) (time turnaround now : W64) (s : State) : Host.Outcome State Fault Refusal :=
  whenLive (echoResp port.val time turnaround now) s

/-- VC_RESET sets the sender's credits of the VC to 0 (R431). -/
def vcReset (i v : Nat) (s : State) : State :=
  if !portUp (portOf s i) then s else modPort i (fun p => setVc v { vcOf p v with credits := 0, first := false } p) s

def execVcReset (port : PortId) (vc : Fin 8) (s : State) : Host.Outcome State Fault Refusal := whenLive (vcReset port.val vc.val) s

end Sys2Proof.Machine
end

