-- ==== Sys2Proof/Machine/Kv.lean ====
section
/-!
DEFINITION. The KV and prefix commands 0x0500 to 0x050A (Table 11 of ch. 08, R334).
-/
namespace Sys2Proof.Machine

/-- The body of a command that acts on a space of the partition. -/
def withSpace (f : Nat) (hdr : Hdr) (s : State) (space : W64) (k : Nat → Partition → KvSpace → Except Nat Ans) : Except Nat Ans :=
  withPart f hdr s fun p x => have' (tget? x.spaces space.toNat) 0x0201 fun sp => k p x sp

def kvFormatOk (f : Nat) : Bool := f == 1 || f == 2 || f == 3

/-- Every page of a descriptor's extent lies in a tier, in objects that a class pins there (R315, R316). -/
def pinnedIn (s : State) (tier : Nat) (d : DescWord) : Bool :=
  (descPages d).all fun g => match pageEntry s g with
    | some e => e.tier == tier && pinned e.cls && homeTier e.cls == tier
    | none => false

/-- A region: its tier, its base on a 4 MiB boundary, its pages within the descriptor, pinned in its tier (R315). -/
def regionOk (s : State) (bytes : Nat) (r : KvRegionOps) : Bool :=
  dAddr r.desc % pageSize == 0 && decide (r.pages.toNat * bytes ≤ dExtent r.desc) && pinnedIn s r.tier.toNat r.desc

/-- Check the descriptors of the regions one after another. -/
def needRegions {α : Type} (s : State) (p : Nat) (x : Partition) (bytes : Nat) : List KvRegionOps → Except Nat α → Except Nat α
  | [], k => k
  | r :: rs, k =>
    needUnified s p x r.desc (need (regionOk s bytes r) 0x0202 (need (!readOnlyDesc s r.desc) 0x0205 (needRegions s p x bytes rs k)))

/-- The space that the operands describe. -/
def spaceOf (o : KvSpaceOps) : KvSpace where
  control := dAddr o.control
  layers := o.layers.toNat
  kvHeads := o.kvHeads.toNat
  dh := o.dh.toNat
  format := o.format.toNat
  maxSeq := o.maxSeq.toNat
  maxPages := o.maxPages.toNat
  prefixOn := bitAt o.prefixOn 0
  prefixMax := o.prefixMax.toNat
  salt := o.salt
  regions := o.regions.map fun r => { tier := r.tier.toNat, base := dAddr r.desc, pages := r.pages.toNat }

def inRange (w : W64) (lo hi : Nat) : Bool := decide (lo ≤ w.toNat) && decide (w.toNat ≤ hi)

/-- Operands of KV_SPACE_CREATE in range (R315, R334). -/
def spaceFormOk (o : KvSpaceOps) : Bool :=
  inRange o.layers 1 256 && inRange o.kvHeads 1 64 && inRange o.dh 1 128 && kvFormatOk o.format.toNat && inRange o.maxSeq 1 65535 &&
  inRange o.maxPages 1 65536 && flagOk o.prefixOn && decide (o.regions.length ≤ 3) &&
  o.regions.all (fun r => inRange r.tier 1 3 && decide (r.pages.toNat < 2 ^ 30)) &&
  (o.regions.map (·.tier)).eraseDups.length == o.regions.length

/-- The control object: pinned in T1, page-aligned, large enough (R316). -/
def controlOk (s : State) (o : KvSpaceOps) : Bool :=
  pinnedIn s 1 o.control && dAddr o.control % pageSize == 0 && decide (controlBytes (spaceOf o) ≤ dExtent o.control)

def spaceBody (f : Nat) (hdr : Hdr) (o : KvSpaceOps) : Body := fun s =>
  withPart f hdr s fun p x =>
    need (spaceFormOk o) 0x0201 (
    let k := spaceOf o
    needUnified s p x o.control (
    need (controlOk s o) 0x0202 (
    need (!readOnlyDesc s o.control) 0x0205 (
    needRegions s p x (kvPageBytes k) o.regions (
    have' (tfree x.spaces 16) 0x0206 fun n =>
      long f hdr (some p) 5 .kv
        (modPart p (fun x => { x with spaces := tset x.spaces n k }) (s.clear .unified k.control (controlBytes k))) (w64 n)
        (fun h s => finish h 0 0 s))))))

def execKvSpaceCreate (fn : Fn) (hdr : Hdr) (ops : KvSpaceOps) (s : State) : Host.Outcome State Fault Refusal :=
  message fn hdr 0x0500 false (spaceBody fn hdr ops) s

/-- A page that a sequence or a staged step holds. -/
def pagesHeld (k : KvSpace) : Bool := k.pages.any fun g => g.2.refs != 0 || g.2.state == 2

/-- Take a space away with its prefix entries. -/
def dropSpace (p sp : Nat) (s : State) : State :=
  modPart p (fun x => { x with spaces := tdel x.spaces sp })
    { s with prefixes := s.prefixes.filter fun e => !(e.2.part == p && e.2.space == sp) }

def spaceDestroyBody (f : Nat) (hdr : Hdr) (space : W64) : Body := fun s =>
  withSpace f hdr s space fun p _ k =>
    need (k.seqs.isEmpty && !pagesHeld k) 0x0205 (.ok { st := dropSpace p space.toNat s })

def execKvSpaceDestroy (fn : Fn) (hdr : Hdr) (space : W64) (s : State) : Host.Outcome State Fault Refusal :=
  message fn hdr 0x0501 false (spaceDestroyBody fn hdr space) s

/-- A sequence number of a space that is not in use. -/
def freeSeq (k : KvSpace) : Option Nat := tfree k.seqs k.maxSeq

def putSeq (p sp i : Nat) (q : KvSeq) (s : State) : State :=
  showControl p sp [i] [] (modSpace p sp (fun k => { k with seqs := tset k.seqs i q }) s)

def seqOpenBody (f : Nat) (hdr : Hdr) (space : W64) : Body := fun s =>
  withSpace f hdr s space fun p _ k =>
    have' (freeSeq k) 0x0206 fun i =>
      .ok { st := putSeq p space.toNat i { runHash := runStart k.salt, tailHash := k.salt } s, result := w64 i }

def execKvSeqOpen (fn : Fn) (hdr : Hdr) (space : W64) (s : State) : Host.Outcome State Fault Refusal :=
  message fn hdr 0x0502 false (seqOpenBody fn hdr space) s

/-- Each of these pages gains one in REFS. -/
def addRefs (p sp : Nat) (ids : List Nat) (s : State) : State :=
  showControl p sp [] ids (ids.foldl (fun s id => modSpace p sp (fun k => let g := kvPage k id; setKvPage id { g with refs := g.refs + 1 } k) s) s)

def forkBody (f : Nat) (hdr : Hdr) (space parent length : W64) : Body := fun s =>
  withSpace f hdr s space fun p _ k =>
    have' (tget? k.seqs parent.toNat) 0x0201 fun q =>
    need (decide (length.toNat ≤ q.length)) 0x0201 (
    have' (freeSeq k) 0x0206 fun i =>
      let table := q.table.take (blocksOf length.toNat)
      need (table.all fun id => decide ((kvPage k id).refs < 65535)) 0x0206 (
        let tags := q.tags.take length.toNat
        let h := hashAfter k.salt tags
        .ok { st := putSeq p space.toNat i { runHash := h.1, tailHash := h.2, table := table, length := length.toNat,
                                             parent := parent.toNat, tags := tags } (addRefs p space.toNat table s),
              result := w64 i }))

def execKvSeqFork (fn : Fn) (hdr : Hdr) (space parent length : W64) (s : State) : Host.Outcome State Fault Refusal :=
  message fn hdr 0x0503 false (forkBody fn hdr space parent length) s

/-- References dropped for pages that a sequence no longer holds (R325). -/
def dropRefs (p sp : Nat) (ids : List Nat) (s : State) : State := ids.foldl (fun s id => dropRef p sp id s) s

def truncateBody (f : Nat) (hdr : Hdr) (space seq length : W64) : Body := fun s =>
  withSpace f hdr s space fun p _ k =>
    needSeq k seq.toNat fun q =>
    need (decide (length.toNat ≤ q.length)) 0x0201 (
      let n := blocksOf length.toNat
      let gone := q.table.drop n
      let tags := q.tags.take length.toNat
      let h := hashAfter k.salt tags
      let s := putSeq p space.toNat seq.toNat { q with table := q.table.take n, length := length.toNat, tags := tags, runHash := h.1, tailHash := h.2 } s
      .ok { st := dropRefs p space.toNat gone s, result := w64 gone.length })

def execKvSeqTruncate (fn : Fn) (hdr : Hdr) (space seq length : W64) (s : State) : Host.Outcome State Fault Refusal :=
  message fn hdr 0x0504 false (truncateBody fn hdr space seq length) s

def closeBody (f : Nat) (hdr : Hdr) (space seq : W64) : Body := fun s =>
  withSpace f hdr s space fun p _ k =>
    needSeq k seq.toNat fun q =>
      let s := modSpace p space.toNat (fun k => { k with seqs := tdel k.seqs seq.toNat }) s
      .ok { st := dropRefs p space.toNat q.table (showControl p space.toNat [seq.toNat] [] s) }

def execKvSeqClose (fn : Fn) (hdr : Hdr) (space seq : W64) (s : State) : Host.Outcome State Fault Refusal :=
  message fn hdr 0x0505 false (closeBody fn hdr space seq) s

/-- The 64-bit tags of a tag tensor: UINT32 pairs, low word first (R326). -/
def readTags (s : State) (t : Tensor) (n : Nat) : List W64 :=
  (List.range n).map fun i =>
    let at' (j : Nat) : Nat := t.readCode s (offsetOf t.d (indexOf t.d j))
    w64 (at' (2 * i) + 2 ^ 32 * at' (2 * i + 1))

/-- The committed entry that holds block b's hash (R330). -/
def matchBlock (s : State) (p sp : Nat) (h : W64) (parent : Option Nat) : Option (Nat × PrefixEntry) :=
  s.prefixes.find? fun e => e.2.committed && e.2.hash == h && e.2.part == p && e.2.space == sp &&
    match parent with
    | none => e.2.root
    | some i => !e.2.root && e.2.parent == i

/-- Walk the blocks until the first miss: entries matched. -/
def attachWalk (s : State) (p sp : Nat) (salt : W64) (tags : List W64) : Nat → Nat → Option Nat → List (Nat × PrefixEntry)
  | 0, _, _ => []
  | n + 1, b, parent =>
    match matchBlock s p sp (blockHash salt tags b) parent with
    | none => []
    | some e => e :: attachWalk s p sp salt tags n (b + 1) (some e.1)

/-- The walk of KV_ATTACH after its reply: the matched blocks become the sequence, and each page gains a reference. -/
def attachPages (p sp seq : Nat) (k : KvSpace) (q : KvSeq) (tags : DescWord) (blocks h : Nat) (s : State) : State :=
  match readTrouble s (descPages tags) [] with
  | some t => failAccess h t s
  | none =>
    let ts := readTags s (cmdTensor tags) (256 * blocks)
    let es := attachWalk s p sp k.salt ts blocks 0 none
    let ids := es.map (·.2.page)
    let kept := ts.take (256 * ids.length)
    let hs := hashAfter k.salt kept
    let s := putSeq p sp seq { q with table := ids, length := 256 * ids.length, tags := kept, runHash := hs.1, tailHash := hs.2 }
      (addRefs p sp ids s)
    finish h 0 (w64 ids.length) (touchPages (descPages tags) s)

def attachBody (f : Nat) (hdr : Hdr) (space seq : W64) (tags : DescWord) (blocks : W64) : Body := fun s =>
  withSpace f hdr s space fun p x k =>
    needSeq k seq.toNat fun q =>
    need (q.length == 0) 0x0205 (
    need (decide (blocks.toNat ≤ k.maxPages)) 0x0201 (
    needDesc s p x tags (
    need (dFmt tags == 0x0E && decide (512 * blocks.toNat ≤ dCount tags)) 0x0202 (
      long f hdr (some p) 5 .kv s 0 (attachPages p space.toNat seq.toNat k q tags blocks.toNat)))))

def execKvAttach (fn : Fn) (hdr : Hdr) (space seq : W64) (tags : DescWord) (blocks : W64) (s : State) :
    Host.Outcome State Fault Refusal :=
  message fn hdr 0x0506 false (attachBody fn hdr space seq tags blocks) s

/-- The fault of a lost KV page (R333, Table 3 of ch. 14). -/
def kvLostFault (p sp page handle : Nat) (s : State) : State :=
  raiseFault { code := 0x5801, cls := 10, sev := 1, detail := w64 (sp ||| page <<< 32), handle := handle, parts := [p] } s

/-- The source of channel c of token t of layer l under part v. -/
def appendSource (s : State) (k v : Tensor) (chans n layer : Nat) (part t c : Nat) : Nat :=
  let d := if part = 0 then k else v
  d.readCode s (offsetOf d.d (indexOf d.d (c + chans * (t + n * layer))))

/-- The rows and tags of KV_APPEND: the space's format, n tokens of every layer, two words a tag (R334). -/
def rowsOk (k : KvSpace) (kd vd tags : DescWord) (n : Nat) : Bool :=
  dFmt kd == k.format && dFmt vd == k.format && dCount kd == k.dh * k.kvHeads * n * k.layers && dCount vd == dCount kd &&
  dFmt tags == 0x0E && dCount tags == 2 * n

/-- KV_APPEND after its reply: the rows of every layer, the tags, the staged sequence published; trouble discards it. -/
def appendTokens (p sp : Nat) (k : KvSpace) (q : KvSeq) (kd vd tags : DescWord) (n : Nat) (g : SeqStage) (h : Nat) (s : State) : State :=
  let pages := descPages kd ++ descPages vd ++ descPages tags
  match readTrouble s pages (appendPages k q g), (getSpace s p sp).bind fun k => lostPage k (appendReach q g) with
  | some t, _ => failAccess h t (discardSeq p g s)
  | none, some id => finish h 0x0402 (w64 (kvAddr k id / pageSize)) (kvLostFault p sp id h (discardSeq p g s))
  | none, none =>
    let ts := readTags s (cmdTensor tags) n
    let s0 := s
    let s := copyOnAppend k q g s
    let s := (List.range k.layers).foldl (fun s l =>
      appendRows k q.length g.table l n (appendSource s0 (cmdTensor kd) (cmdTensor vd) (k.dh * k.kvHeads) n l) s) s
    let a := absorbTags p sp h k q.length ts g s
    finish h 0 0 (touchPages (pages ++ appendPages k q g) (publishSeq p a.1 a.2))

def kvAppendBody (f : Nat) (hdr : Hdr) (space seq n : W64) (kd vd tags : DescWord) (permit : W64) : Body := fun s =>
  withSpace f hdr s space fun p x k =>
    needSeq k seq.toNat fun q =>
    need (0 < n.toNat && decide (permit.toNat < 8) && decide (blocksOf (q.length + n.toNat) ≤ k.maxPages)) 0x0201 (
    needDesc s p x kd (needDesc s p x vd (needDesc s p x tags (
    need (rowsOk k kd vd tags n.toNat) 0x0202 (
    have' (reserveSeq p space.toNat seq.toNat n.toNat (permit.setWidth 3) s) 0x0203 fun r =>
      long f hdr (some p) 5 .kv r.2 0 (appendTokens p space.toNat k q kd vd tags n.toNat r.1))))))

def execKvAppend (fn : Fn) (hdr : Hdr) (space seq n : W64) (k v tags : DescWord) (permit : W64) (s : State) :
    Host.Outcome State Fault Refusal :=
  message fn hdr 0x0507 false (kvAppendBody fn hdr space seq n k v tags permit) s

def seqQueryBody (f : Nat) (hdr : Hdr) (space seq : W64) : Body := fun s =>
  withSpace f hdr s space fun _ _ k =>
    have' (tget? k.seqs seq.toNat) 0x0201 fun q =>
      let tier (t : Nat) : Nat := (q.table.filter fun id => idTier id == t).length
      .ok { st := s, data := wordsData [q.length, q.table.length, tier 1, tier 2, tier 3,
                                        (q.table.filter fun id => (kvPage k id).state == 3).length] }

def execKvSeqQuery (fn : Fn) (hdr : Hdr) (space seq : W64) (s : State) : Host.Outcome State Fault Refusal :=
  message fn hdr 0x0508 false (seqQueryBody fn hdr space seq) s

/-- A prefix-table entry as 128 bits (Table 9). -/
def prefixWord (e : PrefixEntry) : Nat :=
  e.hash.toNat <<< 64 ||| e.page <<< 32 ||| e.part <<< 28 ||| e.space <<< 24 ||| (if e.root then 0 else e.parent) <<< 4 |||
  (if e.committed then 2 else 1) <<< 2 ||| b2n e.root <<< 1

/-- The word at a place of the prefix table as a space sees it; entries of other spaces read as empty (log 33). -/
def seenPrefix (s : State) (p sp i : Nat) : Nat :=
  match tget? s.prefixes i with
  | some e => if e.part = p && e.space = sp then prefixWord e else 0
  | none => 0

def prefixReadBody (f : Nat) (hdr : Hdr) (space : W64) (dst : DescWord) (first : W64) : Body := fun s =>
  withSpace f hdr s space fun p x _ =>
    need (decide (first.toNat < 2 ^ 20)) 0x0201 (
    needRecords s p x dst 16 (
      long f hdr (some p) 5 .kv s 0 fun h s =>
        match accessTrouble s (descPages dst) with
        | some t => finish h t.1 (w64 t.2) s
        | none =>
          let k := min (2 ^ 20 - first.toNat) (dCapacity dst / 16)
          let r := writeRecords dst 16 ((List.range k).map fun i => leBytes 16 (seenPrefix s p space.toNat (first.toNat + i))) s
          finish h 0 (w64 r.1) r.2))

def execPrefixRead (fn : Fn) (hdr : Hdr) (space : W64) (dst : DescWord) (first : W64) (s : State) : Host.Outcome State Fault Refusal :=
  message fn hdr 0x0509 false (prefixReadBody fn hdr space dst first) s

/-- Evict every idle entry of a space; how many went (Table 11). -/
def flushSpace (p sp : Nat) : Nat → State → Nat × State
  | 0, s => (0, s)
  | n + 1, s =>
    match oldest (s.prefixes.filter fun e => e.2.part == p && e.2.space == sp && entryIdle s e.2) with
    | none => (0, s)
    | some i =>
      let r := evict i s
      let q := flushSpace p sp n r.2
      (r.1 + q.1, q.2)

def flushBody (f : Nat) (hdr : Hdr) (space : W64) : Body := fun s =>
  withSpace f hdr s space fun p _ _ =>
    let r := flushSpace p space.toNat s.prefixes.length s
    .ok { st := r.2, result := w64 r.1 }

def execPrefixFlush (fn : Fn) (hdr : Hdr) (space : W64) (s : State) : Host.Outcome State Fault Refusal :=
  message fn hdr 0x050A false (flushBody fn hdr space) s

end Sys2Proof.Machine
end

