-- ==== Sys2Proof/Machine/Footprint.lean ====
section
/-!
DEFINITION. Where the state of a stopped core is saved (R509, R511, R517, R518).
-/
namespace Sys2Proof.Machine

/-! ## Where a core's state is saved -/

def spFoot (p : PatternImage) : Nat := 65536 * p.spFoot
/-- Accumulator rows of the footprint; a pattern with resident rows also saves rows 1,024 on, their copies (R511). -/
def accRows (p : PatternImage) : Nat := 64 * p.accFoot
def usesResident (p : PatternImage) : Bool :=
  p.lists.any fun l => l.any fun e => match e.op with
    | .array a => decide (2 ≤ fld a.mode 33 32)
    | .stem a => decide (2 ≤ fld a.mode 33 32)
    | _ => false
def footBytes (p : PatternImage) : Nat := spFoot p + 512 * accRows p * (if usesResident p then 2 else 1)

/-- A core's part of a job's context object: the record, then the footprint, core after core in slot order (log 35). -/
def contextAt (j : Job) (pat : PatternImage) (slot : Nat) : Nat := dAddr j.ctx + slot * (1024 + footBytes pat)
/-- Bytes that a context object must hold (R509). -/
def contextBytes (pat : PatternImage) : Nat := pat.cores * (1024 + footBytes pat)

/-- The slot of a position in its die's state-save area (R518). -/
def slotAt (q : Nat) : Nat := 5 * 2 ^ 20 * (q % 48)

/-- Where a saved core's footprint lies: its space, its scratchpad bytes, its accumulator rows and the rows of copies. -/
def savedAt (s : State) (c : Nat) (j : Job) (pat : PatternImage) (slot : Nat) (inSlot : Bool) : Space × Nat × Nat × Nat :=
  if inSlot then
    let at' := slotAt ((posOf s c).getD 0)
    (.save (dieOfCore c), at', at' + 2 ^ 22, at' + 2 ^ 22 + 512 * 1024)
  else
    let at' := contextAt j pat slot + 1024
    (.unified, at', at' + spFoot pat, at' + spFoot pat + 512 * accRows pat)

end Sys2Proof.Machine
end

