-- ==== Sys2Proof/Machine/StepOps.lean ====
section
/-!
DEFINITION. What commit, frog and a fault do to a step's staged state (Table 6 of ch. 05, R202 to R206), the replay log
(R214 to R216), locks (R526), and the ways in which a step ends.
-/
namespace Sys2Proof.Machine

/-! ## Banks (Table 3 of ch. 05) -/

/-- The 64-byte header of a bank. -/
def bankHeader (b : Bank) : Nat :=
  b.elements ||| b.cur <<< 40 ||| b.wfmt <<< 48 ||| b2n b.work <<< 53 ||| b.opt <<< 54 ||| b.t.1 <<< 64 |||
  b.p1.1.toNat <<< 96 ||| b.p2.1.toNat <<< 128 ||| b.t.2 <<< 160 ||| b.p1.2.toNat <<< 192 ||| b.p2.2.toNat <<< 224 |||
  b.skipped <<< 256 ||| b.nonfinMade <<< 288

def putBank (p i : Nat) (b : Bank) (s : State) : State :=
  touchPages (pagesOf b.header 64) ((modPart p (fun x => { x with banks := tset x.banks i b }) s).writeNat .unified b.header 64 (bankHeader b))

/-- Half h of a pair. -/
def half {α : Type} (h : Nat) (p : α × α) : α := if h = 0 then p.1 else p.2
def setHalf {α : Type} (h : Nat) (v : α) (p : α × α) : α × α := if h = 0 then (v, p.2) else (p.1, v)

/-- Commit of one bank: CUR flips with its staged header when the update was applied, else SKIPPED goes up (R198). -/
def publishBank (p : Nat) (st : BankStage) (s : State) : State :=
  match (getPart s p).bind fun x => tget? x.banks st.bank with
  | none => s
  | some b =>
    match st.applied with
    | some true =>
      let n := 1 - b.cur
      putBank p st.bank { b with cur := n, t := setHalf n st.t b.t, p1 := setHalf n st.p1 b.p1, p2 := setHalf n st.p2 b.p2,
                                 nonfinMade := st.nonfinMade } s
    | some false => putBank p st.bank { b with skipped := (b.skipped + 1) % 2 ^ 32 } s
    | none => s

/-- Counts of a stitch's narrowings go to the core's counters (R133, R169). -/
def addCounts (c : Nat) (k : Cnt) (made : Nat) (s : State) : State :=
  coreEvent c 0x200E made (coreEvent c 0x2011 k.nonfin (coreEvent c 0x2010 k.und (coreEvent c 0x200F k.sat s)))

/-- n free bytes. -/
def freeBytes : Nat → State → List Byte × State
  | 0, s => ([], s)
  | n + 1, s => let f := takeFree s; let r := freeBytes n f.2; (f.1.setWidth 8 :: r.1, r.2)

/-- n bytes of the unified range become undefined: free values (log 4). -/
def scrambleBytes (at' n : Nat) (s : State) : State :=
  let r := freeBytes n s
  r.2.write .unified at' r.1

/-- A tensor's elements, and its block scales with their tensor scale, become undefined. -/
def scramble (d : DescWord) (s : State) : State :=
  let s := if dSpace d = 0 then scrambleBytes (dAddr d) (dExtent d) s else s
  if scaled (dFmt d) && dScaleSpace d == 0 then scrambleBytes (dScaleAddr d) (dScaleBytes d) s else s

/-- Frog of a bank that an update wrote: the contents of its shadow half are undefined (Table 6 of ch. 05). -/
def discardBank (p : Nat) (st : BankStage) (s : State) : State :=
  match st.applied, (getPart s p).bind fun x => tget? x.banks st.bank with
  | some true, some b =>
    let n := 1 - b.cur
    scramble (half n b.w) (scramble (half n b.m) (scramble (half n b.v) (if b.work then scramble (half n b.k) s else s)))
  | _, _ => s

/-! ## Resident rows at commit and frog (R164) -/

/-- Put rows back on a core, resident. -/
def putRows (c : Nat) (rs : List (Nat × List Byte)) (s : State) : State :=
  modCore c (fun x => { x with resident := (List.range 1024).filter fun r => x.resident.contains r || rs.any fun q => q.1 == r })
    (rs.foldl (fun s q => s.write (.acc c) (512 * q.1) q.2) s)

/-- Rows of ACC 3 leave the resident set and read +0. -/
def endRows (c : Nat) (rs : List Nat) (s : State) : State :=
  modCore c (fun x => { x with resident := x.resident.filter fun r => !rs.contains r }) (rs.foldl (fun s r => s.clear (.acc c) (512 * r) 512) s)

/-- What waited for the core to be used again happens: resident rows of a step that was frogged while saved go back, and rows end
whose step committed while another one held the core, unless that one is still saved here. -/
def rowsHome (c : Nat) (s : State) : State :=
  let x := coreOf s c
  let kept (e : Nat × Nat) : Bool := x.saved.any fun v => v.step == e.1
  let s := endRows c ((x.rowsFinal.filter fun e => !kept e).map (·.2)) (putRows c x.rowsBack s)
  modCore c (fun x => { x with rowsBack := [], rowsFinal := x.rowsFinal.filter kept }) s

/-- The committed resident rows of a saved core: those that the step made resident are left out, those that it wrote come from
their copies. -/
def savedRows (s : State) (c : Nat) (v : Saved) : List (Nat × List Byte) :=
  match stepJob s v.step, stepPattern s v.step with
  | some j, some pat =>
    let m := coreMarks s v.step c
    let p := savedAt s c j pat v.slot v.inSlot
    let res := s.readNat .unified (contextAt j pat v.slot) 1024 >>> 5120 % 2 ^ 1024
    ((bitsOf 1024 res).filter fun r => !m.fresh.contains r && (r < accRows pat)).map fun r =>
      (r, s.read p.1 ((if m.copied.contains r then p.2.2.2 else p.2.2.1) + 512 * r) 512)
  | _, _ => []

/-- Frog: the rows of a core go back to their copies; rows that first became resident in the step leave the set. Where the
step's state is saved, they come from there. -/
def restoreRows (h c : Nat) (s : State) : State :=
  match (coreOf s c).saved.find? fun v => v.step == h with
  | some v =>
    let back := savedRows s c v
    if coreIdle (coreOf s c) then putRows c back s else modCore c (fun x => { x with rowsBack := x.rowsBack ++ back }) s
  | none =>
    let m := coreMarks s h c
    let s := m.copied.foldl (fun s r => s.write (.acc c) (512 * r) (rowBytes s c (1024 + r))) s
    modCore c (fun x => { x with resident := x.resident.filter fun r => !m.fresh.contains r }) s

/-- Commit: the copies are released; rows of ACC 3 leave the set and read +0, for a step that another commit finds on the core only
once it is gone (R48). -/
def commitRows (h c : Nat) (s : State) : State :=
  let m := coreMarks s h c
  let x := coreOf s c
  match (x.step.toList ++ x.saved.map (·.step)).filter (· != h) with
  | [] => endRows c m.final s
  | k :: _ => modCore c (fun x => { x with rowsFinal := x.rowsFinal ++ m.final.map fun r => (k, r) }) s

/-! ## Locks (R526) -/

def lockOf (x : Partition) (n : Nat) : Lock := tget x.locks n {}

/-- The class of a step's job. -/
def stepClass (s : State) (h : Nat) : Nat := ((stepJob s h).map (·.cls)).getD 3

/-- The waiter that takes a lock: ascending class, then the order in which they began to wait. -/
def nextWaiter (s : State) (ws : List (Nat × Nat × Nat)) : Option (Nat × Nat × Nat) :=
  ws.foldl (fun b w => match b with
    | none => some w
    | some a => if stepClass s w.1 < stepClass s a.1 then some w else some a) none

/-- CS_BOUND of the ACQUIRE that a lane waits at. -/
def boundOf (s : State) (c l : Nat) : Nat :=
  match laneEntry s c l with
  | some (_, e) => match e.op with | .acquire _ b => b | _ => 0
  | none => 0

/-- Free a lock: the next waiter takes it and goes on. -/
def freeLock (p n : Nat) (s : State) : State :=
  match getPart s p with
  | none => s
  | some x =>
    let k := lockOf x n
    match nextWaiter s k.waiters with
    | none => modPart p (fun x => { x with locks := tdel x.locks n }) s
    | some w =>
      let k := { holder := some w.1, bound := boundOf s w.2.1 w.2.2, waiters := k.waiters.filter (· != w), loan := false }
      passEntry w.2.1 w.2.2 (modPart p (fun x => { x with locks := tset x.locks n k }) s)

/-- Locks that a step holds. -/
def locksHeld (x : Partition) (h : Nat) : List Nat := (x.locks.filter fun e => e.2.holder == some h).map Prod.fst

def freeLocks (h : Nat) (s : State) : State :=
  match getPart s (handlePart h) with
  | none => s
  | some x =>
    let s := modPart (handlePart h) (fun x => { x with
      locks := tmap x.locks fun _ k => { k with waiters := k.waiters.filter fun w => w.1 != h }
      sems := tmap x.sems fun _ m => { m with waiters := m.waiters.filter fun w => (coreOf s w.1).step != some h } }) s
    (locksHeld x h).foldl (fun s n => freeLock (handlePart h) n s) s

/-! ## The replay log (R214 to R216) -/

/-- The tensors that a pattern's header lists, for one step (R216). -/
def digestList (s : State) (h : Nat) (ids : List Nat) : List (W32 × W64) :=
  (ids.filterMap (stepTensor s h)).map fun t => (dTensorId t.d, digestOf s t)

def digestEntry (kind : Nat) (bad : Bool) (e : W32 × W64) : List Byte :=
  leBytes 16 (kind <<< 124 ||| b2n bad <<< 123 ||| e.1.toNat <<< 64 ||| e.2.toNat)

/-- The reductions that a step ran: those that have started, a call of which the member was excluded among them, but no thinned one
(R476, R487, R493). -/
def ranReductions (st : Step) : List CallRun := st.calls.filter fun c => c.phase != .waiting && !c.thinned && decide (fld c.word 394 392 ≤ 1)

/-- A reduction-order entry: start rank 1 for DIR 0 and N − 1 for DIR 1, the direction, whether a second pass ran (R476). -/
def orderEntry (s : State) (p : Nat) (c : CallRun) : List Byte :=
  let n := match (getPart s p).bind fun x => tget? x.pelotons (fld c.word 511 496) with
    | some q => fld q.header 495 484
    | none => 0
  leBytes 16 (2 <<< 124 ||| fld c.word 511 496 <<< 80 ||| c.call <<< 64 ||| (if bitAt c.word 387 then n else 1) <<< 48 |||
    b2n (bitAt c.word 387) <<< 47 ||| b2n (decide (2 ≤ c.pass)) <<< 46)

def lateEntry (e : Nat × Nat × Nat × Nat) : List Byte :=
  leBytes 16 (3 <<< 124 ||| e.1 <<< 80 ||| e.2.1 <<< 64 ||| e.2.2.1 <<< 48 ||| e.2.2.2 <<< 46)

/-- The header of a record (Table 8). -/
def recordHeader (s : State) (h outcome units : Nat) (st : Step) (pat : PatternImage) (trunc : Bool) (nIn nOut nOrd nLate : Nat) : Nat :=
  units ||| 1 <<< 16 ||| outcome <<< 24 ||| b2n st.det <<< 28 ||| b2n st.replayOf.isSome <<< 29 ||| b2n trunc <<< 30 |||
  st.epoch <<< 32 ||| h <<< 64 ||| pat.imageCrc.toNat <<< 128 ||| st.seed.toNat <<< 192 |||
  (imageVersion s.steward.image).toNat <<< 256 ||| st.status <<< 288 ||| st.tickStart.toNat <<< 320 |||
  s.steward.tick.toNat <<< 384 ||| nIn <<< 448 ||| nOut <<< 464 ||| nOrd <<< 480 ||| nLate <<< 496 ||| st.guardAct <<< 512 |||
  st.nonfinBlocks <<< 528 ||| st.norm.toNat <<< 560 ||| st.clip.toNat <<< 592

/-- The log that a step was admitted under (R214). -/
def stepLog (s : State) (h : Nat) : Option ReplayLog :=
  match getPart s (handlePart h), getStep s h with
  | some x, some st => st.log.bind fun a => tget? x.logs a
  | _, _ => none

/-- Keep a log's write offset and wrap count. -/
def putLog (p : Nat) (lg : ReplayLog) (s : State) : State :=
  modPart p (fun x => { x with
    logs := tset x.logs lg.addr lg
    log := match x.log with
      | some l => if l.addr = lg.addr then some lg else some l
      | none => none }) s

/-- The entries of a step's replay record in order, and how many of each kind: inputs, outputs, reductions (R215). -/
def recordEntries (s : State) (h : Nat) (st : Step) (pat : PatternImage) : List (List Byte) × Nat × Nat × Nat :=
  let ins := digestList s h pat.digestsIn
  let outs := digestList s h pat.digestsOut
  let runs := ranReductions st
  (ins.map (digestEntry 0 false) ++ outs.map (digestEntry 1 false) ++ runs.map (orderEntry s (handlePart h)) ++ st.lateLog.map lateEntry,
   ins.length, outs.length, runs.length)

/-- The most entries that a record holds. -/
def recordRoom : Nat := (65536 - 128) / 16

/-- Where a record of some bytes goes in a log, and whether it wraps. -/
def recordPlace (lg : ReplayLog) (size : Nat) : Nat × Bool :=
  let wrap := decide (lg.size < lg.offset + size)
  (if wrap then 64 else lg.offset, wrap)

/-- Pages of the log that a step's record is written to (R369). -/
def recordPages (s : State) (h : Nat) : List Nat :=
  match getStep s h, stepPattern s h, stepLog s h with
  | some st, some pat, some lg =>
    let size := 128 + 16 * min recordRoom (recordEntries s h st pat).1.length
    let at' := recordPlace lg size
    pagesOf lg.addr 16 ++ pagesOf (lg.addr + at'.1) size ++ (if at'.2 then pagesOf (lg.addr + lg.offset) (lg.size - lg.offset) else [])
  | _, _, _ => []

/-- Write a step's record; the step keeps the offset at which it lies (R214, R215). A log with a LOST page takes no record (R369). -/
def writeReplayRecord (h outcome : Nat) (s : State) : State :=
  let p := handlePart h
  match getStep s h, stepPattern s h, stepLog s h with
  | some st, some pat, some lg =>
    if (accessTrouble s (recordPages s h)).isSome then s else
    let all := recordEntries s h st pat
    let kept := all.1.take recordRoom
    let trunc := decide (kept.length < all.1.length)
    let size := 128 + 16 * kept.length
    let ni := min all.2.1 kept.length
    let no := min all.2.2.1 (kept.length - all.2.1)
    let nr := min all.2.2.2 (kept.length - all.2.1 - all.2.2.1)
    let head := recordHeader s h outcome (size / 16) st pat trunc ni no nr (kept.length - all.2.1 - all.2.2.1 - all.2.2.2)
    let place := recordPlace lg size
    let s := if place.2 && decide (lg.offset < lg.size) then
        s.write .unified (lg.addr + lg.offset) (leBytes 4 ((lg.size - lg.offset) / 16 % 65536 ||| 1 <<< 16) ++ List.replicate (lg.size - lg.offset - 4) 0)
      else s
    let at' := place.1
    let lg := { lg with offset := at' + size, wraps := lg.wraps + b2n place.2 }
    let s := s.write .unified (lg.addr + at') (leBytes 128 head ++ kept.flatten)
    let s := s.write .unified lg.addr (leBytes 8 lg.offset ++ leBytes 8 lg.wraps)
    let s := touchPages (pagesOf lg.addr 16 ++ pagesOf (lg.addr + at') size) s
    let s := if trunc then devEvent 0x2022 p 1 s else s
    putLog p lg (modStep h (fun st => { st with record := some at' }) s)
  | _, _, _ => s

/-- Rewrite OUTCOME of a step's record unless a newer record lies there (R215). -/
def markRecord (h outcome : Nat) (s : State) : State :=
  match (getStep s h).bind (·.record), stepLog s h with
  | some off, some lg =>
    if s.readNat .unified (lg.addr + off + 8) 8 = h then
      let b := s.readNat .unified (lg.addr + off + 3) 1
      touchPages (pagesOf (lg.addr + off) 8) (s.writeNat .unified (lg.addr + off + 3) 1 (b / 16 * 16 + outcome))
    else s
  | _, _ => s

/-! ## Commit and discard (R202, R204) -/

/-- Publish staged amax values; the history holds 4,096 keys (R203). -/
def publishAmax (p : Nat) (a : Table W32) (s : State) : State :=
  modPart p (fun x => { x with amax := a.foldl (fun t e => if (tget? t e.1).isSome || t.length < 4096 then tset t e.1 e.2 else t) x.amax }) s

/-- Stage the amax of a tensor; a key that would be the 4,097th of the history, those that steps in flight have staged
included, stages nothing and counts an event (R203). -/
def stageAmax (h : Nat) (tensor v : W32) (s : State) : State :=
  match getPart s (handlePart h), getStep s h with
  | some x, some st =>
    let k := tensor.toNat
    let old := tget? st.amax k
    let keys := (tkeys x.amax ++ x.steps.flatMap fun e => if stepHolds e.2 then tkeys e.2.amax else []).eraseDups
    if old.isNone && !keys.contains k && decide (4096 ≤ keys.length) then devEvent 0x2021 (handlePart h) 1 s
    else
      let a := (old.getD 0)
      setStep h { st with amax := tset st.amax k (if Val.lt (f32 a) (f32 v) then v else a) } s
  | _, _ => s

/-- Messages held for a step that leaves the running state are dropped and counted (R471). -/
def dropHeld (p epoch attempt : Nat) (s : State) : State :=
  match getPart s p with
  | none => s
  | some x =>
    let mine (m : CollMsg) : Bool := m.stepEpoch == epoch && fld m.header 198 191 == attempt && decide (m.mtype < 0x21)
    x.pelotons.foldl (fun s e =>
      let n := (e.2.inbox.filter mine).length
      if n = 0 then s else
        devEvent 0x300D e.1 n (modPart p (fun x => { x with pelotons := tupd x.pelotons e.1 fun q =>
          { q with inbox := q.inbox.filter fun m => !mine m, stale := q.stale + n } }) s)) s

/-- Release the spill windows of a step's codec calls (R409). -/
def releaseSpills (h : Nat) (s : State) : State :=
  match getStep s h with
  | none => s
  | some st =>
    modStep h (fun st => { st with spills := [] }) (modPart (handlePart h) (fun x => { x with
      sessions := tmap x.sessions fun i n => { n with spills := n.spills.filter fun w => !st.spills.any fun v => v.1 == i && v.2 == w && v.2.2 != 0 } }) s)

/-- Sync counts and the last committed epoch of the pelotons that the step called (R471, R493). -/
def commitPelotons (h : Nat) (s : State) : State :=
  match getStep s h with
  | none => s
  | some st =>
    let called := (st.calls.filter (·.issued)).map fun c => fld c.word 511 496
    modPart (handlePart h) (fun x => { x with
      pelotons := tmap x.pelotons fun i q => if called.contains i then { q with sync := (q.sync + 1) % 2 ^ 32, lastCommitted := some st.epoch } else q }) s

/-- A park joins the published ones; an existing park of its key is added into it, one FP32 addition per element (R488). -/
def joinPark (l : List Park) (k : Park) : List Park :=
  match l.find? fun o => o.pel == k.pel && o.tensor == k.tensor && o.call == k.call with
  | none => l ++ [k]
  | some o => l.map fun i => if i == o then
      { k with values := (List.range k.values.length).map fun j => fadd (k.values.getD j 0) (o.values.getD j 0) } else i

/-- Commit of the parks: those that the step has added are released, its new ones are published (R488, Table 6). -/
def publishParks (st : Step) (l : List Park) : List Park :=
  st.parksNew.foldl joinPark (l.filter fun k => !(st.parksSeen.contains k && st.parksUsed.contains (k.pel, k.tensor, k.call)))

/-- STEP_COMMIT: every action of the commit column at once. -/
def commitStep (h : Nat) (s : State) : State :=
  let p := handlePart h
  match getStep s h with
  | none => s
  | some st =>
    let cores := stepCores s h
    let s := st.banks.foldl (fun s b => publishBank p b s) s
    let s := modStep h (fun st => { st with rows := [] }) (cores.foldl (fun s c => commitRows h c s) s)
    let s := publishAmax p st.amax s
    let s := modPart p (fun x => { x with parks := publishParks st x.parks }) s
    let s := st.seqs.foldl (fun s q => publishSeq p q s) s
    let s := dropHeld p st.epoch st.attempt (releaseSpills h (commitPelotons h s))
    let s := markRecord h 2 s
    modHandle h (fun r => { r with state := .committed }) (modStep h (fun st => { st with state := .committed, holds := [] }) s)

/-- The frog column of Table 6 of ch. 05, with the locks and the cores' state. -/
def dropStaged (h : Nat) (s : State) : State :=
  let p := handlePart h
  match getStep s h with
  | none => s
  | some st =>
    let s := if st.replayOf.isSome then s else st.banks.foldl (fun s b => discardBank p b s) s
    let s := modStep h (fun st => { st with rows := [] }) ((stepCores s h).foldl (fun s c => restoreRows h c s) s)
    let s := st.seqs.foldl (fun s q => discardSeq p q s) s
    freeLocks h (releaseSpills h (releaseCores h s))

/-- A step becomes discarded: the frog column, and its epoch may be named again (R54). -/
def discardStep (h : Nat) (s : State) : State :=
  let p := handlePart h
  match getStep s h with
  | none => s
  | some st =>
    let s := dropHeld p st.epoch st.attempt (dropStaged h s)
    let s := modPart p (fun x => { x with discardedEpochs := x.discardedEpochs ++ [(st.job, st.epoch, st.attempt)] }) s
    let s := markRecord h 3 s
    modHandle h (fun r => { r with state := if r.state == .ended then .ended else .discarded })
      (modStep h (fun st => { st with state := .discarded, holds := [], banks := [], seqs := [], parksNew := [], parksUsed := [] }) s)

/-- A frogged running step whose cores are all at boundaries: its record, the frog column, its entry (R50, R205). -/
def finishFrog (h : Nat) (s : State) : State :=
  match getStep s h with
  | none => s
  | some st =>
    let s := modStep h (fun st => { st with status := 0x0301, frogging := false }) s
    let s := writeReplayRecord h 3 s
    complete h .discarded 0x0301 (st.conds.setWidth 64) st.epoch (discardStep h s)

/-- A replay ends: its state is discarded, and messages held for it are dropped (R217, R220, R471). -/
def endReplay (h : Nat) (s : State) : State :=
  match getStep s h with
  | none => s
  | some st => dropHeld (handlePart h) st.epoch st.attempt (modStep h (fun st => { st with state := .discarded }) (dropStaged h s))

/-- The job lets go of its quads. -/
def releaseQuads (h : Nat) (s : State) : State :=
  match getStep s h with
  | none => s
  | some st => modJob (handlePart h) st.job (fun j => { j with holdsQuads := false, lent := none }) s

/-- A fault or a fault status stops a running step: its cores stop at once, its entry is posted, its record is written
(R35, R46, R215). RESULT holds a page where the status names one (R364, R369), else a bit for each condition that occurred
(R206; log 122). A replay ends with FAULT_STOPPED and its state is discarded (R220). A running step whose frog has been answered and
that a fault stops first is stopped, and the frog is forgotten (DESIGN CHOICE, log 141). -/
def stopFaulty (h status : Nat) (result : W64) (s : State) : State :=
  match getStep s h with
  | none => s
  | some st =>
    if st.state != .running then s else
      let replay := st.replayOf.isSome
      let status := if replay then 0x0401 else status
      let result := if replay then st.conds.setWidth 64 else result
      let s := (runningOn s h).foldl (fun s c => cutStitches c s) s
      let s := modStep h (fun st => { st with status := status, result := result, state := .stopped, suspended := false, frogging := false }) s
      let s := releaseQuads h (writeReplayRecord h 4 s)
      if replay then finish h status result (endReplay h s)
      else
        let s := { s with cores.cores := tmap s.cores.cores fun _ x => if x.step == some h then idleCore x else x }
        let s := armSlots { s with cores.cds := tmap s.cores.cds fun _ d => { d with stem := d.stem.filter fun q => (coreOf s q.1).step.isSome } }
        complete h .stopped status (if status = 0x0401 then st.conds.setWidth 64 else result) st.epoch s

/-- The step ends after an access to a page of trouble (R364, R369). -/
def stopOnPage (h : Nat) (t : Nat × Nat) (s : State) : State := stopFaulty h t.1 (w64 t.2) s

/-- Steps of a partition that are queued; an armed slot's step is not (R90). -/
def isQueued (st : Step) : Bool := st.state == .queued && st.slot.isNone

/-- A job has a step that is running, held or stopped (R49); replays stand outside (R220). -/
def jobBusy (x : Partition) (j : Nat) : Bool := x.steps.any fun e => e.2.job == j && stepHolds e.2 && e.2.replayOf.isNone

/-- The slots, of whichever function, in which a step is armed are disarmed. -/
def freeSlots (h : Nat) (s : State) : State :=
  { s with host.fns := tmap s.host.fns fun _ y => { y with slots := y.slots.filter fun e => !(e.2.handle == h && e.2.state == 1) } }

/-- Remove a queued or armed step (R62): what was reserved for it goes back, the slot that held it is disarmed; it never runs. -/
def dropQueued (h : Nat) (s : State) : State :=
  let p := handlePart h
  match getStep s h with
  | none => s
  | some st =>
    let s := st.seqs.foldl (fun s q => discardSeq p q s) s
    modPart p (fun x => { x with steps := tdel x.steps h }) (releaseSpills h (freeSlots h s))

end Sys2Proof.Machine
end

