-- ==== Sys2Proof/Machine/SaveState.lean ====
section
/-!
DEFINITION. Saving and restoring a core (R511, R512, R517 to R520).
-/
namespace Sys2Proof.Machine

/-! ## The context record (Table 4) -/

def waitCode : Option WaitOn → Nat
  | none => 0xFFFF
  | some (.sem n) => n
  | some (.lock n) => n
  | some (.merge n) => 0x8000 ||| n
  | some (.call n) => 0x9000 ||| n
  | some (.halo n) => 0xA000 ||| n
  | some (.amax n) => 0xB000 ||| n
  | some .stem => 0xC000
  | some .ring => 0xD000

def contextRecord (s : State) (c h : Nat) : Nat :=
  let x := coreOf s c
  let ep := ((getStep s h).map (·.epoch)).getD 0
  let lanes := (List.range 8).map fun l => match tget? x.lanes l with
    | some a => a.next <<< 16 ||| waitCode a.waitOn
    | none => 0xFFFF
  let movers := (List.range 16).map fun i => x.movers.getD i 0xFFFF
  (x.npOpen.getD 0xFF) <<< 3440 ||| x.slot <<< 3448 ||| h <<< 3456 ||| ep <<< 3520 ||| x.amax.toNat <<< 3552 |||
  packAll 16 movers <<< 3584 ||| packAll 32 lanes <<< 3840 ||| maskOf (coreMarks s h c).copied <<< 4096 ||| maskOf x.resident <<< 5120 |||
  packAll 64 ((List.range 32).map fun i => (tget x.sregs i 0).toNat) <<< 6144

/-- Write a core's footprint where `savedAt` says: scratchpad bytes, accumulator rows, the rows of copies. -/
def saveFoot (s : State) (c : Nat) (pat : PatternImage) (p : Space × Nat × Nat × Nat) : State :=
  let rows := 512 * accRows pat
  let s1 := s.write p.1 p.2.1 (s.read (.spad c) 0 (spFoot pat))
  let s2 := s1.write p.1 p.2.2.1 (s.read (.acc c) 0 rows)
  if usesResident pat then s2.write p.1 p.2.2.2 (s.read (.acc c) (512 * 1024) rows) else s2

def restoreFoot (s : State) (c : Nat) (pat : PatternImage) (p : Space × Nat × Nat × Nat) : State :=
  let rows := 512 * accRows pat
  let s1 := s.write (.spad c) 0 (s.read p.1 p.2.1 (spFoot pat))
  let s2 := s1.write (.acc c) 0 (s.read p.1 p.2.2.1 rows)
  if usesResident pat then s2.write (.acc c) (512 * 1024) (s.read p.1 p.2.2.2 rows) else s2

/-- The save of a core lands (R512, R517): the footprint, then the record; the core is idle. A LOST page of the context object
stops the step (R369). -/
def landSave (c : Nat) (s : State) : State :=
  let x := coreOf s c
  match x.step with
  | none => s
  | some h =>
    match stepJob s h, stepPattern s h with
    | some j, some pat =>
      let inSlot := x.stop == some .preempt
      let rec' := contextRecord s c h
      let base := contextAt j pat x.slot
      match accessTrouble s (pagesOf base (1024 + if inSlot then 0 else footBytes pat)) with
      | some t => stopOnPage h t (setCore c (idleCore x) s)
      | none =>
      let s := saveFoot s c pat (savedAt s c j pat x.slot inSlot)
      let s := touchPages (pagesOf base (1024 + if inSlot then 0 else footBytes pat)) (s.writeNat .unified base 1024 rec')
      let keep : Saved := { step := h, part := x.part, slot := x.slot, lanes := tmap x.lanes fun _ a => { a with started := false },
                            walk := x.walk, sentinel := x.sentinel, residency := x.residency,
                            lateLayers := x.lateLayers, layerWaits := x.layerWaits, inSlot := inSlot }
      armSlots (setCore c { idleCore x with saved := x.saved ++ [keep], resident := [] } s)
    | _, _ => setCore c (idleCore x) s

/-- The restore of a core lands (R520): footprint, record, lanes; cut work is issued again. -/
def landRestore (c : Nat) (v : Saved) (s : State) : State :=
  let x := coreOf s c
  match stepJob s v.step, stepPattern s v.step with
  | some j, some pat =>
    let base := contextAt j pat v.slot
    match accessTrouble s (pagesOf base (1024 + footBytes pat)) with
    | some t => stopOnPage v.step t s
    | none =>
      let s := touchPages (pagesOf base (1024 + if v.inSlot then 0 else footBytes pat)) (restoreFoot s c pat (savedAt s c j pat v.slot v.inSlot))
      let r := s.readNat .unified base 1024
      let word (lo w i : Nat) : Nat := r >>> (lo + w * i) % 2 ^ w
      let np := word 3440 8 0
      let lanes := tmap v.lanes fun l a => { a with next := word 3840 32 l / 65536 }
      let movers := ((List.range 16).map (word 3584 16)).filter (· != 0xFFFF)
      let s := setCore c { idleCore x with
        saved := x.saved.filter (· != v), step := some v.step, part := v.part, slot := v.slot, lanes := lanes, movers := movers,
        sregs := (List.range 32).map fun i => (i, w64 (word 6144 64 i)), resident := bitsOf 1024 (word 5120 1024 0),
        amax := w32 (word 3552 32 0), npOpen := if np = 0xFF then none else some np,
        walk := v.walk, sentinel := v.sentinel, residency := v.residency, lateLayers := v.lateLayers, layerWaits := v.layerWaits } s
      armSlots ((tkeys lanes).foldl (fun s l =>
        if (laneOf s c l).waitOn.isSome then s else settleLane c l (laneFuel s c) s) s)
  | _, _ => setCore c { x with saved := x.saved.filter (· != v) } s

end Sys2Proof.Machine
end

