-- ==== Sys2Proof/Machine/Sched.lean ====
section
/-!
DEFINITION. Scheduling (chapter 13): jobs, admission, class-0 starts, saves and restores, the tick's accounts and grants,
stop and resume, commit and frog.
-/
namespace Sys2Proof.Machine

/-! ## Admission (R45, R49, R190, R220) -/

/-- Banks that a step's update instructions name, through its update descriptors (R190, R192). -/
def bankNumbers (table : List Binding) : List Nat :=
  (table.filterMap fun b => match b with | .update w => some (fld w 287 256) | _ => none).eraseDups

/-- The binding table of a step: its own, or its image's. -/
def stepTable (s : State) (h : Nat) : List Binding :=
  match getStep s h, stepPattern s h with
  | some st, some pat => if st.table.isEmpty then pat.bindings else st.table
  | _, _ => []

/-- Another step of the partition holds a bank staged (R190); a replay takes no bank (R220). -/
def bankStaged (x : Partition) (h bank : Nat) : Bool :=
  x.steps.any fun e => e.1 != h && stepHolds e.2 && e.2.replayOf.isNone && e.2.banks.any fun b => b.bank == bank

/-- The first queued step of a job, in the order of submission. -/
def firstQueued (x : Partition) (j : Nat) : Option Nat :=
  (x.steps.find? fun e => e.2.job == j && isQueued e.2 && e.2.replayOf.isNone).map Prod.fst

/-- A replay of a job runs (R220). -/
def replayRuns (x : Partition) (j : Nat) : Bool := x.steps.any fun e => e.2.job == j && e.2.state == .running && e.2.replayOf.isSome

/-- Pelotons that a binding table calls: through call words and ring walks. -/
def tablePelotons (t : List Binding) : List Nat :=
  (t.filterMap fun b => match b with
    | .call w => some (fld w 511 496)
    | .attn a => if fld a 479 464 = 0xFFFF then none else some (fld a 479 464)
    | _ => none).eraseDups

/-- A step calls a peloton (R495, R503). -/
def stepUses (s : State) (h n : Nat) : Bool := (tablePelotons (stepTable s h)).contains n

/-- A re-shard in progress holds the steps that call its peloton in the queue (R495). -/
def reshardHolds (s : State) (x : Partition) (h : Nat) : Bool :=
  (tablePelotons (stepTable s h)).any fun n => match (tget? x.pelotons n).bind (·.lap) with
    | some (.reshard _ _ _ _ _) => true
    | _ => false

/-- The job and banks of a queued step allow its admission; a step started from a slot does not wait for steps of its job
that are only queued (R94). -/
def turnComes (s : State) (h : Nat) (fast : Bool) : Bool :=
  match getPart s (handlePart h), getStep s h with
  | some x, some st =>
    isQueued st && !reshardHolds s x h &&
    if st.replayOf.isSome then !(x.steps.any fun e => e.2.job == st.job && e.2.state == .running)
    else (fast || firstQueued x st.job == some h) && !jobBusy x st.job && !replayRuns x st.job &&
      (bankNumbers (stepTable s h)).all fun b => !bankStaged x h b
  | _, _ => false

/-- Objects that the hold bindings of a step reach (R347). -/
def holdObjects (s : State) (h : Nat) : List Nat :=
  match stepPattern s h with
  | none => []
  | some pat => (pat.holds.flatMap fun i => match stepBinding s h i with
      | some (.desc d) => (descPages d).filterMap fun g => (pageEntry s g).map (·.object)
      | _ => []).eraseDups

/-- The calls that a step's pattern can issue, from its stitch lists (R466). -/
def stepCalls (s : State) (h : Nat) : List CallRun :=
  match stepPattern s h with
  | none => []
  | some pat =>
    let cores := stepCores s h
    ((List.range pat.lists.length).zip pat.lists).flatMap fun l => l.2.filterMap fun e => match e.op with
      | .call b => match stepBinding s h b with
        | some (.call w) => some { call := fld w 495 480, word := w, core := cores.getD l.1 0 }
        | _ => none
      | _ => none

/-- What a step keeps of the partition's pelotons (R493, R494, R503). -/
def pelotonMarks (x : Partition) : List PelMark := x.pelotons.map fun q =>
  { num := q.1, layout := q.2.layout, sync := q.2.sync, window := q.2.window, peerLimit := q.2.peerLimit,
    latePolicy := q.2.latePolicy, thin := q.2.thin, headroom := q.2.headroom }

/-- The sequences that a step's walks read, as they are now (R48, R300). -/
def seqViews (s : State) (h : Nat) : List SeqView :=
  ((stepTable s h).filterMap fun b => match b with
    | .attn a => if aSrc a = 2 then seqBinding (stepBinding s h (aSeq a)) else none
    | _ => none).eraseDups.filterMap fun q => (getSpace s (handlePart h) q.1).bind fun kv => (tget? kv.seqs q.2).map fun r =>
      { space := q.1, seq := q.2, length := r.length, table := r.table }

/-- The next value of a step-epoch counter (R45). -/
def nextEpoch (e : Nat) : Nat := if e = 0xFFFFFFFF then 1 else e + 1

/-- Semaphores of the job take their starting counts (R525); LAYER of each halo slot becomes 0xFFFF (R279). -/
def startSems (h : Nat) (s : State) : State :=
  match stepPattern s h with
  | none => s
  | some pat =>
    let s := modPart (handlePart h) (fun x => { x with sems := pat.sems.foldl (fun t m => tset t m.1 { value := m.2 }) x.sems }) s
    pat.haloSlots.foldl (fun s k => match stepTensor s h k.slot with
      | some t => s.write t.space (dAddr t.d) [0xFF, 0xFF]
      | none => s) s

/-- Arming has loaded the weights of the slot that a step was started from (R91). -/
def slotLoaded (s : State) (h : Nat) : Bool := s.host.fns.any fun f => f.2.slots.any fun y => y.2.handle == h && y.2.state == 2 && y.2.weights

/-- The first stitches of a step are issued: every core takes the step, its binding words, an amax of +0 (R169, R247); the
weights that arming loaded stay (R91). -/
def issueStep (h : Nat) (s : State) : State :=
  match getStep s h, stepPattern s h with
  | some st, some pat =>
    let cores := stepCores s h
    let armed := slotLoaded s h
    armSlots (((List.range cores.length).zip cores).foldl (fun s q =>
      let s := rowsHome q.2 s
      let x := coreOf s q.2
      let s := setCore q.2 { idleCore x with
        weights := if armed then x.weights else none, active := if armed then x.active else [],
        shadow := if armed then x.shadow else [], shadowFor := if armed then x.shadowFor else none,
        step := some h, part := handlePart h, slot := q.1, amax := 0, sentinel := [], residency := [], sample := none,
        sregs := (List.range 32).map fun i => (i, if i < 8 then (st.words.getD i 0).setWidth 64 else 0),
        lanes := (List.range pat.lanes).map fun l => (l, {}) } s
      (List.range pat.lanes).foldl (fun s l => settleLane q.2 l (laneFuel s q.2) s) s) s)
  | _, _ => s

/-- A step takes its epoch and is running (R45, R54); a retried step runs under the epoch that it names. -/
def takeEpoch (h : Nat) (s : State) : State :=
  let p := handlePart h
  match getPart s p, getStep s h with
  | some x, some st =>
    let own := st.retry.isNone && st.replayOf.isNone
    let ep := if own then x.epoch else if st.replayOf.isSome then st.epoch else st.retry.getD 0
    let s := if own then modPart p (fun x => { x with epoch := nextEpoch x.epoch }) s else s
    let s := match x.log with
      | some lg => modPart p (fun x => { x with logs := tset x.logs lg.addr lg }) s
      | none => s
    let s := setStep h { st with
      state := .running, epoch := ep, attempt := attemptsOf x ep % 256, tickStart := s.steward.tick, holds := holdObjects s h,
      banks := if st.replayOf.isSome then [] else (bankNumbers (stepTable s h)).map fun b => { bank := b }
      calls := (stepCalls s h).map fun c => { c with waited := scatterAge x ep (attemptsOf x ep % 256) c }
      pelotons := pelotonMarks x, amaxSeen := x.amax, parksSeen := x.parks, log := x.log.map (·.addr), rows := [], views := seqViews s h } s
    answerThin h (startSems h (modHandle h (fun r => { r with state := .running }) s))
  | _, _ => s

/-- A class-0 step stops what runs on its quads: victims are cut into their slots; a restore under way is cut and its
slot still holds the state (R519, R521, Table 8). -/
def preemptQuads (h : Nat) (s : State) : State :=
  let victims := (stepCores s h).filter fun c => (coreOf s c).step.isSome && (coreOf s c).step != some h
  let parts := (victims.filterMap fun c => (coreOf s c).step).eraseDups
  let s := parts.foldl (fun s v => devEvent 0x0008 (handlePart v) 1 s) s
  victims.foldl (fun s c => stopCore .preempt c s) s

/-- A running step whose first stitches have not been issued: no core runs it and none holds a saved state of it. -/
def unissued (s : State) (h : Nat) : Bool :=
  (runningOn s h).isEmpty && s.cores.cores.all fun e => !(e.2.saved.any fun v => v.step == h)

/-- The class-0 start: every core of the step is free and its first stitches are issued (R521). -/
def class0Go (h : Nat) (s : State) : State :=
  match stepJob s h with
  | none => s
  | some j =>
    if coresIdle s j && unissued s h then devEvent 0x0007 (handlePart h) 1 (issueStep h s) else s

/-- Admit a queued step whose turn has come (R45): class 0 at once, others on quads that their job holds. A step started from
a slot takes its epoch at the start and is issued once its job's quads are free (R94). -/
def admitStep (h : Nat) (fast : Bool) (s : State) : State :=
  match stepJob s h, getStep s h with
  | some j, some st =>
    if st.state == .running then
      if j.cls != 0 && !st.suspended && !st.frogging && unissued s h && j.holdsQuads && coresIdle s j then issueStep h s else s
    else if !turnComes s h fast then s
    else if j.cls = 0 then class0Go h (preemptQuads h (takeEpoch h s))
    else if (j.holdsQuads || fast) && coresIdle s j then
      issueStep h (takeEpoch h (modJob (handlePart h) st.job (fun j => { j with holdsQuads := true, sliceLeft := if j.holdsQuads then j.sliceLeft else j.slice }) s))
    else if fast then takeEpoch h s
    else s
  | _, _ => s

/-- STEP_ADMISSION. -/
def execStepAdmission (handle : W64) (s : State) : Host.Outcome State Fault Refusal := whenLive (admitStep handle.toNat false) s

/-- CLASS_0_START: the victims' saves have landed. -/
def startClass0 (h : Nat) (s : State) : State :=
  match getStep s h with
  | none => s
  | some st => if st.state == .running && !st.suspended && stepClass s h == 0 then class0Go h s else s

def execClassZeroStart (handle : W64) (s : State) : Host.Outcome State Fault Refusal := whenLive (startClass0 handle.toNat) s

/-- STATE_SAVE: a stopped core's save lands, its sentinel having finished (Table 6); a class-0 step that waited for the core may start. -/
def execStateSave (core : CoreId) (s : State) : Host.Outcome State Fault Refusal :=
  whenLive (fun s => if (coreOf s core.val).saving && (coreOf s core.val).sample.isNone then landSave core.val s else s) s

/-- The saved state of a core that may come back now: a victim's slot once no class-0 step uses or awaits the core, a
context once its job holds its quads and the step is not suspended (R514, R519, R524). -/
def restorable (s : State) (c : Nat) : Option Saved :=
  let x := coreOf s c
  if !coreIdle x then none else
    let ready (v : Saved) : Bool := match getStep s v.step with
      | some st => st.state == .running && !st.suspended && !st.frogging
      | none => false
    match class0Waiter s c with
    | some w => x.saved.find? fun v => v.step == w && ready v
    | none =>
      match x.saved.find? fun v => v.inSlot with
      | some v => if ready v then some v else none
      | none => x.saved.find? fun v => ready v && match stepJob s v.step with
          | some j => j.holdsQuads || j.cls == 0
          | none => false

/-- RESTORE. -/
def execRestore (core : CoreId) (s : State) : Host.Outcome State Fault Refusal :=
  whenLive (fun s => match restorable s core.val with
    | some v => landRestore core.val v s
    | none => s) s

/-! ## The tick's accounts and grants (R513 to R515, R527) -/

def classOf (j : Job) : Nat := j.lent.getD j.cls

/-- A running step waits on a lock that a stopped step holds (R513). -/
def waitsOnStopped (x : Partition) (h : Nat) : Bool :=
  x.locks.any fun e => (e.2.waiters.any fun w => w.1 == h) && match e.2.holder.bind (tget? x.steps) with
    | some st => st.state == .stopped
    | none => false

/-- A job is ready (R513). -/
def jobReady (x : Partition) (j : Nat) : Bool :=
  x.steps.any fun e => e.2.job == j && ((isQueued e.2 && (e.2.replayOf.isSome || !jobBusy x j)) ||
    (e.2.state == .running && !e.2.suspended && !e.2.frogging && !waitsOnStopped x e.1))

def quadCount (j : Job) : Nat := (bitsOf 48 j.quads.toNat).length

/-- What a job gains at a refill, which is also its cap (R513). -/
def refillOf (period : Nat) (j : Job) : Int := (j.weight * j.slice * (period * 1000) * quadCount j : Nat)

/-- Action 3 for one partition: JOB_SETs of the interval apply, time and overruns are charged, empty classes refill. -/
def closeAccounts (ran : List ((Nat × Nat) × Nat)) (period p : Nat) (x : Partition) : Partition :=
  let jobs := tmap x.jobs fun i j =>
    let j := match j.nextSet with
      | some (c, w, sl) => { j with cls := c, weight := w, slice := sl, nextSet := none }
      | none => j
    let t := (ran.filter fun r => r.1 == (p, i)).foldl (fun a r => a + r.2) 0
    { j with balance := j.balance - (t : Nat) - (j.carried * quadCount j : Nat), carried := 0 }
  let x' := { x with jobs := jobs }
  let hungry (c : Nat) : Bool := !(jobs.any fun e => e.2.cls == c && jobReady x' e.1 && decide (0 < e.2.balance))
  { x with jobs := tmap jobs fun _ j => if hungry j.cls then { j with balance := min (refillOf period j) (j.balance + refillOf period j) } else j }

/-- The order of R514: class, then BALANCE descending, then number. -/
def jobBefore (a b : Nat × Job) : Bool :=
  if classOf a.2 ≠ classOf b.2 then classOf a.2 < classOf b.2
  else if a.2.balance ≠ b.2.balance then b.2.balance < a.2.balance else a.1 ≤ b.1

def insertJob (a : Nat × Job) : List (Nat × Job) → List (Nat × Job)
  | [] => [a]
  | b :: r => if jobBefore a b then a :: b :: r else b :: insertJob a r

def meets (a b : Nat) : Bool := (a &&& b) != 0

/-- Quads on which a class-0 step runs or waits to start (Table 8). -/
def class0Quads (x : Partition) : Nat :=
  x.steps.foldl (fun m e => match tget? x.jobs e.2.job with
    | some j => if j.cls = 0 && e.2.state == .running && !e.2.suspended then m ||| j.quads.toNat else m
    | none => m) 0

/-- Action 6 for one job of the sorted list; `later` are the numbers after it. -/
def grantJob (p : Nat) (later : List Nat) (i : Nat) (s : State) : State :=
  match getPart s p with
  | none => s
  | some x =>
    match tget? x.jobs i with
    | none => s
    | some j =>
      if !jobReady x i || j.cls = 0 || meets (class0Quads x) j.quads.toNat then s
      else if j.holdsQuads && 0 < j.sliceLeft then s
      else
        let holders := x.jobs.filter fun e => e.1 != i && e.2.holdsQuads && meets e.2.quads.toNat j.quads.toNat
        if holders.all (fun e => later.contains e.1 && (e.2.sliceLeft == 0 || decide (classOf j < classOf e.2))) then
          let s := holders.foldl (fun s e =>
            let s := modJob p e.1 (fun k => { k with holdsQuads := false }) s
            (x.steps.filter fun q => q.2.job == e.1 && q.2.state == .running).foldl (fun s q => stopStep .schedule q.1 s) s) s
          modJob p i (fun k => { k with holdsQuads := true, sliceLeft := k.slice }) s
        else s

/-- Grants in the sorted order. -/
def grantAll (p : Nat) : List Nat → State → State
  | [], s => s
  | i :: later, s => grantAll p later (grantJob p later i s)

/-- Action 6 (R514): slices count down, then quads are granted. -/
def scheduleTick (s : State) : State :=
  s.parts.foldl (fun s e =>
    let s := modPart e.1 (fun x => { x with jobs := tmap x.jobs fun _ j => if j.holdsQuads then { j with sliceLeft := j.sliceLeft - 1 } else j }) s
    match getPart s e.1 with
    | none => s
    | some x => grantAll e.1 ((x.jobs.foldr insertJob []).map Prod.fst) s) s

/-- Each tick on which a lock of a stopped step has a waiter counts an event (R526). -/
def lockTick (s : State) : State :=
  s.parts.foldl (fun s e =>
    let n := (e.2.locks.filter fun k => !k.2.waiters.isEmpty && match k.2.holder.bind (tget? e.2.steps) with
      | some st => st.state == .stopped
      | none => false).length
    devEvent 0x2026 e.1 n s) s

/-! ## Stop, resume, commit, frog (R50 to R53, R204, R205, R524) -/

/-- The body of a command whose TARGET is a step handle (R83): kind 1 of the acting partition. -/
def withStep (f : Nat) (hdr : Hdr) (s : State) (k : Nat → Partition → Step → Except Nat Ans) : Except Nat Ans :=
  let h := hdr.target.toNat
  match targetError s (if f = 0 then none else some (f - 1)) h with
  | some e => .error e
  | none =>
    if handleKind h ≠ 1 then .error 0x0201 else
      match getPart s (handlePart h), getStep s h with
      | some x, some st => k h x st
      | _, _ => .error 0x0205

def stopBody (f : Nat) (hdr : Hdr) : Body := fun s =>
  withStep f hdr s fun h _ st =>
    need (st.state == .running && !st.suspended && !st.frogging) 0x0205 (
      .ok { st := releaseQuads h (stopStep .host h (modStep h (fun st => { st with suspended := true }) s)) })

def execStepStop (fn : Fn) (hdr : Hdr) (s : State) : Host.Outcome State Fault Refusal :=
  message fn hdr 0x0221 false (stopBody fn hdr) s

def resumeBody (f : Nat) (hdr : Hdr) : Body := fun s =>
  withStep f hdr s fun h _ st =>
    need (st.state == .running && st.suspended) 0x0205 (
      let s := modStep h (fun st => { st with suspended := false }) s
      .ok { st := if stepClass s h = 0 then preemptQuads h s else s })

def execStepResume (fn : Fn) (hdr : Hdr) (s : State) : Host.Outcome State Fault Refusal :=
  message fn hdr 0x0222 false (resumeBody fn hdr) s

def queryJobBody (f : Nat) (hdr : Hdr) (job : W64) : Body := fun s =>
  withPart f hdr s fun _ x =>
    have' (tget? x.jobs job.toNat) 0x0201 fun j =>
      let steps := (x.steps.filter fun e => e.2.job == job.toNat).map Prod.fst
      let held := (x.locks.filter fun e => match e.2.holder with | some h => steps.contains h | none => false).map fun e => e.1 - 448
      let awaited := (x.locks.filter fun e => e.2.waiters.any fun w => steps.contains w.1).map fun e => e.1 - 448
      let susp := x.steps.any fun e => e.2.job == job.toNat && e.2.suspended
      .ok { st := s, data := wordsData [j.cls, (j.balance % (2 ^ 64 : Nat)).toNat, j.sliceLeft,
        if j.holdsQuads then j.quads.toNat else 0, b2n susp, maskOf held, maskOf awaited, j.overrun] }

def execSchedQuery (fn : Fn) (hdr : Hdr) (job : W64) (s : State) : Host.Outcome State Fault Refusal :=
  message fn hdr 0x0230 false (queryJobBody fn hdr job) s

/-- Steps already committed or discarded are stale names (R51). -/
def needInFlight {α : Type} (st : Step) (k : Except Nat α) : Except Nat α :=
  need (st.state != .committed && st.state != .discarded) 0x0204 k

def commitBody (f : Nat) (hdr : Hdr) : Body := fun s =>
  withStep f hdr s fun h _ st => needInFlight st (need (st.state == .held) 0x0205 (.ok { st := commitStep h s }))

def execStepCommit (fn : Fn) (hdr : Hdr) (s : State) : Host.Outcome State Fault Refusal :=
  message fn hdr 0x0250 false (commitBody fn hdr) s

/-- State codes of HANDLE_QUERY (Table 10 of ch. 02). -/
def hstateCode : HState → Nat
  | .pending => 0 | .queued => 1 | .running => 2 | .held => 3 | .stopped => 4 | .committed => 5 | .discarded => 6
  | .complete => 7 | .ended => 8

def stepCode : StepState → Nat
  | .queued => 1 | .running => 2 | .held => 3 | .stopped => 4 | .committed => 5 | .discarded => 6

/-- Frog a step: a held or stopped one at once, a running one by stopping its cores (R50, R205). -/
def frogStep (h : Nat) (s : State) : State :=
  match getStep s h with
  | none => s
  | some st =>
    if st.state == .running then stopStep .frog h (modStep h (fun st => { st with frogging := true }) s)
    else if st.state == .held || st.state == .stopped then discardStep h s
    else s

def frogBody (f : Nat) (hdr : Hdr) : Body := fun s =>
  withStep f hdr s fun h _ st =>
    needInFlight st (need (st.state != .queued) 0x0205 (.ok { st := frogStep h s, result := w64 (stepCode st.state) }))

def execStepFrog (fn : Fn) (hdr : Hdr) (s : State) : Host.Outcome State Fault Refusal :=
  message fn hdr 0x0251 false (frogBody fn hdr) s

/-- FROG_COMPLETE: every core of a frogged running step is at a boundary. -/
def frogLanded (h : Nat) (s : State) : State :=
  match getStep s h with
  | none => s
  | some st => if st.state == .running && st.frogging && (runningOn s h).isEmpty then finishFrog h (releaseQuads h s) else s

def execFrogComplete (handle : W64) (s : State) : Host.Outcome State Fault Refusal := whenLive (frogLanded handle.toNat) s

end Sys2Proof.Machine
end

