-- ==== Sys2Proof/Machine/Sequencer.lean ====
section
/-!
DEFINITION. The sequencer's entries other than stitches: fences, merges, semaphores, locks, core-mover transfers, halo
puts, appends; and the held state (R180, R187, R247 to R252, R278 to R281, R323, R354, R360, R371, R525 to R528).
-/
namespace Sys2Proof.Machine

/-- What an event of a lane does: the lane stands at an entry, waits on nothing else, and its core runs on. -/
def laneEvent (c l : Nat) (f : Nat → Nat → Entry → State → State) (s : State) : State :=
  let x := coreOf s c
  match x.step, laneEntry s c l with
  | some h, some (n, e) => if x.saving || x.restoring || stopDue x then s else f h n e s
  | _, _ => s

/-! ## Waking a lane -/

/-- A wait on a halo slot's FREE has ended: its cycles, a free value, count in the core's halo-wait counter (R281). -/
def haloWaited (c : Nat) (w : WaitOn) (s : State) : State :=
  let x := coreOf s c
  let steps := x.step.toList ++ x.saved.map (·.step)
  match w with
  | .sem n => if steps.any fun h => (stepPattern s h).any fun pat => pat.haloSlots.any fun k => k.free == n then coreWaitFree c 0x200C s else s
  | _ => s

/-- The lane that waits goes on; a saved one goes on when its core is restored: its LANE_POS moves in the record. -/
def wakeLane (c l : Nat) (w : WaitOn) (s : State) : State :=
  if (laneOf s c l).waitOn == some w then passEntry c l s else
    let x := coreOf s c
    match x.saved.find? fun v => (tget v.lanes l {}).waitOn == some w with
    | none => s
    | some v =>
      let n := (tget v.lanes l {}).next + 1
      let v' := { v with lanes := tset v.lanes l { next := n } }
      let s := setCore c { x with saved := x.saved.map fun u => if u == v then v' else u } s
      match stepJob s v.step, stepPattern s v.step with
      | some j, some pat => s.writeNat .unified (contextAt j pat v.slot + 480 + 4 * l) 4 (n <<< 16 ||| 0xFFFF)
      | _, _ => s

/-! ## Counting semaphores (R525) -/

def semOf (s : State) (p n : Nat) : Sem := match getPart s p with | some x => tget x.sems n {} | none => {}
def setSem (p n : Nat) (m : Sem) (s : State) : State := modPart p (fun x => { x with sems := tset x.sems n m }) s

/-- Serve waiters in order while the value is above 0; a producer's wait on a slot's FREE counts (R281). -/
def serveSem (p n : Nat) : Nat → State → State
  | 0, s => s
  | fuel + 1, s =>
    let m := semOf s p n
    match m.waiters with
    | [] => s
    | w :: r => if m.value = 0 then s else serveSem p n fuel (wakeLane w.1 w.2 (.sem n) (haloWaited w.1 (.sem n) (setSem p n { value := m.value - 1, waiters := r } s)))

/-- SIGNAL: add 1, saturating at 65,535 with a count, and serve the waiters. -/
def signalSem (p n : Nat) (s : State) : State :=
  let m := semOf s p n
  if m.value = 65535 then devEvent 0x2024 p 1 s
  else serveSem p n (m.waiters.length + 1) (setSem p n { m with value := m.value + 1 } s)

def execSignal (core : CoreId) (lane : LaneId) (s : State) : Host.Outcome State Fault Refusal :=
  whenLive (laneEvent core.val lane.val fun h _ e s => match e.op with
    | .signal n => passEntry core.val lane.val (signalSem (handlePart h) n s)
    | _ => s) s

/-- WAIT: take one, or wait behind those that wait already. -/
def waitSem (p n c l : Nat) (s : State) : State :=
  let m := semOf s p n
  if m.waiters.contains (c, l) then s
  else if 0 < m.value && m.waiters.isEmpty then passEntry c l (setSem p n { m with value := m.value - 1 } s)
  else modLane c l (fun a => { a with waitOn := some (.sem n) }) (setSem p n { m with waiters := m.waiters ++ [(c, l)] } s)

def execWait (core : CoreId) (lane : LaneId) (s : State) : Host.Outcome State Fault Refusal :=
  whenLive (laneEvent core.val lane.val fun h _ e s => match e.op with
    | .wait n => waitSem (handlePart h) n core.val lane.val s
    | _ => s) s

/-! ## Locks (R526 to R528) -/

/-- A step that runs no core now although it is running: suspended, displaced or pre-empted. -/
def stepSuspended (s : State) (h : Nat) : Bool :=
  match getStep s h with
  | some st => st.state == .running && (st.suspended || (runningOn s h).isEmpty)
  | none => false

/-- The lock that a step waits for. -/
def awaitedLock (x : Partition) (h : Nat) : Option Nat := (x.locks.find? fun e => e.2.waiters.any fun w => w.1 == h).map Prod.fst

/-- Lend a class to the holder of a lock, and on to the holder that it waits for itself (R527, R528). -/
def lendClass (p : Nat) (waiter : Nat) (cls : Nat) : Nat → Nat → State → State
  | 0, _, s => s
  | fuel + 1, n, s =>
    match getPart s p with
    | none => s
    | some x =>
      match (lockOf x n).holder with
      | none => s
      | some hold =>
        match getStep s hold, stepJob s hold with
        | some st, some j =>
          if !stepSuspended s hold || classOf j ≤ cls then s else
            let s := modJob p st.job (fun j => { j with lent := some cls }) s
            let s := modPart p (fun x => { x with locks := tset x.locks n { lockOf x n with loan := true } }) s
            let s := modStep hold (fun st => { st with suspended := false }) s
            let s := match stepJob s waiter, getStep s waiter with
              | some wj, some ws =>
                if meets wj.quads.toNat j.quads.toNat then
                  modJob p st.job (fun k => { k with holdsQuads := true, sliceLeft := k.slice })
                    (stopStep .schedule waiter (modJob p ws.job (fun k => { k with holdsQuads := false }) s))
                else s
              | _, _ => s
            match awaitedLock x hold with
            | some m => lendClass p waiter cls fuel m s
            | none => s
        | _, _ => s

/-- The steps met when following waits from a step; a step met again closes a cycle (R528). -/
def waitChain (x : Partition) : Nat → Nat → List Nat
  | 0, _ => []
  | fuel + 1, h =>
    match (awaitedLock x h).bind fun n => (lockOf x n).holder with
    | some k => k :: waitChain x fuel k
    | none => []

/-- One lock-cycle event naming the jobs of a cycle that a new wait closes. -/
def lockCycle (p h : Nat) (s : State) : State :=
  match getPart s p with
  | none => s
  | some x =>
    let chain := waitChain x 64 h
    if !chain.contains h then s else
      let jobs := ((chain.takeWhile (· != h)) ++ [h]).filterMap fun k => (tget? x.steps k).map (·.job)
      recEvent 0x2028 p (some p) 31 0xFFFF h (jobs.map fun j => (8, j)) s

def acquireLock (p n bound h c l : Nat) (s : State) : State :=
  match getPart s p with
  | none => s
  | some x =>
    let k := lockOf x n
    match k.holder with
    | none => passEntry c l (modPart p (fun x => { x with locks := tset x.locks n { holder := some h, bound := bound } }) s)
    | some _ =>
      if k.waiters.contains (h, c, l) then s else
        let s := modPart p (fun x => { x with locks := tset x.locks n { k with waiters := k.waiters ++ [(h, c, l)] } }) s
        let s := modLane c l (fun a => { a with waitOn := some (.lock n) }) s
        lockCycle p h (lendClass p h (stepClass s h) 64 n s)

def execAcquire (core : CoreId) (lane : LaneId) (s : State) : Host.Outcome State Fault Refusal :=
  whenLive (laneEvent core.val lane.val fun h _ e s => match e.op with
    | .acquire n b => acquireLock (handlePart h) n b h core.val lane.val s
    | _ => s) s

def releaseLock (p n h : Nat) (s : State) : State :=
  match getPart s p, getStep s h with
  | some x, some st => if (lockOf x n).holder == some h then freeLock p n (modJob p st.job (fun j => { j with lent := none }) s) else s
  | _, _ => s

def execRelease (core : CoreId) (lane : LaneId) (s : State) : Host.Outcome State Fault Refusal :=
  whenLive (laneEvent core.val lane.val fun h _ e s => match e.op with
    | .release n => passEntry core.val lane.val (releaseLock (handlePart h) n h s)
    | _ => s) s

/-- CS_OVERRUN: CS_BOUND passed during a loan (R527). -/
def csOver (p n : Nat) (s : State) : State :=
  match getPart s p with
  | none => s
  | some x =>
    let k := lockOf x n
    match k.holder with
    | none => s
    | some h =>
      if !k.loan then s else
        let job := ((getStep s h).map (·.job)).getD 0
        let other := ((k.waiters.head?.bind fun w => getStep s w.1).map (·.job)).getD 0
        let s := modPart p (fun x => { x with locks := tset x.locks n { k with loan := false } }) s
        let s := stopStep .schedule h (modJob p job (fun j => { j with lent := none, holdsQuads := false }) s)
        recEvent 0x2027 p (some p) 31 0xFFFF h [(8, job), (8, other)] s

def execCsOverrun (part : PartId) (lock : Nat) (s : State) : Host.Outcome State Fault Refusal := whenLive (csOver part.val lock) s

/-! ## Scalar registers, fences and merges (R247 to R252) -/

/-- A relation on an ordering: −1, 0, 1. NONFIN looks at A alone, and an integer is finite (Table 5 of ch. 06). -/
def relHolds (rel : Nat) (o : Int) : Bool :=
  match rel with
  | 0 => o == 0
  | 1 => o != 0
  | 2 => decide (o < 0)
  | 3 => decide (o ≤ 0)
  | 4 => decide (0 < o)
  | 5 => decide (0 ≤ o)
  | _ => false

def orderInt (a b : Int) : Int := if a < b then -1 else if a = b then 0 else 1

/-- The FP32 value that a register spells under TYPE 2 or 3. -/
def condFloat (type : Nat) (v : W64) : W32 :=
  if type = 3 then csumResult { s := v.setWidth 32, c := w32 (fld v 63 32) } else v.setWidth 32

/-- A fence's condition on the scalar registers (R251, R252, Table 5). -/
def fenceHolds (cond : W64) (a b : W64) : Bool :=
  let type := fld cond 17 16
  let rel := fld cond 20 18
  let imm := fld cond 63 32
  let useReg := bitAt cond 21
  if type = 0 then
    relHolds rel (orderInt a.toNat (if useReg then b.toNat else imm))
  else if type = 1 then
    relHolds rel (orderInt (signed 64 a.toNat) (if useReg then signed 64 b.toNat else signed 32 imm))
  else
    let x := condFloat type a
    let y := if useReg then condFloat type b else w32 imm
    if rel = 6 then !fFinite x
    else if fIsNan x || fIsNan y then rel == 1
    else relHolds rel (Val.cmp (f32 x) (f32 y))

def condA (cond : W64) : Nat := fld cond 31 27
def condB (cond : W64) : Nat := fld cond 26 22
def condRegs (cond : W64) : List Nat := condA cond :: (if bitAt cond 21 then [condB cond] else [])

/-- Registers that a stitch's instructions write. -/
def writesSregs (e : Entry) : List Nat :=
  match e.op with
  | .vector is => (is.filter fun w => vSumto w != 0).map vSregOut
  | _ => []

/-- A stitch of the core that a lane stands at, started or only issued, or a merge that is not written yet, holds the fence
(R251). -/
def fenceWaits (s : State) (h c : Nat) (regs : List Nat) : Bool :=
  let x := coreOf s c
  (tkeys x.lanes).any (fun l => match laneEntry s c l with
    | some (_, e) => (writesSregs e).any regs.contains
    | none => false) ||
  match getStep s h with
  | some st => st.merges.any fun m => m.2.1 == x.slot && regs.contains m.2.2.1
  | none => false

def execBranchingFence (core : CoreId) (lane : LaneId) (s : State) : Host.Outcome State Fault Refusal :=
  whenLive (laneEvent core.val lane.val fun h _ e s => match e.op with
    | .fence cond =>
      let c := core.val
      if fenceWaits s h c (condRegs cond) then s
      else if fenceHolds cond (sreg s c (condA cond)) (sreg s c (condB cond)) then jumpEntry c lane.val (fld cond 15 0) s
      else passEntry c lane.val s
    | _ => s) s

/-- Write a scalar register of a participant, in its core or in its saved record. -/
def putSummary (h c i : Nat) (v : W64) (s : State) : State :=
  if (coreOf s c).step == some h then setSreg c i v s else
    match (coreOf s c).saved.find? fun u => u.step == h, stepJob s h, stepPattern s h with
    | some u, some j, some pat => s.writeNat .unified (contextAt j pat u.slot + 768 + 8 * i) 8 v.toNat
    | _, _, _ => s

/-- Merge summaries in ascending slot (Table 4 of ch. 06); a compensated sum that is not finite has no c (R184). -/
def mergeValues (k : MergeKind) : List W64 → W64
  | [] => 0
  | v :: r =>
    match k with
    | .sum => r.foldl (· + ·) v
    | .csum =>
      let c := r.foldl (fun a w => csumMerge a { s := w.setWidth 32, c := w32 (fld w 63 32) }) { s := v.setWidth 32, c := w32 (fld v 63 32) }
      w64 (c.s.toNat + 2 ^ 32 * (if fFinite c.s then c.c.toNat else 0))
    | .max => (r.foldl (fun a w => fmax a (w.setWidth 32)) (v.setWidth 32)).setWidth 64
    | .min => (r.foldl (fun a w => fmin a (w.setWidth 32)) (v.setWidth 32)).setWidth 64

/-- STEWARD_MERGE: every participant has handed in its summary; a frog drops the merge (R250). A compensated sum that the merge makes
non-finite counts once, at the core of its lowest slot (R184; log 126). -/
def mergeStep (h m : Nat) (s : State) : State :=
  match getStep s h, stepPattern s h with
  | some st, some pat =>
    match pat.merges.find? fun d => d.num == m with
    | none => s
    | some d =>
      let got (slot : Nat) := st.merges.find? fun e => e.1 == m && e.2.1 == slot
      let slots := (List.range 192).filter d.slots.contains
      if st.state != .running || st.frogging || slots.isEmpty || !(slots.all fun i => (got i).isSome) then s else
        let ins := slots.filterMap got
        let v := mergeValues d.kind (ins.map (·.2.2.2))
        let cores := stepCores s h
        let s := ins.foldl (fun s e => putSummary h (cores.getD e.2.1 0) e.2.2.1 v s) s
        let made := d.kind == .csum && !fFinite (v.setWidth 32) && ins.all fun e => fFinite (e.2.2.2.setWidth 32)
        let s := coreEvent (cores.getD ((slots.headD 0)) 0) 0x200E (b2n made) s
        modStep h (fun st => { st with merges := st.merges.filter fun e => !ins.contains e }) s
  | _, _ => s

def execStewardMerge (handle : W64) (merge : Nat) (s : State) : Host.Outcome State Fault Refusal :=
  whenLive (mergeStep handle.toNat merge) s

/-! ## Amax fences (R187) -/

/-- Lanes of a step that stand at an amax fence of a merge (none: a fence that no merge uses), with its destination. -/
def amaxStanding (s : State) (h : Nat) (m : Option Nat) : List (Nat × Nat × Nat) :=
  (runningOn s h).flatMap fun c => (tkeys (coreOf s c).lanes).filterMap fun l =>
    match laneEntry s c l with
    | some (_, e) => match e.op with
      | .amaxFence d k => if k == m && !stopDue (coreOf s c) && !(coreOf s c).saving then some (c, l, d) else none
      | _ => none
    | none => none

/-- Lanes pass an amax fence and their cores' registers return to +0. -/
def passAmax (ls : List (Nat × Nat × Nat)) (s : State) : State :=
  ls.foldl (fun s q => passEntry q.1 q.2.1 (modCore q.1 (fun x => { x with amax := 0 }) s)) s

/-- AMAX_FENCE: the largest of the participants' registers gives the tensor scale of the destination. -/
def amaxStep (h m : Nat) (s : State) : State :=
  let s := passAmax (amaxStanding s h none) s
  match stepPattern s h with
  | none => s
  | some pat =>
    match pat.merges.find? fun d => d.num == m with
    | none => s
    | some d =>
      let ls := amaxStanding s h (some m)
      let cores := stepCores s h
      if d.slots.isEmpty || !(d.slots.all fun i => ls.any fun q => q.1 == cores.getD i 208) then s else
        let top := maxMag (ls.map fun q => f32 (coreOf s q.1).amax)
        let s := match ls.head?.bind fun q => stepTensor s h q.2.2 with
          | some t => if dFmt t.d = 0x0A && mayWrite s h t.d then
              s.write t.scaleSpace (dScaleAddr t.d) (leBytes 4 (f4sTensorScale top).toNat ++ List.replicate 28 0) else s
          | none => s
        passAmax ls s

def execAmaxFence (handle : W64) (index : Nat) (s : State) : Host.Outcome State Fault Refusal :=
  whenLive (amaxStep handle.toNat index) s

/-! ## Residency figures (R371) -/

def tensorBytes (d : DescWord) : Nat := dCapacity d + dScaleBytes d

/-- The tier of a tensor's first page; 0 in T0. -/
def tensorTier (s : State) (d : DescWord) : Nat :=
  if dSpace d ≠ 0 then 0 else ((pageEntry s (dAddr d / pageSize)).map (·.tier)).getD 0

/-- The figures of a transfer or a stitch from one tensor to another under a fate; the engine time is a free value. -/
def noteFate (c : Nat) (f : Option (Nat × W32)) (src dst : DescWord) (s : State) : State :=
  match f with
  | none => s
  | some (fate, id) =>
    let st := tensorTier s src
    let dt := tensorTier s dst
    let t := takeFree s
    addResidency c { tensor := id, fate := fate, produced := if st < 2 then tensorBytes src else 0,
                     stored := if fate = 4 || 2 ≤ st then 0 else tensorBytes dst, bytesOut := if 2 ≤ dt then tensorBytes dst else 0,
                     bytesIn := if 2 ≤ st then tensorBytes src else 0, tier := dt,
                     workNs := if fate = 1 || fate = 4 then t.1.toNat % 2 ^ 13 else 0 } t.2

/-! ## Core-mover transfers (R354, R360 to R362) -/


/-- Copy codes and block scales as they are, element for element; an M48 NaN is written with a tail of zero (R117). -/
def copyRaw (src dst : Tensor) (s : State) : State :=
  let s1 := ((List.range (dCount src.d)).zip (src.codes s)).foldl
    (fun s q => dst.writeCode s (offsetOf dst.d (indexOf dst.d q.1)) (m48Canon (dFmt dst.d) q.2)) s
  if !scaled (dFmt src.d) then s1 else
    let s2 := if dFmt src.d = 0x0A then s1.writeNat dst.scaleSpace (dScaleAddr dst.d) 4 (src.tscale s).toNat else s1
    dst.padScales ((List.range (dRows src.d)).foldl (fun s3 r => (List.range (dBlocks src.d)).foldl (fun s3 b =>
      s3.write dst.scaleSpace (dst.scaleAt r b) [BitVec.ofNat 8 (src.readScale s r b)]) s3) s2)

/-- Carry a transfer of a core: equal formats move as they are, others convert with one rounding (R128, R354), drawing by
element (R209); narrowings are counted and their amax is staged (R133, R140, R203). -/
def moveTensor (h c : Nat) (src dst : Tensor) (cvt : Nat) (s : State) : State :=
  let s := protectTensor h dst s
  if dFmt src.d = dFmt dst.d then copyRaw src dst s
  else
    let rs := if cvtRound cvt = .sr then stepHalves s h dst 0 (dCount src.d) else []
    let vals := src.values s
    let o := dst.store s (dFmt src.d) cvt rs vals
    let k := totalCnt o.2
    let s := addCounts c k k.made o.1
    if widening (dFmt src.d) (dFmt dst.d) then s else stageAmax h (dTensorId dst.d) (toF32 (maxMag vals)) s

/-- The endpoints of the fabric behind which a tensor of the unified range lies. -/
def destsOf (s : State) (d : DescWord) : List Nat := (unifiedSpans d).flatMap fun u => endpointsOf s u.1 u.2

/-- A transfer in flight that was issued before the one at index n and goes to the same destination, a block of T0 or one endpoint of
the unified range: the fabric delivers it first (R25). -/
def earlierMover (s : State) (h c n : Nat) (dst : Tensor) : Bool :=
  ((coreOf s c).movers.takeWhile (· != n)).any fun i => match (coreList s c)[i]? with
    | some k => match k.op with
      | .mover _ b _ _ _ => match stepTensor s h b with
        | some t => if dSpace t.d = 0 && dSpace dst.d = 0 then (destsOf s t.d).any (destsOf s dst.d).contains else t.space == dst.space
        | none => false
      | _ => false
    | none => false

/-- A lane that stood at a seventeenth transfer goes on. -/
def wakeMoverLanes (c : Nat) (s : State) : State :=
  (tkeys (coreOf s c).lanes).foldl (fun s l => match laneEntry s c l with
    | some (_, e) => match e.op with | .mover _ _ _ _ _ => settleLane c l (laneFuel s c) s | _ => s
    | none => s) s

/-- An entry reads or writes the die's map buffer: cycles for which it lost a bank to another core, a free value, count (R353; log 4). -/
def mapWait (s : State) (h c : Nat) (e : Entry) (s' : State) : State :=
  let at' (x : Span) : Bool := x.1 / 8 / 2 ^ 64 / 256 == 4
  let t := entrySpans (stepTensor s h) (stepAttn s h) (fun b => firstColumn (stepWindow s h b)) c e
  if t.1.any at' || t.2.any at' then coreWaitFree c 0x1003 s' else s'

/-- CORE_MOVER_TRANSFER: every write lands, then the semaphore is signalled; the cycles for which the transfer waits for a page to
be restored are data-ready stalls (R370). -/
def landMover (c n : Nat) (s : State) : State :=
  let x := coreOf s c
  match x.step, (coreList s c)[n]? with
  | some h, some e =>
    if !x.movers.contains n then s else
      match e.op with
      | .mover a b cvt sem _ =>
        match stepTensor s h a, stepTensor s h b with
        | some src, some dst =>
          let pages := descPages src.d ++ descPages dst.d
          if earlierMover s h c n dst then s
          else if accessWaits s pages then coreWaitFree c 0x1001 s else
            match accessTrouble s pages with
            | some t => stopOnPage h t s
            | none =>
              let s := if mayWrite s h dst.d then moveTensor h c src dst cvt.toNat s else s
              let s := mapWait s h c e (noteFate c e.fate src.d dst.d (touchPages pages s))
              let s := modCore c (fun x => { x with movers := x.movers.erase n }) s
              wakeMoverLanes c (match sem with | some m => signalSem (handlePart h) m s | none => s)
        | _, _ => s
      | _ => s
  | _, _ => s

def execCoreMoverTransfer (core : CoreId) (index : Nat) (s : State) : Host.Outcome State Fault Refusal :=
  whenLive (landMover core.val index) s

/-- The counter of the fence that a prefetch holds: the weight-ready stalls where an array stitch that waits takes its weights
from the destination, else the data-ready stalls (R360). -/
def fenceCounter (s : State) (h c b : Nat) : Nat :=
  let weights (e : Entry) : Bool := match e.op with
    | .array a => match stepTensor s h b with
      | some d => anyMeet (weightSpans s h a) (writeSpans d)
      | none => false
    | _ => false
  if (coreOf s c).lanes.any fun q => q.2.started && ((coreList s c)[q.2.next]?).any weights then 0x2005 else 0x1001

/-- PREFETCH_DEADLINE: the waits for a layer exceed its SLACK; one event for the layer and step (R361). Cycles that its fences have
counted already do not count again. -/
def prefetchLate (c layer waited : Nat) (s : State) : State :=
  let x := coreOf s c
  match x.step with
  | none => s
  | some h =>
    let find := x.movers.findSome? fun n => match (coreList s c)[n]? with
      | some e => match e.op with
        | .mover a b _ _ (some p) => if p.layer == layer then some (a, b, p.slack, e.fate) else none
        | _ => none
      | none => none
    match find with
    | none => s
    | some (a, b, slack, fate) =>
      let s := fenceStall c (fenceCounter s h c b) (waited - tget x.layerWaits layer 0) [(layer, fate)] s
      if waited ≤ slack || x.lateLayers.contains layer then s else
        let d := ((stepTensor s h a).map (·.d)).getD 0
        let s := modCore c (fun x => { x with lateLayers := x.lateLayers ++ [layer] }) s
        recEvent 0x1014 (handlePart h) (some (handlePart h)) (dieOfCore c) c h
          [(16, layer), (32, (dTensorId d).toNat), (2, tensorTier s d), (64, waited)] s

def execPrefetchDeadline (core : CoreId) (layer : Nat) (waited : Nat) (s : State) : Host.Outcome State Fault Refusal :=
  whenLive (prefetchLate core.val layer waited) s

/-! ## Halo exchange (R278 to R281) -/

/-- The header of a halo slot. -/
def haloHeader (layer rows producer : Nat) : List Byte := leBytes 64 (layer % 65536 ||| rows % 65536 <<< 16 ||| producer % 65536 <<< 32)

def execHaloPut (core : CoreId) (lane : LaneId) (s : State) : Host.Outcome State Fault Refusal :=
  whenLive (laneEvent core.val lane.val fun h _ e s => match e.op with
    | .haloPut a b layer ready =>
      match stepTensor s h a, stepTensor s h b with
      | some src, some dst =>
        if earlierMover s h core.val (laneOf s core.val lane.val).next dst then s else
        let s := moveTensor h core.val src (haloRows dst) 0 s
        let s := s.write dst.space (dAddr dst.d) (haloHeader layer (dSize dst.d 2) (coreOf s core.val).slot)
        passEntry core.val lane.val (signalSem (handlePart h) ready s)
      | _, _ => s
    | _ => s) s

/-- The fault of a halo slot that holds another layer (R281). -/
def haloMismatch (c h slot found want : Nat) (s : State) : State :=
  let d := w64 (slot % 65536 ||| found <<< 16 ||| want % 65536 <<< 32)
  let f : FaultIn := { code := 0x2803, cls := 4, sev := 1, die := dieOfCore c, unit := c, detail := d, handle := h, parts := [handlePart h] }
  stopFaulty h 0x0401 0 (raiseFault f s)

def execHaloFence (core : CoreId) (lane : LaneId) (s : State) : Host.Outcome State Fault Refusal :=
  whenLive (laneEvent core.val lane.val fun h _ e s => match e.op with
    | .haloFence b layer ready =>
      let p := handlePart h
      let m := semOf s p ready
      if m.value = 0 then coreWaitFree core.val 0x200C s else
        match stepTensor s h b with
        | none => s
        | some t =>
          let found := s.readNat t.space (dAddr t.d) 2
          let s := setSem p ready { m with value := m.value - 1 } s
          if found = layer % 65536 then passEntry core.val lane.val s else haloMismatch core.val h b found layer s
    | _ => s) s

/-! ## Appends (R322, R323, R328) -/

def putStage (h : Nat) (g : SeqStage) (s : State) : State :=
  modStep h (fun st => { st with seqs := st.seqs.map fun k => if k.space == g.space && k.seq == g.seq then g else k }) s

/-- Write the rows of one layer; after the last layer the tags are absorbed. -/
def appendLayer (h c l : Nat) (sb layer : Nat) (k v : Tensor) (g : SeqStage) (kv : KvSpace) (q : KvSeq) (s : State) : State :=
  let p := handlePart h
  match lostPage kv (appendReach q g), accessTrouble s (appendPages kv q g) with
  | some id, _ => stopFaulty h 0x0402 (w64 (kvAddr kv id / pageSize)) (kvLostFault p g.space id h s)
  | none, some t => stopOnPage h t s
  | none, none =>
    let s0 := s
    let s := touchPages (appendPages kv q g) (if g.copied then s else copyOnAppend kv q g s)
    let s := appendRows kv q.length g.table layer g.tokens (fun part t ch =>
      let d := if part = 0 then k else v
      d.readCode s0 (offsetOf d.d (indexOf d.d (ch + kv.dh * kv.kvHeads * t)))) s
    let g := { g with copied := true, layers := (g.layers ++ [layer]).eraseDups }
    let s := if g.layers.length = kv.layers then
        let decl := (stepPattern s h).bind fun pat => pat.appends.find? fun d => d.seq == sb
        let tags := match decl.bind fun d => stepTensor s h d.tags with
          | some t => readTags s t g.tokens
          | none => []
        let r := absorbTags p g.space h kv q.length tags g s
        putStage h r.1 r.2
      else putStage h g s
    passEntry c l s

def execAppendEntry (core : CoreId) (lane : LaneId) (s : State) : Host.Outcome State Fault Refusal :=
  whenLive (laneEvent core.val lane.val fun h _ e s => match e.op with
    | .append sb layer a b =>
      if ((getStep s h).bind (·.replayOf)).isSome then passEntry core.val lane.val s else
      match seqBinding (stepBinding s h sb), getStep s h, stepTensor s h a, stepTensor s h b with
      | some (sp, sq), some st, some k, some v =>
        match stageOf st sp sq, (getSpace s (handlePart h) sp).bind fun kv => (tget? kv.seqs sq).map fun q => (kv, q) with
        | some g, some kq => appendLayer h core.val lane.val sb layer k v g kq.1 kq.2 s
        | _, _ => s
      | _, _, _, _ => s
    | _ => s) s

/-! ## The held state (R46, R180, R206, R215, R219, R371, R526) -/

/-- Append a record to an area of the pattern; a full area counts an event instead. A pattern whose header names no area has no
record written and no event counted, also where its stitches sample (R180; DESIGN CHOICE, log 149). -/
def appendArea (p : Nat) (area : Option Tensor) (rec' : List Byte) (event : Nat) (s : State) : State :=
  match area with
  | none => s
  | some t =>
    let used := match getPart s p with | some x => tget x.areas (dAddr t.d) 0 | none => 0
    if dCapacity t.d < used + rec'.length then devEvent event p 1 s
    else
      let s := s.write t.space (dAddr t.d + used) rec'
      let s := if dSpace t.d = 0 then touchPages (pagesOf (dAddr t.d + used) rec'.length) s else s
      modPart p (fun x => { x with areas := tset x.areas (dAddr t.d) (used + rec'.length) }) s

/-- A sentinel record (Table 8 of ch. 04). -/
def sentinelBytes (c epoch : Nat) (r : SentinelRec) : List Byte :=
  leBytes 128 (r.tensor.toNat ||| epoch <<< 32 ||| c <<< 64 ||| r.wfmt <<< 80 ||| r.afmt <<< 88 ||| r.sampled <<< 96 |||
    r.skipped <<< 128 ||| r.maxRel.toNat <<< 160 ||| r.elements <<< 192 |||
    packAll 32 ((List.range 16).map fun i => tget r.bins i 0) <<< 256)

/-- A residency record (Table 10 of ch. 09). -/
def residencyBytes (epoch : Nat) (r : Residency) : List Byte :=
  leBytes 64 (r.fate ||| r.tier <<< 6 ||| r.tensor.toNat <<< 64 ||| epoch <<< 96 ||| r.produced <<< 128 ||| r.stored <<< 192 |||
    r.bytesOut <<< 256 ||| r.bytesIn <<< 320 ||| r.workNs <<< 384 ||| r.stall <<< 448)

/-- Figures of a TENSOR_ID summed over the cores. -/
def sumResidency (l : List Residency) : List Residency :=
  l.foldl (fun a r =>
    if a.any (fun q => q.tensor == r.tensor && q.fate == r.fate) then
      a.map fun q => if q.tensor == r.tensor && q.fate == r.fate then
        { q with produced := q.produced + r.produced, stored := q.stored + r.stored, bytesOut := q.bytesOut + r.bytesOut,
                 bytesIn := q.bytesIn + r.bytesIn, tier := max q.tier r.tier, workNs := q.workNs + r.workNs, stall := q.stall + r.stall } else q
    else a ++ [r]) []

/-- Every core of a step has passed the final fence. -/
def allFinished (s : State) (h : Nat) : Bool :=
  let cores := stepCores s h
  !cores.isEmpty && cores.all fun c =>
    let x := coreOf s c
    x.step == some h && x.lanes.all (fun l => l.2.finished) && x.movers.isEmpty && !x.saving && x.sample.isNone

/-- Sentinel and residency records of the final fence. -/
def fenceRecords (h : Nat) (s : State) : State :=
  let p := handlePart h
  match getStep s h, stepPattern s h with
  | some st, some pat =>
    let cores := stepCores s h
    let s := cores.foldl (fun s c => (coreOf s c).sentinel.foldl (fun s r =>
      appendArea p (stepTensor s h pat.sentinelArea) (sentinelBytes c st.epoch r) 0x2020 s) s) s
    (sumResidency (cores.flatMap fun c => (coreOf s c).residency)).foldl (fun s r =>
      appendArea p (stepTensor s h pat.residencyArea) (residencyBytes st.epoch r) 0x1015 s) s
  | _, _ => s

/-- Locks still held are freed and counted (R526). -/
def leakLocks (h : Nat) (s : State) : State :=
  match getPart s (handlePart h) with
  | none => s
  | some x =>
    (locksHeld x h).foldl (fun s n => recEvent 0x2025 (handlePart h) (some (handlePart h)) 31 0xFFFF h [(16, n)]
      (freeLock (handlePart h) n s)) s

/-- A completed replay: its report, its discarded state, its entry (R219, R220). -/
def finishReplay (h : Nat) (r : ReplayInfo) (s : State) : State :=
  match stepPattern s h with
  | none => s
  | some pat =>
    let outs := digestList s h pat.digestsOut
    let bad := outs.map fun d => !r.logged.contains d
    let n := (bad.filter id).length
    let s := s.write (cmdTensor r.report).space (dAddr r.report) (((outs.zip bad).take (dCapacity r.report / 16)).flatMap fun e => digestEntry 1 e.2 e.1)
    let s := writeReplayRecord h 1 s
    finish h 0 (w64 (n ||| b2n r.resident <<< 63)) (endReplay h s)

/-- Pages that the final fence of a step writes: its areas from where they are filled up to, and its log (R369). -/
def holdPages (s : State) (h : Nat) (st : Step) : List Nat :=
  let x := getPart s (handlePart h)
  let area (t : Option Tensor) (n : Nat) : List Nat := match t with
    | some t =>
      let used := (x.map fun x => tget x.areas (dAddr t.d) 0).getD 0
      if dSpace t.d = 0 then pagesOf (dAddr t.d + used) (min n (dCapacity t.d - used)) else []
    | none => []
  let cores := stepCores s h
  (match stepPattern s h with
    | some pat => if st.replayOf.isSome then [] else
        area (stepTensor s h pat.sentinelArea) (128 * (cores.map fun c => (coreOf s c).sentinel.length).sum) ++
        area (stepTensor s h pat.residencyArea) (64 * (sumResidency (cores.flatMap fun c => (coreOf s c).residency)).length)
    | none => []) ++ recordPages s h

/-- STEP_HELD. A LOST page that the final fence would write stops the step (R369). -/
def holdStep (h : Nat) (s : State) : State :=
  match getStep s h with
  | none => s
  | some st =>
    if st.state != .running || st.frogging || st.suspended || !allFinished s h then s
    else match accessTrouble s (holdPages s h st) with
    | some t => stopOnPage h t s
    | none =>
      -- a replay writes only its scratch destinations (R217)
      let s := if st.replayOf.isSome then s else fenceRecords h s
      let s := leakLocks h s
      let s := modStep h (fun st => { st with status := condStatus st.conds, result := st.conds.setWidth 64 }) s
      match st.replayOf with
      | some r => finishReplay h r (releaseQuads h s)
      | none =>
        let s := modStep h (fun st => { st with state := .held }) s
        let s := releaseCores h (releaseQuads h (writeReplayRecord h 1 s))
        complete h .held (condStatus st.conds) (st.conds.setWidth 64) st.epoch s

def execStepHeld (handle : W64) (s : State) : Host.Outcome State Fault Refusal := whenLive (holdStep handle.toNat) s

end Sys2Proof.Machine
end

