-- ==== Sys2Proof/Machine/Collectives.lean ====
section
/-!
DEFINITION. Collective calls (chapter 12): starting a call, the reduction ring, gathers of parameters, expert exchange
and its return, late members, ABORT (R466 to R501).
-/
namespace Sys2Proof.Machine

/-! ## The collective header (Table 6) -/

structure CollHead where
  sumS : W32 := 0
  sumC : W32 := 0
  nonfin : Nat := 0
  amax : W32 := 0
  tensor : W32 := 0
  first : Nat := 0
  count : Nat := 0
  elems : Nat := 0
  call : Nat := 0
  chunk : Nat := 0
  hop : Nat := 0
  late : Nat := 0
  pass : Nat := 0
  indexed : Bool := false
  attempt : Nat := 0
  thin : Nat := 0
  agreed : Nat := 0
  desc16 : Nat := 0
  deriving DecidableEq, Repr

def CollHead.bits (h : CollHead) : Nat :=
  h.desc16 <<< 159 ||| h.agreed <<< 175 ||| h.thin <<< 183 ||| h.attempt <<< 191 ||| b2n h.indexed <<< 199 ||| h.pass <<< 200 |||
  h.late <<< 204 ||| h.hop <<< 216 ||| h.chunk <<< 228 ||| h.call <<< 240 ||| h.elems <<< 256 ||| h.count <<< 288 ||| h.first <<< 320 |||
  h.tensor.toNat <<< 352 ||| h.amax.toNat <<< 384 ||| h.nonfin <<< 416 ||| h.sumC.toNat <<< 448 ||| h.sumS.toNat <<< 480

def readHead (w : BitVec 512) : CollHead :=
  { sumS := w32 (fld w 511 480), sumC := w32 (fld w 479 448), nonfin := fld w 447 416, amax := w32 (fld w 415 384),
    tensor := w32 (fld w 383 352), first := fld w 351 320, count := fld w 319 288, elems := fld w 287 256, call := fld w 255 240,
    chunk := fld w 239 228, hop := fld w 227 216, late := fld w 215 204, pass := fld w 203 200, indexed := bitAt w 199,
    attempt := fld w 198 191, thin := fld w 190 183, agreed := fld w 182 175, desc16 := fld w 174 159 }

/-- Send a peloton message to a rank: the 64-byte header, then the body (R472). -/
def sendTo (q : Peloton) (pel r mtype fmt epoch layout : Nat) (h : CollHead) (body : List Byte) (s : State) : State :=
  let h := { h with desc16 := q.desc16 }
  let m : MsgHead := { mtype := mtype, fmt := fmt, pel := pel, layout := layout, step := epoch, src := lgLinkId s.links.group, dst := linkIdOf q r }
  sendMsg (portTo q r) 1 (vcOfType q mtype) m (leBytes 64 h.bits ++ body) s

/-! ## Calls of a step -/

def callOf (s : State) (h n call : Nat) : Option CallRun :=
  (getStep s h).bind fun st => st.calls.find? fun c => cwPel c.word == n && c.call == call

def modCall (h n call : Nat) (f : CallRun → CallRun) (s : State) : State :=
  modStep h (fun st => { st with calls := st.calls.map fun c => if cwPel c.word == n && c.call == call then f c else c }) s

/-- What the step keeps of the peloton. -/
def markOf (s : State) (h n : Nat) : Option PelMark := (getStep s h).bind fun st => st.pelotons.find? fun m => m.num == n

/-- A thinnable call that does not run in this step (R493). -/
def thinnedOut (s : State) (h n : Nat) (w : CallWord) : Bool :=
  cwThin w && match markOf s h n with
    | some m => m.sync % (m.thin + 1) != m.thin
    | none => false

/-- The fields that every message of a step's call carries. -/
def stepHead (s : State) (h n : Nat) : CollHead :=
  { attempt := ((getStep s h).map (·.attempt)).getD 0, thin := ((markOf s h n).map (·.sync % 256)).getD 0 }

def stepEpochOf (s : State) (h : Nat) : Nat := ((getStep s h).map (·.epoch)).getD 0
def stepLayout (s : State) (h n : Nat) : Nat := ((markOf s h n).map (·.layout)).getD 0

/-- Chunk lengths from B_CHUNKS (R474). -/
def chunkLens (s : State) (h : Nat) (w : CallWord) : List Nat :=
  match stepTensor s h (cwChunks w) with
  | some t => t.codes s
  | none => []

/-- Insert by a key, keeping the order of equal keys. -/
def insertKey {α : Type} (key : α → Nat) (x : α) : List α → List α
  | [] => [x]
  | y :: r => if key x < key y then x :: y :: r else y :: insertKey key x r

def sortKey {α : Type} (key : α → Nat) (l : List α) : List α := l.foldl (fun a x => insertKey key x a) []

def chunkStart (lens : List Nat) (c : Nat) : Nat := (lens.take c).foldl (· + ·) 0
def chunkBlocks (l : Nat) : Nat := (l + 31) / 32

/-- Write SREG_OUT of the issuing core. -/
def putSregOut (h : Nat) (c : CallRun) (v : Nat) (s : State) : State := putSummary h c.core (cwSreg c.word) (w64 v) s

/-! ## The reduction ring (R474 to R486) -/

/-- The park of a call's key in a list: that of its peloton, TENSOR_ID and call (R488). -/
def parkOf (l : List Park) (n : Nat) (tensor : W32) (call : Nat) : Option Park := l.find? fun k => k.pel == n && k.tensor == tensor && k.call == call

/-- One FP32 contribution at linear offset k, with a park of its key added (R488): the park is that of the step's admission (R48).
A replay adds it where its record says so (R213); the values of a park that the logged step's commit has used up are stated
nowhere (log 133). -/
def contribution (s : State) (h : Nat) (c : CallRun) (src : Tensor) (k : Nat) : Val :=
  let v := src.value s (indexOf src.d k)
  let key := (cwPel c.word, dTensorId src.d, c.call)
  match getStep s h with
  | some st =>
    if !st.parksUsed.contains key then v else
      match (if st.replayOf.any (·.parkGone) then none else parkOf st.parksSeen key.1 key.2.1 key.2.2) with
      | some q => f32 (fadd (toF32 v) (q.values.getD k 0))
      | none => if st.replayOf.isSome then f32 (fadd (toF32 v) (Config.parkGone (dTensorId src.d) c.call k)) else v
  | none => v

/-- The own values of block b of a chunk; +0 when this member is excluded. -/
def ownBlock (s : State) (h : Nat) (c : CallRun) (src : Tensor) (start len b : Nat) : List Val :=
  (List.range (min 32 (len - 32 * b))).map fun i => if c.excluded then Val.zero else contribution s h c src (start + 32 * b + i)

def tagScale (t : Nat) : Nat := t % 256
def tagExcess (t : Nat) : Nat := t / 256 % 256
def tagExceeded (t : Nat) : Bool := t.testBit 16

/-- The wire values of a block. -/
def wireVals (t : Nat) (codes : List Nat) : List Val :=
  codes.map fun c => if tagScale t = 0xFF then Val.nan else elemVal 0x04 c (tagScale t) fOne

/-- One hop of a block (R477): the incoming values (+0 at hop 0), the own values, the tag; and what its narrowing counts (R133). -/
def hopBlock (inc own : List Val) (tag : Nat) : Nat × List Nat × Cnt :=
  let x := (inc.zip own).map fun p => Val.add p.1 p.2
  if tagScale tag = 0xFF || x.any (fun v => !v.isFin) then
    (tag / 256 * 256 + 0xFF, x.map fun _ => 0, { nonfin := b2n (x.any fun v => !v.isFin) })
  else
    let sc := scaleVal 0x04 (tagScale tag)
    let e := min 255 (excessOf 0x04 sc x)
    let tag := if e = 0 then tag else 2 ^ 16 + max e (tagExcess tag) * 256 + tagScale tag
    let es := x.map fun v => narrowElem 0x04 0 0 sc v
    (tag, es.map Prod.fst, (es.map Prod.snd).foldl Cnt.add {})

/-- ⌊log₂⌋ of a positive FP32 value. -/
def logOf (v : W32) : Int :=
  match f32 v with
  | .fin _ m e => if m = 0 then 0 else let q := fracOf m e; log2Frac q.1 q.2
  | _ => 0

def ceilLog2 (n : Nat) : Nat := if n ≤ 1 then 0 else Nat.log2 (n - 1) + 1

/-- AGREED (R482): X + 127 from the tensor's amax that was committed at the step's admission (R48), or from the own contribution to
the chunk. -/
def agreedScale (s : State) (h n : Nat) (q : Peloton) (c : CallRun) (src : Tensor) (start len : Nat) : Nat :=
  let hd : Int := ((markOf s h n).map fun m => (m.headroom : Int)).getD 0
  let hist := ((getStep s h).bind fun st => tget? st.amaxSeen (dTensorId src.d).toNat).getD 0
  let x : Int :=
    if (f32 hist).isFin && !(f32 hist).isZero then logOf hist + hd - 8
    else
      let a := toF32 (maxMag ((List.range len).map fun i => if c.excluded then Val.zero else contribution s h c src (start + i)))
      if (f32 a).isZero then -127 else logOf a + (ceilLog2 (pelN q) : Nat) + hd - 8
  (max (-127) (min 127 x) + 127).toNat

/-- A block of a message: its index within the chunk, its tag, its codes. -/
abbrev WireBlock := Nat × Nat × List Nat

def padTo32 (bs : List Byte) : List Byte := bs ++ List.replicate ((32 - bs.length % 32) % 32) 0

/-- The body of a reduction message (R478). -/
def redBody (indexed : Bool) (bs : List WireBlock) : List Byte :=
  (if indexed then padTo32 (bs.flatMap fun b => leBytes 4 b.1) else []) ++
  padTo32 (bs.flatMap fun b => leBytes 4 b.2.1) ++ bs.flatMap fun b => b.2.2.map fun c => BitVec.ofNat 8 c

/-- Send blocks of a chunk on, at most 4,096 a message; a gather of KIND 1 is the header alone (R479, Table 5). -/
def sendBlocks (q : Peloton) (n r mtype epoch layout : Nat) (hd : CollHead) (body : Bool) : Nat → List WireBlock → State → State
  | 0, _, s => s
  | fuel + 1, bs, s =>
    match bs with
    | [] => s
    | b :: _ =>
      let now := bs.take 4096
      let hd := { hd with first := b.1, count := now.length, elems := (now.map fun x => x.2.2.length).foldl (· + ·) 0 }
      sendBlocks q n r mtype epoch layout hd body fuel (bs.drop 4096)
        (sendTo q n r mtype 0x04 epoch layout hd (if body then redBody hd.indexed now else []) s)

/-- Blocks of a received reduction message; `len` is the chunk's length. -/
def readBlocks (hd : CollHead) (len : Nat) (body : List Byte) : List WireBlock :=
  let idxBytes := if hd.indexed then (4 * hd.count + 31) / 32 * 32 else 0
  let tagBytes := (4 * hd.count + 31) / 32 * 32
  (List.range hd.count).map fun j =>
    let b := if hd.indexed then leNat ((body.drop (4 * j)).take 4) else hd.first + j
    let tag := leNat ((body.drop (idxBytes + 4 * j)).take 4)
    let codes := ((body.drop (idxBytes + tagBytes + 32 * j)).take (min 32 (len - 32 * b))).map (·.toNat)
    (b, tag, codes)

/-- The blocks of a chunk that go round in the present pass, with the tag they start from. -/
def passBlocks (c : CallRun) (chunk len : Nat) : List (Nat × Nat) :=
  match c.again with
  | none => (List.range (chunkBlocks len)).map fun b => (b, c.agreed)
  | some l => (l.filter fun e => e.1 == chunk).map fun e => (e.2.1, e.2.2)

/-- The chunk that a member starts (scatter hop 0). -/
def startOf (q : Peloton) (dir : Bool) : Nat := if dir then (pelRank q + 1) % pelN q else (pelRank q + pelN q - 1) % pelN q

/-- The hop at which this member holds a chunk. -/
def hopOf (q : Peloton) (dir : Bool) (chunk : Nat) : Nat :=
  if dir then (chunk + 2 * pelN q - 1 - pelRank q) % pelN q else (pelRank q + 2 * pelN q - 1 - chunk) % pelN q

/-- Start a pass: hop 0 of the member's starting chunk. -/
def startPass (h n : Nat) (q : Peloton) (c : CallRun) (src : Tensor) (s : State) : State :=
  let lens := chunkLens s h c.word
  let k := startOf q (cwDir c.word)
  let len := lens.getD k 0
  let start := chunkStart lens k
  let agreed := if c.pass = 1 then agreedScale s h n q c src start len else c.agreed
  let c := { c with agreed := agreed }
  let s := modCall h n c.call (fun c => { c with agreed := agreed }) s
  let hops := (passBlocks c k len).map fun e =>
    let own := ownBlock s h c src start len e.1
    (e.1, hopBlock (own.map fun _ => Val.zero) own e.2)
  let s := addCounts c.core ((hops.map (·.2.2.2)).foldl Cnt.add {}) 0 s
  let bs : List WireBlock := hops.map fun r => (r.1, r.2.1, r.2.2.1)
  let hd := { stepHead s h n with tensor := dTensorId src.d, call := c.call, chunk := k, hop := 0, late := b2n c.excluded, pass := c.pass,
                                  indexed := decide (1 < c.pass), agreed := agreed }
  sendBlocks q n (nextRank q (cwDir c.word)) 0x10 (stepEpochOf s h) (stepLayout s h n) hd true (bs.length + 1) bs s

/-- Write a finished block into the destination (R479): the wire value, widened (R139, R140); a scale row is padded (R122). With it,
the non-finite values that widening produced. -/
def writeBlock (s : State) (dst : Tensor) (at' : Nat) (tag : Nat) (codes : List Nat) : State × Nat :=
  let f := dFmt dst.d
  if f = 0x04 then
    let s := ((List.range codes.length).zip codes).foldl (fun s e => dst.writeCode s (offsetOf dst.d (indexOf dst.d (at' + e.1))) e.2) s
    let ix := indexOf dst.d at'
    (dst.padRow (s.write dst.scaleSpace (dst.scaleAt (rowOf dst.d ix) (ix.getD 0 0 / 32)) [BitVec.ofNat 8 (tagScale tag)]) (rowOf dst.d ix), 0)
  else
    let es := (wireVals tag codes).map (convert 0x04 f 0 0)
    (((List.range codes.length).zip es).foldl (fun s e => dst.writeCode s (offsetOf dst.d (indexOf dst.d (at' + e.1))) e.2.1) s,
     (es.map fun e => e.2.made).foldl (· + ·) 0)

/-- Blocks that leave the pass for good are written: everywhere under KIND 0, the own chunk under KIND 1. A resident row keeps its
copy (R164); a non-finite value that widening produces counts at the core that issued the call (R140; log 131). -/
def writeFinal (s : State) (h : Nat) (q : Peloton) (c : CallRun) (chunk : Nat) (bs : List WireBlock) : State :=
  match stepTensor s h (cwDst c.word) with
  | none => s
  | some dst =>
    if !mayWrite s h dst.d then s else
      let base := if cwKind c.word = 0 then chunkStart (chunkLens s h c.word) chunk else 0
      if cwKind c.word = 1 && chunk ≠ pelRank q then s
      else
        let r := bs.foldl (fun (r : State × Nat) b => if tagExceeded b.2.1 then r else
          let o := writeBlock r.1 dst (base + 32 * b.1) b.2.1 b.2.2
          (o.1, r.2 + o.2)) (protectTensor h dst s, 0)
        coreEvent c.core 0x200E r.2 r.1

/-- A block that cannot go round again is a NaN block (R483). -/
def settleTag (pass tag : Nat) : Nat :=
  if tagExceeded tag && (0xFE < tagScale tag + tagExcess tag || 15 ≤ pass) then 0xFF else tag

/-- Add to a chunk's count of finished blocks. -/
def addDone (chunk k : Nat) (c : CallRun) : CallRun := { c with done := tmod c.done chunk 0 (· + k) }

/-- The call ends on this member (R466, R484 to R487). -/
def completeReduction (h n : Nat) (s : State) (c : CallRun) : State :=
  let p := handlePart h
  match getPel s p n with
  | none => s
  | some q =>
    let s := modCall h n c.call (fun c => { c with phase := .done }) s
    let amax := toF32 (maxMag (c.totals.map fun t => f32 t.2.2.2.2.2))
    let s := match stepTensor s h (cwSrc c.word) with
      | some t => stageAmax h (dTensorId t.d) amax s
      | none => s
    let cond (w : BitVec 16) : BitVec 16 :=
      condIf c.nanSeen .nonfinite (condIf (decide (0 < c.late)) .lateExcluded (condIf (decide (1 < c.pass)) .scaleRepass w))
    let s := modStep h (fun st => { st with conds := cond st.conds }) s
    let s := if 1 < c.pass then devEvent 0x300F n 1 (modPel p n (fun q => { q with repass := q.repass + 1 }) s) else s
    putSregOut h c ((pelN q - c.late) ||| c.late <<< 32) s

/-- When every chunk of a pass stands finished, the EXCEEDED blocks go round again or the call ends (R483). -/
def endPass (h n call : Nat) (s : State) : State :=
  match callOf s h n call, getPel s (handlePart h) n with
  | some c, some q =>
    let lens := chunkLens s h c.word
    let all := (List.range (pelN q)).all fun k => tget c.done k 0 == (passBlocks c k (lens.getD k 0)).length
    if !all || c.phase == .done then s
    else
      let left := c.tags.filter fun t => tagExceeded t.2.2
      if left.isEmpty then completeReduction h n s c
      else
        let again := left.map fun t => (t.1, t.2.1, tagScale t.2.2 + tagExcess t.2.2)
        let c := { c with pass := c.pass + 1, again := some again, done := [], tags := [], finished := [] }
        let s := modCall h n call (fun _ => c) s
        match stepTensor s h (cwSrc c.word) with
        | some src => startPass h n q c src s
        | none => s
  | _, _ => s

/-- Member c finishes its chunk at hop N − 1: totals, the destination, the gather under the scale that the chunk's own starting
member set (R479, R482, R484). A sum that leaves FP32 counts at the core that issued the call (R184; log 131); an element's lane in
the sum of squares is its place among the values that leave the pass (log 136). -/
def finishChunk (h n : Nat) (q : Peloton) (c : CallRun) (late agreed : Nat) (s : State) : State :=
  let chunk := pelRank q
  let bs : List WireBlock := c.finished
  let good := bs.filter fun b => !tagExceeded b.2.1 && tagScale b.2.1 != 0xFF
  let vals := good.flatMap fun b => wireVals b.2.1 b.2.2
  let sq := csumRow (vals.map fun v => let x := toF32 v; fmul x x)
  let nans := (bs.filter fun b => tagScale b.2.1 == 0xFF).length
  let amax := toF32 (maxMag vals)
  let s := coreEvent c.core 0x200E (made (vals.all fun v => let x := toF32 v; fFinite (fmul x x)) sq.s) s
  let s := writeFinal s h q c chunk bs
  let s := modCall h n c.call (fun c => addDone chunk bs.length { c with
    late := late
    nanSeen := c.nanSeen || decide (0 < nans)
    totals := c.totals ++ [(chunk, c.pass, sq.s, sq.c, nans, amax)]
    tags := c.tags ++ bs.map fun b => (chunk, b.1, b.2.1) }) s
  let src := ((stepTensor s h (cwSrc c.word)).map fun t => dTensorId t.d).getD 0
  let hd := { stepHead s h n with sumS := sq.s, sumC := sq.c, nonfin := nans, amax := amax, tensor := src, call := c.call, chunk := chunk,
                                  hop := 0, late := late, pass := c.pass, indexed := decide (1 < c.pass) && cwKind c.word == 0, agreed := agreed }
  sendBlocks q n (nextRank q (cwDir c.word)) 0x11 (stepEpochOf s h) (stepLayout s h n) hd (cwKind c.word == 0) (bs.length + 1) bs s

/-! ## Starting a call (R466, R470, R493) -/

/-- A call may start: every earlier-numbered call of the peloton that the step can issue has started, and fewer than sixteen
run. -/
def mayStartCall (st : Step) (n call : Nat) : Bool :=
  (st.calls.all fun c => cwPel c.word != n || decide (call ≤ c.call) || c.phase != .waiting) &&
  decide ((st.calls.filter fun c => cwPel c.word == n && (c.phase == .scatter || c.phase == .gather)).length < 16)

/-- The bytes of row r of a tensor and, for a block-scaled format, its scales. -/
def rowBytesOf (s : State) (t : Tensor) (r : Nat) : List Byte :=
  let w := fmtBits (dFmt t.d)
  let cs := (List.range (dSize t.d 0)).map fun i => t.readCode s (offsetOf t.d (indexOf t.d (i + dSize t.d 0 * r)))
  leBytes ((w * cs.length + 7) / 8) (cs.foldr (fun c a => c + 2 ^ w * a) 0) ++
  (List.range (dBlocks t.d)).map fun b => s.byte t.scaleSpace (t.scaleAt r b)

def rowLength (t : Tensor) : Nat := (fmtBits (dFmt t.d) * dSize t.d 0 + 7) / 8 + dBlocks t.d

/-- Write row r from its bytes and scales; its scale row is padded (R122), and an M48 NaN has a tail of zero (R117). The tensor scale
of an F4S destination stays as it is (log 137). -/
def putRow (s : State) (t : Tensor) (r : Nat) (bs : List Byte) : State :=
  let w := fmtBits (dFmt t.d)
  let n := leNat (bs.take ((w * dSize t.d 0 + 7) / 8))
  let s := (List.range (dSize t.d 0)).foldl (fun s i => t.writeCode s (offsetOf t.d (indexOf t.d (i + dSize t.d 0 * r))) (m48Canon (dFmt t.d) (n >>> (w * i) % 2 ^ w))) s
  let sc := bs.drop ((w * dSize t.d 0 + 7) / 8)
  let s := ((List.range sc.length).zip sc).foldl (fun s e => s.write t.scaleSpace (t.scaleAt r e.1) [e.2]) s
  if scaled (dFmt t.d) then t.padRow s r else s

/-- FILL in every element of a row, under the tensor scale that an F4S destination has (R500; log 137). -/
def fillRow (s : State) (t : Tensor) (r : Nat) : State :=
  let n := dSize t.d 0
  let s := (t.storeFrom 0x00 0 (t.tscale s) n s (n * r) (List.replicate n (fillVal t)) []).1
  if scaled (dFmt t.d) then t.padRow s r else s

/-- Assignments of an exchange: (a, rank, slot). -/
def assignments (s : State) (h : Nat) (w : CallWord) : List (Nat × Nat × Nat) :=
  match stepTensor s h (cwRank w), stepTensor s h (cwSlot w) with
  | some r, some k => (List.range (dCount r.d)).zip ((r.codes s).zip (k.codes s))
  | _, _ => []

/-- A slot that the receiver has room for (R499). -/
def slotFits (w : CallWord) (k : Nat) : Bool :=
  decide (k < cwCap w) || (cwOvfPolicy w == 1 && cwOvf w != 0xFF && decide (k - cwCap w < cwOvfCap w))

/-- Where a row of a sender with slot k lies on this member: in the destination or in overflow. -/
def landing (s : State) (h : Nat) (w : CallWord) (main : Nat) (sender k : Nat) : Option (Tensor × Nat) :=
  if k < cwCap w then (stepTensor s h main).map fun t => (t, sender * cwCap w + k)
  else (stepTensor s h (cwOvf w)).map fun t => (t, sender * cwOvfCap w + (k - cwCap w))

/-- Put the rows of one sender. -/
def landRows (h : Nat) (c : CallRun) (sender : Nat) (slots : List Nat) (rows : List (List Byte)) (s : State) : State :=
  (slots.zip rows).foldl (fun s e => match landing s h c.word (cwDst c.word) sender e.1 with
    | some (t, r) => if mayWrite s h t.d then putRow (protectTensor h t s) t r e.2 else s
    | none => s) s

/-- Write the receive counts of an exchange; a replay writes them only where it names them (R164, R217). -/
def writeGotCounts (h : Nat) (w : CallWord) (ns : List Nat) (s : State) : State :=
  match stepTensor s h (cwChunks w) with
  | some t => if !mayWrite s h t.d then s else
      ((List.range ns.length).zip ns).foldl (fun s e => t.writeCode s (offsetOf t.d (indexOf t.d e.1)) e.2) (protectTensor h t s)
  | none => s

/-- An exchange ends: counts into B_CHUNKS, the summary (R499). -/
def endExchange (h n call : Nat) (s : State) : State :=
  match callOf s h n call, getPel s (handlePart h) n with
  | some c, some q =>
    if c.phase == .done || c.heard.length + 1 < pelN q then s else
      let w := c.word
      let cnt (above : Bool) (r : Nat) : Nat := ((tget c.got r []).filter fun k => decide (k < cwCap w) != above).eraseDups.length
      let ns := (List.range (pelN q)).map (cnt false) ++ (List.range (pelN q)).map (cnt true)
      let s := writeGotCounts h w ns s
      let total := (c.got.map fun e => e.2.length).foldl (· + ·) 0
      putSregOut h c (total ||| c.dropped <<< 32) (modCall h n call (fun c => { c with phase := .done }) s)
  | _, _ => s

def startExchange (h n : Nat) (q : Peloton) (c : CallRun) (src : Tensor) (s : State) : State :=
  let as := assignments s h c.word
  let far := as.filter fun a => decide (pelN q ≤ a.2.1)
  let drop := as.filter fun a => decide (a.2.1 < pelN q) && !slotFits c.word a.2.2
  let sent := as.filter fun a => decide (a.2.1 < pelN q) && slotFits c.word a.2.2
  let s := coreEvent c.core 0x2013 far.length s
  let s := if far.isEmpty then s else modStep h (fun st => { st with conds := condSet .indexFilled st.conds }) s
  let mine (r : Nat) := sent.filter fun a => a.2.1 == r
  let rows (r : Nat) := (mine r).map fun a => rowBytesOf s src (a.1 % dSize src.d 1)
  let me := pelRank q
  let s1 := modCall h n c.call (fun c => { c with dropped := drop.length, got := tset c.got me ((mine me).map (·.2.2)) }) s
  let s1 := landRows h c me ((mine me).map (·.2.2)) (rows me) s1
  let s1 := ((List.range (pelN q)).filter (· != me)).foldl (fun s1 r =>
    let spilled := ((mine r).filter fun a => decide (cwCap c.word ≤ a.2.2)).length
    let hd := { stepHead s h n with tensor := dTensorId src.d, call := c.call, chunk := me, count := (mine r).length, elems := spilled, indexed := true, pass := 1 }
    sendTo q n r 0x13 (dFmt src.d) (stepEpochOf s h) (stepLayout s h n) hd (padTo32 ((mine r).flatMap fun a => leBytes 4 a.2.2) ++ (rows r).flatten) s1) s1
  endExchange h n c.call s1

/-- The exchange that a return answers: the latest of the step with the same assignments. -/
def exchangeOf (st : Step) (w : CallWord) : Option CallRun :=
  (st.calls.filter fun c => cwKind c.word == 3 && cwPel c.word == cwPel w && cwRank c.word == cwRank w && cwSlot c.word == cwSlot w).getLast?

def endReturn (h n call : Nat) (s : State) : State :=
  match callOf s h n call, getPel s (handlePart h) n with
  | some c, some q => if c.phase == .done || c.heard.length + 1 < pelN q then s else modCall h n call (fun c => { c with phase := .done }) s
  | _, _ => s

/-- Put returned rows of one member: its assignments in ascending a. -/
def landReturned (h : Nat) (c : CallRun) (r : Nat) (rows : List (List Byte)) (s : State) : State :=
  match stepTensor s h (cwDst c.word) with
  | none => s
  | some dst =>
    if !mayWrite s h dst.d then s else
      (((assignments s h c.word).filter fun a => a.2.1 == r && slotFits c.word a.2.2).zip rows).foldl (fun s e => putRow s dst e.1.1 e.2)
        (protectTensor h dst s)

def startReturn (h n : Nat) (q : Peloton) (c : CallRun) (s : State) : State :=
  match getStep s h, stepTensor s h (cwDst c.word), stepTensor s h (cwSrc c.word) with
  | some st, some dst, some src =>
    let got := ((exchangeOf st c.word).map (·.got)).getD []
    let me := pelRank q
    let rows (r : Nat) := (tget got r []).filterMap fun k => (landing s h c.word (cwSrc c.word) r k).map fun e => rowBytesOf s e.1 e.2
    let bad := (assignments s h c.word).filter fun a => decide (pelN q ≤ a.2.1) || !slotFits c.word a.2.2
    let s1 := if mayWrite s h dst.d then bad.foldl (fun s a => fillRow s dst a.1) (protectTensor h dst s) else s
    let s1 := landReturned h c me (rows me) s1
    let s1 := ((List.range (pelN q)).filter (· != me)).foldl (fun s1 r =>
      let hd := { stepHead s h n with tensor := dTensorId src.d, call := c.call, chunk := me, count := (rows r).length, pass := 1 }
      sendTo q n r 0x14 (dFmt src.d) (stepEpochOf s h) (stepLayout s h n) hd (rows r).flatten s1) s1
    endReturn h n c.call s1
  | _, _, _ => s

/-! ### Parameter gathers (R456, R501) -/

/-- A shard on the wire: elements, then block scales in the layout of R122. -/
def shardBytes (s : State) (t : Tensor) : List Byte :=
  padTo32 (t.bytes s) ++ (if scaled (dFmt t.d) then s.read t.scaleSpace (dScaleAddr t.d) (dScaleBytes t.d) else [])

/-- The elements of a shard on the wire, code and value: n elements of a format in rows of `row`. -/
def shardElems (f n row : Nat) (body : List Byte) : List (Nat × Val) :=
  let w := fmtBits f
  let elemBytes := ((w * n + 7) / 8 + 31) / 32 * 32
  let sc := body.drop elemBytes
  let l := blockLen f
  let nb := if l = 0 then 0 else (row + l - 1) / l
  let pitch := 32 * ((nb + 31) / 32)
  let head := if f = 0x0A then 32 else 0
  let ts := if f = 0x0A then w32 (leNat (sc.take 4)) else fOne
  (List.range n).map fun k =>
    let code := leNat ((body.drop (w * k / 8)).take 8) >>> (w * k % 8) % 2 ^ w
    (code, if l = 0 then codeVal f code
      else elemVal f code (((sc.drop (head + k / max 1 row * pitch + k % max 1 row / l)).headD 0).toNat) ts)

/-- What the conversion of a gather makes of a shard: the codes in GOP_FMT with their counts, a code in that format already
being copied (R140). Stochastic rounding draws by element of the destination (R209). -/
def gatherOuts (s : State) (h : Nat) (q : Peloton) (dst : Option Tensor) (start : Nat) (es : List (Nat × Val)) : List (Nat × Cnt) :=
  if pelGin q = pelGop q then es.map fun e => (e.1, {})
  else
    let rs := match dst with
      | some t => if cvtRound (pelGcvt q) = .sr then stepHalves s h t start es.length else []
      | none => []
    (es.zip (rs ++ es.map fun _ => 0)).map fun p => convert (pelGin q) (pelGop q) (pelGcvt q) p.2 p.1.2

/-- Elements that the converter produced as ±∞ or NaN, those of NaN blocks among them (R457). -/
def converterMade (q : Peloton) (outs : List (Nat × Cnt)) : Nat :=
  if pelGin q = pelGop q then 0 else (outs.filter fun o => !(codeVal (pelGop q) o.1).isFin).length

/-- Where member r's shard begins in the destination. -/
def shardStart (s : State) (h : Nat) (c : CallRun) (r : Nat) : Nat := chunkStart (chunkLens s h c.word) r

/-- Write a converted shard at its place in the destination. -/
def putShard (h : Nat) (c : CallRun) (r : Nat) (outs : List (Nat × Cnt)) (s : State) : State :=
  match stepTensor s h (cwDst c.word) with
  | none => s
  | some dst =>
    if !mayWrite s h dst.d then s else
      let start := shardStart s h c r
      ((List.range outs.length).zip outs).foldl (fun s e => dst.writeCode s (offsetOf dst.d (indexOf dst.d (start + e.1))) e.2.1) (protectTensor h dst s)

def endGather (h n call : Nat) (s : State) : State :=
  match callOf s h n call, getPel s (handlePart h) n with
  | some c, some q => if c.phase == .done || c.heard.length + 1 < pelN q then s else modCall h n call (fun c => { c with phase := .done }) s
  | _, _ => s

/-- A gather starts: the own shard, converted by the core mover, which counts as a transfer of the issuing core does (R133, R203,
R501), and the first message. -/
def startGather (h n : Nat) (q : Peloton) (c : CallRun) (src : Tensor) (s : State) : State :=
  let dst := stepTensor s h (cwDst c.word)
  let vals := src.values s
  let outs := gatherOuts s h q dst (shardStart s h c (pelRank q)) ((src.codes s).zip vals)
  let k := (outs.map Prod.snd).foldl Cnt.add {}
  let s := putShard h c (pelRank q) outs (addCounts c.core k k.made s)
  let s := match dst with
    | some t => if pelGin q = pelGop q || widening (pelGin q) (pelGop q) then s else stageAmax h (dTensorId t.d) (toF32 (maxMag vals)) s
    | none => s
  let hd := { stepHead s h n with tensor := dTensorId src.d, call := c.call, chunk := pelRank q, hop := 0, count := dRows src.d, elems := dCount src.d, pass := 1 }
  let s := sendTo q n (nextRank q (cwDir c.word)) 0x12 (dFmt src.d) (stepEpochOf s h) (stepLayout s h n) hd (shardBytes s src) s
  endGather h n c.call s

/-- The step adds a park of a call's key: one that was held at its admission (R48), or, in a replay, where its record has decision 2
(R213, R488). -/
def takesPark (st : Step) (n rank : Nat) (tensor : W32) (call : Nat) : Bool :=
  match st.replayOf with
  | some r => r.late.contains (n, call, rank, 2)
  | none => (parkOf st.parksSeen n tensor call).isSome

/-- Start a call: its first messages go out (R470). A park of its key is taken with it (R488), which the replay log records
(R215). -/
def startCall (h n call : Nat) (s : State) : State :=
  let p := handlePart h
  match callOf s h n call, getPel s p n with
  | some c, some q =>
    match stepTensor s h (cwSrc c.word) with
    | none => s
    | some src =>
      let s := modCall h n call (fun c => { c with phase := .scatter }) s
      let c := { c with phase := .scatter }
      if cwKind c.word ≤ 1 then
        let s := if !c.excluded && ((getStep s h).any fun st => takesPark st n (pelRank q) (dTensorId src.d) c.call) then
            modStep h (fun st => { st with parksUsed := st.parksUsed ++ [(n, dTensorId src.d, c.call)], lateLog := st.lateLog ++ [(n, c.call, pelRank q, 2)] }) s else s
        endPass h n call (startPass h n q c src s)
      else if cwKind c.word = 2 then startGather h n q c src s
      else if cwKind c.word = 3 then startExchange h n q c src s
      else startReturn h n q c s
  | _, _ => s

/-- Start every call of a peloton that may start now, in ascending CALL order (R470). -/
def startCalls (h n : Nat) (s : State) : State :=
  match getStep s h with
  | none => s
  | some st =>
    (sortKey (·.call) st.calls).foldl (fun s c =>
      match getStep s h with
      | none => s
      | some st =>
        if cwPel c.word == n && mayStartCall st n c.call &&
            (match callOf s h n c.call with | some c => c.phase == .waiting && (c.issued || c.excluded) | none => false) then startCall h n c.call s
        else s) s

/-- A replay's record has this member excluded from a call: parked or dropped (R213, R491). -/
def loggedLate (st : Step) (q : Peloton) (n call : Nat) : Bool :=
  st.replayOf.any fun r => r.late.any fun e => e.1 == n && e.2.1 == call && e.2.2.1 == pelRank q && e.2.2.2 != 2

/-- The engine excludes its member from a call: the late count and its event (R487). -/
def excludeCall (p h n call : Nat) (s : State) : State :=
  modCall h n call (fun c => { c with excluded := true }) (devEvent 0x300E n 1 (modPel p n (fun q => { q with late := q.late + 1 }) s))

/-- A call that its cores issue while the record of a replay has the member excluded from it is excluded, whatever the timing
(R491). -/
def excludeLogged (h n call : Nat) (run : CallRun) (s : State) : State :=
  match getPel s (handlePart h) n, getStep s h with
  | some q, some st => if loggedLate st q n call && !run.excluded && run.phase == .waiting then excludeCall (handlePart h) h n call s else s
  | _, _ => s

/-- COLLECTIVE_CALL: the sequencer issues the call and goes on; a thinned call is complete at issue (R466, R493). -/
def issueCall (c l h : Nat) (w : CallWord) (s : State) : State :=
  let n := cwPel w
  match callOf s h n (cwCall w) with
  | none => passEntry c l s
  | some run =>
    if run.issued then passEntry c l s
    else if thinnedOut s h n w then
      passEntry c l (startCalls h n (putSregOut h { run with core := c } 0
        (modCall h n (cwCall w) (fun r => { r with issued := true, core := c, phase := .done, thinned := true }) s)))
    else passEntry c l (startCalls h n (modCall h n (cwCall w) (fun r => { r with issued := true, core := c }) (excludeLogged h n (cwCall w) run s)))

def execCollectiveCall (core : CoreId) (lane : LaneId) (s : State) : Host.Outcome State Fault Refusal :=
  whenLive (laneEvent core.val lane.val fun h _ e s => match e.op with
    | .call b => match stepBinding s h b with
      | some (.call w) => issueCall core.val lane.val h w s
      | _ => s
    | _ => s) s

/-- The call that a fence names, by its CALL. -/
def fencedCall (st : Step) (call : Nat) : Option CallRun := st.calls.find? fun c => c.call == call

/-- A lane of a core can go on: its stitch runs, or it stands at an entry that nothing holds (R469). -/
def laneReady (s : State) (h c l : Nat) : Bool :=
  match laneEntry s c l with
  | none => false
  | some (n, e) =>
    if (laneOf s c l).started then true
    else if (laneOf s c l).waitOn.isSome || (laneOf s c l).finished then false
    else match e.op with
      | .callFence k => match (getStep s h).bind fun st => fencedCall st k with
        | some r => r.phase == .done
        | none => true
      | .haloFence _ _ r => (semOf s (handlePart h) r).value != 0
      | .fence cond => !fenceWaits s h c (condRegs cond)
      | .amaxFence _ _ => false
      | .mover _ _ _ _ _ => decide ((coreOf s c).movers.length < 16)
      | .stem _ => decide ((cdOf s (dieOfCore c)).stem.length < 16) && !(cdOf s (dieOfCore c)).stem.any fun k => k.1 == c
      | _ => !isStitch e || mayStart s c n e

/-- Some other lane of the core can go on. -/
def othersReady (s : State) (h c l : Nat) : Bool := (tkeys (coreOf s c).lanes).any fun k => k != l && laneReady s h c k

/-- COLLECTIVE_FENCE: the lane goes on once the call is complete; a core no lane of which can go on counts its wait (R469). -/
def fenceCall (c l h call : Nat) (s : State) : State :=
  match (getStep s h).bind fun st => fencedCall st call with
  | none => passEntry c l s
  | some r =>
    if r.phase == .done then passEntry c l s
    else if othersReady s h c l then s else coreWaitFree c 0x200D s

def execCollectiveFence (core : CoreId) (lane : LaneId) (s : State) : Host.Outcome State Fault Refusal :=
  whenLive (laneEvent core.val lane.val fun h _ e s => match e.op with
    | .callFence call => fenceCall core.val lane.val h call s
    | _ => s) s

/-! ## Received messages of calls -/

/-- The step and the call that a held message of a type is for: a running step of the partition whose call has started, and for a
reduction stands at the message's pass. -/
def callMessage (s : State) (x : Partition) (n mtype : Nat) (m : CollMsg) : Option (Nat × CallRun) :=
  let hd := readHead m.header
  if m.mtype ≠ mtype then none else
    match runningStepOf x m.stepEpoch hd.attempt with
    | none => none
    | some h => match callOf s h n hd.call with
      | some c => if c.phase == .scatter && (mtype != 0x10 && mtype != 0x11 || hd.pass == c.pass) then some (h, c) else none
      | none => none

/-- A message of a call of step h has been taken: it is held no longer, and the call has heard from its ring. -/
def received (p n h : Nat) (m : CollMsg) (s : State) : State :=
  modCall h n (readHead m.header).call (fun c => { c with quiet := 0, joined := true }) (dropMsg p n m s)

/-- The first held message of a type that a call takes now. -/
def takeMessage (p n mtype : Nat) (s : State) : Option (CollMsg × CollHead × Nat × CallRun × Peloton × State) :=
  match getPart s p with
  | none => none
  | some x =>
    match tget? x.pelotons n with
    | none => none
    | some q =>
      (q.inbox.findSome? fun m => (callMessage s x n mtype m).map fun r => (m, r)).map fun r =>
        (r.1, readHead r.1.header, r.2.1, r.2.2, q, received p n r.2.1 r.1 s)

/-- The blocks of a received message after this member's hop, each with what its narrowing counts. -/
def hopBlocks (s : State) (h : Nat) (c : CallRun) (src : Tensor) (hd : CollHead) (body : List Byte) : List (WireBlock × Cnt) :=
  let lens := chunkLens s h c.word
  let len := lens.getD hd.chunk 0
  (readBlocks hd len body).map fun b =>
    let r := hopBlock (wireVals b.2.1 b.2.2) (ownBlock s h c src (chunkStart lens hd.chunk) len b.1) b.2.1
    ((b.1, r.1, r.2.1), r.2.2)

/-- A hop whose own choice of X differs from the header's counts a scale-disagree event (R482). -/
def noteScale (h n : Nat) (q : Peloton) (c : CallRun) (src : Tensor) (hd : CollHead) (s : State) : State :=
  let lens := chunkLens s h c.word
  if hd.pass = 1 && hd.first = 0 && agreedScale s h n q c src (chunkStart lens hd.chunk) (lens.getD hd.chunk 0) ≠ hd.agreed then
    devEvent 0x300B n 1 (modPel (handlePart h) n (fun q => { q with disagree := q.disagree + 1 }) s)
  else s

/-- The blocks of the own chunk at its last hop join those that are finished; with the last of them the chunk is (R479). -/
def finishBlocks (h n : Nat) (q : Peloton) (c : CallRun) (hd : CollHead) (late : Nat) (bs : List WireBlock) (s : State) : State :=
  let bs := bs.map fun b => let t := settleTag hd.pass b.2.1; (b.1, t, if tagScale t = 0xFF then b.2.2.map fun _ => 0 else b.2.2)
  let c := { c with finished := c.finished ++ bs }
  let s := modCall h n c.call (fun _ => c) s
  if c.finished.length < (passBlocks c (pelRank q) ((chunkLens s h c.word).getD (pelRank q) 0)).length then s
  else startCalls h n (endPass h n c.call (finishChunk h n q c late hd.agreed s))

/-- A member's hop of a received RED_SCATTER: the blocks are summed with the own contribution, narrowed and sent on, or finished. -/
def scatterHop (h n : Nat) (q : Peloton) (c : CallRun) (src : Tensor) (m : CollMsg) (hd : CollHead) (s : State) : State :=
  let s := noteScale h n q c src hd s
  let rs := hopBlocks s h c src hd m.body
  let bs := rs.map Prod.fst
  let late := hd.late + b2n c.excluded
  let s := addCounts c.core ((rs.map Prod.snd).foldl Cnt.add {}) 0 s
  if hd.chunk ≠ pelRank q then
    sendBlocks q n (nextRank q (cwDir c.word)) 0x10 m.stepEpoch (stepLayout s h n) { hd with hop := hd.hop + 1, late := late } true (bs.length + 1) bs s
  else finishBlocks h n q c hd late bs s

/-- RED_SCATTER (R476, R477). -/
def redScatter (p n : Nat) (s : State) : State :=
  match takeMessage p n 0x10 s with
  | none => s
  | some (m, hd, h, c, q, s) =>
    match stepTensor s h (cwSrc c.word) with
    | none => s
    | some src => scatterHop h n q c src m hd s

def execRedScatter (part : PartId) (peloton : Nat) (s : State) : Host.Outcome State Fault Refusal :=
  whenLive (redScatter part.val peloton) s

/-- n free block tags. -/
def freeTags : List Nat → State → List WireBlock × State
  | [], s => ([], s)
  | b :: r, s =>
    let f := takeFree s
    let o := freeTags r f.2
    ((b, f.1.toNat % 2 ^ 17, []) :: o.1, o.2)

/-- The blocks of a RED_GATHER. One of KIND 1 is the header alone (R479): the tags that every member then holds (R483) are stated
nowhere, so they are free values (log 86). -/
def gatherBlocks (c : CallRun) (hd : CollHead) (len : Nat) (body : List Byte) (s : State) : List WireBlock × State :=
  if cwKind c.word = 0 then (readBlocks hd len body, s)
  else freeTags ((((passBlocks c hd.chunk len).map Prod.fst).filter fun b => decide (hd.first ≤ b)).take hd.count) s

/-- What a member keeps of a RED_GATHER: LATE, the totals, the tags and how many blocks are finished (R479, R483). -/
def noteGather (hd : CollHead) (bs : List WireBlock) (c : CallRun) : CallRun :=
  let tot := (hd.chunk, hd.pass, hd.sumS, hd.sumC, hd.nonfin, hd.amax)
  addDone hd.chunk hd.count { c with
    late := max c.late hd.late
    nanSeen := c.nanSeen || decide (0 < hd.nonfin)
    totals := if c.totals.any (fun t => t.1 == hd.chunk && t.2.1 == hd.pass) then c.totals else c.totals ++ [tot]
    tags := c.tags ++ bs.map fun b => (hd.chunk, b.1, b.2.1) }

/-- Send a gather's message on until it has made its N − 1 hops (R476, R501). -/
def passOn (h n : Nat) (q : Peloton) (c : CallRun) (m : CollMsg) (hd : CollHead) (s : State) : State :=
  if hd.hop + 2 < pelN q then
    sendTo q n (nextRank q (cwDir c.word)) m.mtype m.format m.stepEpoch (stepLayout s h n) { hd with hop := hd.hop + 1 } m.body s
  else s

/-- A member's hop of a received RED_GATHER: final values are written, totals kept, the message sent on (R479). -/
def gatherHop (h n : Nat) (q : Peloton) (c : CallRun) (m : CollMsg) (hd : CollHead) (s : State) : State :=
  let bs := gatherBlocks c hd ((chunkLens s h c.word).getD hd.chunk 0) m.body s
  startCalls h n (endPass h n c.call (passOn h n q c m hd (modCall h n c.call (noteGather hd bs.1) (writeFinal bs.2 h q c hd.chunk bs.1))))

/-- RED_GATHER. -/
def redGather (p n : Nat) (s : State) : State :=
  match takeMessage p n 0x11 s with
  | none => s
  | some (m, hd, h, c, q, s) => gatherHop h n q c m hd s

def execRedGather (part : PartId) (peloton : Nat) (s : State) : Host.Outcome State Fault Refusal :=
  whenLive (redGather part.val peloton) s

/-- Another member's message of a call has been taken. -/
def hear (chunk : Nat) (c : CallRun) : CallRun := { c with heard := (c.heard ++ [chunk]).eraseDups }

/-- A member's hop of a received PARAM_GATHER: the converter converts the shard, which is written and sent on (R456, R457, R501). Its
narrowings count at the core that issued the call, as those of the own shard do (R133, R140; log 131). -/
def shardHop (h n : Nat) (q : Peloton) (c : CallRun) (m : CollMsg) (hd : CollHead) (s : State) : State :=
  let es := shardElems (pelGin q) hd.elems (hd.elems / max 1 hd.count) m.body
  let outs := gatherOuts s h q (stepTensor s h (cwDst c.word)) (shardStart s h c hd.chunk) es
  let k := (outs.map Prod.snd).foldl Cnt.add {}
  let s := addCounts c.core k k.made (devEvent 0x3010 (4 + portTo q (nextRank q (!cwDir c.word)) / 4) (converterMade q outs) s)
  let s := passOn h n q c m hd (putShard h c hd.chunk outs s)
  startCalls h n (endGather h n c.call (modCall h n c.call (hear hd.chunk) s))

/-- PARAM_GATHER. -/
def paramGather (p n : Nat) (s : State) : State :=
  match takeMessage p n 0x12 s with
  | none => s
  | some (m, hd, h, c, q, s) => shardHop h n q c m hd s

def execParamGather (part : PartId) (peloton : Nat) (s : State) : Host.Outcome State Fault Refusal :=
  whenLive (paramGather part.val peloton) s

def cutRows (len : Nat) (n : Nat) (bs : List Byte) : List (List Byte) := (List.range n).map fun i => (bs.drop (len * i)).take len

/-- Received rows of an exchange land at their slots or in overflow (R499). -/
def exchangeRows (h n : Nat) (c : CallRun) (dst : Tensor) (m : CollMsg) (hd : CollHead) (s : State) : State :=
  let slots := (List.range hd.count).map fun j => leNat ((m.body.drop (4 * j)).take 4)
  let rows := cutRows (rowLength dst) hd.count (m.body.drop ((4 * hd.count + 31) / 32 * 32))
  let s := landRows h c hd.chunk slots rows s
  startCalls h n (endExchange h n c.call (modCall h n c.call (fun c => { hear hd.chunk c with got := tset c.got hd.chunk slots }) s))

/-- EXCHANGE. -/
def exchange (p n : Nat) (s : State) : State :=
  match takeMessage p n 0x13 s with
  | none => s
  | some (m, hd, h, c, _, s) =>
    match stepTensor s h (cwDst c.word) with
    | none => s
    | some dst => exchangeRows h n c dst m hd s

def execExchange (part : PartId) (peloton : Nat) (s : State) : Host.Outcome State Fault Refusal :=
  whenLive (exchange part.val peloton) s

/-- Returned rows go to their assignment rows (R500). -/
def returnedRows (h n : Nat) (c : CallRun) (dst : Tensor) (m : CollMsg) (hd : CollHead) (s : State) : State :=
  let s := landReturned h c hd.chunk (cutRows (rowLength dst) hd.count m.body) s
  startCalls h n (endReturn h n c.call (modCall h n c.call (hear hd.chunk) s))

/-- EXCHANGE_RETURN. -/
def exchangeReturn (p n : Nat) (s : State) : State :=
  match takeMessage p n 0x14 s with
  | none => s
  | some (m, hd, h, c, _, s) =>
    match stepTensor s h (cwDst c.word) with
    | none => s
    | some dst => returnedRows h n c dst m hd s

def execExchangeReturn (part : PartId) (peloton : Nat) (s : State) : Host.Outcome State Fault Refusal :=
  whenLive (exchangeReturn part.val peloton) s

/-! ## Late and missing members (R487 to R491) -/

/-- The running step of a partition that has a call of a peloton. -/
def callingStep (s : State) (p n call : Nat) : Option (Nat × CallRun) :=
  (getPart s p).bind fun x => x.steps.findSome? fun e =>
    if e.2.state == .running then (callOf s e.1 n call).map fun c => (e.1, c) else none

/-- A RED_SCATTER of a step's call waits at this member. -/
def scatterHeld (q : Peloton) (st : Step) (call : Nat) : Bool :=
  q.inbox.any fun m => scatterOf st.epoch st.attempt call m

/-- LATE_EXCLUSION: the WINDOW-th edge has passed without the own call (R487); in deterministic order, exactly where the
log records it (R491). -/
def lateExclude (p n call : Nat) (s : State) : State :=
  match callingStep s p n call, getPel s p n with
  | some (h, c), some q =>
    match getStep s h with
    | none => s
    | some st =>
      let due := if st.det then loggedLate st q n call else decide (((markOf s h n).map (·.window)).getD 255 ≤ c.waited)
      if pelMode q = 1 || 2 ≤ cwKind c.word || c.issued || c.excluded || c.phase != .waiting || !due || !scatterHeld q st call then s
      else startCalls h n (excludeCall p h n call s)
  | _, _ => s

def execLateExclusion (part : PartId) (peloton : Nat) (call : Nat) (s : State) : Host.Outcome State Fault Refusal :=
  whenLive (lateExclude part.val peloton call) s

/-- Bytes of park values. -/
def parkBytes (l : List Park) : Nat := (l.map fun k => 4 * k.values.length).foldl (· + ·) 0

/-- Parks that a peloton's park object holds: the published ones and those that steps in flight have staged (R488, Table 6 of
ch. 05). -/
def parksHeld (x : Partition) (n : Nat) : List Park :=
  (x.parks ++ x.steps.flatMap fun e => if stepHolds e.2 then e.2.parksNew else []).filter fun k => k.pel == n

/-- The park object has no room for a contribution, which takes the place of a park of its key; there may be no park object
(R462, R488). -/
def parkFull (x : Partition) (q : Peloton) (n : Nat) (old : Option Park) (size : Nat) : Bool :=
  pelParkAddr q = 0 || decide (pelParkPages q * pageSize < parkBytes (parksHeld x n) - parkBytes old.toList + 4 * size)

/-- LATE_CONTRIBUTION: an excluded member's cores issued the call; the contribution is parked or dropped (R488); in a replay, as
its record says (R213). -/
def lateContribution (p n call : Nat) (s : State) : State :=
  match callingStep s p n call, getPel s p n, getPart s p with
  | some (h, c), some q, some x =>
    match getStep s h, stepTensor s h (cwSrc c.word) with
    | some st, some src =>
      if !c.excluded || !c.issued || st.lateLog.any (fun e => e.1 == n && e.2.1 == call) then s
      else
        let note (d : Nat) (s : State) : State := modStep h (fun st => { st with lateLog := st.lateLog ++ [(n, call, pelRank q, d)] }) s
        let dropIt (s : State) : State := note 1 (modPel p n (fun q => { q with dropped := q.dropped + 1 }) s)
        let policy : Nat := ((markOf s h n).map (·.latePolicy)).getD 1
        let logged : Option Bool := st.replayOf.map fun r => r.late.contains (n, call, pelRank q, 0)
        if !logged.getD (policy == 0) then dropIt s
        else
          let id := dTensorId src.d
          let old := parkOf st.parksSeen n id call
          let vals := (List.range (dCount src.d)).map fun k =>
            let v := toF32 (src.value s (indexOf src.d k))
            match old with | some o => fadd v (o.values.getD k 0) | none => v
          if logged.isNone && parkFull x q n old vals.length then devEvent 0x300C n 1 (dropIt s)
          else note 0 (modStep h (fun st => { st with
            parksNew := st.parksNew ++ [{ pel := n, tensor := id, call := call, values := vals }]
            parksUsed := if old.isSome then st.parksUsed ++ [(n, id, call)] else st.parksUsed }) s)
    | _, _ => s
  | _, _, _ => s

def execLateContribution (part : PartId) (peloton : Nat) (call : Nat) (s : State) : Host.Outcome State Fault Refusal :=
  whenLive (lateContribution part.val peloton call) s

/-- Send ABORT for a call downstream, in the direction of the call (R490). -/
def sendAbort (h n call awaited : Nat) (s : State) : State :=
  let dir := match callOf s h n call with | some c => cwDir c.word | none => false
  match getPel s (handlePart h) n with
  | none => s
  | some q => sendTo q n (nextRank q dir) 0x20 0 (stepEpochOf s h) (stepLayout s h n) { stepHead s h n with call := call, chunk := awaited } [] s

/-- A replay none of whose calls of a peloton has gone round: some member may not have received its REPLAY (R218; log 132). -/
def unjoined (s : State) (h n : Nat) : Bool :=
  match getStep s h with
  | some st => st.replayOf.isSome && !(st.calls.any fun c => cwPel c.word == n && c.joined && c.phase == .done)
  | none => false

/-- A call ends with a fault: the record, ABORT downstream, the step stops (R473, R490). A replay that not every member has
joined completes with PARTIAL_PEER_TIMEOUT (R218). -/
def abortCall (code h n call detail awaited : Nat) (s : State) : State :=
  let s := sendAbort h n call awaited s
  if unjoined s h n then stopFaulty h 0x0302 0 s else
  let d := w64 (n ||| call <<< 16 ||| detail)
  let f : FaultIn := { code := code, cls := 8, sev := 1, unit := n, detail := d, handle := h, parts := [handlePart h] }
  stopFaulty h 0x0401 0 (raiseFault f s)

/-- The rank whose message a call waits for: upstream in its direction, or the first unheard one. -/
def awaitedRank (q : Peloton) (c : CallRun) : Nat :=
  if cwKind c.word ≤ 2 then nextRank q (!cwDir c.word)
  else ((List.range (pelN q)).find? fun r => r != pelRank q && !c.heard.contains r).getD 0

/-- PEER_TIMEOUT: nothing of a running call for PEER_LIMIT × WINDOW edges (R490); of a replay that hears nothing from a member, the
straggler window (R218). -/
def peerTimeout (p n call : Nat) (s : State) : State :=
  match callingStep s p n call, getPel s p n with
  | some (h, c), some q =>
    match markOf s h n with
    | some m =>
      let limit := if unjoined s h n && !c.joined then m.window else m.peerLimit * m.window
      if c.phase == .scatter && decide (limit ≤ c.quiet) then
        let r := awaitedRank q c
        abortCall 0x3811 h n call (r <<< 32) r s
      else s
    | none => s
  | _, _ => s

def execPeerTimeout (part : PartId) (peloton : Nat) (call : Nat) (s : State) : Host.Outcome State Fault Refusal :=
  whenLive (peerTimeout part.val peloton call) s

/-- ABORT: the step of the call stops and the message goes on (R490). -/
def takeAbort (p n : Nat) (s : State) : State :=
  match getPart s p, getPel s p n with
  | some x, some q =>
    match q.inbox.find? fun m => m.mtype == 0x20 with
    | none => s
    | some m =>
      let s := dropMsg p n m s
      let hd := readHead m.header
      match runningStepOf x m.stepEpoch hd.attempt with
      | none => s
      | some h => abortCall 0x3811 h n hd.call (hd.chunk <<< 32) hd.chunk s
  | _, _ => s

def execAbort (part : PartId) (peloton : Nat) (s : State) : Host.Outcome State Fault Refusal := whenLive (takeAbort part.val peloton) s

/-! ## The norm of a step (R196, R200, R201, R480) -/

/-- S and the non-finite count from the norm-carrying calls of a peloton: ascending CALL, chunk, pass. -/
def normTotals (s : State) (h n : Nat) : W32 × Nat :=
  match getStep s h with
  | none => (0, 0)
  | some st =>
    let calls := sortKey (·.call) (st.calls.filter fun c => cwPel c.word == n && cwNorm c.word && decide (cwKind c.word ≤ 1))
    let tots := calls.flatMap fun c => sortKey (fun t => 16 * t.1 + t.2.1) c.totals
    let r := tots.foldl (fun (a : CSum × Nat) t => (csumMerge a.1 { s := t.2.2.1, c := t.2.2.2.1 }, a.2 + t.2.2.2.2.1)) ({ s := 0, c := 0 }, 0)
    (csumResult r.1, r.2)

end Sys2Proof.Machine
end

