-- ==== Sys2Proof/Machine/Walk.lean ====
section
/-!
DEFINITION. Attention walks (R293 to R308) and ring walks (R310 to R313): one visited pair at a time, and the ring's
messages.
-/
namespace Sys2Proof.Machine

/-- One addition of a contribution to a gradient, and whether it made a finite gradient non-finite (R227, R307). -/
def gradAdd (a b : W32) : W32 × Bool := let r := fadd a b; (r, fFinite a && !fFinite r)

/-- Add contributions into an FP32 tensor's rows; the count of elements that became non-finite. -/
def addRows (t : Tensor) (l : List (Nat × List W32)) (s : State) : State × Nat :=
  l.foldl (fun (p : State × Nat) e => ((List.range e.2.length).zip e.2).foldl (fun (p : State × Nat) v =>
    let k := offsetOf t.d (indexOf t.d (v.1 + dSize t.d 0 * e.1))
    let r := gradAdd (w32 (t.readCode p.1 k)) v.2
    (t.writeCode p.1 k r.1.toNat, p.2 + b2n r.2)) p) (s, 0)

/-- Add contributions to a ring's accumulators; the count of elements that became non-finite. -/
def accRing (acc : Table (List W32)) (l : List (Nat × List W32)) : Table (List W32) × Nat :=
  l.foldl (fun (p : Table (List W32) × Nat) e =>
    let rs := (e.2.zip (tget p.1 e.1 [] ++ List.replicate e.2.length 0)).map fun q => gradAdd q.2 q.1
    (tset p.1 e.1 (rs.map Prod.fst), p.2 + (rs.filter Prod.snd).length)) (acc, 0)

/-! ## The end of a walk (R301, R304, R305, R308) -/

def finishForward (h c l n : Nat) (a : AWord) (rows : List WRow) (s : State) : State :=
  match stepTensor s h (aO a), stepTensor s h (aStats a) with
  | some o, some st =>
    let outs := rows.map fun r => finishRow a { m := r.1, ls := r.2.1, lc := r.2.2.1, o := r.2.2.2 }
    let w := aDh a + 1
    let vals := outs.flatMap fun r => r.1.map f32
    let rs := outRandom (aOcvt a) (stitchSeed s h c l n (dTensorId o.d)) w rows.length
    let s := protectTensor h st (protectTensor h o s)
    let r := if mayWrite s h o.d then o.storeRange s 0x00 (aOcvt a) 0 rs vals else (s, [])
    let s := if !mayWrite s h st.d then r.1 else ((List.range outs.length).zip outs).foldl (fun s e => ((List.range 4).zip e.2.2.1).foldl (fun s v =>
      st.writeCode s (offsetOf st.d (indexOf st.d (v.1 + dSize st.d 0 * e.1))) v.2.toNat) s) r.1
    let s := addCounts c (totalCnt r.2) (outs.filter fun r => r.2.2.1).length s
    stageAmax h (dTensorId o.d) (toF32 (maxMag vals)) (coreEvent c 0x5002 (outs.filter fun r => r.2.2.2).length s)
  | _, _ => s

def finishBackward (h c : Nat) (a : AWord) (rows : List WRow) (s : State) : State :=
  match stepTensor s h (aDq a) with
  | none => s
  | some t =>
    let s := protectTensor h t s
    let s := if !mayWrite s h t.d then s else ((List.range rows.length).zip rows).foldl (fun s e => ((List.range e.2.2.2.2.length).zip e.2.2.2.2).foldl (fun s v =>
      t.writeCode s (offsetOf t.d (indexOf t.d (v.1 + dSize t.d 0 * e.1))) v.2.toNat) s) s
    coreEvent c 0x200E ((rows.flatMap fun r => r.2.2.2).filter fun v => !fFinite v).length s

/-! ## Ring messages (R310 to R313) -/

/-- The TENSOR_ID that names a ring walk's chunks: that of K, or 0 under SRC 2, where B_K is not used (R310; DESIGN CHOICE, log
147). -/
def ringTensor (s : State) (h : Nat) (a : AWord) : W32 :=
  if aSrc a = 2 then 0 else ((stepTensor s h (aK a)).map fun t => dTensorId t.d).getD 0

/-- The format of a ring walk's keys. -/
def ringFormat (s : State) (h : Nat) (a : AWord) : Nat :=
  if aSrc a = 2 then ((walkSeq s h a).map fun r => r.1.format).getD 0 else ((stepTensor s h (aK a)).map fun t => dFmt t.d).getD 0

/-- The header of a ring message: origin, hop, the K TENSOR_ID and the pattern core slot. -/
def ringHead (s : State) (h c : Nat) (a : AWord) (origin hop : Nat) : CollHead :=
  { stepHead s h (aRing a) with tensor := ringTensor s h a, call := (coreOf s c).slot, chunk := origin, hop := hop, pass := 1 }

def sendRing (h c mtype : Nat) (a : AWord) (origin hop : Nat) (body : List Byte) (s : State) : State :=
  match getPel s (handlePart h) (aRing a) with
  | none => s
  | some q =>
    let fmt := if mtype = 0x15 then ringFormat s h a else 0
    sendTo q (aRing a) (nextRank q false) mtype fmt (stepEpochOf s h) (stepLayout s h (aRing a)) (ringHead s h c a origin hop) body s

/-- The own chunk on the wire. -/
def ownChunk (a : AWord) (ks : Keys) : List Byte :=
  let b := keyBytes a ks (List.range ks.count)
  b.1 ++ b.2

/-- Accumulators of a chunk on the wire: dK rows, then dV rows. -/
def gradBytes (a : AWord) (count : Nat) (x : Walk) : List Byte :=
  let rows (t : Table (List W32)) : List Byte := (List.range count).flatMap fun j =>
    (List.range (aDh a + 1)).flatMap fun d => leBytes 4 ((tget t j []).getD d 0).toNat
  rows x.dk ++ rows x.dv

def readGrads (a : AWord) (count : Nat) (bs : List Byte) : Table (List W32) × Table (List W32) :=
  let w := 4 * (aDh a + 1)
  let rows (off : Nat) : Table (List W32) := (List.range count).map fun j =>
    (j, (List.range (aDh a + 1)).map fun d => w32 (leNat ((bs.drop (off + w * j + 4 * d)).take 4)))
  (rows 0, rows (w * count))

/-! ## The walk -/

def setWalk (c l : Nat) (x : Walk) (s : State) : State := modCore c (fun k => { k with walk := tset k.walk l x }) s

/-- The walk leaves the core and its lane goes on, after a boundary (R41, R50, R173). The vector stitch that writes O and the
statistics, or dQ, has reached its commit point (R293; log 128). -/
def endWalk (c l n : Nat) (s : State) : State :=
  let s := coreEvent c 0x2003 1 (modCore c (fun k => { dropWeights k with walk := tdel k.walk l }) s)
  atBoundary c (passEntry c l (closeWindow c n s))

/-- The lane waits for the ring; a boundary lies here. -/
def ringWait (c l : Nat) (s : State) : State := atBoundary c (modLane c l (fun a => { a with waitOn := some .ring, started := false }) s)

/-- A generated stitch has reached its commit point and another follows: a boundary lies between them (R174, R293). -/
def walkOn (c l : Nat) (s : State) : State :=
  let s := modLane c l (fun y => { y with started := false }) (modCore c dropWeights s)
  atBoundary c (settleOthers c l (settleLane c l (laneFuel s c) s))

/-- Pages of the unified range that the end of a walk writes. -/
def finishPages (s : State) (h : Nat) (a : AWord) : List Nat :=
  (if aDir a then [aDq a] else [aO a, aStats a]).flatMap fun b => match stepTensor s h b with
    | some t => descPages t.d
    | none => []

/-- After the last block of a hop: on to the next hop, or the end of the walk. -/
def hopDone (h c l n : Nat) (a : AWord) (x : Walk) (s : State) : State :=
  let rows := stagedRows s h a x.pair (((stepTensor s h (aQ a)).map fun t => dRows t.d).getD 0)
  let fin (s : State) : State := if aDir a then finishBackward h c a rows s else finishForward h c l n a rows s
  let pages := if aRing a = 0xFFFF || (getPel s (handlePart h) (aRing a)).all (fun q => x.hop + 1 == pelN q) then finishPages s h a else []
  match accessTrouble s pages with
  | some t => stopOnPage h t s
  | none =>
  let s := touchPages pages s
  if aRing a = 0xFFFF then endWalk c l n (fin s)
  else match getPel s (handlePart h) (aRing a) with
    | none => endWalk c l n (fin s)
    | some q =>
      let o := ringOrigin q x.hop
      let s := if aDir a then sendRing h c 0x16 a o x.hop (gradBytes a (ringChunk q o).2 x) s else s
      if x.hop + 1 < pelN q then ringWait c l (setWalk c l { x with hop := x.hop + 1, next := 0, chunk := none, grads := false, dk := [], dv := [] } s)
      else if aDir a then ringWait c l (setWalk c l { x with hop := pelN q, chunk := none, grads := false, dk := [], dv := [] } (fin s))
      else endWalk c l n (fin s)

/-- One addition of a contribution to dK or dV at its stitch: into the accumulators of a ring walk's chunk, or the tensor. -/
def addGrads (h c b : Nat) (a : AWord) (acc : Table (List W32)) (l : List (Nat × List W32)) (s : State) : State × Table (List W32) :=
  if aRing a ≠ 0xFFFF then
    let k := accRing acc l
    (coreEvent c 0x200E k.2 s, k.1)
  else match stepTensor s h b with
    | some t => if !mayWrite s h t.d then (s, acc) else
        let r := addRows t l (protectTensor h t s)
        (coreEvent c 0x200E r.2 r.1, acc)
    | none => (s, acc)

/-- What a stitch of a visited pair leaves at its commit point: the vector stitch the rows' first words and the probability tile,
with its narrowing counts; those of dV and dK their contributions; the last one O or dQ (R293, R301, R306, R308). -/
def pairStitch (h c : Nat) (a : AWord) (x : Walk) (o : PairOut) (s : State) : State × Walk :=
  if x.phase = vectorPhase a then (addCounts c o.cnt 0 (stageVector h a x.pair o s), x)
  else if x.phase + 1 = pairStitches a then (stageSums h a x.pair o s, x)
  else if !aDir a then (s, x)
  else if x.phase = 3 then let r := addGrads h c (aDv a) a x.dv o.dv s; (r.1, { x with dv := r.2 })
  else if x.phase = 4 then let r := addGrads h c (aDk a) a x.dk o.dk s; (r.1, { x with dk := r.2 })
  else (s, x)

/-- The blocks that a commit of a walk reads at their source: a ring's own chunk at the start, which is sent on, and the block that
the buffers do not hold yet. -/
def blocksRead (a : AWord) (ks : Keys) (x : Walk) (kb : Option Nat) : List Nat :=
  (if !x.begun && aRing a != 0xFFFF then List.range (keyBlocksOf ks) else []) ++
  (match kb with | some k => if aSrc a = 0 || x.fetched == some (x.hop, k) then [] else [k] | none => [])

/-- The pages of the gradient that a stitch of a pair adds to. -/
def gradPages (s : State) (h : Nat) (a : AWord) (phase : Nat) : List Nat :=
  if !aDir a || aRing a ≠ 0xFFFF then [] else
    match stepTensor s h (if phase = 3 then aDv a else aDk a) with
    | some t => if phase = 3 || phase = 4 then descPages t.d else []
    | none => []

/-- Fetch a block into the buffers of a pair: a core-mover stitch of its own (R293, R297; log 128). -/
def fetchBlock (h c : Nat) (a : AWord) (ks : Keys) (x : Walk) (kb : Nat) (s : State) : State × Walk :=
  if aSrc a = 0 || x.fetched == some (x.hop, kb) then (s, x)
  else (coreEvent c 0x2003 1 (stageKeys h a ks x.pair kb s), { x with fetched := some (x.hop, kb) })

/-- The block of the next visited pair is fetched while the present one computes, where its pages can be read now (R297). -/
def fetchNext (h c : Nat) (a : AWord) (ks : Keys) (x : Walk) (later : List Nat) (s : State) : State × Walk :=
  match later with
  | [] => (s, x)
  | kb :: _ =>
    let pages := blockPages s h a x ks kb
    if accessWaits s pages || (accessTrouble s pages).isSome || (x.hop == 0 && (blockLost s h a kb).isSome) then (s, x)
    else fetchBlock h c a ks x kb (touchPages pages s)

/-- The start of a walk: its rows stand in the first copy of B_STAGE, and a ring walk sends its own chunk on (R301, R306, R310). -/
def beginWalk (h c : Nat) (a : AWord) (ks : Keys) (rows : Nat) (x : Walk) (s : State) : State × Walk :=
  if x.begun then (s, x) else
    let start := startRows s h a rows
    let s := if aRing a = 0xFFFF then s else match getPel s (handlePart h) (aRing a) with
      | some q => stageChunk h a (kvWidth ks.kfmt) 0 (ownChunk a ks) (sendRing h c 0x15 a (pelRank q) 0 (ownChunk a ks) s)
      | none => s
    (coreEvent c 0x200E start.2 (putStageBytes s h a 0 (stageCopy a) (rowsBytes start.1)), { x with begun := true })

/-- One commit of a walk: its start when it has not begun, one generated stitch of the next visited pair, and the end of the hop
when no visited pair is left. -/
def walkCommit (h c l n b : Nat) (s : State) : State :=
  match stepAttn s h b with
  | none => endWalk c l n s
  | some a =>
    match stepMask s h (aMask a), stepTensor s h (aQ a) with
    | some m, some q =>
      let x := tget (coreOf s c).walk l {}
      match walkKeys s h a m x with
      | none => s
      | some ks =>
        let ahead := blocksAhead m (dRows q.d) ks x
        let reads := blocksRead a ks x ahead.2.head?
        let pages := reads.flatMap (blockPages s h a x ks) ++ gradPages s h a x.phase
        let lost := if x.hop = 0 then reads.findSome? (blockLost s h a) else none
        if accessWaits s pages then coreWaitFree c 0x1001 s else match lost, accessTrouble s pages with
        | some t, _ => stopFaulty h 0x0402 (w64 t.2.2) (kvLostFault (handlePart h) t.1 t.2.1 h s)
        | none, some t => stopOnPage h t s
        | none, none =>
          let r := beginWalk h c a ks (dRows q.d) x s
          let s := touchPages pages (coreEvent c 0x5001 ahead.1.length r.1)
          match ahead.2 with
          | [] => hopDone h c l n a r.2 s
          | kb :: later =>
            let r := fetchBlock h c a ks { r.2 with next := kb } kb s
            match pairOut r.1 h a m ks q kb r.2.pair with
            | none => endWalk c l n r.1
            | some o =>
              let p := pairStitch h c a r.2 o (coreEvent c 0x2003 1 r.1)
              if p.2.phase + 1 < pairStitches a then walkOn c l (setWalk c l { p.2 with phase := p.2.phase + 1 } p.1)
              else
                let after := later.span (blockSkipped m (dRows q.d) ks)
                let f := fetchNext h c a ks { p.2 with next := kb + 1, pair := p.2.pair + 1, phase := 0 } after.2 p.1
                let s := setWalk c l f.2 f.1
                if after.2.isEmpty then hopDone h c l n a f.2 (coreEvent c 0x5001 after.1.length s) else walkOn c l s
    | _, _ => endWalk c l n s

/-- A lane of a running step that waits on the ring for hop `hop`, by pattern core slot and K tensor. -/
def ringWaiter (s : State) (h slot n hop : Nat) (tensor : W32) : Option (Nat × Nat × Nat × AWord × Walk) :=
  match (stepCores s h)[slot]? with
  | none => none
  | some c =>
    if (coreOf s c).step != some h then none else
      (tkeys (coreOf s c).lanes).findSome? fun l =>
        match laneEntry s c l with
        | some (i, e) => match e.op with
          | .walk b => match stepAttn s h b with
            | some a =>
              let x := tget (coreOf s c).walk l {}
              if aRing a = n && (laneOf s c l).waitOn == some .ring && x.hop == hop &&
                  ringTensor s h a == tensor then some (c, l, i, a, x) else none
            | none => none
          | _ => none
        | none => none

/-- The lane goes on once what its hop needs is here; the cycles that it waited, a free value, count (R312). -/
def ringReady (c l : Nat) (a : AWord) (s : State) : State :=
  let x := tget (coreOf s c).walk l {}
  if x.chunk.isSome && (!aDir a || x.grads) then
    let s := modLane c l (fun y => { y with waitOn := none }) (coreWaitFree c 0x5003 s)
    settleLane c l (laneFuel s c) s
  else s

/-- The step and the waiting walk that a held ring message of a type is for. -/
def ringMessage (s : State) (y : Partition) (n mtype : Nat) (q : Peloton) (m : CollMsg) : Option (Nat × Nat × Nat × Nat × AWord × Walk) :=
  let hd := readHead m.header
  if m.mtype ≠ mtype then none else
    match runningStepOf y m.stepEpoch hd.attempt with
    | none => none
    | some h => match ringWaiter s h hd.call n (hd.hop + 1) hd.tensor with
      | some r =>
        if (mtype = 0x15 && r.2.2.2.2.chunk.isNone && hd.hop + 1 < pelN q) || (mtype = 0x16 && !r.2.2.2.2.grads) then some (h, r) else none
      | none => none

/-- The first held ring message of a type that a waiting walk takes. -/
def takeRing (p n mtype : Nat) (s : State) : Option (CollMsg × Nat × (Nat × Nat × Nat × AWord × Walk) × Peloton) :=
  match getPart s p with
  | none => none
  | some y => match tget? y.pelotons n with
    | none => none
    | some q => (q.inbox.findSome? fun m => (ringMessage s y n mtype q m).map fun r => (m, r)).map fun r => (r.1, r.2.1, r.2.2, q)

/-- Bytes of a key or value on the wire of a walk. -/
def ringWidth (s : State) (h : Nat) (a : AWord) (x : Walk) : Nat :=
  match stepMask s h (aMask a) with
  | some k => ((walkKeys s h a k { x with hop := 0 }).map fun k => kvWidth k.kfmt).getD 1
  | none => 1

/-- A received chunk is staged for the hop that waits for it, and sent on while it has hops left (R310, R311). -/
def chunkHop (h c l : Nat) (a : AWord) (x : Walk) (q : Peloton) (m : CollMsg) (s : State) : State :=
  let hd := readHead m.header
  let s := stageChunk h a (ringWidth s h a x) (hd.hop + 1) m.body (setWalk c l { x with chunk := some m.body } s)
  ringReady c l a (if hd.hop + 2 < pelN q then sendRing h c 0x15 a hd.chunk (hd.hop + 1) m.body s else s)

/-- RING_KV: the chunk of the next hop arrives. -/
def ringKv (p n : Nat) (s : State) : State :=
  match takeRing p n 0x15 s with
  | none => s
  | some (m, h, (c, l, _, a, x), q) => chunkHop h c l a x q m (dropMsg p n m s)

def execRingKv (part : PartId) (peloton : Nat) (s : State) : Host.Outcome State Fault Refusal := whenLive (ringKv part.val peloton) s

/-- Write FP32 accumulators into the rows of a gradient tensor. -/
def putGrads (h : Nat) (t : Tensor) (rows : Table (List W32)) (s : State) : State :=
  if !mayWrite s h t.d then s else rows.foldl (fun s e => ((List.range e.2.length).zip e.2).foldl (fun s v =>
    t.writeCode s (offsetOf t.d (indexOf t.d (v.1 + dSize t.d 0 * e.1))) v.2.toNat) s) s

/-- Received accumulators are kept for the walk's next hop; after hop N − 1 they are home and are written (R313). -/
def gradHop (h c l i : Nat) (a : AWord) (x : Walk) (q : Peloton) (m : CollMsg) (s : State) : State :=
  let hd := readHead m.header
  let g := readGrads a (ringChunk q hd.chunk).2 m.body
  if hd.hop + 1 < pelN q then ringReady c l a (setWalk c l { x with dk := g.1, dv := g.2, grads := true } s)
  else match stepTensor s h (aDk a), stepTensor s h (aDv a) with
    | some tk, some tv =>
      match accessTrouble s (descPages tk.d ++ descPages tv.d) with
      | some t => stopOnPage h t s
      | none => endWalk c l i (coreWaitFree c 0x5003 (putGrads h tv g.2 (putGrads h tk g.1 (protectTensor h tv (protectTensor h tk s)))))
    | _, _ => endWalk c l i s

/-- RING_GRAD: accumulators arrive. -/
def ringGrad (p n : Nat) (s : State) : State :=
  match takeRing p n 0x16 s with
  | none => s
  | some (m, h, (c, l, i, a, x), q) => gradHop h c l i a x q m (dropMsg p n m s)

def execRingGrad (part : PartId) (peloton : Nat) (s : State) : Host.Outcome State Fault Refusal := whenLive (ringGrad part.val peloton) s

/-- RING_LATE: the straggler window passes during a ring wait (R312). -/
def ringLate (c l : Nat) (s : State) : State :=
  match (coreOf s c).step, laneEntry s c l with
  | some h, some (_, e) =>
    match e.op with
    | .walk b => match stepAttn s h b with
      | some a =>
        if (laneOf s c l).waitOn == some .ring then
          recEvent 0x5013 (handlePart h) (some (handlePart h)) (dieOfCore c) c h [(16, aRing a), (16, (tget (coreOf s c).walk l {}).hop)] (coreWaitFree c 0x5003 s)
        else s
      | none => s
    | _ => s
  | _, _ => s

def execRingLate (core : CoreId) (lane : LaneId) (s : State) : Host.Outcome State Fault Refusal := whenLive (ringLate core.val lane.val) s

end Sys2Proof.Machine
end

