-- ==== Sys2Proof/Machine/Update.lean ====
section
/-!
DEFINITION. The optimizer update (R189 to R201): the guard's decision, the staged header of a bank, and UPDATE on one
block of a bank's elements.
-/
namespace Sys2Proof.Machine

/-! ## The update descriptor (Table 4 of ch. 05) -/

abbrev UWord := BitVec 512

def uLr (u : UWord) : W32 := w32 (fld u 511 480)
def uBeta1 (u : UWord) : W32 := w32 (fld u 479 448)
def uBeta2 (u : UWord) : W32 := w32 (fld u 447 416)
def uEps (u : UWord) : W32 := w32 (fld u 415 384)
def uWd (u : UWord) : W32 := w32 (fld u 383 352)
def uClip (u : UWord) : W32 := w32 (fld u 351 320)
def uScale (u : UWord) : W32 := w32 (fld u 319 288)
def uBank (u : UWord) : Nat := fld u 287 256
def uPeloton (u : UWord) : Nat := fld u 255 240
def uGuard (u : UWord) : Nat := fld u 239 238
def uBias (u : UWord) : Bool := bitAt u 237
def uWcvt (u : UWord) : Nat := fld u 236 232

/-- Reserved values and reserved fields (R192). -/
def updateFormOk (u : UWord) : Bool :=
  decide (uBank u ≤ 63) && decide (uGuard u ≤ 1) && cvtOk (uWcvt u) && cvtScaleMode (uWcvt u) == 0 && fld u 231 0 == 0

def stepUpdate (s : State) (h b : Nat) : Option UWord := match stepBinding s h b with | some (.update u) => some u | _ => none

/-! ## Gradients -/

def gradAt (s : State) (t : Tensor) (k : Nat) : W32 := w32 (t.readCode s (offsetOf t.d (indexOf t.d k)))

/-- Element k of a gradient lies in a NaN block: 32 elements along dimension 0, one of which is NaN (R197, R200). For
PELOTON 0xFFFF, where no wire block exists, these are blocks of the gradient view of each UPDATE, and an infinity alone
makes no NaN block (DESIGN CHOICE, log 150). -/
def nanBlockAt (s : State) (t : Tensor) (k : Nat) : Bool :=
  let n0 := max 1 (dSize t.d 0)
  let i0 := k % n0
  let b := i0 - i0 % 32
  (List.range (min 32 (n0 - b))).any fun i => fIsNan (gradAt s t (k - i0 + b + i))

/-- NaN blocks of a gradient. -/
def nanBlocks (s : State) (t : Tensor) : Nat :=
  ((List.range (dCount t.d)).filter fun k => decide (k % max 1 (dSize t.d 0) % 32 = 0) && nanBlockAt s t k).length

/-- The compensated sum of squares of one gradient block outside NaN blocks (R200, R201). -/
def gradSum (s : State) (t : Tensor) : CSum :=
  csumLanes (((List.range (dCount t.d)).filter fun k => !nanBlockAt s t k).map fun k =>
    (k % max 1 (dSize t.d 0) % 128, fmul (gradAt s t k) (gradAt s t k)))

/-- The UPDATE instructions of a step's lists that name a bank, slots ascending and in list order: the first element and the
gradient block of each. -/
def bankBlocks (s : State) (h bank : Nat) : List (Nat × Tensor) :=
  match stepPattern s h with
  | none => []
  | some pat => pat.lists.flatMap fun es => es.flatMap fun e => match e.op with
      | .vector is => is.filterMap fun w =>
          if vVop w = 0x70 && ((stepUpdate s h (vSrc1 w)).map uBank) == some bank then
            (stepTensor s h (vSrc0 w)).map fun t => ((vImm w).toNat, t)
          else none
      | _ => []

/-- S and the non-finite count of an update (R196, R201). -/
def updateNorm (s : State) (h : Nat) (u : UWord) : W32 × Nat :=
  if uPeloton u ≠ 0xFFFF then normTotals s h (uPeloton u)
  else
    let gs := (bankBlocks s h (uBank u)).map (·.2)
    let c := gs.foldl (fun a t => csumMerge a (gradSum s t)) { s := 0, c := 0 }
    (csumResult c, gs.foldl (fun n t => n + nanBlocks s t) 0)

/-- The sum of squares of an update is non-finite although what it adds is finite: every square of the bank's own gradient, or
every total of the peloton's chunks (R184). -/
def normMade (s : State) (h : Nat) (u : UWord) : Bool :=
  !fFinite (updateNorm s h u).1 &&
  (if uPeloton u = 0xFFFF then (bankBlocks s h (uBank u)).all fun q => (List.range (dCount q.2.d)).all fun k =>
      nanBlockAt s q.2 k || fFinite (fmul (gradAt s q.2 k) (gradAt s q.2 k))
    else ((getStep s h).map (·.calls)).getD [] |>.all fun c =>
      cwPel c.word != uPeloton u || !cwNorm c.word || c.totals.all fun t => fFinite t.2.2.1)

/-- ZERO_BLOCK takes element k of a gradient as +0: it lies in a NaN block of the bank's own gradient, or is one of the NaNs
that a NaN block of a reduction leaves in its place (R197, R486). -/
def zeroBlock (s : State) (u : UWord) (t : Tensor) (k : Nat) : Bool :=
  if uPeloton u = 0xFFFF then nanBlockAt s t k else fIsNan (gradAt s t k)

/-- n and the clip factor (R196). A norm or a limit that is NaN gives a factor that no rule states: a free value. -/
def clipFactor (u : UWord) (sum : W32) (s : State) : W32 × W32 × State :=
  let n := fmul (fabs (uScale u)) (fsqrt sum)
  if uClip u = 0 then (n, fOne, s)
  else if fIsNan n || fIsNan (uClip u) then let f := takeFree s; (n, f.1.setWidth 32, f.2)
  else if Val.lt (f32 (uClip u)) (f32 n) then (n, fdiv (uClip u) n, s)
  else (n, fOne, s)

/-! ## The guard (Table 5 of ch. 05) -/

/-- Apply or skip, and whether NaN blocks are taken as +0. -/
def guardOf (u : UWord) (sum : W32) (count : Nat) : Bool × Bool :=
  if 0 < count then (uGuard u == 1, uGuard u == 1) else (fFinite sum, false)

/-- The half that an update reads: CUR; in a replay, the half whose weights the record's inputs name (R217). -/
def readHalf (st : Step) (b : Bank) : Nat :=
  match st.replayOf with
  | none => b.cur
  | some r =>
    let named (d : DescWord) : Bool := r.ins.any fun e => e.1 == dTensorId d
    if !named (half b.cur b.w) && named (half (1 - b.cur) b.w) then 1 - b.cur else b.cur

/-- The decision and the staged header values of a bank, at its first update stitch in the step (R194, R197). P2 is
multiplied by BETA2 under OPT 1 too, where Table 4 ignores BETA2 (DESIGN CHOICE, log 151). -/
def stageBank (h : Nat) (u : UWord) (s : State) : State :=
  match getStep s h, (getPart s (handlePart h)).bind fun x => tget? x.banks (uBank u) with
  | some st, some b =>
    match st.banks.find? fun g => g.bank == uBank u && g.applied.isSome with
    | some _ => s
    | none =>
      let n := updateNorm s h u
      let c := clipFactor u n.1 s
      let g := guardOf u n.1 n.2
      let k := readHalf st b
      let stage : BankStage :=
        { bank := uBank u, applied := some g.1, zeroed := g.2, t := (half k b.t + 1) % 2 ^ 32,
          p1 := fmul (half k b.p1) (uBeta1 u), p2 := fmul (half k b.p2) (uBeta2 u), gs := fmul (uScale u) c.2.1 }
      let bad := decide (0 < n.2) || !fFinite n.1
      modStep h (fun st => { st with
        banks := st.banks.filter (fun q => q.bank != uBank u) ++ [stage]
        conds := condIf bad .nonfinite (condIf (!g.1) .guardSkipped st.conds)
        clip := c.2.1
        norm := c.1
        nonfinBlocks := n.2
        guardAct := if !g.1 then 2 else if g.2 then 3 else 1 }) c.2.2
  | _, _ => s

/-! ## One block (R193) -/

/-- A tensor of a bank as a step reads it: in a replay, its substitute (R217). -/
def bankSource (st : Step) (d : DescWord) : Tensor :=
  match st.replayOf.bind fun r => r.subs.find? fun q => q.1 == dTensorId d with
  | some q => { d := q.2 }
  | none => { d := d }

/-- A tensor of a bank as a step writes it: in a replay, the scratch destination of its TENSOR_ID, or nothing (R217). -/
def bankTarget (st : Step) (d : DescWord) : Option Tensor :=
  match st.replayOf with
  | none => some { d := d }
  | some r => (r.outs.find? fun o => dTensorId o == dTensorId d).map fun o => { d := o }

/-- Offset of element k of a bank tensor. -/
def bankOff (t : Tensor) (k : Nat) : Nat := offsetOf t.d (indexOf t.d k)

/-- New weight, M and V of one element. -/
structure UpdOut where
  w : Nat
  m : W32
  v : W32
  deriving DecidableEq, Repr

/-- m48_add: the exact sum of an M48 and an FP32 value, rounded once (R193). -/
def m48Add (w : Nat) (d : W32) : Nat := (narrow 0x0C 4 0 (Val.add (codeVal 0x0C w) (f32 d))).1

/-- −LR × x. -/
def negLr (u : UWord) (x : W32) : W32 := fmul (fneg (uLr u)) x

/-- The update of one element: gradient scaled by gs, the committed values, the staged header (R193). -/
def updateElem (u : UWord) (opt : Nat) (g0 gs p1 p2 : W32) (w : Nat) (m0 v0 : W32) : UpdOut :=
  let g := fmul g0 gs
  let w0 := w32 (w / 65536)
  if opt = 0 then
    let rb1 := fdiv fOne (fsub fOne p1)
    let rb2 := fdiv fOne (fsub fOne p2)
    let m := fma (uBeta1 u) m0 (fmul (fsub fOne (uBeta1 u)) g)
    let v := fma (uBeta2 u) v0 (fmul (fsub fOne (uBeta2 u)) (fmul g g))
    let mh := if uBias u then fmul m rb1 else m
    let vh := if uBias u then fmul v rb2 else v
    let d := negLr u (fadd (fdiv mh (fadd (fsqrt vh) (uEps u))) (fmul (uWd u) w0))
    { w := m48Add w d, m := m, v := v }
  else
    let m := fma (uBeta1 u) m0 g
    let d := negLr u (fadd m (fmul (uWd u) w0))
    { w := m48Add w d, m := m, v := v0 }

def m48Finite (w : Nat) : Bool := (codeVal 0x0C w).isFin

/-- Elements of W, M and V that an update leaves non-finite (R199); V is only copied under OPT 1. -/
def nonfinOf (opt : Nat) (o : UpdOut) : Nat :=
  b2n (!m48Finite o.w) + b2n (!fFinite o.m) + b2n (opt == 0 && !fFinite o.v)

/-- Bytes of elements first to first + n − 1 of a bank tensor, with its block scales, as (first byte, bytes). -/
def runBytes (t : Tensor) (first n : Nat) : List (Nat × Nat) :=
  if n = 0 || dSpace t.d ≠ 0 then [] else
    let a := bankOff t first
    let b := bankOff t (first + n - 1)
    let span := if dFmt t.d = 0x0C then (96 * (a / 16), 96 * (b / 16 + 1)) else (a * fmtBits (dFmt t.d) / 8, ((b + 1) * fmtBits (dFmt t.d) + 7) / 8)
    (dAddr t.d + span.1, span.2 - span.1) :: (if scaled (dFmt t.d) && dScaleSpace t.d == 0 then [(dScaleAddr t.d, dScaleBytes t.d)] else [])

/-- Pages of elements first to first + n − 1 of a bank tensor, with its block scales. -/
def runPages (t : Tensor) (first n : Nat) : List Nat := (runBytes t first n).flatMap fun b => pagesOf b.1 b.2

/-- Pages that an UPDATE instruction reaches. -/
def updatePages (s : State) (h : Nat) (w : VInstr) : List Nat :=
  match stepUpdate s h (vSrc1 w), stepTensor s h (vSrc0 w), getStep s h with
  | some u, some g, some st =>
    match (getPart s (handlePart h)).bind fun x => tget? x.banks (uBank u) with
    | none => []
    | some b =>
      let c := readHalf st b
      let first := (vImm w).toNat
      let n := dCount g.d
      ([half c b.w, half c b.m, half c b.v].flatMap fun d => runPages (bankSource st d) first n) ++
      (([half (1 - c) b.w, half (1 - c) b.m, half (1 - c) b.v] ++ (if b.work then [half (1 - c) b.k] else [])).filterMap (bankTarget st)).flatMap
        fun t => runPages t first n
  | _, _, _ => []

/-- What an update makes of the block of a bank that begins at element `first`. -/
def blockOuts (s : State) (st : Step) (u : UWord) (b : Bank) (q : BankStage) (first : Nat) (g : Tensor) : List UpdOut :=
  let c := readHalf st b
  let wc := bankSource st (half c b.w)
  let mc := bankSource st (half c b.m)
  let vc := bankSource st (half c b.v)
  (List.range (dCount g.d)).map fun j =>
    updateElem u b.opt (if q.zeroed && zeroBlock s u g j then 0 else gradAt s g j) q.gs q.p1 q.p2 (wc.readCode s (bankOff wc (first + j)))
      (w32 (mc.readCode s (bankOff mc (first + j)))) (w32 (vc.readCode s (bankOff vc (first + j))))

/-- The largest finite magnitude of a bank's new weights, from which the working copy's tensor scale comes (R135, R193). -/
def bankTop (s : State) (h : Nat) (st : Step) (u : UWord) (b : Bank) (q : BankStage) : Val :=
  maxMag ((bankBlocks s h (uBank u)).flatMap fun k => (blockOuts s st u b q k.1 k.2).map fun o => codeVal 0x0C o.w)

/-- UPDATE of one block: the shadow half's elements, the working copy, and the counts. -/
def vUpdate (e : VEnv) (h : Nat) (w : VInstr) (v : VState) : VState :=
  match stepUpdate v.s h (vSrc1 w), e.tensor (vSrc0 w) with
  | some u, some g =>
    let fresh := !((getStep v.s h).any fun st => st.banks.any fun q => q.bank == uBank u && q.applied.isSome)
    let v := { v with cnt := { v.cnt with made := v.cnt.made + b2n (fresh && normMade v.s h u) } }
    let s := stageBank h u v.s
    match getStep s h, (getPart s (handlePart h)).bind fun x => tget? x.banks (uBank u) with
    | some st, some b =>
      match st.banks.find? fun q => q.bank == uBank u with
      | none => { v with s := s }
      | some q =>
        if q.applied ≠ some true then { v with s := s } else
          let c := readHalf st b
          let first := (vImm w).toNat
          let outs := blockOuts s st u b q first g
          let top := if b.work && b.wfmt == 0x0A then bankTop s h st u b q else .zero
          let put (d : DescWord) (f : UpdOut → Nat) (s : State) : State :=
            match bankTarget st d with
            | none => s
            | some t => ((List.range outs.length).zip outs).foldl (fun s o => t.writeCode s (bankOff t (first + o.1)) (f o.2)) s
          let s := put (half (1 - c) b.w) (·.w) (put (half (1 - c) b.m) (·.m.toNat) (put (half (1 - c) b.v) (·.v.toNat) s))
          let bad := (outs.map (nonfinOf b.opt)).foldl (· + ·) 0
          let s := modStep h (fun st => { st with
            banks := st.banks.map fun k => if k.bank == uBank u then { k with nonfinMade := (k.nonfinMade + bad) % 2 ^ 32 } else k
            conds := condIf (decide (0 < bad)) .nonfinite st.conds }) s
          let v := { v with s := s, cnt := { v.cnt with made := v.cnt.made + bad } }
          match (if b.work then bankTarget st (half (1 - c) b.k) else none) with
          | none => v
          | some t =>
            let vals := outs.map fun o => codeVal 0x0C o.w
            let r := drawAll e v.gens (uWcvt u) (dSize g.d 0) vals.length
            let o := t.storeAs v.s 0x0C (uWcvt u) top [(first, r.1, vals)]
            { v with s := o.1, gens := r.2, cnt := Cnt.add v.cnt (totalCnt o.2), amax := v.amax ++ [(dTensorId t.d, toF32 (maxMag vals))] }
    | _, _ => { v with s := s }
  | _, _ => v

end Sys2Proof.Machine
end

