-- ==== Sys2Proof/Machine/Banks.lean ====
section
/-!
DEFINITION. Bank commands (R189 to R191, R194, R207, Table 7 of ch. 05) and REPLAY_LOG_SET (R214).
-/
namespace Sys2Proof.Machine

/-- Write values into a tensor of a bank or of an export under CVT 0, the conversion control of a command that carries none
(ch. 03). -/
def putValues (t : Tensor) (src : Nat) (vals : List Val) (s : State) : State := (t.store s src 0 [] vals).1

/-- Both halves of a bank take the same weights and moments (Table 7). -/
def fillBank (b : Bank) (src : Nat) (w m v : List Val) (s : State) : State :=
  [0, 1].foldl (fun s h =>
    let s := putValues { d := half h b.w } src w s
    let s := putValues { d := half h b.m } 0x00 m s
    let s := putValues { d := half h b.v } 0x00 v s
    if b.work then
      putValues { d := half h b.k } 0x0C (({ d := half h b.w } : Tensor).values s) s
    else s) s

def bankDescs (o : BankOps) : List DescWord := [o.w0, o.w1, o.m0, o.m1, o.v0, o.v1] ++ (if o.work = 1 then [o.k0, o.k1] else [])

/-- Every descriptor passes, in order (R96 to R98). -/
def needAll {α : Type} (s : State) (p : Nat) (x : Partition) : List DescWord → Except Nat α → Except Nat α
  | [], k => k
  | d :: r, k => needUnified s p x d (needAll s p x r k)

def bankOf (o : BankOps) : Bank where
  header := o.header.toNat
  elements := o.elements.toNat
  opt := o.opt.toNat
  work := o.work == 1
  wfmt := o.wfmt.toNat
  w := (o.w0, o.w1)
  m := (o.m0, o.m1)
  v := (o.v0, o.v1)
  k := (o.k0, o.k1)

/-- R207, R189 and Table 3: formats and element counts. -/
def bankFormOk (o : BankOps) : Bool :=
  [o.w0, o.w1].all (fun d => dFmt d == 0x0C) && [o.m0, o.m1, o.v0, o.v1].all (fun d => dFmt d == 0x00) &&
  (o.work != 1 || [o.k0, o.k1].all fun d => dFmt d == o.wfmt.toNat && dFmt d != 0x0C && dFmt d != 0x0D && dFmt d != 0x0E) &&
  (dFmt o.init == 0x00 || dFmt o.init == 0x0C) &&
  (o.init :: bankDescs o).all fun d => dCount d == o.elements.toNat

def bankCreateBody (f : Nat) (hdr : Hdr) (o : BankOps) : Body := fun s =>
  withPart f hdr s fun p x =>
    need (flagOk o.opt && flagOk o.work && decide (o.wfmt.toNat < 32) && 0 < o.elements.toNat &&
      decide (o.elements.toNat ≤ 2 ^ 39) && decide (o.header.toNat + 64 ≤ 2 ^ 43)) 0x0201 (
    needAll s p x (o.init :: bankDescs o) (
    need (bankFormOk o && descReservedOk o.k0 && descReservedOk o.k1) 0x0202 (
    need (pagesOwned s p o.header.toNat 64 && !(pagesOf o.header.toNat 64).any (fun g => readOnlyPage s g || controlPage s g) &&
      (bankDescs o).all (fun d => !readOnlyDesc s d)) 0x0205 (
    have' (tfree x.banks 64) 0x0206 fun i =>
      long f hdr (some p) 2 .none s (w64 i) fun h s =>
        let pages := descPages o.init ++ (bankDescs o).flatMap descPages
        match readTrouble s (descPages o.init) ((bankDescs o).flatMap descPages) with
        | some t => failAccess h t s
        | none =>
          let b := bankOf o
          let vals := (cmdTensor o.init).values s
          let zero := List.replicate vals.length Val.zero
          finish h 0 0 (putBank p i b (fillBank b (dFmt o.init) vals zero zero (touchPages pages s)))))))

def execBankCreate (fn : Fn) (hdr : Hdr) (ops : BankOps) (s : State) : Host.Outcome State Fault Refusal :=
  message fn hdr 0x0252 false (bankCreateBody fn hdr ops) s

/-- A bank that the partition holds. -/
def withBank (f : Nat) (hdr : Hdr) (s : State) (bank : W64) (k : Nat → Partition → Bank → Except Nat Ans) : Except Nat Ans :=
  withPart f hdr s fun p x => have' (tget? x.banks bank.toNat) 0x0201 fun b => k p x b

/-- Some step holds a bank staged (R191). -/
def bankHeld (x : Partition) (i : Nat) : Bool :=
  x.steps.any fun e => stepHolds e.2 && e.2.replayOf.isNone && e.2.banks.any fun g => g.bank == i

/-- Export and import move element for element (R191). -/
def needMoments {α : Type} (s : State) (p : Nat) (x : Partition) (b : Bank) (w m v : DescWord) (k : Except Nat α) : Except Nat α :=
  needAll s p x [w, m, v] (need ([w, m, v].all fun d => dCount d == b.elements) 0x0202 k)

def exportBody (f : Nat) (hdr : Hdr) (bank : W64) (w m v : DescWord) : Body := fun s =>
  withBank f hdr s bank fun p x b =>
    needMoments s p x b w m v (
    need ([w, m, v].all fun d => !readOnlyDesc s d) 0x0205 (
      long f hdr (some p) 2 .none s 0 fun h s =>
        let c := b.cur
        let own := [half c b.w, half c b.m, half c b.v].flatMap descPages
        let pages := own ++ [w, m, v].flatMap descPages
        match readTrouble s own ([w, m, v].flatMap descPages) with
        | some t => failAccess h t s
        | none =>
          let s := touchPages pages s
          let vals (d : DescWord) : List Val := ({ d := d } : Tensor).values s
          let s' := putValues (cmdTensor w) 0x0C (vals (half c b.w)) s
          let s' := putValues (cmdTensor m) 0x00 (vals (half c b.m)) s'
          finish h 0 (w64 (half c b.t)) (putValues (cmdTensor v) 0x00 (vals (half c b.v)) s')))

def execBankExport (fn : Fn) (hdr : Hdr) (bank : W64) (w m v : DescWord) (s : State) : Host.Outcome State Fault Refusal :=
  message fn hdr 0x0253 false (exportBody fn hdr bank w m v) s

def importBody (f : Nat) (hdr : Hdr) (bank : W64) (w m v : DescWord) (t p1 p2 : W64) : Body := fun s =>
  withBank f hdr s bank fun p x b =>
    need (decide (t.toNat < 2 ^ 32) && decide (p1.toNat < 2 ^ 32) && decide (p2.toNat < 2 ^ 32)) 0x0201 (
    needMoments s p x b w m v (
    need (!bankHeld x bank.toNat) 0x0205 (
      long f hdr (some p) 2 .none s 0 fun h s =>
        let own := [b.w, b.m, b.v].flatMap (fun q => [q.1, q.2]) ++ (if b.work then [b.k.1, b.k.2] else [])
        let pages := ([w, m, v] ++ own).flatMap descPages
        match readTrouble s ([w, m, v].flatMap descPages) (own.flatMap descPages) with
        | some e => failAccess h e s
        | none =>
          let s := touchPages pages s
          let s' := fillBank b (dFmt w) ((cmdTensor w).values s) ((cmdTensor m).values s) ((cmdTensor v).values s) s
          let b' := { b with t := setHalf b.cur t.toNat b.t, p1 := setHalf b.cur (p1.setWidth 32) b.p1, p2 := setHalf b.cur (p2.setWidth 32) b.p2 }
          finish h 0 0 (putBank p bank.toNat b' s'))))

def execBankImport (fn : Fn) (hdr : Hdr) (bank : W64) (w m v : DescWord) (t p1 p2 : W64) (s : State) : Host.Outcome State Fault Refusal :=
  message fn hdr 0x0254 false (importBody fn hdr bank w m v t p1 p2) s

def bankDestroyBody (f : Nat) (hdr : Hdr) (bank : W64) : Body := fun s =>
  withBank f hdr s bank fun p x _ =>
    need (!bankHeld x bank.toNat) 0x0205 (.ok { st := modPart p (fun x => { x with banks := tdel x.banks bank.toNat }) s })

def execBankDestroy (fn : Fn) (hdr : Hdr) (bank : W64) (s : State) : Host.Outcome State Fault Refusal :=
  message fn hdr 0x0255 false (bankDestroyBody fn hdr bank) s

/-! ## The replay log -/

/-- R214: 1 MiB to 4 GiB, a multiple of 64 KiB; 0 stops logging. -/
def logSizeOk (n : Nat) : Bool := n == 0 || (decide (2 ^ 20 ≤ n) && decide (n ≤ 2 ^ 32) && n % 65536 == 0)

def logSetBody (f : Nat) (hdr : Hdr) (addr size : W64) : Body := fun s =>
  withPart f hdr s fun p x =>
    let n := size.toNat
    need (logSizeOk n && decide (addr.toNat + n ≤ 2 ^ 43)) 0x0201 (
    need (n == 0 || (pagesOwned s p addr.toNat n && !(pagesOf addr.toNat n).any fun g => readOnlyPage s g || controlPage s g)) 0x0205 (
      .ok { st := modPart p (fun x => { x with log := if n = 0 then none else some { addr := addr.toNat, size := n } }) s,
            result := w64 ((x.log.map (·.size)).getD 0) }))

def execReplayLogSet (fn : Fn) (hdr : Hdr) (addr size : W64) (s : State) : Host.Outcome State Fault Refusal :=
  message fn hdr 0x0258 false (logSetBody fn hdr addr size) s

end Sys2Proof.Machine
end

