-- ==== Sys2Proof/Machine/Codec.lean ====
section
/-!
DEFINITION. The codec pairs (chapter 10): sessions and how they share a pair, input rings and unit records, the
reference pool and picture output, activation calls.
-/
namespace Sys2Proof.Machine

/-- Session n of a partition leaves its pairs: slots and pool entries return, a running unit of it is dropped. -/
def leavePairs (p n : Nat) (s : State) : State :=
  match getSession s p n with
  | none => s
  | some e => e.pairs.foldl (fun s i => modPair i (fun r =>
      let k := slotOn r p n
      { r with slots := tdel r.slots k, pool := r.pool.filter fun q => q.2.session != k,
               running := if r.running == some (p, n) then none else r.running }) s) s

/-- A session that a fault stops: its handle completes; posted entries stay until they are released (R385). -/
def stopSession (p n : Nat) (s : State) : State :=
  match getSession s p n with
  | none => s
  | some e =>
    finish e.handle 0x0401 0 (modSession p n (fun e => { e with pairs := [], parsed := none, current := none, waiting := [], due := [], hidden := [], frames := [], encoding := none, group := 0, starving := false, abandoned := false })
      (leavePairs p n s))

/-- Free pool entries of a session on its pair, lowest first (R390). -/
def freeEntries (r : Pair) (e : Session) : List Nat :=
  e.entries.filter fun i => match tget? r.pool i with
    | some q => q.mark == 0 && !q.output && !q.busy
    | none => false

/-- What a decode session starts a stream from: its operating point and pre-grain flag (Table 2). -/
def streamStart (opPoint : Nat) (preGrain : Bool) : W64 := w64 (opPoint ||| b2n preGrain <<< 8)

/-- What the standard makes of a payload at the front; a NAL unit of another layer is only skipped (Table 2). -/
def recordAnswer (s : State) (e : Session) (h : BitVec 256) : W64 :=
  let a := Config.videoUnit e.kind (ringBytes s e (e.consumed + 32) (recLength h)) (if bitAt h 1 then streamStart e.opPoint e.preGrain else e.stream)
  if bitAt a 8 then 0x100 else a

/-- A pool entry of a pair. -/
def modEntryPool (i k : Nat) (f : PoolEntry → PoolEntry) (s : State) : State := modPair i (fun r => { r with pool := tupd r.pool k f }) s

/-- Pictures fall due: the first n of the waiting ones in output order (R393). -/
def insertPicture (a : Picture) : List Picture → List Picture
  | [] => [a]
  | b :: r => if a.order ≤ b.order then a :: b :: r else b :: insertPicture a r

def bumpPictures (n : Nat) (e : Session) : Session :=
  let sorted := e.waiting.foldr insertPicture []
  { e with due := e.due ++ sorted.take n, waiting := sorted.drop n }

/-- The current picture is complete: its buffer is no longer busy and is needed for output where the picture is. -/
def endPicture (i p n : Nat) (s : State) : State :=
  match (getSession s p n).bind (·.current) with
  | none => s
  | some c =>
    let s := modEntryPool i c.pool (fun q => { q with busy := false, output := c.shown, err := c.err }) s
    modSession p n (fun e => { e with
      current := none
      pictures := e.pictures + 1
      waiting := if c.shown then e.waiting ++ [c] else e.waiting
      hidden := e.hidden.filter (fun o => o.pool != c.pool) ++ (if c.shown then [] else [c]) }) s

/-- HEVC: MARK of a session's entries by the reference picture set of a picture's first slice (R390). -/
def markPool (i : Nat) (e : Session) (payload : List Byte) (s : State) : State :=
  let refs := Config.refSet e.kind payload e.stream
  e.entries.foldl (fun s k => modEntryPool i k (fun q =>
    { q with mark := if refs.contains (q.order, false) then 1 else if refs.contains (q.order, true) then 2 else 0 }) s) s

/-- AV1: refresh_frame_flags names the slots that the frame in entry `cur` takes from the other entries; MARK follows SLOTS (R390). -/
def refreshPool (i cur : Nat) (e : Session) (payload : List Byte) (s : State) : State :=
  let flags := Config.refreshFlags payload e.stream
  e.entries.foldl (fun s k => modEntryPool i k (fun q =>
    let sl := if k = cur then q.slots ||| flags else q.slots &&& ~~~flags
    { q with slots := sl, mark := b2n (sl != 0) }) s) s

/-- DISC: every pending picture falls due, every reference is dropped, the stream starts again. -/
def discontinue (i p n : Nat) (e : Session) (s : State) : State :=
  let s := endPicture i p n s
  let s := e.entries.foldl (fun s k => modEntryPool i k (fun q => { q with mark := 0, slots := 0 }) s) s
  modSession p n (fun e => bumpPictures e.waiting.length { e with stream := streamStart e.opPoint e.preGrain, hidden := [] }) s

/-- What happens before the picture that a record starts takes a frame buffer: DISC, the end of the picture before it, the marks of
its reference picture set. -/
def beforePicture (i p n : Nat) (e : Session) (h : BitVec 256) (ans : W64) (s : State) : State :=
  let s := if bitAt h 1 then discontinue i p n e s else s
  if bitAt ans 2 then
    let s := endPicture i p n s
    if e.kind = 0 then markPool i e (ringBytes s e (e.consumed + 32) (recLength h)) s else s
  else s

/-- A complete record starts a picture and no frame buffer is free (Table 5). -/
def outputBlocked (s : State) (p n : Nat) (e : Session) : Bool :=
  match recordHead s e, e.pairs with
  | some h, i :: _ =>
    let ans := recordAnswer s e h
    recordReady s e && !recordBad e h && recType h != 2 && bitAt ans 2 && (freeEntries (pairOf (beforePicture i p n e h ans s) i) e).isEmpty
  | _, _ => false

/-- The encoder takes the picture that it codes next: of a new group, once all its pictures wait (log 153). -/
def takeFrame (e : Session) : Session :=
  let q := e.enc
  let params := [q.width, q.height, q.bitDepth, q.level, q.irapPeriod, q.bPictures, q.sliceRows, q.wpp, q.rateMode, q.qp, q.bitrate].flatMap
    fun w => leBytes 8 w.toNat
  let most := q.bPictures.toNat + 1
  let g := if e.group = 0 then 1 + Config.groupLength params e.stream ((e.frames.take most).map fun f => f.2.2) % most else e.group
  let k := Config.groupPick params e.stream g % g
  { e with encoding := e.frames[k]?, frames := e.frames.eraseIdx k, group := g - 1 }

/-- Lanes that wait for room in an encode session's queue look again. -/
def wakeCodecLanes (p : Nat) (s : State) : State :=
  s.cores.cores.foldl (fun s q =>
    if q.2.part ≠ p || q.2.step.isNone then s else
      (tkeys q.2.lanes).foldl (fun s l => match laneEntry s q.1 l with
        | some (_, e) => match e.op with | .codec _ => settleLane q.1 l (laneFuel s q.1) s | _ => s
        | none => s) s) s

/-- A session begins a unit on a pair. -/
def beginUnit (i p n : Nat) (e : Session) (s : State) : State :=
  let call := (readyAct s p n e (placeIn e i)).getD 0
  let s := modPair i (fun r => { r with running := some (p, n), call := call }) s
  let s := modSession p n (fun e => { e with since := tdel e.since i, starving := recordPartial s e && decide (e.kind < 2) }) s
  if e.kind = 2 then wakeCodecLanes p (modSession p n takeFrame s) else s

/-- An idle pair takes the ready session of the lowest class that has waited longest (R387). -/
def takeNext (i : Nat) (s : State) : State :=
  let r := pairOf s i
  if r.running.isSome || r.loading.isSome then s else
    match readySessions s i with
    | [] => s
    | a :: rest =>
      let b := rest.foldl (fun b c => if sessionBefore i b c then b else c) a
      beginUnit i b.1 b.2.1 b.2.2 s

/-- The pair lets the session's unit go; the session waits again. -/
def leaveUnit (i p n : Nat) (s : State) : State := startWait p n (modPair i (fun r => { r with running := none }) s)

/-! ## Starved input (Table 5) -/

/-- Abandon a starved unit: the count goes up, the session waits for new data (R383, R384). -/
def abandonUnit (i p n : Nat) (s : State) : State :=
  devEvent 0x4001 i 1 (modSession p n (fun e => { e with starving := false, abandoned := true, starveTicks := 0, starves := e.starves + 1 })
    (modPair i (fun r => { r with running := none }) s))

def starveLimit (p n : Nat) (s : State) : State :=
  match getSession s p n with
  | some e => match e.pairs with
    | i :: _ => if e.starving && (pairOf s i).running == some (p, n) && decide (e.starve ≤ e.starveTicks) then takeNext i (abandonUnit i p n s) else s
    | [] => s
  | none => s

/-- STARVE_LIMIT. -/
def execStarveLimit (part : PartId) (session : Nat) (s : State) : Host.Outcome State Fault Refusal :=
  whenLive (starveLimit part.val session) s

/-- What each tick edge does to the sessions that run: starvation grows, a blocked output counts (Table 5). -/
def codecTick (s : State) : State :=
  (List.range 16).foldl (fun s i =>
    match (pairOf s i).running with
    | none => s
    | some (p, n) => match getSession s p n with
      | none => s
      | some e =>
        if 2 ≤ e.kind then s
        else if e.starving then modSession p n (fun e => { e with starveTicks := e.starveTicks + 1 }) s
        else if e.parsed.isNone && outputBlocked s p n e then devEvent 0x4003 i 1 (modSession p n (fun e => { e with blocked := e.blocked + 1 }) s)
        else s) s

/-! ## Decoding a unit record (R381, R385, R390, R391, R394) -/

/-- The consumed count passes a record, in the session and at its write-back location (R380, R381). -/
def consumeRecord (p n len : Nat) (s : State) : State :=
  match getSession s p n with
  | none => s
  | some e =>
    let c := e.consumed + 32 * ((32 + len + 31) / 32)
    modSession p n (fun e => { e with consumed := c, starving := false, starveTicks := 0 }) (s.writeNat .unified e.inWriteback 8 c)

/-- Padding is skipped: the unit behind it is starved where it has only begun to arrive (R383). -/
def skipPadding (p n len : Nat) (s : State) : State :=
  let s := consumeRecord p n len s
  modSession p n (fun e => { e with starving := recordPartial s e }) s

/-- Start a picture in a free entry. -/
def startPicture (i p n k : Nat) (ans : W64) (time : W64) (s : State) : State :=
  let order := fld ans 47 16
  let s := modEntryPool i k (fun q => { q with busy := true, order := order, slots := 0, err := bitAt ans 6 }) s
  modSession p n (fun e => { e with current := some {
    pool := k, time := time, order := order, err := bitAt ans 6, irap := bitAt ans 5, shown := bitAt ans 4, stream := e.stream } }) s

/-- What a parsed unit adds to the current picture: mid-grey blocks, a generated reference, a failed hash (R391, R394, Table 7). -/
def notePicture (ans : W64) (c : Picture) : Picture :=
  { c with blocks := if bitAt ans 1 then min 0xFFFF (c.blocks + fld ans 63 48) else c.blocks,
           err := c.err || bitAt ans 1 || bitAt ans 6, hashFail := c.hashFail || bitAt ans 7 }

/-! ## Samples in a frame buffer (R392) -/

/-- The planes of a picture with their columns and rows. -/
def planesOf (sh : Config.StreamShape) : List (Nat × Nat × Nat) :=
  (0, sh.width, sh.height) :: (if sh.chroma then [(1, (sh.width + 1) / 2, (sh.height + 1) / 2), (2, (sh.width + 1) / 2, (sh.height + 1) / 2)] else [])

def sampleBytes (sh : Config.StreamShape) : Nat := if sh.depth ≤ 8 then 1 else 2

/-- The address of a sample: the luma plane, then the interleaved Cb, Cr plane. -/
def sampleAddr (base pitch : Nat) (sh : Config.StreamShape) (plane x y : Nat) : Nat :=
  if plane = 0 then base + pitch * y + x * sampleBytes sh
  else base + pitch * sh.height + pitch * y + (2 * x + (plane - 1)) * sampleBytes sh

/-- A sample of a frame buffer: 8 bits, or 10 bits in [9:0] of two bytes. -/
def readSample (s : State) (base pitch : Nat) (sh : Config.StreamShape) (plane x y : Nat) : Nat :=
  s.readNat .unified (sampleAddr base pitch sh plane x y) (sampleBytes sh) % 2 ^ sh.depth

/-- Write the samples that f gives. -/
def putPicture (base pitch : Nat) (sh : Config.StreamShape) (f : Nat → Nat → Nat → Option Nat) (s : State) : State :=
  (planesOf sh).foldl (fun s pl => (List.range (pl.2.1 * pl.2.2)).foldl (fun s k =>
    match f pl.1 (k % pl.2.1) (k / pl.2.1) with
    | some v => s.write .unified (sampleAddr base pitch sh pl.1 (k % pl.2.1) (k / pl.2.1)) (leBytes (sampleBytes sh) (v % 2 ^ sh.depth))
    | none => s) s) s

/-- The sample value 2^(bit depth − 1). -/
def midGrey (sh : Config.StreamShape) : Nat := 2 ^ (sh.depth - 1)

/-- Generate a missing reference picture in the free entry with the lowest index, every sample 2^(bit depth − 1) as the standard and R391
have it; where no entry is free, the decoder alone holds it (log 23). -/
def generateRef (i : Nat) (e : Session) (payload : List Byte) (s : State) : State :=
  match (freeEntries (pairOf s i) e).head? with
  | none => s
  | some k =>
    let m := Config.missingRef e.kind payload e.stream
    let slots := BitVec.ofNat 8 (fld m 39 32)
    let s := modEntryPool i k (fun q =>
      { q with order := fld m 31 0, err := false, slots := if e.kind = 1 then slots else 0,
               mark := if e.kind = 1 then b2n (slots != 0) else 1 + b2n (bitAt m 40) }) s
    let sh := Config.streamShape e.kind e.stream
    match tget? (pairOf s i).pool k with
    | some q => putPicture q.addr e.pitch sh (fun _ _ _ => some (midGrey sh)) s
    | none => s

/-- The fault of a bad record or an unsupported parameter set (R385). -/
def inputFormat (i p n : Nat) (e : Session) (s : State) : State :=
  stopSession p n (raiseFault { code := 0x4801, cls := 9, sev := 1, die := dieOfPair i, unit := i, detail := w64 (n ||| e.consumed <<< 8),
                                handle := e.handle, parts := [p] } s)

/-- UNIT_RECORD: the entropy engine has parsed the whole record at the front. -/
def unitRecord (p n : Nat) (s : State) : State :=
  match getSession s p n with
  | none => s
  | some e =>
    match e.pairs, recordHead s e with
    | i :: _, some h =>
      if 2 ≤ e.kind || (pairOf s i).running != some (p, n) || e.parsed.isSome || !recordReady s e then s
      else if recordBad e h then inputFormat i p n e s
      else if recType h = 2 then skipPadding p n (recLength h) s
      else
        let payload := ringBytes s e (e.consumed + 32) (recLength h)
        let ans := recordAnswer s e h
        if bitAt ans 0 then inputFormat i p n e s
        else
          let r := beforePicture i p n e h ans s
          let k := (freeEntries (pairOf r i) e).head?
          if bitAt ans 2 && k.isNone then s else
            let s := if bitAt ans 2 then startPicture i p n (k.getD 64) ans (w64 (fld h 255 192)) r else r
            let s := if bitAt ans 12 || bitAt ans 6 then generateRef i e payload s else s
            let s := if bitAt ans 8 then devEvent 0x4005 i 1 s else s
            let s := if bitAt ans 1 then devEvent 0x4002 i 1 s else s
            let s := modSession p n (fun e => { e with
              current := e.current.map (notePicture ans)
              bitErrors := e.bitErrors + b2n (bitAt ans 1)
              parsed := some (ans, payload, bitAt h 0) }) s
            consumeRecord p n (recLength h) s
    | _, _ => s

def execUnitRecord (part : PartId) (session : Nat) (s : State) : Host.Outcome State Fault Refusal :=
  whenLive (unitRecord part.val session) s

/-- The samples that a unit writes: those that it decodes, and 2^(bit depth − 1) in the blocks that are left of a broken slice or tile
group (R394). -/
def unitSample (e : Session) (sh : Config.StreamShape) (ans : W64) (payload : List Byte) (plane x y : Nat) : Option Nat :=
  if bitAt ans 1 && Config.videoBroken e.kind payload e.stream plane x y then some (midGrey sh)
  else Config.videoSample e.kind payload e.stream plane x y

/-- A decoded unit writes its samples into the current picture's frame buffer. -/
def writeUnit (i : Nat) (e : Session) (ans : W64) (payload : List Byte) (s : State) : State :=
  match e.current.bind fun c => tget? (pairOf s i).pool c.pool with
  | some q =>
    let sh := Config.streamShape e.kind e.stream
    putPicture q.addr e.pitch sh (unitSample e sh ans payload) s
  | none => s

/-- A unit shows a frame that a pool entry holds (show_existing_frame). -/
def showAgain (i p n k : Nat) (e : Session) (s : State) : State :=
  match e.hidden.find? fun c => c.pool == k with
  | some c =>
    modSession p n (fun e => { e with waiting := e.waiting ++ [{ c with shown := true }], hidden := e.hidden.filter fun o => o.pool != k })
      (modEntryPool i k (fun q => { q with output := true }) s)
  | none => s

/-- The pixel engine finishes a decoded unit: samples in the frame buffer, the end of a picture, a frame shown again, pictures that
fall due. A skipped unit of another layer only ends. -/
def finishDecode (i p n : Nat) (e : Session) (ans : W64) (payload : List Byte) (eos : Bool) (s : State) : State :=
  let skipped := bitAt ans 8
  let s := if skipped then s else writeUnit i e ans payload s
  let ends := bitAt ans 9 || eos
  let s := if ends then endPicture i p n s else s
  let s := if e.kind = 1 && ends then (match e.current with | some c => refreshPool i c.pool e payload s | none => s) else s
  let s := if e.kind = 1 && !skipped then (match Config.shownAgain payload e.stream with
    | some k => if bitAt ans 5 then refreshPool i k e payload (showAgain i p n k e s) else showAgain i p n k e s
    | none => s) else s
  let s := modSession p n (fun e => { e with parsed := none, stream := if skipped then e.stream else Config.codecState e.kind payload e.stream }) s
  let s := modSession p n (fun e => bumpPictures (if eos then e.waiting.length else if skipped then 0 else Config.videoBump e.kind payload e.stream) e) s
  leaveUnit i p n s

/-! ## Encoding a picture (R378, R379) -/

/-- The shape of an encode session's pictures. -/
def encShape (e : Session) : Config.StreamShape :=
  { width := 8 * ((e.enc.width.toNat + 7) / 8), height := encHeight e, depth := e.enc.bitDepth.toNat,
    cropW := e.enc.width.toNat, cropH := e.enc.height.toNat }

/-- The samples of an input picture: its own columns and rows, plane by plane (R379). -/
def frameSamples (s : State) (e : Session) (addr : Nat) : List Byte :=
  let sh := encShape e
  (planesOf { sh with width := sh.cropW, height := sh.cropH }).flatMap fun pl => (List.range (pl.2.1 * pl.2.2)).flatMap fun k =>
    leBytes 2 (readSample s addr e.pitch sh pl.1 (k % pl.2.1) (k / pl.2.1))

/-- What the encoder is given: parameters, the force flag, the picture. -/
def encodeInput (e : Session) (force : Bool) (frame : List Byte) : List Byte :=
  let q := e.enc
  [q.width, q.height, q.bitDepth, q.level, q.irapPeriod, q.bPictures, q.sliceRows, q.wpp, q.rateMode, q.qp, q.bitrate].flatMap
    (fun w => leBytes 8 w.toNat) ++ [BitVec.ofNat 8 (b2n force)] ++ frame

/-- Encode the picture in progress: an access unit in the output area, when it fits; its reconstruction in a pool entry. -/
def finishEncode (i p n : Nat) (e : Session) (s : State) : State :=
  match e.encoding with
  | none => leaveUnit i p n s
  | some f =>
    let input := encodeInput e f.2.2 (frameSamples s e f.1)
    let au := Config.encodedUnit e.kind input e.stream
    let ans := Config.videoUnit e.kind input e.stream
    if e.areaSize < e.areaWrite + au.length - e.areaFree then s else
      let s := ((List.range au.length).zip au).foldl (fun s q => s.write .unified (e.areaBase + (e.areaWrite + q.1) % max 1 e.areaSize) [q.2]) s
      let s := markPool i e input s
      let k := (freeEntries (pairOf s i) e).headD 64
      let s := modEntryPool i k (fun q => { q with order := fld ans 47 16, mark := b2n (bitAt ans 3) }) s
      let s := match tget? (pairOf s i).pool k with
        | some q => putPicture q.addr e.pitch (encShape e) (Config.videoSample e.kind input e.stream) s
        | none => s
      let pic : Picture := { pool := k, time := f.2.1, order := fld ans 47 16, irap := bitAt ans 5, ptype := fld ans 11 10 % 3,
                             addr := e.areaBase + e.areaWrite % max 1 e.areaSize, length := au.length }
      let s := modSession p n (fun e => { e with
        encoding := none
        areaWrite := e.areaWrite + au.length
        pictures := e.pictures + 1
        stream := Config.codecState e.kind input e.stream
        due := e.due ++ [pic] }) s
      leaveUnit i p n s

/-! ## Picture output (R393) -/

/-- An output entry (Table 7). -/
def outputEntry (e : Session) (c : Picture) (addr : Nat) : List Byte :=
  leBytes 32 (b2n e.outPhase ||| e.outSeq <<< 32 ||| c.ptype <<< 52 ||| b2n c.irap <<< 55 ||| b2n c.err <<< 56 ||| b2n c.hashFail <<< 57 |||
    c.pool % 64 <<< 58 ||| c.blocks <<< 64 ||| c.order <<< 80 ||| addr <<< 117 ||| c.length <<< 160 ||| c.time.toNat <<< 192)

/-- The slots of a tensor ring lie along its outermost dimension (log 49). -/
def tensorSlots (d : DescWord) : Nat := dSize d (dRank d - 1)
def slotElems (d : DescWord) : Nat := dCount d / max 1 (tensorSlots d)

/-- A sample as it is output: with film grain for AV1 unless the session asked for pre-grain output (Table 2). -/
def shownSample (s : State) (e : Session) (c : Picture) (base : Nat) (sh : Config.StreamShape) (plane x y : Nat) : Nat :=
  let v := readSample s base e.pitch sh plane x y
  if e.kind = 1 && !e.preGrain then Config.filmGrain c.stream plane x y v else v

/-- The conformance-cropped luma, then chroma, of a picture in its frame buffer, row after row (R393; log 49). -/
def croppedSamples (s : State) (e : Session) (c : Picture) (base : Nat) : List Nat :=
  let sh := Config.streamShape e.kind c.stream
  let luma := (List.range (sh.cropW * sh.cropH)).map fun k => shownSample s e c base sh 0 (sh.cropX + k % sh.cropW) (sh.cropY + k / sh.cropW)
  let cw := (sh.cropW + 1) / 2
  let chroma := (List.range (2 * cw * ((sh.cropH + 1) / 2))).map fun k =>
    shownSample s e c base sh (1 + k % 2) (sh.cropX / 2 + k / 2 % cw) (sh.cropY / 2 + k / (2 * cw))
  luma ++ (if sh.chroma then chroma else [])

/-- Write a picture into a slot of the tensor ring. -/
def tensorOutput (e : Session) (c : Picture) (base : Nat) (s : State) : State :=
  let t := cmdTensor e.tensorOut
  let vals := ((croppedSamples s e c base).take (slotElems e.tensorOut)).map fun v => f32 (fmul (fsub (natF32 v) e.offset) e.gain)
  let r := if cvtRound e.cvt = .sr then freeHalves vals.length s else ([], s)
  (t.storeRange r.2 0x00 e.cvt (slotElems e.tensorOut * e.tensorSlot) r.1 vals).1

/-- PICTURE_OUTPUT: the picture due next posts its entry while the output ring has room. -/
def pictureOutput (p n entry : Nat) (s : State) : State :=
  match getSession s p n with
  | none => s
  | some e =>
    match e.due, e.pairs with
    | c :: rest, i :: _ =>
      if c.pool ≠ entry || e.outEntries ≤ e.posted.length then s else
        let base := match tget? (pairOf s i).pool c.pool with | some q => q.addr | none => 0
        let tensor := decide (e.kind < 2) && e.tensorOut != 0
        let s := if tensor then modEntryPool i c.pool (fun q => { q with output := false }) (tensorOutput e c base s) else s
        let addr := if e.kind = 2 then c.addr
          else if tensor then dAddr e.tensorOut + slotElems e.tensorOut * e.tensorSlot * fmtBits (dFmt e.tensorOut) / 8 else base
        let s := s.write .unified (e.outBase + 32 * e.outIndex) (outputEntry e c addr)
        let ni := (e.outIndex + 1) % max 1 e.outEntries
        let mark := if e.kind = 2 || tensor then 64 else c.pool
        modSession p n (fun e => { e with
          due := rest
          outIndex := ni
          outPhase := if ni = 0 then !e.outPhase else e.outPhase
          outSeq := (e.outSeq + 1) % 65536
          posted := e.posted ++ [mark]
          tensorSlot := if tensor then (e.tensorSlot + 1) % max 1 (tensorSlots e.tensorOut) else e.tensorSlot }) s
    | _, _ => s

def execPictureOutput (part : PartId) (session : Nat) (entry : Nat) (s : State) : Host.Outcome State Fault Refusal :=
  whenLive (pictureOutput part.val session entry) s

/-! ## Activation calls at work (R403 to R414) -/

def modAct (p k : Nat) (f : ActCall → ActCall) (s : State) : State := modPart p (fun x => { x with calls := tupd x.calls k f }) s
def dropAct (p k : Nat) (s : State) : State := modPart p (fun x => { x with calls := tdel x.calls k }) s

/-- A call ends without having completed: a command's handle completes, a pattern's step stops. Units of it in progress on other pairs
still finish (Table 14); then it is forgotten. -/
def failAct (p k : Nat) (a : ActCall) (status : Nat) (result : W64) (s : State) : State :=
  let s := modAct p k (fun a => { a with ended := true }) s
  match a.step with
  | some h => stopFaulty h status result s
  | none => finish a.handle status result s

/-- A decode has found bad coded data (R412). -/
def codecData (i p k seg : Nat) (a : ActCall) (s : State) : State :=
  failAct p k a 0x0401 0 (raiseFault { code := 0x4802, cls := 9, sev := 1, die := dieOfPair i, unit := i, detail := w64 (a.session ||| seg <<< 8),
                                        handle := a.step.getD a.handle, parts := [p] } s)

/-- Place a segment of `len` bytes of pair `pi` (R408): LOC, OFFSET and the address. -/
def placeSegment (a : ActCall) (g : Geo) (n pi len : Nat) : Nat × Nat × Nat :=
  let cap := awCap a.word
  let used := tget a.used pi 0
  if (tget? a.spilled pi).isNone && decide (used + len ≤ g.share cap n) then
    let off := g.tables + pi * g.share cap n + used
    (0, off, dAddr a.dst + off)
  else
    let off := g.partBase cap n pi + tget a.spilled pi 0
    (1, off, a.spill + off)

/-- Encode one segment and put it where it belongs. -/
def encodeUnit (i p k n pi : Nat) (a : ActCall) (g : Geo) (s : State) : State :=
  let q := g.seg n pi (tget a.done pi 0)
  let bound := (boundsOf s a.bound).getD q.2.1 0 % 16
  let env : SegEnv :=
    { g := g, ref := dAddr a.ref, f := q.1, p := q.2.1, sl := q.2.2, k := bound, near := tget a.vectors (q.2.1 * g.slabs + q.2.2) [] }
  let r := encodeSegment env (cmdTensor a.src) s
  let len := r.2.1.length
  let pl := placeSegment a g n pi len
  let s := r.1.write .unified pl.2.2 r.2.1
  let s := s.write .unified (dAddr a.dst + 64 + 32 * ((g.planes + 31) / 32) + 16 * g.index q) (segEntry pl.1 pl.2.1 len)
  let s := devEvent 0x4004 i r.2.2.1 s
  modAct p k (fun a => { a with
    vectors := tset a.vectors (q.2.1 * g.slabs + q.2.2) r.2.2.2
    done := tset a.done pi (tget a.done pi 0 + 1)
    used := if pl.1 = 0 then tset a.used pi (tget a.used pi 0 + len) else a.used
    spilled := if pl.1 = 1 then tset a.spilled pi (tget a.spilled pi 0 + len) else a.spilled
    total := a.total + len }) s

/-- Decode one segment. -/
def decodeUnit (i p k n pi : Nat) (a : ActCall) (g : Geo) (spill : Nat) (s : State) : State :=
  let q := g.seg n pi (tget a.done pi 0)
  let obj := dAddr a.src
  let ent := BitVec.ofNat 128 (s.readNat .unified (obj + 64 + 32 * ((g.planes + 31) / 32) + 16 * g.index q) 16)
  let bytes := s.read .unified ((if bitAt ent 55 then spill else obj) + fld ent 95 56) (fld ent 127 96)
  let bound := s.readNat .unified (obj + 64 + q.2.1) 1 % 16
  match decodeSegment { g := g, ref := dAddr a.ref, f := q.1, p := q.2.1, sl := q.2.2, k := bound } (cmdTensor a.dst) bytes s with
  | none => codecData i p k (g.index q) a s
  | some s => modAct p k (fun a => { a with
      done := tset a.done pi (tget a.done pi 0 + 1)
      total := a.total + g.w * g.rows q.2.2 * g.chans q.2.1 }) s

/-- The pages that a call reads and writes: its tensors, its scratch, the bounds and the spill window of an encode, the segments of an
object that lie in a spill window (R413). -/
def actPages (s : State) (a : ActCall) (g : Option (Geo × Nat)) (n : Nat) : List Nat :=
  descPages a.src ++ descPages a.dst ++ descPages a.ref ++
  match g with
  | none => []
  | some g =>
    if awDecode a.word then pagesOf g.2 (s.readNat .unified (dAddr a.src + 31) 8)
    else descPages a.bound ++ pagesOf a.spill (g.1.window (awCap a.word) n)

/-- An activation unit: one segment of the call that the pair runs. -/
def finishSegment (i p n : Nat) (e : Session) (s : State) : State :=
  let k := (pairOf s i).call
  match (getPart s p).bind fun x => tget? x.calls k with
  | none => leaveUnit i p n s
  | some a =>
    let pages := actPages s a (actGeo s a) e.pairs.length
    if accessWaits s pages then s else
      match accessTrouble s pages with
      | some t => leaveUnit i p n (failAct p k a t.1 (w64 t.2) s)
      | none =>
        let s := touchPages pages s
        match actGeo s a with
        | none => leaveUnit i p n (codecData i p k 0 a s)
        | some g =>
          let pi := placeIn e i
          let s := if awDecode a.word then decodeUnit i p k e.pairs.length pi a g.1 g.2 s else encodeUnit i p k e.pairs.length pi a g.1 s
          leaveUnit i p n s

/-- A pair is at work on a segment of a call. -/
def actBusy (s : State) (p k : Nat) (a : ActCall) : Bool := s.pairs.any fun r => r.2.running == some (p, a.session) && r.2.call == k

/-- A call is in progress. -/
def actOpen (s : State) (p k : Nat) (a : ActCall) : Bool := actLive s a || actBusy s p k a

/-- Calls that have ended start no other unit and are forgotten once no pair runs them (Table 14). -/
def purgeCalls (s : State) : State :=
  { s with parts := tmap s.parts fun p x => { x with calls := x.calls.filter fun q => actOpen s p q.1 q.2 } }

/-- UNIT_BOUNDARY: the pair finishes its unit where the unit can end, gives up a starved unit that holds back a lower
class, and takes the next ready session. An idle pair only takes one. -/
def unitBoundary (i : Nat) (s : State) : State :=
  let s := match (pairOf s i).running with
    | none => s
    | some (p, n) =>
      match getSession s p n with
      | none => modPair i (fun r => { r with running := none }) s
      | some e =>
        if e.kind = 3 then finishSegment i p n e s
        else if e.kind = 2 then finishEncode i p n e s
        else match e.parsed with
          | some (ans, payload, eos) => finishDecode i p n e ans payload eos s
          | none =>
            if recordPartial s e && (readySessions s i).any (fun b => decide (b.2.2.cls < e.cls)) then abandonUnit i p n s
            else if e.consumed < e.write then s
            else leaveUnit i p n s
  takeNext i (purgeCalls s)

def execUnitBoundary (pair : PairId) (s : State) : Host.Outcome State Fault Refusal := whenLive (unitBoundary pair.val) s

/-- Every pair of the set has finished its segments of a call. -/
def actDone (s : State) (a : ActCall) (n : Nat) : Bool := (List.range n).all fun pi => actLeft s a n pi == 0

/-- The residency figures of a call, under "compress by coding" (R413); the pair time is a free value. The records are those of a step
(R371), so a call that a command issued, or that completes after its step has left its cores, has none to add to (log 155). -/
def noteAct (a : ActCall) (s : State) : State :=
  match a.step with
  | none => s
  | some h => if (coreOf s a.core).step ≠ some h then s else
    let t := takeFree s
    let raw := tensorBytes (if awDecode a.word then a.dst else a.src)
    addResidency a.core
      { tensor := dTensorId a.src, fate := 2,
        produced := if awDecode a.word then 0 else raw, stored := if awDecode a.word then 0 else a.total,
        bytesOut := if awDecode a.word then 0 else raw, bytesIn := if awDecode a.word then raw else 0,
        tier := tensorTier s (if awDecode a.word then a.src else a.dst), workNs := t.1.toNat % 2 ^ 20 } t.2

/-- ACTIVATION_CALL_COMPLETE: the last write has landed. An encode writes its header and bound table. -/
def actComplete (p k : Nat) (s : State) : State :=
  match (getPart s p).bind fun x => tget? x.calls k with
  | none => s
  | some a =>
    match getSession s p a.session with
    | none => s
    | some e =>
      if !actLive s a || !actDone s a e.pairs.length then s else
        let s := if awDecode a.word || a.dry then s else
          let g := encodeGeo a.word a.src
          let inSpill := (a.spilled.map Prod.snd).foldl (· + ·) 0
          let s := s.write .unified (dAddr a.dst) (objectHeader g a.total inSpill a.spill)
          s.write .unified (dAddr a.dst + 64) (pad32 ((boundsOf s a.bound).map fun v => BitVec.ofNat 8 (v % 16)))
        let s := dropAct p k (noteAct a s)
        match a.step with
        | some h => if awSem a.word = 0x1FF then s else signalSem (handlePart h) (awSem a.word) s
        | none => finish a.handle 0 (w64 a.total) s

def execActivationCallComplete (part : PartId) (call : Nat) (s : State) : Host.Outcome State Fault Refusal :=
  whenLive (actComplete part.val call) s

/-! ## Session commands (R389, R416, R417) -/

/-- Table 3's limits on an encode session's parameters. -/
def encParamsOk (q : EncParams) : Bool :=
  decide (0 < q.width.toNat) && decide (q.width.toNat ≤ 4096) && decide (0 < q.height.toNat) && decide (q.height.toNat ≤ 2304) &&
  decide (q.width.toNat * q.height.toNat ≤ 8912896) && (q.bitDepth == 8 || q.bitDepth == 10) && decide (q.level.toNat ≤ 51) &&
  decide (1 ≤ q.irapPeriod.toNat) && decide (q.irapPeriod.toNat ≤ 1024) && decide (q.bPictures.toNat ≤ 7) &&
  decide (q.sliceRows.toNat ≤ 64) && decide (q.wpp.toNat ≤ 1) && decide (q.rateMode.toNat ≤ 2) && decide (q.qp.toNat ≤ 51) &&
  (q.rateMode == 0 || (decide (100000 ≤ q.bitrate.toNat) && decide (q.bitrate.toNat ≤ 400000000)))

/-- Pool entries that a kind may ask for (R389). -/
def entriesOk (kind n : Nat) : Bool :=
  if kind = 0 then decide (2 ≤ n) && decide (n ≤ 17) else if kind = 1 then decide (2 ≤ n) && decide (n ≤ 10)
  else if kind = 2 then decide (2 ≤ n) && decide (n ≤ 7) else n == 0

/-- The pairs that a session names: one by number, or for activation coding a set. -/
def pairsNamed (kind : Nat) (w : W64) : List Nat := if kind = 3 then bitsOf 16 w.toNat else [w.toNat]

/-- Room for the session on a pair. -/
def pairRoom (r : Pair) (entries : Nat) : Bool := decide (r.slots.length < 16) && decide (r.pool.length + entries ≤ 64)

/-- Take a slot and pool entries on a pair; the entries' buffers lie one after another in the buffer object (log 50). -/
def joinPair (p n : Nat) (base size entries : Nat) (i : Nat) (s : State) : State :=
  let r := pairOf s i
  let k := (tfree r.slots 16).getD 0
  let free := ((List.range 64).filter fun j => (tget? r.pool j).isNone).take entries
  let pool := ((List.range free.length).zip free).foldl (fun t q => tset t q.2 { addr := base + q.1 * size, session := k }) r.pool
  let s := modPair i (fun r => { r with slots := tset r.slots k (p, n), pool := pool }) s
  modSession p n (fun e => { e with entries := free }) s

/-- The descriptor checks of CODEC_SESSION_OPEN: (descriptor, needed, what its shape must be). -/
def openDescs (o : CodecOpenOps) (kind : Nat) : List (DescWord × Bool) :=
  let size (d : DescWord) : Nat := dCapacity d
  let ring := decide (kind < 2)
  (if kind = 3 then [] else
    [(o.buffer, dAddr o.buffer % 4096 == 0 && decide (4096 * o.entries.toNat ≤ size o.buffer)),
     (o.outRing, (let n := size o.outRing / 32; decide (16 ≤ n) && decide (n ≤ 4096) && 2 ^ Nat.log2 n == n))]) ++
  (if ring then [(o.inRing, size o.inRing % 65536 == 0 && decide (65536 ≤ size o.inRing) && decide (size o.inRing ≤ 2 ^ 30) && dAddr o.inRing % 4096 == 0)] else []) ++
  (if kind = 2 then [(o.outArea, true)] else []) ++
  (if ring && o.tensorOut != 0 then [(o.tensorOut, dFmt o.tensorOut == 0x01 || dFmt o.tensorOut == 0x02 || dFmt o.tensorOut == 0x00)] else []) ++
  (if kind = 3 && o.spill != 0 then [(o.spill, true)] else [])

/-- The descriptors of a message that always holds all six (log 105), the unused ones too, have no reserved bit set (R14). -/
def openUnused (o : CodecOpenOps) : Bool := [o.buffer, o.inRing, o.outRing, o.outArea, o.tensorOut, o.spill].all descReservedOk

def unifiedOk (d : DescWord) : Bool := descCheck cmdCoreOk d && dSpace d == 0 && (!scaled (dFmt d) || dScaleSpace d == 0)

def newSession (o : CodecOpenOps) (kind handle : Nat) : Session :=
  { kind := kind
    cls := o.cls.toNat
    pairs := pairsNamed kind o.pairs
    handle := handle
    buffer := o.buffer
    pitch := o.pitch.toNat
    ringBase := dAddr o.inRing
    ringSize := dCapacity o.inRing
    inWriteback := o.inWriteback.toNat
    outBase := dAddr o.outRing
    outEntries := dCapacity o.outRing / 32
    areaBase := dAddr o.outArea
    areaSize := dCapacity o.outArea
    tensorOut := o.tensorOut
    offset := o.offset.setWidth 32
    gain := o.gain.setWidth 32
    cvt := o.cvt.toNat
    starve := if o.starve.toNat = 0 then 4 else o.starve.toNat
    opPoint := o.opPoint.toNat
    preGrain := o.preGrain == 1
    stream := streamStart o.opPoint.toNat (o.preGrain == 1)
    enc := o.enc
    spillBase := dAddr o.spill
    spillSize := if o.spill = 0 then 0 else dCapacity o.spill }

/-- Operands of CODEC_SESSION_OPEN in range (R389, Table 3 of ch. 10). -/
def openFormOk (o : CodecOpenOps) : Bool :=
  let kind := o.kind.toNat
  let named := pairsNamed kind o.pairs
  decide (kind ≤ 3) && decide (o.cls.toNat ≤ 3) && !named.isEmpty && named.all (· < 16) && decide (o.pairs.toNat < 65536) &&
  entriesOk kind o.entries.toNat && o.pitch.toNat % 256 == 0 && cvtOk o.cvt.toNat && decide (o.starve.toNat ≤ 64) &&
  decide (o.opPoint.toNat ≤ 31) && flagOk o.preGrain && (kind != 2 || encParamsOk o.enc)

/-- The partition owns the pairs and everything that the session reads or writes. -/
def openPermitted (s : State) (p : Nat) (x : Partition) (o : CodecOpenOps) : Bool :=
  let kind := o.kind.toNat
  (pairsNamed kind o.pairs).all (x.codec.testBit ·) &&
  (openDescs o kind).all (fun d => descPermitted s p x x.mapbuf cmdCore d.1 && !readOnlyDesc s d.1) &&
  (decide (2 ≤ kind) || pagesOwned s p o.inWriteback.toNat 8)

/-- Session n exists and has a slot and its pool entries on every pair that it names. -/
def enterSession (p n handle : Nat) (o : CodecOpenOps) (s : State) : State :=
  let size := dCapacity o.buffer / max 1 o.entries.toNat / 4096 * 4096
  (pairsNamed o.kind.toNat o.pairs).foldl (fun s i => joinPair p n (dAddr o.buffer) size o.entries.toNat i s)
    (modPart p (fun x => { x with sessions := tset x.sessions n (newSession o o.kind.toNat handle) }) s)

/-- The lowest session number that no partition uses: a device has 256 session slots, and the number is 8 bits wide (Table 13). -/
def freeSession (s : State) : Option Nat := (List.range 256).find? fun n => s.parts.all fun q => (tget? q.2.sessions n).isNone

def openBody (f : Nat) (hdr : Hdr) (o : CodecOpenOps) : Body := fun s =>
  withPart f hdr s fun p x =>
    need (openFormOk o) 0x0201
      (need (openUnused o && (openDescs o o.kind.toNat).all fun d => unifiedOk d.1 && d.2) 0x0202
        (need (openPermitted s p x o) 0x0205
          (need ((pairsNamed o.kind.toNat o.pairs).all fun i => pairRoom (pairOf s i) o.entries.toNat) 0x0206
            (have' (freeSession s) 0x0206 fun n =>
              long f hdr (some p) 4 (.session n) (enterSession p n (nextHandle s p 4) o s) (w64 n)))))

def execCodecSessionOpen (fn : Fn) (hdr : Hdr) (ops : CodecOpenOps) (s : State) : Host.Outcome State Fault Refusal :=
  message fn hdr 0x0400 false (openBody fn hdr ops) s

/-- Close a session: its pairs are left, its spill windows released, its handle completes unless a fault that stopped the session has
completed it (R385). -/
def closeSession (p n status : Nat) (s : State) : State :=
  match getSession s p n with
  | none => s
  | some e =>
    let s := modPart p (fun x => { x with sessions := tdel x.sessions n }) (leavePairs p n s)
    if e.pairs.isEmpty then s else finish e.handle status 0 s

/-- A session with activation calls in progress. -/
def actsOf (s : State) (p : Nat) (x : Partition) (n : Nat) : Bool := x.calls.any fun q => q.2.session == n && actOpen s p q.1 q.2

def codecCloseBody (f : Nat) (hdr : Hdr) (session : W64) : Body := fun s =>
  withPart f hdr s fun p x =>
    withSession s p session.toNat fun e =>
      need (!actsOf s p x session.toNat) 0x0205 (
        let status := if decide (e.kind < 2) && recordPartial s e then 0x0303 else 0
        .ok { st := s, after := closeSession p session.toNat status })

def execCodecSessionClose (fn : Fn) (hdr : Hdr) (session : W64) (s : State) : Host.Outcome State Fault Refusal :=
  message fn hdr 0x0401 false (codecCloseBody fn hdr session) s

def feedBody (f : Nat) (hdr : Hdr) (session count : W64) : Body := fun s =>
  withPart f hdr s fun p _ =>
    withSession s p session.toNat fun e =>
      need (decide (e.kind < 2) && decide (e.write ≤ count.toNat) && decide (count.toNat ≤ e.consumed + e.ringSize)) 0x0201 (
        let s := modSession p session.toNat (fun e => { e with write := count.toNat, abandoned := e.abandoned && count.toNat == e.write }) s
        let s := modSession p session.toNat (fun e => { e with
          starving := recordPartial s e && e.parsed.isNone && e.pairs.any fun i => (pairOf s i).running == some (p, session.toNat) }) s
        .ok { st := startWait p session.toNat s, result := w64 e.consumed })

def execCodecFeed (fn : Fn) (hdr : Hdr) (session count : W64) (s : State) : Host.Outcome State Fault Refusal :=
  message fn hdr 0x0402 false (feedBody fn hdr session count) s

def releaseBody (f : Nat) (hdr : Hdr) (session entries area : W64) : Body := fun s =>
  withPart f hdr s fun p _ =>
    withSession s p session.toNat fun e =>
      need (decide (entries.toNat ≤ e.posted.length) && decide (e.areaFree ≤ area.toNat) && decide (area.toNat ≤ e.areaWrite)) 0x0201 (
        let back := e.posted.take entries.toNat
        let s := e.pairs.foldl (fun s i => back.foldl (fun s k => modEntryPool i k (fun q => { q with output := false }) s) s) s
        .ok { st := modSession p session.toNat (fun e => { e with posted := e.posted.drop entries.toNat, areaFree := area.toNat }) s })

def execCodecRelease (fn : Fn) (hdr : Hdr) (session entries area : W64) (s : State) : Host.Outcome State Fault Refusal :=
  message fn hdr 0x0403 false (releaseBody fn hdr session entries area) s

def encFrameBody (f : Nat) (hdr : Hdr) (session buffer timestamp forceIrap : W64) : Body := fun s =>
  withPart f hdr s fun p _ =>
    withSession s p session.toNat fun e =>
      need (e.kind == 2 && flagOk forceIrap && pagesOwned s p buffer.toNat (frameSize e)) 0x0201
        (need (decide (e.frames.length < 16)) 0x0206
          (.ok { st := queueFrame p session.toNat buffer.toNat timestamp (forceIrap == 1) s, result := w64 (e.frames.length + 1) }))

def execCodecEncFrame (fn : Fn) (hdr : Hdr) (session buffer timestamp forceIrap : W64) (s : State) : Host.Outcome State Fault Refusal :=
  message fn hdr 0x0404 false (encFrameBody fn hdr session buffer timestamp forceIrap) s

/-- State of a session as CODEC_QUERY gives it (log 43): 0 idle, 1 running, 2 starved, 3 abandoned, 4 stopped. -/
def sessionCode (s : State) (p n : Nat) (e : Session) : Nat :=
  if e.pairs.isEmpty then 4 else if e.abandoned then 3 else if e.starving then 2
  else b2n (e.pairs.any fun i => (pairOf s i).running == some (p, n))

def codecQueryBody (f : Nat) (hdr : Hdr) (session : W64) : Body := fun s =>
  withPart f hdr s fun p _ =>
    withSession s p session.toNat fun e =>
      let w := if e.kind = 2 then encShape e else if e.kind = 3 then {} else Config.streamShape e.kind e.stream
      .ok { st := s, data := wordsData [sessionCode s p session.toNat e, e.pictures, e.starves, e.bitErrors, e.blocked,
                                        w.cropX ||| w.cropY <<< 32, w.cropW ||| w.cropH <<< 32] }

def execCodecQuery (fn : Fn) (hdr : Hdr) (session : W64) (s : State) : Host.Outcome State Fault Refusal :=
  message fn hdr 0x0405 false (codecQueryBody fn hdr session) s

/-! ## Activation commands (R409 to R411) -/

/-- The lowest gap of a spill object that takes n bytes. -/
def spillGap (e : Session) (n : Nat) : Option Nat :=
  let cand := 0 :: e.spills.map fun w => w.1 + w.2
  let fits (a : Nat) : Bool := decide (a + n ≤ e.spillSize) && e.spills.all fun w => decide (a + n ≤ w.1) || decide (w.1 + w.2 ≤ a)
  (cand.filter fits).foldl (fun m a => match m with
    | none => some a
    | some b => some (min a b)) none

/-- Reserve a window in a session's spill object; a window of no bytes takes none. -/
def takeSpill (p n bytes : Nat) (s : State) : Option (Nat × State) :=
  match getSession s p n with
  | none => none
  | some e =>
    if bytes = 0 then some (0, s) else
      (spillGap e bytes).map fun a => (a, modSession p n (fun e => { e with spills := e.spills ++ [(a, bytes)] }) s)

/-- The call that the message describes, with its spill window (R409, R411). -/
def newCall (e : Session) (call : BitVec 512) (src dst ref bound : DescWord) (bytes off handle : Nat) : ActCall :=
  { word := call, src := src, dst := dst, ref := ref, bound := bound, session := awSession call, handle := handle,
    spill := if bytes = 0 then 0 else e.spillBase + off }

/-- Bytes of spill that a call reserves. -/
def spillBytes (e : Session) (decode : Bool) (call : BitVec 512) (src : DescWord) : Nat :=
  if decode then 0 else (encodeGeo call src).window (awCap call) e.pairs.length

def actBody (f : Nat) (hdr : Hdr) (decode : Bool) (call : BitVec 512) (src dst ref bound : DescWord) : Body := fun s =>
  withPart f hdr s fun p x =>
    withSession s p (awSession call) fun e =>
      need (e.kind == 3 && !e.pairs.isEmpty && awDecode call == decode) 0x0201
        (needUnified s p x src (needUnified s p x dst (needUnified s p x ref (
          need (descReservedOk bound && (decode || descCheck cmdCoreOk bound)) 0x0202
            (need (decode || descPermitted s p x x.mapbuf cmdCore bound) 0x0205
              (need (actWordOk call src dst ref bound (fun _ => false) && (decode || (boundsOf s bound).all (· ≤ 15))) 0x0202
                (need (!readOnlyDesc s dst && !readOnlyDesc s ref) 0x0205
                  (have' (takeSpill p (awSession call) (spillBytes e decode call src) s) 0x0206 fun r =>
                    let k := nextAct x
                    let a := newCall e call src dst ref bound (spillBytes e decode call src) r.1 (nextHandle s p 4)
                    long f hdr (some p) 4 (.call k)
                      (startWait p (awSession call) (modPart p (fun x => { x with calls := tset x.calls k a }) r.2))))))))))

def execActEncode (fn : Fn) (hdr : Hdr) (call : BitVec 512) (src dst ref bound : DescWord) (s : State) : Host.Outcome State Fault Refusal :=
  message fn hdr 0x0410 false (actBody fn hdr false call src dst ref bound) s

def execActDecode (fn : Fn) (hdr : Hdr) (call : BitVec 512) (src dst ref bound : DescWord) (s : State) : Host.Outcome State Fault Refusal :=
  message fn hdr 0x0411 false (actBody fn hdr true call src dst ref bound) s

/-- A window that a step holds is released at its commit or frog alone. -/
def spillHeld (x : Partition) (n off : Nat) : Bool := x.steps.any fun q => q.2.spills.any fun v => v.1 == n && v.2.1 == off && v.2.2 != 0

def actReleaseBody (f : Nat) (hdr : Hdr) (session spill : W64) : Body := fun s =>
  withPart f hdr s fun p x =>
    withSession s p session.toNat fun e =>
      have' (e.spills.find? fun w => e.spillBase + w.1 == spill.toNat && !spillHeld x session.toNat w.1) 0x0201 fun w =>
        .ok { st := modSession p session.toNat (fun e => { e with spills := e.spills.filter (· != w) }) s, result := w64 w.2 }

def execActRelease (fn : Fn) (hdr : Hdr) (session spill : W64) (s : State) : Host.Outcome State Fault Refusal :=
  message fn hdr 0x0412 false (actReleaseBody fn hdr session spill) s

/-! ## Faults and microcode of a pair (Table 3 of ch. 14, R558) -/

/-- CODEC_PAIR_UE: the unit in progress is dropped; its session, or its call, ends with FAULT_STOPPED. -/
def pairError (i : Nat) (s : State) : State :=
  match (pairOf s i).running with
  | none => raiseFault { code := 0x4803, cls := 9, sev := 1, die := dieOfPair i, unit := i, detail := w64 i } s
  | some (p, n) =>
    match getSession s p n with
    | none => s
    | some e =>
      let a := (getPart s p).bind fun x => tget? x.calls (pairOf s i).call
      let h := if e.kind = 3 then (a.map fun a => a.step.getD a.handle).getD 0 else e.handle
      let s := raiseFault { code := 0x4803, cls := 9, sev := 1, die := dieOfPair i, unit := i, detail := w64 i, handle := h, parts := [p] } s
      let s := modPair i (fun r => { r with running := none }) s
      if e.kind = 3 then match a with
        | some a => failAct p (pairOf s i).call a 0x0401 0 s
        | none => s
      else stopSession p n s

def execCodecPairUe (pair : PairId) (s : State) : Host.Outcome State Fault Refusal := whenLive (pairError pair.val) s

end Sys2Proof.Machine
end

