-- ==== Sys2Proof/Machine/LinkService.lean ====
section
/-!
DEFINITION. The link commands of chapter 14 with what follows them (R444, R445, R447, R448, R560), and tick alignment
(R449 to R455).
-/
namespace Sys2Proof.Machine

/-! ## The link group descriptor (R447, R448) -/

/-- The conditions of R448. -/
def groupOk (g : BitVec 128) : Bool :=
  fld g 47 0 == 0 && decide (fld g 49 48 ≤ 1) &&
  !(lgLinkId g == 0xFFFF && lgPortEn g != 0) &&
  (lgDownMask g &&& lgPortEn g) == lgDownMask g &&
  (lgSource g != 3 || ((lgPortEn g).testBit (lgUpPort g) && !(lgDownMask g).testBit (lgUpPort g))) &&
  decide (100 ≤ lgLg g) && decide (lgLg g ≤ 4095) && decide (100 ≤ lgPeriod g) && decide (lgPeriod g ≤ 2000)

/-- A descriptor with the SOURCE and PERIOD of another. -/
def keepTiming (g old : BitVec 128) : BitVec 128 :=
  BitVec.ofNat 128 (g.toNat - fld g 67 57 * 2 ^ 57 - fld g 51 50 * 2 ^ 50 + fld old 67 57 * 2 ^ 57 + fld old 51 50 * 2 ^ 50)

/-- Take a port out of PORT_EN: it goes DOWN, and a command that waits for it stops; no fault is raised (Table 6). -/
def disablePort (i : Nat) (s : State) : State := endPortWork i 0x0401 (modPort i (fun p => { p with state := .down, lanes := 0 }) s)

/-- The new descriptor: source and period at the next edge, everything else at once; ports added train, ports removed go
DOWN (R448; log 42). -/
def applyGroup (g : BitVec 128) (s : State) : State :=
  let old := s.links.group
  let s := { s with links.group := keepTiming g old, links.nextGroup := some g }
  (List.range 16).foldl (fun s i =>
    if (lgPortEn g).testBit i && !(lgPortEn old).testBit i then
      (if (portOf s i).state == .down then modPort i (fun p => { p with state := .training }) s else s)
    else if !(lgPortEn g).testBit i && (lgPortEn old).testBit i then disablePort i s
    else s) s

def groupBody (g : BitVec 128) : Body := fun s =>
  need (groupOk g) 0x0201 (.ok { st := applyGroup g s, result := s.steward.tick + 1 })

def execLinkGroupSet (fn : Fn) (hdr : Hdr) (desc : BitVec 128) (s : State) : Host.Outcome State Fault Refusal :=
  message fn hdr 0x0630 true (groupBody desc) s

/-! ## Recalibration and training (R444, R445, R560) -/

def clearLane (m : BitVec 4) (l : Nat) : BitVec 4 := m &&& ~~~(BitVec.ofNat 4 (2 ^ l))
def addLane (m : BitVec 4) (l : Nat) : BitVec 4 := m ||| BitVec.ofNat 4 (2 ^ l)

/-- A lane leaves the carrying lanes by a fast retrain and is retuned (R444). -/
def retuneLane (i l : Nat) (s : State) : State :=
  replayAll i (sendConfig i (modPort i (fun p => { p with state := .recal, lanes := clearLane 0xF l, recalLane := some l }) s))

/-- Another port of the I/O die recalibrates (R444). -/
def dieRecals (s : State) (i : Nat) : Bool := (List.range 4).any fun k => (portOf s (4 * (i / 4) + k)).recalLane.isSome

def recalBody (fn : Nat) (hdr : Hdr) (port : W64) : Body := fun s =>
  need (decide (port.toNat < 16)) 0x0201 (
    let i := port.toNat
    let p := portOf s i
    need ((p.state == .up4 || p.state == .up3) && !dieRecals s i) 0x0205 (
      long fn hdr none 0xB (.recal i) s (after := fun h s =>
        let l := if p.state == .up3 then p.faultyLane.getD 0 else 0
        retuneLane i l (modPort i (fun p => { p with recalHandle := h, faultyLane := if p.state == .up3 then p.faultyLane else none }) s))))

def execLinkRecal (fn : Fn) (hdr : Hdr) (port : W64) (s : State) : Host.Outcome State Fault Refusal :=
  message fn hdr 0x0631 true (recalBody fn hdr port) s

/-- The recalibration ends on lanes m. -/
def endRecal (i : Nat) (m : BitVec 4) (bad : Option Nat) (status : Nat) (s : State) : State :=
  let h := (portOf s i).recalHandle
  let s := modPort i (fun p => { p with state := if bad.isNone then .up4 else .up3, lanes := m, recalLane := none, recalHandle := 0, faultyLane := bad }) s
  let s := replayAll i (sendConfig i s)
  let s := if bad.isNone then recEvent 0x6004 i none (4 + i / 4) i h [(16, i)] s else s
  if h = 0 then s else finish h status 0 s

/-- LANE_RECAL_DONE: the lane comes back with a fast retrain, and the next one is retuned; a port that was in UP3 has no
other lane to retune. A lane that does not pass leaves the port in UP3 (log 51). -/
def laneRecalDone (i : Nat) (l : Nat) (pass : Bool) (s : State) : State :=
  let p := portOf s i
  if p.state != .recal || p.recalLane != some l then s
  else if !pass then endRecal i p.lanes (some l) 0x0401 s
  else if p.faultyLane.isSome || l = 3 then endRecal i 0xF none 0 s
  else retuneLane i (l + 1) (replayAll i (sendConfig i (modPort i (fun p => { p with lanes := addLane p.lanes l }) s)))

def execLaneRecalDone (port : PortId) (lane : Fin 4) (pass : Bool) (s : State) : Host.Outcome State Fault Refusal :=
  whenLive (laneRecalDone port.val lane.val pass) s

def trainBody (fn : Nat) (hdr : Hdr) (port : W64) : Body := fun s =>
  need (decide (port.toNat < 16)) 0x0201 (
    let i := port.toNat
    need ((portOf s i).state == .down && (lgPortEn s.links.group).testBit i) 0x0205 (
      long fn hdr none 0xB (.train i) s (after := fun h s => modPort i (fun p => { p with state := .training, trainHandle := h }) s)))

def execLinkTrain (fn : Fn) (hdr : Hdr) (port : W64) (s : State) : Host.Outcome State Fault Refusal :=
  message fn hdr 0x0632 true (trainBody fn hdr port) s

/-! ## Tick alignment (R449 to R455) -/

/-- How long a codeword of 5,440 bits lasts on a port, in ps (R420). -/
def codewordPs (s : State) (i : Nat) : Nat :=
  5440 * 1000 * 10 / (max 1 (laneCount (portOf s i).lanes) * if slowPort s i then 2125 else 2240)

/-- Send a tick marker with TICK_LO `lo` on every port of DOWN_MASK that is up, in the first codeword that starts after `base` ps
from the reference edge: ACCUM is that time and a wait below one codeword, a free value, rounded to the nearest ns (R449, R450;
log 83). -/
def sendMarkers (base lo : Nat) (s : State) : State :=
  ((bitsOf 16 (lgDownMask s.links.group)).filter fun i => portUp (portOf s i)).foldl (fun s i =>
    let f := takeFree s
    emit (.marker i ((base + f.1.toNat % codewordPs s i + 500) / 1000 % 4096) (lo % 64)) f.2) s

/-- A missed marker or edge: counted, and after four in a row the event is raised once (R452). -/
def missOne (s : State) : State :=
  let s := devEvent 0x3007 0xFFFE 1 s
  let n := s.links.misses + 1
  let s := { s with links.misses := n }
  if 4 ≤ n && !s.links.syncLost then recEvent 0x3008 0xFFFE none 31 0xFFFF 0 [] { s with links.syncLost := true } else s

/-- TICK_MARKER on UP_PORT of a follower: gaps in TICK_LO count, the derived edge resets the timer's phase, an edge that
comes too early counts a tick-budget event, and markers go down (R450, R452, R453). -/
def tickMarker (i accum lo : Nat) (phase : Int) (s : State) : State :=
  let g := s.links.group
  if lgSource g ≠ 3 || lgUpPort g ≠ i || !portUp (portOf s i) then s else
    let gap := match s.links.lastTickLo with
      | some l => (lo + 127 - l) % 64
      | none => 0
    let s := devEvent 0x3007 0xFFFE gap s
    let h := (portOf s i).latency
    let s := if lgLg g * 1000 < 20000 + h + accum * 1000 then devEvent 0x3009 0xFFFE 1 s else s
    let late := phase - max (-1000) (min 1000 phase)
    let s := { s with links.lastTickLo := some lo, links.misses := 0, links.syncLost := false, links.phaseErr := late }
    sendMarkers (accum * 1000 + h + 20000) lo s

def execTickMarker (port : PortId) (accum : BitVec 12) (tickLo : BitVec 6) (phase : Int) (s : State) : Host.Outcome State Fault Refusal :=
  whenLive (tickMarker port.val accum.toNat tickLo.toNat phase) s

/-- TICK_LO of the marker that a device sends in place of one that it misses: a follower's next after the last received, a
master's own tick count (R421, R452; log 83). -/
def missedLo (s : State) : Nat :=
  match s.links.lastTickLo with
  | some l => if lgSource s.links.group = 3 then l + s.links.misses else s.steward.tick.toNat
  | none => s.steward.tick.toNat

/-- MARKER_MISSED: the timer fires in place of the marker, or of the SYNC_IN edge of a master of SOURCE 2 (R452, R454). -/
def markerMissed (s : State) : State :=
  if lgSource s.links.group < 2 then s else
    let s := missOne s
    sendMarkers (1000 * lgLg s.links.group) (missedLo s) s

def execMarkerMissed (s : State) : Host.Outcome State Fault Refusal := whenLive markerMissed s

/-- SYNC_IN, `since` ns after the last accepted edge: too early, it is ignored and counted; else it is the reference edge
(R449, R454). -/
def syncIn (since : Nat) (s : State) : State :=
  let g := s.links.group
  if lgSource g ≠ 2 then s
  else if since + 1000 < lgPeriod g * 1000 then devEvent 0x300A 0xFFFE 1 s
  else sendMarkers 0 s.steward.tick.toNat { s with links.misses := 0, links.syncLost := false }

def execSyncIn (sinceLast : Nat) (s : State) : Host.Outcome State Fault Refusal := whenLive (syncIn sinceLast) s

end Sys2Proof.Machine
end

