-- ==== Sys2Proof/Machine/Faults.lean ====
section
/-!
DEFINITION. The faults and events of the hardware (Table 3 and Table 11 of ch. 14): the collector, cores and compute dies,
links, the slot store, failing rows and retired pages (R367 to R370), far memory (R364, R365), the safe state (R540 to R543).
-/
namespace Sys2Proof.Machine

/-! ## The collector (R534 to R537, R543) -/

/-- FAULT_COLLECTED: every fault on the fault lines is taken as one cycle's (R536). -/
def execFaultCollected (s : State) : Host.Outcome State Fault Refusal := whenLive collectAll s

/-- COLLECTOR_SELF_FAULT: the record is overwritten, in the safe state too (R543). -/
def collectorFault (mask : W64) (s : State) : State :=
  let f : FaultIn := { code := 0x0804, cls := 2, sev := 2, die := 4, detail := mask }
  let s := if s.collector.safe then s else enterSafe f false false s
  { s with collector.first := { valid := true, code := 0x0804, cls := 2, sev := 2, die := 4, unit := 0xFFFF, detail := mask, tick := s.steward.tick,
                                offsetNs := (s.collector.log.getLast?.map (·.offsetNs)).getD 0 } }

def execCollectorSelfFault (mask : W64) (s : State) : Host.Outcome State Fault Refusal :=
  .next (if s.steward.life == .ready then collectorFault mask s else s)

/-- Trip points in 1/16 °C (R580). -/
def tripPoint (die : Nat) : Int := if die < 8 then 115 * 16 else 105 * 16

/-- OVER_TEMPERATURE: a sensor at or above its die's trip point (R580). -/
def overTemperature (die : Nat) (temp : Int) (s : State) : State :=
  if temp < tripPoint die then s
  else enterSafe { code := 0x0805, cls := 3, sev := 2, die := die, detail := w64 (die ||| (temp % 65536).toNat <<< 16) } false false s

def execOverTemperature (die : DieId) (temp : Int) (s : State) : Host.Outcome State Fault Refusal :=
  whenLive (overTemperature die.val temp) s

/-! ## Cores and compute dies -/

/-- A contained fault of a core: its step stops (R35, R533). -/
def coreFault (code c : Nat) (detail : W64) (s : State) : State :=
  let h := (coreOf s c).step
  let s := raiseFault { code := code, cls := 4, sev := 1, die := dieOfCore c, unit := c, detail := detail, handle := h.getD 0, parts := partsOfCore s c } s
  match h with
  | some h => stopFaulty h 0x0401 0 s
  | none => s

def execCoreSramUe (core : CoreId) (addr : Nat) (s : State) : Host.Outcome State Fault Refusal :=
  whenLive (coreFault 0x2801 core.val (w64 addr)) s

def execCoreParity (core : CoreId) (block : Nat) (s : State) : Host.Outcome State Fault Refusal :=
  whenLive (coreFault 0x2802 core.val (w64 block)) s

/-- Running steps of the jobs that hold bank b of die d, with their partitions. -/
def bankSteps (s : State) (d b : Nat) : List Nat :=
  s.parts.flatMap fun e => (e.2.steps.filter fun q => q.2.state == .running && match tget? e.2.jobs q.2.job with
    | some j => j.banks.toNat.testBit (16 * d + b)
    | none => false).map Prod.fst

/-- MAPBUF_UE: the steps of the jobs that hold the bank stop. -/
def mapbufFault (d b addr : Nat) (s : State) : State :=
  let hs := bankSteps s d b
  let parts := (s.parts.filter fun e => e.2.mapbuf.testBit (16 * d + b)).map Prod.fst
  let s := raiseFault { code := 0x2804, cls := 4, sev := 1, die := d, unit := b, detail := w64 (b ||| addr <<< 16), handle := (hs.head?).getD 0, parts := parts } s
  hs.foldl (fun s h => stopFaulty h 0x0401 0 s) s

def execMapbufUe (die : CdId) (bank : Fin 16) (addr : Nat) (s : State) : Host.Outcome State Fault Refusal :=
  whenLive (mapbufFault die.val bank.val addr) s

/-- STEM_FAULT: the running stem stitch's step stops and the queued ones wait. -/
def stemFault (d : Nat) (s : State) : State :=
  let h := ((cdOf s d).stem.head?).bind fun q => (coreOf s q.1).step
  let s := modCd d (fun k => { k with stemFault := true }) s
  let s := raiseFault { code := 0x2805, cls := 4, sev := 1, die := d, detail := w64 d, handle := h.getD 0, parts := h.toList.map handlePart } s
  match h with
  | some h => stopFaulty h 0x0401 0 s
  | none => s

def execStemFault (die : CdId) (s : State) : Host.Outcome State Fault Refusal := whenLive (stemFault die.val) s

/-- CORE_DEGRADED: one event for a core whose corrected errors reached CORE_CE_LIMIT within 4,096 ticks, and nothing else (R548). -/
def coreDegraded (c : Nat) (s : State) : State :=
  if (coreOf s c).ceRaised then s else
    let part := match partsOfCore s c with | [p] => some p | _ => none
    recEvent 0x2029 (dieOfCore c) part (dieOfCore c) c 0 [] (modCore c (fun x => { x with ceRaised := true }) s)

def execCoreDegraded (core : CoreId) (s : State) : Host.Outcome State Fault Refusal := whenLive (coreDegraded core.val) s

/-- Corrected errors of a row add up over 4,096 ticks from their first (R367). -/
def noteRowErrors (stack row n : Nat) (s : State) : State :=
  let now := s.steward.tick.toNat
  let old := s.tiers.rowErrors.find? fun e => e.1 == stack && e.2.1 == row && decide (now < e.2.2.2 + 4096)
  let rest := s.tiers.rowErrors.filter fun e => !(e.1 == stack && e.2.1 == row)
  { s with tiers.rowErrors := rest ++ [match old with
    | some e => (stack, row, e.2.2.1 + n, e.2.2.2)
    | none => (stack, row, n, now)] }

/-- SCRUB: target 0 to 11 is a stack, 12 to 15 a compute die; corrected errors count, of a stack by row, of a die by core (R547,
R548). No data change. -/
def scrub (target : Nat) (corrected : List (Nat × Nat)) (s : State) : State :=
  corrected.foldl (fun s e =>
    if target < 12 then devEvent 0x1010 target e.2 (noteRowErrors target e.1 e.2 s)
    else if target < 16 && decide (e.1 < 52) then coreEvent (52 * (target - 12) + e.1) 0x2018 e.2 s
    else s) s

def execScrub (target : Nat) (corrected : List (Nat × Nat)) (s : State) : Host.Outcome State Fault Refusal :=
  whenLive (scrub target corrected) s

/-- STACK_DRIFT: an event; the V20 recalibrates only on command (R559). -/
def execStackDrift (stack : StackId) (s : State) : Host.Outcome State Fault Refusal :=
  whenLive (recEvent 0x1017 stack.val none (8 + stack.val) stack.val 0 []) s

/-! ## Links and the slot store -/

def execLinkBufferUe (port : PortId) (s : State) : Host.Outcome State Fault Refusal := whenLive (portDown 0x3804 0 port.val) s

/-- SLOT_STORE_ERROR: an armed slot is disarmed and its start is not sent. -/
def slotStoreError (f slot : Nat) (s : State) : State :=
  let y := slotOf (fnOf s f) slot
  let s := raiseFault { code := 0x0807, cls := 0, sev := 1, die := 4, unit := f, detail := w64 (f ||| slot <<< 16),
                        handle := if y.state = 1 then y.handle else 0, parts := if f = 0 then [] else [f - 1] } s
  if y.state = 1 then
    let s := dropQueued y.handle (modFn f (fun z => { z with slots := tdel z.slots slot }) s)
    finish y.handle 0x0401 0 s
  else s

def execSlotStoreError (fn : Fn) (slot : SlotId) (s : State) : Host.Outcome State Fault Refusal :=
  whenLive (slotStoreError fn.val slot.val) s

/-! ## Failing rows (R367, R368, Table 9 of ch. 09) -/

def rowStack (row : W64) : Nat := fld row 3 0
/-- Stack, channel, DRAM die and bank of a row (Table 4a of ch. 16). -/
def rowBank (row : W64) : Nat := fld row 18 0
def stackDarns (s : State) (k : Nat) : List W64 := tget s.trust.current.darns k []

/-- Darns of a row's bank: those of the same channel, DRAM die and bank of its stack (Table 4a of ch. 16). -/
def bankDarns (s : State) (row : W64) : Nat := ((stackDarns s (rowStack row)).filter fun d => rowBank d == rowBank row).length

/-- "Spare row left" of Table 9: one of the four in the bank, and fewer than 1,024 darns of the stack (R367). -/
def canDarn (s : State) (row : W64) (spareLeft : Bool) : Bool :=
  spareLeft && decide (bankDarns s row < 4) && decide ((stackDarns s (rowStack row)).length < 1024)

def rowEvent (id : Nat) (row : W64) (page : Nat) (s : State) : State :=
  recEvent id (rowStack row) ((pageEntry s page).map (·.part)) (8 + rowStack row) (rowStack row) 0 [(64, row.toNat), (21, page)] s

/-- Darn: the row is remapped to the next spare row of its bank, the darn goes into the retained set, and the event is raised. -/
def darnRow (page : Nat) (row : W64) (s : State) : State :=
  let spare := bankDarns s row
  let s := { s with tiers.rowErrors := s.tiers.rowErrors.filter fun e => !(e.1 == rowStack row && e.2.1 == row.toNat) }
  let row := w64 (fld row 36 0 ||| spare <<< 37)
  let s := { s with trust.current := { s.trust.current with
    darns := tset s.trust.current.darns (rowStack row) (stackDarns s (rowStack row) ++ [row]) } }
  rowEvent 0x1011 row page (settingsTrigger {} s)

/-- A frame of the retirement reserve that no page stands in. -/
def reserveFrame (s : State) : Nat :=
  t1Total + (((List.range 16).find? fun k => !(s.tiers.map.any fun e => e.2.tier == 1 && e.2.frame == t1Total + k)).getD 0)

/-- The quota that falls for a free frame (R368): in mode 1 that of the partition whose stacks hold it, in mode 0 that of the
partition with the most free frames. -/
def freeFrameQuota (row : W64) (s : State) : State :=
  let less (p : Nat) (s : State) : State := modPart p (fun x => { x with t1Quota := x.t1Quota - 1 }) s
  if t1Mode s = 1 then
    match s.parts.find? fun e => e.2.stacks.testBit (rowStack row) with
    | none => s
    | some e =>
      if 16352 * stackCount e.2 < e.2.t1Quota + goneFrom s e.2.stacks then less e.1 s else s
  else if t1Total < (s.parts.map fun e => e.2.t1Quota).foldl (· + ·) 0 + s.tiers.withdrawn.length then
    match s.parts.foldl (fun (b : Option (Nat × Nat)) e =>
        let n := freeFrames s e.1 e.2 1
        match b with
        | some (_, m) => if m < n then some (e.1, n) else b
        | none => some (e.1, n)) none with
    | some (p, _) => less p s
    | none => s
  else s

/-- The running move of a retired page ends: a page that stays readable or is restored moves again with the next batch, for a
command; otherwise it ends (Table 4 of ch. 09). -/
def interruptMove (page : Nat) (lost : Bool) (s : State) : State :=
  match s.tiers.moves.find? fun m => m.page == page && m.started with
  | none => s
  | some m =>
    if lost || m.kind != .command then endMove page 0x0402 s else
      let s := modEntry page (fun e => { e with mig := false }) s
      let s := { s with tiers.moves := s.tiers.moves.map fun n => if n == m then { n with started := false, frame := 0 } else n }
      match pageEntry s page with
      | some e => reserve e.part m.tier 1 s
      | none => s

/-- Take a frame out of service. -/
def addWithdrawn (among frame : Nat) (row : W64) (s : State) : State :=
  { s with tiers.withdrawn := s.tiers.withdrawn ++ [{ mask := among, frame := frame, stack := rowStack row }] }

/-- Withdraw the frame of a failing row (R368). Which free frame a row without a page lies in is a free value (log 4). -/
def withdrawFrame (page : Nat) (row : W64) (s : State) : State :=
  match pageEntry s page with
  | some e =>
    if e.tier ≠ 1 then s else
      let s := addWithdrawn (t1Stacks s (((getPart s e.part).map (·.stacks)).getD 0)) e.frame row s
      let s := modPart e.part (fun x => { x with t1Quota := x.t1Quota - 1 }) s
      let s := { s with tiers.moves := s.tiers.moves ++ [{ page := page, tier := 1, kind := .retire }] }
      if 0 < s.tiers.reserve then { modEntry page (fun e => { e with frame := reserveFrame s }) s with tiers.reserve := s.tiers.reserve - 1 }
      else recEvent 0x1013 0xFFFE none 31 0xFFFF 0 [] { s with tiers.withdrawnHolding := s.tiers.withdrawnHolding ++ [page] }
  | none =>
    let f := takeFree s
    let owner := f.2.parts.find? fun e => e.2.stacks.testBit (rowStack row)
    let among := t1Stacks f.2 ((owner.map (·.2.stacks)).getD (2 ^ rowStack row))
    let n := t1Frames f.2 among
    let at' (i : Nat) : Nat := (f.1.toNat + i) % n
    let taken (k : Nat) : Bool := match owner with | some e => frameTaken f.2 e.1 1 k | none => frameGone f.2 among k
    match firstFrom (fun i => !taken (at' i)) n 0 with
    | some i => freeFrameQuota row (addWithdrawn among (at' i) row f.2)
    | none => f.2

/-- A failing row is darned, or its frame is withdrawn and the page retired with an event. -/
def handleRow (page : Nat) (row : W64) (spareLeft : Bool) (s : State) : State :=
  if canDarn s row spareLeft then darnRow page row s
  else rowEvent 0x1012 row page (withdrawFrame page row (interruptMove page false s))

/-- The backing object of a page with a known copy (R370). -/
def knownCopy (s : State) (e : TierEntry) : Option DescWord :=
  ((getPart s e.part).bind fun x => tget? x.objects e.object).bind fun o => if o.readOnly then o.backing else none

/-- Reserved KV pages that are lost are replaced in every step that holds them reserved (R333). -/
def replaceAllLost (s : State) : State :=
  s.parts.foldl (fun s e => e.2.steps.foldl (fun s q =>
    let r := q.2.seqs.foldl (fun (a : List SeqStage × State) st => let o := replaceLost e.1 st a.2; (a.1 ++ [o.1], o.2)) ([], s)
    if q.2.seqs.isEmpty || !(stepHolds q.2 || q.2.state == .queued) then s else modStep q.1 (fun st => { st with seqs := r.1 }) r.2) s) s

/-- DARN_LIMIT: the row's corrected errors reached the limit; its contents are readable. KV pages that overlap a page retired for want
of a spare are lost all the same (R333, Table 9 of ch. 09). -/
def darnLimit (page : Nat) (row : W64) (spareLeft : Bool) (s : State) : State :=
  let s' := handleRow page row spareLeft s
  if canDarn s row spareLeft then s' else replaceAllLost (loseKvPages page s')

def execDarnLimit (page : Nat) (row : BitVec 64) (spareLeft : Bool) (s : State) : Host.Outcome State Fault Refusal :=
  whenLive (darnLimit page row spareLeft) s

/-- HBM_UNCORRECTABLE: the row is darned or its frame withdrawn; the page waits for its restore, or is lost (R368 to R370). -/
def hbmUncorrectable (page : Nat) (row : W64) (spareLeft : Bool) (s : State) : State :=
  match pageEntry s page with
  | none => handleRow page row spareLeft s
  | some e =>
    if e.tier ≠ 1 then s else
      let copy := (knownCopy s e).isSome
      let darn := canDarn s row spareLeft
      let s := interruptMove page (!copy) s
      let s := handleRow page row spareLeft s
      let s := if darn then rowEvent 0x1012 row page s else s
      let s := if copy then modEntry page (fun e => { e with restoring := true }) s else modEntry page (fun e => { e with lost := true }) s
      let s := raiseFault { code := if copy then 0x1801 else 0x1802, cls := 5, sev := if copy then 0 else 1, die := 8 + rowStack row,
                            unit := rowStack row, detail := w64 page, parts := [e.part] } s
      let s := if copy then s else failMoves page 0x0402 s
      replaceAllLost (loseKvPages page s)

def execHbmUncorrectable (page : Nat) (row : BitVec 64) (spareLeft : Bool) (s : State) : Host.Outcome State Fault Refusal :=
  whenLive (hbmUncorrectable page row spareLeft) s

/-- What waited for a page's restore goes on: copies, fills, and allocations that take their contents from it (R370). -/
def restored (s : State) : State := serveAllocs (serveCopies s)

/-- PAGE_RESTORE: a retired page that has a frame takes its contents from the backing object, which may itself be lost or
poisoned (R370). -/
def pageRestore (page : Nat) (s : State) : State :=
  match pageEntry s page with
  | none => s
  | some e =>
    if !e.restoring || s.tiers.withdrawnHolding.contains page then s else
      match knownCopy s e, (getPart s e.part).bind fun x => tget? x.objects e.object with
      | some d, some o =>
        if accessWaits s (descPages d) then s
        else if (readTrouble s (descPages d) []).isSome then
          raiseFault { code := 0x1802, cls := 5, sev := 1, detail := w64 page, parts := [e.part] }
            (failMoves page 0x0402 (setEntry page { e with restoring := false, lost := true } s)) |> restored
        else
          let bytes := (((cmdTensor d).bytes s).drop ((page - o.first) * pageSize)).take pageSize
          restored (touchPages (descPages d) ((setEntry page { e with restoring := false } s).write .unified (page * pageSize) bytes))
      | _, _ => s

def execPageRestore (page : Nat) (s : State) : Host.Outcome State Fault Refusal := whenLive (pageRestore page) s

/-! ## Far memory (R364, R365) -/

/-- The operation that met a poisoned read ends with the page's number: a running step stops, a page's move ends, any other
operation completes (R364). -/
def endOnPoison (page h : Nat) (s : State) : State :=
  match getHandle s h with
  | none => endMove page 0x0403 s
  | some r =>
    match r.op with
    | .step => stopFaulty h 0x0403 (w64 page) s
    | .replay => stopFaulty h 0x0403 (w64 page) s
    | .move _ => endMove page 0x0403 s
    | .call k =>
      match (r.part.bind fun p => getPart s p).bind fun x => tget? x.calls k with
      | some a => failAct (r.part.getD 0) k a 0x0403 (w64 page) s
      | none => s
    | _ => finish h 0x0403 (w64 page) s

/-- FAR_POISON: an expander returned poisoned data for a page of T2; the tier map is not marked, and later reads may meet the line
again. -/
def farPoison (page : Nat) (h : Nat) (s : State) : State :=
  match pageEntry s page with
  | none => s
  | some e =>
    if e.tier ≠ 2 then s else
      endOnPoison page h (poisonRecord page h { s with tiers.poisoned := (s.tiers.poisoned ++ [page]).eraseDups })

def execFarPoison (page : Nat) (handle : W64) (s : State) : Host.Outcome State Fault Refusal := whenLive (farPoison page handle.toNat) s

/-- Partitions with pages on an F port. -/
def farParts (s : State) (f : Nat) : List Nat :=
  ((s.tiers.map.filter fun e => e.2.tier == 2 && e.2.frame / 2 ^ 19 == f).map fun e => e.2.part).eraseDups

/-- FAR_LINK_DOWN: the port goes out of service with one fault record; copies under way to it end (R365, Table 4 of ch. 09). -/
def farLinkDown (f : Nat) (s : State) : State :=
  let x := farOf s f
  if !x.inService then modFar f (fun x => { x with linkUp := false }) s else
    let s := modFar f (fun x => { x with linkUp := false, inService := false }) s
    let s := raiseFault { code := 0x1804, cls := 6, sev := 1, die := 4 + f, unit := f, detail := w64 f, parts := farParts s f } s
    let hit (m : Move) : Bool := m.started && (((m.tier == 2) && m.frame / 2 ^ 19 == f) || match pageEntry s m.page with
      | some e => e.tier == 2 && e.frame / 2 ^ 19 == f
      | none => false)
    (s.tiers.moves.filter hit).foldl (fun s m => endMove m.page 0x0403 s) s

def execFarLinkDown (port : FPortId) (s : State) : Host.Outcome State Fault Refusal := whenLive (farLinkDown port.val) s

/-- FAR_LINK_BACK_UP: the port stays out of service (R365). -/
def execFarLinkBackUp (port : FPortId) (s : State) : Host.Outcome State Fault Refusal :=
  whenLive (modFar port.val fun x => { x with linkUp := true }) s

/-- FAR_MEDIA: a corrected fault record and the far-memory event (Table 8 of ch. 09). -/
def farMedia (f : Nat) (code : W32) (s : State) : State :=
  recEvent 0x1016 f none (4 + f) f 0 [(16, f), (32, code.toNat)]
    (raiseFault { code := 0x1805, cls := 6, sev := 0, die := 4 + f, unit := f, detail := w64 (f ||| code.toNat <<< 16) } s)

def execFarMedia (port : FPortId) (code : W32) (s : State) : Host.Outcome State Fault Refusal := whenLive (farMedia port.val code) s

/-- FAR_PORT_ENUMERATED: the restart of a port ends, its link trained to a width and rate that its partner has part in (log 117). When every expander is as it was, its pages serve again (R561). -/
def farEnumerated (f frames : Nat) (same : Bool) (s : State) : State :=
  let x := farOf s f
  if !x.restarting then s else
    let hs := openHandles s fun r => match r.op with | .far k => k == f | _ => false
    if same then
      let r := takeFree s
      let t := trained r.1
      serveAllocs (hs.foldl (fun s h => finish h 0 0 s)
        (modFar f (fun x => { x with restarting := false, linkUp := true, inService := true, frames := min 524288 frames, width := t.1, rate := t.2 }) r.2))
    else hs.foldl (fun s h => finish h 0x0403 0 s) (modFar f (fun x => { x with restarting := false, linkUp := true }) s)

def execFarPortEnumerated (port : FPortId) (frames : Nat) (same : Bool) (s : State) : Host.Outcome State Fault Refusal :=
  whenLive (farEnumerated port.val frames same) s

end Sys2Proof.Machine
end

