-- ==== Sys2Proof/Machine/Pelotons.lean ====
section
/-!
DEFINITION. Pelotons (chapter 12): forming and disbanding, policy, substitution, re-sharding, group frog, their tokens,
and what an ANSWER does (R461 to R465, R473, R492 to R497, R502, R503).
-/
namespace Sys2Proof.Machine

/-! ## Forming (R461 to R465) -/

/-- DESC16 (R465): header fields PELOTON to GCVT without RANK, the LINK_IDs, the shard table. -/
def descDigest (header : BitVec 512) (members : List W64) (shards : List (BitVec 256)) : Nat :=
  let head := fld header 511 416 - fld header 483 472 <<< 56
  (crc64 (leBytes 12 head ++ members.flatMap (fun m => leBytes 2 (fld m 63 48)) ++ shards.flatMap fun e => leBytes 32 e.toNat)).toNat % 65536

/-- The VCs that a peloton binds, and the ports on which it binds them (R463). -/
def pelVcs (header : BitVec 512) : List Nat :=
  ([fld header 407 404, fld header 403 400, fld header 399 396, fld header 395 392].filter (· != 0xF)).eraseDups

def pelPorts (header : BitVec 512) (members : List W64) : List Nat :=
  let rank := fld header 483 472
  let far := ((List.range members.length).zip members).filterMap fun e => if e.1 = rank then none else some (fld e.2 47 44)
  ([fld header 415 412, fld header 411 408] ++ far).eraseDups

/-- Values out of their range or reserved (R463). -/
def pelotonFormOk (linkId : Nat) (h : BitVec 512) (members : List W64) (shards : List (BitVec 256)) : Bool :=
  let vcOk (v : Nat) : Bool := decide (v ≤ 7) || v == 0xF
  decide (fld h 511 496 ≤ 0xFFFE) && decide (1 ≤ fld h 495 484) && decide (fld h 483 472 ≤ fld h 495 484) && decide (1 ≤ fld h 455 448) &&
  decide (2 ≤ fld h 447 444) && decide (fld h 443 442 ≤ 1) && decide (fld h 441 440 ≤ 1) && fmtKnown (fld h 430 426) &&
  decide (fld h 425 421 ≤ 2) && cvtOk (fld h 420 416) && decide (fld h 407 404 ≤ 7) && vcOk (fld h 403 400) && vcOk (fld h 399 396) &&
  vcOk (fld h 395 392) && decide (16 ≤ fld h 391 382) && decide (fld h 391 382 ≤ 1008) && fld h 317 0 == 0 &&
  members.all (fun m => fld m 43 0 == 0) && shards.all (fun e => fld e 95 0 == 0) &&
  fld (members.getD (fld h 483 472) 0) 63 48 == linkId

/-- Data buffer that a port has given out. -/
def portFlits (p : Port) : Nat := (p.vcs.map fun e => if e.1 < 8 then e.2.buffer else 0).foldl (· + ·) 0

/-- Bind VCs on ports to a peloton: the buffer is returned as credits (R431, R463). -/
def bindVcs (p n credits : Nat) (ports vcs : List Nat) (s : State) : State :=
  ports.foldl (fun s i =>
    let s := modPort i (fun t => vcs.foldl (fun t v =>
      if (vcOf t v).bound == some (p, n) then t else
        let c := vcOf t v
        setVc v { bound := some (p, n), credits := c.credits, first := c.first, buffer := credits, owed := credits } t) t) s
    returnCredits i s) s

/-- VCs bound to another peloton on one of the ports. -/
def vcsTaken (s : State) (p n : Nat) (ports vcs : List Nat) : Bool :=
  ports.any fun i => vcs.any fun v => match (vcOf (portOf s i) v).bound with
    | some b => b != (p, n)
    | none => false

def portsFull (s : State) (p n credits : Nat) (ports vcs : List Nat) : Bool :=
  ports.any fun i => decide (1008 < portFlits (portOf s i) + credits * (vcs.filter fun v => (vcOf (portOf s i) v).bound != some (p, n)).length)

def formBody (f : Nat) (hdr : Hdr) (desc : DescWord) : Body := fun s =>
  withPart f hdr s fun p x =>
    needUnified s p x desc (
      let a := dAddr desc
      let h : BitVec 512 := BitVec.ofNat 512 (s.readNat .unified a 64)
      let count := fld h 495 484 + 1
      let members := (List.range count).map fun r => w64 (s.readNat .unified (a + 64 + 8 * r) 8)
      let base := (a + 64 + 8 * count + 31) / 32 * 32
      let shards := (List.range count).map fun r => BitVec.ofNat 256 (s.readNat .unified (base + 32 * r) 32)
      let n := fld h 511 496
      let ports := pelPorts h members
      let vcs := pelVcs h
      let credits := fld h 391 382
      need (pelotonFormOk (lgLinkId s.links.group) h members shards) 0x0202
        (need ((tget? x.pelotons n).isNone && ports.all fun i => (lgPortEn s.links.group).testBit i) 0x0205
          (need (decide (x.pelotons.length < 16) && decide ((s.parts.map fun e => e.2.pelotons.length).foldl (· + ·) 0 < 64) &&
              !vcsTaken s p n ports vcs && !portsFull s p n credits ports vcs) 0x0206
            (let q : Peloton := {
               header := h, members := members, shards := shards, layout := fld h 471 456, desc16 := descDigest h members shards,
               window := fld h 455 448, peerLimit := fld h 447 444, latePolicy := fld h 441 440, thin := fld h 439 434,
               headroom := fld h 433 431, handle := nextHandle s p 3 }
             long f hdr (some p) 3 (.pelForm n) (bindVcs p n credits ports vcs (modPart p (fun x => { x with pelotons := tset x.pelotons n q }) s))))))

def execPelotonForm (fn : Fn) (hdr : Hdr) (desc : DescWord) (s : State) : Host.Outcome State Fault Refusal :=
  message fn hdr 0x0300 false (formBody fn hdr desc) s

/-- PELOTON_FORMED: every VC that the peloton bound has its first credits (R464). -/
def pelotonFormed (p n : Nat) (s : State) : State :=
  match getPel s p n with
  | none => s
  | some q =>
    let ready := (pelPorts q.header q.members).all fun i => (pelVcs q.header).all fun v => (vcOf (portOf s i) v).first
    if q.formed || !ready then s else finish q.handle 0 0 (modPel p n (fun q => { q with formed := true, handle := 0, lapWaited := 0 }) s)

def execPelotonFormed (part : PartId) (peloton : Nat) (s : State) : Host.Outcome State Fault Refusal :=
  whenLive (pelotonFormed part.val peloton) s

/-! ## Disbanding, policy, query (R502, R503) -/

/-- A step that calls the peloton is running, held or stopped. -/
def pelotonBusy (s : State) (x : Partition) (n : Nat) : Bool := x.steps.any fun e => stepHolds e.2 && stepUses s e.1 n

/-- Release the VCs of a peloton on some ports: VC_RESET to the partner, nothing bound here (R431). -/
def releaseOn (ports : List Nat) (p n : Nat) (q : Peloton) (s : State) : State :=
  ports.foldl (fun s i => (pelVcs q.header).foldl (fun s v =>
    if (vcOf (portOf s i) v).bound == some (p, n) then
      sendControl i 4 0xFFFF (leBytes 32 v) (modPort i (fun t => setVc v { credits := (vcOf t v).credits, first := (vcOf t v).first } { t with txq := t.txq.filter fun g => hVc g.header != v }) s)
    else s) s) s

def releaseVcs (p n : Nat) (q : Peloton) (s : State) : State := releaseOn (pelPorts q.header q.members) p n q s

def disbandBody (f : Nat) (hdr : Hdr) (peloton : W64) : Body := fun s =>
  withPart f hdr s fun p x =>
    have' (tget? x.pelotons peloton.toNat) 0x0201 fun q =>
      let n := peloton.toNat
      need (!pelotonBusy s x n && q.lap.isNone && q.frog.isNone && q.handle = 0) 0x0205 (
        let parks := x.parks.filter fun k => k.pel == n
        let s := modPart p (fun x => { x with pelotons := tdel x.pelotons n, parks := x.parks.filter fun k => k.pel != n }) s
        .ok { st := releaseVcs p n q s, result := w64 parks.length })

def execPelotonDisband (fn : Fn) (hdr : Hdr) (peloton : W64) (s : State) : Host.Outcome State Fault Refusal :=
  message fn hdr 0x0301 false (disbandBody fn hdr peloton) s

def policyBody (f : Nat) (hdr : Hdr) (peloton window peerLimit latePolicy thin headroom : W64) : Body := fun s =>
  withPart f hdr s fun p x =>
    have' (tget? x.pelotons peloton.toNat) 0x0201 fun _ =>
      need (decide (1 ≤ window.toNat) && decide (window.toNat ≤ 255) && decide (2 ≤ peerLimit.toNat) && decide (peerLimit.toNat ≤ 15) &&
            decide (latePolicy.toNat ≤ 1) && decide (thin.toNat ≤ 63) && decide (headroom.toNat ≤ 7)) 0x0201
        (let set (q : Peloton) : Peloton := { q with
           window := window.toNat
           peerLimit := peerLimit.toNat
           latePolicy := latePolicy.toNat
           thin := thin.toNat
           headroom := headroom.toNat }
         .ok { st := modPel p peloton.toNat set s, result := w64 x.epoch })

def execPelotonPolicy (fn : Fn) (hdr : Hdr) (peloton window peerLimit latePolicy thin headroom : W64) (s : State) : Host.Outcome State Fault Refusal :=
  message fn hdr 0x0305 false (policyBody fn hdr peloton window peerLimit latePolicy thin headroom) s

def pelQueryBody (f : Nat) (hdr : Hdr) (peloton : W64) : Body := fun s =>
  withPart f hdr s fun _ x =>
    have' (tget? x.pelotons peloton.toNat) 0x0201 fun q =>
      let parks := x.parks.filter fun k => k.pel == peloton.toNat
      .ok { st := s, data := wordsData ([q.layout, q.sync, maskOf (pelVcs q.header), fld q.header 391 382, parks.length, parkBytes parks,
        q.late, q.repass, q.stale, q.disagree]) }

def execPelotonQuery (fn : Fn) (hdr : Hdr) (peloton : W64) (s : State) : Host.Outcome State Fault Refusal :=
  message fn hdr 0x0306 false (pelQueryBody fn hdr peloton) s

/-! ## Substitution (R492) -/

def endLap (p n status : Nat) (result : W64) (s : State) : State :=
  match getPel s p n with
  | none => s
  | some q => finish q.lapHandle status result (modPel p n (fun q => { q with lap := none, lapHandle := 0, lapWaited := 0 }) s)

/-- Send a token to rank + 1 under a layout epoch, with the sender's own sync count (R472, R493). -/
def sendToken (n mtype epoch layout : Nat) (q : Peloton) (h : CollHead) (body : List Byte) (s : State) : State :=
  sendTo q n (nextRank q false) mtype 0 epoch layout { h with thin := q.sync % 256 } body s

def isSubst : Option Lap → Bool
  | some (.subst _ _ _ _) => true
  | _ => false

/-- A header with the value of a field [lo + w − 1 : lo] put in its place. -/
def putField (h : BitVec 512) (lo w v : Nat) : BitVec 512 := BitVec.ofNat 512 (h.toNat - fld h (lo + w - 1) lo * 2 ^ lo + v % 2 ^ w * 2 ^ lo)

/-- The header after a substitution: it has the new layout epoch, as the header on the spare has (R462, R492; log 138), and the
port of a neighbour that is replaced. -/
def substHeader (q : Peloton) (rank port : Nat) : BitVec 512 :=
  let h := putField q.header 456 16 (q.layout + 1)
  let h := if rank = nextRank q false then putField h 412 4 port else h
  if rank = nextRank q true then putField h 408 4 port else h

/-- A peloton with another member at a rank: the table, the layout epoch and DESC16 change; the lap begins. -/
def substituted (q : Peloton) (rank linkId port handle : Nat) : Peloton :=
  let members := q.members.set rank (w64 (linkId <<< 48 ||| port <<< 44))
  let header := substHeader q rank port
  { q with header := header, members := members, layout := (q.layout + 1) % 65536, desc16 := descDigest header members q.shards,
           lap := some (.subst q.header q.members q.layout q.desc16), lapHandle := handle, lapWaited := 0 }

def substBody (f : Nat) (hdr : Hdr) (peloton rank linkId port : W64) : Body := fun s =>
  withPart f hdr s fun p x =>
    have' (tget? x.pelotons peloton.toNat) 0x0201 fun q =>
      let n := peloton.toNat
      need (decide (rank.toNat < pelN q) && rank.toNat != pelRank q && decide (linkId.toNat ≤ 0xFFFE) && decide (port.toNat < 16)) 0x0201
        (need (pelMode q == 1 && !pelotonBusy s x n && q.lap.isNone && q.frog.isNone && q.handle = 0 && (lgPortEn s.links.group).testBit port.toNat) 0x0205
          (let vcs := pelVcs q.header
           let credits := fld q.header 391 382
           need (!vcsTaken s p n [port.toNat] vcs && !portsFull s p n credits [port.toNat] vcs) 0x0206
            (let q' := substituted q rank.toNat linkId.toNat port.toNat (nextHandle s p 3)
             long f hdr (some p) 3 (.pelLap n) (bindVcs p n credits [port.toNat] vcs (modPel p n (fun _ => q') s)) 0
               (fun _ s => sendToken n 0x23 0 q'.layout q' { chunk := pelRank q' } [] s))))

def execPelotonSubstitute (fn : Fn) (hdr : Hdr) (peloton rank linkId port : W64) (s : State) : Host.Outcome State Fault Refusal :=
  message fn hdr 0x0304 false (substBody fn hdr peloton rank linkId port) s

/-- SUBST_TOKEN: the own token ends the command, another's goes on. -/
def substToken (p n : Nat) (s : State) : State :=
  match getPel s p n with
  | none => s
  | some q =>
    match heldOf q 0x23 with
    | none => s
    | some m =>
      let s := dropMsg p n m s
      if (readHead m.header).chunk = pelRank q then (if isSubst q.lap then endLap p n 0 0 s else s)
      else sendToken n 0x23 0 q.layout q (readHead m.header) m.body s

def execSubstToken (part : PartId) (peloton : Nat) (s : State) : Host.Outcome State Fault Refusal := whenLive (substToken part.val peloton) s

/-! ## Group frog (R497) -/

/-- A group frog that this member began ends. -/
def endFrog (p n status : Nat) (result : W64) (s : State) : State :=
  match getPel s p n with
  | none => s
  | some q => finish q.frogHandle status result (modPel p n (fun q => { q with frog := none, frogHandle := 0, frogWaited := 0 }) s)

/-- What this member does for a group frog of an epoch and attempt: 0 frogged, 1 already committed, 2 without the step. -/
def frogEpoch (p epoch attempt : Nat) (s : State) : Nat × State :=
  match getPart s p with
  | none => (2, s)
  | some x =>
    let mine := x.steps.find? fun e => e.2.epoch == epoch && e.2.attempt == attempt && stepHolds e.2
    let done := x.steps.any fun e => e.2.epoch == epoch && e.2.attempt == attempt && e.2.state == .committed
    let s1 := match mine with | some e => frogStep e.1 s | none => s
    let s1 := if done then s1 else
      modPart p (fun x => if x.discardedEpochs.any (fun d => d.2.1 == epoch && d.2.2 == attempt) then x
        else { x with discardedEpochs := x.discardedEpochs ++ [(2 ^ 32, epoch, attempt)] }) (dropHeld p epoch attempt s1)
    (if mine.isSome then 0 else if done then 1 else 2, s1)

def addCount (k : Nat) (body : List Byte) : List Byte :=
  let v := leNat (body.take 8)
  leBytes 32 (v + 2 ^ (16 * k))

/-- The attempt that a group frog names: that of the step in flight, or the one that comes next. -/
def frogAttempt (x : Partition) (epoch : Nat) : Nat :=
  match x.steps.find? (fun e => e.2.epoch == epoch && stepHolds e.2) with
  | some e => e.2.attempt
  | none => attemptsOf x epoch % 256

/-- PELOTON_FROG, also while a re-shard drains (R496, R497). -/
def pelFrogBody (f : Nat) (hdr : Hdr) (peloton epoch : W64) : Body := fun s =>
  withPart f hdr s fun p x =>
    have' (tget? x.pelotons peloton.toNat) 0x0201 fun q =>
      let n := peloton.toNat
      need (decide (epoch.toNat < 2 ^ 32)) 0x0201 (need (!isSubst q.lap && q.frog.isNone && q.handle = 0) 0x0205 (
        let att := frogAttempt x epoch.toNat
        let s := modPel p n (fun q => { q with frog := some epoch.toNat, frogHandle := nextHandle s p 3, frogWaited := 0 }) s
        long f hdr (some p) 3 (.pelFrog n) s 0 (fun _ s =>
          let r := frogEpoch p epoch.toNat att s
          sendToken n 0x21 epoch.toNat q.layout q { attempt := att, chunk := pelRank q } (addCount r.1 (leBytes 32 0)) r.2)))

def execPelotonFrog (fn : Fn) (hdr : Hdr) (peloton epoch : W64) (s : State) : Host.Outcome State Fault Refusal :=
  message fn hdr 0x0303 false (pelFrogBody fn hdr peloton epoch) s

/-- GROUP_FROG: the own token ends the command; another's is carried out, counted and sent on. -/
def groupFrog (p n : Nat) (s : State) : State :=
  match getPel s p n with
  | none => s
  | some q =>
    match heldOf q 0x21 with
    | none => s
    | some m =>
      let hd := readHead m.header
      let s := dropMsg p n m s
      if hd.chunk = pelRank q then
        (if q.frog == some m.stepEpoch then endFrog p n 0 (w64 (leNat (m.body.take 6))) s else s)
      else
        let r := frogEpoch p m.stepEpoch hd.attempt s
        sendToken n 0x21 m.stepEpoch q.layout q hd (addCount r.1 m.body) r.2

def execGroupFrog (part : PartId) (peloton : Nat) (s : State) : Host.Outcome State Fault Refusal := whenLive (groupFrog part.val peloton) s

/-! ## Re-sharding (R495, R496) -/

/-- Overlap of two ranges of elements: first element and length. -/
def overlap (a b : Nat × Nat) : Nat × Nat :=
  let lo := max a.1 b.1
  (lo, min (a.1 + a.2) (b.1 + b.2) - lo)

def rangeOf (lens : List Nat) (r : Nat) : Nat × Nat := (chunkStart lens r, lens.getD r 0)

/-- The elements that a pair still owes this member: its new range less what it holds already. -/
def owedOf (s : State) (q : Peloton) (pr : ReshardPair) : Nat :=
  let old := (cmdTensor pr.oldChunks).codes s
  let new := (cmdTensor pr.newChunks).codes s
  (rangeOf new (pelRank q)).2 - (overlap (rangeOf old (pelRank q)) (rangeOf new (pelRank q))).2

/-- One element on the wire: its code and its block scale. -/
def elemWire (s : State) (t : Tensor) (k : Nat) : List Byte :=
  let ix := indexOf t.d k
  leBytes 7 (t.readCode s (offsetOf t.d ix)) ++ [if scaled (dFmt t.d) then s.byte t.scaleSpace (t.scaleAt (rowOf t.d ix) (ix.getD 0 0 / blockLen (dFmt t.d))) else 0]

/-- Write an element that came on the wire: an M48 NaN has a tail of zero (R117), a scale row is padded (R122). The tensor scale of an
F4S shard stays as it is (log 137). -/
def putElem (s : State) (t : Tensor) (k : Nat) (bs : List Byte) : State :=
  let ix := indexOf t.d k
  let s := t.writeCode s (offsetOf t.d ix) (m48Canon (dFmt t.d) (leNat (bs.take 7)))
  if scaled (dFmt t.d) then
    t.padRow (s.write t.scaleSpace (t.scaleAt (rowOf t.d ix) (ix.getD 0 0 / blockLen (dFmt t.d))) [bs.getD 7 0]) (rowOf t.d ix)
  else s

/-- Send what others need of a pair and copy what stays (R495, action 5). -/
def movePair (n layout : Nat) (q : Peloton) (i : Nat) (pr : ReshardPair) (s : State) : State :=
  let old := (cmdTensor pr.oldChunks).codes s
  let new := (cmdTensor pr.newChunks).codes s
  let me := pelRank q
  let mine := rangeOf old me
  let src := cmdTensor pr.oldShard
  let dst := cmdTensor pr.newShard
  let read (e : Nat) : List Byte := elemWire s src (e - mine.1)
  (List.range (pelN q)).foldl (fun s1 r =>
    let o := overlap mine (rangeOf new r)
    let at' := o.1 - (rangeOf new r).1
    if o.2 = 0 then s1
    else if r = me then (List.range o.2).foldl (fun s1 k => putElem s1 dst (at' + k) (read (o.1 + k))) s1
    else sendTo q n r 0x17 (dFmt pr.oldShard) 0 layout
      { tensor := dTensorId pr.oldShard, call := i, chunk := me, first := at', count := o.2, elems := o.2, thin := q.sync % 256 }
      ((List.range o.2).flatMap fun k => read (o.1 + k)) s1) s

/-- The command is over once every element that it is owed is here (action 6). -/
def checkReshard (p n : Nat) (s : State) : State :=
  match getPel s p n with
  | none => s
  | some q => match q.lap with
    | some (.reshard _ _ pairs 3 got) => if got = (pairs.map (owedOf s q)).foldl (· + ·) 0 then endLap p n 0 0 s else s
    | _ => s

def setLap (p n lap : Nat) (s : State) : State :=
  modPel p n (fun q => match q.lap with
    | some (.reshard e sh pr _ g) => { q with lap := some (.reshard e sh pr lap g), lapWaited := 0 }
    | _ => q) s

/-- A member switches to the new epoch and shard table. -/
def switchLayout (p n : Nat) (s : State) : State :=
  modPel p n (fun q => match q.lap with
    | some (.reshard e sh pr _ g) =>
      { q with layout := e, shards := sh, desc16 := descDigest q.header q.members sh, lap := some (.reshard e sh pr 2 g), lapWaited := 0 }
    | _ => q) s

/-- The elements move. -/
def startShards (p n : Nat) (s : State) : State :=
  match getPel s p n with
  | none => s
  | some q => match q.lap with
    | some (.reshard _ _ pairs _ _) =>
      checkReshard p n (((List.range pairs.length).zip pairs).foldl (fun s e => movePair n q.layout q e.1 e.2 s) (setLap p n 3 s))
    | _ => s

/-- Rank 0 begins the first lap once it has drained. -/
def beginLap (p n : Nat) (s : State) : State :=
  match getPel s p n, getPart s p with
  | some q, some x => match q.lap with
    | some (.reshard _ _ _ 0 _) =>
      if pelRank q = 0 && !pelotonBusy s x n then sendToken n 0x22 0 q.layout q { count := 1 } [] (setLap p n 1 s) else s
    | _ => s
  | _, _ => s

/-- The four descriptors of a pair (R495). -/
def reshardPairOk (q : Peloton) (pr : ReshardPair) : Bool :=
  [pr.oldShard, pr.newShard, pr.oldChunks, pr.newChunks].all (fun d => descCheck cmdCoreOk d && dSpace d == 0) &&
  dFmt pr.oldShard == dFmt pr.newShard && dFmt pr.oldChunks == 0x0E && dFmt pr.newChunks == 0x0E &&
  dCount pr.oldChunks == pelN q && dCount pr.newChunks == pelN q

def pairOwned (s : State) (p : Nat) (x : Partition) (pr : ReshardPair) : Bool :=
  [pr.oldShard, pr.newShard, pr.oldChunks, pr.newChunks].all fun d => descPermitted s p x x.mapbuf cmdCore d

def reshardBody (f : Nat) (hdr : Hdr) (peloton epoch : W64) (shards : DescWord) (pairs : List ReshardPair) : Body := fun s =>
  withPart f hdr s fun p x =>
    have' (tget? x.pelotons peloton.toNat) 0x0201 fun q =>
      let n := peloton.toNat
      need (decide (pairs.length ≤ 64) && decide (epoch.toNat < 65536)) 0x0201
        (needUnified s p x shards (need (pairs.all (reshardPairOk q)) 0x0202 (need (pairs.all (pairOwned s p x)) 0x0205
          (need (epoch.toNat == (q.layout + 1) % 65536 && q.lap.isNone && q.frog.isNone && q.handle = 0) 0x0205
            (let sh := (List.range (pelN q)).map fun r => BitVec.ofNat 256 (s.readNat .unified (dAddr shards + 32 * r) 32)
             need (sh.all fun e => fld e 95 0 == 0) 0x0202
              (long f hdr (some p) 3 (.pelLap n)
                (modPel p n (fun q => { q with lap := some (.reshard epoch.toNat sh pairs 0 0), lapHandle := nextHandle s p 3, lapWaited := 0 }) s) 0
                (fun _ s => beginLap p n s)))))))

def execPelotonReshard (fn : Fn) (hdr : Hdr) (peloton epoch : W64) (shards : DescWord) (pairs : List ReshardPair) (s : State) :
    Host.Outcome State Fault Refusal := message fn hdr 0x0302 false (reshardBody fn hdr peloton epoch shards pairs) s

/-- RESHARD_TOKEN: lap 1 goes on once this member has accepted and drained; lap 2 switches it, and on its return the
elements move. The token travels under the epoch that its receiver is at. -/
def reshardToken (p n : Nat) (s : State) : State :=
  match getPel s p n, getPart s p with
  | some q, some x =>
    match heldOf q 0x22, q.lap with
    | none, _ => beginLap p n s
    | some m, some (.reshard e _ _ lap _) =>
      let first := pelRank q = 0
      let last := pelRank q + 1 = pelN q
      let hd := readHead m.header
      if hd.count = 1 then
        if first then (if lap = 1 then sendToken n 0x22 0 q.layout q { count := 2 } [] (switchLayout p n (dropMsg p n m s)) else s)
        else if pelotonBusy s x n then s
        else sendToken n 0x22 0 q.layout q hd [] (setLap p n 1 (dropMsg p n m s))
      else if lap ≤ 1 then
        let s := switchLayout p n (dropMsg p n m s)
        -- the last member's token goes to rank 0, which has switched: it has the new epoch and the new DESC16
        if last then sendToken n 0x22 0 e ((getPel s p n).getD q) hd [] s
        else sendToken n 0x22 0 q.layout q hd [] s
      else if lap = 2 then
        let s := dropMsg p n m s
        startShards p n (if last then s else sendToken n 0x22 0 e q hd [] s)
      else dropMsg p n m s
    | some m, _ => if (readHead m.header).count = 2 then dropMsg p n m s else s
  | _, _ => s

def execReshardToken (part : PartId) (peloton : Nat) (s : State) : Host.Outcome State Fault Refusal := whenLive (reshardToken part.val peloton) s

/-- RESHARD_DATA: elements of a pair land in the new shard. -/
def reshardData (p n : Nat) (s : State) : State :=
  match getPel s p n with
  | none => s
  | some q =>
    match heldOf q 0x17, q.lap with
    | some m, some (.reshard e sh pairs lap got) =>
      let hd := readHead m.header
      match pairs[hd.call]? with
      | none => dropMsg p n m s
      | some pr =>
        let s := (List.range hd.count).foldl (fun s k => putElem s (cmdTensor pr.newShard) (hd.first + k) ((m.body.drop (8 * k)).take 8)) (dropMsg p n m s)
        checkReshard p n (modPel p n (fun q => { q with lap := some (.reshard e sh pairs lap (got + hd.count)) }) s)
    | some m, _ => dropMsg p n m s
    | none, _ => s

def execReshardData (part : PartId) (peloton : Nat) (s : State) : Host.Outcome State Fault Refusal := whenLive (reshardData part.val peloton) s

/-- LAP_TIMEOUT: a lap or a formation did not end within PEER_LIMIT × WINDOW edges (R464, R492, R495, R497). -/
def lapTimeout (p n : Nat) (s : State) : State :=
  match getPel s p n with
  | none => s
  | some q =>
    let s := if q.frog.isSome && decide (q.peerLimit * q.window ≤ q.frogWaited) then endFrog p n 0x0302 0 s else s
    if q.lapWaited < q.peerLimit * q.window then s
    else if q.handle ≠ 0 && !q.formed then finish q.handle 0x0302 0 (modPel p n (fun q => { q with formed := true, handle := 0, lapWaited := 0 }) s)
    else match q.lap with
      | none => s
      | some (.reshard _ _ _ 3 _) => s
      | some _ => endLap p n 0x0302 0 s

def execLapTimeout (part : PartId) (peloton : Nat) (s : State) : Host.Outcome State Fault Refusal := whenLive (lapTimeout part.val peloton) s

/-- A held message of a step that this member has committed, whose REPLAY it has not received (R218). -/
def awaitsReplay (x : Partition) (q : Peloton) (m : CollMsg) : Bool :=
  decide (m.mtype < 0x17) && (q.lastCommitted.any fun l => !serialNewer m.stepEpoch l) &&
  !(x.steps.any fun e => e.2.epoch == m.stepEpoch && (e.2.state == .running || e.2.state == .queued))

/-- Held messages whose REPLAY has not come within the straggler window are dropped and counted as stale traffic (R218, R471;
log 132). -/
def dropUnjoined (s : State) : State :=
  s.parts.foldl (fun s e => e.2.pelotons.foldl (fun s f =>
    let old (m : CollMsg) : Bool := awaitsReplay e.2 f.2 m && decide (f.2.window ≤ m.age)
    let n := (f.2.inbox.filter old).length
    if n = 0 then s else
      devEvent 0x300D f.1 n (modPart e.1 (fun x => { x with pelotons := tupd x.pelotons f.1 fun q =>
        { q with inbox := q.inbox.filter fun m => !old m, stale := q.stale + n } }) s)) s) s

/-- Edges counted by the engines at action 4 of a tick (R39, R218, R487, R490): late calls, quiet calls, laps, messages held for a
replay. -/
def pelotonTick (s : State) : State :=
  let s := { s with parts := tmap s.parts fun _ x => { x with
    pelotons := tmap x.pelotons fun n q =>
      let idle : Bool := match q.lap with
        | none => q.handle == 0
        | some (.reshard _ _ _ 0 _) => pelotonBusy s x n
        | some _ => false
      let q := { q with inbox := q.inbox.map fun m => { m with age := m.age + 1 }, frogWaited := if q.frog.isSome then q.frogWaited + 1 else 0 }
      if idle then q else { q with lapWaited := q.lapWaited + 1 }
    steps := tmap x.steps fun _ st => if st.state != .running then st else { st with
      calls := st.calls.map fun c =>
        let held := match tget? x.pelotons (cwPel c.word) with | some q => scatterHeld q st c.call | none => false
        { c with waited := if !c.issued && held then c.waited + 1 else c.waited
                 quiet := if c.phase == .scatter then c.quiet + 1 else c.quiet } } } }
  dropUnjoined s

/-! ## ANSWERs (R434, R473) -/

/-- A substitution that another member refused leaves the peloton as it was. -/
def undoSubst (p n status : Nat) (header : BitVec 512) (members : List W64) (layout desc16 : Nat) (s : State) : State :=
  match getPel s p n with
  | none => s
  | some q =>
    let old := pelPorts header members
    let s := releaseOn ((pelPorts q.header q.members).filter fun i => !old.contains i) p n q s
    endLap p n status 0 (modPel p n (fun q => { q with header := header, members := members, layout := layout, desc16 := desc16 }) s)

/-- The ANSWER of a refused token ends its command (R473). -/
def answerToken (p n mtype status : Nat) (s : State) : State :=
  match getPel s p n with
  | none => s
  | some q =>
    if mtype = 0x21 then (if q.frog.isSome then endFrog p n 0x0302 0 s else s)
    else match q.lap with
      | some (.reshard _ _ _ lap _) => if mtype = 0x22 && lap < 2 then endLap p n status 0 s else s
      | some (.subst h m l d) => if mtype = 0x23 then undoSubst p n status h m l d s else s
      | none => s

/-- The ANSWER of a call's message, which ORIG_SEQ finds among those that the port has sent, ends that call (R473). A ring walk's
message belongs to no call (R490; log 139). -/
def answerCall (i p n : Nat) (q : Peloton) (src : W16) (w : BitVec 256) (s : State) : State :=
  match tget? (portOf s i).sent (fld w 143 132), getPart s p with
  | some (call, attempt), some x =>
    match runningStepOf x (fld w 255 224) attempt with
    | none => s
    | some h =>
      if (callOf s h n call).isNone then s else
        let rank := ((List.range (pelN q)).find? fun r => linkIdOf q r == src.toNat).getD 0
        abortCall 0x3810 h n call (fld w 163 160 <<< 32 ||| rank <<< 48) rank s
  | _, _ => s

/-- ANSWER: counted by REASON and handed to the peloton of the refused message. -/
def answerMsg (i : Nat) (src : W16) (w : BitVec 256) (s : State) : State :=
  let reason := fld w 163 160
  let mtype := fld w 175 168
  let n := fld w 191 176
  let s := devEvent 0x3004 i 1 (modPort i (fun p => { p with answersIn := tset p.answersIn reason (tget p.answersIn reason 0 + 1) }) s)
  match vcPeloton s i (fld w 167 164) with
  | none => s
  | some (p, m, q) =>
    if m ≠ n then s
    else if 0x21 ≤ mtype then answerToken p n mtype (fld w 159 144) s
    else if 0x10 ≤ mtype && mtype ≤ 0x14 then answerCall i p n q src w s
    else s

def execAnswer (port : PortId) (src : W16) (payload : BitVec 256) (s : State) : Host.Outcome State Fault Refusal :=
  whenLive (fun s => if portUp (portOf s port.val) then answerMsg port.val src payload s else s) s

end Sys2Proof.Machine
end

