-- ==== Sys2Proof/Machine/Images.lean ====
section
/-!
DEFINITION. Images (R599, R600, R603) and the settings records that the steward writes (R604 to R607).
-/
namespace Sys2Proof.Machine

/-! ## Image headers (Table 3 of ch. 16) -/

/-- Bits hi down to lo of a header. -/
def imgField (f : FwImage) (hi lo : Nat) : Nat := (leNat f.header >>> lo) % 2 ^ (hi + 1 - lo)

def imgVersion (f : FwImage) : Nat := imgField f 95 64
def imgSvn (f : FwImage) : Nat := imgField f 102 96
def imgKind (f : FwImage) : Nat := imgField f 43 40
def imgKey (f : FwImage) : Nat := imgField f 45 44
def imgRevoke (f : FwImage) : Nat := imgField f 49 46
def imgJournal (f : FwImage) : Nat := imgField f 127 112

/-- The measurement of an image: SHA-512 of its header bytes 0 to 255 (Table 5). -/
def measure (f : FwImage) : BitVec 512 := Config.sha512 (f.header.take 256)

/-- The field rules of Table 3, for a kind. -/
def imgFormOk (kind : Nat) (f : FwImage) : Bool :=
  f.header.length == 1024 && imgField f 31 0 == 0x4D494C52 && imgField f 39 32 == 1 && imgKind f == kind &&
  imgField f 63 50 == 0 && imgField f 111 103 == 0 && imgField f 511 160 == 0 && imgField f 2047 1024 == 0 && imgField f 8191 4160 == 0 &&
  !(imgRevoke f).testBit (imgKey f) && decide (imgSvn f ≤ 64) && (kind == 0 || imgJournal f == 0) &&
  imgField f 159 128 % 4096 == 0 && decide (imgField f 159 128 ≤ if kind = 0 then 3 * 2 ^ 20 else 2 ^ 19) && f.body.length == imgField f 159 128

/-! ## Owners -/

/-- The highest blown owner slot; 0 where none is blown. -/
def ownerSlot (s : State) : Nat := (tkeys s.trust.ownerDigests).foldl max 0

/-- The key of the owner slot in force, when the flash holds it and it matches its digest. -/
def ownerKey (s : State) : Option (List Byte) :=
  match tget? s.trust.ownerKeys (ownerSlot s), tget? s.trust.ownerDigests (ownerSlot s) with
  | some k, some d => if Config.sha512 k = d then some k else none
  | _, _ => none

/-- An image is good (R600). -/
def imgGood (s : State) (kind : Nat) (f : FwImage) : Bool :=
  imgFormOk kind f && !s.trust.revoked.getLsbD (imgKey f) &&
  Config.ecdsaVerify (Config.relhornKey (imgKey f)) (measure f) ((f.header.drop 256).take 132) &&
  (ownerSlot s == 0 || match ownerKey s with
    | some k => Config.ecdsaVerify k (measure f) ((f.header.drop 388).take 132)
    | none => false) &&
  decide (s.trust.svn ≤ imgSvn f) && Config.sha512 f.body == BitVec.ofNat 512 (leNat ((f.header.drop 64).take 64))

/-- Step 3 of R603: security-version and revocation fuses of an image. -/
def blowFuses (f : FwImage) (s : State) : State :=
  { s with trust.svn := max s.trust.svn (imgSvn f), trust.revoked := s.trust.revoked ||| BitVec.ofNat 4 (imgRevoke f) }

def stewardSlot (s : State) (b : Bool) : FwImage := if b then s.trust.imageB else s.trust.imageA
def ucodeSlot (s : State) (b : Bool) : FwImage := if b then s.trust.ucodeB else s.trust.ucodeA
def putSteward (b : Bool) (f : FwImage) (s : State) : State := if b then { s with trust.imageB := f } else { s with trust.imageA := f }
def putUcode (b : Bool) (f : FwImage) (s : State) : State := if b then { s with trust.ucodeB := f } else { s with trust.ucodeA := f }

/-! ## Settings records (R604 to R606) -/

/-- Control word of device counter k as the record keeps it. -/
def savedWord (x : Settings) (k : Nat) : Nat := (tget x.counters k (devDefault k)).toNat

/-- A record's body (Table 4a of ch. 16). -/
def settingsBody (x : Settings) : List Byte :=
  let tier := x.mode ||| ((List.range 5).map fun i => x.migShare.getD i 50 <<< (1 + 7 * i)).foldl (· ||| ·) 0 ||| x.darnLimit <<< 36 ||| x.ceLimit <<< 43
  let spare (i : Nat) : Nat := match x.spares[i]? with
    | some e => e.1 ||| e.2 <<< 16
    | none => 0xFFFFFFFF
  leBytes 8 x.power.toNat ++ leBytes 8 tier ++ ((List.range 17).flatMap fun (k : Nat) => leBytes 2 (tget x.genCeil k 0)) ++ List.replicate 6 (0 : Byte) ++
  leBytes 8 (b2n x.slotB ||| b2n x.ucodeB <<< 1) ++ ((List.range 128).flatMap fun (k : Nat) => leBytes 8 (savedWord x k)) ++
  ((List.range 16).flatMap fun (i : Nat) => leBytes 4 (spare i)) ++ ((List.range 12).flatMap fun (k : Nat) => leBytes 2 (tget x.darns k []).length) ++
  (List.range 12).flatMap fun (k : Nat) => (tget x.darns k []).flatMap fun (d : W64) => leBytes 8 d.toNat

/-- A record's header (Table 4). -/
def settingsHead (seq : Nat) (fw : W32) (len : Nat) : List Byte := leBytes 64 (0x53544553 ||| 1 <<< 32 ||| len <<< 64 ||| seq <<< 96 ||| fw.toNat <<< 160)

/-- Header and body of a record. -/
def settingsBytes (x : Settings) (seq : Nat) (fw : W32) : List Byte :=
  let b := settingsBody x
  settingsHead seq fw (64 + b.length) ++ b

/-- Flash bytes that a record takes, up to its next 4 KiB boundary: header and body, signature, zeros to an 8-byte boundary, commit word. -/
def settingsSize (x : Settings) : Nat :=
  let n := 64 + 1176 + 8 * ((List.range 12).map fun k => (tget x.darns k []).length).foldl (· + ·) 0
  4096 * (((n + 132 + 7) / 8 * 8 + 8 + 4095) / 4096)

/-- Room for the record is taken in the current half, or in the other half once that is erased. -/
def takeRoom (n : Nat) (s : State) : State :=
  if s.trust.used + n ≤ 2 ^ 20 then { s with trust.used := s.trust.used + n }
  else { s with trust.half := 1 - s.trust.half, trust.used := n }

/-- The next record begins, with the retained set as it is now, when triggers wait. -/
def beginNext (s : State) : State :=
  match s.trust.next with
  | [] => { s with trust.writing := none, trust.retried := false }
  | ts => { s with trust.writing := some (s.trust.current, ts), trust.next := [], trust.retried := false }

/-- What waited for the record's contents: the commits of R603 blow their fuses, the standby takes the committed image, a power
word waits for the next tick edge (R587). -/
def recordCommitted (x : Settings) (s : State) : State :=
  let old := s.trust.inForce
  let s := { s with trust.inForce := x, trust.inForceSeq := s.trust.inForceSeq + 1, trust.inForceFw := imageVersion s.steward.image, trust.stale := false }
  let s := if x.power = old.power then s else { s with board.nextPower := some x.power }
  let s := if x.ucodeB = old.ucodeB then s else blowFuses (ucodeSlot s x.ucodeB) s
  match s.trust.commitHandle with
  | none => s
  | some h =>
    if x.slotB = old.slotB then s else
      let s := blowFuses (stewardSlot s x.slotB) s
      finish h 0 0 { s with
        trust.commitHandle := none
        trust.actingB := x.slotB
        trust.fallback := false
        trust.uncommitted := false
        steward.phase := .idle
        steward.oldImage := none
        steward.standbyImage := s.steward.image }

/-- What a record that failed twice leaves: the retained changes that waited on it are taken back. -/
def recordFailed (ts : List Trigger) (s : State) : State :=
  let s := { s with trust.stale := true, trust.failed := s.trust.failed + 1 }
  let s := if ts.any fun t => t.handle ≠ 0 && !t.save then { s with trust.current := { s.trust.current with power := s.trust.inForce.power } } else s
  let s := ts.foldl (fun s t => if t.handle = 0 then s else finish t.handle 0x0206 0 s) s
  match s.trust.commitHandle with
  | none => s
  | some h => finish h 0x0401 0 { s with trust.commitHandle := none, trust.current := { s.trust.current with slotB := s.trust.inForce.slotB } }

/-- SETTINGS_RECORD_WRITE: the programming of the record being written ends with its read-back (R606). -/
def recordWrite (ok : Bool) (s : State) : State :=
  match s.trust.writing with
  | none => s
  | some (x, ts) =>
    let s := takeRoom (settingsSize x) s
    if ok then
      let s := recordCommitted x s
      beginNext (ts.foldl (fun s t => if t.handle = 0 then s else finish t.handle 0 (if t.save then w64 s.trust.inForceSeq else 0) s) s)
    else if !s.trust.retried then { s with trust.retried := true }
    else beginNext (recordFailed ts s)

def execSettingsRecordWrite (readBackOk : Bool) (s : State) : Host.Outcome State Fault Refusal := whenLive (recordWrite readBackOk) s

end Sys2Proof.Machine
end

