-- ==== Sys2Proof/Machine/Steward.lean ====
section
/-!
DEFINITION. The steward clusters (R552 to R555), live updates of the steward firmware (R556, R557, R603), microcode loads (R558).
-/
namespace Sys2Proof.Machine

/-- The die of the acting cluster. -/
def actingDie (s : State) : Nat := if s.steward.onXd1 then 5 else 4

def finishAll (hs : List Nat) (status : Nat) (s : State) : State := hs.foldl (fun s h => finish h status 0 s) s

def updateHandles (s : State) (p : LongOp → Bool) : List Nat := openHandles s fun r => p r.op

def isUpdate : LongOp → Bool
  | .update => true
  | _ => false
def isRevert : LongOp → Bool
  | .revert => true
  | _ => false
def isSwitch : LongOp → Bool
  | .switch => true
  | _ => false


/-- A new phase of an update, with its event (Table 8). -/
def setPhase (ph : UpdatePhase) (s : State) : State := recEvent 0x6003 0xFFFE none 31 0xFFFF 0 [] { s with steward.phase := ph }

/-- The code of a phase in DETAIL of UPDATE_ABORTED. -/
def phaseCode : UpdatePhase → Nat
  | .idle => 0 | .follow => 1 | .handedOver => 2

/-- A live update ends before its handover (R557): FW_UPDATE ends and the fault is recorded. -/
def abortUpdate (s : State) : State :=
  let s := raiseFault { code := 0x6801, cls := 1, sev := 0, die := actingDie s, detail := w64 (phaseCode s.steward.phase) } s
  finishAll (updateHandles s isUpdate) 0x0401 (setPhase .idle s)

/-- The mailboxes go to the other cluster. -/
def takeMailboxes (s : State) : State := { s with steward.onXd1 := !s.steward.onXd1 }

/-- The image that acted at the handover acts again; the record never marked the new one (R556, R557). -/
def backToOld (s : State) : State :=
  match s.steward.oldImage with
  | none => s
  | some f =>
    let s := setPhase .idle { s with
      steward.image := f
      steward.standbyImage := f
      steward.oldImage := none
      trust.uncommitted := false }
    match s.trust.commitHandle with
    | none => s
    | some h => finish h 0x0401 0 { s with trust.commitHandle := none, trust.current := { s.trust.current with slotB := s.trust.inForce.slotB } }

/-- The standby takes over from a failed acting cluster, which is reset and tests itself (R553, R555, R557). -/
def takeover (core : Nat) (s : State) : State :=
  let s := raiseFault { code := 0x0802, cls := 1, sev := 0, die := actingDie s, detail := w64 core } s
  let s := match s.steward.phase with
    | .idle => s
    | .follow => abortUpdate s
    | .handedOver => backToOld s
  let s := finishAll (updateHandles s isSwitch) 0 (finishAll (updateHandles s isRevert) 0 s)
  recEvent 0x0005 0xFFFE none 31 0xFFFF 0 [] (takeMailboxes { s with
    steward.standby := .testing
    steward.standbyImage := s.steward.image
    steward.switchPending := false
    steward.revertPending := false })

/-- A fault of the acting cluster: takeover, or the safe state where no healthy standby exists (R553, R555). -/
def actingFault (core : Nat) (s : State) : State :=
  if s.steward.standby == .healthy then takeover core s
  else enterSafe { code := 0x0803, cls := 3, sev := 2, die := actingDie s, detail := w64 core } true false s

def execStewardCoreFault (core : Fin 4) (s : State) : Host.Outcome State Fault Refusal := whenLive (actingFault core.val) s

/-- STEWARD_DOUBLE_FAULT names the case without a healthy standby. -/
def doubleFault (core : Nat) (s : State) : State := actingFault core s

def execStewardDoubleFault (core : Fin 4) (s : State) : Host.Outcome State Fault Refusal := whenLive (doubleFault core.val) s

/-- CLUSTER_SELF_TEST: the failed cluster becomes the standby with the running image, or stays out of service (R555). -/
def selfTest (pass : Bool) (s : State) : State :=
  if s.steward.standby != .testing then s
  else if pass then { s with steward.standby := .healthy, steward.standbyImage := s.steward.image }
  else { s with steward.standby := .none }

def execClusterSelfTest (pass : Bool) (s : State) : Host.Outcome State Fault Refusal := whenLive (selfTest pass) s

/-- STANDBY_STEWARD_FAULT: an update that is not yet handed over ends; the standby is reset and tests itself (R557). -/
def standbyFault (s : State) : State :=
  if s.steward.standby != .healthy then s else
    let s := if s.steward.phase == .follow then abortUpdate s else s
    { s with steward.standby := .testing }

def execStandbyStewardFault (s : State) : Host.Outcome State Fault Refusal := whenLive standbyFault s

/-! ## Live update (R556, Table 8) -/

/-- FW_UPDATE: the image is checked; the standby loads it beside the running image and follows the journal. -/
def updateBody (fn : Nat) (hdr : Hdr) (image : FwImage) : Body := fun s =>
  need (s.steward.standby == .healthy && s.steward.phase == .idle && !s.steward.switchPending && s.trust.commitHandle.isNone &&
    Config.readsJournal s.steward.image.header (imgJournal image)) 0x0205 (
    long fn hdr none 9 .update s (after := fun h s =>
      if imgGood s 0 image then setPhase .follow { s with steward.standbyImage := image } else finish h 0x0207 0 s))

def execFwUpdate (fn : Fn) (hdr : Hdr) (image : FwImage) (s : State) : Host.Outcome State Fault Refusal :=
  message fn hdr 0x0620 true (updateBody fn hdr image) s

/-- HANDOVER: at the first tick edge after the standby is ready it takes the mailboxes with the new image; the old cluster becomes
standby with the old image. -/
def handOver (s : State) : State :=
  if s.steward.phase != .follow || s.steward.standby != .healthy then s else
    let new := s.steward.standbyImage
    let old := s.steward.image
    let s := takeMailboxes (setPhase .handedOver { s with
      steward.image := new
      steward.standbyImage := old
      steward.oldImage := some old
      trust.uncommitted := true })
    (updateHandles s isUpdate).foldl (fun s h => finish h 0 (w64 (imgVersion new)) s) s

def execHandover (s : State) : Host.Outcome State Fault Refusal := whenLive handOver s

/-- FW_COMMIT: step 1 of R603 programs the inactive slot and reads it back; steps 2 and 3 follow with the record (Images.lean). -/
def commitUpdateBody (fn : Nat) (hdr : Hdr) : Body := fun s =>
  need (s.steward.phase == .handedOver && s.trust.commitHandle.isNone && !s.steward.revertPending) 0x0205 (
    long fn hdr none 9 .commit s (after := fun h s =>
      if !imgGood s 0 s.steward.image then finish h 0x0401 0 s else
        let b := !s.trust.inForce.slotB
        settingsTrigger {} (putSteward b s.steward.image { s with
          trust.commitHandle := some h
          trust.current := { s.trust.current with slotB := b } })))

def execFwCommit (fn : Fn) (hdr : Hdr) (s : State) : Host.Outcome State Fault Refusal :=
  message fn hdr 0x0621 true (commitUpdateBody fn hdr) s

/-- FW_REVERT, before a commit: the old image takes the mailboxes back at the next tick edge. -/
def revertBody (fn : Nat) (hdr : Hdr) : Body := fun s =>
  need (s.steward.phase == .handedOver && s.trust.commitHandle.isNone && !s.steward.revertPending && s.steward.standby == .healthy) 0x0205 (
    long fn hdr none 9 .revert { s with steward.revertPending := true })

def execFwRevert (fn : Fn) (hdr : Hdr) (s : State) : Host.Outcome State Fault Refusal :=
  message fn hdr 0x0622 true (revertBody fn hdr) s

/-- STEWARD_SWITCH: a planned takeover at the next tick edge (R555). -/
def switchBody (fn : Nat) (hdr : Hdr) : Body := fun s =>
  need (s.steward.standby == .healthy && s.steward.phase == .idle && !s.steward.switchPending) 0x0205 (
    long fn hdr none 0xB .switch { s with steward.switchPending := true })

def execStewardSwitch (fn : Fn) (hdr : Hdr) (s : State) : Host.Outcome State Fault Refusal :=
  message fn hdr 0x0624 true (switchBody fn hdr) s

/-- What a tick edge does of a planned takeover and of a revert (R555, Table 8). Where a fault has taken the standby in the
meantime, the planned takeover ends as stopped by it (log 118). -/
def stewardTick (s : State) : State :=
  let s := if !s.steward.revertPending then s else
    finishAll (updateHandles s isRevert) 0 (takeMailboxes (backToOld { s with steward.revertPending := false }))
  if !s.steward.switchPending then s
  else if s.steward.standby != .healthy then finishAll (updateHandles s isSwitch) 0x0401 { s with steward.switchPending := false }
  else finishAll (updateHandles s isSwitch) 0 (recEvent 0x0005 0xFFFE none 31 0xFFFF 0 [] (takeMailboxes { s with steward.switchPending := false }))

/-! ## Microcode (R558, R603) -/

/-- UCODE_LOAD: the pair finishes its unit, then loads; one pair of the device at a time. -/
def ucodeBody (fn : Nat) (hdr : Hdr) (pair : W64) (image : FwImage) : Body := fun s =>
  need (decide (pair.toNat < 16)) 0x0201 (
  need (!(s.pairs.any fun e => e.2.loading.isSome)) 0x0205 (
    long fn hdr none 9 (.ucode pair.toNat) s (after := fun h s =>
      if imgGood s 1 image then modPair pair.toNat (fun r => { r with loading := some (image, h) }) s else finish h 0x0207 0 s)))

def execUcodeLoad (fn : Fn) (hdr : Hdr) (pair : W64) (image : FwImage) (s : State) : Host.Outcome State Fault Refusal :=
  message fn hdr 0x0623 true (ucodeBody fn hdr pair image) s

/-- Once all sixteen pairs run one loaded image, the steward commits it like a steward image (R603). -/
def commitUcode (f : FwImage) (s : State) : State :=
  let b := !s.trust.inForce.ucodeB
  if !((List.range 16).all fun i => (pairOf s i).ucode == f) || ucodeSlot s s.trust.current.ucodeB == f || !imgGood s 1 f then s else
    settingsTrigger {} (putUcode b f { s with trust.current := { s.trust.current with ucodeB := b } })

/-- UCODE_LOAD_DONE: the load ends with the pair at a unit boundary, and its sessions continue. -/
def ucodeDone (i : Nat) (s : State) : State :=
  let r := pairOf s i
  match r.loading with
  | none => s
  | some (f, h) =>
    if r.running.isSome then s else
      takeNext i (commitUcode f (finish h 0 0 (modPair i (fun r => { r with ucode := f, loading := none }) s)))

def execUcodeLoadDone (pair : PairId) (s : State) : Host.Outcome State Fault Refusal := whenLive (ucodeDone pair.val) s

end Sys2Proof.Machine
end

