-- ==== Sys2Proof/Machine/Service.lean ====
section
/-!
DEFINITION. The service commands of chapter 14: counters (R562, R563), the event log (R545), the first-fault record (R539),
telemetry (R565), core sparing (R549 to R551), recalibration and restarts (R559, R561).
-/
namespace Sys2Proof.Machine

/-! ## Counters (Tables 9 to 11) -/

/-- The core events of Table 10. -/
def coreEventIds : List Nat :=
  ((List.range 24).map (0x2001 + ·)) ++ [0x1001, 0x1002, 0x1003, 0x1004, 0x5001, 0x5002, 0x5003]

/-- The fault codes of Table 3; a device counter may select one. -/
def faultCodes : List Nat :=
  [0x0801, 0x0802, 0x0803, 0x0804, 0x0805, 0x0806, 0x0807, 0x1801, 0x1802, 0x1803, 0x1804, 0x1805, 0x2801, 0x2802, 0x2803, 0x2804, 0x2805] ++
  [0x3801, 0x3802, 0x3803, 0x3804, 0x3810, 0x3811, 0x4801, 0x4802, 0x4803, 0x5801, 0x6801]

/-- A control word without reserved bits or a reserved MODE, for an event of its scope. -/
def ctrWordOk (core : Bool) (w : W64) : Bool :=
  fld w 47 32 == 0 && fld w 15 4 == 0 && fld w 3 2 != 3 &&
  if core then fld w 63 48 == 0 && coreEventIds.contains (fld w 31 16)
  else devEventIds.contains (fld w 31 16) || faultCodes.contains (fld w 31 16)

/-- COUNTER_SET. `scope` is a core's index, or 0xFFFF for the device (log 53). The word waits for the next tick edge; one for the same
counter that waited before it is replaced. A device counter's word is retained (R606). -/
def counterBody (f : Nat) (scope counter word : W64) : Body := fun s =>
  let dev := scope == 0xFFFF
  need ((dev || decide (scope.toNat < 208)) && decide (counter.toNat < if dev then 128 else 16) && ctrWordOk (!dev) word) 0x0201 (
  need (f == 0 || (!dev && match getPart s (f - 1) with
    | some x => (partCores s x).contains scope.toNat
    | none => false)) 0x0205 (
    let i := if dev then counter.toNat else 16 * scope.toNat + counter.toNat
    let c : CounterWord := { core := !dev, index := i, word := word }
    let s := { s with steward.counterWords := (s.steward.counterWords.filter fun k => !(k.core == c.core && k.index == i)) ++ [c] }
    let s := if dev then settingsTrigger {} { s with trust.current := { s.trust.current with
      counters := tset s.trust.current.counters i (word &&& ~~~(2 : W64)) } } else s
    .ok { st := s, result := s.steward.tick + 1 }))

def execCounterSet (fn : Fn) (hdr : Hdr) (scope counter word : W64) (s : State) : Host.Outcome State Fault Refusal :=
  message fn hdr 0x0600 false (counterBody fn scope counter word) s

/-- A word applies: CLEAR sets the counter to 0 (Table 9). -/
def applyWord (c : CounterWord) (s : State) : State :=
  let old := if c.core then coreCtr s (c.index / 16) (c.index % 16) else devCtr s c.index
  let new : Counter := { old with word := c.word &&& ~~~(2 : W64), live := if bitAt c.word 1 then 0 else old.live }
  if c.core then setCoreCtr (c.index / 16) (c.index % 16) new s else setDevCtr c.index new s

/-- After action 2 of a tick edge the waiting words apply (R563). -/
def applyWords (s : State) : State := s.steward.counterWords.foldl (fun s c => applyWord c s) { s with steward.counterWords := [] }

/-- Action 2: a counter in a snapshot mode copies its value, and in mode 2 clears. -/
def snapCounter (c : Counter) : Counter :=
  match fld c.word 3 2 with
  | 1 => { c with snap := c.live }
  | 2 => { c with snap := c.live, live := 0 }
  | _ => c

/-- Every counter's snapshot. A counter that no table lists holds 0 and its default word, and its snapshot is 0. -/
def snapCounters (s : State) : State :=
  { s with collector.coreCtrs := tmap s.collector.coreCtrs fun _ c => snapCounter c, collector.devCtrs := tmap s.collector.devCtrs fun _ c => snapCounter c }

/-! ## The event log and the first-fault record -/

/-- An event record as 64 bytes (Table 6). -/
def eventBytes (r : EventRec) : List Byte :=
  leBytes 64 (r.part <<< 16 ||| b2n r.pvalid <<< 20 ||| r.sev <<< 21 ||| r.cls <<< 23 ||| r.die <<< 27 ||| r.id <<< 32 ||| r.unit <<< 48 |||
    r.seq <<< 64 ||| r.offsetNs.toNat <<< 96 ||| r.tick.toNat <<< 128 ||| r.handle <<< 192 ||| r.data.toNat <<< 256)

/-- The first-fault record as 64 bytes (Table 4). -/
def faultBytes (r : FirstFault) : List Byte :=
  leBytes 64 (b2n r.valid ||| b2n r.overflow <<< 1 ||| r.part <<< 32 ||| b2n r.pvalid <<< 36 ||| r.sev <<< 37 ||| r.cls <<< 39 ||| r.die <<< 43 |||
    r.code <<< 48 ||| r.later <<< 64 ||| r.unit <<< 80 ||| r.detail.toNat <<< 288 ||| r.offsetNs.toNat <<< 352 ||| r.tick.toNat <<< 384 ||| r.handle <<< 448)

/-- A destination of R624 that may lie in any partition's memory for the PF. -/
def needDest {α : Type} (s : State) (f : Nat) (hdr : Hdr) (d : DescWord) (n : Nat) (k : Except Nat α) : Except Nat α :=
  match destPart s f hdr d with
  | none => .error 0x0202
  | some p => match getPart s p with
    | none => .error 0x0202
    | some x => needRecords s p x d n k

/-- Place of a SEQ in the log, and how many records before the oldest it lies (R545). -/
def seqPlace (s : State) (first : Nat) : Nat × Nat :=
  let oldest := (s.collector.nextSeq + 2 ^ 32 - s.collector.log.length) % 2 ^ 32
  let d := (first + 2 ^ 32 - oldest) % 2 ^ 32
  if d < 2 ^ 31 then (d, 0) else (0, 2 ^ 32 - d)

/-- EVENT_READ: whole records from a SEQ on (R545, R624); none where the destination cannot be reached (log 120). -/
def eventReadBody (f : Nat) (hdr : Hdr) (first count : W64) (dst : DescWord) : Body := fun s =>
  need (decide (first.toNat < 2 ^ 32)) 0x0201 (
  needDest s f hdr dst 64 (
    match accessTrouble s (descPages dst) with
    | some _ => .ok { st := s, result := w64 ((seqPlace s first.toNat).2 <<< 32) }
    | none =>
      let pl := seqPlace s first.toNat
      let r := writeRecords dst 64 (((s.collector.log.drop pl.1).take count.toNat).map eventBytes) s
      .ok { st := r.2, result := w64 (r.1 ||| pl.2 <<< 32) }))

def execEventRead (fn : Fn) (hdr : Hdr) (first count : W64) (dst : DescWord) (s : State) : Host.Outcome State Fault Refusal :=
  message fn hdr 0x0601 true (eventReadBody fn hdr first count dst) s

/-- FAULT_CLEAR: the record is compared as it stands once waiting faults have latched (R539, R566). -/
def faultClearBody (tick code : W64) : Body := fun s =>
  need (decide (code.toNat < 2 ^ 16)) 0x0201 (
  need (s.collector.first.valid && s.collector.first.tick == tick && s.collector.first.code == code.toNat) 0x0204 (
    .ok { st := { s with collector.first := {}, collector.partOpen := [] } }))

def execFaultClear (fn : Fn) (hdr : Hdr) (tick code : W64) (s : State) : Host.Outcome State Fault Refusal :=
  message fn hdr 0x0602 true (faultClearBody tick code) s

/-- The telemetry set; before the first tick edge every byte is 0 (log 15). -/
def telemetrySet (s : State) : List Byte := if s.collector.telemetry.isEmpty then List.replicate 152 0 else s.collector.telemetry

def telemetryBody : Body := fun s => .ok { st := s, data := telemetrySet s }

def execTelemetryRead (fn : Fn) (hdr : Hdr) (s : State) : Host.Outcome State Fault Refusal :=
  message fn hdr 0x0603 true telemetryBody s

def serviceBody (limit : W64) : Body := fun s =>
  need (decide (8 ≤ limit.toNat) && decide (limit.toNat ≤ 1024)) 0x0201 (
    .ok { st := settingsTrigger {} { s with trust.current := { s.trust.current with ceLimit := limit.toNat } } })

def execServiceSet (fn : Fn) (hdr : Hdr) (limit : W64) (s : State) : Host.Outcome State Fault Refusal :=
  message fn hdr 0x0604 true (serviceBody limit) s

/-! ## Core sparing (R549 to R551) -/

/-- The swap that waits for a core: its handle and its spare. -/
def pendingSwap (s : State) (c : Nat) : Option (Nat × Nat) :=
  s.steward.handles.findSome? fun e => if e.2.owed then (match e.2.op with
    | .spare k sp => if k = c then some (e.1, sp) else none
    | _ => none) else none

/-- Free spares of a die that no swap waits for. -/
def openSpares (s : State) (die : Nat) : List Nat :=
  (freeSpares s die).filter fun k => !(s.steward.handles.any fun e => e.2.owed && match e.2.op with | .spare _ sp => sp == k | _ => false)

/-- Waiters and calls that name a core name the spare. -/
def renameCore (old new : Nat) (s : State) : State :=
  let r (c : Nat) : Nat := if c = old then new else c
  { s with
    parts := tmap s.parts fun _ x => { x with
      sems := tmap x.sems fun _ m => { m with waiters := m.waiters.map fun w => (r w.1, w.2) }
      locks := tmap x.locks fun _ k => { k with waiters := k.waiters.map fun w => (w.1, r w.2.1, w.2.2) }
      calls := tmap x.calls fun _ k => { k with core := r k.core }
      steps := tmap x.steps fun _ st => { st with calls := st.calls.map fun k => { k with core := r k.core } } }
    cores.cds := tmap s.cores.cds fun _ d => { d with stem := d.stem.map fun q => (r q.1, q.2) } }

/-- The save footprint is copied from a core to its spare (R511, R549). -/
def copyFoot (old new : Nat) (pat : PatternImage) (s : State) : State :=
  let rows := 512 * accRows pat
  let s1 := s.write (.spad new) 0 (s.read (.spad old) 0 (spFoot pat))
  let s2 := s1.write (.acc new) 0 (s1.read (.acc old) 0 rows)
  if usesResident pat then s2.write (.acc new) (512 * 1024) (s2.read (.acc old) (512 * 1024) rows) else s2

/-- The spare takes the position, with the event and the retained swap (R5, R550, R551). -/
def takePosition (old new h : Nat) (s : State) : State :=
  let part := match partsOfCore s old with | [p] => some p | _ => none
  let s := match posOf s old with
    | some q => { s with cores.place := tset s.cores.place q new }
    | none => s
  let s := settingsTrigger {} { s with trust.current := { s.trust.current with spares := s.trust.current.spares ++ [(old, new)] } }
  finish h 0 (w64 new) (recEvent 0x202A (dieOfCore old) part (dieOfCore old) old h [(16, old), (16, new)] s)

/-- The swap of a core that no step runs on: saved states follow the position, nothing is copied. -/
def swapIdle (old new h : Nat) (s : State) : State :=
  let x := coreOf s old
  let y := coreOf s new
  takePosition old new h (renameCore old new (setCore old { inService := false } (setCore new { y with saved := x.saved } s)))

/-- The swap at a boundary: footprint and context go over, and the spare goes on with the stitch list. A sentinel recompute
under way on the old core is given up and counts as skipped, and the figures of the old core go on in the record of the
spare, of which R178 and R180 do not speak (DESIGN CHOICE, log 148). -/
def swapRunning (old new h : Nat) (s : State) : State :=
  let x := dropSample (coreOf s old)
  let s := match x.step.bind (stepPattern s) with
    | some pat => copyFoot old new pat s
    | none => s
  let s := setCore new { dropWeights x with stop := none, ceRaised := (coreOf s new).ceRaised } s
  let s := takePosition old new h (renameCore old new (setCore old { inService := false } s))
  (tkeys x.lanes).foldl (fun s l => if (laneOf s new l).waitOn.isSome then s else settleLane new l (laneFuel s new) s) s

/-- CORE_SWAP: the waiting swap of a core takes place where it may: no step runs there, or the core stands at a boundary outside a
window. A core that a restore or a save held back is asked to stop. -/
def coreSwap (c : Nat) (s : State) : State :=
  match pendingSwap s c with
  | none => s
  | some (h, sp) =>
    let x := coreOf s c
    if coreIdle x then swapIdle c sp h s
    else if x.saving || x.restoring || x.step.isNone then s
    else if x.stop.isNone then stopCore .swap c s
    else if x.stop == some .swap && x.npOpen.isNone && !anyStarted x && !stemRuns s c then swapRunning c sp h s
    else s

def execCoreSwap (core : CoreId) (s : State) : Host.Outcome State Fault Refusal := whenLive (coreSwap core.val) s

/-- CORE_SPARE (R549). -/
def spareBody (fn : Nat) (hdr : Hdr) (core spare : W64) : Body := fun s =>
  let c := core.toNat
  let sp := spare.toNat
  need (decide (c < 208) && (sp == 0xFF || (decide (sp < 208) && dieOfCore sp == dieOfCore c))) 0x0201 (
  need ((coreOf s c).inService && (posOf s c).isSome && (pendingSwap s c).isNone) 0x0205 (
  match openSpares s (dieOfCore c) with
  | [] => .error 0x0206
  | first :: rest =>
    need (sp == 0xFF || (first :: rest).contains sp) 0x0205 (
      let new := if sp = 0xFF then first else sp
      long fn hdr none 0xB (.spare c new) s (after := fun _ s =>
        if coreIdle (coreOf s c) || (coreOf s c).stop.isNone then coreSwap c s else s))))

def execCoreSpare (fn : Fn) (hdr : Hdr) (core spare : W64) (s : State) : Host.Outcome State Fault Refusal :=
  message fn hdr 0x0610 true (spareBody fn hdr core spare) s

/-! ## Stacks and far ports (R559, R561) -/

def stackBody (fn : Nat) (hdr : Hdr) (stack : W64) : Body := fun s =>
  need (decide (stack.toNat < 12)) 0x0201 (
  need ((stackOf s stack.toNat).inService && (List.range 12).all fun i => (stackOf s i).recal.isNone) 0x0205 (
    long fn hdr none 0xB (.stack stack.toNat) (modStack stack.toNat (fun x => { x with recal := some 0 }) s)))

def execStackRecal (fn : Fn) (hdr : Hdr) (stack : W64) (s : State) : Host.Outcome State Fault Refusal :=
  message fn hdr 0x0633 true (stackBody fn hdr stack) s

/-- One channel is retrained at each tick edge; after the 32nd the command completes. -/
def stackTick (s : State) : State :=
  (List.range 12).foldl (fun s i =>
    match (stackOf s i).recal with
    | none => s
    | some k =>
      if k + 1 < 32 then modStack i (fun x => { x with recal := some (k + 1) }) s
      else
        let hs := openHandles s fun r => match r.op with | .stack j => j == i | _ => false
        let s := recEvent 0x6004 i none (8 + i) i ((hs.head?).getD 0) [(16, i)] (modStack i (fun x => { x with recal := none }) s)
        finishAll hs 0 s) s

def farRestartBody (fn : Nat) (hdr : Hdr) (port : W64) : Body := fun s =>
  need (decide (port.toNat < 4)) 0x0201 (
  need (!(farOf s port.toNat).restarting) 0x0205 (
    long fn hdr none 0xB (.far port.toNat) (modFar port.toNat (fun x => { x with restarting := true, inService := false, linkUp := false }) s)))

def execFarPortRestart (fn : Fn) (hdr : Hdr) (port : W64) (s : State) : Host.Outcome State Fault Refusal :=
  message fn hdr 0x0634 true (farRestartBody fn hdr port) s

end Sys2Proof.Machine
end

