-- ==== Sys2Proof/Machine/Checks.lean ====
section
/-!
DEFINITION. What a pattern load checks of its words and stitches: array, stem, vector and window stitches, attention and
call words, fences, read and write ranges (R34, R154 to R176, R222 to R254, R258 to R274, R295, R298, R303, R467, R468,
R510).
-/
namespace Sys2Proof.Machine

/-- What the checks look at: the header of the pattern, the binding table in use, the partition's KV spaces with their
formats and its banks, and whether a load checks (R295); a submission's names have their own check (R45, R324). -/
structure CheckEnv where
  pat : PatternImage
  table : List Binding
  spaces : List (Nat × Nat) := []
  banks : Table Bank := []
  load : Bool := false

def CheckEnv.desc (e : CheckEnv) (i : Nat) : Option DescWord :=
  if i = 0xFF then none else match e.table[i]? with
    | some (.desc d) => some d
    | _ => none

def CheckEnv.isDesc (e : CheckEnv) (i : Nat) : Bool := (e.desc i).isSome
/-- A binding that may be left out: 0xFF, or a descriptor. -/
def CheckEnv.optDesc (e : CheckEnv) (i : Nat) : Bool := i == 0xFF || e.isDesc i

def CheckEnv.attn (e : CheckEnv) (i : Nat) : Option AWord := match e.table[i]? with | some (.attn w) => some w | _ => none
def CheckEnv.winWord (e : CheckEnv) (i : Nat) : Option WWord := match e.table[i]? with | some (.window w) => some w | _ => none

/-- A descriptor before its slots are bound to cores: a core's own blocks by slot, one map buffer. -/
def loadTensor (d : DescWord) : Tensor :=
  { d := d, core := if dSpace d = 3 then 0 else dCore d, score := if dScaleSpace d = 3 then 0 else dScaleCore d }

def CheckEnv.tensor (e : CheckEnv) (i : Nat) : Option Tensor := (e.desc i).map loadTensor

/-- Some stitch keeps resident rows. -/
def hasResident (pat : PatternImage) : Bool := pat.lists.any fun l => l.any fun e => (residentRows e).isSome

/-- A T0 operand of the core in a slot: its own blocks, or a map buffer (R223). -/
def ownT0 (slot : Nat) (d : DescWord) : Bool :=
  dSpace d != 0 && (dSpace d == 3 || dCore d == slot) &&
  (!scaled (dFmt d) || (dScaleSpace d != 0 && (dScaleSpace d == 3 || dScaleCore d == slot)))

/-! ## Array stitches (R154 to R176, R628) -/

/-- The mode word by itself (R167, R170, R176). -/
def modeOk (m : W64) : Bool :=
  fld m 63 56 == 0 && fld m 8 0 == 0 && mFeed m != 3 && fmtKnown (mOutFmt m) &&
  (mSentRate m == 0 || (decide (4 ≤ mSentRate m) && decide (mSentRate m ≤ 12) && mAcc m == 0)) &&
  (mOutEn m || (!mCountEn m && mAcc m != 3)) && cvtOk (mCvt m) &&
  (!mOutEn m || (!(mOutFmt m == 0x0C || mOutFmt m == 0x0D || mOutFmt m == 0x0E) &&
    (mOutFmt m != 0x0A || cvtScaleMode (mCvt m) == 1))) &&
  match packing (mWfmt m) (mAfmt m) with
  | some p => decide (mKvalid m < 128 * p)
  | none => false

/-- A destination takes `cols` columns from column `first` on: whole blocks, or up to its last, partial block (R167). -/
def colsOk (m : W64) (d : DescWord) (first cols : Nat) : Bool :=
  let n := blockLen (mOutFmt m)
  (dSpace d == 1 || dSpace d == 3) && dFmt d == mOutFmt m && decide (first + cols ≤ dSize d 0) &&
  (n == 0 || (first % n == 0 && (first + cols == dSize d 0 || (first + cols) % n == 0)))

/-- A destination takes `tokens` rows of `cols` columns. -/
def destOk (m : W64) (d : DescWord) (cols tokens : Nat) : Bool := colsOk m d 0 cols && decide (tokens ≤ dRows d)

/-- A last pass of `rest` channels: its valid channels end at the tensor's end or with a block (R155). -/
def kvalidOk (m : W64) (rest : Nat) : Bool :=
  decide (rest ≤ mKvalid m + 1) || [mWfmt m, mAfmt m].all fun f => blockLen f == 0 || (mKvalid m + 1) % blockLen f == 0

/-- Operands of a plain feeder: layouts, tokens and passes (R628). -/
def plainOk (e : CheckEnv) (a : ArrayStitch) (act wt : DescWord) : Bool :=
  let m := a.mode
  let p := (packing (mWfmt m) (mAfmt m)).getD 1
  dSize act 0 == dSize wt 0 && dRank wt == 2 && decide (mCols m + 1 ≤ dSize wt 1) && a.tokens == dRows act &&
  a.passes == (dSize act 0 + 128 * p - 1) / (128 * p) && kvalidOk m (dSize act 0 - 128 * p * (a.passes - 1)) && (mFeed m != 2 || dSpace act == 3) && (mFeed m != 0 || dSpace act != 3) &&
  a.window == 0xFF && a.haloAbove == 0xFF && a.haloBelow == 0xFF &&
  (!mOutEn m || match e.desc a.dst with | some d => destOk m d (mCols m + 1) a.tokens | none => false)

/-- Channels of a group (R259). -/
def groupSize (w : WWord) (m : W64) (map : DescWord) : Nat :=
  if wOp w = 0 then 128 * (packing (mWfmt m) (mAfmt m)).getD 1 else if wOp w = 1 then dSize map 0 else 128

/-- The window word of a stitch (R258, R259). -/
def windowOk (w : WWord) (m : W64) (map : DescWord) : Bool :=
  fld w 255 192 == 0 && fld w 1 0 == 0 && decide (wOp w ≤ 4) && (dRank map == 3 || dRank map == 4) && dSpace map != 0 &&
  decide (wTy0 w + wTh w ≤ wKh w) && decide (wTx0 w + wTw w ≤ wKw w) &&
  (wOp w != 0 || (decide (wTh w ≤ 7) && decide (wTw w ≤ 7))) &&
  (!(wOp w == 2 || wOp w == 3) || (wTy0 w == 0 && wTx0 w == 0 && wTh w == wKh w && wTw w == wKw w)) &&
  (wOp w == 4 || decide (rectTokens w ≤ 256)) &&
  decide ((wG0 w + wGn w) * groupSize w m map < dSize map 0) &&
  (dPad map != 1 || (decide (wPt w < dSize map 2) && decide (wPb w < dSize map 2) && decide (wPl w < dSize map 1) && decide (wPr w < dSize map 1)))

/-- The rectangle and the destination of a stitch whose output is not empty (R262). -/
def rectOk (w : WWord) (map : DescWord) (dst : Option DescWord) : Bool :=
  outEmpty w map ||
  (decide (wOy0 w + wOr w < outRows w map) && decide (wOx0 w + wOc w < outCols w map) &&
   decide (wImg w < dSize map 3) &&
   match dst with
   | some d => dSize d 1 == outCols w map && dSize d 2 == outRows w map && dSize d 3 == dSize map 3
   | none => true)

/-- Halo slots that a stitch names (R277, R278). -/
def haloOk (e : CheckEnv) (above below : Nat) : Bool :=
  [above, below].all fun i => i == 0xFF || (e.isDesc i && e.pat.haloSlots.any fun x => x.slot == i)

/-- The output of a stitch with a window word is empty: it touches nothing, and neither its rectangle nor its destination is
checked (R261). -/
def CheckEnv.isEmpty (e : CheckEnv) (x : Entry) : Bool :=
  let empty (win map : Nat) : Bool := match e.winWord win, e.desc map with
    | some w, some d => wOp w != 4 && outEmpty w d
    | _, _ => false
  match x.op with
  | .array a => mFeed a.mode == 1 && empty a.window a.act
  | .stem a => empty a.window a.act
  | .window a => empty a.window a.src
  | _ => false

/-- The destination of a convolution: its columns, from CO0 on, and its sizes (R167, R262). -/
def convDestOk (e : CheckEnv) (a : ArrayStitch) (w : WWord) (act : DescWord) : Bool :=
  rectOk w act (if mOutEn a.mode then e.desc a.dst else none) &&
  (!mOutEn a.mode || outEmpty w act || match e.desc a.dst with
    | some d => colsOk a.mode d (wCo0 w) (mCols a.mode + 1)
    | none => false)

/-- An array convolution (R257 to R267). -/
def convOk (e : CheckEnv) (a : ArrayStitch) (act wt : DescWord) : Bool :=
  match e.winWord a.window with
  | none => false
  | some w =>
    windowOk w a.mode act && wOp w == 0 && dRank wt == 4 && dSize wt 0 == dSize act 0 && decide (wCo0 w + mCols a.mode < dSize wt 1) &&
    dSize wt 2 == wKw w && dSize wt 3 == wKh w && decide (segCols w * actBytes a.mode ≤ 32768) && haloOk e a.haloAbove a.haloBelow &&
    a.tokens == rectTokens w && a.passes == (wGn w + 1) * wTh w * wTw w &&
    (let per := groupSize w a.mode act
     decide ((wG0 w + wGn w + 1) * per < dSize act 0) || kvalidOk a.mode (dSize act 0 - per * (wG0 w + wGn w))) &&
    convDestOk e a w act

/-- An array stitch of the core in a slot. -/
def arrayOk (e : CheckEnv) (slot : Nat) (a : ArrayStitch) : Bool :=
  modeOk a.mode && decide (1 ≤ a.tokens) && decide (a.tokens ≤ 256) &&
  decide (a.firstRow + a.tokens ≤ if hasResident e.pat then 1024 else 2048) &&
  e.optDesc a.refAct && e.optDesc a.refWt && (!mCountEn a.mode || e.isDesc a.count) &&
  match e.desc a.act, e.desc a.wt with
  | some act, some wt =>
    dFmt act == mAfmt a.mode && dFmt wt == mWfmt a.mode && ownT0 slot act && ownT0 slot wt &&
    (if mFeed a.mode = 1 then convOk e a act wt else plainOk e a act wt)
  | _, _ => false

/-- A stem stitch (R272 to R274); KVALID covers the remainder of its last pass (log 125). -/
def stemOk (e : CheckEnv) (slot : Nat) (a : ArrayStitch) : Bool :=
  let m := a.mode
  modeOk m && mFeed m == 1 && decide (mCols m ≤ 63) && decide (mAcc m ≤ 1) && mSentRate m == 0 &&
  (((mWfmt m == 0x02 || mWfmt m == 0x03) && (mAfmt m == 0x02 || mAfmt m == 0x03)) || (mWfmt m == 0x01 && mAfmt m == 0x01)) &&
  decide (1 ≤ a.tokens) && decide (a.tokens ≤ 256) && decide (a.firstRow + a.tokens ≤ 256) && (!mCountEn m || e.isDesc a.count) &&
  match e.desc a.act, e.desc a.wt, e.winWord a.window with
  | some act, some wt, some w =>
    dFmt act == mAfmt m && dFmt wt == mWfmt m && ownT0 slot act && ownT0 slot wt && windowOk w m act && wOp w == 1 &&
    (decide (dSize act 0 ≤ 16) || decide (dSize wt 1 ≤ 16)) && dRank wt == 4 && dSize wt 0 == dSize act 0 &&
    decide (wCo0 w + mCols m < dSize wt 1) && dSize wt 2 == wKw w && dSize wt 3 == wKh w && haloOk e a.haloAbove a.haloBelow &&
    decide ((wOr w + 1) * wTh w ≤ 32) && decide (segCols w * (32 * ((dSize act 0 * fmtBits (mAfmt m) / 8 + 31) / 32)) ≤ 16384) &&
    a.tokens == rectTokens w && a.passes == (dSize act 0 * wTw w * wTh w + 127) / 128 &&
    mKvalid m + 1 == dSize act 0 * wTw w * wTh w - 128 * (a.passes - 1) && convDestOk e a w act
  | _, _, _ => false

/-- A pooling or crop-and-resize stitch (R283, R287, R288). -/
def windowStitchOk (e : CheckEnv) (slot : Nat) (a : WindowStitch) : Bool :=
  cvtOk a.cvt.toNat &&
  match e.winWord a.window, e.desc a.src with
  | some w, some map =>
    windowOk w 0 map && decide (2 ≤ wOp w) && ownT0 slot map &&
    (if wOp w = 4 then
      match e.desc a.box, e.desc a.dst with
      | some b, some dst => ownT0 slot dst && dFmt b == 0x0E && dSize b 0 == 8 && dSpace b != 0 && dSize dst 1 == wRw w + 1 &&
          dSize dst 2 == wRh w + 1 && decide (min (wImg w + wOc w + 1) (dSize b 1) ≤ dSize dst 3)
      | _, _ => false
     else dFmt map != 0x0B && dFmt map != 0x0C && haloOk e a.haloAbove a.haloBelow &&
      (outEmpty w map || match e.desc a.dst with
        | some dst => ownT0 slot dst && rectOk w map (some dst)
        | none => false))
  | _, _ => false

/-! ## Vector stitches (R221 to R248) -/

def vopKnown (v : Nat) : Bool :=
  (decide (0x01 ≤ v) && decide (v ≤ 0x0D)) || (decide (0x10 ≤ v) && decide (v ≤ 0x1B)) || (decide (0x20 ≤ v) && decide (v ≤ 0x29)) ||
  (decide (0x30 ≤ v) && decide (v ≤ 0x36)) || v == 0x40 || v == 0x41 || v == 0x48 || (decide (0x50 ≤ v) && decide (v ≤ 0x55)) ||
  (decide (0x60 ≤ v) && decide (v ≤ 0x64)) || v == 0x70

/-- MOD values that Table 3 gives. -/
def modOk (v m : Nat) : Bool :=
  if v = 0x0C then decide (m ≤ 5)
  else if v = 0x40 || v = 0x41 then decide (m % 4 ≤ 2) && !m.testBit 2
  else if v = 0x48 then decide (m ≤ 7)
  else m == 0

/-- Every dimension of `a` equals `b`'s or is 1 (R225). -/
def shapeFits (a b : List Nat) : Bool := (a.zip b).all fun p => p.1 == p.2 || p.1 == 1

/-- A shape with the dimensions of a set of axes made 1. -/
def shapeCut (axes : Nat) (a : List Nat) : List Nat := (List.range 6).map fun i => if axes.testBit i then 1 else a.getD i 1

/-- SUMTO against Table 4 of ch. 06 and R248. -/
def summaryOk (e : CheckEnv) (slot : Nat) (w : VInstr) (src : List Nat) : Bool :=
  let v := vVop w
  let kind : Option MergeKind :=
    if v = 0x30 || v = 0x31 then some .csum else if v = 0x32 || v = 0x34 then some .max else if v = 0x33 then some .min
    else if v = 0x35 || v = 0x36 || v = 0x0C || v = 0x54 || (0x50 ≤ v && v ≤ 0x53) || v = 0x64 then some .sum else none
  vSumto w == 0 ||
  ((kind.isSome || v == 0x40 || v == 0x41) &&
   (!(decide (0x30 ≤ v) && decide (v ≤ 0x36)) || (List.range 6).all fun i => src.getD i 1 ≤ 1 || (vAxes w).testBit i) &&
   (vSumto w == 1 || (kind.isSome && (e.pat.merges.any fun d => d.num == vMerge w && some d.kind == kind && d.slots.contains slot))))

/-- The shape of what an instruction produces where DST is left out (log 123). -/
def resultShape (w : VInstr) (s : Nat → List Nat) : List Nat :=
  let v := vVop w
  if 0x30 ≤ v && v ≤ 0x36 then shapeCut (vAxes w) (s 0)
  else if v = 0x63 || v = 0x64 then shapeCut 1 (s 0)
  else if v = 0x48 then match vAxis w with | some d => (s 0).set d (vMod w + 1) | none => s 0
  else s 0

/-- The shapes of R225, R235, R240 to R246. -/
def shapesOk (w : VInstr) (dst : List Nat) (s : Nat → List Nat) : Bool :=
  let v := vVop w
  let ax := vAxes w
  let one := (bitsOf 6 ax).length
  if v = 0x0D then true
  else if 0x30 ≤ v && v ≤ 0x36 then dst == shapeCut ax (s 0)
  else if v = 0x40 then dst == s 0
  else if v = 0x41 then dst == s 0 && (s 1 == s 0 || vScalar w != 0)
  else if v = 0x48 then
    one == 1 && !ax.testBit 0 && (match vAxis w with
      | some d => decide (vMod w + 1 ≤ (s 0).getD d 1) && dst == (s 0).set d (vMod w + 1)
      | none => false)
  else if v = 0x50 then
    decide (one ≤ 1) && shapeFits (s 1) dst && (match vAxis w with
      | some d => shapeFits ((s 0).set d 1) dst
      | none => true)
  else if v = 0x51 || v = 0x52 then
    decide (one ≤ 1) && (List.range 3).all fun i => shapeFits (s i) dst
  else if v = 0x53 then one == 1 && shapeFits (s 1) dst && (match vAxis w with | some d => (s 1).getD d 1 == 1 | none => false)
  else if v = 0x54 then shapeFits (s 1) (s 0)
  else if v = 0x55 then
    (match (List.range 6).find? fun i => i != 0 && ax.testBit i with
     | some d => ax / 2 == 2 ^ d / 2 && shapeFits (((s 0).set 0 ((s 0).getD d 1)).set d ((s 0).getD 0 1)) dst
     | none => false)
  else if v = 0x60 || v = 0x61 || v = 0x62 then ax == 1 && dst == s 0 && (vNeeds v).all fun i => shapeFits (s i) (s 0)
  else if v = 0x63 then ax == 1 && dst == shapeCut 1 (s 0)
  else if v = 0x64 then ax == 1 && dst == shapeCut 1 (s 0) && shapeFits (s 1) dst
  else (vNeeds v).all fun i => shapeFits (s i) dst

/-- The formats of R226, R239, R241, R244 and Table 3. -/
def formatsOk (w : VInstr) (dst : Option Nat) (f : Nat → Option Nat) : Bool :=
  let v := vVop w
  let int (i : Option Nat) : Bool := match i with | some x => isInt x | none => true
  let m48 := (dst :: (List.range 3).map f).contains (some 0x0C)
  (v == 0x0A || !m48) &&
  (if 0x20 ≤ v && v ≤ 0x29 then int (f 0) && int (f 1) && int dst
   else if v = 0x41 || (0x50 ≤ v && v ≤ 0x53) then int (f 1)
   else if v = 0x64 then f 1 == some 0x0E || vScalar w != 0
   else if v = 0x70 then f 0 == some 0x00
   else true)

/-- One vector instruction of a stitch of the core in a slot. -/
def vectorOk (e : CheckEnv) (slot : Nat) (w : VInstr) : Bool :=
  let v := vVop w
  let needs := vNeeds v
  let scalar := vScalar w != 0 && needs.contains 1
  let used := (List.range 3).filter fun i => (needs.contains i || (v == 0x48 && i == 1 && vField w 1 != 0xFF)) && !(i == 1 && scalar)
  let named := vDst w != 0xFF && v != 0x70
  let descs := used.filter fun i => !(v == 0x70 && i == 1)
  let shape (i : Nat) : List Nat := if i == 1 && scalar then List.replicate 6 1 else match e.desc (vField w i) with | some d => dSizes d | none => List.replicate 6 1
  let dst := if named then match e.desc (vDst w) with | some d => dSizes d | none => [] else resultShape w shape
  vopKnown v && fld w 20 0 == 0 && vScalar w != 3 && vSumto w != 3 && cvtOk (vCvt w) && modOk v (vMod w) &&
  descs.all (fun i => match e.desc (vField w i) with | some d => ownT0 slot d | none => false) &&
  [vField w 0, vField w 1, vField w 2, vDst w].all (fun i => i == 0xFF || decide (i < e.table.length)) &&
  (v != 0x70 || (match e.table[vSrc1 w]? with | some (.update _) => true | _ => false)) &&
  (!named || (match e.desc (vDst w) with | some d => ownT0 slot d | none => false)) && (v == 0x70 || shapesOk w dst shape) &&
  formatsOk w (if named then (e.desc (vDst w)).map dFmt else none)
    (fun i => if used.contains i then (e.desc (vField w i)).map dFmt else none) &&
  (v != 0x48 || vSrc1 w == 0xFF || (match e.desc (vSrc1 w) with | some d => dSizes d == dst | none => false)) &&
  summaryOk e slot w (shape 0)

/-! ## Attention words (R295, R298, R303) -/

def attnFmt (f : Nat) : Bool := f == 0x01 || f == 0x02 || f == 0x03

/-- The mask descriptor (R298). -/
def maskOk (m : MaskWord) : Bool :=
  decide (kMode m ≤ 3) && fld m 47 3 == 0 && (kMode m != 2 || kG m != 0) && (kMode m != 3 || kW m != 0)

/-- Bytes of the staging area (R303). -/
def stageBytes (a : AWord) (w : Nat) : Nat :=
  2 * (aQrows a + 1) * (aDh a + 4) * 4 + (aQrows a + 1) * 128 * 2 + 4 * 128 * (aDh a + 1) * w

/-- Keys and values of a walk by its source (R294). -/
def keysOk (e : CheckEnv) (slot : Nat) (a : AWord) : Bool :=
  if aSrc a = 2 then match seqBinding e.table[aSeq a]? with
    | some q => !e.load || e.spaces.any fun k => k.1 == q.1
    | none => false
  else match e.desc (aK a), e.desc (aV a) with
    | some k, some v =>
      attnFmt (dFmt k) && attnFmt (dFmt v) && dSize k 0 == aDh a + 1 && dSize v 0 == aDh a + 1 && dRows k == dRows v &&
      (if aSrc a = 0 then ownT0 slot k && ownT0 slot v else dSpace k == 0 && dSpace v == 0)
    | _, _ => false

def walkOk (e : CheckEnv) (slot : Nat) (a : AWord) : Bool :=
  let fwd := !aDir a
  let kw := if aSrc a = 2 then (((seqBinding e.table[aSeq a]?).bind fun q => e.spaces.find? fun k => k.1 == q.1).map fun k => fmtBits k.2 / 8).getD 1
    else match e.desc (aK a) with | some k => fmtBits (dFmt k) / 8 | none => 1
  let out (i : Nat) : Bool := match e.desc i with | some d => ownT0 slot d && dSize d 0 == aDh a + 1 | none => false
  let grad (i : Nat) : Bool := match e.desc i with
    | some d => dFmt d == 0 && dSize d 0 == aDh a + 1 && (dSpace d == 0 || ownT0 slot d)
    | none => false
  fld a 319 287 == 0 && fld a 263 0 == 0 && aSrc a != 3 && decide (aDh a ≤ 127) &&
  fFinite (aScale a) && Val.lt .zero (f32 (aScale a)) &&
  attnFmt (aPfmt a) && (fwd || attnFmt (aDsfmt a)) && cvtOk (aPcvt a) && cvtRound (aPcvt a) != .sr && cvtScaleMode (aPcvt a) == 0 && cvtOk (aOcvt a) &&
  (match e.desc (aQ a) with
   | some q => attnFmt (dFmt q) && dSize q 0 == aDh a + 1 && decide (dRows q ≤ aQrows a + 1) && ownT0 slot q
   | none => false) &&
  keysOk e slot a && out (aO a) && e.isDesc (aStats a) &&
  (match e.table[aMask a]? with | some (.mask m) => maskOk m | _ => false) &&
  (fwd || (out (aDo a) && grad (aDq a) && grad (aDk a) && grad (aDv a))) &&
  (match e.desc (aStage a) with | some d => ownT0 slot d && decide (stageBytes a kw ≤ dCapacity d) | none => false)

/-! ## Calls (R467, R468) -/

/-- Bindings that a KIND needs. -/
def callNeeds (w : BitVec 512) : List Nat :=
  let kind := fld w 394 392
  [fld w 479 472, fld w 471 464] ++ (if kind ≤ 3 then [fld w 463 456] else []) ++
  (if 3 ≤ kind then [fld w 455 448, fld w 447 440] else []) ++
  (if 3 ≤ kind && fld w 391 390 == 1 then [fld w 439 432] else [])

/-- A source or destination that a call of a slot may name. -/
def callReach (slot : Nat) (d : DescWord) : Bool := dSpace d == 0 || ownT0 slot d

def callOk (e : CheckEnv) (slot : Nat) (w : BitVec 512) : Bool :=
  let kind := fld w 394 392
  decide (kind ≤ 4) && fld w 386 0 == 0 && decide (fld w 391 390 ≤ 1) &&
  (kind != 4 || fld w 463 456 == 0xFF) && (decide (kind < 3) || fld w 431 416 != 0) &&
  (callNeeds w).all e.isDesc &&
  [fld w 479 472, fld w 471 464].all fun i => match e.desc i with | some d => callReach slot d | none => false

/-! ## Fences -/

/-- A fence condition word (R251, R252). -/
def condOk (cond : W64) (entries : Nat) : Bool := fld cond 20 18 != 7 && decide (fld cond 15 0 < entries)

/-! ## Ranges of the stitches of a list (R172, R254, R468, R510) -/

def touches (e : CheckEnv) (slot : Nat) (x : Entry) : List Span × List Span :=
  if e.isEmpty x then ([], []) else entrySpans e.tensor e.attn (fun b => firstColumn (e.winWord b)) slot x

/-- Bits of elements first to first + n − 1 of a bank tensor, with its block scales. -/
def bankBits (first n : Nat) (d : DescWord) : List Span :=
  (runBytes { d := d } first n).map fun b => (8 * b.1, 8 * b.2)

/-- What a stitch reads and writes of the unified range: a walk's keys, values and statistics, reference copies, and the halves
of the bank that an UPDATE names, CUR as it stands at the check (R194, R294; log 146). -/
def farTouches (e : CheckEnv) (x : Entry) : List Span × List Span :=
  let far (i : Nat) : List Span := match e.tensor i with | some t => farSpans t | none => []
  match x.op with
  | .array a => ([a.refAct, a.refWt].flatMap far, [])
  | .walk b => match e.attn b with
    | some a =>
      let keys := if aSrc a = 1 then [aK a, aV a] else []
      let grads := [aDq a, aDk a, aDv a]
      if aDir a then ((aStats a :: keys).flatMap far, grads.flatMap far) else (keys.flatMap far, far (aStats a))
    | none => ([], [])
  | .vector is => is.foldl (fun (r : List Span × List Span) w =>
      if vVop w != 0x70 then r else match e.table[vSrc1 w]?, e.desc (vSrc0 w) with
        | some (.update u), some g => match tget? e.banks (uBank u) with
          | some b =>
            let bits := bankBits (vImm w).toNat (dCount g)
            let side (k : Nat) : List DescWord := [half k b.w, half k b.m, half k b.v]
            (r.1 ++ (side b.cur).flatMap bits,
             r.2 ++ (side (1 - b.cur) ++ if b.work then [half (1 - b.cur) b.k] else []).flatMap bits)
          | none => r
        | _, _ => r) ([], [])
  | _ => ([], [])

/-- A write span within the save footprint (R510). -/
def inFootprint (pat : PatternImage) (sp : Span) : Bool :=
  let space := sp.1 / 8 / 2 ^ 64
  let fin := (sp.1 % 2 ^ 67 + sp.2 + 7) / 8
  if 0x200 ≤ space && space < 0x300 then decide (fin ≤ 65536 * pat.spFoot)
  else if 0x300 ≤ space && space < 0x400 then decide (fin ≤ 512 * (64 * pat.accFoot))
  else true

def stitchKind (x : Entry) : Bool := isStitch x || match x.op with | .stem _ => true | _ => false

/-- A stitch reads nothing that it writes, neither by its operands nor by the ranges that its header declares (R172), and writes
inside the footprint. -/
def rangesOk (e : CheckEnv) (slot : Nat) (x : Entry) : Bool :=
  if !stitchKind x then true else
    let t := touches e slot x
    !anyMeet (t.1 ++ rangeSpans x.reads) (t.2 ++ rangeSpans x.writes) && t.2.all (inFootprint e.pat)

/-- A marked pair of stitches overlaps in no write. -/
def pairOk (e : CheckEnv) (slot : Nat) (es : List Entry) (x : Entry) : Bool :=
  match x.pair with
  | none => true
  | some n => match es[n]? with
    | none => false
    | some y =>
      let a := touches e slot x
      let b := touches e slot y
      !anyMeet a.2 (b.1 ++ b.2) && !anyMeet b.2 (a.1 ++ a.2)

/-- Between a call and its fence no stitch touches its tensors (R468). -/
def callGuarded (e : CheckEnv) (slot : Nat) (es : List Entry) (n : Nat) (w : BitVec 512) : Bool :=
  let after := (es.drop (n + 1)).takeWhile fun x => match x.op with
    | .callFence k => k != fld w 495 480
    | _ => true
  let far (i : Nat) : List Span := match e.tensor i with | some t => farSpans t | none => []
  let src := bindSpans e.tensor (fld w 479 472) ++ far (fld w 479 472)
  let dst := putSpans e.tensor (fld w 471 464) ++ far (fld w 471 464)
  after.all fun x => !stitchKind x ||
    (let t := touches e slot x
     let u := farTouches e x
     !anyMeet (t.2 ++ u.2) src && !anyMeet (t.1 ++ t.2 ++ u.1 ++ u.2) dst)

end Sys2Proof.Machine
end

