-- ==== Sys2Proof/Machine/Patterns.lean ====
section
/-!
DEFINITION. Patterns and jobs (R508 to R515, R530, R531): what a pattern load checks of its header and entries, where a
job's quads put its slots, and their commands.
-/
namespace Sys2Proof.Machine

/-! ## The header and its scheduling block (R509, R522, R525) -/

def semDeclared (pat : PatternImage) (n : Nat) : Bool := pat.sems.any fun m => m.1 == n

def distinct (l : List Nat) : Bool := l.eraseDups.length == l.length

def semsOk (pat : PatternImage) : Bool :=
  decide (pat.sems.length ≤ 448) && pat.sems.all (fun m => decide (m.1 ≤ 447) && decide (m.2 ≤ 65535)) && distinct (pat.sems.map Prod.fst)

/-- NP windows: in their list, none empty, none meeting another on its slot, none with a lock acquire inside. -/
def windowsOk (pat : PatternImage) : Bool :=
  decide (pat.npWindows.length ≤ 64) &&
  pat.npWindows.all (fun w =>
    let es := pat.lists.getD w.slot []
    decide (w.slot < pat.cores) && decide (1 ≤ w.bound) && decide (w.bound ≤ 20) && decide (w.first ≤ w.last) && decide (w.last < es.length) &&
    ((es.drop w.first).take (w.last + 1 - w.first)).all fun e => match e.op with | .acquire _ _ => false | _ => true) &&
  (List.range pat.npWindows.length).all fun i => (List.range i).all fun j =>
    match pat.npWindows[i]?, pat.npWindows[j]? with
    | some a, some b => a.slot != b.slot || decide (a.last < b.first) || decide (b.last < a.first)
    | _, _ => true

def mergesOk (pat : PatternImage) : Bool :=
  pat.merges.all (fun m => decide (m.num ≤ 63) && m.slots.all (· < pat.cores)) && distinct (pat.merges.map (·.num))

def headerOk (pat : PatternImage) : Bool :=
  decide (1 ≤ pat.cores) && decide (pat.cores ≤ 192) && decide (1 ≤ pat.lanes) && decide (pat.lanes ≤ 8) && !pat.schedRsv &&
  decide (pat.accFoot ≤ if hasResident pat then 16 else 32) && decide (pat.spFoot ≤ 64) && pat.lists.length == pat.cores &&
  semsOk pat && windowsOk pat && mergesOk pat

/-! ## Entries -/

def isWaitOn (sem : Nat) (x : Entry) : Bool := match x.op with | .wait m => m == sem | _ => false
def isPutOf (slot : Nat) (x : Entry) : Bool := match x.op with | .haloPut _ b _ _ => b == slot | _ => false

/-- Since the last put of its slot, the lane of a halo put has waited on the slot's FREE; a halo fence of the slot precedes each
stitch that reads it in that stitch's lane (R282; log 92). -/
def haloOrder (pat : PatternImage) (es : List Entry) (n : Nat) (x : Entry) : Bool :=
  let before := ((es.take n).filter fun y => y.lane == x.lane).reverse
  (match x.op with
   | .haloPut _ b _ _ => (before.takeWhile fun y => !isPutOf b y).any fun y =>
      (pat.haloSlots.filter fun k => k.slot == b).any fun k => isWaitOn k.free y
   | _ => true) &&
  (haloReads x).all fun b => before.any (isFenceOf b)

/-- The halo slots of a header: distinct ones, each with its rows in a scratchpad of a pattern slot or a map buffer, and with
semaphores of its own that start at 0 and 1 (R278). -/
def haloSlotsOk (pat : PatternImage) (e : CheckEnv) : Bool :=
  distinct (pat.haloSlots.map (·.slot)) && distinct (pat.haloSlots.flatMap fun k => [k.ready, k.free]) &&
  pat.haloSlots.all fun k => pat.sems.contains (k.ready, 0) && pat.sems.contains (k.free, 1) &&
    match e.desc k.slot with
    | some d => dSpace d == 1 || dSpace d == 3
    | none => false

/-- A pattern with resident rows addresses only rows 0 to 1,023 of the accumulator stores (R164). -/
def residentAddrsOk (e : CheckEnv) : Bool :=
  !hasResident e.pat || e.table.all fun b => match b with
    | .desc d => dSpace d != 2 || decide (dAddr d + dExtent d ≤ 512 * 1024)
    | _ => true

def sameSizes (a b : Option DescWord) : Bool :=
  match a, b with
  | some x, some y => dSizes x == dSizes y
  | _, _ => false

/-- Draws by element reach no offset of 2^48 or more (R209). -/
def drawsOk (d : Option DescWord) : Bool := match d with | some d => decide (dCount d ≤ 2 ^ 48) | none => true

/-- A codec call of a pattern (R410, R411). -/
def codecOk (s : State) (e : CheckEnv) (b : Nat) : Bool :=
  match e.table[b]? with
  | some (.act w) =>
    match e.desc (awSrc w), e.desc (awDst w), e.desc (awRef w) with
    | some src, some dst, some ref =>
      (awDecode w || e.isDesc (awBound w)) &&
      (let bound := (e.desc (awBound w)).getD 0
       actWordOk w src dst ref bound (semDeclared e.pat) && (awDecode w || (boundsOf s bound).all (· ≤ 15)))
    | _, _, _ => false
  | some (.words ws) => decide (6 ≤ ws.length)
  | _ => false

/-- One entry of a slot's list by itself. -/
def entryOk (s : State) (e : CheckEnv) (slot : Nat) (es : List Entry) (n : Nat) (x : Entry) : Bool :=
  let pat := e.pat
  let lockOk (l : Nat) : Bool := decide (448 ≤ l) && decide (l ≤ 511) && bitAt pat.locks (l - 448)
  decide (x.lane < pat.lanes) && (!stitchKind x || decide (x.cycles ≤ 8192)) && haloOrder pat es n x &&
  (match x.fate with | some f => decide (f.1 ≤ 4) | none => true) &&
  rangesOk e slot x && pairOk e slot es x &&
  match x.op with
  | .array a => arrayOk e slot a
  | .stem a => stemOk e slot a
  | .window w => windowStitchOk e slot w
  | .vector is => decide (1 ≤ is.length) && decide (is.length ≤ 64) && is.all (vectorOk e slot)
  | .walk b => match e.attn b with | some a => walkOk e slot a | none => false
  | .fence c => condOk c es.length
  | .wait m => semDeclared pat m
  | .signal m => semDeclared pat m
  | .acquire l b => lockOk l && decide (1 ≤ b) && decide (b ≤ 65535)
  | .release l => lockOk l
  | .mover a b cvt sem pre =>
    sameSizes (e.desc a) (e.desc b) && cvtOk cvt.toNat && (cvtRound cvt.toNat != .sr || drawsOk (e.desc b)) && (match sem with | some m => semDeclared pat m | none => true) &&
    (match pre with | some q => decide (q.layer < 65536) && decide (q.need < es.length) && decide (q.slack ≤ 65535) | none => true)
  | .haloPut a b _ r => e.isDesc a && pat.haloSlots.any (fun k => k.slot == b && k.ready == r)
  | .haloFence b _ r => pat.haloSlots.any (fun k => k.slot == b && k.ready == r) && (match e.desc b with | some d => ownT0 slot d | none => false)
  | .call b => match e.table[b]? with | some (.call w) => callOk e slot w && callGuarded e slot es n w | _ => false
  | .callFence _ => true
  | .amaxFence d m => e.isDesc d && (match m with | some k => pat.merges.any (fun q => q.num == k) | none => true)
  | .codec b => codecOk s e b
  | .append q _ k v => e.isDesc k && e.isDesc v && pat.appends.any fun d => d.seq == q

/-- Every call word that the lists name; a call index names one call (R467). -/
def patternCalls (e : CheckEnv) : List Nat :=
  ((e.pat.lists.flatMap fun es => es.filterMap fun x => match x.op with | .call b => some b | _ => none).eraseDups).filterMap fun (b : Nat) =>
    match e.table[b]? with | some (.call w) => some (fld w 495 480) | _ => none

/-- Append entries of one binding: each layer of its space once, with exactly the declared tokens (R318). -/
def appendsOk (s : State) (p : Nat) (e : CheckEnv) (d : AppendDecl) : Bool :=
  let ents := e.pat.lists.flatMap fun es => es.filterMap fun x => match x.op with
    | .append q layer k v => if q == d.seq then some (layer, k, v) else none
    | _ => none
  match (seqBinding e.table[d.seq]?).bind fun q => getSpace s p q.1 with
  | none => false
  | some kv =>
    let layers := ents.map (·.1)
    layers.length == kv.layers && (List.range kv.layers).all layers.contains && e.isDesc d.tags &&
    ents.all fun n => [n.2.1, n.2.2].all fun i => match e.desc i with
      | some t => dSize t 0 == kv.dh && dRows t == kv.kvHeads * d.tokens
      | none => false

/-- What a load refuses with REFUSED_BAD_DESCRIPTOR. -/
def patternFormOk (s : State) (p : Nat) (e : CheckEnv) : Bool :=
  headerOk e.pat &&
  e.table.all (fun b => match b with | .desc d => descCheck (slotOk e.pat.cores) d | _ => true) &&
  ((List.range e.pat.lists.length).zip e.pat.lists).all (fun l =>
    ((List.range l.2.length).zip l.2).all fun n => entryOk s e l.1 l.2 n.1 n.2) &&
  distinct (patternCalls e) && e.pat.appends.all (appendsOk s p e) &&
  haloSlotsOk e.pat e && residentAddrsOk e && (e.pat.holds ++ e.pat.digestsIn ++ e.pat.digestsOut).all e.isDesc && e.optDesc e.pat.sentinelArea && e.optDesc e.pat.residencyArea

/-- Bindings of the unified range that entries write. -/
def writtenBindings (e : CheckEnv) : List Nat :=
  (e.pat.lists.flatMap fun es => es.flatMap fun x => match x.op with
    | .mover _ b _ _ _ => [b]
    | .array a => if mCountEn a.mode then [a.count] else []
    | .stem a => if mCountEn a.mode then [a.count] else []
    | .amaxFence d _ => [d]
    | .call b => match e.table[b]? with
      | some (.call w) => [fld w 471 464, fld w 439 432] ++ (if fld w 394 392 = 3 then [fld w 463 456] else [])
      | _ => []
    | .codec b => match e.table[b]? with
      | some (.act w) => [awDst w, awRef w]
      | _ => []
    | .walk b => match e.attn b with
      | some a => if aDir a then [aDq a, aDk a, aDv a] else [aStats a]
      | none => []
    | _ => []) ++ [e.pat.sentinelArea, e.pat.residencyArea]

/-- What a load refuses with REFUSED_NOT_PERMITTED: pages of others, and writes to read-only objects (R98, R373). -/
def patternPermitted (s : State) (p : Nat) (e : CheckEnv) : Bool :=
  e.table.all (fun b => match b with | .desc d => (unifiedSpans d).all (fun q => pagesOwned s p q.1 q.2) | _ => true) &&
  (writtenBindings e).all fun i => match e.desc i with | some d => !readOnlyDesc s d | none => true

/-- The KV spaces of a partition with their formats. -/
def spacesOf (x : Partition) : List (Nat × Nat) := x.spaces.map fun k => (k.1, k.2.format)

/-- The load's checks in order. -/
def needPattern {α : Type} (s : State) (p : Nat) (e : CheckEnv) (k : Except Nat α) : Except Nat α :=
  need (patternFormOk s p e) 0x0202 (need (patternPermitted s p e) 0x0205 k)

/-! ## Where the slots lie (R97, R98, R223, R627) -/

/-- Bindings that a stitch names. -/
def stitchBindings (x : Entry) : List Nat :=
  match x.op with
  | .array a => [a.act, a.wt, a.dst, a.count, a.refAct, a.refWt, a.haloAbove, a.haloBelow]
  | .stem a => [a.act, a.wt, a.dst, a.count, a.haloAbove, a.haloBelow]
  | .window w => [w.src, w.box, w.dst, w.haloAbove, w.haloBelow]
  | .vector is => is.flatMap fun w => vReads w ++ vWrites w
  | _ => []

/-- Map-buffer operands of stitches lie on the die of the core that runs them. -/
def slotsOnDie (e : CheckEnv) (cores : List Nat) : Bool :=
  ((List.range e.pat.lists.length).zip e.pat.lists).all fun l =>
    let die := dieOfCore (cores.getD l.1 0)
    ((l.2.filter fun x => !e.isEmpty x).flatMap stitchBindings).all fun i => match e.desc i with
      | some d => (dSpace d != 3 || dieOfCore (cores.getD (dCore d) 0) == die) &&
          (!scaled (dFmt d) || dScaleSpace d != 3 || dieOfCore (cores.getD (dScaleCore d) 0) == die)
      | none => true

/-- Every descriptor's bytes may be used where the pattern's cores run. -/
def tablePermitted (s : State) (p : Nat) (x : Partition) (e : CheckEnv) (cores : List Nat) : Bool :=
  e.table.all fun b => match b with
    | .desc d => descPermitted s p x x.mapbuf (fun c => cores.getD c 0) d
    | _ => true

def needPlacement {α : Type} (s : State) (p : Nat) (x : Partition) (e : CheckEnv) (cores : List Nat) (k : Except Nat α) : Except Nat α :=
  need (slotsOnDie e cores) 0x0202 (need (tablePermitted s p x e cores) 0x0205 k)

/-! ## Pattern commands -/

def loadBody (f : Nat) (hdr : Hdr) (desc : DescWord) (image : PatternImage) : Body := fun s =>
  withPart f hdr s fun p x =>
    needUnified s p x desc (needPattern s p { pat := image, table := image.bindings, spaces := spacesOf x, banks := x.banks, load := true }
      (have' (tfree x.patterns 256) 0x0206 fun n =>
        long f hdr (some p) 2 .none (modPart p (fun x => { x with patterns := tset x.patterns n image }) s) (w64 n)
          (fun h s => finish h 0 0 s)))

def execPatternLoad (fn : Fn) (hdr : Hdr) (desc : DescWord) (image : PatternImage) (s : State) : Host.Outcome State Fault Refusal :=
  message fn hdr 0x0200 false (loadBody fn hdr desc image) s

def unloadBody (f : Nat) (hdr : Hdr) (pattern : W64) : Body := fun s =>
  withPart f hdr s fun p x =>
    have' (tget? x.patterns pattern.toNat) 0x0201 fun _ =>
      need (!(x.jobs.any fun j => j.2.pattern == pattern.toNat)) 0x0205
        (.ok { st := modPart p (fun x => { x with patterns := tdel x.patterns pattern.toNat }) s })

def execPatternUnload (fn : Fn) (hdr : Hdr) (pattern : W64) (s : State) : Host.Outcome State Fault Refusal :=
  message fn hdr 0x0201 false (unloadBody fn hdr pattern) s

/-! ## Job commands -/

/-- a is within b. -/
def within (a b : Nat) : Bool := (a &&& b) == a

def sharesSem (a b : PatternImage) : Bool := a.sems.any fun m => semDeclared b m.1

def weightsOk (weight slice : W64) : Bool :=
  decide (1 ≤ weight.toNat) && decide (weight.toNat ≤ 255) && decide (1 ≤ slice.toNat) && decide (slice.toNat ≤ 64)

/-- REFUSED_BAD_MESSAGE of JOB_CREATE (R508, R627). -/
def jobFormOk (x : Partition) (pat : PatternImage) (cls quads banks weight slice : W64) : Bool :=
  let q := quads.toNat
  decide (cls.toNat ≤ 3) && q != 0 && within q x.quads && within banks.toNat x.mapbuf && weightsOk weight slice &&
  (cls != 0 || (within q x.c0Quads && !(x.jobs.any fun e => e.2.cls == 0 && meets e.2.quads.toNat q))) &&
  decide (pat.cores ≤ 4 * (bitsOf 48 q).length)

/-- REFUSED_NO_RESOURCE of JOB_CREATE (R508). -/
def jobRoom (x : Partition) (pat : PatternImage) (cls banks : W64) : Bool :=
  let b := banks.toNat
  !(x.jobs.any fun e => meets e.2.banks.toNat b) && (if cls = 0 then within b x.c0Mapbuf else !meets b x.c0Mapbuf) &&
  !(x.jobs.any fun e => match tget? x.patterns e.2.pattern with | some q => sharesSem pat q | none => false)

/-- The context object, which the descriptor's address names: class PIN_T1, and from that address on large enough (R509). -/
def contextOk (s : State) (x : Partition) (pat : PatternImage) (d : DescWord) : Bool :=
  match (pageEntry s (dAddr d / pageSize)).bind fun e => tget? x.objects e.object with
  | some o => o.cls == 0 && decide (dAddr d + contextBytes pat ≤ pageSize * (o.first + o.pages))
  | none => false

def createBody (f : Nat) (hdr : Hdr) (pattern cls quads banks weight slice : W64) (context : DescWord) : Body := fun s =>
  withPart f hdr s fun p x =>
    have' (tget? x.patterns pattern.toNat) 0x0201 fun pat =>
      need (jobFormOk x pat cls quads banks weight slice) 0x0201
        (needUnified s p x context (need (contextOk s x pat context) 0x0202 (need (!readOnlyDesc s context) 0x0205
          (let j : Job := { pattern := pattern.toNat, cls := cls.toNat, quads := quads, banks := banks, weight := weight.toNat, slice := slice.toNat, ctx := context }
           needPlacement s p x { pat := pat, table := pat.bindings, spaces := spacesOf x, banks := x.banks } (jobCores s j)
            (need (jobRoom x pat cls banks) 0x0206
              (have' (tfree x.jobs 64) 0x0206 fun n =>
                .ok { st := modPart p (fun x => { x with jobs := tset x.jobs n j }) s, result := w64 n }))))))

def execJobCreate (fn : Fn) (hdr : Hdr) (pattern cls quads banks weight slice : W64) (context : DescWord) (s : State) :
    Host.Outcome State Fault Refusal := message fn hdr 0x0210 false (createBody fn hdr pattern cls quads banks weight slice context) s

/-- A step of the job that is queued, running, held or stopped. -/
def jobHasStep (x : Partition) (j : Nat) : Bool := x.steps.any fun e => e.2.job == j && (e.2.state == .queued || stepHolds e.2)

def destroyBody (f : Nat) (hdr : Hdr) (job : W64) : Body := fun s =>
  withPart f hdr s fun p x =>
    have' (tget? x.jobs job.toNat) 0x0201 fun _ =>
      need (!jobHasStep x job.toNat) 0x0205
        (.ok { st := modPart p (fun x => { x with jobs := tdel x.jobs job.toNat, discardedEpochs := x.discardedEpochs.filter fun d => d.1 != job.toNat }) s })

def execJobDestroy (fn : Fn) (hdr : Hdr) (job : W64) (s : State) : Host.Outcome State Fault Refusal :=
  message fn hdr 0x0211 false (destroyBody fn hdr job) s

/-- JOB_SET: the change waits for the next tick edge; no job moves into or out of class 0 (R515; log 94). -/
def jobSetBody (f : Nat) (hdr : Hdr) (job cls weight slice : W64) : Body := fun s =>
  withPart f hdr s fun p x =>
    have' (tget? x.jobs job.toNat) 0x0201 fun j =>
      need (weightsOk weight slice && decide (cls.toNat ≤ 3)) 0x0201
        (need ((cls == 0) == (j.cls == 0)) 0x0205
          (.ok { st := modJob p job.toNat (fun j => { j with nextSet := some (cls.toNat, weight.toNat, slice.toNat) }) s,
                 result := s.steward.tick + 1 }))

def execJobSet (fn : Fn) (hdr : Hdr) (job cls weight slice : W64) (s : State) : Host.Outcome State Fault Refusal :=
  message fn hdr 0x0212 false (jobSetBody fn hdr job cls weight slice) s

end Sys2Proof.Machine
end

