-- ==== Sys2Proof/Machine/Submit.lean ====
section
/-!
DEFINITION. Submitting steps (R49, R54, R192, R195, R319, R409, R467, R530), fast-path slots (R37, R38, R90 to R93) and
replay (R217 to R220).
-/
namespace Sys2Proof.Machine

/-! ## What a submission checks -/

/-- The table that a submission brings, or the image's. -/
def submitEnv (x : Partition) (pat : PatternImage) (table : List Binding) : CheckEnv :=
  { pat := pat, table := if table.isEmpty then pat.bindings else table, spaces := spacesOf x, banks := x.banks }

/-- Call words that the pattern can issue. -/
def envCalls (e : CheckEnv) : List CallWord :=
  ((e.pat.lists.flatMap fun es => es.filterMap fun x => match x.op with | .call b => some b | _ => none).eraseDups).filterMap fun (b : Nat) =>
    match e.table[b]? with | some (.call w) => some w | _ => none

/-- Update instructions of the pattern: descriptor binding, gradient binding, first element. -/
def envUpdates (e : CheckEnv) : List (Nat × Nat × Nat) :=
  e.pat.lists.flatMap fun es => es.flatMap fun x => match x.op with
    | .vector is => is.filterMap fun w => if vVop w = 0x70 then some (vSrc1 w, vSrc0 w, (vImm w).toNat) else none
    | _ => []

/-- An update descriptor at submission (R192). -/
def updateBound (x : Partition) (e : CheckEnv) (u : UWord) : Bool :=
  updateFormOk u && (tget? x.banks (uBank u)).isSome &&
  (uPeloton u == 0xFFFF || (envCalls e).any fun w => cwPel w == uPeloton u && cwNorm w && decide (cwKind w ≤ 1))

/-- Blocks (first element, elements) lie one after another from an element on. -/
def insertBlock (a : Nat × Nat) : List (Nat × Nat) → List (Nat × Nat)
  | [] => [a]
  | b :: r => if a.1 ≤ b.1 then a :: b :: r else b :: insertBlock a r

def contiguous : Nat → List (Nat × Nat) → Option Nat
  | n, [] => some n
  | n, b :: r => if b.1 = n then contiguous (n + b.2) r else none

/-- Update stitches cover each bank that they name exactly once (R195). -/
def coverageOk (x : Partition) (e : CheckEnv) : Bool :=
  let ups : List (Nat × Nat × Nat) := (envUpdates e).filterMap fun (u : Nat × Nat × Nat) => match e.table[u.1]?, e.desc u.2.1 with
    | some (.update w), some d => some (uBank w, u.2.2, dCount d)
    | _, _ => none
  (ups.map (·.1)).eraseDups.all fun b => match tget? x.banks b with
    | some k => contiguous 0 (((ups.filter fun u => u.1 == b).map (·.2)).foldr insertBlock []) == some k.elements
    | none => false

/-- The chunk lengths that a call's table holds at submission; a table of T0 is written by the step itself (log 140). -/
def lensAtSubmit (s : State) (d : DescWord) : Option (List Nat) :=
  if dSpace d = 0 then some ((cmdTensor d).codes s) else none

/-- A chunk table cuts a tensor: its lengths sum to the tensor's count, and each but the last is a multiple of the block
(R474, R501). -/
def chunksFit (lens : List Nat) (total unit : Nat) : Bool :=
  lens.sum == total && lens.dropLast.all fun x => unit == 0 || x % unit == 0

/-- The exchange of the pattern that a return answers: the same peloton, assignments, capacities and policy, and a destination
laid out like the return's source (R500). -/
def answersExchange (e : CheckEnv) (w x : CallWord) : Bool :=
  cwKind x == 3 && cwPel x == cwPel w && cwRank x == cwRank w && cwSlot x == cwSlot w && cwCap x == cwCap w &&
  cwOvfCap x == cwOvfCap w && cwOvfPolicy x == cwOvfPolicy w &&
  match e.desc (cwDst x), e.desc (cwSrc w) with
  | some a, some b => dFmt a == dFmt b && dSizes a == dSizes b
  | _, _ => false

/-- The rules of a call that depend on its peloton (R467, R474, R475, R499 to R501). -/
def callBound (s : State) (q : Peloton) (e : CheckEnv) (w : CallWord) : Bool :=
  let n := pelN q
  let kind := cwKind w
  let fmt (i : Nat) : Nat := match e.desc i with | some d => dFmt d | none => 0x1F
  let cnt (i : Nat) : Nat := match e.desc i with | some d => dCount d | none => 0
  let chunks := fmt (cwChunks w) == 0x0E && cnt (cwChunks w) == if kind = 3 then 2 * n else n
  let rows (i : Nat) : Nat := match e.desc i with | some d => dSize d 1 | none => 0
  let width (i : Nat) : Nat := match e.desc i with | some d => dSize d 0 | none => 0
  let lens (p : List Nat → Bool) : Bool := ((e.desc (cwChunks w)).bind (lensAtSubmit s)).all p
  match kind with
  | 0 => chunks && decide (fmt (cwSrc w) ≤ 1) && (decide (fmt (cwDst w) ≤ 1) || fmt (cwDst w) == 0x04) && cnt (cwSrc w) == cnt (cwDst w) &&
      lens fun l => chunksFit l (cnt (cwSrc w)) 32
  | 1 => chunks && decide (fmt (cwSrc w) ≤ 1) && (decide (fmt (cwDst w) ≤ 1) || fmt (cwDst w) == 0x04) &&
      lens fun l => chunksFit l (cnt (cwSrc w)) 32 && cnt (cwDst w) == l.getD (pelRank q) 0
  | 2 => chunks && fmt (cwSrc w) == pelGin q && fmt (cwDst w) == pelGop q &&
      lens fun l => chunksFit l (cnt (cwDst w)) (blockLen (pelGin q)) && cnt (cwSrc w) == l.getD (pelRank q) 0
  | 3 => chunks && pelVcExc q != 0xF && fmt (cwRank w) == 0x0E && fmt (cwSlot w) == 0x0E && cnt (cwRank w) == cnt (cwSlot w) &&
      fmt (cwDst w) == fmt (cwSrc w) && width (cwDst w) == width (cwSrc w) && decide (n * cwCap w ≤ rows (cwDst w))
  | _ => pelVcExc q != 0xF && fmt (cwRank w) == 0x0E && fmt (cwSlot w) == 0x0E && cnt (cwRank w) == cnt (cwSlot w) &&
      fmt (cwDst w) == fmt (cwSrc w) && width (cwDst w) == width (cwSrc w) && decide (n * cwCap w ≤ rows (cwSrc w)) &&
      (envCalls e).any (answersExchange e w)

/-- Attention words that the pattern walks. -/
def envWalks (e : CheckEnv) : List AWord :=
  e.pat.lists.flatMap fun es => es.filterMap fun x => match x.op with | .walk b => e.attn b | _ => none

/-- A step names only pelotons that the partition has formed, and walks only sequences that are open and not held (R467, R310,
R324). -/
def namesKnown (s : State) (p : Nat) (x : Partition) (e : CheckEnv) : Bool :=
  (envCalls e).all (fun w => (tget? x.pelotons (cwPel w)).isSome) &&
  (envWalks e).all fun a => (aRing a == 0xFFFF || (tget? x.pelotons (aRing a)).isSome) &&
    (aSrc a != 2 || match (seqBinding e.table[aSeq a]?).bind fun q => (getSpace s p q.1).bind fun kv => tget? kv.seqs q.2 with
      | some q => q.state == 1
      | none => false)

/-- Everything that a submission refuses with REFUSED_BAD_DESCRIPTOR beyond the pattern's own checks. -/
def submitFormOk (s : State) (x : Partition) (e : CheckEnv) : Bool :=
  e.table.all (fun b => match b with | .update u => updateBound x e u | _ => true) && coverageOk x e &&
  (envCalls e).all (fun w => match tget? x.pelotons (cwPel w) with | some q => callBound s q e w | none => true) &&
  (envWalks e).all fun a => match tget? x.pelotons (aRing a) with
    | some q => pelVcAtt q != 0xF
    | none => true

/-! ## Reservations -/

/-- Reserve the declared appends in order (R319); the sequences that they name are open and not held. -/
def reserveAppends (p : Nat) (e : CheckEnv) : List AppendDecl → State → Except Nat (List SeqStage × State)
  | [], s => .ok ([], s)
  | d :: r, s =>
    match seqBinding e.table[d.seq]? with
    | none => .error 0x0202
    | some q =>
      match getSpace s p q.1 with
      | none => .error 0x0202
      | some kv => needSeq kv q.2 fun _ =>
        match reserveSeq p q.1 q.2 d.tokens d.permit s with
        | none => .error 0x0203
        | some o => match reserveAppends p e r o.2 with
          | .ok t => .ok (o.1 :: t.1, t.2)
          | .error c => .error c

/-- Reserve the spill windows of the encode calls in binding order (R409). -/
def reserveSpills (p : Nat) (e : CheckEnv) : List Nat → State → Except Nat (List (Nat × Nat × Nat) × State)
  | [], s => .ok ([], s)
  | b :: r, s =>
    match e.table[b]? with
    | some (.act w) =>
      match getSession s p (awSession w), e.desc (awSrc w) with
      | some n, some src =>
        if n.kind ≠ 3 then .error 0x0202 else
          let bytes := (encodeGeo w src).window (awCap w) n.pairs.length
          match takeSpill p (awSession w) bytes s with
          | none => .error 0x0206
          | some o => match reserveSpills p e r o.2 with
            | .ok t => .ok ((awSession w, o.1, bytes) :: t.1, t.2)
            | .error c => .error c
      | _, _ => .error 0x0202
    | _ => reserveSpills p e r s

/-! ## STEP_SUBMIT and the fast-path slots -/

/-- A retry names a discarded epoch of the job (R54). -/
def retryOk (x : Partition) (j : Nat) (retry : W64) : Bool :=
  retry == 0 || x.discardedEpochs.any fun d => d.1 == j && d.2.1 == retry.toNat

/-- Check a submission and build its step, with everything that its reply reserves. -/
def prepareStep (p : Nat) (x : Partition) (o : StepOps) (slot : Option (Nat × Nat)) (s : State) : Except Nat (Step × State) :=
  have' (tget? x.jobs o.job.toNat) 0x0201 fun j =>
    have' (tget? x.patterns j.pattern) 0x0201 fun pat =>
      need (o.words.all (fun w => decide (w.toNat < 2 ^ 32)) && decide (o.words.length ≤ 8) && flagOk o.det) 0x0201
        (need (retryOk x o.job.toNat o.retry) 0x0204
          (let e := submitEnv x pat o.table
           let checked : Except Nat (Step × State) :=
             needPattern s p e (needPlacement s p x e (jobCores s j)
               (need (namesKnown s p x e && (slot.isNone || pat.appends.isEmpty)) 0x0205
                 (need (submitFormOk s x e) 0x0202
                   (match reserveAppends p e pat.appends s with
                    | .error c => .error c
                    | .ok a => match reserveSpills p e (encodeCalls e.table) a.2 with
                      | .error c => .error c
                      | .ok b => .ok
                        ({ job := o.job.toNat, retry := if o.retry = 0 then none else some o.retry.toNat, words := o.words.map (·.setWidth 32),
                           seed := o.seed, det := o.det == 1, table := o.table, seqs := a.1, spills := b.1, slot := slot }, b.2)))))
           if o.bindDesc = 0 then checked else needUnified s p x o.bindDesc checked))

/-- Answer with the step's handle; the step is queued. -/
def queueStep (f : Nat) (hdr : Hdr) (p : Nat) (st : Step) (state : HState) (s : State) : Except Nat Ans :=
  let h := nextHandle s p 1
  long f hdr (some p) 1 .step (modPart p (fun x => { x with steps := tset x.steps h st }) s) 0
    (fun h s => modHandle h (fun r => { r with state := state }) s)

def submitBody (f : Nat) (hdr : Hdr) (o : StepOps) : Body := fun s =>
  withPart f hdr s fun p x =>
    match prepareStep p x o none s with
    | .error c => .error c
    | .ok r => queueStep f hdr p r.1 .queued r.2

def execStepSubmit (fn : Fn) (hdr : Hdr) (ops : StepOps) (s : State) : Host.Outcome State Fault Refusal :=
  message fn hdr 0x0220 false (submitBody fn hdr ops) s

def armBody (f : Nat) (hdr : Hdr) (slot : W64) (o : StepOps) : Body := fun s =>
  withPart f hdr s fun p x =>
    need (decide (slot.toNat < 16)) 0x0201
      (need ((slotOf (fnOf s f) slot.toNat).state == 0) 0x0205
        (match prepareStep p x o (some (f, slot.toNat)) s with
         | .error c => .error c
         | .ok r =>
           let h := nextHandle r.2 p 1
           let s := modFn f (fun y => { y with slots := tset y.slots slot.toNat { state := 1, handle := h, weights := false } }) r.2
           let idle := match tget? x.jobs r.1.job with | some j => coresIdle s j | none => false
           match queueStep f hdr p r.1 .pending s with
           | .error c => .error c
           | .ok a => .ok (if idle then { a with st := armCores h (markSlot f slot.toNat true (takeRegs h a.st)) } else a)))

def execFastpathArm (fn : Fn) (hdr : Hdr) (slot : W64) (ops : StepOps) (s : State) : Host.Outcome State Fault Refusal :=
  message fn hdr 0x0240 false (armBody fn hdr slot ops) s

/-- FASTPATH_DISARM: an armed slot lets its step go; the handle ends with PARTIAL_ABORTED_BY_HOST (log 36). -/
def disarmBody (f : Nat) (slot : W64) : Body := fun s =>
  need (decide (slot.toNat < 16)) 0x0201
    (let y := slotOf (fnOf s f) slot.toNat
     if y.state = 1 then
       .ok { st := modFn f (fun z => { z with slots := tdel z.slots slot.toNat }) (dropQueued y.handle s),
             after := finish y.handle 0x0301 0 }
     else .ok { st := s, result := if y.state = 2 then 1 else 0 })

def execFastpathDisarm (fn : Fn) (hdr : Hdr) (slot : W64) (s : State) : Host.Outcome State Fault Refusal :=
  message fn hdr 0x0241 false (disarmBody fn slot) s

/-- A ring posting of R38 and R92: HANDLE 0, vector 0. -/
def postRefusal (f status : Nat) (s : State) : State := postEntry f { status := status, cvec := some 0 } s

/-- SLOT_DB: reserved bits first, then whether the slot is armed; an armed slot starts its step with ARG as binding
word 0 (R37, R38, R92, R94, Table 6 of ch. 02). -/
def slotDoorbell (f i : Nat) (value : W64) (s : State) : State :=
  if !fnExists s f then s
  else if fld value 63 32 != 0 then postRefusal f 0x0201 s
  else
    let y := slotOf (fnOf s f) i
    if y.state ≠ 1 then postRefusal f 0x0205 s else
      let s := devEvent 0x0006 (handlePart y.handle) 1 (modFn f (fun z => { z with slots := tset z.slots i { y with state := 2 } }) s)
      let s := modHandle y.handle (fun r => { r with state := .queued }) s
      admitStep y.handle true (modStep y.handle (fun st => { st with slot := none, words := value.setWidth 32 :: st.words.drop 1 }) s)

def execSlotDb (fn : Fn) (slot : SlotId) (value : W64) (s : State) : Host.Outcome State Fault Refusal :=
  whenLive (slotDoorbell fn slot.val value) s

/-! ## Replay (R217 to R220) -/

/-- The newest step of an epoch whose record still lies in the log that it was written to, with the place of the record. -/
def loggedStep (s : State) (x : Partition) (epoch : Nat) : Option (Nat × Step × Nat) :=
  (x.steps.filterMap fun e => match e.2.record, stepLog s e.1 with
    | some off, some lg =>
      if e.2.epoch == epoch && e.2.replayOf.isNone && s.readNat .unified (lg.addr + off + 8) 8 == e.1 then some (e.1, e.2, lg.addr + off) else none
    | _, _ => none).getLast?

/-- The 16-byte entries of a record (Table 9 of ch. 05). -/
def recordEntry (s : State) (at' i : Nat) : BitVec 128 := BitVec.ofNat 128 (s.readNat .unified (at' + 128 + 16 * i) 16)

def recordDigests (s : State) (at' first n : Nat) : List (W32 × W64) :=
  (List.range n).map fun i => let w := recordEntry s at' (first + i); (w32 (fld w 95 64), w64 (fld w 63 0))

/-- A descriptor of the unified range with substitutes and output descriptors put in its place (R217). -/
def replaced (subs : List (W32 × DescWord)) (outs : List DescWord) (d : DescWord) : DescWord :=
  if dSpace d ≠ 0 then d else
    match subs.find? fun q => q.1 == dTensorId d, outs.find? fun o => dTensorId o == dTensorId d with
    | some q, _ => q.2
    | none, some o => o
    | none, none => d

def replayTable (subs : List (W32 × DescWord)) (outs : List DescWord) (t : List Binding) : List Binding :=
  t.map fun b => match b with | .desc d => .desc (replaced subs outs d) | _ => b

/-- Digests of the logged inputs, or their substitutes. -/
def replayInputs (s : State) (h : Nat) (pat : PatternImage) (subs : List (W32 × DescWord)) : List (W32 × W64) :=
  (pat.digestsIn.filterMap fun i => stepTensor s h i).map fun t =>
    (dTensorId t.d, match subs.find? fun q => q.1 == dTensorId t.d with
      | some q => digestOf s (cmdTensor q.2)
      | none => digestOf s t)

/-- More than one lane writes some resident row (R219). -/
def sharedRows (pat : PatternImage) : Bool :=
  pat.lists.any fun es => es.any fun a => es.any fun b => a.lane != b.lane && rowsMeet (residentRows a) (residentRows b)

/-- The replay's step. -/
def replayStep (s : State) (st : Step) (pat : PatternImage) (at' : Nat) (subs : List (W32 × DescWord)) (outs : List DescWord) (report : DescWord) : Step :=
  let head := BitVec.ofNat 1024 (s.readNat .unified at' 128)
  let nIn := fld head 463 448
  let nOut := fld head 479 464
  let nOrd := fld head 495 480
  let nLate := fld head 511 496
  let late := (List.range nLate).map fun i =>
    let w := recordEntry s at' (nIn + nOut + nOrd + i)
    (fld w 95 80, fld w 79 64, fld w 63 48, fld w 47 46)
  { job := st.job, epoch := st.epoch, words := st.words, seed := st.seed, det := true,
    table := replayTable subs outs (if st.table.isEmpty then pat.bindings else st.table),
    replayOf := some { subs := subs, ins := recordDigests s at' 0 nIn, outs := outs, report := report, logged := recordDigests s at' nIn nOut,
                       late := late, parkGone := st.state == .committed, resident := !bitAt head 28 && sharedRows pat } }

/-- A replay that its record does not bear out: it lists the inputs that differ (R217). -/
def refuseReplay (report : DescWord) (bad : List (W32 × W64)) (h : Nat) (s : State) : State :=
  let t := cmdTensor report
  let s := s.write t.space (dAddr report) ((bad.take (dCapacity report / 16)).flatMap fun d => digestEntry 0 true d)
  finish h 0x0204 0 s

def replayBody (f : Nat) (hdr : Hdr) (epoch : W64) (subs : List (W32 × DescWord)) (outs : List DescWord) (report : DescWord) : Body := fun s =>
  withPart f hdr s fun p x =>
    let ds := subs.map (·.2) ++ outs ++ [report]
    need (ds.all unifiedOk) 0x0202
      (need (ds.all (descPermitted s p x x.mapbuf cmdCore) && (report :: outs).all (fun d => !readOnlyDesc s d)) 0x0205
        (match loggedStep s x epoch.toNat with
         | none => long f hdr (some p) 6 .replay s 0 (refuseReplay report [])
         | some l =>
           match stepPattern s l.1 with
           | none => long f hdr (some p) 6 .replay s 0 (refuseReplay report [])
           | some pat =>
             let st := replayStep s l.2.1 pat l.2.2 subs outs report
             let ins := replayInputs s l.1 pat subs
             let logged := (st.replayOf.map (·.ins)).getD []
             let bad := ins.filter fun d => !logged.contains d
             if !bad.isEmpty then long f hdr (some p) 6 .replay s 0 (refuseReplay report bad)
             else
               match reserveSpills p { pat := pat, table := st.table } (encodeCalls st.table) s with
               | .error c => .error c
               | .ok r =>
                 let h := nextHandle r.2 p 6
                 let s := modPart p (fun x => { x with steps := tset x.steps h { st with spills := r.1 } }) r.2
                 long f hdr (some p) 6 .replay s 0 (fun h s => modHandle h (fun r => { r with state := .queued }) s)))

def execReplay (fn : Fn) (hdr : Hdr) (epoch : W64) (subs : List (W32 × DescWord)) (outs : List DescWord) (report : DescWord) (s : State) :
    Host.Outcome State Fault Refusal := message fn hdr 0x0259 false (replayBody fn hdr epoch subs outs report) s

end Sys2Proof.Machine
end

