-- ==== Sys2Proof/Machine/EndWork.lean ====
section
/-!
DEFINITION. How a partition's work ends from outside it: Function Level Reset of its VF (R62, R63) and bind-off (R507).
-/
namespace Sys2Proof.Machine

/-- End one step. After a Function Level Reset no entry is posted and a running step's stitches finish; a bind-off cuts them. -/
def endStep (silent : Bool) (h : Nat) (s : State) : State :=
  match getStep s h with
  | none => s
  | some st =>
    let s := if silent && ((getHandle s h).map (·.owed)) == some true then endSilently h s else s
    match st.state with
    | .queued => finish h 0x0301 0 (dropQueued h s)
    | .running =>
      if silent then frogStep h s else finishFrog h (releaseQuads h ((runningOn s h).foldl (fun s c => cutStitches c s) s))
    | .held => discardStep h s
    | .stopped => discardStep h s
    | _ => s

/-- An allocation that ends before its last page has a frame keeps the pages that it has (log 55). -/
def truncateAlloc (p obj : Nat) (s : State) : State :=
  match (getPart s p).bind fun x => tget? x.objects obj with
  | none => s
  | some o =>
    let placed := o.first + o.pages - o.plan.length
    let s := cancelMoves (fun m => decide (placed ≤ m.page) && decide (m.page < o.first + o.pages)) s
    let s := o.plan.foldl (fun s t => unreserve p t 1 s) s
    modPart p (fun x => { x with objects := tset x.objects obj { o with pages := o.pages - o.plan.length, plan := [] } }) s

/-- What a long command leaves when it ends part-way. -/
def endOp (p h : Nat) (op : LongOp) (s : State) : State :=
  match op with
  | .alloc obj => truncateAlloc p obj s
  | .move _ => cancelMoves (fun m => m.handle == h) s
  | .pelForm n => match (getPart s p).bind fun x => tget? x.pelotons n with
    | some q => releaseVcs p n q (modPart p (fun x => { x with pelotons := tdel x.pelotons n }) s)
    | none => s
  | .pelFrog n => modPel p n (fun q => { q with frog := none, frogHandle := 0, frogWaited := 0 }) s
  | .pelLap n => modPel p n (fun q => { q with lap := none, lapHandle := 0, lapWaited := 0 }) s
  | .session n => closeSession p n 0x0301 s
  | .call k => dropAct p k s
  | .update => if s.steward.phase == .follow then setPhase .idle s else s
  | .ucode i => takeNext i (modPair i (fun r => { r with loading := none }) s)
  | _ => s

/-- End one long command with PARTIAL_ABORTED_BY_HOST, without an entry where `silent`. -/
def endLong (silent : Bool) (p h : Nat) (s : State) : State :=
  match getHandle s h with
  | none => s
  | some r =>
    let s := if silent then endSilently h s else s
    finish h 0x0301 0 (endOp p h r.op s)

/-- The work of a partition ends: its steps, then its other long commands; calls come before the sessions that they use. -/
def endPartition (silent : Bool) (p : Nat) (s : State) : State :=
  match getPart s p with
  | none => s
  | some x =>
    let s := (tkeys x.steps).foldl (fun s h => endStep silent h s) s
    let mine (r : HandleRec) : Bool := r.part == some p && !(r.op == .step) && !(r.op == .replay)
    let isCall (r : HandleRec) : Bool := match r.op with | .call _ => true | _ => false
    let s := (openHandles s fun r => mine r && isCall r).foldl (fun s h => endLong silent p h s) s
    (openHandles s mine).foldl (fun s h => endLong silent p h s) s

/-- R62's effect for VF p + 1: its partition's work ends without entries; its slots, mailbox and ring are as after power-up. -/
def resetVf (p : Nat) (s : State) : State := serveAllocs (freshFn (p + 1) (endPartition true p s))

/-- Clear a partition's scratchpads, accumulator stores and map-buffer banks (R506, R507). -/
def clearT0 (x : Partition) (s : State) : State :=
  let s := (partCores s x).foldl (fun s c => (s.clear (.spad c) 0 (2 ^ 22)).clear (.acc c) 0 (2 ^ 20)) s
  (bitsOf 64 x.mapbuf).foldl (fun s b => s.clearBank (b / 16) (b % 16)) s

/-- Clear the core counters of a partition and restore their default words (R563). -/
def clearCounters (x : Partition) (s : State) : State :=
  let cs := partCores s x
  { s with collector.coreCtrs := s.collector.coreCtrs.filter fun e => !cs.contains (e.1 / 16) }

/-- The cores of a partition run nothing and hold nothing. -/
def idleCores (x : Partition) (s : State) : State :=
  (partCores s x).foldl (fun s c => modCore c (fun k => { inService := k.inService, ceRaised := k.ceRaised }) s) s

/-- BIND_OFF's four actions in order (R507). -/
def bindOff (p : Nat) (s : State) : State :=
  let s := endPartition false p s
  match getPart s p with
  | none => s
  | some x =>
    let s := (tkeys x.sessions).foldl (fun s n => closeSession p n 0x0301 s) s
    let s := (tkeys x.spaces).foldl (fun s k => dropSpace p k s) s
    let s := x.pelotons.foldl (fun s e => releaseVcs p e.1 e.2 s) s
    let s := x.objects.foldl (fun s e => freeObject p e.1 e.2 s) s
    let s := idleCores x (clearCounters x (clearT0 x s))
    let s := modFn (p + 1) (fun f => { f with slots := f.slots.filter fun e => e.2.state != 1 }) s
    serveAllocs { s with parts := tdel s.parts p }

end Sys2Proof.Machine
end

