-- ==== Sys2Proof/Machine/Power.lean ====
section
/-!
DEFINITION. Rails, gears and references (R571 to R583), the power word (R587).
-/
namespace Sys2Proof.Machine

/-! ## The power word (Table 4 of ch. 15) -/

def pwLimit (w : W64) : Nat := fld w 55 44
def pwThrottle (w : W64) : Nat := fld w 43 37
def pwStackThrottle (w : W64) : Nat := fld w 36 30
def pwGearMax (w : W64) : Nat := fld w 29 26
def pwDipGear (w : W64) : Nat := fld w 25 22
def pwFloor (w : W64) : Nat := fld w 21 18
def pwRefSel (w : W64) : Nat := fld w 17 16

def powerOk (w : W64) : Bool :=
  fld w 63 56 == 0 && fld w 15 0 == 0 && decide (1500 ≤ pwLimit w) && decide (pwLimit w ≤ 3000) &&
  decide (70 ≤ pwThrottle w) && decide (pwThrottle w ≤ 105) && decide (70 ≤ pwStackThrottle w) && decide (pwStackThrottle w ≤ 95) &&
  decide (pwDipGear w ≤ 14) && decide (pwRefSel w ≤ 1)

/-- POWER_SET: complete when the record that holds the word is in force (R606). -/
def powerBody (fn : Nat) (hdr : Hdr) (word : W64) : Body := fun s =>
  need (powerOk word) 0x0201 (
    long fn hdr none 0xA .power s (after := fun h s =>
      settingsTrigger { handle := h } { s with trust.current := { s.trust.current with power := word } }))

def execPowerSet (fn : Fn) (hdr : Hdr) (word : W64) (s : State) : Host.Outcome State Fault Refusal :=
  message fn hdr 0x0703 true (powerBody fn hdr word) s

/-! ## Gears (R575 to R579) -/

def freewheels (s : State) (d : Nat) : Bool := s.cores.freewheel.contains d

/-- The gear of a compute die: the lowest that its causes allow (R578). -/
def gearWant (s : State) (d : Nat) : Nat :=
  let c := cdOf s d
  let g := min (pwGearMax s.board.power) (min c.thermal c.power)
  if freewheels s d then 0 else if c.dips.isEmpty then g else min g (pwDipGear s.board.power)

/-- A gear-change event (R579; that it is recorded is log 54). -/
def gearEvent (d old new cause : Nat) (s : State) : State :=
  recEvent 0x0003 d none d 0xFFFF 0 [(8, d), (4, old), (4, new), (4, cause), (1, b2n (freewheels s d))] s

/-- Take a new target, with its event; to rise above the rail's setpoint, request the setpoint of the target first, unless
that request already waits (R577, R579, Table 8 of ch. 15). -/
def setTarget (d g cause : Nat) (s : State) : State :=
  let c := cdOf s d
  if g = c.target then s else
    let s := gearEvent d c.target g cause (modCd d (fun c => { c with target := g }) s)
    if c.setpoint < g && c.gear < g && c.avs != some g then emit (.avs d (Config.setpoint d g)) (modCd d (fun c => { c with avs := some g }) s) else s

/-- After a change of one cause: a die whose wanted gear changed takes it as its target. `before` is what it wanted then. -/
def retarget (before d cause : Nat) (s : State) : State := if gearWant s d = before then s else setTarget d (gearWant s d) cause s

/-- Change the causes of some compute dies, and their targets with them. -/
def regear (dies : List Nat) (cause : Nat) (f : State → State) (s : State) : State :=
  dies.foldl (fun t d => retarget (gearWant s d) d cause t) (f s)

/-- GEAR_STEP: the divider steps one gear towards the target. A rise waits for its setpoint and for the end of a dip; after the last
step down the setpoint falls, but not for a dip or for freewheel (R576, R577, Table 8 of ch. 15). -/
def gearStep (d : Nat) (s : State) : State :=
  let c := cdOf s d
  if c.target < c.gear then
    let s := modCd d (fun c => { c with gear := c.gear - 1 }) s
    if c.gear - 1 = c.target && c.target < c.setpoint && c.dips.isEmpty && !freewheels s d then
      emit (.avs d (Config.setpoint d c.target)) (modCd d (fun c => { c with setpoint := c.target }) s)
    else s
  else if c.gear < c.target && c.avs.isNone && decide (c.gear < c.setpoint) then modCd d (fun c => { c with gear := c.gear + 1 }) s
  else s

def execGearStep (die : CdId) (s : State) : Host.Outcome State Fault Refusal := whenLive (gearStep die.val) s

/-- AVS_ACK: the regulator has acknowledged and the rail stayed above the setpoint's warning level (R577). -/
def avsAck (d : Nat) (s : State) : State :=
  match (cdOf s d).avs with
  | none => s
  | some g => modCd d (fun c => { c with avs := none, setpoint := g }) s

def execAvsAck (die : CdId) (s : State) : Host.Outcome State Fault Refusal := whenLive (avsAck die.val) s

/-- AVS_TIMEOUT: the gear stays where it is, and the event is counted with cause 6 (R577). -/
def avsTimeout (d : Nat) (s : State) : State :=
  let c := cdOf s d
  match c.avs with
  | none => s
  | some _ => gearEvent d c.gear c.gear 6 (modCd d (fun c => { c with avs := none, target := c.gear }) s)

def execAvsTimeout (die : CdId) (s : State) : Host.Outcome State Fault Refusal := whenLive (avsTimeout die.val) s

/-! ## Dips (R572 to R574) -/

/-- The compute dies that a dip of a rail gears down (R572). -/
def dipDies (rail : Nat) : List Nat := if rail < 8 then [rail % 4] else [0, 1, 2, 3]

/-- SUPPLY_DIP: the affected dies go to DIP_GEAR; a new fall below warning owes a new record and restarts the count (R572, R573). -/
def supplyDip (rail : Nat) (s : State) : State :=
  regear (dipDies rail) 1 (fun s =>
    (dipDies rail).foldl (fun s d => modCd d (fun c => { c with dips := if c.dips.contains rail then c.dips else c.dips ++ [rail] }) s)
      { s with board.dips := tset s.board.dips rail false }) s

def execSupplyDip (rail : RailId) (_lowest : Nat) (s : State) : Host.Outcome State Fault Refusal := whenLive (supplyDip rail.val) s

/-- The die that a rail supplies, 31 where it is none (Table 4 of ch. 14). -/
def railDie (rail : Nat) : Nat := if rail < 8 then rail % 4 else if rail < 16 then 4 + rail % 4 else 31

/-- SUPPLY_DIP_RECORD: the one record of a dip (R572). -/
def dipRecord (rail lowest below : Nat) (s : State) : State :=
  match tget? s.board.dips rail with
  | some false =>
    recEvent 0x0004 rail none (railDie rail) rail 0 [(8, rail), (16, lowest), (32, below)] { s with board.dips := tset s.board.dips rail true }
  | _ => s

def execSupplyDipRecord (rail : RailId) (lowest below : Nat) (s : State) : Host.Outcome State Fault Refusal :=
  whenLive (dipRecord rail.val lowest below) s

/-- Rails whose collapse takes the steward with it: VDD_PLL, VDD_XD0 and that of the acting cluster's die (R542). -/
def stewardRail (s : State) (rail : Nat) : Bool := rail == 23 || rail == 8 || (s.steward.onXd1 && rail == 9)

/-- Rails whose collapse takes the collector and H0 (R574). -/
def collectorRail (rail : Nat) : Bool := rail == 8 || rail == 23

/-! ## References and freewheel (R581, R582) -/

/-- The system reference of a die's main PLL: REF_SEL's, or the other one once its auxiliary PLL has become the main PLL. -/
def mainRef (s : State) (d : Nat) : Nat := (pwRefSel s.board.power + b2n (s.cores.onAux.contains d)) % 2

/-- FREEWHEEL: the reference of the die's main PLL is lost; a compute die goes to gear 0 (R581). -/
def freewheel (d : Nat) (s : State) : State :=
  if freewheels s d then s else
    let r := mainRef s d
    let s := { s with cores.refsLost := if s.cores.refsLost.contains r then s.cores.refsLost else s.cores.refsLost ++ [r] }
    let f (s : State) : State := { s with cores.freewheel := s.cores.freewheel ++ [d] }
    if d < 4 then (if gearWant s d = 0 then gearEvent d (cdOf s d).target 0 4 (f s) else regear [d] 4 f s) else gearEvent d 0 0 4 (f s)

def execFreewheel (die : DieId) (s : State) : Host.Outcome State Fault Refusal := whenLive (freewheel die.val) s

/-- At action 5 a freewheeling die whose auxiliary reference is good switches to it (R582). -/
def switchRef (d : Nat) (s : State) : State :=
  if s.cores.refsLost.contains (1 - mainRef s d) then s else
    let f (s : State) : State := { s with
      cores.freewheel := s.cores.freewheel.filter (· != d)
      cores.onAux := if s.cores.onAux.contains d then s.cores.onAux.filter (· != d) else s.cores.onAux ++ [d] }
    if d < 4 && gearWant (f s) d != gearWant s d then regear [d] 5 f s else gearEvent d 0 0 5 (f s)

/-! ## Action 5 of a tick edge (R573, R578, R582, R587) -/

/-- A rail that stayed above warning plus hysteresis since the previous edge ends its dip (R573). -/
def endDip (rail : Nat) (s : State) : State :=
  if (tget? s.board.dips rail).isNone then s else
    regear (dipDies rail) 7 (fun s =>
      (dipDies rail).foldl (fun s d => modCd d (fun c => { c with dips := c.dips.filter (· != rail) }) s) { s with board.dips := tdel s.board.dips rail }) s

/-- A thermal or power gear one lower or higher, never below THROTTLE_FLOOR nor above 15. -/
def stepGear (floor : Nat) (down up : Bool) (g : Nat) : Nat :=
  max floor (min 15 (if down then g - 1 else if up then g + 1 else g))

/-- The sensors of a compute die and of its stacks, as dies of Table 4 of ch. 14. -/
def sensorDies (d : Nat) : List Nat := [d, 8 + 3 * d, 9 + 3 * d, 10 + 3 * d]

def powerTick (env : TickEnv) (s : State) : State :=
  let s := match s.board.nextPower with
    | none => s
    | some w => regear [0, 1, 2, 3] 8 (fun s => { s with board.power := w, board.nextPower := none }) s
  let s := env.calmRails.foldl (fun s r => endDip r s) s
  let s := s.cores.freewheel.foldl (fun s d => switchRef d s) s
  let floor := pwFloor s.board.power
  let s := (List.range 4).foldl (fun s d =>
    let hot := (sensorDies d).any env.hot.contains
    let cool := (sensorDies d).all env.cool.contains
    regear [d] 2 (modCd d fun c => { c with thermal := stepGear floor hot cool c.thermal }) s) s
  let limit := pwLimit s.board.power
  let above := decide (limit * 1000 < env.powerMw)
  let under := decide (env.powerMw < limit * 950)
  regear [0, 1, 2, 3] 3 (fun s => (List.range 4).foldl (fun s d => modCd d (fun c => { c with power := stepGear floor above under c.power }) s) s) s

/-! ## Telemetry (Table 12 of ch. 14) -/

/-- The telemetry set at action 2 of a tick edge. -/
def telemetryBytes (env : TickEnv) (s : State) : List Byte :=
  ((List.range 20).flatMap fun (d : Nat) => leBytes 2 ((env.temps.getD d 0) % 65536).toNat) ++ leBytes 4 env.powerMw ++
  ((List.range 24).flatMap fun (r : Nat) => let v := env.rails.getD r (0, 0); leBytes 2 v.1 ++ leBytes 2 v.2) ++
  ((List.range 4).flatMap fun (d : Nat) => leBytes 1 (cdOf s d).gear) ++ leBytes 8 s.steward.tick.toNat

end Sys2Proof.Machine
end

