-- ==== Sys2Proof/Machine/HostPort.lean ====
section
/-!
DEFINITION. The host port (chapter 02): what the BARs read and take (R65 to R73, R88, R105, R106), coalescing (R86), failed DMA reads,
Function Level Reset and VF Enable (R62, R63), the board-management mirror (R564, R565).
-/
namespace Sys2Proof.Machine

/-! ## What the BARs read -/

/-- H0 reaches the function: the device is up, its link is up and the function exists. -/
def reaches (s : State) (f : Nat) : Bool :=
  (s.steward.life == .ready || s.steward.life == .recovery) && fnExists s f

/-- The steward is gone with the cause of the safe state (R542). -/
def stewardGone (s : State) : Bool := s.collector.safe && s.collector.stewardLost

/-- MBX_STATUS (Table 4). -/
def statusWord (s : State) (x : FnState) : Nat :=
  x.lastTag.toNat <<< 16 ||| if stewardGone s then 0 else b2n x.replyReady <<< 1 ||| b2n x.busy

/-- The 8-byte word of BAR0 at an offset that is a multiple of 8 (Table 2); write-only registers read as zero. -/
def bar0Word (s : State) (f o : Nat) : Nat :=
  let x := fnOf s f
  if o < 0x1000 then s.readNat (.window f) o 8
  else if o = 0x1008 then statusWord s x
  else if o = 0x1010 then x.head
  else if o = 0x1018 then tailWord x
  else if 0x2080 ≤ o && o < 0x2100 then (slotOf x ((o - 0x2080) / 8)).state
  else 0

/-- The fault summary (R537): open fault, overflow, safe state. -/
def faultSummary (s : State) : Nat := b2n s.collector.first.valid ||| b2n s.collector.first.overflow <<< 1 ||| b2n s.collector.safe <<< 2

/-- The 8-byte word of the PF's BAR2 at an offset (Table 7). -/
def pfBar2Word (s : State) (o : Nat) : Nat :=
  if o < 0x40 then leNat (((faultBytes s.collector.first).drop o).take 8)
  else if o = 0x40 then faultSummary s
  else if o = 0x48 then s.steward.tick.toNat
  else if 0x1000 ≤ o && o < 0x1400 then (devCtr s ((o - 0x1000) / 8)).live
  else if 0x2000 ≤ o && o < 0x2400 then (devCtr s ((o - 0x2000) / 8)).snap
  else if 0x10000 ≤ o && o < 0x10000 + 128 * 208 then (coreCtr s ((o - 0x10000) / 128) (o % 128 / 8)).live
  else if 0x20000 ≤ o && o < 0x20000 + 128 * 208 then (coreCtr s ((o - 0x20000) / 128) (o % 128 / 8)).snap
  else 0

def insertNat (a : Nat) : List Nat → List Nat
  | [] => [a]
  | b :: r => if a ≤ b then a :: b :: r else b :: insertNat a r

/-- The cores of partition p in ascending index (R70). -/
def sortedCores (s : State) (p : Nat) : List Nat :=
  match getPart s p with
  | some x => (partCores s x).foldr insertNat []
  | none => []

/-- The 8-byte word of a VF's BAR2 (R70). -/
def vfBar2Word (s : State) (p o : Nat) : Nat :=
  let core (base : Nat) : Option Nat := (sortedCores s p)[(o - base) / 128]?
  if o = 0 then b2n (s.collector.partOpen.contains p)
  else if o = 8 then s.steward.tick.toNat
  else if 0x1000 ≤ o && o < 0x8000 then match core 0x1000 with
    | some c => (coreCtr s c (o % 128 / 8)).live
    | none => 0
  else if 0x8000 ≤ o then match core 0x8000 with
    | some c => (coreCtr s c (o % 128 / 8)).snap
    | none => 0
  else 0

def barSize (f bar : Nat) : Nat := if bar = 0 then 0x10000 else if bar = 2 then (if f = 0 then 0x100000 else 0x10000) else 0

/-- The word of a function's BAR at an offset. -/
def barWord (s : State) (f bar o : Nat) : Nat :=
  if bar = 0 then bar0Word s f o else if f = 0 then pfBar2Word s o else vfBar2Word s (f - 1) o

/-- OVERSIZE_BAR_READ: a read larger than 8 bytes or crossing an 8-byte boundary gets a Completer Abort and is counted; any other read gets
its bytes (Table 12, R68). -/
def barRead (f bar offset size : Nat) (s : State) : Host.Outcome State Fault Refusal :=
  if !reaches s f then .next s
  else if barSize f bar < offset + size then .fault (.noSuchAddress offset)
  else if 8 < size || 8 < offset % 8 + size then .next (hostMistake f (emit (.completerAbort f) s))
  else .next (emit (.readData f (w64 ((barWord s f bar (offset / 8 * 8) >>> (8 * (offset % 8))) % 2 ^ (8 * size)))) s)

def execOversizeBarRead (fn : Fn) (bar offset size : Nat) (s : State) : Host.Outcome State Fault Refusal := barRead fn bar offset size s

/-! ## What the BARs take -/

/-- A write to a register of a function that exists. -/
def onWrite (f : Nat) (g : State → State) (s : State) : Host.Outcome State Fault Refusal := .next (if reaches s f then g s else s)

/-- MBX_STATUS: writing 1 to REPLY_READY clears it (Table 4). -/
def statusWrite (f : Nat) (v : W64) (s : State) : State :=
  if bitAt v 1 then modFn f (fun x => { x with replyReady := false }) s else s

def execMbxStatusWrite (fn : Fn) (value : W64) (s : State) : Host.Outcome State Fault Refusal := onWrite fn (statusWrite fn value) s

/-- A HEAD that R88 accepts: reserved bits zero, within the span from HEAD to TAIL of a configured ring. -/
def headOk (x : FnState) (v : W64) : Bool :=
  match x.ring with
  | none => false
  | some r => fld v 63 16 == 0 && decide (v.toNat < r.entries) &&
      decide ((v.toNat + r.entries - x.head) % r.entries ≤ (x.tail + r.entries - x.head) % r.entries)

/-- RING_HEAD: an accepted write frees space and queued entries post (R87, R88); in the safe state nothing posts (R542). -/
def headWrite (f : Nat) (v : W64) (s : State) : State :=
  if headOk (fnOf s f) v then
    let s := modFn f (fun x => { x with head := v.toNat }) s
    if s.collector.safe then s else drain f s
  else hostMistake f s

def execRingHeadWrite (fn : Fn) (value : W64) (s : State) : Host.Outcome State Fault Refusal := onWrite fn (headWrite fn value) s

/-- A write touches a register that takes only aligned 8-byte writes (R66). -/
def hitsDoorbell (o n : Nat) : Bool :=
  let meets (lo hi : Nat) : Bool := decide (o < hi) && decide (lo < o + n)
  meets 0x1000 0x1008 || meets 0x1010 0x1018 || meets 0x2000 0x2080

/-- Every byte of a write lies in a register that is there but read-only, or in MBX_STATUS. -/
def readOnlyAt (o n : Nat) : Bool :=
  (decide (0x1008 ≤ o) && decide (o + n ≤ 0x1020)) || (decide (0x2080 ≤ o) && decide (o + n ≤ 0x2100))

/-- BAR_WRITE: the window takes bytes while BUSY is 0; writes to BAR2, to reserved offsets, of the wrong size or while BUSY are dropped and
counted (R65 to R67, R73). -/
def barStore (f bar offset : Nat) (bs : List Byte) (s : State) : State :=
  let x := fnOf s f
  let n := bs.length
  if bar = 2 then hostMistake f s
  else if offset + n ≤ 0x1000 then (if x.busy then hostMistake f s else s.write (.window f) offset bs)
  else if hitsDoorbell offset n then
    (if n = 8 && offset = 0x1010 then headWrite f (w64 (leNat bs)) s else hostMistake f s)
  else if readOnlyAt offset n then
    (if offset ≤ 0x1008 && 0x1008 < offset + n then statusWrite f (w64 (leNat (bs.drop (0x1008 - offset)))) s else s)
  else hostMistake f s

/-- POISONED_TLP: dropped, counted, reported through AER (Table 12). -/
def execPoisonedTlp (fn : Fn) (bar offset : Nat) (s : State) : Host.Outcome State Fault Refusal :=
  if !reaches s fn then .next s
  else if barSize fn bar ≤ offset then .fault (.noSuchAddress offset)
  else .next (hostMistake fn (emit (.aerPoisoned fn) s))

/-- COALESCE_TIMER: t µs after the first pending entry the vector is raised (R86). -/
def coalesce (f v : Nat) (s : State) : State :=
  let x := fnOf s f
  if tget x.waiting v 0 = 0 then s else msix f v (setFn f { x with waiting := tdel x.waiting v } s)

def execCoalesceTimer (fn : Fn) (vector : W16) (s : State) : Host.Outcome State Fault Refusal := whenLive (coalesce fn vector.toNat) s

/-- DMA_READ_ERROR: the command that issued the read ends with FAULT_STOPPED (Table 12). -/
def dmaReadError (h : Nat) (addr : W64) (s : State) : State :=
  let part := ((getHandle s h).bind (·.part)).toList
  let s := raiseFault { code := 0x0801, cls := 0, sev := 1, die := 4, unit := ((getHandle s h).map (·.fn)).getD 0xFFFF, detail := addr, handle := h, parts := part } s
  match getHandle s h with
  | none => s
  | some r =>
    match r.op with
    | .step => stopFaulty h 0x0401 0 s
    | .replay => stopFaulty h 0x0401 0 s
    | .session n => stopSession (r.part.getD 0) n s
    | op => if r.owed then finish h 0x0401 0 (endOp (r.part.getD 0) h op s) else s

def execDmaReadError (handle : W64) (addr : W64) (s : State) : Host.Outcome State Fault Refusal := whenLive (dmaReadError handle.toNat addr) s

/-! ## Function Level Reset and VF Enable (R62 to R64) -/

/-- R62 for one VF; in the safe state only the function's own registers are reset. -/
def flrVf (p : Nat) (s : State) : State := if live s then resetVf p s else freshFn (p + 1) s

def execVfFunctionLevelReset (vf : PartId) (s : State) : Host.Outcome State Fault Refusal := onWrite (vf + 1) (flrVf vf) s

/-- VF Enable goes from 1 to 0: R62 for every partition (R63). -/
def clearVfEnable (s : State) : State :=
  if s.host.vfEnable then { (List.range 16).foldl (fun s p => flrVf p s) s with host.vfEnable := false } else s

def execVfEnableClear (s : State) : Host.Outcome State Fault Refusal := onWrite 0 clearVfEnable s

/-- VF Enable is set: each partition is bound to its VF again (R59); it stays 0 in recovery mode (R602). -/
def execVfEnableSet (s : State) : Host.Outcome State Fault Refusal :=
  onWrite 0 (fun s => if s.steward.life == .ready then { s with host.vfEnable := true } else s) s

/-- Steps armed in the PF's slots leave their queues. -/
def dropPfSlots (s : State) : State :=
  (fnOf s 0).slots.foldl (fun s e => if e.2.state = 1 then dropQueued e.2.handle (endSilently e.2.handle s) else s) s

/-- PF Function Level Reset (R63); in the safe state only the functions' own registers are reset. -/
def flrPf (s : State) : State := freshFn 0 (if live s then dropPfSlots (clearVfEnable s) else clearVfEnable s)

def execPfFunctionLevelReset (s : State) : Host.Outcome State Fault Refusal := onWrite 0 flrPf s

/-- HOT_RESET: the PF as under R63, partitions stay cast on, the link retrains to a width and rate that the host has part in
(Table 7 of ch. 15; log 117). A link that a collapse took down stays so. -/
def hotReset (s : State) : State :=
  let r := takeFree (flrPf s)
  let t := trained r.1
  { r.2 with host.linkUp := !(r.2.board.collapsed.any collectorRail), host.width := t.1, host.rate := t.2 }

def execHotReset (s : State) : Host.Outcome State Fault Refusal :=
  .next (if s.steward.life == .ready || s.steward.life == .recovery then hotReset s else s)

/-! ## Losing H0's link, the collector, PHY references (R574, R584) -/

/-- H0's link goes down: the PF as under R63 (Table 7 of ch. 15). -/
def h0Down (s : State) : State := if s.host.linkUp then emit .h0Down { flrPf s with host.linkUp := false } else s


/-- LINK_REFERENCE_LOST: H0 loses its link, an F port its link, or the ports of an I/O die go DOWN. -/
def referenceLost (r : PhyRef) (s : State) : State :=
  match r with
  | .h0 => h0Down s
  | .far f => farLinkDown f.val s
  | .links xd => (List.range 4).foldl (fun s k => linkDown (4 * xd.val + k) s) s

def execLinkReferenceLost (ref : PhyRef) (s : State) : Host.Outcome State Fault Refusal := whenLive (referenceLost ref) s

/-- The collector is gone: its record is lost, nothing is sent to the host, and H0 goes down (R574). -/
def loseCollector (before : List Output) (s : State) : State :=
  let new := (s.outbox.drop before.length).filter fun o => match o with | .msix _ _ => false | _ => true
  h0Down { s with outbox := before ++ new, collector.first := {} }

/-- SUPPLY_COLLAPSE: the safe state; in it already, a further rail may still take the steward or the collector. -/
def supplyCollapse (rail : Nat) (s : State) : State :=
  let lost := stewardRail s rail
  let f : FaultIn := { code := 0x0806, cls := 3, sev := 2, die := railDie rail, unit := rail, detail := w64 rail }
  let t := if s.collector.safe then { s with collector.stewardLost := s.collector.stewardLost || lost, collector.recordLost := s.collector.recordLost || collectorRail rail }
    else enterSafe f lost (collectorRail rail) s
  let t := { t with board.collapsed := if t.board.collapsed.contains rail then t.board.collapsed else t.board.collapsed ++ [rail] }
  if collectorRail rail then loseCollector s.outbox t else t

def execSupplyCollapse (rail : RailId) (s : State) : Host.Outcome State Fault Refusal :=
  .next (if s.steward.life == .ready then supplyCollapse rail.val s else s)

/-! ## The board-management mirror (R564, R565) -/

/-- DEVICE_INFO's part code. -/
def partCode : List Byte := [0x56, 0x4E, 0x2D, 0x32, 0x30, 0x4C, 0, 0]

/-- Version that DEVICE_INFO and the mirror show: 0 in recovery mode (R602). -/
def runningVersion (s : State) : Nat := if s.steward.life == .recovery then 0 else imgVersion s.steward.image

/-- The byte at an offset of the mirror. -/
def mirrorByte (s : State) (o : Nat) : Byte :=
  if o < 0x30000 then BitVec.ofNat 8 (pfBar2Word s (o / 8 * 8) >>> (8 * (o % 8)))
  else if o < 0x30000 + 152 then (telemetrySet s).getD (o - 0x30000) 0
  else if 0x31000 ≤ o && o < 0x31008 then partCode.getD (o - 0x31000) 0
  else if 0x31008 ≤ o && o < 0x3100C then BitVec.ofNat 8 (runningVersion s >>> (8 * (o - 0x31008)))
  else 0

/-- BMC_READ: answered at 0x4C plus the straps, while XD0, the PLL rail and the board-facing rail are there. -/
def bmcRead (addr offset count : Nat) (s : State) : State :=
  let there := (s.steward.life == .ready || s.steward.life == .recovery) && !(s.board.collapsed.any fun r => collectorRail r || r == 22)
  let mine := addr == 0x4C + (b2n s.board.straps.strap0 + 2 * b2n s.board.straps.strap1)
  emit (.bus (if there && mine && decide (count ≤ 255) && decide (offset < 2 ^ 24) then some ((List.range count).map fun i => mirrorByte s (offset + i)) else none)) s

def execBmcRead (address : BitVec 7) (offset count : Nat) (s : State) : Host.Outcome State Fault Refusal :=
  .next (bmcRead address.toNat offset count s)

end Sys2Proof.Machine
end

