-- ==== Sys2Proof/Machine/Management.lean ====
section
/-!
DEFINITION. The management commands (R100 to R102, R505 to R507, R607).
-/
namespace Sys2Proof.Machine

/-! ## DEVICE_INFO, PARTITION_LIST (Tables 10c and 10d of ch. 02) -/

/-- Cores in service that hold a position of a die. -/
def coresHolding (s : State) (d : Nat) : Nat := ((List.range 48).filter fun q => (coreOf s (coreAt s (48 * d + q))).inService).length

/-- The standby's version; 0 when there is no standby, and in recovery mode (R555, R602). -/
def standbyVersion (s : State) : Nat :=
  if s.steward.life == .recovery || s.steward.standby != .healthy then 0 else imgVersion s.steward.standbyImage

def infoBytes (s : State) : List Byte :=
  partCode ++ leBytes 8 Config.siliconRevision.toNat ++ leBytes 8 (runningVersion s ||| standbyVersion s <<< 32) ++
  ((List.range 4).flatMap fun (d : Nat) => leBytes 1 (coresHolding s d)) ++ ((List.range 4).flatMap fun (d : Nat) => leBytes 1 (freeSpares s d).length) ++
  leBytes 8 (maskOf ((List.range 12).filter fun i => (stackOf s i).inService)) ++ (List.range 4).flatMap fun (f : Nat) => leBytes 8 (farOf s f).frames

def infoBody : Body := fun s => .ok { st := s, data := infoBytes s }

def execDeviceInfo (fn : Fn) (hdr : Hdr) (s : State) : Host.Outcome State Fault Refusal := message fn hdr 0x0001 false infoBody s

/-- One entry of PARTITION_LIST. -/
def listEntry (s : State) (p : Nat) : Nat :=
  let x := getPart s p
  ((x.map (·.quads)).getD 0) ||| ((x.map (·.stacks)).getD 0) <<< 48 ||| b2n x.isSome <<< 60 ||| b2n s.host.vfEnable <<< 61 ||| genOf s p <<< 64

def listBody : Body := fun s => .ok { st := s, data := (List.range 16).flatMap fun (p : Nat) => leBytes 16 (listEntry s p) }

def execPartitionList (fn : Fn) (hdr : Hdr) (s : State) : Host.Outcome State Fault Refusal := message fn hdr 0x0012 true listBody s

/-! ## RING_SET, HANDLE_QUERY, EVENT_ROUTE, TICK_SET -/

def ringOk (base entries writeback k t : Nat) : Bool :=
  ((List.range 11).map fun i => 64 * 2 ^ i).contains entries && base % 4096 == 0 && writeback % 8 == 0 &&
  decide (1 ≤ k) && decide (k ≤ 64) && decide (t ≤ 1000)

/-- RING_SET starts the ring afresh; entries that wait then post into it (R84, R101). -/
def ringBody (f : Nat) (base entries writeback k t : W64) : Body := fun s =>
  let x := fnOf s f
  need (ringOk base.toNat entries.toNat writeback.toNat k.toNat t.toNat) 0x0201 (
  need (x.ring.isNone || ((openHandles s fun r => r.fn == f).isEmpty && x.overflow.isEmpty)) 0x0205 (
    let r : Ring := { base := base.toNat, entries := entries.toNat, writeback := writeback.toNat, k := k.toNat, t := t.toNat }
    .ok { st := setFn f { x with ring := some r, head := 0, tail := 0, phase := true, waiting := [] } s, after := drain f }))

def execRingSet (fn : Fn) (hdr : Hdr) (base entries writeback k t : W64) (s : State) : Host.Outcome State Fault Refusal :=
  message fn hdr 0x0002 false (ringBody fn base entries writeback k t) s

/-- HANDLE_QUERY of TARGET (R83, Table 10). -/
def handleBody (f : Nat) (hdr : Hdr) : Body := fun s =>
  match targetError s (if f = 0 then none else some (f - 1)) hdr.target.toNat with
  | some e => .error e
  | none => have' (getHandle s hdr.target.toNat) 0x0201 fun r => .ok { st := s, result := w64 (hstateCode r.state ||| r.status <<< 16) }

def execHandleQuery (fn : Fn) (hdr : Hdr) (s : State) : Host.Outcome State Fault Refusal := message fn hdr 0x0003 false (handleBody fn hdr) s

def routeBody (vector : W64) : Body := fun s =>
  need (decide (vector.toNat < 64)) 0x0201 (.ok { st := { s with host.eventVector := vector.toNat } })

def execEventRoute (fn : Fn) (hdr : Hdr) (vector : W64) (s : State) : Host.Outcome State Fault Refusal :=
  message fn hdr 0x0004 true (routeBody vector) s

/-- TICK_SET; while an aligned group governs the tick it is refused (R40, R102). -/
def tickBody (period : W64) : Body := fun s =>
  need (decide (100 ≤ period.toNat) && decide (period.toNat ≤ 2000)) 0x0201 (
  need (lgSource s.links.group == 0) 0x0205 (
    .ok { st := { s with steward.nextPeriod := some period.toNat }, result := s.steward.tick + 1 }))

def execTickSet (fn : Fn) (hdr : Hdr) (period : W64) (s : State) : Host.Outcome State Fault Refusal :=
  message fn hdr 0x0020 true (tickBody period) s

/-! ## CAST_ON and BIND_OFF -/

/-- The T1 mode allows a partition's STACKS and quads (R355). -/
def stacksFit (s : State) (d : BitVec 1024) : Bool :=
  if t1Mode s = 0 then fld d 671 660 == 0xFFF
  else
    let st := bitsOf 12 (fld d 671 660)
    let dies := ((st.map (· / 3)) ++ (bitsOf 48 (fld d 767 720)).map (· / 12)).eraseDups
    !st.isEmpty && dies.length == 1

/-- The conditions of R505 that make a descriptor a bad message. -/
def partitionFormOk (s : State) (d : BitVec 1024) : Bool :=
  fld d 599 0 == 0 && fld d 767 720 != 0 && (fld d 719 672 &&& fld d 767 720) == fld d 719 672 &&
  (fld d 831 768 &&& fld d 895 832) == fld d 831 768 && stacksFit s d

/-- Another partition holds something that the descriptor names, or the quotas go beyond the tiers (R342, R355, R505). -/
def partitionFits (s : State) (d : BitVec 1024) : Bool :=
  let t1 := fld d 621 604
  let t2 := fld d 643 622
  let sum (f : Partition → Nat) : Nat := (s.parts.map fun e => f e.2).foldl (· + ·) 0
  !(s.parts.any fun e => meets e.2.quads (fld d 767 720) || meets e.2.mapbuf (fld d 895 832) || meets e.2.vcs (fld d 1023 896) ||
    (t1Mode s == 1 && meets e.2.stacks (fld d 671 660))) &&
  (if t1Mode s = 0 then decide (sum (·.t1Quota) + t1 + s.tiers.withdrawn.length ≤ t1Total)
   else decide (t1 + goneFrom s (fld d 671 660) ≤ 16352 * (bitsOf 12 (fld d 671 660)).length)) &&
  decide (sum (·.t2Quota) + t2 ≤ ((List.range 4).map fun f => (farOf s f).frames).foldl (· + ·) 0)

/-- The partition's GENERATION goes up by one; 16 below its ceiling a record that raises the ceiling is triggered (R80, R607). -/
def raiseGeneration (p : Nat) (s : State) : State :=
  let g := nextGen (genOf s p)
  let s := { s with steward.generation := tset s.steward.generation p g }
  if (g + 16) % 65536 = tget s.trust.current.genCeil p 64 then
    settingsTrigger {} { s with trust.current := { s.trust.current with genCeil := tset s.trust.current.genCeil p ((g + 64) % 65536) } }
  else s

/-- What a cast-on holds by its completion (R506, R563). -/
def castOn (d : BitVec 1024) (s : State) : State :=
  let x : Partition := { desc := d, t1Quota := fld d 621 604, t2Quota := fld d 643 622 }
  idleCores x (clearCounters x (clearT0 x (setPart (fld d 603 600) x s)))

def castBody (fn : Nat) (hdr : Hdr) (d : BitVec 1024) : Body := fun s =>
  let p := fld d 603 600
  need (partitionFormOk s d) 0x0201 (
  need ((getPart s p).isNone) 0x0205 (
  need (partitionFits s d && genOf s p != tget s.trust.inForce.genCeil p 64) 0x0206 (
    long fn hdr (some p) 8 .none (castOn d (raiseGeneration p s)) (after := fun h s => finish h 0 0 s))))

def execCastOn (fn : Fn) (hdr : Hdr) (desc : BitVec 1024) (s : State) : Host.Outcome State Fault Refusal :=
  message fn hdr 0x0010 true (castBody fn hdr desc) s

def bindOffBody (fn : Nat) (hdr : Hdr) (partition : W64) : Body := fun s =>
  need (decide (partition.toNat < 16)) 0x0201 (
  need ((getPart s partition.toNat).isSome) 0x0205 (
    long fn hdr (some partition.toNat) 8 .none s (after := fun h s =>
      finish h 0 0 (bindOff partition.toNat (modHandle h (fun r => { r with part := none }) s)))))

def execBindOff (fn : Fn) (hdr : Hdr) (partition : W64) (s : State) : Host.Outcome State Fault Refusal :=
  message fn hdr 0x0011 true (bindOffBody fn hdr partition) s

end Sys2Proof.Machine
end

