-- ==== Sys2Proof/Machine/Resets.lean ====
section
/-!
DEFINITION. Start-up and resets (R589 to R593, R601 to R603, R607, Tables 6 and 7 of ch. 15) and the test access port (R597).
-/
namespace Sys2Proof.Machine

/-! ## The parts that a reset brings up -/

/-- Host memory, which no reset of the device reaches. What T0 and T1 hold is undefined, and nothing of it can be read: a cast-on clears T0,
and a page is zeroed when it gets its frame (R338, R506). -/
def hostMemory (m : Memory) : Memory := m.filter fun c => decide (Space.host.base ≤ c.1) && decide (c.1 < 2 * Space.host.base)

/-- The recorded swaps: each spare takes its position, and the core that it replaces is out of service (R551). -/
def applySpares : List (Nat × Nat) → State → State
  | [], s => s
  | (old, new) :: r, s =>
    let s := match posOf s old with
      | some q => { s with cores.place := tset s.cores.place q new }
      | none => s
    applySpares r (setCore old { inService := false } s)

/-- A compute die at GEAR_MAX. -/
def bootCd (w : W64) : Cd := { gear := pwGearMax w, target := pwGearMax w, setpoint := pwGearMax w }

/-- The device after its internal reset, before the ROM chooses an image: flash and fuses are kept, stacks are trained, expanders
enumerated, straps sampled (R589, R590, R615, R620). -/
def bareDevice (env : BootEnv) (s : State) : State :=
  { State.reset with
    pending := s.pending
    free := s.free
    outbox := s.outbox
    mem := hostMemory s.mem
    tiers.far := (List.range 4).map fun i => (i, { frames := min 524288 (env.farFrames.getD i 0), linkUp := decide (0 < env.farFrames.getD i 0) })
    tiers.stackList := (List.range 12).map fun i => (i, { inService := env.stacksOk.getLsbD i })
    trust := { s.trust with current := s.trust.inForce, writing := none, retried := false, next := [], failed := 0, fallback := false,
                            uncommitted := false, commitHandle := none }
    board := { straps := env.straps }
    steward.life := .held }

/-- The ceilings and generations of a steward boot (R607). -/
def bootGeneration (x : Settings) (k : Nat) : Nat := nextGen (tget x.genCeil k 0)

/-- The steward starts with an image: settings restored, the boot record in force, fuses blown for an image that the record marks active, every
pair on the active microcode, the standby started (R589, R601, R603, R607). -/
def startSteward (slotB : Bool) (s : State) : State :=
  let x := s.trust.inForce
  let image := stewardSlot s slotB
  let y := { x with genCeil := (List.range 17).map fun k => (k, (bootGeneration x k + 63) % 65536) }
  let s := if slotB = x.slotB then blowFuses image s else s
  let s := takeRoom (settingsSize y) s
  let s := { s with
    steward := { generation := (List.range 17).map fun k => (k, bootGeneration x k), image := image, standbyImage := image }
    trust.inForce := y
    trust.current := y
    trust.inForceSeq := s.trust.inForceSeq + 1
    trust.inForceFw := imageVersion image
    trust.stale := false
    trust.actingB := slotB
    trust.fallback := slotB != x.slotB
    board.power := y.power
    collector.devCtrs := (List.range 128).map fun k => (k, { word := w64 (savedWord y k) })
    pairs := (List.range 16).map fun i => (i, { ucode := ucodeSlot s y.ucodeB })
    cores.cds := (List.range 4).map fun d => (d, bootCd y.power) }
  applySpares y.spares s

/-- The boot ROM: the active slot, else the other one, else recovery mode (R601, R602). -/
def bootRom (s : State) : State :=
  let b := s.trust.inForce.slotB
  if imgGood s 0 (stewardSlot s b) then startSteward b s
  else if imgGood s 0 (stewardSlot s (!b)) then startSteward (!b) s
  else { s with steward.life := .recovery }

/-- A release of PWR_OK, RESET_N or PERST_N; TEST_EN held high keeps every die in reset (R592, R615). -/
def release (env : BootEnv) (s : State) : State :=
  let s := bareDevice env s
  if env.straps.testEn then s else bootRom s

def execPowerOn (env : BootEnv) (s : State) : Host.Outcome State Fault Refusal := .next (release env s)

/-- RESET_N low for at least 10 µs; a shorter low is ignored (R592, R616). -/
def execResetN (lowNs : Nat) (env : BootEnv) (s : State) : Host.Outcome State Fault Refusal :=
  .next (if 10000 ≤ lowNs then release env s else s)

/-- PERST_N low for at least 100 µs. -/
def execPerstN (lowNs : Nat) (env : BootEnv) (s : State) : Host.Outcome State Fault Refusal :=
  .next (if 100000 ≤ lowNs then release env s else s)

/-- F_PERST_N of a far port is low: while the device's own reset is in force and during its restart (R593). -/
def fPerstLow (s : State) (f : Nat) : Bool := s.steward.life == .held || (farOf s f).restarting

/-! ## The test access port (R592, R597; log 19) -/

/-- TRST_N resets the test access port only: its instruction becomes IDCODE. -/
def execTrstN (s : State) : Host.Outcome State Fault Refusal := .next { s with board.tapIr := 0 }

/-- An instruction of the standard's mandatory set or IDCODE; it reaches nothing beyond the port. -/
def execTestAccessPortInstruction (code : Nat) (s : State) : Host.Outcome State Fault Refusal :=
  .next (emit (.tap code) { s with board.tapIr := code })

end Sys2Proof.Machine
end

