-- ==== Sys2Proof/Machine/Trust.lean ====
section
/-!
DEFINITION. The trust commands (R602, R606, R608, R609, R611; POWER_SET stands in Power.lean).
-/
namespace Sys2Proof.Machine

/-! ## ATTEST and IDENTITY_READ (R608, R609) -/

/-- A digest as its 64 bytes. -/
def digestBytes (d : BitVec 512) : List Byte := leBytes 64 d.toNat

/-- SHA-512 over the sixteen pairs' image measurements in CP order. -/
def ucodeDigest (s : State) : BitVec 512 :=
  Config.sha512 ((List.range 16).flatMap fun (i : Nat) => digestBytes (measure (pairOf s i).ucode))

/-- The first 512 bytes of the report (Table 5 of ch. 16), requested through function f. -/
def reportBody (f : Nat) (nonce : BitVec 512) (s : State) : List Byte :=
  let standby := s.steward.standby == .healthy
  let word : Nat := 0x54535441 ||| 1 <<< 32 ||| (f - 1) <<< 40 ||| b2n (f != 0) <<< 44 ||| b2n s.trust.actingB <<< 45 ||| b2n s.trust.fallback <<< 46 |||
    b2n s.trust.uncommitted <<< 47 ||| b2n s.trust.stale <<< 48 ||| s.trust.svn <<< 49 ||| s.trust.revoked.toNat <<< 56 ||| ownerSlot s <<< 60
  let seq := s.trust.inForceSeq
  leBytes 8 word ++ leBytes 8 s.steward.tick.toNat ++ leBytes 8 seq ++ leBytes 8 Config.serial.toNat ++ leBytes 4 Config.romVersion.toNat ++
  leBytes 4 (imgVersion s.steward.image) ++ leBytes 4 (if standby then imgVersion s.steward.standbyImage else 0) ++
  leBytes 4 (imgVersion (ucodeSlot s s.trust.inForce.ucodeB)) ++ List.replicate 16 (0 : Byte) ++ digestBytes nonce ++ digestBytes (measure s.steward.image) ++
  digestBytes (if standby then measure s.steward.standbyImage else 0) ++ digestBytes (ucodeDigest s) ++
  digestBytes (if seq = 0 then 0 else Config.sha512 (settingsBytes s.trust.inForce seq s.trust.inForceFw)) ++
  digestBytes (tget s.trust.ownerDigests (ownerSlot s) 0) ++ digestBytes Config.certDigest

/-- The report with its signature. -/
def reportBytes (f : Nat) (nonce : BitVec 512) (s : State) : List Byte :=
  let b := reportBody f nonce s
  b ++ leBytes 132 (Config.ecdsaSign (Config.sha512 b)).toNat

/-- Write one report or certificate into a destination and complete, or end with what the destination's pages met. -/
def deliver (h : Nat) (dst : DescWord) (bytes : List Byte) (result : W64) (s : State) : State :=
  match accessTrouble s (descPages dst) with
  | some t => finish h t.1 (w64 t.2) s
  | none => finish h 0 result (touchPages (descPages dst) ((cmdTensor dst).writeBytes s bytes))

def attestBody (fn : Nat) (hdr : Hdr) (nonce : BitVec 512) (dst : DescWord) : Body := fun s =>
  needDest s fn hdr dst 644 (
    long fn hdr none 0xA .none s (after := fun h s => deliver h dst (reportBytes fn nonce s) 0 s))

def execAttest (fn : Fn) (hdr : Hdr) (nonce : BitVec 512) (dst : DescWord) (s : State) : Host.Outcome State Fault Refusal :=
  message fn hdr 0x0700 false (attestBody fn hdr nonce dst) s

/-- The certificate when its flash copy matches the fused digest, else the identity public key alone (R608). -/
def identityBytes (s : State) : List Byte × Bool :=
  if Config.sha512 s.trust.cert = Config.certDigest then (s.trust.cert, false) else (Config.identityKey, true)

def identityBody (fn : Nat) (hdr : Hdr) (dst : DescWord) : Body := fun s =>
  let b := identityBytes s
  needDest s fn hdr dst b.1.length (
    long fn hdr none 0xA .none s (after := fun h s => deliver h dst b.1 (w64 (b.1.length ||| b2n b.2 <<< 32)) s))

def execIdentityRead (fn : Fn) (hdr : Hdr) (dst : DescWord) (s : State) : Host.Outcome State Fault Refusal :=
  message fn hdr 0x0701 false (identityBody fn hdr dst) s

/-! ## OWNER_ENROLL (R611) -/

/-- A public key in uncompressed form: 133 bytes, the first 4 (R596). -/
def keyFormOk (k : List Byte) : Bool := k.length == 133 && k.head? == some 4

/-- The owner key in force signs a key for slots 2 to 4. -/
def enrolSigned (s : State) (key signature : List Byte) : Bool :=
  ownerSlot s == 0 || match ownerKey s with
    | some k => Config.ecdsaVerify k (Config.sha512 key) signature
    | none => false

/-- The key goes to the owner area, then its digest is blown in the lowest unblown slot. -/
def enrol (slot : Nat) (key : List Byte) (s : State) : State :=
  { s with
    trust.ownerKeys := tset s.trust.ownerKeys slot key
    trust.ownerDigests := tset s.trust.ownerDigests slot (Config.sha512 key) }

def enrollBody (fn : Nat) (hdr : Hdr) (key signature : List Byte) : Body := fun s =>
  let slot := ownerSlot s + 1
  need (keyFormOk key && (signature.length == (if slot = 1 then 0 else 132) || decide (4 < slot))) 0x0201 (
  need (!s.trust.uncommitted) 0x0205 (
  need (decide (slot ≤ 4)) 0x0206 (
    long fn hdr none 0xA .none s (after := fun h s =>
      if enrolSigned s key signature then finish h 0 (w64 slot) (enrol slot key s) else finish h 0x0207 0 s))))

def execOwnerEnroll (fn : Fn) (hdr : Hdr) (key signature : List Byte) (s : State) : Host.Outcome State Fault Refusal :=
  message fn hdr 0x0702 true (enrollBody fn hdr key signature) s

/-! ## Retained settings (R606) -/

def saveBody (fn : Nat) (hdr : Hdr) : Body := fun s =>
  long fn hdr none 0xA .save s (after := fun h s => settingsTrigger { handle := h, save := true } s)

def execSettingsSave (fn : Fn) (hdr : Hdr) (s : State) : Host.Outcome State Fault Refusal :=
  message fn hdr 0x0704 true (saveBody fn hdr) s

def settingsQueryBody : Body := fun s =>
  .ok { st := s, data := [s.trust.inForceSeq, s.trust.half, 2 ^ 20 - s.trust.used, b2n s.trust.stale, s.trust.failed].flatMap (leBytes 8) }

def execSettingsQuery (fn : Fn) (hdr : Hdr) (s : State) : Host.Outcome State Fault Refusal :=
  message fn hdr 0x0705 true settingsQueryBody s

/-! ## FW_RECOVER (R602) -/

/-- The ROM's record that marks slot A active. -/
def markSlotA (f : FwImage) (s : State) : State :=
  let y := { s.trust.inForce with slotB := false }
  let s := takeRoom (settingsSize y) s
  { s with trust.inForce := y, trust.inForceSeq := s.trust.inForceSeq + 1, trust.inForceFw := imageVersion f }

/-- The image that lies at a host bus address. -/
def hostImage (s : State) (addr length : Nat) : FwImage :=
  { header := s.read .host addr (min 1024 length), body := s.read .host (addr + 1024) (length - 1024) }

/-- A good image goes to slot A and the key to the owner area; the steward boots. -/
def recoverBody (addr length : W64) (key : List Byte) : Body := fun s =>
  let f := hostImage s addr.toNat length.toNat
  let t := if ownerSlot s = 0 then s else { s with trust.ownerKeys := tset s.trust.ownerKeys (ownerSlot s) key }
  need (ownerSlot s == 0 || key.length == 133) 0x0201 (
  need (imgGood t 0 f) 0x0207 (
    .ok { st := startSteward false (markSlotA f (putSteward false f t)) }))

def execFwRecover (fn : Fn) (hdr : Hdr) (addr length : W64) (ownerKey : List Byte) (s : State) : Host.Outcome State Fault Refusal :=
  message fn hdr 0x0710 true (recoverBody addr length ownerKey) s

end Sys2Proof.Machine
end

