-- ==== Sys2Proof/Machine/Mailbox.lean ====
section
/-!
DEFINITION. MBX_DOORBELL and BAR_WRITE: the message in the window is read (R71, R74, Tables 8 and 9 of ch. 02), its operands are laid out as
R625 states, and the command is carried out by the meaning of its own row.
-/
namespace Sys2Proof.Machine

/-- What a command's row does of a state. -/
abbrev Act := State → Host.Outcome State Fault Refusal

/-! ## Operands (R625) -/

/-- The number that n operand bytes from offset o spell. `b` is the whole message; operands begin at byte 32. -/
def opNat (b : List Byte) (o n : Nat) : Nat := leNat ((b.drop (32 + o)).take n)
def opWord (b : List Byte) (o : Nat) : W64 := w64 (opNat b o 8)
def opDesc (b : List Byte) (o : Nat) : DescWord := BitVec.ofNat 512 (opNat b o 64)
def opWords (b : List Byte) (o n : Nat) : List W64 := (List.range n).map fun i => opWord b (o + 8 * i)

/-- A message whose operands take n bytes. -/
def exact (b : List Byte) (n : Nat) (a : Act) : Except Nat Act := need (b.length == 32 + n) 0x0201 (.ok a)

/-- The padding after a structure of n bytes that takes m bytes is zero. -/
def padded (b : List Byte) (o n m : Nat) : Bool := opNat b (o + n) (m - n) == 0

/-- The bytes of data in memory that an operand's descriptor names, for the partition whose memory it lies in. -/
def operandData (s : State) (f : Nat) (hdr : Hdr) (d : DescWord) (k : List Byte → Except Nat Act) : Except Nat Act :=
  match (destPart s f hdr d).bind fun p => (getPart s p).map fun x => (p, x) with
  | none => .error 0x0202
  | some (p, x) => needUnified s p x d (k ((cmdTensor d).bytes s))

/-- The items of a list that hold descriptors: the count word, then the descriptor of their array. -/
def operandList (s : State) (f : Nat) (hdr : Hdr) (b : List Byte) (o size : Nat) (k : List (List Byte) → Except Nat Act) : Except Nat Act :=
  let n := (opWord b o).toNat
  if n = 0 then k [] else
    operandData s f hdr (opDesc b (o + 8)) fun bs =>
      need (decide (n * size ≤ bs.length)) 0x0201 (k ((List.range n).map fun i => (bs.drop (i * size)).take size))

/-- The word and the descriptor at an offset of a list's item. -/
def itemWord (b : List Byte) (o : Nat) : W64 := w64 (leNat ((b.drop o).take 8))
def itemDesc (b : List Byte) (o : Nat) : DescWord := BitVec.ofNat 512 (leNat ((b.drop o).take 64))

/-- An image in memory. -/
def imageOf (bs : List Byte) : FwImage := { header := bs.take 1024, body := bs.drop 1024 }

/-! ## The commands by opcode (R99) -/

def run00 (f : Fn) (hdr : Hdr) (b : List Byte) : Nat → Except Nat Act
  | 0x01 => exact b 0 (execDeviceInfo f hdr)
  | 0x02 => exact b 40 (execRingSet f hdr (opWord b 0) (opWord b 8) (opWord b 16) (opWord b 24) (opWord b 32))
  | 0x03 => exact b 0 (execHandleQuery f hdr)
  | 0x04 => exact b 8 (execEventRoute f hdr (opWord b 0))
  | 0x10 => exact b 128 (execCastOn f hdr (BitVec.ofNat 1024 (opNat b 0 128)))
  | 0x11 => exact b 8 (execBindOff f hdr (opWord b 0))
  | 0x12 => exact b 0 (execPartitionList f hdr)
  | 0x20 => exact b 8 (execTickSet f hdr (opWord b 0))
  | _ => .error 0x0201

/-- A backing descriptor follows the flag of a read-only object alone. -/
def runAlloc (f : Fn) (hdr : Hdr) (b : List Byte) : Except Nat Act :=
  let ro := opWord b 16 == 1
  exact b (if ro then 88 else 24) (execMemAlloc f hdr (opWord b 0) (opWord b 8) (opWord b 16) (if ro then opDesc b 24 else 0))

def run01 (f : Fn) (hdr : Hdr) (b : List Byte) : Nat → Except Nat Act
  | 0x00 => runAlloc f hdr b
  | 0x01 => exact b 8 (execMemFree f hdr (opWord b 0))
  | 0x02 => exact b 16 (execMemClassSet f hdr (opWord b 0) (opWord b 8))
  | 0x03 => exact b 32 (execMemMigrate f hdr (opWord b 0) (opWord b 8) (opWord b 16) (opWord b 24))
  | 0x04 => exact b 136 (execMemCopy f hdr (opDesc b 0) (opDesc b 64) (opWord b 128))
  | 0x05 => exact b 32 (execMemFill f hdr (opWord b 0) (opWord b 8) (opWord b 16) (opWord b 24))
  | 0x06 => exact b 8 (execMemQuery f hdr (opWord b 0))
  | 0x07 => exact b 0 (execPoolQuery f hdr)
  | 0x08 => exact b (8 + 8 * (opWord b 0).toNat) (execMemHostRegister f hdr (opWords b 8 (b.length / 8 - 5)))
  | 0x09 => exact b 16 (execMemHostRelease f hdr (opWord b 0) (opWord b 8))
  | 0x0A => exact b 80 (execTierMapRead f hdr (opWord b 0) (opWord b 8) (opDesc b 16))
  | 0x10 => exact b 56 (execTierSet f hdr (opWord b 0) (opWords b 8 5) (opWord b 48))
  | _ => .error 0x0201

/-- The operands of a step submission from offset o (Table 9 of ch. 13): 160 bytes. -/
def stepOps (s : State) (b : List Byte) (o : Nat) : StepOps :=
  let d := opDesc b (o + 8)
  { job := opWord b o, bindDesc := d, table := if d = 0 then [] else Config.decodeTable ((cmdTensor d).bytes s),
    words := opWords b (o + 72) 8, seed := opWord b (o + 136), retry := opWord b (o + 144), det := opWord b (o + 152) }

/-- The operands of BANK_CREATE: the descriptors of W, M, V and K for each half, in that order (log 38). -/
def bankOps (b : List Byte) : BankOps :=
  { header := opWord b 0, elements := opWord b 8, opt := opWord b 16, work := opWord b 24, wfmt := opWord b 32,
    w0 := opDesc b 40, w1 := opDesc b 104, m0 := opDesc b 168, m1 := opDesc b 232, v0 := opDesc b 296, v1 := opDesc b 360,
    k0 := opDesc b 424, k1 := opDesc b 488, init := opDesc b 552 }

/-- REPLAY: the epoch; the substitutes, each a TENSOR_ID and a descriptor; the outputs; the report area. -/
def runReplay (s : State) (f : Fn) (hdr : Hdr) (b : List Byte) : Except Nat Act :=
  let n1 := if opWord b 8 = 0 then 0 else 64
  let o2 := 16 + n1
  let n2 := if opWord b o2 = 0 then 0 else 64
  need (b.length == 32 + o2 + 8 + n2 + 64) 0x0201 (
  operandList s f hdr b 8 72 fun subs =>
  operandList s f hdr b o2 64 fun outs =>
    .ok (execReplay f hdr (opWord b 0) (subs.map fun i => (w32 (itemWord i 0).toNat, itemDesc i 8)) (outs.map fun i => itemDesc i 0)
      (opDesc b (o2 + 8 + n2))))

/-- REPLAY_LOG_SET's log is two words, its address and its size (log 106). -/
def run02 (s : State) (f : Fn) (hdr : Hdr) (b : List Byte) : Nat → Except Nat Act
  | 0x00 => exact b 64 (execPatternLoad f hdr (opDesc b 0) (Config.decodeImage ((cmdTensor (opDesc b 0)).bytes s)))
  | 0x01 => exact b 8 (execPatternUnload f hdr (opWord b 0))
  | 0x10 => exact b 112 (execJobCreate f hdr (opWord b 0) (opWord b 8) (opWord b 16) (opWord b 24) (opWord b 32) (opWord b 40) (opDesc b 48))
  | 0x11 => exact b 8 (execJobDestroy f hdr (opWord b 0))
  | 0x12 => exact b 32 (execJobSet f hdr (opWord b 0) (opWord b 8) (opWord b 16) (opWord b 24))
  | 0x20 => exact b 160 (execStepSubmit f hdr (stepOps s b 0))
  | 0x21 => exact b 0 (execStepStop f hdr)
  | 0x22 => exact b 0 (execStepResume f hdr)
  | 0x30 => exact b 8 (execSchedQuery f hdr (opWord b 0))
  | 0x40 => exact b 168 (execFastpathArm f hdr (opWord b 0) (stepOps s b 8))
  | 0x41 => exact b 8 (execFastpathDisarm f hdr (opWord b 0))
  | 0x50 => exact b 0 (execStepCommit f hdr)
  | 0x51 => exact b 0 (execStepFrog f hdr)
  | 0x52 => exact b 616 (execBankCreate f hdr (bankOps b))
  | 0x53 => exact b 200 (execBankExport f hdr (opWord b 0) (opDesc b 8) (opDesc b 72) (opDesc b 136))
  | 0x54 => exact b 224 (execBankImport f hdr (opWord b 0) (opDesc b 8) (opDesc b 72) (opDesc b 136) (opWord b 200) (opWord b 208) (opWord b 216))
  | 0x55 => exact b 8 (execBankDestroy f hdr (opWord b 0))
  | 0x58 => exact b 16 (execReplayLogSet f hdr (opWord b 0) (opWord b 8))
  | 0x59 => runReplay s f hdr b
  | _ => .error 0x0201

/-- PELOTON_RESHARD: the pairs are a list of four descriptors each. -/
def runReshard (s : State) (f : Fn) (hdr : Hdr) (b : List Byte) : Except Nat Act :=
  need (b.length == 32 + 88 + if opWord b 80 = 0 then 0 else 64) 0x0201 (
  need (decide ((opWord b 80).toNat ≤ 64)) 0x0201 (
  operandList s f hdr b 80 256 fun ps =>
    .ok (execPelotonReshard f hdr (opWord b 0) (opWord b 8) (opDesc b 16) (ps.map fun i =>
      { oldShard := itemDesc i 0, newShard := itemDesc i 64, oldChunks := itemDesc i 128, newChunks := itemDesc i 192 }))))

def run03 (s : State) (f : Fn) (hdr : Hdr) (b : List Byte) : Nat → Except Nat Act
  | 0x00 => exact b 64 (execPelotonForm f hdr (opDesc b 0))
  | 0x01 => exact b 8 (execPelotonDisband f hdr (opWord b 0))
  | 0x02 => runReshard s f hdr b
  | 0x03 => exact b 16 (execPelotonFrog f hdr (opWord b 0) (opWord b 8))
  | 0x04 => exact b 32 (execPelotonSubstitute f hdr (opWord b 0) (opWord b 8) (opWord b 16) (opWord b 24))
  | 0x05 => exact b 48 (execPelotonPolicy f hdr (opWord b 0) (opWord b 8) (opWord b 16) (opWord b 24) (opWord b 32) (opWord b 40))
  | 0x06 => exact b 8 (execPelotonQuery f hdr (opWord b 0))
  | _ => .error 0x0201

/-- The operands of CODEC_SESSION_OPEN in the order of Table 16 of ch. 10, with the Table 3 parameters in the order of that table.
The frame-buffer object and the spill object come as descriptors, and every operand stands in every message (log 105). -/
def codecOps (b : List Byte) : CodecOpenOps :=
  { kind := opWord b 0, cls := opWord b 8, pairs := opWord b 16, entries := opWord b 24, buffer := opDesc b 32, pitch := opWord b 96,
    inRing := opDesc b 104, inWriteback := opWord b 168, outRing := opDesc b 176, outArea := opDesc b 240, tensorOut := opDesc b 304,
    offset := opWord b 368, gain := opWord b 376, cvt := opWord b 384, starve := opWord b 392, opPoint := opWord b 400, preGrain := opWord b 408,
    enc := { width := opWord b 416, height := opWord b 424, bitDepth := opWord b 432, level := opWord b 440, irapPeriod := opWord b 448,
             bPictures := opWord b 456, sliceRows := opWord b 464, wpp := opWord b 472, rateMode := opWord b 480, qp := opWord b 488,
             bitrate := opWord b 496 },
    spill := opDesc b 504 }

/-- ACT_ENCODE and ACT_DECODE: the call word alone (Table 16 of ch. 10); which descriptors its bindings stand for is a free
value, since no table says where a command's bindings lie (log 39). -/
def runAct (g : BitVec 512 → DescWord → DescWord → DescWord → DescWord → Act) (b : List Byte) : Except Nat Act :=
  let bind (i : Nat) : DescWord := Config.callBinding b i
  exact b 64 (g (BitVec.ofNat 512 (opNat b 0 64)) (bind 0) (bind 1) (bind 2) (bind 3))

def run04 (f : Fn) (hdr : Hdr) (b : List Byte) : Nat → Except Nat Act
  | 0x00 => exact b 568 (execCodecSessionOpen f hdr (codecOps b))
  | 0x01 => exact b 8 (execCodecSessionClose f hdr (opWord b 0))
  | 0x02 => exact b 16 (execCodecFeed f hdr (opWord b 0) (opWord b 8))
  | 0x03 => exact b 24 (execCodecRelease f hdr (opWord b 0) (opWord b 8) (opWord b 16))
  | 0x04 => exact b 32 (execCodecEncFrame f hdr (opWord b 0) (opWord b 8) (opWord b 16) (opWord b 24))
  | 0x05 => exact b 8 (execCodecQuery f hdr (opWord b 0))
  | 0x10 => runAct (execActEncode f hdr) b
  | 0x11 => runAct (execActDecode f hdr) b
  | 0x12 => exact b 16 (execActRelease f hdr (opWord b 0) (opWord b 8))
  | _ => .error 0x0201

/-- KV_SPACE_CREATE: the regions are a list of tier, descriptor and page count. -/
def runSpaceCreate (s : State) (f : Fn) (hdr : Hdr) (b : List Byte) : Except Nat Act :=
  let o := 104 + if opWord b 96 = 0 then 0 else 64
  need (b.length == 32 + o + 40) 0x0201 (
  need (decide ((opWord b 96).toNat ≤ 3)) 0x0201 (
  operandList s f hdr b 96 80 fun rs =>
    .ok (execKvSpaceCreate f hdr
      { control := opDesc b 0, layers := opWord b 64, kvHeads := opWord b 72, dh := opWord b 80, format := opWord b 88,
        regions := rs.map fun i => { tier := itemWord i 0, desc := itemDesc i 8, pages := itemWord i 72 },
        maxSeq := opWord b o, maxPages := opWord b (o + 8), prefixOn := opWord b (o + 16), prefixMax := opWord b (o + 24), salt := opWord b (o + 32) })))

def run05 (s : State) (f : Fn) (hdr : Hdr) (b : List Byte) : Nat → Except Nat Act
  | 0x00 => runSpaceCreate s f hdr b
  | 0x01 => exact b 8 (execKvSpaceDestroy f hdr (opWord b 0))
  | 0x02 => exact b 8 (execKvSeqOpen f hdr (opWord b 0))
  | 0x03 => exact b 24 (execKvSeqFork f hdr (opWord b 0) (opWord b 8) (opWord b 16))
  | 0x04 => exact b 24 (execKvSeqTruncate f hdr (opWord b 0) (opWord b 8) (opWord b 16))
  | 0x05 => exact b 16 (execKvSeqClose f hdr (opWord b 0) (opWord b 8))
  | 0x06 => exact b 88 (execKvAttach f hdr (opWord b 0) (opWord b 8) (opDesc b 16) (opWord b 80))
  | 0x07 => exact b 224 (execKvAppend f hdr (opWord b 0) (opWord b 8) (opWord b 16) (opDesc b 24) (opDesc b 88) (opDesc b 152) (opWord b 216))
  | 0x08 => exact b 16 (execKvSeqQuery f hdr (opWord b 0) (opWord b 8))
  | 0x09 => exact b 80 (execPrefixRead f hdr (opWord b 0) (opDesc b 8) (opWord b 72))
  | 0x0A => exact b 8 (execPrefixFlush f hdr (opWord b 0))
  | _ => .error 0x0201

def run06 (s : State) (f : Fn) (hdr : Hdr) (b : List Byte) : Nat → Except Nat Act
  | 0x00 => exact b 24 (execCounterSet f hdr (opWord b 0) (opWord b 8) (opWord b 16))
  | 0x01 => exact b 80 (execEventRead f hdr (opWord b 0) (opWord b 8) (opDesc b 16))
  | 0x02 => exact b 16 (execFaultClear f hdr (opWord b 0) (opWord b 8))
  | 0x03 => exact b 0 (execTelemetryRead f hdr)
  | 0x04 => exact b 8 (execServiceSet f hdr (opWord b 0))
  | 0x10 => exact b 16 (execCoreSpare f hdr (opWord b 0) (opWord b 8))
  | 0x20 => need (b.length == 96) 0x0201 (operandData s f hdr (opDesc b 0) fun bs => .ok (execFwUpdate f hdr (imageOf bs)))
  | 0x21 => exact b 0 (execFwCommit f hdr)
  | 0x22 => exact b 0 (execFwRevert f hdr)
  | 0x23 => need (b.length == 104) 0x0201 (operandData s f hdr (opDesc b 8) fun bs => .ok (execUcodeLoad f hdr (opWord b 0) (imageOf bs)))
  | 0x24 => exact b 0 (execStewardSwitch f hdr)
  | 0x30 => exact b 16 (execLinkGroupSet f hdr (BitVec.ofNat 128 (opNat b 0 16)))
  | 0x31 => exact b 8 (execLinkRecal f hdr (opWord b 0))
  | 0x32 => exact b 8 (execLinkTrain f hdr (opWord b 0))
  | 0x33 => exact b 8 (execStackRecal f hdr (opWord b 0))
  | 0x34 => exact b 8 (execFarPortRestart f hdr (opWord b 0))
  | _ => .error 0x0201

/-- OWNER_ENROLL: the key; for slots 2 to 4 a signature, each padded to eight bytes. -/
def runEnroll (f : Fn) (hdr : Hdr) (b : List Byte) : Except Nat Act :=
  let sig := b.length != 168
  need ((b.length == 168 || b.length == 304) && padded b 0 133 136 && (!sig || padded b 136 132 136)) 0x0201 (
    .ok (execOwnerEnroll f hdr ((b.drop 32).take 133) (if sig then (b.drop 168).take 132 else [])))

/-- FW_RECOVER always carries the owner public key (log 107). -/
def run07 (f : Fn) (hdr : Hdr) (b : List Byte) : Nat → Except Nat Act
  | 0x00 => exact b 128 (execAttest f hdr (opDesc b 0) (opDesc b 64))
  | 0x01 => exact b 64 (execIdentityRead f hdr (opDesc b 0))
  | 0x02 => runEnroll f hdr b
  | 0x03 => exact b 8 (execPowerSet f hdr (opWord b 0))
  | 0x04 => exact b 0 (execSettingsSave f hdr)
  | 0x05 => exact b 0 (execSettingsQuery f hdr)
  | 0x10 => need (padded b 16 133 136) 0x0201 (exact b 152 (execFwRecover f hdr (opWord b 0) (opWord b 8) ((b.drop 48).take 133)))
  | _ => .error 0x0201

/-- The command of an opcode with its operands; an opcode that no table gives is a bad message. -/
def runOpcode (s : State) (f : Fn) (hdr : Hdr) (b : List Byte) (op : Nat) : Except Nat Act :=
  match op / 256 with
  | 0 => run00 f hdr b (op % 256)
  | 1 => run01 f hdr b (op % 256)
  | 2 => run02 s f hdr b (op % 256)
  | 3 => run03 s f hdr b (op % 256)
  | 4 => run04 f hdr b (op % 256)
  | 5 => run05 s f hdr b (op % 256)
  | 6 => run06 s f hdr b (op % 256)
  | 7 => run07 f hdr b (op % 256)
  | _ => .error 0x0201

/-! ## MBX_DOORBELL (R71, Tables 3 and 12) -/

/-- The request header in the window (Table 8). The partition that a PF message acts on lies in no field of it (log 20). -/
def windowHdr (f : Fn) (w : Nat) (b : List Byte) : Hdr :=
  let h : BitVec 256 := BitVec.ofNat 256 w
  { tag := BitVec.ofNat 16 (fld h 47 32), cookie := w64 (fld h 255 192), cvec := BitVec.ofNat 16 (fld h 143 128), target := w64 (fld h 127 64),
    replyIrq := bitAt h 56, part := if f = 0 then Config.pfPartition b else none }

/-- A header without a mistake: VERSION, LENGTH, reserved fields, and the doorbell's TAG and reserved bits. -/
def requestOk (w : Nat) (v : W64) : Bool :=
  let h : BitVec 256 := BitVec.ofNat 256 w
  fld h 55 48 == 1 && fld h 31 16 % 8 == 0 && decide (32 ≤ fld h 31 16) && decide (fld h 31 16 ≤ 4096) &&
  fld h 63 57 == 0 && fld h 191 144 == 0 && fld v 63 16 == 0 && fld v 15 0 == fld h 47 32

/-- The message in a function's window. -/
def doorbell (f : Fn) (v : W64) (s : State) : Host.Outcome State Fault Refusal :=
  if !(answers s && fnExists s f) then .next s
  else if (fnOf s f).busy then .next (hostMistake f s)
  else
    let w := s.readNat (.window f) 0 32
    let op := w % 65536
    let b := s.read (.window f) 0 (w / 65536 % 65536)
    let hdr := windowHdr f w b
    let refuse (code : Nat) : Host.Outcome State Fault Refusal := .next (reply f op hdr code 0 0 [] s)
    if modeRefuses op s then refuse 0x0205
    else if !requestOk w v then refuse 0x0201
    else match runOpcode s f hdr b op with
      | .error code => refuse (if code = 0x0202 && !cvecOk f hdr then 0x0201 else code)
      | .ok a => a s

def execMbxDoorbell (fn : Fn) (value : W64) (s : State) : Host.Outcome State Fault Refusal := doorbell fn value s

/-! ## BAR_WRITE (R65 to R67) -/

/-- A write of 8 bytes to a slot doorbell. -/
def slotAddress (bar offset n : Nat) : Option Nat :=
  if bar = 0 && n = 8 && offset % 8 = 0 && 0x2000 ≤ offset && offset < 0x2080 then some ((offset - 0x2000) / 8) else none

def barWrite (f : Fn) (bar offset : Nat) (bs : List Byte) (s : State) : Host.Outcome State Fault Refusal :=
  if !reaches s f then .next s
  else if barSize f bar < offset + bs.length then .fault (.noSuchAddress offset)
  else if bar = 0 && offset = 0x1000 && bs.length = 8 then doorbell f (w64 (leNat bs)) s
  else match slotAddress bar offset bs.length with
    | some k => whenLive (slotDoorbell f k (w64 (leNat bs))) s
    | none => .next (barStore f bar offset bs s)

def execBarWrite (fn : Fn) (bar offset : Nat) (bytes : List Byte) (s : State) : Host.Outcome State Fault Refusal := barWrite fn bar offset bytes s

end Sys2Proof.Machine
end

