-- ==== Sys2Proof/Machine/Stitch.lean ====
section
/-!
DEFINITION. Commit points of stitches (R162 to R171, R248, R261, R275, R283 to R291), the weight-ready fence (R157) and
the sentinel (R175 to R179).
-/
namespace Sys2Proof.Machine

/-! ## What a stitch waits for -/

/-- A stitch whose output is empty: it reads and writes nothing (R261). -/
def outputEmpty (s : State) (h : Nat) (e : Entry) : Bool :=
  let empty (win map : Nat) : Bool := match stepWindow s h win, stepTensor s h map with
    | some w, some t => wOp w != 4 && outEmpty w t.d
    | _, _ => false
  match e.op with
  | .array a => mFeed a.mode == 1 && empty a.window a.act
  | .stem a => empty a.window a.act
  | .window a => empty a.window a.src
  | _ => false

/-- Reads and writes of the entry at index n of a core's list. -/
def spansOf (s : State) (h c : Nat) (e : Entry) : List Span × List Span :=
  if outputEmpty s h e then ([], [])
  else entrySpans (stepTensor s h) (stepAttn s h) (fun b => firstColumn (stepWindow s h b)) c e

/-- A prefetch in flight whose destination the entry at index n reads, NEED having come (R360). -/
def prefetchHolds (s : State) (h c n : Nat) (e : Entry) : Bool := prefetchMeets s h c n (spansOf s h c e).1

/-- The cycles that a stitch waits at its data-ready fence, a free value (R360; log 4). -/
def prefetchWaits (h c n : Nat) (e : Entry) (s : State) : State :=
  let f := takeFree s
  fenceStall c 0x1001 (f.1.toNat % 2 ^ 13) (prefetchesMet s h c n (spansOf s h c e).1) f.2

/-- The entry writes what a sentinel recompute holds (R178). -/
def sentinelHolds (s : State) (h c : Nat) (e : Entry) : Bool :=
  match (coreOf s c).sample with
  | some m => anyMeet (spansOf s h c e).2 m.held
  | none => false

/-! ## The sentinel (R176 to R179) -/

/-- SENT_RATE not 0 and ACC 0. -/
def eligible (e : Entry) : Option ArrayStitch :=
  match e.op with
  | .array a => if mSentRate a.mode != 0 && mAcc a.mode == 0 then some a else none
  | _ => none

/-- The number n of an eligible entry: earlier eligible entries of the list with the same weight TENSOR_ID. -/
def eligibleNumber (s : State) (h c i : Nat) (tensor : W32) : Nat :=
  (((coreList s c).take i).filter fun e => match eligible e with
    | some a => ((stepTensor s h a.wt).map fun t => dTensorId t.d) == some tensor
    | none => false).length

/-- The column group that the sentinel recomputes; none when the stitch is not sampled. -/
def sampledGroup (rate n epoch : Nat) (tensor : W32) : Option Nat :=
  let f := 2 ^ rate
  let h := (tensor.toNat + epoch) % f
  if (n + h) % f = 0 then some ((n + h) / f % 4) else none

/-- Change a weight tensor's figures; WFMT and AFMT are those of the first stitch of it that is sampled or skipped (R180;
log 115). -/
def modSentinel (c : Nat) (tensor : W32) (wfmt afmt : Nat) (f : SentinelRec → SentinelRec) (s : State) : State :=
  modCore c (fun x =>
    if x.sentinel.any (fun r => r.tensor == tensor) then { x with sentinel := x.sentinel.map fun r => if r.tensor == tensor then f r else r }
    else { x with sentinel := x.sentinel ++ [f { tensor := tensor, wfmt := wfmt, afmt := afmt }] }) s

/-- The sentinel's sum for one row and column: its own passes of 128 channels, chained. -/
def sentinelSum (f : Feed) (t n : Nat) : W32 :=
  (accumulate true 0 ((List.range f.passes).flatMap fun p => sentinelFeed (f.acts t p, f.wts p n))).1

/-- At a sampled stitch's commit point: capture, or count the sample as skipped while the sentinel is busy (R178). -/
def sampleStitch (h c i : Nat) (e : Entry) (ref : Feed) (rows : List (List W32)) (s : State) : State :=
  match eligible e, getStep s h with
  | some a, some st =>
    match stepTensor s h a.wt with
    | none => s
    | some w =>
      let id := dTensorId w.d
      match sampledGroup (mSentRate a.mode) (eligibleNumber s h c i id) st.epoch id with
      | none => s
      | some g =>
        if (coreOf s c).sample.isSome then
          modSentinel c id (mWfmt a.mode) (mAfmt a.mode) (fun r => { r with skipped := r.skipped + 1 }) s
        else
          let cols := ((List.range 32).map (32 * g + ·)).filter (· ≤ mCols a.mode)
          let m : Sample :=
            { tensor := id, wfmt := mWfmt a.mode, afmt := mAfmt a.mode, held := (spansOf s h c e).1
              captured := rows.flatMap fun r => cols.map fun n => r.getD n 0
              reference := (List.range rows.length).flatMap fun t => cols.map fun n => sentinelSum ref t n }
          modCore c (fun x => { x with sample := some m }) (modSentinel c id (mWfmt a.mode) (mAfmt a.mode) (fun r => r) s)
  | _, _ => s

/-- SENTINEL_RECOMPUTE: the elements count in their bins and the inputs are released (R178, R179). -/
def endSample (c : Nat) (s : State) : State :=
  match (coreOf s c).sample with
  | none => s
  | some m =>
    let es := (m.captured.zip m.reference).map fun p => relBin p.1 p.2
    let top := es.foldl (fun (a : W32) b => match b.2 with
      | some v => if Val.lt (f32 a) v then toF32 v else a
      | none => a) 0
    let s := modSentinel c m.tensor m.wfmt m.afmt (fun r => { r with
      sampled := r.sampled + 1
      elements := r.elements + es.length
      maxRel := if Val.lt (f32 r.maxRel) (f32 top) then top else r.maxRel
      bins := es.foldl (fun t b => tmod t b.1 0 (· + 1)) r.bins }) s
    modCore c (fun x => { x with sample := none }) s

def execSentinelRecompute (core : CoreId) (s : State) : Host.Outcome State Fault Refusal := whenLive (endSample core.val) s

/-! ## Array stitches -/

/-- Store one token's columns of a convolution at its output position (R262). -/
def convStore (s : State) (w : WWord) (dst : Tensor) (cvt : Nat) (rs : List Nat) (cols : Nat) (rows : List (List W32)) : State × List StoreBlk :=
  ((List.range rows.length).zip rows).foldl (fun (p : State × List StoreBlk) r =>
    let o := tokenPos w r.1
    let k := wCo0 w + dSize dst.d 0 * (o.2 + dSize dst.d 1 * (o.1 + dSize dst.d 2 * wImg w))
    let q := dst.storeRange p.1 0x00 cvt k ((rs.drop (cols * r.1)).take cols) ((r.2.take cols).map f32)
    (q.1, p.2 ++ q.2)) (s, [])

/-- The output stage of a stitch with its counts and amax (R167 to R169); `win` is the window word of a convolution. -/
def outStage (h c l n : Nat) (a : ArrayStitch) (win : Option WWord) (rows : List (List W32)) (s : State) : State :=
  if !mOutEn a.mode then s else
    match stepTensor s h a.dst with
    | none => s
    | some d =>
      let dst := withFmt d (mOutFmt a.mode)
      let seed := stitchSeed s h c l n (dTensorId d.d)
      let cols := mCols a.mode + 1
      let o := match win with
        | none => outputStage s (mCvt a.mode) dst seed cols rows
        | some w => convStore s w dst (mCvt a.mode) (outRandom (mCvt a.mode) seed cols rows.length) cols rows
      let s := if mCountEn a.mode then match stepTensor s h a.count with
          | some k => writeCounts k dst o.2 o.1
          | none => o.1
        else o.1
      let top := toF32 (maxMag (rows.flatMap fun r => (r.take cols).map f32))
      let s := modCore c (fun x => { x with amax := if Val.lt (f32 x.amax) (f32 top) then top else x.amax }) s
      stageAmax h (dTensorId d.d) top (addCounts c (totalCnt o.2) 0 s)

/-- A stitch whose output is empty marks its step (R261). -/
def emptyOutput (h : Nat) (s : State) : State := modStep h (fun st => { st with conds := condSet .emptyOutput st.conds }) s

/-- Array-busy cycles: one for each token of each pass, four where an operand is BF16 (R631, Table 4 of ch. 04). -/
def busyCycles (a : ArrayStitch) (passes tokens : Nat) : Nat :=
  passes * tokens * (if mWfmt a.mode = 1 || mAfmt a.mode = 1 then 4 else 1)

/-- Cycles for which a stitch waits on the weight-ready fence at its swaps: each pass but the last is as many cycles short of
the 128 of a shadow load as its tokens leave (R265, R629). -/
def swapWaits (a : ArrayStitch) (passes tokens : Nat) : Nat :=
  (passes - 1) * (128 - min 128 (tokens * (if mWfmt a.mode = 1 || mAfmt a.mode = 1 then 4 else 1)))

/-- A free count where a load from the map buffer, or a feeder other than the scratchpad's, can be late (R156, R159, R268; log 4). -/
def lateFree (c id : Nat) (may : Bool) (s : State) : State := if may then coreWaitFree c id s else s

/-- Cycles for which a draw waits for the seeding of the lanes; none without stochastic rounding (R212; log 4). -/
def seedWait (c : Nat) (sr : Bool) (s : State) : State := if sr then coreWaitFree c 0x2008 s else s

/-- An array stitch's work, landing at once at its commit point. Its first pass uses the active registers; they end with those of
its last pass, and the row map makes its staging rows the committed ones (R141, R157, R162). -/
def commitArray (h c l n : Nat) (e : Entry) (a : ArrayStitch) (s : State) : State :=
  match stepTensor s h a.act, stepTensor s h a.wt with
  | some act, some wt =>
    match arrayFeed s h a act wt with
    | none => emptyOutput h s
    | some (own, tokens) =>
      let x := coreOf s c
      let f := own.armed s wt x.active
      let last := passRegs s wt own (own.passes - 1)
      let rows := (List.range tokens).map (a.firstRow + ·)
      let acc := mAcc a.mode
      let start (r : Nat) : Bool := acc == 0 || (2 ≤ acc && !x.resident.contains r)
      let o := arrayRows s (.acc c) f a.firstRow tokens (mCols a.mode + 1) start
      let ref := match arrayFeed s h a ((stepTensor s h a.refAct).getD act) ((stepTensor s h a.refWt).getD wt) with
        | some (g, _) => g
        | none => f
      let s := sampleStitch h c n e ref o.rows s
      let s := joinRows h c acc rows (mapRows c rows (rows.map (rowBytes s c)) (writeRows (.acc c) a.firstRow o.rows (protectRows h c rows s)))
      let s := modCore c (fun x => { x with active := last, pass := own.passes - 1, shadow := [], shadowFor := none }) s
      let s := outStage h c l n a (if mFeed a.mode = 1 then stepWindow s h a.window else none) o.rows s
      let s := noteFate c e.fate act.d (((stepTensor s h a.dst).map (·.d)).getD 0) (coreEvent c 0x200E o.made s)
      let late := mFeed a.mode == 2 || (mFeed a.mode == 1 && (stepWindow s h a.window).any fun w => convLate a.mode w act.d)
      let s := lateFree c 0x2006 late (coreEvent c 0x2005 (swapWaits a own.passes tokens) s)
      let s := lateFree c 0x2005 (dSpace wt.d == 3) s
      coreEvent c 0x2002 (busyCycles a f.passes tokens) (seedWait c (mOutEn a.mode && cvtRound (mCvt a.mode) == .sr) s)
  | _, _ => s

/-! ## Vector stitches -/

/-- The instructions in list order (R221). -/
def runVector (e : VEnv) (h : Nat) (is : List VInstr) (s : State) : VState :=
  is.foldl (fun v w => if vVop w = 0x70 then vUpdate e h w v else vInstr e w v) { s := s }

/-- Summaries reach SREG_OUT, and the steward where they name a merge (R248, R250). -/
def handSummaries (h c : Nat) (l : List Summary) (s : State) : State :=
  l.foldl (fun s q =>
    let s := setSreg c q.sreg q.value s
    match q.merge with
    | none => s
    | some m => modStep h (fun st => { st with merges := st.merges ++ [(m, (coreOf s c).slot, q.sreg, q.value)] }) s) s

/-- The scratchpad banks of each beat of a source over an iteration space: those of its first and its last element (R228,
R233). -/
def beatBanks (d : DescWord) (shape : List Nat) : List (List Nat) :=
  let n0 := max 1 (shape.headD 1)
  (List.range (shape.tail.foldl (· * ·) 1)).flatMap fun r =>
    (List.range ((n0 + 127) / 128)).map fun u =>
      let tail := ((List.range 5).foldl (fun (p : List Nat × Nat) i =>
        let n := max 1 (shape.getD (i + 1) 1)
        (p.1 ++ [p.2 % n], p.2 / n)) ([], r)).1
      let bank (i bit : Nat) : Nat := (dAddr d + (offsetOf d (bcast d (i :: tail)) * fmtBits (dFmt d) + bit) / 8) / 512 % 16
      [bank (128 * u) 0, bank (min (128 * u + 127) (n0 - 1)) (fmtBits (dFmt d) - 1)]

/-- VOPs that take one beat per cycle from two sources (Table 2 of ch. 06). -/
def twoBeatVop (v : Nat) : Bool := decide (v < 0x10) || (decide (0x20 ≤ v) && decide (v < 0x2A)) || v == 0x41 || v == 0x54

/-- Bank conflicts of one instruction over the sources that it reads: none with fewer than two scratchpad sources; for two, the beats that share a bank;
for three, and for classes of another rate, a free value (R233; log 4). -/
def bankConflict (s : State) (h c : Nat) (w : VInstr) (s' : State) : State :=
  let ts := ((vReads w).filterMap (stepTensor s h)).filter fun t => dSpace t.d == 1
  match ts with
  | [] => s'
  | [_] => s'
  | [a, b] =>
    if twoBeatVop (vVop w) then
      let shape := if vVop w = 0x41 || vVop w = 0x54 then dSizes a.d else
        ((stepTensor s h (vDst w)).map fun t => dSizes t.d).getD (dSizes a.d)
      let same := ((beatBanks a.d shape).zip (beatBanks b.d shape)).filter fun p => p.1.any p.2.contains
      coreEvent c 0x200A same.length s'
    else coreWaitFree c 0x200A s'
  | _ => coreWaitFree c 0x200A s'

def bankConflicts (s : State) (h c : Nat) (is : List VInstr) (s' : State) : State :=
  (is.filter fun w => vVop w != 0x70).foldl (fun s' w => bankConflict s h c w s') s'

/-- A vector stitch's work: resident rows that it writes are protected first (R164). -/
def commitVector (h c l n : Nat) (e : Entry) (is : List VInstr) (s : State) : State :=
  let s := (is.flatMap vWrites).foldl (fun s i => match stepTensor s h i with
    | some t => protectTensor h t s
    | none => s) s
  let v := runVector (vecEnv s h c l n is) h is s
  let s := addCounts c v.cnt v.cnt.made v.s
  let s := coreEvent c 0x2014 v.compOver (coreEvent c 0x2013 v.filled (coreEvent c 0x2012 v.wraps s))
  let s := modStep h (fun st => { st with conds := condIf (decide (0 < v.filled)) .indexFilled st.conds }) s
  let s := v.amax.foldl (fun s a => stageAmax h a.1 a.2 s) (handSummaries h c v.sums s)
  let src := ((is.head?.bind fun w => stepTensor s h (vSrc0 w)).map (·.d)).getD 0
  let dst := ((is.getLast?.bind fun w => stepTensor s h (vDst w)).map (·.d)).getD 0
  let sr := is.any fun w => cvtRound (vCvt w) == .sr ||
    (vVop w == 0x70 && ((stepUpdate s h (vSrc1 w)).map fun u => cvtRound (uWcvt u) == .sr).getD false)
  seedWait c sr (bankConflicts s h c is (noteFate c e.fate src dst s))

/-! ## Window stitches (R283 to R292) -/

/-- Store a window stitch's output, with its counts and amax. -/
def storeWindow (h c cvt : Nat) (dst : Tensor) (o : WinOut) (s : State) : State :=
  let q := putWindow h cvt dst o o.runs s
  stageAmax h (dTensorId dst.d) (toF32 (maxMag (o.runs.flatMap (·.2)))) (addCounts c (totalCnt q.2) o.made q.1)

def poolStitch (h c : Nat) (w : WWord) (cvt : Nat) (src : Tensor) (dst : Option Tensor) (halos : Halos) (s : State) : State :=
  if outEmpty w src.d then emptyOutput h s else match dst with
    | none => s
    | some dst =>
      let o := poolOut s w src halos dst
      lateFree c 0x2006 (poolLate w) (coreEvent c 0x2015 o.marks (storeWindow h c cvt dst o s))

def cropStitch (h c : Nat) (w : WWord) (cvt : Nat) (src dst boxes : Tensor) (reg : W64) (s : State) : State :=
  let k := boxCount w reg boxes
  let s := if k.2 then coreEvent c 0x2016 1 s else s
  if k.1 = 0 then emptyOutput h s else
    let o := cropOut s w src dst boxes k.1
    let s := coreEvent c 0x2017 o.marks (coreEvent c 0x2013 o.filled (storeWindow h c cvt dst o s))
    modStep h (fun st => { st with conds := condIf (decide (0 < o.filled)) .indexFilled st.conds }) s

/-- A window stitch's work; a crop-and-resize stitch uses the box count that its lane took at the start. -/
def commitWindow (h c l : Nat) (x : WindowStitch) (s : State) : State :=
  match stepWindow s h x.window, stepTensor s h x.src with
  | some w, some src =>
    if wOp w = 4 then match stepTensor s h x.box, stepTensor s h x.dst with
      | some b, some dst => cropStitch h c w x.cvt.toNat src dst b (laneOf s c l).box s
      | _, _ => s
    else poolStitch h c w x.cvt.toNat src (stepTensor s h x.dst) (halosOf s h x.haloAbove x.haloBelow) s
  | _, _ => s

/-! ## Commit points -/

/-- The stitches of a list that read halo slot b for one layer with the one at index n: those between the slot's fences about it. -/
def haloGroup (es : List Entry) (b n : Nat) : List Nat :=
  let fence (i : Nat) : Bool := (es[i]?).any (isFenceOf b)
  let lo := ((List.range n).reverse.find? fence).getD 0
  let hi := ((List.range es.length).find? fun i => decide (n < i) && fence i).getD es.length
  (List.range es.length).filter fun i => decide (lo ≤ i) && decide (i < hi) && (es[i]?).any fun e => (haloReads e).contains b

/-- The entry at an index lies behind its lane. -/
def entryPassed (s : State) (c i : Nat) : Bool :=
  ((coreList s c)[i]?).any fun e => (laneOf s c e.lane).finished || decide (i < (laneOf s c e.lane).next)

/-- After the last stitch that reads a halo slot for its layer has reached its commit point, FREE is signalled (R280). -/
def freeHalos (c n : Nat) (s : State) : State :=
  match (coreOf s c).step, (coreList s c)[n]? with
  | some h, some e => match stepPattern s h with
    | none => s
    | some pat => (haloReads e).foldl (fun s b =>
        if (haloGroup (coreList s c) b n).all fun i => i == n || entryPassed s c i then
          (pat.haloSlots.filter fun k => k.slot == b).foldl (fun s k => signalSem (handlePart h) k.free s) s
        else s) s
  | _, _ => s

/-- The stitch of a lane has reached its commit point: it is counted and the lane goes on. -/
def endStitch (c l n : Nat) (s : State) : State :=
  let s := coreWaitFree c 0x2001 (coreEvent c 0x2003 1 s)
  let s := match (coreOf s c).step, (coreList s c)[n]? with
    | some h, some e => mapWait s h c e s
    | _, _ => s
  let s := modCore c (fun x => { x with weights := none }) (freeHalos c n s)
  atBoundary c (passEntry c l (closeWindow c n s))

/-- Pages of the unified range that a vector stitch's UPDATE instructions reach. -/
def vectorPages (s : State) (h : Nat) (is : List VInstr) : List Nat :=
  is.flatMap fun w => if vVop w = 0x70 then updatePages s h w else []

/-- STITCH_COMMIT of a lane. -/
def commitStitch (c l : Nat) (s : State) : State :=
  let x := coreOf s c
  match x.step, laneEntry s c l with
  | some h, some (n, e) =>
    if x.saving || x.restoring || !isStitch e || ((getStep s h).map (·.state)) != some .running then s
    else if !(laneOf s c l).started then if orderHeld s c l e then coreWaitFree c 0x2009 s else s
    else if sentinelHolds s h c e then coreWaitFree c 0x2007 s
    else if prefetchHolds s h c n e then (match e.op with
      -- the cycles at the weight-ready fence are those that its event names
      | .array _ => if x.fenced then s else prefetchWaits h c n e s
      | _ => prefetchWaits h c n e s)
    else match e.op with
      | .array a =>
        -- the fence holds the array until the weights stand in the active registers (R157)
        if (coreOf s c).fenced || (coreOf s c).weights != some n then s else endStitch c l n (commitArray h c l n e a s)
      | .vector is =>
        let pages := vectorPages s h is
        if accessWaits s pages then coreWaitFree c 0x1001 s else match accessTrouble s pages with
          | some t => stopOnPage h t s
          | none => endStitch c l n (commitVector h c l n e is (touchPages pages s))
      | .window w => endStitch c l n (commitWindow h c l w s)
      | .walk b => walkCommit h c l n b s
      | _ => s
  | _, _ => s

def execStitchCommit (core : CoreId) (lane : LaneId) (s : State) : Host.Outcome State Fault Refusal :=
  whenLive (commitStitch core.val lane.val) s

/-- WEIGHT_READY_FENCE: the waiting cycles count, and the swap takes place unless a prefetch of the weights is still in flight
(R157, R360). -/
def weightSwap (c l waited : Nat) (s : State) : State :=
  match (coreOf s c).step, laneEntry s c l with
  | some h, some (n, e) =>
    match e.op with
    | .array a => if (laneOf s c l).started then
        startWeights h c n a (fenceStall c 0x2005 waited (prefetchesMet s h c n (weightSpans s h a)) s) else s
    | _ => s
  | _, _ => s

def execWeightReadyFence (core : CoreId) (lane : LaneId) (waited : Nat) (s : State) : Host.Outcome State Fault Refusal :=
  whenLive (weightSwap core.val lane.val waited) s

/-! ## The stem engine (R272 to R275) -/

/-- A stem stitch's work on its die's engine. -/
def commitStem (h d c l n : Nat) (e : Entry) (a : ArrayStitch) (s : State) : State :=
  match stepTensor s h a.act, stepTensor s h a.wt, stepWindow s h a.window with
  | some act, some wt, some w =>
    if outEmpty w act.d then emptyOutput h s else
      let f := stemFeed s a.mode w act wt (halosOf s h a.haloAbove a.haloBelow)
      let o := arrayRows s (.stem d) f a.firstRow (rectTokens w) (mCols a.mode + 1) fun _ => mAcc a.mode == 0
      let s := outStage h c l n a (some w) o.rows (writeRows (.stem d) a.firstRow o.rows s)
      noteFate c e.fate act.d (((stepTensor s h a.dst).map (·.d)).getD 0) (coreEvent c 0x200E o.made s)
  | _, _, _ => s

/-- STEM_STITCH: the engine takes the head of its queue, and a stitch that waited for room joins it. -/
def stemNext (d : Nat) (s : State) : State :=
  match (cdOf s d).stem with
  | [] => s
  | (c, l) :: rest =>
    if (cdOf s d).stemFault then s else
      let drop (s : State) : State := modCd d (fun k => { k with stem := rest }) s
      match (coreOf s c).step, laneEntry s c l with
      | some h, some (n, e) =>
        if ((getStep s h).map (·.state)) != some .running then wakeStem d (drop s) else
          match e.op with
          | .stem a =>
            if sentinelHolds s h c e then coreWaitFree c 0x2007 s
            else if prefetchHolds s h c n e then prefetchWaits h c n e s
            else
              let s := mapWait s h c e <| coreWaitFree c 0x200B (coreEvent c 0x2003 1 (commitStem h d c l n e a (drop s)))
              wakeStem d (atBoundary c (passEntry c l (closeWindow c n (freeHalos c n s))))
          | _ => wakeStem d (drop s)
      | _, _ => wakeStem d (drop s)

def execStemStitch (die : CdId) (s : State) : Host.Outcome State Fault Refusal := whenLive (stemNext die.val) s

end Sys2Proof.Machine
end

