-- ==== Sys2Proof/Machine/Tick.lean ====
section
/-!
DEFINITION. The tick edge (R39 to R42, Table 5 of ch. 01).
-/
namespace Sys2Proof.Machine

/-- Action 1: the tick count. -/
def countTick (s : State) : State := { s with steward.tick := s.steward.tick + 1 }

/-- Action 2: the snapshots; then waiting counter words apply (R563). -/
def snapshotTick (env : TickEnv) (s : State) : State :=
  applyWords { snapCounters s with collector.telemetry := telemetryBytes env s }

/-- Action 3: the accounts of every partition. -/
def accountTick (env : TickEnv) (s : State) : State :=
  { s with parts := tmap s.parts fun p x => closeAccounts env.ranNs (tickPeriod s) p x }

/-- A period and a link group descriptor that wait take effect (R40, R448). -/
def timingTick (s : State) : State :=
  { s with
    steward.period := s.steward.nextPeriod.getD s.steward.period
    steward.nextPeriod := none
    links.group := s.links.nextGroup.getD s.links.group
    links.nextGroup := none }

/-- What the links do at an edge: SYNC_OUT, the markers of a master on its own timer, and one violation record per port
and tick begins anew (R449, R454, R459). -/
def linkTick (s : State) : State :=
  let s := { s with links.ports := tmap s.links.ports fun _ p => { p with eventThisTick := false } }
  let s := if lgSyncOut s.links.group then emit .syncOut s else s
  if lgSource s.links.group = 1 then sendMarkers 0 s.steward.tick.toNat s else s

/-- The event vector, for records since the last edge (R546). -/
def eventTick (s : State) : State :=
  if s.steward.eventDue then msix 0 s.host.eventVector { s with steward.eventDue := false } else s

/-- The seven actions in their order, each on the results of those before it. -/
def tickActions (env : TickEnv) (s : State) : State :=
  migrationBatch (scheduleTick (powerTick env (pelotonTick (timingTick (accountTick env (snapshotTick env (countTick s)))))))

/-- What else happens at an edge: the sweep of USE, locks, codec sessions, recalibration, planned takeovers, links, the event vector. -/
def tickRest (s : State) : State :=
  eventTick (linkTick (stewardTick (stackTick (codecTick (lockTick (useSweep s))))))

/-- TICK_EDGE. A steward that had not finished the earlier tick counts an overrun; no tick is skipped (R42). -/
def tickEdge (env : TickEnv) (s : State) : State :=
  let s := if env.late then devEvent 0x0002 0xFFFE 1 s else s
  tickRest (tickActions env s)

def execTickEdge (env : TickEnv) (s : State) : Host.Outcome State Fault Refusal := whenLive (tickEdge env) s

end Sys2Proof.Machine
end

