-- ==== Sys2Proof/Machine/Dispatch.lean ====
section
/-!
DEFINITION. The dispatch: one arm per command, each a call of its meaning.
-/
namespace Sys2Proof.Machine

def exec (i : Instr) (s : State) : Host.Outcome State Fault Refusal :=
  match i with
  | .mbxDoorbell fn value => Sys2Proof.Machine.execMbxDoorbell fn value s
  | .mbxStatusWrite fn value => Sys2Proof.Machine.execMbxStatusWrite fn value s
  | .ringHeadWrite fn value => Sys2Proof.Machine.execRingHeadWrite fn value s
  | .slotDb fn slot value => Sys2Proof.Machine.execSlotDb fn slot value s
  | .barWrite fn bar offset bytes => Sys2Proof.Machine.execBarWrite fn bar offset bytes s
  | .poisonedTlp fn bar offset => Sys2Proof.Machine.execPoisonedTlp fn bar offset s
  | .oversizeBarRead fn bar offset size => Sys2Proof.Machine.execOversizeBarRead fn bar offset size s
  | .dmaReadError handle addr => Sys2Proof.Machine.execDmaReadError handle addr s
  | .vfFunctionLevelReset vf => Sys2Proof.Machine.execVfFunctionLevelReset vf s
  | .pfFunctionLevelReset => Sys2Proof.Machine.execPfFunctionLevelReset s
  | .vfEnableClear => Sys2Proof.Machine.execVfEnableClear s
  | .vfEnableSet => Sys2Proof.Machine.execVfEnableSet s
  | .hotReset => Sys2Proof.Machine.execHotReset s
  | .coalesceTimer fn vector => Sys2Proof.Machine.execCoalesceTimer fn vector s
  | .deviceInfo fn hdr => Sys2Proof.Machine.execDeviceInfo fn hdr s
  | .ringSet fn hdr base entries writeback k t => Sys2Proof.Machine.execRingSet fn hdr base entries writeback k t s
  | .handleQuery fn hdr => Sys2Proof.Machine.execHandleQuery fn hdr s
  | .eventRoute fn hdr vector => Sys2Proof.Machine.execEventRoute fn hdr vector s
  | .castOn fn hdr desc => Sys2Proof.Machine.execCastOn fn hdr desc s
  | .bindOff fn hdr partition => Sys2Proof.Machine.execBindOff fn hdr partition s
  | .partitionList fn hdr => Sys2Proof.Machine.execPartitionList fn hdr s
  | .tickSet fn hdr period => Sys2Proof.Machine.execTickSet fn hdr period s
  | .memAlloc fn hdr pages cls readOnly backing => Sys2Proof.Machine.execMemAlloc fn hdr pages cls readOnly backing s
  | .memFree fn hdr object => Sys2Proof.Machine.execMemFree fn hdr object s
  | .memClassSet fn hdr object cls => Sys2Proof.Machine.execMemClassSet fn hdr object cls s
  | .memMigrate fn hdr object first count tier => Sys2Proof.Machine.execMemMigrate fn hdr object first count tier s
  | .memCopy fn hdr src dst cvt => Sys2Proof.Machine.execMemCopy fn hdr src dst cvt s
  | .memFill fn hdr object first count pattern => Sys2Proof.Machine.execMemFill fn hdr object first count pattern s
  | .memQuery fn hdr object => Sys2Proof.Machine.execMemQuery fn hdr object s
  | .poolQuery fn hdr => Sys2Proof.Machine.execPoolQuery fn hdr s
  | .memHostRegister fn hdr addrs => Sys2Proof.Machine.execMemHostRegister fn hdr addrs s
  | .memHostRelease fn hdr count list => Sys2Proof.Machine.execMemHostRelease fn hdr count list s
  | .tierMapRead fn hdr first count dst => Sys2Proof.Machine.execTierMapRead fn hdr first count dst s
  | .tierSet fn hdr mode shares darnLimit => Sys2Proof.Machine.execTierSet fn hdr mode shares darnLimit s
  | .patternLoad fn hdr desc image => Sys2Proof.Machine.execPatternLoad fn hdr desc image s
  | .patternUnload fn hdr pattern => Sys2Proof.Machine.execPatternUnload fn hdr pattern s
  | .jobCreate fn hdr pattern cls quads banks weight slice context => Sys2Proof.Machine.execJobCreate fn hdr pattern cls quads banks weight slice context s
  | .jobDestroy fn hdr job => Sys2Proof.Machine.execJobDestroy fn hdr job s
  | .jobSet fn hdr job cls weight slice => Sys2Proof.Machine.execJobSet fn hdr job cls weight slice s
  | .stepSubmit fn hdr ops => Sys2Proof.Machine.execStepSubmit fn hdr ops s
  | .stepStop fn hdr => Sys2Proof.Machine.execStepStop fn hdr s
  | .stepResume fn hdr => Sys2Proof.Machine.execStepResume fn hdr s
  | .schedQuery fn hdr job => Sys2Proof.Machine.execSchedQuery fn hdr job s
  | .fastpathArm fn hdr slot ops => Sys2Proof.Machine.execFastpathArm fn hdr slot ops s
  | .fastpathDisarm fn hdr slot => Sys2Proof.Machine.execFastpathDisarm fn hdr slot s
  | .stepCommit fn hdr => Sys2Proof.Machine.execStepCommit fn hdr s
  | .stepFrog fn hdr => Sys2Proof.Machine.execStepFrog fn hdr s
  | .bankCreate fn hdr ops => Sys2Proof.Machine.execBankCreate fn hdr ops s
  | .bankExport fn hdr bank w m v => Sys2Proof.Machine.execBankExport fn hdr bank w m v s
  | .bankImport fn hdr bank w m v t p1 p2 => Sys2Proof.Machine.execBankImport fn hdr bank w m v t p1 p2 s
  | .bankDestroy fn hdr bank => Sys2Proof.Machine.execBankDestroy fn hdr bank s
  | .replayLogSet fn hdr addr size => Sys2Proof.Machine.execReplayLogSet fn hdr addr size s
  | .replay fn hdr epoch subs outs report => Sys2Proof.Machine.execReplay fn hdr epoch subs outs report s
  | .pelotonForm fn hdr desc => Sys2Proof.Machine.execPelotonForm fn hdr desc s
  | .pelotonDisband fn hdr peloton => Sys2Proof.Machine.execPelotonDisband fn hdr peloton s
  | .pelotonReshard fn hdr peloton epoch shards pairs => Sys2Proof.Machine.execPelotonReshard fn hdr peloton epoch shards pairs s
  | .pelotonFrog fn hdr peloton epoch => Sys2Proof.Machine.execPelotonFrog fn hdr peloton epoch s
  | .pelotonSubstitute fn hdr peloton rank linkId port => Sys2Proof.Machine.execPelotonSubstitute fn hdr peloton rank linkId port s
  | .pelotonPolicy fn hdr peloton window peerLimit latePolicy thin headroom => Sys2Proof.Machine.execPelotonPolicy fn hdr peloton window peerLimit latePolicy thin headroom s
  | .pelotonQuery fn hdr peloton => Sys2Proof.Machine.execPelotonQuery fn hdr peloton s
  | .codecSessionOpen fn hdr ops => Sys2Proof.Machine.execCodecSessionOpen fn hdr ops s
  | .codecSessionClose fn hdr session => Sys2Proof.Machine.execCodecSessionClose fn hdr session s
  | .codecFeed fn hdr session count => Sys2Proof.Machine.execCodecFeed fn hdr session count s
  | .codecRelease fn hdr session entries area => Sys2Proof.Machine.execCodecRelease fn hdr session entries area s
  | .codecEncFrame fn hdr session buffer timestamp forceIrap => Sys2Proof.Machine.execCodecEncFrame fn hdr session buffer timestamp forceIrap s
  | .codecQuery fn hdr session => Sys2Proof.Machine.execCodecQuery fn hdr session s
  | .actEncode fn hdr call src dst ref bound => Sys2Proof.Machine.execActEncode fn hdr call src dst ref bound s
  | .actDecode fn hdr call src dst ref bound => Sys2Proof.Machine.execActDecode fn hdr call src dst ref bound s
  | .actRelease fn hdr session spill => Sys2Proof.Machine.execActRelease fn hdr session spill s
  | .kvSpaceCreate fn hdr ops => Sys2Proof.Machine.execKvSpaceCreate fn hdr ops s
  | .kvSpaceDestroy fn hdr space => Sys2Proof.Machine.execKvSpaceDestroy fn hdr space s
  | .kvSeqOpen fn hdr space => Sys2Proof.Machine.execKvSeqOpen fn hdr space s
  | .kvSeqFork fn hdr space parent length => Sys2Proof.Machine.execKvSeqFork fn hdr space parent length s
  | .kvSeqTruncate fn hdr space seq length => Sys2Proof.Machine.execKvSeqTruncate fn hdr space seq length s
  | .kvSeqClose fn hdr space seq => Sys2Proof.Machine.execKvSeqClose fn hdr space seq s
  | .kvAttach fn hdr space seq tags blocks => Sys2Proof.Machine.execKvAttach fn hdr space seq tags blocks s
  | .kvAppend fn hdr space seq n k v tags permit => Sys2Proof.Machine.execKvAppend fn hdr space seq n k v tags permit s
  | .kvSeqQuery fn hdr space seq => Sys2Proof.Machine.execKvSeqQuery fn hdr space seq s
  | .prefixRead fn hdr space dst first => Sys2Proof.Machine.execPrefixRead fn hdr space dst first s
  | .prefixFlush fn hdr space => Sys2Proof.Machine.execPrefixFlush fn hdr space s
  | .counterSet fn hdr scope counter word => Sys2Proof.Machine.execCounterSet fn hdr scope counter word s
  | .eventRead fn hdr first count dst => Sys2Proof.Machine.execEventRead fn hdr first count dst s
  | .faultClear fn hdr tick code => Sys2Proof.Machine.execFaultClear fn hdr tick code s
  | .telemetryRead fn hdr => Sys2Proof.Machine.execTelemetryRead fn hdr s
  | .serviceSet fn hdr limit => Sys2Proof.Machine.execServiceSet fn hdr limit s
  | .coreSpare fn hdr core spare => Sys2Proof.Machine.execCoreSpare fn hdr core spare s
  | .fwUpdate fn hdr image => Sys2Proof.Machine.execFwUpdate fn hdr image s
  | .fwCommit fn hdr => Sys2Proof.Machine.execFwCommit fn hdr s
  | .fwRevert fn hdr => Sys2Proof.Machine.execFwRevert fn hdr s
  | .ucodeLoad fn hdr pair image => Sys2Proof.Machine.execUcodeLoad fn hdr pair image s
  | .stewardSwitch fn hdr => Sys2Proof.Machine.execStewardSwitch fn hdr s
  | .linkGroupSet fn hdr desc => Sys2Proof.Machine.execLinkGroupSet fn hdr desc s
  | .linkRecal fn hdr port => Sys2Proof.Machine.execLinkRecal fn hdr port s
  | .linkTrain fn hdr port => Sys2Proof.Machine.execLinkTrain fn hdr port s
  | .stackRecal fn hdr stack => Sys2Proof.Machine.execStackRecal fn hdr stack s
  | .farPortRestart fn hdr port => Sys2Proof.Machine.execFarPortRestart fn hdr port s
  | .attest fn hdr nonce dst => Sys2Proof.Machine.execAttest fn hdr nonce dst s
  | .identityRead fn hdr dst => Sys2Proof.Machine.execIdentityRead fn hdr dst s
  | .ownerEnroll fn hdr key signature => Sys2Proof.Machine.execOwnerEnroll fn hdr key signature s
  | .powerSet fn hdr word => Sys2Proof.Machine.execPowerSet fn hdr word s
  | .settingsSave fn hdr => Sys2Proof.Machine.execSettingsSave fn hdr s
  | .settingsQuery fn hdr => Sys2Proof.Machine.execSettingsQuery fn hdr s
  | .fwRecover fn hdr addr length ownerKey => Sys2Proof.Machine.execFwRecover fn hdr addr length ownerKey s
  | .settingsRecordWrite readBackOk => Sys2Proof.Machine.execSettingsRecordWrite readBackOk s
  | .tickEdge env => Sys2Proof.Machine.execTickEdge env s
  | .stepAdmission handle => Sys2Proof.Machine.execStepAdmission handle s
  | .classZeroStart handle => Sys2Proof.Machine.execClassZeroStart handle s
  | .stateSave core => Sys2Proof.Machine.execStateSave core s
  | .restore core => Sys2Proof.Machine.execRestore core s
  | .stitchCommit core lane => Sys2Proof.Machine.execStitchCommit core lane s
  | .weightReadyFence core lane waited => Sys2Proof.Machine.execWeightReadyFence core lane waited s
  | .sentinelRecompute core => Sys2Proof.Machine.execSentinelRecompute core s
  | .stepHeld handle => Sys2Proof.Machine.execStepHeld handle s
  | .frogComplete handle => Sys2Proof.Machine.execFrogComplete handle s
  | .branchingFence core lane => Sys2Proof.Machine.execBranchingFence core lane s
  | .stewardMerge handle merge => Sys2Proof.Machine.execStewardMerge handle merge s
  | .amaxFence handle index => Sys2Proof.Machine.execAmaxFence handle index s
  | .signal core lane => Sys2Proof.Machine.execSignal core lane s
  | .wait core lane => Sys2Proof.Machine.execWait core lane s
  | .acquire core lane => Sys2Proof.Machine.execAcquire core lane s
  | .release core lane => Sys2Proof.Machine.execRelease core lane s
  | .csOverrun part lock => Sys2Proof.Machine.execCsOverrun part lock s
  | .coreMoverTransfer core index => Sys2Proof.Machine.execCoreMoverTransfer core index s
  | .prefetchDeadline core layer waited => Sys2Proof.Machine.execPrefetchDeadline core layer waited s
  | .haloPut core lane => Sys2Proof.Machine.execHaloPut core lane s
  | .haloFence core lane => Sys2Proof.Machine.execHaloFence core lane s
  | .stemStitch die => Sys2Proof.Machine.execStemStitch die s
  | .appendEntry core lane => Sys2Proof.Machine.execAppendEntry core lane s
  | .collectiveCall core lane => Sys2Proof.Machine.execCollectiveCall core lane s
  | .collectiveFence core lane => Sys2Proof.Machine.execCollectiveFence core lane s
  | .redScatter part peloton => Sys2Proof.Machine.execRedScatter part peloton s
  | .redGather part peloton => Sys2Proof.Machine.execRedGather part peloton s
  | .paramGather part peloton => Sys2Proof.Machine.execParamGather part peloton s
  | .exchange part peloton => Sys2Proof.Machine.execExchange part peloton s
  | .exchangeReturn part peloton => Sys2Proof.Machine.execExchangeReturn part peloton s
  | .ringKv part peloton => Sys2Proof.Machine.execRingKv part peloton s
  | .ringGrad part peloton => Sys2Proof.Machine.execRingGrad part peloton s
  | .ringLate core lane => Sys2Proof.Machine.execRingLate core lane s
  | .reshardData part peloton => Sys2Proof.Machine.execReshardData part peloton s
  | .reshardToken part peloton => Sys2Proof.Machine.execReshardToken part peloton s
  | .substToken part peloton => Sys2Proof.Machine.execSubstToken part peloton s
  | .groupFrog part peloton => Sys2Proof.Machine.execGroupFrog part peloton s
  | .abort part peloton => Sys2Proof.Machine.execAbort part peloton s
  | .lateExclusion part peloton call => Sys2Proof.Machine.execLateExclusion part peloton call s
  | .lateContribution part peloton call => Sys2Proof.Machine.execLateContribution part peloton call s
  | .peerTimeout part peloton call => Sys2Proof.Machine.execPeerTimeout part peloton call s
  | .lapTimeout part peloton => Sys2Proof.Machine.execLapTimeout part peloton s
  | .pelotonFormed part peloton => Sys2Proof.Machine.execPelotonFormed part peloton s
  | .migrationComplete page => Sys2Proof.Machine.execMigrationComplete page s
  | .darnLimit page row spareLeft => Sys2Proof.Machine.execDarnLimit page row spareLeft s
  | .hbmUncorrectable page row spareLeft => Sys2Proof.Machine.execHbmUncorrectable page row spareLeft s
  | .pageRestore page => Sys2Proof.Machine.execPageRestore page s
  | .farPoison page handle => Sys2Proof.Machine.execFarPoison page handle s
  | .farLinkDown port => Sys2Proof.Machine.execFarLinkDown port s
  | .farMedia port code => Sys2Proof.Machine.execFarMedia port code s
  | .scrub target corrected => Sys2Proof.Machine.execScrub target corrected s
  | .coreDegraded core => Sys2Proof.Machine.execCoreDegraded core s
  | .stackDrift stack => Sys2Proof.Machine.execStackDrift stack s
  | .coreSwap core => Sys2Proof.Machine.execCoreSwap core s
  | .faultCollected => Sys2Proof.Machine.execFaultCollected s
  | .coreSramUe core addr => Sys2Proof.Machine.execCoreSramUe core addr s
  | .coreParity core block => Sys2Proof.Machine.execCoreParity core block s
  | .mapbufUe die bank addr => Sys2Proof.Machine.execMapbufUe die bank addr s
  | .stemFault die => Sys2Proof.Machine.execStemFault die s
  | .codecPairUe pair => Sys2Proof.Machine.execCodecPairUe pair s
  | .linkBufferUe port => Sys2Proof.Machine.execLinkBufferUe port s
  | .slotStoreError fn slot => Sys2Proof.Machine.execSlotStoreError fn slot s
  | .collectorSelfFault mask => Sys2Proof.Machine.execCollectorSelfFault mask s
  | .overTemperature die temp => Sys2Proof.Machine.execOverTemperature die temp s
  | .stewardCoreFault core => Sys2Proof.Machine.execStewardCoreFault core s
  | .stewardDoubleFault core => Sys2Proof.Machine.execStewardDoubleFault core s
  | .clusterSelfTest pass => Sys2Proof.Machine.execClusterSelfTest pass s
  | .handover => Sys2Proof.Machine.execHandover s
  | .dataFlit port codewordOk flit => Sys2Proof.Machine.execDataFlit port codewordOk flit s
  | .idleFlit port codewordOk flit => Sys2Proof.Machine.execIdleFlit port codewordOk flit s
  | .nak port codewordOk flit => Sys2Proof.Machine.execNak port codewordOk flit s
  | .fenceIdle port => Sys2Proof.Machine.execFenceIdle port s
  | .replayTimeout port => Sys2Proof.Machine.execReplayTimeout port s
  | .fastRetrain port lanes advanced => Sys2Proof.Machine.execFastRetrain port lanes advanced s
  | .fullTraining port lanes => Sys2Proof.Machine.execFullTraining port lanes s
  | .codewordLockLost port => Sys2Proof.Machine.execCodewordLockLost port s
  | .laneDegrade port lane => Sys2Proof.Machine.execLaneDegrade port lane s
  | .laneRecalDone port lane pass => Sys2Proof.Machine.execLaneRecalDone port lane pass s
  | .config port linkId partnerPort lanes baud ackSeq isSwitch => Sys2Proof.Machine.execConfig port linkId partnerPort lanes baud ackSeq isSwitch s
  | .echoReq port time => Sys2Proof.Machine.execEchoReq port time s
  | .echoResp port time turnaround now => Sys2Proof.Machine.execEchoResp port time turnaround now s
  | .vcReset port vc => Sys2Proof.Machine.execVcReset port vc s
  | .answer port src payload => Sys2Proof.Machine.execAnswer port src payload s
  | .tickMarker port accum tickLo phase => Sys2Proof.Machine.execTickMarker port accum tickLo phase s
  | .markerMissed => Sys2Proof.Machine.execMarkerMissed s
  | .syncIn sinceLast => Sys2Proof.Machine.execSyncIn sinceLast s
  | .linkReferenceLost ref => Sys2Proof.Machine.execLinkReferenceLost ref s
  | .unitBoundary pair => Sys2Proof.Machine.execUnitBoundary pair s
  | .unitRecord part session => Sys2Proof.Machine.execUnitRecord part session s
  | .starveLimit part session => Sys2Proof.Machine.execStarveLimit part session s
  | .pictureOutput part session entry => Sys2Proof.Machine.execPictureOutput part session entry s
  | .activationCallComplete part call => Sys2Proof.Machine.execActivationCallComplete part call s
  | .ucodeLoadDone pair => Sys2Proof.Machine.execUcodeLoadDone pair s
  | .supplyDip rail lowest => Sys2Proof.Machine.execSupplyDip rail lowest s
  | .supplyDipRecord rail lowest below => Sys2Proof.Machine.execSupplyDipRecord rail lowest below s
  | .supplyCollapse rail => Sys2Proof.Machine.execSupplyCollapse rail s
  | .gearStep die => Sys2Proof.Machine.execGearStep die s
  | .avsAck die => Sys2Proof.Machine.execAvsAck die s
  | .avsTimeout die => Sys2Proof.Machine.execAvsTimeout die s
  | .freewheel die => Sys2Proof.Machine.execFreewheel die s
  | .powerOn env => Sys2Proof.Machine.execPowerOn env s
  | .resetN lowNs env => Sys2Proof.Machine.execResetN lowNs env s
  | .perstN lowNs env => Sys2Proof.Machine.execPerstN lowNs env s
  | .trstN => Sys2Proof.Machine.execTrstN s
  | .bmcRead address offset count => Sys2Proof.Machine.execBmcRead address offset count s
  | .standbyStewardFault => Sys2Proof.Machine.execStandbyStewardFault s
  | .farPortEnumerated port frames same => Sys2Proof.Machine.execFarPortEnumerated port frames same s
  | .farLinkBackUp port => Sys2Proof.Machine.execFarLinkBackUp port s
  | .testAccessPortInstruction code => Sys2Proof.Machine.execTestAccessPortInstruction code s

end Sys2Proof.Machine
end

