-- ==== Sys2Proof/Safety.lean ====
section
/-!
DEFINITION. What counts as a safe run, and the conditions and outcomes in whose terms the statements are written.
-/
namespace Sys2Proof.Safety
open Sys2Proof.Machine

/-- What a command answers. -/
abbrev Out := Host.Outcome State Fault Refusal

/-- A step that goes on: neither a fault nor a refusal. -/
def Goes (s : State) : Prop := ∃ t, step s = .next t

/-- The memory of the block is in canonical form: addresses strictly rising, no byte 0 listed. -/
def MemOk (s : State) : Prop := Sys2Proof.Machine.Memory.wf s.mem

/-- The device is in the safe state of R540. -/
def InSafe (s : State) : Prop := s.collector.safe = true

/-- Commands that a reset or a power-up of the device is made of (Table 7 of ch. 15). -/
def isReset : Instr → Bool
  | .powerOn _ => true
  | .resetN _ _ => true
  | .perstN _ _ => true
  | _ => false

/-- The steward runs and the device is not in the safe state (R541, R592). -/
def Running (s : State) : Prop := s.steward.life = .ready ∧ s.collector.safe = false

/-- The function is there for the host (R59) and the message names a vector that it has, or none (R61, Table 8 of
ch. 02). -/
def Reached (s : State) (fn : Fn) (hdr : Hdr) : Prop := fnExists s fn = true ∧ cvecOk fn hdr = true

/-- A message through `fn` reaches the rules of its own command: the device runs, and the message is well framed. -/
def Heard (s : State) (fn : Fn) (hdr : Hdr) : Prop := Running s ∧ Reached s fn hdr

/-- The virtual function of partition p (R59, R60). -/
def vfOf (p : PartId) : Fn := ⟨p.val + 1, Nat.succ_lt_succ p.isLt⟩

/-- A message through the PF reaches the rules of its own command (Table 9 of ch. 02). -/
def HeardPf (s : State) (hdr : Hdr) : Prop := Heard s 0 hdr

/-- The message acts on the cast-on partition p, which is x (R60, R504). -/
def Acts (s : State) (fn : Fn) (hdr : Hdr) (p : Nat) (x : Partition) : Prop := msgPart fn hdr = some p ∧ getPart s p = some x

/-- A command that is carried out at once: its reply has status 0, RESULT and the data, in the state it leaves. -/
def answered (fn : Fn) (opcode : Nat) (hdr : Hdr) (result : W64) (data : List Byte) (t : State) : Out :=
  .next (reply fn opcode hdr 0 result 0 data t)

/-- A refused command: the reply carries the status, and nothing else changes (R77). -/
def refusedWith (fn : Fn) (opcode : Nat) (hdr : Hdr) (status : Nat) (s : State) : Out :=
  .next (reply fn opcode hdr status 0 0 [] s)

/-- A long command that is accepted: the next handle of its kind is issued in t, the reply carries it with RESULT, and
`after` is what happens with that handle once the reply is written (R79, R82). -/
def accepted (fn : Fn) (opcode : Nat) (hdr : Hdr) (part : Option Nat) (kind : Nat) (op : LongOp) (result : W64)
    (after : Nat → State → State) (t : State) : Out :=
  .next (after (issue fn hdr part kind op t).1
    (reply fn opcode hdr 0 result (issue fn hdr part kind op t).1 [] (issue fn hdr part kind op t).2))

/-- There is room behind the function's ring for one more completion entry (R87). -/
def Room (t : State) (fn : Fn) : Prop := (fnOf t fn).overflow.length < 1024

/-- An operand's descriptor is well formed, lies in the unified range and names pages that the partition may use (R624,
Table 12 of ch. 02). -/
def UnifiedOk (s : State) (p : Nat) (x : Partition) (d : DescWord) : Prop :=
  descCheck cmdCoreOk d = true ∧ dSpace d = 0 ∧ (scaled (dFmt d) = true → dScaleSpace d = 0) ∧
    descPermitted s p x x.mapbuf cmdCore d = true

/-- An operand's descriptor is well formed and names bytes that the partition may use (R96, R97). -/
def DescOk (s : State) (p : Nat) (x : Partition) (d : DescWord) : Prop :=
  descCheck cmdCoreOk d = true ∧ descPermitted s p x x.mapbuf cmdCore d = true

/-- The message acts on KV space k of partition p (R334). -/
def ActsOn (s : State) (fn : Fn) (hdr : Hdr) (p : Nat) (x : Partition) (space : W64) (k : KvSpace) : Prop :=
  Acts s fn hdr p x ∧ tget? x.spaces space.toNat = some k

/-- The destination of a command that copies records of n bytes: room for one, and no page of a read-only object (R624,
R373). -/
def RecordsOk (s : State) (p : Nat) (x : Partition) (d : DescWord) (n : Nat) : Prop :=
  descCheck cmdCoreOk d = true ∧ dSpace d = 0 ∧ descPermitted s p x x.mapbuf cmdCore d = true ∧ n ≤ dCapacity d ∧ readOnlyDesc s d = false

/-- TARGET names the step st of handle h, which the function may name (R83). -/
def OnStep (s : State) (fn : Fn) (hdr : Hdr) (h : Nat) (x : Partition) (st : Step) : Prop :=
  hdr.target.toNat = h ∧ targetError s (if fn.val = 0 then none else some (fn.val - 1)) h = none ∧ handleKind h = 1 ∧
    getPart s (handlePart h) = some x ∧ getStep s h = some st

/-- A pattern and the bindings that it runs with pass the load's checks (R239, R627). -/
def PatternOk (s : State) (p : Nat) (e : CheckEnv) : Prop := patternFormOk s p e = true ∧ patternPermitted s p e = true

/-- The cores that would run a pattern reach its map-buffer slots, and every descriptor's bytes may be used (R97, R627). -/
def PlacementOk (s : State) (p : Nat) (x : Partition) (e : CheckEnv) (cores : List Nat) : Prop :=
  slotsOnDie e cores = true ∧ tablePermitted s p x e cores = true

/-- Lane l of core c stands at entry n of its list, which is e; step h runs there and no stop is due (R173, R247). -/
def Standing (s : State) (c l h n : Nat) (e : Entry) : Prop :=
  (coreOf s c).step = some h ∧ laneEntry s c l = some (n, e) ∧ (coreOf s c).saving = false ∧ (coreOf s c).restoring = false ∧
    stopDue (coreOf s c) = false

/-- Member m's message of a call arrives: it is the first held message of its type that a call takes, and its call, c of step h, has
started and stands at the message's pass (R471, R472, R476). -/
def Comes (s : State) (p n mtype : Nat) (m : CollMsg) (h : Nat) (c : CallRun) (q : Peloton) : Prop :=
  ∃ x pre post, getPart s p = some x ∧ tget? x.pelotons n = some q ∧ q.inbox = pre ++ m :: post ∧
    (∀ o ∈ pre, callMessage s x n mtype o = none) ∧ m.mtype = mtype ∧
    runningStepOf x m.stepEpoch (readHead m.header).attempt = some h ∧ callOf s h n (readHead m.header).call = some c ∧ c.phase = .scatter ∧
    (mtype = 0x10 ∨ mtype = 0x11 → (readHead m.header).pass = c.pass)

/-- A ring message arrives: it is the first held message of its type that a walk takes, and the walk x of lane l of core c, at entry i
of its list, waits for it (R310 to R313). -/
def ComesRing (s : State) (p n mtype : Nat) (m : CollMsg) (h c l i : Nat) (a : AWord) (x : Walk) (q : Peloton) : Prop :=
  ∃ y pre post, getPart s p = some y ∧ tget? y.pelotons n = some q ∧ q.inbox = pre ++ m :: post ∧
    (∀ o ∈ pre, ringMessage s y n mtype q o = none) ∧ m.mtype = mtype ∧
    runningStepOf y m.stepEpoch (readHead m.header).attempt = some h ∧
    ringWaiter s h (readHead m.header).call n ((readHead m.header).hop + 1) (readHead m.header).tensor = some (c, l, i, a, x) ∧
    ((mtype = 0x15 ∧ x.chunk = none ∧ (readHead m.header).hop + 1 < pelN q) ∨ (mtype = 0x16 ∧ x.grads = false))

/-- The messages: the function that carries one, its header, its opcode and whether it is for the PF only (Table 10 of
ch. 02). -/
def messageOf : Instr → Option (Fn × Hdr × Nat × Bool)
  | .deviceInfo fn hdr => some (fn, hdr, 0x0001, false)
  | .ringSet fn hdr _ _ _ _ _ => some (fn, hdr, 0x0002, false)
  | .handleQuery fn hdr => some (fn, hdr, 0x0003, false)
  | .eventRoute fn hdr _ => some (fn, hdr, 0x0004, true)
  | .castOn fn hdr _ => some (fn, hdr, 0x0010, true)
  | .bindOff fn hdr _ => some (fn, hdr, 0x0011, true)
  | .partitionList fn hdr => some (fn, hdr, 0x0012, true)
  | .tickSet fn hdr _ => some (fn, hdr, 0x0020, true)
  | .memAlloc fn hdr _ _ _ _ => some (fn, hdr, 0x0100, false)
  | .memFree fn hdr _ => some (fn, hdr, 0x0101, false)
  | .memClassSet fn hdr _ _ => some (fn, hdr, 0x0102, false)
  | .memMigrate fn hdr _ _ _ _ => some (fn, hdr, 0x0103, false)
  | .memCopy fn hdr _ _ _ => some (fn, hdr, 0x0104, false)
  | .memFill fn hdr _ _ _ _ => some (fn, hdr, 0x0105, false)
  | .memQuery fn hdr _ => some (fn, hdr, 0x0106, false)
  | .poolQuery fn hdr => some (fn, hdr, 0x0107, false)
  | .memHostRegister fn hdr _ => some (fn, hdr, 0x0108, false)
  | .memHostRelease fn hdr _ _ => some (fn, hdr, 0x0109, false)
  | .tierMapRead fn hdr _ _ _ => some (fn, hdr, 0x010A, false)
  | .tierSet fn hdr _ _ _ => some (fn, hdr, 0x0110, true)
  | .patternLoad fn hdr _ _ => some (fn, hdr, 0x0200, false)
  | .patternUnload fn hdr _ => some (fn, hdr, 0x0201, false)
  | .jobCreate fn hdr _ _ _ _ _ _ _ => some (fn, hdr, 0x0210, false)
  | .jobDestroy fn hdr _ => some (fn, hdr, 0x0211, false)
  | .jobSet fn hdr _ _ _ _ => some (fn, hdr, 0x0212, false)
  | .stepSubmit fn hdr _ => some (fn, hdr, 0x0220, false)
  | .stepStop fn hdr => some (fn, hdr, 0x0221, false)
  | .stepResume fn hdr => some (fn, hdr, 0x0222, false)
  | .schedQuery fn hdr _ => some (fn, hdr, 0x0230, false)
  | .fastpathArm fn hdr _ _ => some (fn, hdr, 0x0240, false)
  | .fastpathDisarm fn hdr _ => some (fn, hdr, 0x0241, false)
  | .stepCommit fn hdr => some (fn, hdr, 0x0250, false)
  | .stepFrog fn hdr => some (fn, hdr, 0x0251, false)
  | .bankCreate fn hdr _ => some (fn, hdr, 0x0252, false)
  | .bankExport fn hdr _ _ _ _ => some (fn, hdr, 0x0253, false)
  | .bankImport fn hdr _ _ _ _ _ _ _ => some (fn, hdr, 0x0254, false)
  | .bankDestroy fn hdr _ => some (fn, hdr, 0x0255, false)
  | .replayLogSet fn hdr _ _ => some (fn, hdr, 0x0258, false)
  | .replay fn hdr _ _ _ _ => some (fn, hdr, 0x0259, false)
  | .pelotonForm fn hdr _ => some (fn, hdr, 0x0300, false)
  | .pelotonDisband fn hdr _ => some (fn, hdr, 0x0301, false)
  | .pelotonReshard fn hdr _ _ _ _ => some (fn, hdr, 0x0302, false)
  | .pelotonFrog fn hdr _ _ => some (fn, hdr, 0x0303, false)
  | .pelotonSubstitute fn hdr _ _ _ _ => some (fn, hdr, 0x0304, false)
  | .pelotonPolicy fn hdr _ _ _ _ _ _ => some (fn, hdr, 0x0305, false)
  | .pelotonQuery fn hdr _ => some (fn, hdr, 0x0306, false)
  | .codecSessionOpen fn hdr _ => some (fn, hdr, 0x0400, false)
  | .codecSessionClose fn hdr _ => some (fn, hdr, 0x0401, false)
  | .codecFeed fn hdr _ _ => some (fn, hdr, 0x0402, false)
  | .codecRelease fn hdr _ _ _ => some (fn, hdr, 0x0403, false)
  | .codecEncFrame fn hdr _ _ _ _ => some (fn, hdr, 0x0404, false)
  | .codecQuery fn hdr _ => some (fn, hdr, 0x0405, false)
  | .actEncode fn hdr _ _ _ _ _ => some (fn, hdr, 0x0410, false)
  | .actDecode fn hdr _ _ _ _ _ => some (fn, hdr, 0x0411, false)
  | .actRelease fn hdr _ _ => some (fn, hdr, 0x0412, false)
  | .kvSpaceCreate fn hdr _ => some (fn, hdr, 0x0500, false)
  | .kvSpaceDestroy fn hdr _ => some (fn, hdr, 0x0501, false)
  | .kvSeqOpen fn hdr _ => some (fn, hdr, 0x0502, false)
  | .kvSeqFork fn hdr _ _ _ => some (fn, hdr, 0x0503, false)
  | .kvSeqTruncate fn hdr _ _ _ => some (fn, hdr, 0x0504, false)
  | .kvSeqClose fn hdr _ _ => some (fn, hdr, 0x0505, false)
  | .kvAttach fn hdr _ _ _ _ => some (fn, hdr, 0x0506, false)
  | .kvAppend fn hdr _ _ _ _ _ _ _ => some (fn, hdr, 0x0507, false)
  | .kvSeqQuery fn hdr _ _ => some (fn, hdr, 0x0508, false)
  | .prefixRead fn hdr _ _ _ => some (fn, hdr, 0x0509, false)
  | .prefixFlush fn hdr _ => some (fn, hdr, 0x050A, false)
  | .counterSet fn hdr _ _ _ => some (fn, hdr, 0x0600, false)
  | .eventRead fn hdr _ _ _ => some (fn, hdr, 0x0601, true)
  | .faultClear fn hdr _ _ => some (fn, hdr, 0x0602, true)
  | .telemetryRead fn hdr => some (fn, hdr, 0x0603, true)
  | .serviceSet fn hdr _ => some (fn, hdr, 0x0604, true)
  | .coreSpare fn hdr _ _ => some (fn, hdr, 0x0610, true)
  | .fwUpdate fn hdr _ => some (fn, hdr, 0x0620, true)
  | .fwCommit fn hdr => some (fn, hdr, 0x0621, true)
  | .fwRevert fn hdr => some (fn, hdr, 0x0622, true)
  | .ucodeLoad fn hdr _ _ => some (fn, hdr, 0x0623, true)
  | .stewardSwitch fn hdr => some (fn, hdr, 0x0624, true)
  | .linkGroupSet fn hdr _ => some (fn, hdr, 0x0630, true)
  | .linkRecal fn hdr _ => some (fn, hdr, 0x0631, true)
  | .linkTrain fn hdr _ => some (fn, hdr, 0x0632, true)
  | .stackRecal fn hdr _ => some (fn, hdr, 0x0633, true)
  | .farPortRestart fn hdr _ => some (fn, hdr, 0x0634, true)
  | .attest fn hdr _ _ => some (fn, hdr, 0x0700, false)
  | .identityRead fn hdr _ => some (fn, hdr, 0x0701, false)
  | .ownerEnroll fn hdr _ _ => some (fn, hdr, 0x0702, true)
  | .powerSet fn hdr _ => some (fn, hdr, 0x0703, true)
  | .settingsSave fn hdr => some (fn, hdr, 0x0704, true)
  | .settingsQuery fn hdr => some (fn, hdr, 0x0705, true)
  | .fwRecover fn hdr _ _ _ => some (fn, hdr, 0x0710, true)
  | _ => none

end Sys2Proof.Safety
end

