-- ==== Sys2Proof/Certificates/Slice0/Obligations.lean ====
section
/-!
DEFINITION. The statements about the block, for the provers.
-/
open Sys2Proof Sys2Proof.Machine Sys2Proof.Safety

/-! ## The queue of commands and reset -/

/-- A step takes the command at the front of the queue and carries it out on the rest. -/
def Obligations.StepRunsTheFrontCommand : Prop :=
  ∀ (s : State) (c : Instr) (rest : List Instr), s.pending = c :: rest → step s = exec c { s with pending := rest }

/-- With an empty queue the block idles: the model's choice (log 26). -/
def Obligations.EmptyQueueIdles : Prop :=
  ∀ s : State, s.pending = [] → step s = .next s

/-- What the spec gives the machine after a start-up: the tick period, the event vector, VF Enable 0, no ring and an
idle mailbox on every function, no partition, an empty fault record, and the reset values of the retained settings. -/
def Obligations.ResetValues : Prop :=
  State.reset.pending = [] ∧ State.reset.steward.period = 250 ∧ State.reset.host.eventVector = 1 ∧ State.reset.host.vfEnable = false ∧
  (∀ f : Nat, (fnOf State.reset f).ring = none ∧ (fnOf State.reset f).busy = false ∧ (fnOf State.reset f).replyReady = false) ∧
  (∀ p : Nat, getPart State.reset p = none) ∧ State.reset.collector.first.valid = false ∧ State.reset.collector.safe = false ∧
  State.reset.collector.partOpen = [] ∧ State.reset.trust.inForce.darnLimit = 8 ∧ State.reset.trust.inForce.ceLimit = 64 ∧
  (∀ q : Fin 192, coreAt State.reset q.val = 52 * (q.val / 48) + q.val % 48) ∧
  (∀ scope : Nat, genOf State.reset scope = 1 ∧ seqOf State.reset scope = 1)

/-- The memory of the machine after a start-up is in canonical form. -/
def Obligations.ResetMemoryCanonical : Prop :=
  MemOk State.reset

/-- Every step keeps the canonical form of the memory: addresses strictly rising, no byte 0 listed. -/
def Obligations.StepKeepsMemoryCanonical : Prop :=
  ∀ s t : State, MemOk s → step s = .next t → MemOk t

/-! ## The host port: registers, doorbells, resets of functions (chapter 02) -/

/-- MBX_STATUS and RING_HEAD (Tables 2, 4 and 5 of ch. 02, R66, R87, R88): writing 1 to REPLY_READY clears it and
nothing else; a HEAD within the span from HEAD to TAIL is taken and waiting entries post, any other write to it is
dropped and counted as a host-port protocol event. BAR_WRITE, OVERSIZE_BAR_READ, POISONED_TLP and COALESCE_TIMER (R65
to R68, R73, R86, Table 12 of ch. 02): the window takes bytes while BUSY is 0 and drops and counts them while it is 1;
a read of more than 8 bytes, or one that crosses an 8-byte boundary, gets a Completer Abort and is counted; a poisoned
TLP is dropped, counted and reported; the timer raises the vector of entries that wait and clears their count. A write
beyond the BAR's aperture is the model's fault. -/
def Obligations.HostRegistersAndBars : Prop :=
  (∀ (fn : Fn) (v : W64) (s : State), reaches s fn = true → bitAt v 1 = true →
    exec (.mbxStatusWrite fn v) s = .next (modFn fn (fun x => { x with replyReady := false }) s)) ∧
  (∀ (fn : Fn) (v : W64) (s : State), reaches s fn = true → bitAt v 1 = false → exec (.mbxStatusWrite fn v) s = .next s) ∧
  (∀ (fn : Fn) (v : W64) (s : State) (r : Ring), reaches s fn = true → (fnOf s fn).ring = some r → s.collector.safe = false →
    v.toNat < r.entries → v.toNat < 2 ^ 16 →
    (v.toNat + r.entries - (fnOf s fn).head) % r.entries ≤ ((fnOf s fn).tail + r.entries - (fnOf s fn).head) % r.entries →
    exec (.ringHeadWrite fn v) s = .next (drain fn (modFn fn (fun x => { x with head := v.toNat }) s))) ∧
  (∀ (fn : Fn) (v : W64) (s : State), reaches s fn = true → (fnOf s fn).ring = none →
    exec (.ringHeadWrite fn v) s = .next (hostMistake fn s)) ∧
  (∀ (fn : Fn) (offset : Nat) (bs : List Byte) (s : State), reaches s fn = true → (fnOf s fn).busy = false → offset + bs.length ≤ 0x1000 →
    exec (.barWrite fn 0 offset bs) s = .next (s.write (.window fn) offset bs)) ∧
  (∀ (fn : Fn) (offset : Nat) (bs : List Byte) (s : State), reaches s fn = true → (fnOf s fn).busy = true → offset + bs.length ≤ 0x1000 →
    exec (.barWrite fn 0 offset bs) s = .next (hostMistake fn s)) ∧
  (∀ (fn : Fn) (offset : Nat) (bs : List Byte) (s : State), reaches s fn = true → offset + bs.length ≤ 0x10000 →
    exec (.barWrite fn 2 offset bs) s = .next (hostMistake fn s)) ∧
  (∀ (fn : Fn) (bar offset : Nat) (bs : List Byte) (s : State), reaches s fn = true → barSize fn bar < offset + bs.length →
    exec (.barWrite fn bar offset bs) s = .fault (.noSuchAddress offset)) ∧
  (∀ (fn : Fn) (bar offset size : Nat) (s : State), reaches s fn = true → offset + size ≤ barSize fn bar → 8 < size ∨ 8 < offset % 8 + size →
    exec (.oversizeBarRead fn bar offset size) s = .next (hostMistake fn (emit (.completerAbort fn) s))) ∧
  (∀ (fn : Fn) (bar offset : Nat) (s : State), reaches s fn = true → offset < barSize fn bar →
    exec (.poisonedTlp fn bar offset) s = .next (hostMistake fn (emit (.aerPoisoned fn) s))) ∧
  (∀ (fn : Fn) (v : W16) (s : State), Running s → tget (fnOf s fn).waiting v.toNat 0 ≠ 0 →
    exec (.coalesceTimer fn v) s = .next (msix fn v.toNat (modFn fn (fun x => { x with waiting := tdel x.waiting v.toNat }) s)))

/-- A doorbell carries out the message that lies in the window (R71, Tables 3 and 8 of ch. 02): a DEVICE_INFO request
of 32 bytes is answered, a TICK_SET request of 40 bytes through the PF sets the period; while BUSY is 1 the write is
dropped and counted, and a malformed header is answered REFUSED_BAD_MESSAGE. -/
def Obligations.DoorbellRunsTheWindow : Prop :=
  (∀ (fn : Fn) (v : W64) (s : State), Running s → fnExists s fn = true → (fnOf s fn).busy = false →
    requestOk (s.readNat (.window fn) 0 32) v = true → s.readNat (.window fn) 0 32 % 2 ^ 32 = 0x00200001 →
    cvecOk fn (windowHdr fn (s.readNat (.window fn) 0 32) (s.read (.window fn) 0 32)) = true →
    exec (.mbxDoorbell fn v) s =
      answered fn 0x0001 (windowHdr fn (s.readNat (.window fn) 0 32) (s.read (.window fn) 0 32)) 0 (infoBytes s) s) ∧
  (∀ (v : W64) (s : State), Running s → fnExists s 0 = true → (fnOf s 0).busy = false →
    requestOk (s.readNat (.window 0) 0 32) v = true → s.readNat (.window 0) 0 32 % 2 ^ 32 = 0x00280020 →
    cvecOk 0 (windowHdr 0 (s.readNat (.window 0) 0 32) (s.read (.window 0) 0 40)) = true →
    100 ≤ s.readNat (.window 0) 32 8 → s.readNat (.window 0) 32 8 ≤ 2000 → lgSource s.links.group = 0 →
    exec (.mbxDoorbell 0 v) s =
      answered 0 0x0020 (windowHdr 0 (s.readNat (.window 0) 0 32) (s.read (.window 0) 0 40)) (s.steward.tick + 1) []
        { s with steward.nextPeriod := some (s.readNat (.window 0) 32 8) }) ∧
  (∀ (fn : Fn) (v : W64) (s : State), Running s → fnExists s fn = true → (fnOf s fn).busy = true →
    exec (.mbxDoorbell fn v) s = .next (hostMistake fn s)) ∧
  (∀ (fn : Fn) (v : W64) (s : State), Running s → fnExists s fn = true → (fnOf s fn).busy = false →
    requestOk (s.readNat (.window fn) 0 32) v = false → s.readNat (.window fn) 0 32 % 65536 ≠ 0x0710 →
    exec (.mbxDoorbell fn v) s =
      refusedWith fn (s.readNat (.window fn) 0 32 % 65536)
        (windowHdr fn (s.readNat (.window fn) 0 32) (s.read (.window fn) 0 (s.readNat (.window fn) 0 32 / 65536 % 65536))) 0x0201 s)

/-- Resets of functions (R62 to R64, Table 7 of ch. 15): a VF's reset ends its partition's work without entries and
puts its own registers back; clearing VF Enable does so for every partition; the PF's reset does that and puts the
PF's registers back; a hot reset does the same while partitions stay cast on, and the link trains again at a width and
a rate of Table 1 of ch. 02 (free values); setting VF Enable binds the functions again. Work ended so has status 0x0301
and owes no entry. In the safe state and in recovery mode a VF's reset only puts its registers back. -/
def Obligations.FunctionResets : Prop :=
  (∀ (vf : PartId) (s : State), Running s → reaches s (vf + 1) = true →
    exec (.vfFunctionLevelReset vf) s = .next (serveAllocs (freshFn (vf + 1) (endPartition true vf s)))) ∧
  (∀ (vf : PartId) (s : State), live s = false → reaches s (vf + 1) = true →
    exec (.vfFunctionLevelReset vf) s = .next (freshFn (vf + 1) s)) ∧
  (∀ s : State, reaches s 0 = true → s.host.vfEnable = true →
    exec .vfEnableClear s = .next { (List.range 16).foldl (fun s p => flrVf p s) s with host.vfEnable := false }) ∧
  (∀ s : State, reaches s 0 = true →
    ∃ t, exec .vfEnableClear s = .next t ∧ t.host.vfEnable = false ∧ ∀ vf : PartId, fnExists t (vf + 1) = false) ∧
  (∀ s : State, Running s → reaches s 0 = true → exec .vfEnableSet s = .next { s with host.vfEnable := true }) ∧
  (∀ s : State, Running s → reaches s 0 = true →
    exec .pfFunctionLevelReset s = .next (freshFn 0 (dropPfSlots (clearVfEnable s)))) ∧
  (∀ s : State, Running s →
    exec .hotReset s = .next (
      let r := takeFree (freshFn 0 (dropPfSlots (clearVfEnable s)))
      { r.2 with host.linkUp := !(r.2.board.collapsed.any collectorRail), host.width := (trained r.1).1, host.rate := (trained r.1).2 })) ∧
  (∀ s : State, Running s → reaches s 0 = true → ∃ t, exec .pfFunctionLevelReset s = .next t ∧ t.host.vfEnable = false ∧
    (fnOf t 0).ring = none ∧ (fnOf t 0).slots = [] ∧ (fnOf t 0).busy = false ∧ (fnOf t 0).replyReady = false) ∧
  (∀ s : State, Running s → ∃ t, exec .hotReset s = .next t ∧ t.host.vfEnable = false ∧ (fnOf t 0).ring = none ∧ (fnOf t 0).slots = [] ∧
    (fnOf t 0).busy = false ∧ (fnOf t 0).replyReady = false ∧ t.host.linkUp = !(t.board.collapsed.any collectorRail)) ∧
  (∀ r : W64, (trained r).1 ∈ [4, 8, 16] ∧ (trained r).2 ∈ [25, 50, 80, 160, 320]) ∧
  (∀ (f : Nat) (s : State), (fnOf (freshFn f s) f).ring = none ∧ (fnOf (freshFn f s) f).slots = [] ∧
    (fnOf (freshFn f s) f).replyReady = false ∧ (fnOf (freshFn f s) f).overflow = (fnOf s f).overflow) ∧
  (∀ (h : Nat) (s : State) (r : HandleRec), getHandle s h = some r →
    ∃ x, getHandle (endSilently h s) h = some x ∧ x.state = .ended ∧ x.status = 0x0301 ∧ x.owed = false ∧ x.fn = r.fn ∧ x.op = r.op ∧
      (endSilently h s).host = s.host ∧ (endSilently h s).mem = s.mem ∧ (endSilently h s).outbox = s.outbox)

/-- SLOT_DB and DMA_READ_ERROR (R37, R38, R92, Table 12 of ch. 02): an armed slot fires, its step starts with the
argument as binding word 0; a doorbell whose reserved bits are set, or of a slot that is not armed, posts the refusal
to the ring; a failed DMA read raises the fault and ends its command FAULT_STOPPED. -/
def Obligations.SlotDoorbellsAndDmaErrors : Prop :=
  (∀ (fn : Fn) (i : SlotId) (v : W64) (s : State), Running s → fnExists s fn = true → fld v 63 32 = 0 →
    (slotOf (fnOf s fn) i.val).state = 1 →
    exec (.slotDb fn i v) s = .next (
      let y := slotOf (fnOf s fn) i.val
      admitStep y.handle true (modStep y.handle (fun st => { st with slot := none, words := v.setWidth 32 :: st.words.drop 1 })
        (modHandle y.handle (fun r => { r with state := .queued })
          (devEvent 0x0006 (handlePart y.handle) 1 (modFn fn (fun z => { z with slots := tset z.slots i.val { y with state := 2 } }) s)))))) ∧
  (∀ (fn : Fn) (i : SlotId) (v : W64) (s : State), Running s → fnExists s fn = true → fld v 63 32 ≠ 0 →
    exec (.slotDb fn i v) s = .next (postEntry fn { status := 0x0201, cvec := some 0 } s)) ∧
  (∀ (fn : Fn) (i : SlotId) (v : W64) (s : State), Running s → fnExists s fn = true → fld v 63 32 = 0 →
    (slotOf (fnOf s fn) i.val).state ≠ 1 →
    exec (.slotDb fn i v) s = .next (postEntry fn { status := 0x0205, cvec := some 0 } s)) ∧
  (∀ (h addr : W64) (s : State) (r : HandleRec), Running s → getHandle s h.toNat = some r → r.op = .none → r.owed = true →
    exec (.dmaReadError h addr) s = .next (finish h.toNat 0x0401 0
      (raiseFault { code := 0x0801, cls := 0, sev := 1, die := 4, unit := r.fn, detail := addr, handle := h.toNat, parts := r.part.toList } s)))

/-! ## Management (chapters 02 and 13) -/

/-- DEVICE_INFO, PARTITION_LIST and HANDLE_QUERY (Tables 10 to 10d of ch. 02, R83, R542, R602): each answers its data
and changes nothing but the mailbox of its function; DEVICE_INFO is answered also in the safe state while the steward
is there, and in recovery mode. RING_SET, EVENT_ROUTE and TICK_SET (R84, R86, R100 to R102, R40): an allowed ring
starts afresh with HEAD, TAIL 0 and phase 1 and waiting entries post into it; the event vector and the tick's next
period are set; TICK_SET answers the tick from which it holds, and is refused while an aligned group governs the tick.
-/
def Obligations.InformationAndSettings : Prop :=
  (∀ (fn : Fn) (hdr : Hdr) (s : State), answers s = true → Reached s fn hdr →
    exec (.deviceInfo fn hdr) s = answered fn 0x0001 hdr 0 (infoBytes s) s) ∧
  (∀ (hdr : Hdr) (s : State), HeardPf s hdr →
    exec (.partitionList 0 hdr) s = answered 0 0x0012 hdr 0 ((List.range 16).flatMap fun p => leBytes 16 (listEntry s p)) s) ∧
  (∀ (hdr : Hdr) (s : State) (r : HandleRec), HeardPf s hdr → getHandle s hdr.target.toNat = some r →
    handleGen hdr.target.toNat = genOf s (scopeOf (handlePart hdr.target.toNat) (handleKind hdr.target.toNat)) →
    exec (.handleQuery 0 hdr) s = answered 0 0x0003 hdr (w64 (hstateCode r.state ||| r.status <<< 16)) [] s) ∧
  (∀ (vf : PartId) (hdr : Hdr) (s : State) (r : HandleRec), Heard s (vfOf vf) hdr → getHandle s hdr.target.toNat = some r →
    handlePart hdr.target.toNat = vf.val → handleKind hdr.target.toNat < 9 → handleGen hdr.target.toNat = genOf s vf.val →
    exec (.handleQuery (vfOf vf) hdr) s =
      answered (vfOf vf) 0x0003 hdr (w64 (hstateCode r.state ||| r.status <<< 16)) [] s) ∧
  (∀ (fn : Fn) (hdr : Hdr) (base entries writeback k t : W64) (s : State), Heard s fn hdr →
    (∃ i : Fin 11, entries.toNat = 64 * 2 ^ i.val) → base.toNat % 4096 = 0 → writeback.toNat % 8 = 0 → 1 ≤ k.toNat → k.toNat ≤ 64 →
    t.toNat ≤ 1000 → ((fnOf s fn).ring = none ∨ (openHandles s (fun r => r.fn == fn.val) = [] ∧ (fnOf s fn).overflow = [])) →
    exec (.ringSet fn hdr base entries writeback k t) s = .next (drain fn (reply fn 0x0002 hdr 0 0 0 []
      (setFn fn { fnOf s fn with ring := some ⟨base.toNat, entries.toNat, writeback.toNat, k.toNat, t.toNat⟩,
                                 head := 0, tail := 0, phase := true, waiting := [] } s)))) ∧
  (∀ (hdr : Hdr) (v : W64) (s : State), HeardPf s hdr → v.toNat < 64 →
    exec (.eventRoute 0 hdr v) s = answered 0 0x0004 hdr 0 [] { s with host.eventVector := v.toNat }) ∧
  (∀ (hdr : Hdr) (v : W64) (s : State), HeardPf s hdr → 64 ≤ v.toNat → exec (.eventRoute 0 hdr v) s = refusedWith 0 0x0004 hdr 0x0201 s) ∧
  (∀ (hdr : Hdr) (period : W64) (s : State), HeardPf s hdr → 100 ≤ period.toNat → period.toNat ≤ 2000 → lgSource s.links.group = 0 →
    exec (.tickSet 0 hdr period) s =
      answered 0 0x0020 hdr (s.steward.tick + 1) [] { s with steward.nextPeriod := some period.toNat }) ∧
  (∀ (hdr : Hdr) (period : W64) (s : State), HeardPf s hdr → (period.toNat < 100 ∨ 2000 < period.toNat) →
    exec (.tickSet 0 hdr period) s = refusedWith 0 0x0020 hdr 0x0201 s) ∧
  (∀ (hdr : Hdr) (period : W64) (s : State), HeardPf s hdr → 100 ≤ period.toNat → period.toNat ≤ 2000 → lgSource s.links.group ≠ 0 →
    exec (.tickSet 0 hdr period) s = refusedWith 0 0x0020 hdr 0x0205 s)

/-- CAST_ON and BIND_OFF (R80, R505 to R507, R607): a descriptor in form, of a partition that is not cast on, whose
parts nobody holds, raises the partition's generation and holds its resources; the handle ends with its entry. A bind-
off ends the partition's work, frees what it holds and removes it. -/
def Obligations.CastOnAndBindOff : Prop :=
  (∀ (hdr : Hdr) (d : BitVec 1024) (s : State), HeardPf s hdr → Room s 0 → partitionFormOk s d = true →
    getPart s (fld d 603 600) = none → partitionFits s d = true →
    genOf s (fld d 603 600) ≠ tget s.trust.inForce.genCeil (fld d 603 600) 64 →
    exec (.castOn 0 hdr d) s = accepted 0 0x0010 hdr (some (fld d 603 600)) 8 .none 0 (fun h s => finish h 0 0 s)
      (castOn d (raiseGeneration (fld d 603 600) s))) ∧
  (∀ (hdr : Hdr) (d : BitVec 1024) (s : State), HeardPf s hdr → partitionFormOk s d = true →
    (getPart s (fld d 603 600)).isSome = true → exec (.castOn 0 hdr d) s = refusedWith 0 0x0010 hdr 0x0205 s) ∧
  (∀ (hdr : Hdr) (p : PartId) (s : State) (x : Partition), HeardPf s hdr → Room s 0 → getPart s p.val = some x →
    exec (.bindOff 0 hdr (w64 p.val)) s = accepted 0 0x0011 hdr (some p.val) 8 .none 0 (fun h s =>
      finish h 0 0 (bindOff p.val (modHandle h (fun r => { r with part := none }) s))) s) ∧
  (∀ (p : Nat) (s : State) (x : Partition), getPart s p = some x → (∃ y, getPart (endPartition false p s) p = some y) →
    getPart (bindOff p s) p = none)

/-! ## Service (chapter 14) -/

/-- COUNTER_SET (R562, R563, R606; the scope's coding is log 53): the word waits for the next tick edge in place of
one that waited for the same counter; a device counter's word is retained. Snapshots (R562): at a tick edge a listed
counter in mode 1 keeps its value and copies it, one in mode 2 copies it and starts again at 0, and one in mode 0
keeps its snapshot. -/
def Obligations.CounterWordsAndSnapshots : Prop :=
  (∀ (hdr : Hdr) (counter word : W64) (s : State), HeardPf s hdr → counter.toNat < 128 → ctrWordOk false word = true →
    exec (.counterSet 0 hdr 0xFFFF counter word) s = answered 0 0x0600 hdr (s.steward.tick + 1) []
      (settingsTrigger {} { s with
        steward.counterWords := (s.steward.counterWords.filter fun k => !(k.core == false && k.index == counter.toNat)) ++
          [⟨false, counter.toNat, word⟩]
        trust.current.counters := tset s.trust.current.counters counter.toNat (word &&& ~~~(2 : W64)) })) ∧
  (∀ (hdr : Hdr) (scope counter word : W64) (s : State), HeardPf s hdr → scope.toNat < 208 → counter.toNat < 16 → ctrWordOk true word = true →
    exec (.counterSet 0 hdr scope counter word) s = answered 0 0x0600 hdr (s.steward.tick + 1) []
      { s with steward.counterWords :=
        (s.steward.counterWords.filter fun k => !(k.core == true && k.index == 16 * scope.toNat + counter.toNat)) ++
          [⟨true, 16 * scope.toNat + counter.toNat, word⟩] }) ∧
  (∀ (vf : PartId) (hdr : Hdr) (scope counter word : W64) (s : State) (x : Partition), Heard s (vfOf vf) hdr →
    getPart s vf.val = some x → (partCores s x).contains scope.toNat = true → scope.toNat < 208 → counter.toNat < 16 →
    ctrWordOk true word = true →
    exec (.counterSet (vfOf vf) hdr scope counter word) s = answered (vfOf vf) 0x0600 hdr (s.steward.tick + 1) []
      { s with steward.counterWords :=
        (s.steward.counterWords.filter fun k => !(k.core == true && k.index == 16 * scope.toNat + counter.toNat)) ++
          [⟨true, 16 * scope.toNat + counter.toNat, word⟩] }) ∧
  (∀ c : Counter, fld c.word 3 2 = 1 → snapCounter c = { c with snap := c.live }) ∧
  (∀ c : Counter, fld c.word 3 2 = 2 → snapCounter c = { c with snap := c.live, live := 0 }) ∧
  (∀ c : Counter, fld c.word 3 2 = 0 → snapCounter c = c) ∧
  (∀ (c : Counter) (n : Nat), (ctrAdd c n).1.live = (c.live + n) % 2 ^ 48) ∧
  (∀ (k n : Nat) (s : State), tget? (snapCounters s).collector.devCtrs k = (tget? s.collector.devCtrs k).map snapCounter ∧
    tget? (snapCounters s).collector.coreCtrs n = (tget? s.collector.coreCtrs n).map snapCounter)

/-- EVENT_READ, FAULT_CLEAR, TELEMETRY_READ and SERVICE_SET (R539, R545, R548, R565, R606): records from a SEQ on are
copied to the destination with their count and how many were lost; a clear that names the latched record's tick and
code empties the record and every partition-open bit, any other is refused REFUSED_STALE; the telemetry set is
answered; the limit of corrected errors is retained. CORE_SPARE, CORE_SWAP, STACK_RECAL, FAR_PORT_RESTART and
CORE_DEGRADED (R5, R547 to R551, R559, R561): the swap of an idle core takes place after the reply; the recalibration
of a stack and the restart of a far port begin; a core whose corrected errors pass the limit raises its event once. -/
def Obligations.LogsSparesAndRestarts : Prop :=
  (∀ (hdr : Hdr) (first count : W64) (dst : DescWord) (p : Nat) (x : Partition) (s : State), HeardPf s hdr → first.toNat < 2 ^ 32 →
    destPart s 0 hdr dst = some p → getPart s p = some x → RecordsOk s p x dst 64 → accessTrouble s (descPages dst) = none →
    exec (.eventRead 0 hdr first count dst) s =
      (let pl := seqPlace s first.toNat
       let r := writeRecords dst 64 (((s.collector.log.drop pl.1).take count.toNat).map eventBytes) s
       answered 0 0x0601 hdr (w64 (r.1 ||| pl.2 <<< 32)) [] r.2)) ∧
  (∀ (hdr : Hdr) (code : W64) (s : State), HeardPf s hdr → s.collector.first.valid = true → code.toNat < 2 ^ 16 →
    s.collector.first.code = code.toNat →
    exec (.faultClear 0 hdr s.collector.first.tick code) s =
      answered 0 0x0602 hdr 0 [] { s with collector.first := {}, collector.partOpen := [] }) ∧
  (∀ (hdr : Hdr) (tick code : W64) (s : State), HeardPf s hdr → code.toNat < 2 ^ 16 →
    (s.collector.first.valid = false ∨ s.collector.first.tick ≠ tick ∨ s.collector.first.code ≠ code.toNat) →
    exec (.faultClear 0 hdr tick code) s = refusedWith 0 0x0602 hdr 0x0204 s) ∧
  (∀ (hdr : Hdr) (s : State), HeardPf s hdr → exec (.telemetryRead 0 hdr) s = answered 0 0x0603 hdr 0 (telemetrySet s) s) ∧
  (∀ (hdr : Hdr) (limit : W64) (s : State), HeardPf s hdr → 8 ≤ limit.toNat → limit.toNat ≤ 1024 →
    exec (.serviceSet 0 hdr limit) s =
      answered 0 0x0604 hdr 0 [] (settingsTrigger {} { s with trust.current.ceLimit := limit.toNat })) ∧
  (∀ (hdr : Hdr) (core : W64) (sp : Nat) (rest : List Nat) (s : State), HeardPf s hdr → Room s 0 → core.toNat < 208 →
    (coreOf s core.toNat).inService = true → (posOf s core.toNat).isSome = true → pendingSwap s core.toNat = none →
    openSpares s (dieOfCore core.toNat) = sp :: rest →
    exec (.coreSpare 0 hdr core 0xFF) s = accepted 0 0x0610 hdr none 0xB (.spare core.toNat sp) 0
      (fun _ s => if coreIdle (coreOf s core.toNat) || (coreOf s core.toNat).stop.isNone then coreSwap core.toNat s else s) s) ∧
  (∀ (core : CoreId) (s : State) (h sp : Nat), Running s → pendingSwap s core.val = some (h, sp) → coreIdle (coreOf s core.val) = true →
    exec (.coreSwap core) s = .next (swapIdle core.val sp h s)) ∧
  (∀ (hdr : Hdr) (stack : W64) (s : State), HeardPf s hdr → Room s 0 → stack.toNat < 12 → (stackOf s stack.toNat).inService = true →
    (∀ i : Fin 12, (stackOf s i.val).recal = none) →
    exec (.stackRecal 0 hdr stack) s = accepted 0 0x0633 hdr none 0xB (.stack stack.toNat) 0 (fun _ s => s)
      (modStack stack.toNat (fun x => { x with recal := some 0 }) s)) ∧
  (∀ (hdr : Hdr) (port : W64) (s : State), HeardPf s hdr → Room s 0 → port.toNat < 4 → (farOf s port.toNat).restarting = false →
    exec (.farPortRestart 0 hdr port) s = accepted 0 0x0634 hdr none 0xB (.far port.toNat) 0 (fun _ s => s)
      (modFar port.toNat (fun x => { x with restarting := true, inService := false, linkUp := false }) s))

/-! ## Memory and its tiers (chapter 09) -/

/-- MEM_ALLOC and MEM_FREE (R343, R345, R373): the pages' frames are found and reserved, the lowest object number and
the lowest run of page indices are taken, RESULT names both, and waiting pages take frames after the reply; a class
above 5 is refused. An object that no step holds is freed after the reply, which carries its page count; an object
that a step holds is refused. -/
def Obligations.AllocateAndFree : Prop :=
  (∀ (fn : Fn) (hdr : Hdr) (pages cls : W64) (backing : DescWord) (p : Nat) (x : Partition) (obj first : Nat) (r : List Nat × State) (s : State),
    Heard s fn hdr → Acts s fn hdr p x → 0 < pages.toNat → cls.toNat ≤ 5 → tfree x.objects 4096 = some obj →
    freeRun s pages.toNat = some first → takeFrames p x (floorTier cls.toNat) 4 (homeTier cls.toNat) pages.toNat s = some r → Room r.2 fn →
    exec (.memAlloc fn hdr pages cls 0 backing) s = accepted fn 0x0100 hdr (some p) 2 (.alloc obj)
      (w64 (first * pageSize ||| obj <<< 48)) serveAlloc
      (modPart p (fun x => { x with objects := tset x.objects obj { first := first, pages := pages.toNat, cls := cls.toNat, plan := r.1 } }) r.2)) ∧
  (∀ (fn : Fn) (hdr : Hdr) (pages cls : W64) (backing : DescWord) (p : Nat) (x : Partition) (obj first : Nat) (r : List Nat × State) (s : State),
    Heard s fn hdr → Acts s fn hdr p x → UnifiedOk s p x backing → 0 < pages.toNat → cls.toNat ≤ 5 → tfree x.objects 4096 = some obj →
    freeRun s pages.toNat = some first → takeFrames p x (floorTier cls.toNat) 4 (homeTier cls.toNat) pages.toNat s = some r → Room r.2 fn →
    exec (.memAlloc fn hdr pages cls 1 backing) s = accepted fn 0x0100 hdr (some p) 2 (.alloc obj)
      (w64 (first * pageSize ||| obj <<< 48)) serveAlloc
      (modPart p (fun x => { x with objects := tset x.objects obj { first := first, pages := pages.toNat, cls := cls.toNat, plan := r.1, readOnly := true, backing := some backing } }) r.2)) ∧
  (∀ (fn : Fn) (hdr : Hdr) (pages cls ro : W64) (backing : DescWord) (p : Nat) (x : Partition) (s : State), Heard s fn hdr → Acts s fn hdr p x →
    5 < cls.toNat → exec (.memAlloc fn hdr pages cls ro backing) s = refusedWith fn 0x0100 hdr 0x0201 s) ∧
  (∀ (fn : Fn) (hdr : Hdr) (object : W64) (p : Nat) (x : Partition) (o : MemObject) (s : State), Heard s fn hdr → Acts s fn hdr p x →
    tget? x.objects object.toNat = some o → objHeld x object.toNat = false →
    exec (.memFree fn hdr object) s =
      .next (serveAllocs (freeObject p object.toNat o (reply fn 0x0101 hdr 0 (w64 o.pages) 0 [] s)))) ∧
  (∀ (fn : Fn) (hdr : Hdr) (object : W64) (p : Nat) (x : Partition) (o : MemObject) (s : State), Heard s fn hdr → Acts s fn hdr p x →
    tget? x.objects object.toNat = some o → objHeld x object.toNat = true →
    exec (.memFree fn hdr object) s = refusedWith fn 0x0101 hdr 0x0205 s)

/-- MEM_CLASS_SET and MEM_MIGRATE (R343, R349, R373, Table 3 of ch. 09): pages whose tier the new class does not
allow, or that are not in the named tier, get frames reserved and moves queued under the command's handle; a pinned
object does not migrate. -/
def Obligations.ClassAndMigration : Prop :=
  (∀ (fn : Fn) (hdr : Hdr) (object cls : W64) (p : Nat) (x : Partition) (o : MemObject) (s : State) (a : Ans), Heard s fn hdr →
    Acts s fn hdr p x → cls.toNat ≤ 5 → tget? x.objects object.toNat = some o →
    moveBody fn hdr p x object.toNat o (floorTier cls.toNat) (homeTier cls.toNat)
      (((List.range o.pages).map (o.first + ·)).filter fun g =>
        !liesIn s o g (fun t => decide (homeTier cls.toNat ≤ t) && decide (t ≤ floorTier cls.toNat)))
      (modPart p (fun x => { x with objects := tset x.objects object.toNat { o with cls := cls.toNat } })
        { s with tiers.map := tmap s.tiers.map fun g e =>
          if o.first ≤ g && g < o.first + o.pages then { e with cls := cls.toNat } else e }) = .ok a →
    exec (.memClassSet fn hdr object cls) s = .next (a.after (reply fn 0x0102 hdr a.status a.result a.handle a.data a.st))) ∧
  (∀ (fn : Fn) (hdr : Hdr) (object first count tier : W64) (p : Nat) (x : Partition) (o : MemObject) (s : State) (r : List Nat × State),
    Heard s fn hdr → Acts s fn hdr p x → tget? x.objects object.toNat = some o → 0 < count.toNat →
    first.toNat + count.toNat ≤ o.pages → 1 ≤ tier.toNat → tier.toNat ≤ 3 → pinned o.cls = false → homeTier o.cls ≤ tier.toNat →
    tier.toNat ≤ floorTier o.cls →
    takeFrames p x (floorTier o.cls) 4 tier.toNat
      (((List.range count.toNat).map (o.first + first.toNat + ·)).filter fun g => !liesIn s o g (· == tier.toNat)).length s = some r →
    Room r.2 fn →
    ∃ qs stay, qs = (((List.range count.toNat).map (o.first + first.toNat + ·)).filter fun g => !liesIn s o g (· == tier.toNat)).zip r.1 ∧
      stay = (fun q : Nat × Nat => !moving r.2 q.1 && tierAhead r.2 o q.1 == some q.2) ∧
      exec (.memMigrate fn hdr object first count tier) s = accepted fn 0x0103 hdr (some p) 2 (.move object.toNat) 0
        (fun h s => match accessTrouble s ((qs.filter fun q => !stay q).map (·.1)) with
          | some t => finish h t.1 (w64 t.2) (cancelMoves (fun m => m.handle == h && m.kind == .command) s)
          | none => settleHandle h s)
        { (qs.filter stay).foldl (fun s q => unreserve p q.2 1 s) r.2 with tiers.moves := ((qs.filter stay).foldl (fun s q => unreserve p q.2 1 s) r.2).tiers.moves ++
          ((qs.filter fun q => !stay q).map fun q => { page := q.1, tier := q.2, kind := .command, handle := nextHandle r.2 p 2 }) }) ∧
  (∀ (fn : Fn) (hdr : Hdr) (object first count tier : W64) (p : Nat) (x : Partition) (o : MemObject) (s : State),
    Heard s fn hdr → Acts s fn hdr p x → tget? x.objects object.toNat = some o → 0 < count.toNat →
    first.toNat + count.toNat ≤ o.pages → 1 ≤ tier.toNat → tier.toNat ≤ 3 → pinned o.cls = true →
    exec (.memMigrate fn hdr object first count tier) s = refusedWith fn 0x0103 hdr 0x0205 s) ∧
  (∀ (fn : Fn) (hdr : Hdr) (p : Nat) (x : Partition) (obj floor tier : Nat) (o : MemObject) (pages : List Nat) (s : State) (r : List Nat × State),
    takeFrames p x floor 4 tier pages.length s = some r → Room r.2 fn → ∃ a, moveBody fn hdr p x obj o floor tier pages s = .ok a ∧
      a.handle = nextHandle r.2 p 2 ∧ a.status = 0)

/-- MEM_COPY and MEM_FILL (R128, R364, R365, R369, R373): the copy and the fill take place after the reply and the
handle completes with 0; a lost page of the copy, or one of a far port out of service, ends it with that page's status
and number instead. MEM_QUERY, POOL_QUERY and TIER_MAP_READ (R339, R342, R373): the words of R626, and entries of the
tier map copied to the destination, of which a VF sees only its own partition's. -/
def Obligations.CopiesFillsAndQueries : Prop :=
  (∀ (fn : Fn) (hdr : Hdr) (src dst : DescWord) (cvt : W64) (p : Nat) (x : Partition) (s : State), Heard s fn hdr → Acts s fn hdr p x →
    Room s fn → cvtOk cvt.toNat = true → UnifiedOk s p x src → UnifiedOk s p x dst → dCount src = dCount dst → readOnlyDesc s dst = false →
    exec (.memCopy fn hdr src dst cvt) s = accepted fn 0x0104 hdr (some p) 2 (.copy src dst cvt.toNat) 0 (fun h s =>
      if accessWaits s (descPages src ++ descPages dst) = true then s else
      match readTrouble s (descPages src) (descPages dst) with
      | some t => failAccess h t s
      | none => finish h 0 0 (touchPages (descPages src ++ descPages dst) (copyElements src dst cvt.toNat s))) s) ∧
  (∀ (fn : Fn) (hdr : Hdr) (object first count pattern : W64) (p : Nat) (x : Partition) (o : MemObject) (s : State), Heard s fn hdr →
    Acts s fn hdr p x → Room s fn → tget? x.objects object.toNat = some o → 0 < count.toNat → first.toNat + count.toNat ≤ o.pages →
    pattern.toNat < 2 ^ 32 → o.readOnly = false →
    exec (.memFill fn hdr object first count pattern) s = accepted fn 0x0105 hdr (some p) 2
      (.fill object.toNat first.toNat count.toNat (pattern.setWidth 32)) 0 serveFill s) ∧
  (∀ (h p obj first count : Nat) (pattern : W32) (r : HandleRec) (x : Partition) (o : MemObject) (pages : List Nat) (s : State), getHandle s h = some r →
    r.op = .fill obj first count pattern → r.owed = true → r.part = some p → getPart s p = some x → tget? x.objects obj = some o →
    pages = (List.range count).map (o.first + first + ·) → (∀ g ∈ pages, (pageEntry s g).isSome) → accessWaits s pages = false →
    serveFill h s = match (pages.filter fun g => pageTrouble s g == some 0x0403).head? with
      | some g => finish h 0x0403 (w64 g) s
      | none => finish h 0 0 (touchPages pages (fillPages pages pattern s))) ∧
  (∀ (fn : Fn) (hdr : Hdr) (object : W64) (p : Nat) (x : Partition) (o : MemObject) (s : State), Heard s fn hdr → Acts s fn hdr p x →
    tget? x.objects object.toNat = some o →
    exec (.memQuery fn hdr object) s = answered fn 0x0106 hdr 0
      (let es := s.tiers.map.filter fun e => decide (o.first ≤ e.1) && decide (e.1 < o.first + o.pages)
       wordsData [o.cls, (es.filter fun e => e.2.tier == 1).length, (es.filter fun e => e.2.tier == 2).length,
         (es.filter fun e => e.2.tier == 3).length, (es.filter fun e => e.2.mig).length, (es.filter fun e => e.2.lost).length,
         b2n (objHeld x object.toNat)]) s) ∧
  (∀ (fn : Fn) (hdr : Hdr) (p : Nat) (x : Partition) (s : State), Heard s fn hdr → Acts s fn hdr p x →
    exec (.poolQuery fn hdr) s = answered fn 0x0107 hdr 0 (wordsData (([1, 2, 3].flatMap fun t =>
      [quotaOf x t, usedFrames s p t, reservedFrames s p t, freeFrames s p x t]) ++ [s.tiers.withdrawn.length, s.tiers.reserve])) s) ∧
  (∀ (fn : Fn) (hdr : Hdr) (first count : W64) (dst : DescWord) (p : Nat) (x : Partition) (s : State), Heard s fn hdr → Room s fn →
    destPart s fn hdr dst = some p → getPart s p = some x → first.toNat + count.toNat ≤ 2 ^ 21 → RecordsOk s p x dst 8 →
    exec (.tierMapRead fn hdr first count dst) s = accepted fn 0x010A hdr (some p) 2 .none 0 (fun h s =>
      match accessTrouble s (descPages dst) with
      | some t => finish h t.1 (w64 t.2) s
      | none =>
        let r := writeRecords dst 8 ((List.range (min count.toNat (dCapacity dst / 8))).map fun i => leBytes 8 (seenEntry s fn (first.toNat + i))) s
        finish h 0 (w64 r.1) r.2) s) ∧
  (∀ (p : PartId) (page : Nat) (e : TierEntry) (s : State), pageEntry s page = some e → e.part ≠ p.val →
    seenEntry s (vfOf p) page = 0)

/-- MEM_HOST_REGISTER, MEM_HOST_RELEASE and TIER_SET (R350, R355, R373, R606): host frames are registered in ascending
free index; free ones are released from the highest index and their addresses listed; the tier settings are retained.
-/
def Obligations.HostFramesAndTierSettings : Prop :=
  (∀ (fn : Fn) (hdr : Hdr) (addrs : List W64) (p : Nat) (x : Partition) (s : State), Heard s fn hdr → Acts s fn hdr p x →
    0 < addrs.length → addrs.length ≤ 500 → (addrs.all fun a => a.toNat % pageSize == 0) = true →
    (addrs.all fun a => !(s.parts.flatMap fun q => q.2.t3.map Prod.snd).contains a.toNat) = true →
    (addrs.map (·.toNat)).eraseDups.length = addrs.length →
    (s.parts.flatMap fun q => q.2.t3.map Prod.snd).length + addrs.length ≤ 2 ^ 21 →
    exec (.memHostRegister fn hdr addrs) s = answered fn 0x0108 hdr (w64 (registerFrames (addrs.map (·.toNat)) x.t3).length) []
      (modPart p (fun x' => { x' with t3 := registerFrames (addrs.map (·.toNat)) x.t3 }) s)) ∧
  (∀ (fn : Fn) (hdr : Hdr) (count list : W64) (p : Nat) (x0 : Partition) (s : State), Heard s fn hdr → Acts s fn hdr p x0 →
    exec (.memHostRelease fn hdr count list) s = answered fn 0x0109 hdr (w64 (releasable s p x0 count.toNat).length) []
      (modPart p (fun x => { x with t3 := x.t3.filter fun e => !((releasable s p x0 count.toNat).map Prod.fst).contains e.1 })
        (s.write .host list.toNat (wordsData ((releasable s p x0 count.toNat).map Prod.snd))))) ∧
  (∀ (hdr : Hdr) (mode : W64) (shares : List W64) (darnLimit : W64) (s : State), HeardPf s hdr → mode.toNat ≤ 1 → shares.length = 5 →
    (shares.all fun m => decide (10 ≤ m.toNat) && decide (m.toNat ≤ 100)) = true → 2 ≤ darnLimit.toNat → darnLimit.toNat ≤ 64 →
    (mode.toNat = t1Mode s ∨ s.parts = []) →
    exec (.tierSet 0 hdr mode shares darnLimit) s = answered 0 0x0110 hdr 0 [] (settingsTrigger {} { s with
      trust.current.mode := mode.toNat, trust.current.migShare := shares.map (·.toNat), trust.current.darnLimit := darnLimit.toNat }))

/-- MIGRATION_COMPLETE (step 5 of R351): the page's entry names its new tier and frame, MIG is clear, the bytes lie
where the entry says, the move is gone, and no other entry changed tier or frame. -/
def Obligations.MigrationSwitchesTheEntry : Prop :=
  ∀ (page : Nat) (s : State) (m : Move) (e : TierEntry), Running s →
    (s.tiers.moves.find? fun m => m.page == page && m.started) = some m → pageEntry s page = some e → m.kind ≠ .command →
    (openHandles s fun r => match r.op with | .alloc _ => true | _ => false) = [] →
    ∃ t, exec (.migrationComplete page) s = .next t ∧
      pageEntry t page = some { e with tier := m.tier, frame := m.frame, mig := false } ∧
      (∀ g, g ≠ page → pageEntry t g = pageEntry s g) ∧ m ∉ t.tiers.moves ∧
      (pagePlace t page ≠ pagePlace s page → t.mem = memCopy s.mem (pagePlace s page) (pagePlace t page) pageSize) ∧
      (pagePlace t page = pagePlace s page → t.mem = s.mem)

/-- A page copy (R351): bytes of the destination read as those of the source did, and bytes outside it as before. A
write of bytes (R11): the bytes written read back in order, every other place reads as before, and making bytes read 0
changes only them. -/
def Obligations.BytesCopiedWrittenCleared : Prop :=
  (∀ (m : Memory) (src dst n : Nat), Memory.wf m → (src + n ≤ dst ∨ dst + n ≤ src) →
    (∀ i, i < n → memRead (memCopy m src dst n) (dst + i) = memRead m (src + i)) ∧
    (∀ a, a < dst ∨ dst + n ≤ a → memRead (memCopy m src dst n) a = memRead m a)) ∧
  (∀ (m : Memory) (f : Nat → Nat) (a : Nat) (bs : List Byte), Memory.wf m → (∀ i j, i < bs.length → j < bs.length → f (a + i) = f (a + j) → i = j) →
    (∀ i, (hi : i < bs.length) → memRead (memWriteAt f a bs m) (f (a + i)) = bs[i]) ∧
    (∀ k, (∀ i, i < bs.length → f (a + i) ≠ k) → memRead (memWriteAt f a bs m) k = memRead m k)) ∧
  (∀ (m : Memory) (lo hi k : Nat), memRead (memClear m lo hi) k = if lo ≤ k ∧ k < hi then 0 else memRead m k)

/-- Events of pages and rows (R367 to R370, Table 9 of ch. 09): a row with a spare left is darned, retained and
reported; an uncorrectable error of a page without a known copy marks it LOST and raises 0x1802, one with a known copy
waits for its restore and raises 0x1801; the restore writes the backing bytes. Far memory (R364, R365, R561, Table 8
of ch. 09): a poisoned read of a page of T2 raises 0x1803 and ends the operation that met it; a link that goes down
takes its port out of service with one fault; the link coming back changes only the link; a media event raises its
fault and event; a port whose expanders come back the same serves again. -/
def Obligations.FailingRowsAndFarMemory : Prop :=
  (∀ (page : Nat) (row row' : BitVec 64) (s : State), Running s → canDarn s row true = true → row' = w64 (fld row 36 0 ||| bankDarns s row <<< 37) →
    exec (.darnLimit page row true) s = .next (rowEvent 0x1011 row' page (settingsTrigger {}
      { s with tiers.rowErrors := s.tiers.rowErrors.filter fun e => !(e.1 == rowStack row && e.2.1 == row.toNat)
               trust.current.darns := tset s.trust.current.darns (rowStack row') (stackDarns s (rowStack row') ++ [row']) }))) ∧
  (∀ (page : Nat) (row : BitVec 64) (spare : Bool) (s : State), Running s → canDarn s row spare = false →
    exec (.darnLimit page row spare) s =
      .next (replaceAllLost (loseKvPages page (rowEvent 0x1012 row page (withdrawFrame page row (interruptMove page false s)))))) ∧
  (∀ (page : Nat) (row : BitVec 64) (s : State) (e : TierEntry), Running s → pageEntry s page = some e → e.tier = 1 → knownCopy s e = none →
    canDarn s row true = true →
    exec (.hbmUncorrectable page row true) s = .next (replaceAllLost (loseKvPages page (failMoves page 0x0402 (raiseFault
      { code := 0x1802, cls := 5, sev := 1, die := 8 + rowStack row, unit := rowStack row, detail := w64 page, parts := [e.part] }
      (modEntry page (fun e => { e with lost := true })
        (rowEvent 0x1012 row page (handleRow page row true (interruptMove page true s))))))))) ∧
  (∀ (page : Nat) (row : BitVec 64) (s : State) (e : TierEntry) (d : DescWord), Running s → pageEntry s page = some e → e.tier = 1 →
    knownCopy s e = some d → canDarn s row true = true →
    exec (.hbmUncorrectable page row true) s = .next (replaceAllLost (loseKvPages page (raiseFault
      { code := 0x1801, cls := 5, sev := 0, die := 8 + rowStack row, unit := rowStack row, detail := w64 page, parts := [e.part] }
      (modEntry page (fun e => { e with restoring := true })
        (rowEvent 0x1012 row page (handleRow page row true (interruptMove page false s)))))))) ∧
  (∀ (page : Nat) (s : State) (e : TierEntry) (d : DescWord) (x : Partition) (o : MemObject), Running s → pageEntry s page = some e →
    e.restoring = true → s.tiers.withdrawnHolding.contains page = false → getPart s e.part = some x → tget? x.objects e.object = some o →
    o.readOnly = true → o.backing = some d → accessWaits s (descPages d) = false → readTrouble s (descPages d) [] = none →
    exec (.pageRestore page) s = .next (serveAllocs (serveCopies (touchPages (descPages d)
      ((setEntry page { e with restoring := false } s).write .unified (page * pageSize)
        ((((cmdTensor d).bytes s).drop ((page - o.first) * pageSize)).take pageSize)))))) ∧
  (∀ (page : Nat) (h : W64) (s : State) (e : TierEntry), Running s → pageEntry s page = some e → e.tier = 2 →
    exec (.farPoison page h) s = .next (endOnPoison page h.toNat (raiseFault
      { code := 0x1803, cls := 6, sev := 1, die := 4 + e.frame / 2 ^ 19, unit := e.frame / 2 ^ 19, detail := w64 page, handle := h.toNat, parts := [e.part] }
      { s with tiers.poisoned := (s.tiers.poisoned ++ [page]).eraseDups }))) ∧
  (∀ (f : FPortId) (s : State), Running s → (farOf s f.val).inService = true → s.tiers.moves = [] →
    exec (.farLinkDown f) s = .next (raiseFault { code := 0x1804, cls := 6, sev := 1, die := 4 + f.val, unit := f.val, detail := w64 f.val, parts := farParts s f.val }
      (modFar f.val (fun x => { x with linkUp := false, inService := false }) s))) ∧
  (∀ (f : FPortId) (s : State), Running s → exec (.farLinkBackUp f) s = .next (modFar f.val (fun x => { x with linkUp := true }) s)) ∧
  (∀ (f : FPortId) (code : W32) (s : State), Running s → exec (.farMedia f code) s =
    .next (recEvent 0x1016 f.val none (4 + f.val) f.val 0 [(16, f.val), (32, code.toNat)]
      (raiseFault { code := 0x1805, cls := 6, sev := 0, die := 4 + f.val, unit := f.val, detail := w64 (f.val ||| code.toNat <<< 16) } s))) ∧
  (∀ (f : FPortId) (frames : Nat) (s : State), Running s → (farOf s f.val).restarting = true →
    exec (.farPortEnumerated f frames true) s = .next (serveAllocs
      ((openHandles s fun r => match r.op with | .far k => k == f.val | _ => false).foldl (fun s h => finish h 0 0 s)
        (modFar f.val (fun x => { x with restarting := false, linkUp := true, inService := true, frames := min 524288 frames,
                                         width := (trained (takeFree s).1).1, rate := (trained (takeFree s).1).2 }) (takeFree s).2))))

/-! ## Faults, events and the safe state (chapter 14) -/

/-- What the collector does with one fault (R534 to R537, R546): severity 0 is logged and counted only; severity 1 and
2 latch the first-fault record, open the bits of the partitions touched, or of all where none is named, and raise the
event vector at once; a fault after the first leaves its fields and counts. Faults of cores, map buffers, stem
engines, codec pairs, link buffers and the slot store (R35, R533, Table 3 of ch. 14): each raises its own code with
class, severity, die, unit and detail; the step that runs there stops FAULT_STOPPED, an armed slot is disarmed and its
handle ends. -/
def Obligations.FaultsAreLatchedAndContained : Prop :=
  (∀ (f : FaultIn) (s : State), f.sev = 0 → (collect f s).collector.first = s.collector.first ∧
    (collect f s).collector.partOpen = s.collector.partOpen) ∧
  (∀ (f : FaultIn) (s : State), f.sev ≠ 0 → s.collector.first.valid = false →
    (collect f s).collector.first.valid = true ∧ (collect f s).collector.first.code = f.code ∧
    (collect f s).collector.first.sev = f.sev ∧ (collect f s).collector.first.unit = f.unit ∧
    (collect f s).collector.first.detail = f.detail ∧ (collect f s).collector.first.handle = f.handle ∧
    (collect f s).collector.first.tick = s.steward.tick ∧ (collect f s).collector.first.overflow = false) ∧
  (∀ (f : FaultIn) (s : State), f.sev ≠ 0 → s.collector.first.valid = true →
    (collect f s).collector.first =
      { s.collector.first with overflow := true, later := min 0xFFFF (s.collector.first.later + 1) }) ∧
  (∀ (f : FaultIn) (s : State), f.sev ≠ 0 → .msix 0 s.host.eventVector ∈ (collect f s).outbox) ∧
  (∀ (f : FaultIn) (s : State) (p : Nat), f.sev ≠ 0 → p < 16 → (f.parts = [] ∨ p ∈ f.parts) → p ∈ (collect f s).collector.partOpen) ∧
  (∀ s : State, Running s → exec .faultCollected s = .next ((sortFaults s.collector.lines).foldl (fun s f => collect f s)
    { s with collector.lines := [] })) ∧
  (∀ (c : CoreId) (addr : Nat) (s : State) (h : Nat), Running s → (coreOf s c.val).step = some h →
    exec (.coreSramUe c addr) s = .next (stopFaulty h 0x0401 0 (raiseFault { code := 0x2801, cls := 4, sev := 1, die := dieOfCore c.val, unit := c.val, detail := w64 addr, handle := h, parts := partsOfCore s c.val } s))) ∧
  (∀ (c : CoreId) (block : Nat) (s : State), Running s → (coreOf s c.val).step = none →
    exec (.coreParity c block) s = .next (raiseFault { code := 0x2802, cls := 4, sev := 1, die := dieOfCore c.val, unit := c.val, detail := w64 block, handle := 0, parts := partsOfCore s c.val } s)) ∧
  (∀ (d : CdId) (b : Fin 16) (addr : Nat) (s : State), Running s →
    exec (.mapbufUe d b addr) s = .next ((bankSteps s d.val b.val).foldl (fun s h => stopFaulty h 0x0401 0 s) (raiseFault
      { code := 0x2804, cls := 4, sev := 1, die := d.val, unit := b.val, detail := w64 (b.val ||| addr <<< 16), handle := ((bankSteps s d.val b.val).head?).getD 0, parts := (s.parts.filter fun e => e.2.mapbuf.testBit (16 * d.val + b.val)).map Prod.fst } s))) ∧
  (∀ (d : CdId) (s : State), Running s → (cdOf s d.val).stem = [] →
    exec (.stemFault d) s = .next (raiseFault { code := 0x2805, cls := 4, sev := 1, die := d.val, detail := w64 d.val }
      (modCd d.val (fun k => { k with stemFault := true }) s))) ∧
  (∀ (i : PairId) (s : State), Running s → (pairOf s i.val).running = none →
    exec (.codecPairUe i) s = .next (raiseFault { code := 0x4803, cls := 9, sev := 1, die := dieOfPair i.val, unit := i.val, detail := w64 i.val } s)) ∧
  (∀ (i : PairId) (s : State) (p n : Nat) (e : Session), Running s → (pairOf s i.val).running = some (p, n) → getSession s p n = some e → e.kind ≠ 3 →
    exec (.codecPairUe i) s = .next (stopSession p n (modPair i.val (fun r => { r with running := none }) (raiseFault
      { code := 0x4803, cls := 9, sev := 1, die := dieOfPair i.val, unit := i.val, detail := w64 i.val, handle := e.handle, parts := [p] } s)))) ∧
  (∀ (i : PortId) (s : State), Running s → exec (.linkBufferUe i) s = .next (portDown 0x3804 0 i.val s)) ∧
  (∀ (fn : Fn) (k : SlotId) (s : State), Running s → (slotOf (fnOf s fn) k.val).state = 1 →
    exec (.slotStoreError fn k) s = .next (
      let y := slotOf (fnOf s fn) k.val
      finish y.handle 0x0401 0 (dropQueued y.handle (modFn fn (fun z => { z with slots := tdel z.slots k.val }) (raiseFault
        { code := 0x0807, cls := 0, sev := 1, die := 4, unit := fn.val, detail := w64 (fn.val ||| k.val <<< 16), handle := y.handle, parts := if fn.val = 0 then [] else [fn.val - 1] } s)))))

/-- Events without a fault (R547, R548, R559, Table 11 of ch. 14): a degraded core raises its event once, a drifting
stack raises its event, corrected errors of a patrol are counted, those
of a stack by row (R367), and no data changes. -/
def Obligations.DegradationEvents : Prop :=
  (∀ (c : CoreId) (s : State) (p : Nat), Running s → (coreOf s c.val).ceRaised = false → partsOfCore s c.val = [p] →
    exec (.coreDegraded c) s = .next (recEvent 0x2029 (dieOfCore c.val) (some p) (dieOfCore c.val) c.val 0 []
      (modCore c.val (fun x => { x with ceRaised := true }) s))) ∧
  (∀ (c : CoreId) (s : State), Running s → (coreOf s c.val).ceRaised = true → exec (.coreDegraded c) s = .next s) ∧
  (∀ (k : StackId) (s : State), Running s →
    exec (.stackDrift k) s = .next (recEvent 0x1017 k.val none (8 + k.val) k.val 0 [] s)) ∧
  (∀ (k : StackId) (row n : Nat) (s : State), Running s → exec (.scrub k.val [(row, n)]) s = .next (devEvent 0x1010 k.val n (noteRowErrors k.val row n s))) ∧
  (∀ (d : CdId) (c : Fin 52) (n : Nat) (s : State), Running s →
    exec (.scrub (12 + d.val) [(c.val, n)]) s = .next (coreEvent (52 * d.val + c.val) 0x2018 n s)) ∧
  (∀ (t : Nat) (es : List (Nat × Nat)) (s u : State), Running s → exec (.scrub t es) s = .next u → u.mem = s.mem ∧
    u.tiers = { s.tiers with rowErrors := u.tiers.rowErrors } ∧ u.parts = s.parts)

/-- Entering the safe state (R540 to R543, R574, R580, Table 5 of ch. 14): a temperature at the trip point, a fault of
the steward without a healthy standby, a fault of the collector and a supply collapse enter it with their fault; every
port that is up is fenced, movers and migrations end, no pair runs, no record is being written. Messages in the safe
state (R542): while the steward is there, every message but DEVICE_INFO is refused with REFUSED_NOT_PERMITTED; where
it is lost, nothing is answered. -/
def Obligations.SafeStateIsEnteredAndSilent : Prop :=
  (∀ (d : DieId) (temp : Int) (s : State), Running s → tripPoint d.val ≤ temp →
    exec (.overTemperature d temp) s = .next (enterSafe { code := 0x0805, cls := 3, sev := 2, die := d.val, detail := w64 (d.val ||| (temp % 65536).toNat <<< 16) } false false s)) ∧
  (∀ (d : DieId) (temp : Int) (s : State), Running s → temp < tripPoint d.val → exec (.overTemperature d temp) s = .next s) ∧
  (∀ (c : Fin 4) (s : State), Running s → s.steward.standby ≠ .healthy →
    exec (.stewardDoubleFault c) s = .next (enterSafe { code := 0x0803, cls := 3, sev := 2, die := actingDie s, detail := w64 c.val } true false s)) ∧
  (∀ (mask : W64) (s : State), Running s → ∃ t, exec (.collectorSelfFault mask) s = .next t ∧ t.collector.safe = true ∧
    t.collector.first.valid = true ∧ t.collector.first.code = 0x0804 ∧ t.collector.first.detail = mask) ∧
  (∀ (r : RailId) (s : State), Running s → collectorRail r.val = false → s.board.collapsed = [] →
    ∃ t, exec (.supplyCollapse r) s = .next t ∧ t.collector.safe = true ∧ t.board.collapsed = [r.val] ∧
      t.collector.stewardLost = (s.collector.stewardLost || stewardRail s r.val)) ∧
  (∀ (f : FaultIn) (a b : Bool) (s : State), (enterSafe f a b s).collector.safe = true ∧ (enterSafe f a b s).tiers.moves = [] ∧
    (enterSafe f a b s).trust.writing = none ∧ (∀ i : Nat, (pairOf (enterSafe f a b s) i).running = none) ∧
    (∀ i : Fin 16, portUp (portOf (enterSafe f a b s) i.val) = false) ∧ (enterSafe f a b s).mem = s.mem) ∧
  (∀ (fn : Fn) (hdr : Hdr) (op : Nat) (pf : Bool) (body : Body) (s : State), InSafe s → s.steward.life = .ready → s.collector.stewardLost = false →
    fnExists s fn = true → op ≠ 0x0001 → message fn hdr op pf body s = refusedWith fn op hdr 0x0205 s) ∧
  (∀ (fn : Fn) (hdr : Hdr) (op : Nat) (pf : Bool) (body : Body) (s : State), InSafe s → s.steward.life = .ready → s.collector.stewardLost = true →
    message fn hdr op pf body s = .next s)

/-- The safe state ends only by a reset or a power cycle (R541, R543, Table 5 of ch. 14): no other step leaves it, and
none changes a core, a memory tier, a pair, a link, a partition or the retained settings, or collects a fault. -/
def Obligations.SafeStateHolds : Prop :=
  ∀ (s t : State) (c : Instr) (rest : List Instr), InSafe s → s.steward.life = .ready → s.pending = c :: rest → isReset c = false →
    step s = .next t → InSafe t ∧ t.steward.life = .ready ∧ t.tiers = s.tiers ∧ t.pairs = s.pairs ∧ t.links = s.links ∧ t.parts = s.parts ∧ t.prefixes = s.prefixes ∧
      t.trust = s.trust ∧ t.cores = s.cores ∧ t.pending = rest

/-! ## Power, references and the tick (chapters 01 and 15) -/

/-- Gears and setpoints (R575 to R579, Table 8 of ch. 15): a step goes one gear towards the target; a rise waits for
its setpoint; an acknowledged request sets the rail's setpoint; a request that times out leaves the gear, with an
event. -/
def Obligations.GearSteps : Prop :=
  (∀ (d : CdId) (s : State), Running s → (cdOf s d.val).gear < (cdOf s d.val).target → (cdOf s d.val).avs = none →
    (cdOf s d.val).gear < (cdOf s d.val).setpoint →
    exec (.gearStep d) s = .next (modCd d.val (fun c => { c with gear := c.gear + 1 }) s)) ∧
  (∀ (d : CdId) (s : State), Running s → (cdOf s d.val).target < (cdOf s d.val).gear →
    ∃ t, exec (.gearStep d) s = .next t ∧ (cdOf t d.val).gear = (cdOf s d.val).gear - 1 ∧ (cdOf t d.val).target = (cdOf s d.val).target ∧
      (∀ e : Nat, e ≠ d.val → cdOf t e = cdOf s e) ∧ t.mem = s.mem) ∧
  (∀ (d : CdId) (s : State), Running s → (cdOf s d.val).gear < (cdOf s d.val).target → (cdOf s d.val).setpoint ≤ (cdOf s d.val).gear →
    exec (.gearStep d) s = .next s) ∧
  (∀ (d : CdId) (s : State) (g : Nat), Running s → (cdOf s d.val).avs = some g →
    exec (.avsAck d) s = .next (modCd d.val (fun c => { c with avs := none, setpoint := g }) s)) ∧
  (∀ (d : CdId) (s : State) (g : Nat), Running s → (cdOf s d.val).avs = some g →
    exec (.avsTimeout d) s = .next (gearEvent d.val (cdOf s d.val).gear (cdOf s d.val).gear 6
      (modCd d.val (fun c => { c with avs := none, target := (cdOf s d.val).gear }) s)))

/-- Dips, their record, lost references and power words (R571, R572, R581, R587): a dip takes the dies that its rail
feeds to the dip gear and owes one record, which is written once; a die that loses its reference freewheels at gear 0;
a power word in form is retained and its command completes with its record. -/
def Obligations.DipsReferencesAndPowerWords : Prop :=
  (∀ (r : RailId) (lowest : Nat) (s : State), Running s → ∃ t, exec (.supplyDip r lowest) s = .next t ∧
    tget? t.board.dips r.val = some false ∧ (∀ d, d ∈ dipDies r.val → r.val ∈ (cdOf t d).dips) ∧
    (∀ d : Nat, d < 4 → d ∉ dipDies r.val → (cdOf t d).dips = (cdOf s d).dips)) ∧
  (∀ (r : RailId) (lowest below : Nat) (s : State), Running s → tget? s.board.dips r.val = some false →
    exec (.supplyDipRecord r lowest below) s = .next (recEvent 0x0004 r.val none (railDie r.val) r.val 0 [(8, r.val), (16, lowest), (32, below)]
      { s with board.dips := tset s.board.dips r.val true })) ∧
  (∀ (r : RailId) (lowest below : Nat) (s : State), Running s → tget? s.board.dips r.val = some true →
    exec (.supplyDipRecord r lowest below) s = .next s) ∧
  (∀ (d : CdId) (s : State), Running s → freewheels s d.val = false → ∃ t, exec (.freewheel ⟨d.val, by omega⟩) s = .next t ∧
    freewheels t d.val = true ∧ gearWant t d.val = 0 ∧ mainRef s d.val ∈ t.cores.refsLost) ∧
  (∀ (hdr : Hdr) (w : W64) (s : State), HeardPf s hdr → Room s 0 → powerOk w = true →
    exec (.powerSet 0 hdr w) s = accepted 0 0x0703 hdr none 0xA .power 0
      (fun h s => settingsTrigger { handle := h } { s with trust.current.power := w }) s) ∧
  (∀ (hdr : Hdr) (w : W64) (s : State), HeardPf s hdr → powerOk w = false →
    exec (.powerSet 0 hdr w) s = refusedWith 0 0x0703 hdr 0x0201 s)

/-- A tick edge (R39 to R42, Table 5 of ch. 01): the count goes up by one, a waiting period and link descriptor take
effect, the seven actions run in their order, and an edge that finds the steward late counts a tick overrun. -/
def Obligations.TickEdgeActions : Prop :=
  (∀ (env : TickEnv) (s : State), Running s → env.late = false →
    exec (.tickEdge env) s = .next (tickRest (migrationBatch (scheduleTick (powerTick env (pelotonTick (timingTick
      (accountTick env (snapshotTick env { s with steward.tick := s.steward.tick + 1 })))))))) ) ∧
  (∀ (env : TickEnv) (s : State), Running s → env.late = true →
    exec (.tickEdge env) s = .next (tickRest (tickActions env (devEvent 0x0002 0xFFFE 1 s)))) ∧
  (∀ (s : State), (timingTick s).steward.period = s.steward.nextPeriod.getD s.steward.period ∧ (timingTick s).steward.nextPeriod = none ∧
    (timingTick s).links.group = s.links.nextGroup.getD s.links.group ∧ (timingTick s).links.nextGroup = none)

/-- Every tick edge counts exactly one tick (R39). -/
def Obligations.TickAdvancesByOne : Prop :=
  ∀ (env : TickEnv) (s t : State), Running s → exec (.tickEdge env) s = .next t → t.steward.tick = s.steward.tick + 1

/-! ## Firmware, trust and settings (chapters 14 and 16) -/

/-- Takeovers (R553 to R557): a fault of the acting cluster with a healthy standby hands the mailboxes over; the
failed cluster tests itself and becomes standby or stays out; a fault of the standby puts it under test; a handover at
the edge makes the new image act and keeps the old one; a switch waits for the next edge. -/
def Obligations.StewardTakeovers : Prop :=
  (∀ (c : Fin 4) (s : State), Running s → s.steward.standby = .healthy → exec (.stewardCoreFault c) s = .next (takeover c.val s)) ∧
  (∀ (c : Nat) (s : State), s.steward.phase = .idle → updateHandles s isRevert = [] → updateHandles s isSwitch = [] →
    (takeover c s).steward.onXd1 = !s.steward.onXd1 ∧ (takeover c s).steward.standby = .testing ∧
    (takeover c s).steward.image = s.steward.image ∧ (takeover c s).parts = s.parts) ∧
  (∀ s : State, Running s → s.steward.standby = .testing →
    exec (.clusterSelfTest true) s = .next { s with steward.standby := .healthy, steward.standbyImage := s.steward.image }) ∧
  (∀ s : State, Running s → s.steward.standby = .testing → exec (.clusterSelfTest false) s = .next { s with steward.standby := .none }) ∧
  (∀ s : State, Running s → s.steward.standby = .healthy → s.steward.phase ≠ .follow →
    exec .standbyStewardFault s = .next { s with steward.standby := .testing }) ∧
  (∀ s : State, Running s → s.steward.phase = .follow → s.steward.standby = .healthy → updateHandles s isUpdate = [] →
    ∃ t, exec .handover s = .next t ∧ t.steward.image = s.steward.standbyImage ∧ t.steward.standbyImage = s.steward.image ∧
      t.steward.oldImage = some s.steward.image ∧ t.steward.phase = .handedOver ∧ t.trust.uncommitted = true ∧
      t.steward.onXd1 = !s.steward.onXd1) ∧
  (∀ (hdr : Hdr) (s : State), HeardPf s hdr → Room s 0 → s.steward.standby = .healthy → s.steward.phase = .idle → s.steward.switchPending = false →
    exec (.stewardSwitch 0 hdr) s = accepted 0 0x0624 hdr none 0xB .switch 0 (fun _ s => s) { s with steward.switchPending := true })

/-- Live updates and microcode (R556, R558, R599, R600, R603): an image that is good is followed, one that is not ends
REFUSED_SIGNATURE; a commit programs the inactive slot and waits for its record; a revert waits for the next edge; a
good microcode image loads at the pair's boundary and its load ends with its handle. -/
def Obligations.LiveUpdatesAndMicrocode : Prop :=
  (∀ (hdr : Hdr) (image : FwImage) (s : State), HeardPf s hdr → Room s 0 → s.steward.standby = .healthy → s.steward.phase = .idle →
    s.steward.switchPending = false → s.trust.commitHandle = none → Config.readsJournal s.steward.image.header (imgJournal image) = true →
    exec (.fwUpdate 0 hdr image) s = accepted 0 0x0620 hdr none 9 .update 0 (fun h s =>
      if imgGood s 0 image then setPhase .follow { s with steward.standbyImage := image } else finish h 0x0207 0 s) s) ∧
  (∀ (hdr : Hdr) (s : State), HeardPf s hdr → Room s 0 → s.steward.phase = .handedOver → s.trust.commitHandle = none → s.steward.revertPending = false →
    exec (.fwCommit 0 hdr) s = accepted 0 0x0621 hdr none 9 .commit 0 (fun h s =>
      if !imgGood s 0 s.steward.image then finish h 0x0401 0 s else
        settingsTrigger {} (putSteward (!s.trust.inForce.slotB) s.steward.image
          { s with trust.commitHandle := some h, trust.current.slotB := !s.trust.inForce.slotB })) s) ∧
  (∀ (hdr : Hdr) (s : State), HeardPf s hdr → Room s 0 → s.steward.phase = .handedOver → s.trust.commitHandle = none →
    s.steward.revertPending = false → s.steward.standby = .healthy →
    exec (.fwRevert 0 hdr) s = accepted 0 0x0622 hdr none 9 .revert 0 (fun _ s => s) { s with steward.revertPending := true }) ∧
  (∀ (hdr : Hdr) (pair : W64) (image : FwImage) (s : State), HeardPf s hdr → Room s 0 → pair.toNat < 16 →
    (s.pairs.any fun e => e.2.loading.isSome) = false →
    exec (.ucodeLoad 0 hdr pair image) s = accepted 0 0x0623 hdr none 9 (.ucode pair.toNat) 0 (fun h s =>
      if imgGood s 1 image then modPair pair.toNat (fun r => { r with loading := some (image, h) }) s else finish h 0x0207 0 s) s) ∧
  (∀ (i : PairId) (s : State) (f : FwImage) (h : Nat), Running s → (pairOf s i.val).loading = some (f, h) → (pairOf s i.val).running = none →
    exec (.ucodeLoadDone i) s = .next (takeNext i.val (commitUcode f (finish h 0 0
      (modPair i.val (fun r => { r with ucode := f, loading := none }) s)))))

/-- Attestation, identity and owners (R608, R609, R611, Table 5 of ch. 16): the report and the certificate are
delivered to the destination after the reply; a signed owner key is kept and its digest blown in the lowest unblown
slot, an unsigned one ends REFUSED_SIGNATURE. -/
def Obligations.AttestationAndOwners : Prop :=
  (∀ (fn : Fn) (hdr : Hdr) (nonce : BitVec 512) (dst : DescWord) (p : Nat) (x : Partition) (s : State), Heard s fn hdr → Room s fn →
    destPart s fn hdr dst = some p → getPart s p = some x → RecordsOk s p x dst 644 →
    exec (.attest fn hdr nonce dst) s = accepted fn 0x0700 hdr none 0xA .none 0
      (fun h s => deliver h dst (reportBytes fn nonce s) 0 s) s) ∧
  (∀ (fn : Fn) (hdr : Hdr) (dst : DescWord) (p : Nat) (x : Partition) (s : State), Heard s fn hdr → Room s fn →
    destPart s fn hdr dst = some p → getPart s p = some x → RecordsOk s p x dst (identityBytes s).1.length →
    exec (.identityRead fn hdr dst) s = accepted fn 0x0701 hdr none 0xA .none 0
      (fun h s' => deliver h dst (identityBytes s).1 (w64 ((identityBytes s).1.length ||| b2n (identityBytes s).2 <<< 32)) s') s) ∧
  (∀ (hdr : Hdr) (key sig : List Byte) (s : State), HeardPf s hdr → Room s 0 → keyFormOk key = true → s.trust.uncommitted = false →
    ownerSlot s < 4 → sig.length = (if ownerSlot s = 0 then 0 else 132) →
    exec (.ownerEnroll 0 hdr key sig) s = accepted 0 0x0702 hdr none 0xA .none 0 (fun h s' =>
      if enrolSigned s' key sig then finish h 0 (w64 (ownerSlot s + 1)) (enrol (ownerSlot s + 1) key s') else finish h 0x0207 0 s') s) ∧
  (∀ (hdr : Hdr) (key sig : List Byte) (s : State), HeardPf s hdr → keyFormOk key = true → s.trust.uncommitted = false → 4 ≤ ownerSlot s →
    exec (.ownerEnroll 0 hdr key sig) s = refusedWith 0 0x0702 hdr 0x0206 s)

/-- Settings records and recovery (R602, R606): a save asks for a record and completes with it; a query answers the
record in force; a record that reads back is in force with the next SEQ, the first failure is tried again, the second
leaves the settings stale; in recovery mode a good image in host memory is programmed and the steward boots. -/
def Obligations.SettingsRecordsAndRecovery : Prop :=
  (∀ (hdr : Hdr) (s : State), HeardPf s hdr → Room s 0 →
    exec (.settingsSave 0 hdr) s = accepted 0 0x0704 hdr none 0xA .save 0 (fun h s => settingsTrigger { handle := h, save := true } s) s) ∧
  (∀ (hdr : Hdr) (s : State), HeardPf s hdr →
    exec (.settingsQuery 0 hdr) s = answered 0 0x0705 hdr 0
      ([s.trust.inForceSeq, s.trust.half, 2 ^ 20 - s.trust.used, b2n s.trust.stale, s.trust.failed].flatMap (leBytes 8)) s) ∧
  (∀ (s : State) (x : Settings), Running s → s.trust.writing = some (x, [{}]) → s.trust.commitHandle = none →
    ∃ t, exec (.settingsRecordWrite true) s = .next t ∧ t.trust.inForce = x ∧ t.trust.inForceSeq = s.trust.inForceSeq + 1 ∧
      t.trust.stale = false) ∧
  (∀ (s : State) (x : Settings) (ts : List Trigger), Running s → s.trust.writing = some (x, ts) → s.trust.retried = false →
    exec (.settingsRecordWrite false) s = .next
      { takeRoom (settingsSize x) s with trust.retried := true }) ∧
  (∀ (s : State) (x : Settings), Running s → s.trust.writing = some (x, [{}]) → s.trust.retried = true → s.trust.commitHandle = none →
    ∃ t, exec (.settingsRecordWrite false) s = .next t ∧ t.trust.inForce = s.trust.inForce ∧ t.trust.stale = true ∧
      t.trust.failed = s.trust.failed + 1) ∧
  (∀ (hdr : Hdr) (addr length : W64) (key : List Byte) (s : State), s.steward.life = .recovery → Reached s 0 hdr → ownerSlot s = 0 →
    imgGood s 0 (hostImage s addr.toNat length.toNat) = true →
    exec (.fwRecover 0 hdr addr length key) s = answered 0 0x0710 hdr 0 []
      (startSteward false (markSlotA (hostImage s addr.toNat length.toNat) (putSteward false (hostImage s addr.toNat length.toNat) s))))

/-! ## Start-up, resets, board (chapter 15) -/

/-- Resets and pins (R589 to R593, R597, R615, R616, Table 7 of ch. 15): power-up, RESET_N low for 10 µs and PERST_N
low for 100 µs start the device, a shorter low is ignored; TEST_EN high keeps it in reset; TRST_N and test
instructions reach only the test access port; the bus answers its own address while its rails are there. -/
def Obligations.ResetsAndPins : Prop :=
  (∀ (env : BootEnv) (s : State), exec (.powerOn env) s = .next (release env s)) ∧
  (∀ (n : Nat) (env : BootEnv) (s : State), 10000 ≤ n → exec (.resetN n env) s = .next (release env s)) ∧
  (∀ (n : Nat) (env : BootEnv) (s : State), n < 10000 → exec (.resetN n env) s = .next s) ∧
  (∀ (n : Nat) (env : BootEnv) (s : State), 100000 ≤ n → exec (.perstN n env) s = .next (release env s)) ∧
  (∀ (n : Nat) (env : BootEnv) (s : State), n < 100000 → exec (.perstN n env) s = .next s) ∧
  (∀ (env : BootEnv) (s : State), env.straps.testEn = true → (release env s).steward.life = .held) ∧
  (∀ (env : BootEnv) (s : State), (release env s).parts = [] ∧ (release env s).collector.safe = false ∧
    (release env s).host.vfEnable = false ∧ (release env s).collector.first.valid = false ∧
    (release env s).trust.ownerDigests = s.trust.ownerDigests) ∧
  (∀ s : State, exec .trstN s = .next { s with board.tapIr := 0 }) ∧
  (∀ (code : Nat) (s : State), exec (.testAccessPortInstruction code) s = .next (emit (.tap code) { s with board.tapIr := code })) ∧
  (∀ (offset count : Nat) (s : State), s.steward.life = .ready → s.board.collapsed = [] → s.board.straps.strap0 = false → s.board.straps.strap1 = false →
    offset < 2 ^ 24 → count ≤ 255 →
    exec (.bmcRead 0x4C offset count) s = .next (emit (.bus (some ((List.range count).map fun i => mirrorByte s (offset + i)))) s)) ∧
  (∀ (a : BitVec 7) (offset count : Nat) (s : State), a.toNat ≠ 0x4C + (b2n s.board.straps.strap0 + 2 * b2n s.board.straps.strap1) →
    exec (.bmcRead a offset count) s = .next (emit (.bus none) s))

/-! ## Links (chapter 11) -/

/-- Flits that arrive (R423 to R426, R428, R437, R438, R459): one in order with a good CRC advances the expected SEQ,
its acknowledgement and credits are taken and its payload joins its message; one with a bad CRC or codeword is counted
and answered by one NAK; a duplicate changes nothing; an IDLE flit brings its acknowledgement and credits; a NAK has
the rest sent again. -/
def Obligations.FlitsThatArrive : Prop :=
  (∀ (i : PortId) (f : Flit) (w : FlitHead) (s : State), Running s → portUp (portOf s i.val) = true → flitCrc f = f.crc → w = ownHead f.header →
    reservedSet w = false → (hType w = 1 ∨ hType w = 2) → 1 ≤ hChunks w → hChunks w ≤ 19 → hSeq w = (portOf s i.val).expectSeq →
    exec (.dataFlit i true f) s = .next (returnCredits i.val (oweCredit i.val (hVc w) (takeFlit i.val f (takeReturns i.val w
      (modPort i.val (fun p => { p with expectSeq := (p.expectSeq + 1) % 4096, nakSent := false, fencedByPeer := false }) s)))))) ∧
  (∀ (i : PortId) (ok : Bool) (f : Flit) (s : State), Running s → portUp (portOf s i.val) = true → (portOf s i.val).nakSent = false →
    (ok = false ∨ flitCrc f ≠ f.crc) →
    exec (.dataFlit i ok f) s = .next (nakOnce i.val (violation i.val 1 (hVc (ownHead f.header)) 0 (hSeq (ownHead f.header)) (devEvent 0x3001 i.val 1 s)))) ∧
  (∀ (i : PortId) (f : Flit) (w : FlitHead) (s : State), Running s → portUp (portOf s i.val) = true → flitCrc f = f.crc → w = ownHead f.header →
    reservedSet w = false → (hType w = 1 ∨ hType w = 2) → hSeq w ≠ (portOf s i.val).expectSeq →
    ((portOf s i.val).expectSeq + 4095 - hSeq w) % 4096 < 2048 → exec (.dataFlit i true f) s = .next s) ∧
  (∀ (i : PortId) (f : Flit) (w : FlitHead) (s : State), Running s → portUp (portOf s i.val) = true → flitCrc f = f.crc → w = ownHead f.header →
    hType w = 0 → hChunks w = 0 →
    exec (.idleFlit i true f) s = .next (takeReturns i.val w (modPort i.val (fun p => { p with fencedByPeer := false }) s))) ∧
  (∀ (i : PortId) (f : Flit) (w : FlitHead) (s : State), Running s → portUp (portOf s i.val) = true → flitCrc f = f.crc → w = ownHead f.header →
    hType w = 3 → hChunks w = 0 → (hAck w + 1) % 4096 = (portOf s i.val).nextSeq →
    exec (.nak i true f) s = .next (pump i.val (replayOnce i.val (takeReturns i.val w
      (modPort i.val (fun p => ackTo (hAck w) { p with fencedByPeer := false }) s))))) ∧
  (∀ (i : PortId) (ok : Bool) (f : Flit) (s : State), Running s → portUp (portOf s i.val) = false →
    exec (.dataFlit i ok f) s = .next s ∧ exec (.idleFlit i ok f) s = .next s ∧ exec (.nak i ok f) s = .next s)

/-- Retry, fencing and credits (R430, R431, R438, R446): a timeout sends the replay buffer
again, the eighth without progress begins a fast retrain (R439); FENCE_IDLE holds the
data VCs and is recorded once; VC_RESET takes the credits of its VC; an acknowledgement releases the flits that it
names and no others. -/
def Obligations.RetryFenceAndCredits : Prop :=
  (∀ (i : PortId) (s : State), Running s → portUp (portOf s i.val) = true → (portOf s i.val).replay ≠ [] →
    ((portOf s i.val).replays < 7 →
      exec (.replayTimeout i) s = .next (replayAll i.val (modPort i.val (fun p => { p with replays := p.replays + 1 }) s))) ∧
    (7 ≤ (portOf s i.val).replays → exec (.replayTimeout i) s = .next (modPort i.val (fun p => { p with retraining := true, nakSent := false })
      (modPort i.val (fun p => { p with replays := p.replays + 1 }) s)))) ∧
  (∀ (i : PortId) (s : State), Running s → portUp (portOf s i.val) = true → (portOf s i.val).fencedByPeer = false →
    exec (.fenceIdle i) s = .next (recEvent 0x3006 i.val none (4 + i.val / 4) i.val 0 [(16, i.val)] (modPort i.val (fun p => { p with fencedByPeer := true }) s))) ∧
  (∀ (i : PortId) (v : Fin 8) (s : State), Running s → portUp (portOf s i.val) = true → ∃ t, exec (.vcReset i v) s = .next t ∧
    (vcOf (portOf t i.val) v.val).credits = 0 ∧ (∀ u : Nat, u ≠ v.val → vcOf (portOf t i.val) u = vcOf (portOf s i.val) u) ∧
    (∀ j : Nat, j ≠ i.val → portOf t j = portOf s j)) ∧
  (∀ (ack : Nat) (p : Port) (f : TxFlit), f ∈ (ackTo ack p).replay → f ∈ p.replay ∧ 2048 ≤ (ack + 4096 - hSeq f.header) % 4096) ∧
  (∀ (ack : Nat) (p : Port) (f : TxFlit), f ∈ p.replay → 2048 ≤ (ack + 4096 - hSeq f.header) % 4096 → f ∈ (ackTo ack p).replay) ∧
  (∀ (i : Nat) (s : State) (fuel : Nat), (∀ v : Nat, (vcOf (portOf (pumpPort i fuel s) i) v).credits ≤ (vcOf (portOf s i) v).credits) ∧
    ((portOf s i).replay.length ≤ 512 → (portOf (pumpPort i fuel s) i).replay.length ≤ 512))

/-- Port states (R422, R439 to R443, Table 6 of ch. 11): a fast retrain ends with CONFIG and a replay; training ends
UP on its lanes, or DOWN with a fault; a lost codeword lock holds the port until its retrain; the first faulty lane
leaves three lanes and a corrected fault, the second takes the port DOWN. -/
def Obligations.PortStates : Prop :=
  (∀ (i : PortId) (s : State), Running s → (portOf s i.val).state = .up4 →
    exec (.fastRetrain i 0xF true) s = .next (replayAll i.val (sendConfig i.val
      (modPort i.val (fun p => { p with state := .up4, lanes := 0xF, fastRetrains := 0, replays := 0, retraining := false, faultyLane := none }) s)))) ∧
  (∀ (i : PortId) (m : BitVec 4) (s : State), Running s → (portOf s i.val).state = .up4 → (portOf s i.val).fastRetrains = 2 →
    exec (.fastRetrain i m false) s = .next (modPort i.val (fun p => { p with state := .training, fastRetrains := 0, replays := 0, retraining := false }) s)) ∧
  (∀ (i : PortId) (s : State), Running s → (portOf s i.val).state = .training → (portOf s i.val).trainHandle = 0 →
    ∃ t, exec (.fullTraining i 0xF) s = .next t ∧ (portOf t i.val).state = .up4 ∧ (portOf t i.val).lanes = 0xF) ∧
  (∀ (i : PortId) (m : BitVec 4) (s : State), Running s → (portOf s i.val).state = .training → laneCount m < 3 →
    exec (.fullTraining i m) s = .next (linkDown i.val s)) ∧
  (∀ (i : PortId) (s : State), Running s → portUp (portOf s i.val) = true →
    exec (.codewordLockLost i) s = .next (modPort i.val (fun p => { p with retraining := true, nakSent := false }) s)) ∧
  (∀ (i : PortId) (l : Fin 4) (s : State), Running s → (portOf s i.val).state = .up4 → (portOf s i.val).lanes.getLsbD l.val = true →
    exec (.laneDegrade i l) s = .next (replayAll i.val (sendConfig i.val (raiseFault
      { code := 0x3802, cls := 7, sev := 0, die := 4 + i.val / 4, unit := i.val, detail := w64 (i.val ||| l.val <<< 16) }
      (devEvent 0x3005 i.val 1 (modPort i.val (fun p => { p with state := .up3, lanes := p.lanes &&& ~~~(BitVec.ofNat 4 (2 ^ l.val)),
                                                                 faultyLane := some l.val, retraining := false }) s)))))) ∧
  (∀ (i : PortId) (l : Fin 4) (s : State), Running s → (portOf s i.val).state = .up3 → (portOf s i.val).lanes.getLsbD l.val = true →
    exec (.laneDegrade i l) s = .next (linkDown i.val s)) ∧
  (∀ (i : Nat) (s : State), (portOf s i).state ≠ .down → (portOf s i).recalHandle = 0 → (portOf s i).trainHandle = 0 →
    ∃ f : FaultIn, f.code = 0x3801 ∧ f.sev = 1 ∧ (linkDown i s).collector.lines = s.collector.lines ++ [f] ∧
      (portOf (linkDown i s) i).state = .down ∧ (portOf (linkDown i s) i).txq = (portOf s i).txq)

/-- Control messages of a link (R433, R440, Table 10 of ch. 11): the partner's LINK_ID is learnt and its
acknowledgement taken; another LINK_ID than the one learnt takes the port DOWN with 0x3803; ECHO_REQ is answered with
its time; 64 ECHO_RESP give the latency as half the mean round trip. -/
def Obligations.LinkControlMessages : Prop :=
  (∀ (i : PortId) (id : W16) (pp : W16) (m : BitVec 4) (b sw : Bool) (ack : BitVec 12) (s : State), Running s → portLit (portOf s i.val) = true →
    (portOf s i.val).peerId = none →
    exec (.config i id pp m b ack sw) s = .next (pump i.val (modPort i.val (fun p => ackTo ack.toNat { p with peerId := some id, slow := b }) s))) ∧
  (∀ (i : PortId) (id k : W16) (pp : W16) (m : BitVec 4) (b sw : Bool) (ack : BitVec 12) (s : State), Running s → portLit (portOf s i.val) = true →
    (portOf s i.val).peerId = some k → k ≠ id →
    exec (.config i id pp m b ack sw) s = .next (portDown 0x3803 id.toNat i.val s)) ∧
  (∀ (i : PortId) (t : W64) (s : State), Running s → portUp (portOf s i.val) = true →
    exec (.echoReq i t) s = .next (sendControl i.val 3 0xFFFF (leBytes 8 t.toNat ++ leBytes 8 (takeFree s).1.toNat) (takeFree s).2)) ∧
  (∀ (i : PortId) (t u n : W64) (s : State), Running s → portUp (portOf s i.val) = true → (portOf s i.val).echoes.length = 63 →
    exec (.echoResp i t u n) s = .next (modPort i.val (fun p =>
      { p with echoes := p.echoes ++ [n.toNat - t.toNat - u.toNat],
               latency := (p.echoes ++ [n.toNat - t.toNat - u.toNat]).foldl (· + ·) 0 / 128 }) s)) ∧
  (∀ (i : PortId) (src : W16) (payload : BitVec 256) (s : State), Running s → portUp (portOf s i.val) = true →
    exec (.answer i src payload) s = .next (answerMsg i.val src payload s))

/-- Link commands and tick alignment (R444, R445, R447 to R455, R560): a descriptor in form applies, its timing at the
next edge; a recalibration retunes the first lane of its port, and its last lane ends it UP4 with its event; a
training begins for an enabled port that is DOWN; a follower's marker resets its misses; a missed marker or SYNC_IN
edge is counted and the timer stands in; an edge that comes too early is ignored and counted. -/
def Obligations.LinkCommandsAndAlignment : Prop :=
  (∀ (hdr : Hdr) (g : BitVec 128) (s : State), HeardPf s hdr → groupOk g = true →
    exec (.linkGroupSet 0 hdr g) s = answered 0 0x0630 hdr (s.steward.tick + 1) [] (applyGroup g s)) ∧
  (∀ (hdr : Hdr) (g : BitVec 128) (s : State), HeardPf s hdr → groupOk g = false →
    exec (.linkGroupSet 0 hdr g) s = refusedWith 0 0x0630 hdr 0x0201 s) ∧
  (∀ (hdr : Hdr) (port : W64) (s : State), HeardPf s hdr → Room s 0 → port.toNat < 16 → (portOf s port.toNat).state = .up4 →
    dieRecals s port.toNat = false →
    exec (.linkRecal 0 hdr port) s = accepted 0 0x0631 hdr none 0xB (.recal port.toNat) 0 (fun h s =>
      retuneLane port.toNat 0 (modPort port.toNat (fun p => { p with recalHandle := h, faultyLane := none }) s)) s) ∧
  (∀ (hdr : Hdr) (port : W64) (s : State), HeardPf s hdr → Room s 0 → port.toNat < 16 → (portOf s port.toNat).state = .down →
    (lgPortEn s.links.group).testBit port.toNat = true →
    exec (.linkTrain 0 hdr port) s = accepted 0 0x0632 hdr none 0xB (.train port.toNat) 0 (fun h s =>
      modPort port.toNat (fun p => { p with state := .training, trainHandle := h }) s) s) ∧
  (∀ (i : PortId) (s : State), Running s → (portOf s i.val).state = .recal → (portOf s i.val).recalLane = some 3 →
    exec (.laneRecalDone i 3 true) s = .next (endRecal i.val 0xF none 0 s)) ∧
  (∀ (i : PortId) (a : BitVec 12) (lo : BitVec 6) (phase : Int) (s : State), Running s → lgSource s.links.group = 3 →
    lgUpPort s.links.group = i.val → portUp (portOf s i.val) = true →
    ∃ t, exec (.tickMarker i a lo phase) s = .next t ∧ t.links.misses = 0 ∧ t.links.lastTickLo = some lo.toNat ∧ t.links.syncLost = false) ∧
  (∀ s : State, Running s → 2 ≤ lgSource s.links.group →
    exec .markerMissed s = .next (sendMarkers (1000 * lgLg s.links.group) (missedLo (missOne s)) (missOne s))) ∧
  (∀ s : State, (missOne s).links.misses = s.links.misses + 1) ∧
  (∀ (n : Nat) (s : State), Running s → lgSource s.links.group = 2 → lgPeriod s.links.group * 1000 ≤ n + 1000 →
    exec (.syncIn n) s = .next (sendMarkers 0 s.steward.tick.toNat { s with links.misses := 0, links.syncLost := false })) ∧
  (∀ (n : Nat) (s : State), Running s → lgSource s.links.group = 2 → n + 1000 < lgPeriod s.links.group * 1000 →
    exec (.syncIn n) s = .next (devEvent 0x300A 0xFFFE 1 s)) ∧
  (∀ s : State, Running s → s.host.linkUp = true → exec (.linkReferenceLost .h0) s = .next (emit .h0Down { flrPf s with host.linkUp := false })) ∧
  (∀ (f : FPortId) (s : State), Running s → exec (.linkReferenceLost (.far f)) s = .next (farLinkDown f.val s)) ∧
  (∀ (xd : Fin 4) (s : State), Running s →
    exec (.linkReferenceLost (.links xd)) s = .next ((List.range 4).foldl (fun s k => linkDown (4 * xd.val + k) s) s))

/-! ## Patterns, jobs and steps (chapters 02, 05, 07 and 13) -/

/-- PATTERN_LOAD and PATTERN_UNLOAD (R84, R508, R627): an image that passes the load's checks takes the lowest free
pattern number, which RESULT names; a pattern that no job uses is removed, one that a job uses is refused, and a
number that names none is refused. -/
def Obligations.PatternsLoadAndUnload : Prop :=
  (∀ (fn : Fn) (hdr : Hdr) (desc : DescWord) (image : PatternImage) (p n : Nat) (x : Partition) (s : State), Heard s fn hdr →
    Acts s fn hdr p x → Room s fn → UnifiedOk s p x desc → PatternOk s p { pat := image, table := image.bindings, spaces := spacesOf x, banks := x.banks, load := true } → tfree x.patterns 256 = some n →
    exec (.patternLoad fn hdr desc image) s = accepted fn 0x0200 hdr (some p) 2 .none (w64 n) (fun h s => finish h 0 0 s)
      (modPart p (fun x => { x with patterns := tset x.patterns n image }) s)) ∧
  (∀ (fn : Fn) (hdr : Hdr) (pattern : W64) (p : Nat) (x : Partition) (img : PatternImage) (s : State), Heard s fn hdr → Acts s fn hdr p x →
    tget? x.patterns pattern.toNat = some img → (∀ j ∈ x.jobs, j.2.pattern ≠ pattern.toNat) →
    exec (.patternUnload fn hdr pattern) s =
      answered fn 0x0201 hdr 0 [] (modPart p (fun x => { x with patterns := tdel x.patterns pattern.toNat }) s)) ∧
  (∀ (fn : Fn) (hdr : Hdr) (pattern : W64) (p : Nat) (x : Partition) (img : PatternImage) (s : State), Heard s fn hdr → Acts s fn hdr p x →
    tget? x.patterns pattern.toNat = some img → (∃ j ∈ x.jobs, j.2.pattern = pattern.toNat) →
    exec (.patternUnload fn hdr pattern) s = refusedWith fn 0x0201 hdr 0x0205 s) ∧
  (∀ (fn : Fn) (hdr : Hdr) (pattern : W64) (p : Nat) (x : Partition) (s : State), Heard s fn hdr → Acts s fn hdr p x →
    tget? x.patterns pattern.toNat = none → exec (.patternUnload fn hdr pattern) s = refusedWith fn 0x0201 hdr 0x0201 s)

/-- JOB_CREATE, JOB_DESTROY, JOB_SET and SCHED_QUERY (R508, R509, R513, R515): a job that passes the checks takes the
lowest free job number; one without a step that is queued, running, held or stopped is removed with its discarded
epochs; a change of class, weight and slice waits for the next tick edge, whose number RESULT gives; the query answers
the eight words of the job. -/
def Obligations.JobsAndTheirShares : Prop :=
  (∀ (fn : Fn) (hdr : Hdr) (pattern cls quads banks weight slice : W64) (context : DescWord) (p n : Nat) (x : Partition) (pat : PatternImage) (s : State),
    Heard s fn hdr → Acts s fn hdr p x → tget? x.patterns pattern.toNat = some pat → jobFormOk x pat cls quads banks weight slice = true →
    UnifiedOk s p x context → contextOk s x pat context = true → readOnlyDesc s context = false →
    PlacementOk s p x { pat := pat, table := pat.bindings, spaces := spacesOf x, banks := x.banks } (jobCores s
      { pattern := pattern.toNat, cls := cls.toNat, quads := quads, banks := banks, weight := weight.toNat, slice := slice.toNat, ctx := context }) →
    jobRoom x pat cls banks = true → tfree x.jobs 64 = some n →
    exec (.jobCreate fn hdr pattern cls quads banks weight slice context) s = answered fn 0x0210 hdr (w64 n) [] (modPart p (fun x => { x with
      jobs := tset x.jobs n { pattern := pattern.toNat, cls := cls.toNat, quads := quads, banks := banks, weight := weight.toNat, slice := slice.toNat, ctx := context } }) s)) ∧
  (∀ (fn : Fn) (hdr : Hdr) (job : W64) (p : Nat) (x : Partition) (j : Job) (s : State), Heard s fn hdr → Acts s fn hdr p x →
    tget? x.jobs job.toNat = some j → jobHasStep x job.toNat = false →
    exec (.jobDestroy fn hdr job) s = answered fn 0x0211 hdr 0 [] (modPart p (fun x => { x with
      jobs := tdel x.jobs job.toNat, discardedEpochs := x.discardedEpochs.filter fun d => d.1 != job.toNat }) s)) ∧
  (∀ (fn : Fn) (hdr : Hdr) (job : W64) (p : Nat) (x : Partition) (j : Job) (s : State), Heard s fn hdr → Acts s fn hdr p x →
    tget? x.jobs job.toNat = some j → jobHasStep x job.toNat = true → exec (.jobDestroy fn hdr job) s = refusedWith fn 0x0211 hdr 0x0205 s) ∧
  (∀ (fn : Fn) (hdr : Hdr) (job cls weight slice : W64) (p : Nat) (x : Partition) (j : Job) (s : State), Heard s fn hdr → Acts s fn hdr p x →
    tget? x.jobs job.toNat = some j → 1 ≤ weight.toNat → weight.toNat ≤ 255 → 1 ≤ slice.toNat → slice.toNat ≤ 64 → cls.toNat ≤ 3 →
    exec (.jobSet fn hdr job cls weight slice) s = (if (cls.toNat = 0) = (j.cls = 0) then
      answered fn 0x0212 hdr (s.steward.tick + 1) []
        (modJob p job.toNat (fun j => { j with nextSet := some (cls.toNat, weight.toNat, slice.toNat) }) s)
      else refusedWith fn 0x0212 hdr 0x0205 s)) ∧
  (∀ (fn : Fn) (hdr : Hdr) (job : W64) (p : Nat) (x : Partition) (j : Job) (s : State), Heard s fn hdr → Acts s fn hdr p x →
    tget? x.jobs job.toNat = some j → x.locks = [] →
    exec (.schedQuery fn hdr job) s = answered fn 0x0230 hdr 0 (wordsData [j.cls, (j.balance % (2 ^ 64 : Nat)).toNat, j.sliceLeft,
      if j.holdsQuads then j.quads.toNat else 0, b2n (x.steps.any fun e => e.2.job == job.toNat && e.2.suspended), 0, 0, j.overrun]) s)

/-- STEP_SUBMIT, FASTPATH_ARM and FASTPATH_DISARM (R37, R49, R54, R90 to R92): a submission that passes its checks is
queued under the next step handle; an empty slot is armed with a step whose handle is pending until the doorbell; an
armed slot lets its step go and the handle ends 0x0301, a fired slot answers 1, an empty one 0. A retry that names no
discarded epoch of its job is refused 0x0204. -/
def Obligations.SubmissionsAndSlots : Prop :=
  (∀ (fn : Fn) (hdr : Hdr) (ops : StepOps) (p : Nat) (x : Partition) (r : Step × State) (s : State), Heard s fn hdr → Acts s fn hdr p x →
    prepareStep p x ops none s = .ok r → Room r.2 fn →
    exec (.stepSubmit fn hdr ops) s = accepted fn 0x0220 hdr (some p) 1 .step 0 (fun h s => modHandle h (fun r => { r with state := .queued }) s)
      (modPart p (fun x => { x with steps := tset x.steps (nextHandle r.2 p 1) r.1 }) r.2)) ∧
  (∀ (p : Nat) (x : Partition) (ops : StepOps) (slot : Option (Nat × Nat)) (r : Step × State) (s : State), prepareStep p x ops slot s = .ok r →
    r.1.job = ops.job.toNat ∧ r.1.state = .queued ∧ r.1.seed = ops.seed ∧ r.1.words = ops.words.map (·.setWidth 32) ∧
      r.1.det = (ops.det == 1) ∧ r.1.table = ops.table ∧ r.1.slot = slot ∧ retryOk x ops.job.toNat ops.retry = true) ∧
  (∀ (fn : Fn) (hdr : Hdr) (ops : StepOps) (p : Nat) (x : Partition) (j : Job) (pat : PatternImage) (s : State), Heard s fn hdr → Acts s fn hdr p x →
    tget? x.jobs ops.job.toNat = some j → tget? x.patterns j.pattern = some pat → (ops.words.all fun w => decide (w.toNat < 2 ^ 32)) = true →
    ops.words.length ≤ 8 → flagOk ops.det = true → ops.retry ≠ 0 → (∀ d ∈ x.discardedEpochs, d.1 = ops.job.toNat → d.2.1 ≠ ops.retry.toNat) →
    exec (.stepSubmit fn hdr ops) s = refusedWith fn 0x0220 hdr 0x0204 s) ∧
  (∀ (fn : Fn) (hdr : Hdr) (slot : W64) (ops : StepOps) (p : Nat) (x : Partition) (j : Job) (r : Step × State) (s : State), Heard s fn hdr → Acts s fn hdr p x →
    slot.toNat < 16 → (slotOf (fnOf s fn) slot.toNat).state = 0 → prepareStep p x ops (some (fn.val, slot.toNat)) s = .ok r → Room r.2 fn →
    tget? x.jobs r.1.job = some j → coresIdle r.2 j = false →
    exec (.fastpathArm fn hdr slot ops) s = accepted fn 0x0240 hdr (some p) 1 .step 0 (fun h s => modHandle h (fun r => { r with state := .pending }) s)
      (modPart p (fun x => { x with steps := tset x.steps (nextHandle r.2 p 1) r.1 })
        (modFn fn (fun y => { y with slots := tset y.slots slot.toNat { state := 1, handle := nextHandle r.2 p 1, weights := false } }) r.2))) ∧
  (∀ (fn : Fn) (hdr : Hdr) (slot : W64) (ops : StepOps) (p : Nat) (x : Partition) (s : State), Heard s fn hdr → Acts s fn hdr p x →
    slot.toNat < 16 → (slotOf (fnOf s fn) slot.toNat).state ≠ 0 → exec (.fastpathArm fn hdr slot ops) s = refusedWith fn 0x0240 hdr 0x0205 s) ∧
  (∀ (fn : Fn) (hdr : Hdr) (slot : W64) (s : State), Heard s fn hdr → slot.toNat < 16 → (slotOf (fnOf s fn) slot.toNat).state = 1 →
    exec (.fastpathDisarm fn hdr slot) s = .next (finish (slotOf (fnOf s fn) slot.toNat).handle 0x0301 0 (reply fn 0x0241 hdr 0 0 0 []
      (modFn fn (fun z => { z with slots := tdel z.slots slot.toNat }) (dropQueued (slotOf (fnOf s fn) slot.toNat).handle s))))) ∧
  (∀ (fn : Fn) (hdr : Hdr) (slot : W64) (s : State), Heard s fn hdr → slot.toNat < 16 → (slotOf (fnOf s fn) slot.toNat).state ≠ 1 →
    exec (.fastpathDisarm fn hdr slot) s = answered fn 0x0241 hdr (if (slotOf (fnOf s fn) slot.toNat).state = 2 then 1 else 0) [] s)

/-- STEP_STOP, STEP_RESUME, STEP_COMMIT and STEP_FROG (R50 to R53, R204, R205, R524): a running step is suspended, its
cores are asked to stop and its job's quads are released; a suspended one goes on; a held one is committed; a held or
stopped one is discarded at once and RESULT tells the state that it was in; a queued one is not frogged. A handle of
another kind, or of a step that is already over, is refused. -/
def Obligations.StopResumeCommitFrog : Prop :=
  (∀ (fn : Fn) (hdr : Hdr) (h : Nat) (x : Partition) (st : Step) (s : State), Heard s fn hdr → OnStep s fn hdr h x st → st.state = .running →
    st.suspended = false → st.frogging = false → exec (.stepStop fn hdr) s = answered fn 0x0221 hdr 0 []
      (releaseQuads h (stopStep .host h (modStep h (fun st => { st with suspended := true }) s)))) ∧
  (∀ (fn : Fn) (hdr : Hdr) (h : Nat) (x : Partition) (st : Step) (s : State), Heard s fn hdr → OnStep s fn hdr h x st → st.state ≠ .running →
    exec (.stepStop fn hdr) s = refusedWith fn 0x0221 hdr 0x0205 s) ∧
  (∀ (fn : Fn) (hdr : Hdr) (h : Nat) (x : Partition) (st : Step) (s : State), Heard s fn hdr → OnStep s fn hdr h x st → st.state = .running →
    st.suspended = true → stepClass (modStep h (fun st => { st with suspended := false }) s) h ≠ 0 →
    exec (.stepResume fn hdr) s = answered fn 0x0222 hdr 0 [] (modStep h (fun st => { st with suspended := false }) s)) ∧
  (∀ (fn : Fn) (hdr : Hdr) (h : Nat) (x : Partition) (st : Step) (s : State), Heard s fn hdr → OnStep s fn hdr h x st → st.state = .held →
    exec (.stepCommit fn hdr) s = answered fn 0x0250 hdr 0 [] (commitStep h s)) ∧
  (∀ (fn : Fn) (hdr : Hdr) (h : Nat) (x : Partition) (st : Step) (s : State), Heard s fn hdr → OnStep s fn hdr h x st →
    (st.state = .queued ∨ st.state = .running ∨ st.state = .stopped) → exec (.stepCommit fn hdr) s = refusedWith fn 0x0250 hdr 0x0205 s) ∧
  (∀ (fn : Fn) (hdr : Hdr) (h : Nat) (x : Partition) (st : Step) (s : State), Heard s fn hdr → OnStep s fn hdr h x st →
    (st.state = .committed ∨ st.state = .discarded) → exec (.stepCommit fn hdr) s = refusedWith fn 0x0250 hdr 0x0204 s ∧
      exec (.stepFrog fn hdr) s = refusedWith fn 0x0251 hdr 0x0204 s) ∧
  (∀ (fn : Fn) (hdr : Hdr) (h : Nat) (x : Partition) (st : Step) (s : State), Heard s fn hdr → OnStep s fn hdr h x st → st.state = .held →
    exec (.stepFrog fn hdr) s = answered fn 0x0251 hdr 3 [] (discardStep h s)) ∧
  (∀ (fn : Fn) (hdr : Hdr) (h : Nat) (x : Partition) (st : Step) (s : State), Heard s fn hdr → OnStep s fn hdr h x st → st.state = .stopped →
    exec (.stepFrog fn hdr) s = answered fn 0x0251 hdr 4 [] (discardStep h s)) ∧
  (∀ (fn : Fn) (hdr : Hdr) (h : Nat) (x : Partition) (st : Step) (s : State), Heard s fn hdr → OnStep s fn hdr h x st → st.state = .running →
    exec (.stepFrog fn hdr) s = answered fn 0x0251 hdr 2 [] (stopStep .frog h (modStep h (fun st => { st with frogging := true }) s))) ∧
  (∀ (fn : Fn) (hdr : Hdr) (h : Nat) (x : Partition) (st : Step) (s : State), Heard s fn hdr → OnStep s fn hdr h x st → st.state = .queued →
    exec (.stepFrog fn hdr) s = refusedWith fn 0x0251 hdr 0x0205 s) ∧
  (∀ (fn : Fn) (hdr : Hdr) (s : State), Heard s fn hdr → targetError s (if fn.val = 0 then none else some (fn.val - 1)) hdr.target.toNat = none →
    handleKind hdr.target.toNat ≠ 1 → exec (.stepCommit fn hdr) s = refusedWith fn 0x0250 hdr 0x0201 s)

/-- Admission, saves, restores and the held state (R45, R46, R50, R512, R520, R521): a step of class 1 to 3 whose turn
has come and whose job holds idle quads takes its epoch and issues its first stitches; a class-0 step starts when
every core of it is free; a stopping core's save lands and a restorable core's state comes back; a step whose cores
have all passed their last entry is held and its
entry is posted with status, conditions and epoch, and one whose records meet a page in trouble stops (R369); a frogged step
with no core running ends. -/
def Obligations.StepsAdvance : Prop :=
  (∀ (handle : W64) (s : State) (j : Job) (st : Step), Running s → stepJob s handle.toNat = some j → getStep s handle.toNat = some st →
    turnComes s handle.toNat false = true → j.cls ≠ 0 → j.holdsQuads = true → coresIdle s j = true →
    exec (.stepAdmission handle) s = .next (issueStep handle.toNat (takeEpoch handle.toNat
      (modJob (handlePart handle.toNat) st.job (fun j => { j with holdsQuads := true, sliceLeft := if j.holdsQuads then j.sliceLeft else j.slice }) s)))) ∧
  (∀ (handle : W64) (s : State) (j : Job) (st : Step), Running s → stepJob s handle.toNat = some j → getStep s handle.toNat = some st →
    st.state = .running → st.suspended = false → j.cls = 0 → coresIdle s j = true → unissued s handle.toNat = true →
    exec (.classZeroStart handle) s = .next (devEvent 0x0007 (handlePart handle.toNat) 1 (issueStep handle.toNat s))) ∧
  (∀ (core : CoreId) (s : State), Running s → (coreOf s core.val).saving = true → (coreOf s core.val).sample = none →
    exec (.stateSave core) s = .next (landSave core.val s)) ∧
  (∀ (core : CoreId) (s : State) (v : Saved), Running s → restorable s core.val = some v →
    exec (.restore core) s = .next (landRestore core.val v s)) ∧
  (∀ (handle : W64) (s : State) (st : Step), Running s → getStep s handle.toNat = some st → st.state = .running → st.frogging = false →
    st.suspended = false → allFinished s handle.toNat = true → accessTrouble s (holdPages s handle.toNat st) = none → st.replayOf = none →
    exec (.stepHeld handle) s = .next (complete handle.toNat .held (condStatus st.conds) (st.conds.setWidth 64) st.epoch
      (releaseCores handle.toNat (releaseQuads handle.toNat (writeReplayRecord handle.toNat 1 (modStep handle.toNat (fun st => { st with state := .held })
        (modStep handle.toNat (fun st => { st with status := condStatus st.conds, result := st.conds.setWidth 64 })
          (leakLocks handle.toNat (fenceRecords handle.toNat s))))))))) ∧
  (∀ (handle : W64) (t : Nat × Nat) (s : State) (st : Step), Running s → getStep s handle.toNat = some st → st.state = .running → st.frogging = false →
    st.suspended = false → allFinished s handle.toNat = true → accessTrouble s (holdPages s handle.toNat st) = some t →
    exec (.stepHeld handle) s = .next (stopOnPage handle.toNat t s)) ∧
  (∀ (handle : W64) (s : State) (st : Step), Running s → getStep s handle.toNat = some st → st.state = .running → st.frogging = true →
    runningOn s handle.toNat = [] → exec (.frogComplete handle) s = .next (finishFrog handle.toNat (releaseQuads handle.toNat s)))

/-! ## Training: banks, the replay log, pelotons (chapters 05 and 12) -/

/-- BANK_CREATE, BANK_EXPORT, BANK_IMPORT and BANK_DESTROY (R189, R191, Table 7 of ch. 05): the bank takes its number
and, after the reply, both halves of its weights from the initial tensor and +0 moments; an export writes the current
half and completes with its T; an import fills both halves and sets T, P1 and P2 of the current half; a bank that no
step holds staged is removed, one that a step holds staged is refused. Descriptors in trouble end the handle with that
page's status. -/
def Obligations.BankCommands : Prop :=
  (∀ (fn : Fn) (hdr : Hdr) (o : BankOps) (p i : Nat) (x : Partition) (s : State), Heard s fn hdr → Acts s fn hdr p x → Room s fn →
    flagOk o.opt = true → flagOk o.work = true → o.wfmt.toNat < 32 → 0 < o.elements.toNat → o.elements.toNat ≤ 2 ^ 39 →
    o.header.toNat + 64 ≤ 2 ^ 43 → (∀ d ∈ o.init :: bankDescs o, UnifiedOk s p x d) → bankFormOk o = true → descReservedOk o.k0 = true → descReservedOk o.k1 = true → pagesOwned s p o.header.toNat 64 = true →
    ((pagesOf o.header.toNat 64).any fun g => readOnlyPage s g || controlPage s g) = false → (∀ d ∈ bankDescs o, readOnlyDesc s d = false) →
    tfree x.banks 64 = some i → exec (.bankCreate fn hdr o) s = accepted fn 0x0252 hdr (some p) 2 .none (w64 i) (fun h s =>
      match readTrouble s (descPages o.init) ((bankDescs o).flatMap descPages) with
      | some t => failAccess h t s
      | none => finish h 0 0 (putBank p i (bankOf o) (fillBank (bankOf o) (dFmt o.init) ((cmdTensor o.init).values s)
          (List.replicate ((cmdTensor o.init).values s).length Val.zero) (List.replicate ((cmdTensor o.init).values s).length Val.zero)
          (touchPages (descPages o.init ++ (bankDescs o).flatMap descPages) s)))) s) ∧
  (∀ (fn : Fn) (hdr : Hdr) (bank : W64) (w m v : DescWord) (p : Nat) (x : Partition) (b : Bank) (s : State), Heard s fn hdr → Acts s fn hdr p x →
    Room s fn → tget? x.banks bank.toNat = some b → (∀ d ∈ [w, m, v], UnifiedOk s p x d ∧ dCount d = b.elements ∧ readOnlyDesc s d = false) →
    exec (.bankExport fn hdr bank w m v) s = accepted fn 0x0253 hdr (some p) 2 .none 0 (fun h s =>
      let own := [half b.cur b.w, half b.cur b.m, half b.cur b.v].flatMap descPages
      match readTrouble s own ([w, m, v].flatMap descPages) with
      | some t => failAccess h t s
      | none =>
        let s := touchPages (own ++ [w, m, v].flatMap descPages) s
        finish h 0 (w64 (half b.cur b.t)) (putValues (cmdTensor v) 0x00 (({ d := half b.cur b.v } : Tensor).values s)
          (putValues (cmdTensor m) 0x00 (({ d := half b.cur b.m } : Tensor).values s)
            (putValues (cmdTensor w) 0x0C (({ d := half b.cur b.w } : Tensor).values s) s)))) s) ∧
  (∀ (fn : Fn) (hdr : Hdr) (bank : W64) (w m v : DescWord) (tt p1 p2 : W64) (p : Nat) (x : Partition) (b : Bank) (s : State), Heard s fn hdr →
    Acts s fn hdr p x → Room s fn → tget? x.banks bank.toNat = some b → tt.toNat < 2 ^ 32 → p1.toNat < 2 ^ 32 → p2.toNat < 2 ^ 32 →
    (∀ d ∈ [w, m, v], UnifiedOk s p x d ∧ dCount d = b.elements) → bankHeld x bank.toNat = false →
    exec (.bankImport fn hdr bank w m v tt p1 p2) s = accepted fn 0x0254 hdr (some p) 2 .none 0 (fun h s =>
      let own := [b.w, b.m, b.v].flatMap (fun q => [q.1, q.2]) ++ (if b.work then [b.k.1, b.k.2] else [])
      match readTrouble s ([w, m, v].flatMap descPages) (own.flatMap descPages) with
      | some e => failAccess h e s
      | none =>
        let s := touchPages (([w, m, v] ++ own).flatMap descPages) s
        finish h 0 0 (putBank p bank.toNat { b with t := setHalf b.cur tt.toNat b.t, p1 := setHalf b.cur (p1.setWidth 32) b.p1, p2 := setHalf b.cur (p2.setWidth 32) b.p2 }
          (fillBank b (dFmt w) ((cmdTensor w).values s) ((cmdTensor m).values s) ((cmdTensor v).values s) s))) s) ∧
  (∀ (fn : Fn) (hdr : Hdr) (bank : W64) (p : Nat) (x : Partition) (b : Bank) (s : State), Heard s fn hdr → Acts s fn hdr p x →
    tget? x.banks bank.toNat = some b → bankHeld x bank.toNat = false →
    exec (.bankDestroy fn hdr bank) s = answered fn 0x0255 hdr 0 [] (modPart p (fun x => { x with banks := tdel x.banks bank.toNat }) s)) ∧
  (∀ (fn : Fn) (hdr : Hdr) (bank : W64) (p : Nat) (x : Partition) (b : Bank) (s : State), Heard s fn hdr → Acts s fn hdr p x →
    tget? x.banks bank.toNat = some b → bankHeld x bank.toNat = true → exec (.bankDestroy fn hdr bank) s = refusedWith fn 0x0255 hdr 0x0205 s)

/-- REPLAY_LOG_SET and REPLAY (R214, R217, R218, R220): the log is set to an address and a size of 1 MiB to 4 GiB in
64-KiB units, 0 stops it, and RESULT gives the size before; a replay of a logged epoch whose inputs match is queued
under a replay handle; one without a record ends 0x0204, and so does one whose inputs differ. -/
def Obligations.ReplayCommands : Prop :=
  (∀ (fn : Fn) (hdr : Hdr) (addr size : W64) (p : Nat) (x : Partition) (s : State), Heard s fn hdr → Acts s fn hdr p x →
    2 ^ 20 ≤ size.toNat → size.toNat ≤ 2 ^ 32 → size.toNat % 65536 = 0 → addr.toNat + size.toNat ≤ 2 ^ 43 → pagesOwned s p addr.toNat size.toNat = true →
    ((pagesOf addr.toNat size.toNat).any fun g => readOnlyPage s g || controlPage s g) = false →
    exec (.replayLogSet fn hdr addr size) s = answered fn 0x0258 hdr (w64 ((x.log.map (·.size)).getD 0)) []
      (modPart p (fun x => { x with log := some { addr := addr.toNat, size := size.toNat } }) s)) ∧
  (∀ (fn : Fn) (hdr : Hdr) (addr : W64) (p : Nat) (x : Partition) (s : State), Heard s fn hdr → Acts s fn hdr p x → addr.toNat ≤ 2 ^ 43 →
    exec (.replayLogSet fn hdr addr 0) s = answered fn 0x0258 hdr (w64 ((x.log.map (·.size)).getD 0)) [] (modPart p (fun x => { x with log := none }) s)) ∧
  (∀ (fn : Fn) (hdr : Hdr) (epoch : W64) (subs : List (W32 × DescWord)) (outs : List DescWord) (report : DescWord) (p : Nat) (x : Partition) (s : State),
    Heard s fn hdr → Acts s fn hdr p x → Room s fn → (∀ d ∈ subs.map (·.2) ++ outs ++ [report], unifiedOk d = true ∧ descPermitted s p x x.mapbuf cmdCore d = true) →
    (∀ d ∈ report :: outs, readOnlyDesc s d = false) → loggedStep s x epoch.toNat = none →
    exec (.replay fn hdr epoch subs outs report) s = accepted fn 0x0259 hdr (some p) 6 .replay 0 (refuseReplay report []) s) ∧
  (∀ (fn : Fn) (hdr : Hdr) (epoch : W64) (subs : List (W32 × DescWord)) (outs : List DescWord) (report : DescWord) (p : Nat) (x : Partition)
    (l : Nat × Step × Nat) (pat : PatternImage) (r : List (Nat × Nat × Nat) × State) (s : State),
    Heard s fn hdr → Acts s fn hdr p x → Room r.2 fn → (∀ d ∈ subs.map (·.2) ++ outs ++ [report], unifiedOk d = true ∧ descPermitted s p x x.mapbuf cmdCore d = true) →
    (∀ d ∈ report :: outs, readOnlyDesc s d = false) → loggedStep s x epoch.toNat = some l → stepPattern s l.1 = some pat →
    (∀ d ∈ replayInputs s l.1 pat subs, d ∈ ((replayStep s l.2.1 pat l.2.2 subs outs report).replayOf.map (·.ins)).getD []) →
    reserveSpills p { pat := pat, table := (replayStep s l.2.1 pat l.2.2 subs outs report).table }
      (encodeCalls (replayStep s l.2.1 pat l.2.2 subs outs report).table) s = .ok r →
    exec (.replay fn hdr epoch subs outs report) s = accepted fn 0x0259 hdr (some p) 6 .replay 0 (fun h s => modHandle h (fun r => { r with state := .queued }) s)
      (modPart p (fun x => { x with steps := tset x.steps (nextHandle r.2 p 6) { replayStep s l.2.1 pat l.2.2 subs outs report with spills := r.1 } }) r.2))

/-- PELOTON_FORMED, PELOTON_DISBAND, PELOTON_POLICY and PELOTON_QUERY (R464, R502, R503): a peloton with first credits
on every channel that it bound is formed and its handle completes; one that no step calls and no lap holds is removed
with its parked gradients, whose number RESULT gives, and its channels are released; policy words in range take effect
at once, others are refused; the query answers its figures. PELOTON_FORM (R461 to R463): the descriptor's header,
members and shards are read from memory; a peloton that passes the checks is entered, its channels are bound on its
ports with their credits returned, and its handle of kind 3 is that of the command. -/
def Obligations.PelotonsFormAndEnd : Prop :=
  (∀ (part : PartId) (n : Nat) (q : Peloton) (s : State), Running s → getPel s part.val n = some q → q.formed = false →
    (∀ i ∈ pelPorts q.header q.members, ∀ v ∈ pelVcs q.header, (vcOf (portOf s i) v).first = true) →
    exec (.pelotonFormed part n) s = .next (finish q.handle 0 0 (modPel part.val n (fun q => { q with formed := true, handle := 0, lapWaited := 0 }) s))) ∧
  (∀ (fn : Fn) (hdr : Hdr) (peloton : W64) (p : Nat) (x : Partition) (q : Peloton) (s : State), Heard s fn hdr → Acts s fn hdr p x →
    tget? x.pelotons peloton.toNat = some q → pelotonBusy s x peloton.toNat = false → q.lap = none → q.frog = none → q.handle = 0 →
    exec (.pelotonDisband fn hdr peloton) s = answered fn 0x0301 hdr (w64 (x.parks.filter fun k => k.pel == peloton.toNat).length) []
      (releaseVcs p peloton.toNat q (modPart p (fun x => { x with
        pelotons := tdel x.pelotons peloton.toNat, parks := x.parks.filter fun k => k.pel != peloton.toNat }) s))) ∧
  (∀ (fn : Fn) (hdr : Hdr) (peloton : W64) (p : Nat) (x : Partition) (q : Peloton) (s : State), Heard s fn hdr → Acts s fn hdr p x →
    tget? x.pelotons peloton.toNat = some q → pelotonBusy s x peloton.toNat = true → exec (.pelotonDisband fn hdr peloton) s = refusedWith fn 0x0301 hdr 0x0205 s) ∧
  (∀ (fn : Fn) (hdr : Hdr) (peloton window peerLimit latePolicy thin headroom : W64) (p : Nat) (x : Partition) (q : Peloton) (s : State), Heard s fn hdr →
    Acts s fn hdr p x → tget? x.pelotons peloton.toNat = some q → 1 ≤ window.toNat → window.toNat ≤ 255 → 2 ≤ peerLimit.toNat → peerLimit.toNat ≤ 15 →
    latePolicy.toNat ≤ 1 → thin.toNat ≤ 63 → headroom.toNat ≤ 7 →
    exec (.pelotonPolicy fn hdr peloton window peerLimit latePolicy thin headroom) s = answered fn 0x0305 hdr (w64 x.epoch) []
      (modPel p peloton.toNat (fun q => { q with window := window.toNat, peerLimit := peerLimit.toNat, latePolicy := latePolicy.toNat, thin := thin.toNat, headroom := headroom.toNat }) s)) ∧
  (∀ (fn : Fn) (hdr : Hdr) (peloton window peerLimit latePolicy thin headroom : W64) (p : Nat) (x : Partition) (q : Peloton) (s : State), Heard s fn hdr →
    Acts s fn hdr p x → tget? x.pelotons peloton.toNat = some q → (window.toNat = 0 ∨ 255 < window.toNat ∨ peerLimit.toNat < 2 ∨ 15 < peerLimit.toNat ∨ 1 < latePolicy.toNat) →
    exec (.pelotonPolicy fn hdr peloton window peerLimit latePolicy thin headroom) s = refusedWith fn 0x0305 hdr 0x0201 s) ∧
  (∀ (fn : Fn) (hdr : Hdr) (peloton : W64) (p : Nat) (x : Partition) (q : Peloton) (s : State), Heard s fn hdr → Acts s fn hdr p x →
    tget? x.pelotons peloton.toNat = some q →
    exec (.pelotonQuery fn hdr peloton) s = answered fn 0x0306 hdr 0 (wordsData [q.layout, q.sync, maskOf (pelVcs q.header), fld q.header 391 382,
      (x.parks.filter fun k => k.pel == peloton.toNat).length, parkBytes (x.parks.filter fun k => k.pel == peloton.toNat), q.late, q.repass, q.stale, q.disagree]) s) ∧
  (∀ (fn : Fn) (hdr : Hdr) (desc : DescWord) (p : Nat) (x : Partition) (s : State) (h : BitVec 512) (members : List W64) (shards : List (BitVec 256)),
    Heard s fn hdr → Acts s fn hdr p x → UnifiedOk s p x desc →
    h = BitVec.ofNat 512 (s.readNat .unified (dAddr desc) 64) →
    members = (List.range (fld h 495 484 + 1)).map (fun r => w64 (s.readNat .unified (dAddr desc + 64 + 8 * r) 8)) →
    shards = (List.range (fld h 495 484 + 1)).map (fun r => BitVec.ofNat 256
      (s.readNat .unified ((dAddr desc + 64 + 8 * (fld h 495 484 + 1) + 31) / 32 * 32 + 32 * r) 32)) →
    pelotonFormOk (lgLinkId s.links.group) h members shards = true → tget? x.pelotons (fld h 511 496) = none →
    (∀ i ∈ pelPorts h members, (lgPortEn s.links.group).testBit i = true) → x.pelotons.length < 16 →
    (s.parts.map fun e => e.2.pelotons.length).foldl (· + ·) 0 < 64 → vcsTaken s p (fld h 511 496) (pelPorts h members) (pelVcs h) = false →
    portsFull s p (fld h 511 496) (fld h 391 382) (pelPorts h members) (pelVcs h) = false →
    (∀ t, t = bindVcs p (fld h 511 496) (fld h 391 382) (pelPorts h members) (pelVcs h) (modPart p (fun x => { x with
        pelotons := tset x.pelotons (fld h 511 496) { header := h, members := members, shards := shards, layout := fld h 471 456, desc16 := descDigest h members shards, window := fld h 455 448, peerLimit := fld h 447 444, latePolicy := fld h 441 440, thin := fld h 439 434, headroom := fld h 433 431, handle := nextHandle s p 3 } }) s) → Room t fn →
      exec (.pelotonForm fn hdr desc) s = accepted fn 0x0300 hdr (some p) 3 (.pelForm (fld h 511 496)) 0 (fun _ s => s) t))

/-- Laps of a peloton (R492, R495 to R497): PELOTON_SUBSTITUTE, PELOTON_FROG and PELOTON_RESHARD take the lap and send
their first token after the reply; a token of this member's own ends its lap with the handle, another's is carried out
and sent on; the second lap of a re-shard switches the layout; data of a re-shard land and the last ones end it; a lap
that outlasts PEER_LIMIT windows ends 0x0302. -/
def Obligations.PelotonLaps : Prop :=
  (∀ (fn : Fn) (hdr : Hdr) (peloton rank linkId port : W64) (p : Nat) (x : Partition) (q : Peloton) (s : State), Heard s fn hdr → Acts s fn hdr p x →
    tget? x.pelotons peloton.toNat = some q → rank.toNat < pelN q → rank.toNat ≠ pelRank q → linkId.toNat ≤ 0xFFFE → port.toNat < 16 → pelMode q = 1 →
    pelotonBusy s x peloton.toNat = false → q.lap = none → q.frog = none → q.handle = 0 → (lgPortEn s.links.group).testBit port.toNat = true →
    vcsTaken s p peloton.toNat [port.toNat] (pelVcs q.header) = false →
    portsFull s p peloton.toNat (fld q.header 391 382) [port.toNat] (pelVcs q.header) = false →
    (∀ q' t, q' = substituted q rank.toNat linkId.toNat port.toNat (nextHandle s p 3) →
      t = bindVcs p peloton.toNat (fld q.header 391 382) [port.toNat] (pelVcs q.header) (modPel p peloton.toNat (fun _ => q') s) → Room t fn →
      exec (.pelotonSubstitute fn hdr peloton rank linkId port) s = accepted fn 0x0304 hdr (some p) 3 (.pelLap peloton.toNat) 0
        (fun _ s => sendToken peloton.toNat 0x23 0 q'.layout q' { chunk := pelRank q' } [] s) t)) ∧
  (∀ (fn : Fn) (hdr : Hdr) (peloton epoch : W64) (p : Nat) (x : Partition) (q : Peloton) (s : State), Heard s fn hdr → Acts s fn hdr p x → Room s fn →
    tget? x.pelotons peloton.toNat = some q → epoch.toNat < 2 ^ 32 → isSubst q.lap = false → q.frog = none → q.handle = 0 →
    exec (.pelotonFrog fn hdr peloton epoch) s = accepted fn 0x0303 hdr (some p) 3 (.pelFrog peloton.toNat) 0 (fun _ s =>
      sendToken peloton.toNat 0x21 epoch.toNat q.layout q { attempt := frogAttempt x epoch.toNat, chunk := pelRank q }
        (addCount (frogEpoch p epoch.toNat (frogAttempt x epoch.toNat) s).1 (leBytes 32 0)) (frogEpoch p epoch.toNat (frogAttempt x epoch.toNat) s).2)
      (modPel p peloton.toNat (fun q => { q with frog := some epoch.toNat, frogHandle := nextHandle s p 3, frogWaited := 0 }) s)) ∧
  (∀ (fn : Fn) (hdr : Hdr) (peloton epoch : W64) (shards : DescWord) (pairs : List ReshardPair) (p : Nat) (x : Partition) (q : Peloton) (sh : List (BitVec 256)) (s : State), Heard s fn hdr → Acts s fn hdr p x → Room s fn →
    tget? x.pelotons peloton.toNat = some q → epoch.toNat = (q.layout + 1) % 65536 → q.lap = none → q.frog = none → q.handle = 0 → UnifiedOk s p x shards →
    pairs.length ≤ 64 → pairs.all (reshardPairOk q) = true → pairs.all (pairOwned s p x) = true →
    sh = (List.range (pelN q)).map (fun r => BitVec.ofNat 256 (s.readNat .unified (dAddr shards + 32 * r) 32)) → (∀ e ∈ sh, fld e 95 0 = 0) →
    exec (.pelotonReshard fn hdr peloton epoch shards pairs) s = accepted fn 0x0302 hdr (some p) 3 (.pelLap peloton.toNat) 0 (fun _ s => beginLap p peloton.toNat s)
      (modPel p peloton.toNat (fun q => { q with lap := some (.reshard epoch.toNat sh pairs 0 0), lapHandle := nextHandle s p 3, lapWaited := 0 }) s)) ∧
  (∀ (part : PartId) (n : Nat) (q : Peloton) (m : CollMsg) (s : State), Running s → getPel s part.val n = some q → heldOf q 0x23 = some m →
    (readHead m.header).chunk = pelRank q → (∃ hd ms l d, q.lap = some (.subst hd ms l d)) → exec (.substToken part n) s = .next (endLap part.val n 0 0 (dropMsg part.val n m s))) ∧
  (∀ (part : PartId) (n : Nat) (q : Peloton) (m : CollMsg) (s : State), Running s → getPel s part.val n = some q → heldOf q 0x23 = some m →
    (readHead m.header).chunk ≠ pelRank q →
    exec (.substToken part n) s = .next (sendToken n 0x23 0 q.layout q (readHead m.header) m.body (dropMsg part.val n m s))) ∧
  (∀ (part : PartId) (n : Nat) (q : Peloton) (m : CollMsg) (s : State), Running s → getPel s part.val n = some q → heldOf q 0x21 = some m →
    (readHead m.header).chunk = pelRank q → q.frog = some m.stepEpoch →
    exec (.groupFrog part n) s = .next (endFrog part.val n 0 (w64 (leNat (m.body.take 6))) (dropMsg part.val n m s))) ∧
  (∀ (part : PartId) (n : Nat) (q : Peloton) (m : CollMsg) (s : State), Running s → getPel s part.val n = some q → heldOf q 0x21 = some m →
    (readHead m.header).chunk ≠ pelRank q → exec (.groupFrog part n) s = .next (sendToken n 0x21 m.stepEpoch q.layout q (readHead m.header)
      (addCount (frogEpoch part.val m.stepEpoch (readHead m.header).attempt (dropMsg part.val n m s)).1 m.body)
      (frogEpoch part.val m.stepEpoch (readHead m.header).attempt (dropMsg part.val n m s)).2)) ∧
  (∀ (part : PartId) (n e got : Nat) (q : Peloton) (x : Partition) (m : CollMsg) (sh : List (BitVec 256)) (pairs : List ReshardPair) (s : State), Running s →
    getPel s part.val n = some q → getPart s part.val = some x → heldOf q 0x22 = some m → q.lap = some (.reshard e sh pairs 1 got) → (readHead m.header).count = 1 →
    pelRank q = 0 → exec (.reshardToken part n) s = .next (sendToken n 0x22 0 q.layout q { count := 2 } [] (switchLayout part.val n (dropMsg part.val n m s)))) ∧
  (∀ (p n e lap got : Nat) (q : Peloton) (sh : List (BitVec 256)) (pairs : List ReshardPair) (s : State), getPel s p n = some q →
    q.lap = some (.reshard e sh pairs lap got) → (getPel (switchLayout p n s) p n).map (fun q' => (q'.layout, q'.shards, q'.lap)) =
      some (e, sh, some (.reshard e sh pairs 2 got))) ∧
  (∀ (part : PartId) (n e lap got : Nat) (q : Peloton) (m : CollMsg) (sh : List (BitVec 256)) (pairs : List ReshardPair) (pr : ReshardPair) (s : State), Running s →
    getPel s part.val n = some q → heldOf q 0x17 = some m → q.lap = some (.reshard e sh pairs lap got) → pairs[(readHead m.header).call]? = some pr →
    exec (.reshardData part n) s = .next (checkReshard part.val n (modPel part.val n
      (fun q => { q with lap := some (.reshard e sh pairs lap (got + (readHead m.header).count)) })
      ((List.range (readHead m.header).count).foldl (fun s k => putElem s (cmdTensor pr.newShard) ((readHead m.header).first + k) ((m.body.drop (8 * k)).take 8))
        (dropMsg part.val n m s))))) ∧
  (∀ (part : PartId) (n : Nat) (q : Peloton) (s : State), Running s → getPel s part.val n = some q → q.peerLimit * q.window ≤ q.lapWaited → q.handle = 0 → q.frog = none →
    (∃ hd ms l d, q.lap = some (.subst hd ms l d)) → exec (.lapTimeout part n) s = .next (endLap part.val n 0x0302 0 s)) ∧
  (∀ (part : PartId) (n e : Nat) (q : Peloton) (s : State), Running s → getPel s part.val n = some q → q.peerLimit * q.window ≤ q.frogWaited → q.frog = some e →
    q.lapWaited < q.peerLimit * q.window → exec (.lapTimeout part n) s = .next (endFrog part.val n 0x0302 0 s)) ∧
  (∀ (part : PartId) (n : Nat) (q : Peloton) (s : State), Running s → getPel s part.val n = some q → q.lapWaited < q.peerLimit * q.window →
    (q.frog = none ∨ q.frogWaited < q.peerLimit * q.window) → exec (.lapTimeout part n) s = .next s)

/-! ## Codec sessions and the KV cache (chapters 08 and 10) -/

/-- Session commands (R380 to R382, R389, R390, R416, R417): a session that passes the checks takes the lowest free
number and a slot on each pair; closing ends it, with 0x0303 where a unit has begun to arrive; CODEC_FEED sets the
write count and RESULT tells the consumed one; CODEC_RELEASE gives posted entries and output bytes back;
CODEC_ENC_FRAME queues a picture while fewer than sixteen wait; CODEC_QUERY answers seven words, the last two of which
are the cropping window (its packing is the model's choice, log 43). Counts out of range are refused, and so is a session
of another partition. -/
def Obligations.CodecSessions : Prop :=
  (∀ (fn : Fn) (hdr : Hdr) (o : CodecOpenOps) (p n : Nat) (x : Partition) (s : State), Heard s fn hdr → Acts s fn hdr p x → openFormOk o = true →
    openUnused o = true → (∀ d ∈ openDescs o o.kind.toNat, unifiedOk d.1 = true ∧ d.2 = true) → openPermitted s p x o = true →
    (∀ i ∈ pairsNamed o.kind.toNat o.pairs, pairRoom (pairOf s i) o.entries.toNat = true) → freeSession s = some n →
    Room (enterSession p n (nextHandle s p 4) o s) fn →
    exec (.codecSessionOpen fn hdr o) s = accepted fn 0x0400 hdr (some p) 4 (.session n) (w64 n) (fun _ s => s) (enterSession p n (nextHandle s p 4) o s)) ∧
  (∀ (fn : Fn) (hdr : Hdr) (session : W64) (p : Nat) (x : Partition) (e : Session) (s : State), Heard s fn hdr → Acts s fn hdr p x →
    tget? x.sessions session.toNat = some e → actsOf s p x session.toNat = false →
    exec (.codecSessionClose fn hdr session) s = .next (closeSession p session.toNat
      (if e.kind < 2 ∧ recordPartial s e = true then 0x0303 else 0) (reply fn 0x0401 hdr 0 0 0 [] s))) ∧
  (∀ (fn : Fn) (hdr : Hdr) (session : W64) (p : Nat) (x : Partition) (e : Session) (s : State), Heard s fn hdr → Acts s fn hdr p x →
    tget? x.sessions session.toNat = some e → actsOf s p x session.toNat = true → exec (.codecSessionClose fn hdr session) s = refusedWith fn 0x0401 hdr 0x0205 s) ∧
  (∀ (fn : Fn) (hdr : Hdr) (session count : W64) (p : Nat) (x : Partition) (e : Session) (s : State), Heard s fn hdr → Acts s fn hdr p x →
    tget? x.sessions session.toNat = some e → e.kind < 2 → e.write ≤ count.toNat → count.toNat ≤ e.consumed + e.ringSize → e.starving = false →
    e.abandoned = false → (∀ i ∈ e.pairs, (pairOf s i).running ≠ some (p, session.toNat)) →
    ∃ t, exec (.codecFeed fn hdr session count) s = answered fn 0x0402 hdr (w64 e.consumed) [] (startWait p session.toNat t) ∧
      getSession t p session.toNat = some { e with write := count.toNat } ∧ t.pairs = s.pairs ∧ t.mem = s.mem ∧
      (∀ m : Nat, m ≠ session.toNat → getSession t p m = getSession s p m)) ∧
  (∀ (fn : Fn) (hdr : Hdr) (session count : W64) (p : Nat) (x : Partition) (e : Session) (s : State), Heard s fn hdr → Acts s fn hdr p x →
    tget? x.sessions session.toNat = some e → (2 ≤ e.kind ∨ count.toNat < e.write ∨ e.consumed + e.ringSize < count.toNat) →
    exec (.codecFeed fn hdr session count) s = refusedWith fn 0x0402 hdr 0x0201 s) ∧
  (∀ (fn : Fn) (hdr : Hdr) (session entries area : W64) (p : Nat) (x : Partition) (e : Session) (s : State), Heard s fn hdr → Acts s fn hdr p x →
    tget? x.sessions session.toNat = some e → entries.toNat ≤ e.posted.length → e.areaFree ≤ area.toNat → area.toNat ≤ e.areaWrite →
    exec (.codecRelease fn hdr session entries area) s = answered fn 0x0403 hdr 0 []
      (modSession p session.toNat (fun e => { e with posted := e.posted.drop entries.toNat, areaFree := area.toNat })
        (e.pairs.foldl (fun s i => (e.posted.take entries.toNat).foldl (fun s k => modEntryPool i k (fun q => { q with output := false }) s) s) s))) ∧
  (∀ (fn : Fn) (hdr : Hdr) (session buffer timestamp forceIrap : W64) (p : Nat) (x : Partition) (e : Session) (s : State), Heard s fn hdr → Acts s fn hdr p x →
    tget? x.sessions session.toNat = some e → e.kind = 2 → flagOk forceIrap = true → pagesOwned s p buffer.toNat (frameSize e) = true → e.frames.length < 16 →
    exec (.codecEncFrame fn hdr session buffer timestamp forceIrap) s = answered fn 0x0404 hdr (w64 (e.frames.length + 1)) []
      (startWait p session.toNat (modSession p session.toNat (fun e => { e with frames := e.frames ++ [(buffer.toNat, timestamp, forceIrap == 1)] }) s))) ∧
  (∀ (fn : Fn) (hdr : Hdr) (session buffer timestamp forceIrap : W64) (p : Nat) (x : Partition) (e : Session) (s : State), Heard s fn hdr → Acts s fn hdr p x →
    tget? x.sessions session.toNat = some e → e.kind = 2 → flagOk forceIrap = true → pagesOwned s p buffer.toNat (frameSize e) = true → 16 ≤ e.frames.length →
    exec (.codecEncFrame fn hdr session buffer timestamp forceIrap) s = refusedWith fn 0x0404 hdr 0x0206 s) ∧
  (∀ (fn : Fn) (hdr : Hdr) (session : W64) (p : Nat) (x : Partition) (e : Session) (s : State), Heard s fn hdr → Acts s fn hdr p x →
    tget? x.sessions session.toNat = some e → e.kind = 2 → exec (.codecQuery fn hdr session) s = answered fn 0x0405 hdr 0
      (wordsData [sessionCode s p session.toNat e, e.pictures, e.starves, e.bitErrors, e.blocked, 0, e.enc.width.toNat ||| e.enc.height.toNat <<< 32]) s) ∧
  (∀ (fn : Fn) (hdr : Hdr) (session : W64) (p : Nat) (x : Partition) (e : Session) (s : State), Heard s fn hdr → Acts s fn hdr p x →
    tget? x.sessions session.toNat = some e → e.kind ≠ 2 → ∃ w : Config.StreamShape, w = (if e.kind = 3 then {} else Config.streamShape e.kind e.stream) ∧
      exec (.codecQuery fn hdr session) s = answered fn 0x0405 hdr 0
        (wordsData [sessionCode s p session.toNat e, e.pictures, e.starves, e.bitErrors, e.blocked, w.cropX ||| w.cropY <<< 32, w.cropW ||| w.cropH <<< 32]) s) ∧
  (∀ (fn : Fn) (hdr : Hdr) (session : W64) (p o : Nat) (x y : Partition) (e : Session) (s : State), Heard s fn hdr → Acts s fn hdr p x →
    tget? x.sessions session.toNat = none → tget? s.parts o = some y → tget? y.sessions session.toNat = some e →
    exec (.codecQuery fn hdr session) s = refusedWith fn 0x0405 hdr 0x0205 s)

/-- Activation calls and the units of a pair (R381, R383, R385, R393, R408 to R413, Table 5 of ch. 10): an encode or
decode command becomes a call with its spill window and handle; a released window frees its bytes; a call whose last
segment has landed completes with its total; an idle pair takes its next ready session and a decoded unit ends there;
a padding record is only consumed and a bad one stops the session with a fault; a starved unit at its limit is
abandoned; the picture due next posts its entry. -/
def Obligations.ActivationCallsAndUnits : Prop :=
  (∀ (fn : Fn) (hdr : Hdr) (call : BitVec 512) (src dst ref bound : DescWord) (p : Nat) (x : Partition) (e : Session) (r : Nat × State) (s : State),
    Heard s fn hdr → Acts s fn hdr p x → tget? x.sessions (awSession call) = some e → e.kind = 3 → e.pairs ≠ [] → awDecode call = false →
    UnifiedOk s p x src → UnifiedOk s p x dst → UnifiedOk s p x ref → DescOk s p x bound → actWordOk call src dst ref bound (fun _ => false) = true →
    ((boundsOf s bound).all (· ≤ 15)) = true → readOnlyDesc s dst = false → readOnlyDesc s ref = false → takeSpill p (awSession call) (spillBytes e false call src) s = some r →
    Room (startWait p (awSession call) (modPart p (fun y => { y with calls := tset y.calls (nextAct x) (newCall e call src dst ref bound (spillBytes e false call src) r.1 (nextHandle s p 4)) }) r.2)) fn →
    exec (.actEncode fn hdr call src dst ref bound) s = accepted fn 0x0410 hdr (some p) 4 (.call (nextAct x)) 0 (fun _ s => s)
      (startWait p (awSession call) (modPart p (fun y => { y with calls := tset y.calls (nextAct x) (newCall e call src dst ref bound (spillBytes e false call src) r.1 (nextHandle s p 4)) }) r.2))) ∧
  (∀ (fn : Fn) (hdr : Hdr) (call : BitVec 512) (src dst ref bound : DescWord) (p : Nat) (x : Partition) (e : Session) (s : State),
    Heard s fn hdr → Acts s fn hdr p x → tget? x.sessions (awSession call) = some e → getSession s p (awSession call) = some e → e.kind = 3 → e.pairs ≠ [] → awDecode call = true →
    UnifiedOk s p x src → UnifiedOk s p x dst → UnifiedOk s p x ref → descReservedOk bound = true → actWordOk call src dst ref bound (fun _ => false) = true →
    readOnlyDesc s dst = false → readOnlyDesc s ref = false →
    Room (startWait p (awSession call) (modPart p (fun y => { y with calls := tset y.calls (nextAct x) (newCall e call src dst ref bound 0 0 (nextHandle s p 4)) }) s)) fn →
    exec (.actDecode fn hdr call src dst ref bound) s = accepted fn 0x0411 hdr (some p) 4 (.call (nextAct x)) 0 (fun _ s => s)
      (startWait p (awSession call) (modPart p (fun y => { y with calls := tset y.calls (nextAct x) (newCall e call src dst ref bound 0 0 (nextHandle s p 4)) }) s))) ∧
  (∀ (fn : Fn) (hdr : Hdr) (session spill : W64) (p : Nat) (x : Partition) (e : Session) (w : Nat × Nat) (s : State), Heard s fn hdr → Acts s fn hdr p x →
    tget? x.sessions session.toNat = some e → (e.spills.find? fun w => e.spillBase + w.1 == spill.toNat && !spillHeld x session.toNat w.1) = some w →
    exec (.actRelease fn hdr session spill) s = answered fn 0x0412 hdr (w64 w.2) [] (modSession p session.toNat (fun e => { e with spills := e.spills.filter (· != w) }) s)) ∧
  (∀ (part : PartId) (call : Nat) (a : ActCall) (e : Session) (s : State), Running s → ((getPart s part.val).bind fun x => tget? x.calls call) = some a →
    getSession s part.val a.session = some e → actLive s a = true → actDone s a e.pairs.length = true → awDecode a.word = true → a.step = none →
    exec (.activationCallComplete part call) s = .next (finish a.handle 0 (w64 a.total) (dropAct part.val call s))) ∧
  (∀ (pair : PairId) (s : State), Running s → (pairOf s pair.val).running = none → exec (.unitBoundary pair) s = .next (takeNext pair.val (purgeCalls s))) ∧
  (∀ (pair : PairId) (p n : Nat) (e : Session) (u : W64 × List Byte × Bool) (s : State), Running s → (pairOf s pair.val).running = some (p, n) →
    getSession s p n = some e → e.kind < 2 → e.parsed = some u →
    exec (.unitBoundary pair) s = .next (takeNext pair.val (purgeCalls (finishDecode pair.val p n e u.1 u.2.1 u.2.2 s)))) ∧
  (∀ (part : PartId) (n i : Nat) (rest : List Nat) (e : Session) (h : BitVec 256) (s : State), Running s → getSession s part.val n = some e → e.pairs = i :: rest →
    recordHead s e = some h → e.kind < 2 → (pairOf s i).running = some (part.val, n) → e.parsed = none → recordReady s e = true →
    (recordBad e h = true → exec (.unitRecord part n) s = .next (inputFormat i part.val n e s)) ∧
    (recordBad e h = false → recType h = 2 → exec (.unitRecord part n) s = .next (skipPadding part.val n (recLength h) s))) ∧
  (∀ (part : PartId) (n i : Nat) (rest : List Nat) (e : Session) (s : State), Running s → getSession s part.val n = some e → e.pairs = i :: rest → e.starving = true →
    (pairOf s i).running = some (part.val, n) → e.starve ≤ e.starveTicks →
    exec (.starveLimit part n) s = .next (takeNext i (abandonUnit i part.val n s))) ∧
  (∀ (part : PartId) (n entry i : Nat) (prs : List Nat) (c : Picture) (rest : List Picture) (e : Session) (s : State), Running s → getSession s part.val n = some e → e.due = c :: rest →
    e.pairs = i :: prs → c.pool = entry → e.posted.length < e.outEntries → e.kind = 2 →
    exec (.pictureOutput part n entry) s = .next (modSession part.val n (fun e' => { e' with due := rest, outIndex := (e.outIndex + 1) % max 1 e.outEntries, outPhase := if (e.outIndex + 1) % max 1 e.outEntries = 0 then !e'.outPhase else e'.outPhase, outSeq := (e'.outSeq + 1) % 65536, posted := e'.posted ++ [64] })
      (s.write .unified (e.outBase + 32 * e.outIndex) (outputEntry e c c.addr))))

/-- Spaces and sequences (R315, R316, R318, R324, R325, Table 11 of ch. 08): a space clears its control object and
takes the lowest number; it goes only without sequences and held pages; opening takes a free sequence with an empty
table; a fork shares the parent's pages and each gains a reference; a truncation and a close drop the references of
the pages that go; the query answers six words. A sequence that does not exist is refused 0x0201, one that a step
holds 0x0205. -/
def Obligations.KvSpacesAndSequences : Prop :=
  (∀ (fn : Fn) (hdr : Hdr) (o : KvSpaceOps) (p n : Nat) (x : Partition) (s : State), Heard s fn hdr → Acts s fn hdr p x → Room s fn → spaceFormOk o = true →
    UnifiedOk s p x o.control → controlOk s o = true → readOnlyDesc s o.control = false →
    (∀ r ∈ o.regions, UnifiedOk s p x r.desc ∧ regionOk s (kvPageBytes (spaceOf o)) r = true ∧ readOnlyDesc s r.desc = false) → tfree x.spaces 16 = some n →
    exec (.kvSpaceCreate fn hdr o) s = accepted fn 0x0500 hdr (some p) 5 .kv (w64 n) (fun h s => finish h 0 0 s)
      (modPart p (fun x => { x with spaces := tset x.spaces n (spaceOf o) }) (s.clear .unified (spaceOf o).control (controlBytes (spaceOf o))))) ∧
  (∀ (fn : Fn) (hdr : Hdr) (space : W64) (p : Nat) (x : Partition) (k : KvSpace) (s : State), Heard s fn hdr → ActsOn s fn hdr p x space k →
    k.seqs = [] → pagesHeld k = false → exec (.kvSpaceDestroy fn hdr space) s = answered fn 0x0501 hdr 0 [] (dropSpace p space.toNat s)) ∧
  (∀ (fn : Fn) (hdr : Hdr) (space : W64) (p : Nat) (x : Partition) (k : KvSpace) (s : State), Heard s fn hdr → ActsOn s fn hdr p x space k →
    (k.seqs ≠ [] ∨ pagesHeld k = true) → exec (.kvSpaceDestroy fn hdr space) s = refusedWith fn 0x0501 hdr 0x0205 s) ∧
  (∀ (fn : Fn) (hdr : Hdr) (space : W64) (p i : Nat) (x : Partition) (k : KvSpace) (s : State), Heard s fn hdr → ActsOn s fn hdr p x space k →
    tfree k.seqs k.maxSeq = some i → exec (.kvSeqOpen fn hdr space) s = answered fn 0x0502 hdr (w64 i) []
      (putSeq p space.toNat i { runHash := runStart k.salt, tailHash := k.salt } s)) ∧
  (∀ (fn : Fn) (hdr : Hdr) (space parent length : W64) (p i : Nat) (x : Partition) (k : KvSpace) (q : KvSeq) (s : State), Heard s fn hdr →
    ActsOn s fn hdr p x space k → tget? k.seqs parent.toNat = some q → length.toNat ≤ q.length → tfree k.seqs k.maxSeq = some i →
    (∀ id ∈ q.table.take (blocksOf length.toNat), (kvPage k id).refs < 65535) →
    exec (.kvSeqFork fn hdr space parent length) s = answered fn 0x0503 hdr (w64 i) [] (putSeq p space.toNat i
      { runHash := (hashAfter k.salt (q.tags.take length.toNat)).1, tailHash := (hashAfter k.salt (q.tags.take length.toNat)).2, table := q.table.take (blocksOf length.toNat), length := length.toNat, parent := parent.toNat, tags := q.tags.take length.toNat }
      (addRefs p space.toNat (q.table.take (blocksOf length.toNat)) s))) ∧
  (∀ (fn : Fn) (hdr : Hdr) (space seq length : W64) (p : Nat) (x : Partition) (k : KvSpace) (q : KvSeq) (s : State), Heard s fn hdr →
    ActsOn s fn hdr p x space k → tget? k.seqs seq.toNat = some q → q.state = 1 → length.toNat ≤ q.length →
    exec (.kvSeqTruncate fn hdr space seq length) s = answered fn 0x0504 hdr (w64 (q.table.drop (blocksOf length.toNat)).length) []
      (dropRefs p space.toNat (q.table.drop (blocksOf length.toNat)) (putSeq p space.toNat seq.toNat { q with table := q.table.take (blocksOf length.toNat), length := length.toNat, tags := q.tags.take length.toNat, runHash := (hashAfter k.salt (q.tags.take length.toNat)).1, tailHash := (hashAfter k.salt (q.tags.take length.toNat)).2 } s))) ∧
  (∀ (fn : Fn) (hdr : Hdr) (space seq : W64) (p : Nat) (x : Partition) (k : KvSpace) (q : KvSeq) (s : State), Heard s fn hdr →
    ActsOn s fn hdr p x space k → tget? k.seqs seq.toNat = some q → q.state = 1 →
    exec (.kvSeqClose fn hdr space seq) s = answered fn 0x0505 hdr 0 [] (dropRefs p space.toNat q.table
      (showControl p space.toNat [seq.toNat] [] (modSpace p space.toNat (fun k => { k with seqs := tdel k.seqs seq.toNat }) s)))) ∧
  (∀ (fn : Fn) (hdr : Hdr) (space seq : W64) (p : Nat) (x : Partition) (k : KvSpace) (q : KvSeq) (s : State), Heard s fn hdr →
    ActsOn s fn hdr p x space k → tget? k.seqs seq.toNat = some q →
    exec (.kvSeqQuery fn hdr space seq) s = answered fn 0x0508 hdr 0 (wordsData [q.length, q.table.length, (q.table.filter fun id => idTier id == 1).length,
      (q.table.filter fun id => idTier id == 2).length, (q.table.filter fun id => idTier id == 3).length, (q.table.filter fun id => (kvPage k id).state == 3).length]) s) ∧
  (∀ (fn : Fn) (hdr : Hdr) (space seq length : W64) (p : Nat) (x : Partition) (k : KvSpace) (s : State), Heard s fn hdr → ActsOn s fn hdr p x space k →
    (tget? k.seqs seq.toNat = none → exec (.kvSeqClose fn hdr space seq) s = refusedWith fn 0x0505 hdr 0x0201 s ∧
      exec (.kvSeqTruncate fn hdr space seq length) s = refusedWith fn 0x0504 hdr 0x0201 s) ∧
    (∀ q, tget? k.seqs seq.toNat = some q → q.state ≠ 1 → exec (.kvSeqClose fn hdr space seq) s = refusedWith fn 0x0505 hdr 0x0205 s ∧
      exec (.kvSeqTruncate fn hdr space seq length) s = refusedWith fn 0x0504 hdr 0x0205 s))

/-- KV_ATTACH, KV_APPEND, PREFIX_READ and PREFIX_FLUSH (R319, R321, R326 to R330, R334): an empty open sequence takes
the committed blocks that its tags match; an append reserves its pages and, after the reply, writes its tokens and is
published, or is refused 0x0203 where the permitted regions cannot supply it; table entries are copied to the
destination; idle entries of the space are evicted and RESULT counts them. -/
def Obligations.KvAttachAppendPrefix : Prop :=
  (∀ (fn : Fn) (hdr : Hdr) (space seq : W64) (tags : DescWord) (blocks : W64) (p : Nat) (x : Partition) (k : KvSpace) (q : KvSeq) (s : State), Heard s fn hdr →
    ActsOn s fn hdr p x space k → Room s fn → tget? k.seqs seq.toNat = some q → q.state = 1 → q.length = 0 → blocks.toNat ≤ k.maxPages → DescOk s p x tags →
    dFmt tags = 0x0E → 512 * blocks.toNat ≤ dCount tags →
    exec (.kvAttach fn hdr space seq tags blocks) s = accepted fn 0x0506 hdr (some p) 5 .kv 0 (attachPages p space.toNat seq.toNat k q tags blocks.toNat) s) ∧
  (∀ (fn : Fn) (hdr : Hdr) (space seq : W64) (tags : DescWord) (blocks : W64) (p : Nat) (x : Partition) (k : KvSpace) (q : KvSeq) (s : State), Heard s fn hdr →
    ActsOn s fn hdr p x space k → tget? k.seqs seq.toNat = some q → q.state = 1 → q.length ≠ 0 →
    exec (.kvAttach fn hdr space seq tags blocks) s = refusedWith fn 0x0506 hdr 0x0205 s) ∧
  (∀ (s : State) (p sp : Nat) (salt : W64) (tags : List W64) (n b : Nat) (up : Option Nat) (j : Nat) (e : Nat × PrefixEntry),
    (attachWalk s p sp salt tags n b up)[j]? = some e → e.2.committed = true ∧ e.2.hash = blockHash salt tags (b + j) ∧ e.2.part = p ∧ e.2.space = sp) ∧
  (∀ (fn : Fn) (hdr : Hdr) (space seq n : W64) (kd vd tags : DescWord) (permit : W64) (p : Nat) (x : Partition) (k : KvSpace) (q : KvSeq) (r : SeqStage × State) (s : State),
    Heard s fn hdr → ActsOn s fn hdr p x space k → tget? k.seqs seq.toNat = some q → q.state = 1 → 0 < n.toNat → permit.toNat < 8 →
    blocksOf (q.length + n.toNat) ≤ k.maxPages → DescOk s p x kd → DescOk s p x vd → DescOk s p x tags → rowsOk k kd vd tags n.toNat = true →
    reserveSeq p space.toNat seq.toNat n.toNat (permit.setWidth 3) s = some r → Room r.2 fn →
    exec (.kvAppend fn hdr space seq n kd vd tags permit) s = accepted fn 0x0507 hdr (some p) 5 .kv 0 (appendTokens p space.toNat k q kd vd tags n.toNat r.1) r.2) ∧
  (∀ (fn : Fn) (hdr : Hdr) (space seq n : W64) (kd vd tags : DescWord) (permit : W64) (p : Nat) (x : Partition) (k : KvSpace) (q : KvSeq) (s : State),
    Heard s fn hdr → ActsOn s fn hdr p x space k → tget? k.seqs seq.toNat = some q → q.state = 1 → 0 < n.toNat → permit.toNat < 8 →
    blocksOf (q.length + n.toNat) ≤ k.maxPages → DescOk s p x kd → DescOk s p x vd → DescOk s p x tags → rowsOk k kd vd tags n.toNat = true →
    reserveSeq p space.toNat seq.toNat n.toNat (permit.setWidth 3) s = none →
    exec (.kvAppend fn hdr space seq n kd vd tags permit) s = refusedWith fn 0x0507 hdr 0x0203 s) ∧
  (∀ (fn : Fn) (hdr : Hdr) (space : W64) (dst : DescWord) (first : W64) (p : Nat) (x : Partition) (k : KvSpace) (s : State), Heard s fn hdr →
    ActsOn s fn hdr p x space k → Room s fn → first.toNat < 2 ^ 20 → RecordsOk s p x dst 16 →
    exec (.prefixRead fn hdr space dst first) s = accepted fn 0x0509 hdr (some p) 5 .kv 0 (fun h s =>
      match accessTrouble s (descPages dst) with
      | some t => finish h t.1 (w64 t.2) s
      | none =>
        let r := writeRecords dst 16 ((List.range (min (2 ^ 20 - first.toNat) (dCapacity dst / 16))).map fun i => leBytes 16 (seenPrefix s p space.toNat (first.toNat + i))) s
        finish h 0 (w64 r.1) r.2) s) ∧
  (∀ (fn : Fn) (hdr : Hdr) (space : W64) (p : Nat) (x : Partition) (k : KvSpace) (s : State), Heard s fn hdr → ActsOn s fn hdr p x space k →
    exec (.prefixFlush fn hdr space) s = answered fn 0x050A hdr (w64 (flushSpace p space.toNat s.prefixes.length s).1) []
      (flushSpace p space.toNat s.prefixes.length s).2)

/-! ## The sequencer (chapters 04, 06, 07, 08, 09 and 13) -/

/-- Semaphores, locks, fences and merges (R187, R248 to R252, R525 to R527): SIGNAL adds one and serves waiters, at
65,535 it only counts an event; WAIT takes one or waits; ACQUIRE takes a free lock or waits behind its holder; RELEASE
frees the lock of its holder; CS_OVERRUN ends a loan; a branching fence waits for the stitches that write its
registers, then jumps or passes; a merge writes every participant's register once all have come; an amax fence without
a merge is passed by each lane that stands there. -/
def Obligations.SemaphoresLocksAndFences : Prop :=
  (∀ (core : CoreId) (lane : LaneId) (h n m : Nat) (e : Entry) (s : State), Running s → Standing s core.val lane.val h n e → e.op = .signal m →
    exec (.signal core lane) s = .next (passEntry core.val lane.val (signalSem (handlePart h) m s))) ∧
  (∀ (p m : Nat) (x : Partition) (s : State), getPart s p = some x → (semOf s p m).waiters = [] →
    ((semOf s p m).value < 65535 → semOf (signalSem p m s) p m = { value := (semOf s p m).value + 1 }) ∧
    ((semOf s p m).value = 65535 → signalSem p m s = devEvent 0x2024 p 1 s)) ∧
  (∀ (core : CoreId) (lane : LaneId) (h n m : Nat) (e : Entry) (s : State), Running s → Standing s core.val lane.val h n e → e.op = .wait m →
    (semOf s (handlePart h) m).waiters = [] →
    (0 < (semOf s (handlePart h) m).value → exec (.wait core lane) s = .next (passEntry core.val lane.val
      (setSem (handlePart h) m { value := (semOf s (handlePart h) m).value - 1 } s))) ∧
    ((semOf s (handlePart h) m).value = 0 → exec (.wait core lane) s = .next (modLane core.val lane.val (fun a => { a with waitOn := some (.sem m) })
      (setSem (handlePart h) m { value := 0, waiters := [(core.val, lane.val)] } s)))) ∧
  (∀ (core : CoreId) (lane : LaneId) (h n m b : Nat) (e : Entry) (x : Partition) (s : State), Running s → Standing s core.val lane.val h n e → e.op = .acquire m b →
    getPart s (handlePart h) = some x → (lockOf x m).holder = none → exec (.acquire core lane) s = .next (passEntry core.val lane.val
      (modPart (handlePart h) (fun x => { x with locks := tset x.locks m { holder := some h, bound := b } }) s))) ∧
  (∀ (core : CoreId) (lane : LaneId) (h n m b k : Nat) (e : Entry) (x : Partition) (s : State), Running s → Standing s core.val lane.val h n e → e.op = .acquire m b →
    getPart s (handlePart h) = some x → (lockOf x m).holder = some k → (h, core.val, lane.val) ∉ (lockOf x m).waiters →
    exec (.acquire core lane) s = .next (lockCycle (handlePart h) h (lendClass (handlePart h) h
      (stepClass (modLane core.val lane.val (fun a => { a with waitOn := some (.lock m) })
        (modPart (handlePart h) (fun y => { y with locks := tset y.locks m { lockOf x m with waiters := (lockOf x m).waiters ++ [(h, core.val, lane.val)] } }) s)) h) 64 m
      (modLane core.val lane.val (fun a => { a with waitOn := some (.lock m) })
        (modPart (handlePart h) (fun y => { y with locks := tset y.locks m { lockOf x m with waiters := (lockOf x m).waiters ++ [(h, core.val, lane.val)] } }) s))))) ∧
  (∀ (core : CoreId) (lane : LaneId) (h n m : Nat) (e : Entry) (x : Partition) (st : Step) (s : State), Running s → Standing s core.val lane.val h n e → e.op = .release m →
    getPart s (handlePart h) = some x → getStep s h = some st →
    ((lockOf x m).holder = some h → exec (.release core lane) s = .next (passEntry core.val lane.val
      (freeLock (handlePart h) m (modJob (handlePart h) st.job (fun j => { j with lent := none }) s)))) ∧
    ((lockOf x m).holder ≠ some h → exec (.release core lane) s = .next (passEntry core.val lane.val s))) ∧
  (∀ (part : PartId) (n h : Nat) (x : Partition) (st : Step) (s : State), Running s → getPart s part.val = some x → (lockOf x n).holder = some h → (lockOf x n).loan = true →
    getStep s h = some st → (lockOf x n).waiters = [] → exec (.csOverrun part n) s = .next (recEvent 0x2027 part.val (some part.val) 31 0xFFFF h [(8, st.job), (8, 0)]
      (stopStep .schedule h (modJob part.val st.job (fun j => { j with lent := none, holdsQuads := false })
        (modPart part.val (fun y => { y with locks := tset y.locks n { lockOf x n with loan := false } }) s))))) ∧
  (∀ (core : CoreId) (lane : LaneId) (h n : Nat) (cond : W64) (e : Entry) (s : State), Running s → Standing s core.val lane.val h n e → e.op = .fence cond →
    (fenceWaits s h core.val (condRegs cond) = true → exec (.branchingFence core lane) s = .next s) ∧
    (fenceWaits s h core.val (condRegs cond) = false → fenceHolds cond (sreg s core.val (condA cond)) (sreg s core.val (condB cond)) = true →
      exec (.branchingFence core lane) s = .next (jumpEntry core.val lane.val (fld cond 15 0) s)) ∧
    (fenceWaits s h core.val (condRegs cond) = false → fenceHolds cond (sreg s core.val (condA cond)) (sreg s core.val (condB cond)) = false →
      exec (.branchingFence core lane) s = .next (passEntry core.val lane.val s))) ∧
  (∀ (handle : W64) (m : Nat) (st : Step) (pat : PatternImage) (d : MergeDecl) (ins : List (Nat × Nat × Nat × W64)) (s : State), Running s →
    getStep s handle.toNat = some st → stepPattern s handle.toNat = some pat → (pat.merges.find? fun d => d.num == m) = some d → st.state = .running → st.frogging = false →
    ((List.range 192).filter d.slots.contains) ≠ [] →
    (∀ i ∈ (List.range 192).filter d.slots.contains, (st.merges.find? fun e => e.1 == m && e.2.1 == i).isSome = true) →
    ins = ((List.range 192).filter d.slots.contains).filterMap (fun i => st.merges.find? fun e => e.1 == m && e.2.1 == i) →
    exec (.stewardMerge handle m) s = .next (modStep handle.toNat (fun st => { st with merges := st.merges.filter fun e => !ins.contains e })
      (coreEvent ((stepCores s handle.toNat).getD (((List.range 192).filter d.slots.contains).headD 0) 0) 0x200E
        (b2n (d.kind == .csum && !fFinite ((mergeValues d.kind (ins.map (·.2.2.2))).setWidth 32) && ins.all fun e => fFinite (e.2.2.2.setWidth 32)))
        (ins.foldl (fun s' e => putSummary handle.toNat ((stepCores s handle.toNat).getD e.2.1 0) e.2.2.1 (mergeValues d.kind (ins.map (·.2.2.2))) s') s)))) ∧
  (∀ (handle : W64) (m : Nat) (pat : PatternImage) (s : State), Running s → amaxStanding s handle.toNat none = [] → stepPattern s handle.toNat = some pat →
    (pat.merges.find? fun d => d.num == m) = none → exec (.amaxFence handle m) s = .next s) ∧
  (∀ (handle : W64) (m c l b : Nat) (ls : List (Nat × Nat × Nat)) (pat : PatternImage) (d : MergeDecl) (t : Tensor) (s : State), Running s →
    amaxStanding s handle.toNat none = [] → stepPattern s handle.toNat = some pat → (pat.merges.find? fun d => d.num == m) = some d → d.slots ≠ [] →
    amaxStanding s handle.toNat (some m) = (c, l, b) :: ls → (∀ i ∈ d.slots, ∃ q ∈ (c, l, b) :: ls, q.1 = (stepCores s handle.toNat).getD i 208) →
    stepTensor s handle.toNat b = some t →
    (dFmt t.d ≠ 0x0A ∨ mayWrite s handle.toNat t.d = false → exec (.amaxFence handle m) s = .next (passAmax ((c, l, b) :: ls) s)) ∧
    (dFmt t.d = 0x0A → mayWrite s handle.toNat t.d = true → exec (.amaxFence handle m) s = .next (passAmax ((c, l, b) :: ls) (s.write t.scaleSpace (dScaleAddr t.d)
      (leBytes 4 (f4sTensorScale (maxMag (((c, l, b) :: ls).map fun q => f32 (coreOf s q.1).amax))).toNat ++ List.replicate 28 0)))))

/-- Stitches, transfers, halos and appends (R157, R166, R172, R178, R251, R275, R280, R281, R322, R354, R360, R361): a
started array, vector or window stitch takes effect whole and its lane goes on, a walk runs its phases; a finished
sample counts once; a weight swap counts its waiting cycles; a transfer moves its tensor, signals its semaphore and
leaves the mover; a late prefetch counts; a halo put writes its rows and header and signals, a halo fence takes one
count and passes if the layer matches; the stem engine takes the head of its queue; an append writes the rows of its
layer. -/
def Obligations.StitchesTransfersAndAppends : Prop :=
  (∀ (core : CoreId) (lane : LaneId) (h n : Nat) (e : Entry) (st : Step) (s : State), Running s → (coreOf s core.val).step = some h →
    laneEntry s core.val lane.val = some (n, e) → (coreOf s core.val).saving = false → (coreOf s core.val).restoring = false → getStep s h = some st →
    st.state = .running → (laneOf s core.val lane.val).started = true → sentinelHolds s h core.val e = false → prefetchHolds s h core.val n e = false →
    (∀ a, e.op = .array a → (coreOf s core.val).fenced = false → (coreOf s core.val).weights = some n →
      exec (.stitchCommit core lane) s = .next (endStitch core.val lane.val n (commitArray h core.val lane.val n e a s))) ∧
    (∀ a, e.op = .array a → ((coreOf s core.val).fenced = true ∨ (coreOf s core.val).weights ≠ some n) → exec (.stitchCommit core lane) s = .next s) ∧
    (∀ w, e.op = .window w → exec (.stitchCommit core lane) s = .next (endStitch core.val lane.val n (commitWindow h core.val lane.val w s))) ∧
    (∀ b, e.op = .walk b → exec (.stitchCommit core lane) s = .next (walkCommit h core.val lane.val n b s)) ∧
    (∀ is, e.op = .vector is → accessWaits s (vectorPages s h is) = false → accessTrouble s (vectorPages s h is) = none →
      exec (.stitchCommit core lane) s = .next (endStitch core.val lane.val n (commitVector h core.val lane.val n e is (touchPages (vectorPages s h is) s)))) ∧
    (∀ is t, e.op = .vector is → accessWaits s (vectorPages s h is) = false → accessTrouble s (vectorPages s h is) = some t →
      exec (.stitchCommit core lane) s = .next (stopOnPage h t s))) ∧
  (∀ (core : CoreId) (lane : LaneId) (waited h n : Nat) (e : Entry) (a : ArrayStitch) (s : State), Running s → (coreOf s core.val).step = some h →
    laneEntry s core.val lane.val = some (n, e) → e.op = .array a → (laneOf s core.val lane.val).started = true →
    ∃ u t, u = fenceStall core.val 0x2005 waited (prefetchesMet s h core.val n (weightSpans s h a)) s ∧ exec (.weightReadyFence core lane waited) s = .next t ∧
      (prefetchMeets u h core.val n (weightSpans u h a) = true → t = modCore core.val (fun x => { x with fenced := true }) u) ∧
      (prefetchMeets u h core.val n (weightSpans u h a) = false →
        t = loadWeights h core.val n a u ∧ (coreOf t core.val).weights = some n ∧ (coreOf t core.val).fenced = false)) ∧
  (∀ (core : CoreId) (m : Sample) (s : State), Running s → (coreOf s core.val).sample = some m →
    ∃ t, exec (.sentinelRecompute core) s = .next t ∧ (coreOf t core.val).sample = none ∧ (coreOf t core.val).step = (coreOf s core.val).step ∧
      (coreOf t core.val).lanes = (coreOf s core.val).lanes ∧ t.mem = s.mem ∧ t.parts = s.parts) ∧
  (∀ (core : CoreId) (n h a b : Nat) (cvt : BitVec 5) (sem : Option Nat) (pf : Option Prefetch) (e : Entry) (src dst : Tensor) (s : State), Running s →
    (coreOf s core.val).step = some h → (coreList s core.val)[n]? = some e → n ∈ (coreOf s core.val).movers → e.op = .mover a b cvt sem pf →
    stepTensor s h a = some src → stepTensor s h b = some dst → accessWaits s (descPages src.d ++ descPages dst.d) = false →
    earlierMover s h core.val n dst = false →
    (∀ t, accessTrouble s (descPages src.d ++ descPages dst.d) = some t → exec (.coreMoverTransfer core n) s = .next (stopOnPage h t s)) ∧
    (∀ u t, accessTrouble s (descPages src.d ++ descPages dst.d) = none → u = (if mayWrite s h dst.d then moveTensor h core.val src dst cvt.toNat s else s) →
      t = modCore core.val (fun x => { x with movers := x.movers.erase n })
        (mapWait u h core.val e (noteFate core.val e.fate src.d dst.d (touchPages (descPages src.d ++ descPages dst.d) u))) →
      (sem = none → exec (.coreMoverTransfer core n) s = .next (wakeMoverLanes core.val t)) ∧
      (∀ m, sem = some m → exec (.coreMoverTransfer core n) s = .next (wakeMoverLanes core.val (signalSem (handlePart h) m t))))) ∧
  (∀ (core : CoreId) (layer waited : Nat) (s : State), Running s → (coreOf s core.val).step = none → exec (.prefetchDeadline core layer waited) s = .next s) ∧
  (∀ (core : CoreId) (layer waited h n a b need slack : Nat) (rest : List Nat) (cvt : BitVec 5) (sem : Option Nat) (e : Entry) (s : State), Running s →
    (coreOf s core.val).step = some h → (coreOf s core.val).movers = n :: rest → (coreList s core.val)[n]? = some e →
    e.op = .mover a b cvt sem (some { layer := layer, need := need, slack := slack }) → waited ≤ slack →
    exec (.prefetchDeadline core layer waited) s = .next (fenceStall core.val (fenceCounter s h core.val b)
      (waited - tget (coreOf s core.val).layerWaits layer 0) [(layer, e.fate)] s)) ∧
  (∀ (core : CoreId) (lane : LaneId) (h n a b layer ready : Nat) (e : Entry) (src dst : Tensor) (s : State), Running s → Standing s core.val lane.val h n e →
    e.op = .haloPut a b layer ready → stepTensor s h a = some src → stepTensor s h b = some dst →
    earlierMover s h core.val (laneOf s core.val lane.val).next dst = false → ∃ rows t,
      t = ((moveTensor h core.val src (haloRows dst) 0 s).write dst.space (dAddr dst.d) (haloHeader layer rows (coreOf (moveTensor h core.val src (haloRows dst) 0 s) core.val).slot)) ∧
      rows = dSize dst.d 2 ∧ exec (.haloPut core lane) s = .next (passEntry core.val lane.val (signalSem (handlePart h) ready t))) ∧
  (∀ (core : CoreId) (lane : LaneId) (h n b layer ready : Nat) (e : Entry) (t : Tensor) (s : State), Running s → Standing s core.val lane.val h n e →
    e.op = .haloFence b layer ready → stepTensor s h b = some t → (semOf s (handlePart h) ready).value ≠ 0 →
    (s.readNat t.space (dAddr t.d) 2 = layer % 65536 → exec (.haloFence core lane) s = .next (passEntry core.val lane.val
      (setSem (handlePart h) ready { semOf s (handlePart h) ready with value := (semOf s (handlePart h) ready).value - 1 } s))) ∧
    (s.readNat t.space (dAddr t.d) 2 ≠ layer % 65536 → exec (.haloFence core lane) s = .next (haloMismatch core.val h b (s.readNat t.space (dAddr t.d) 2) layer
      (setSem (handlePart h) ready { semOf s (handlePart h) ready with value := (semOf s (handlePart h) ready).value - 1 } s)))) ∧
  (∀ (die : CdId) (c l h n : Nat) (rest : List (Nat × Nat)) (e : Entry) (a : ArrayStitch) (st : Step) (s : State), Running s → (cdOf s die.val).stem = (c, l) :: rest →
    (cdOf s die.val).stemFault = false → (coreOf s c).step = some h → laneEntry s c l = some (n, e) → getStep s h = some st → st.state = .running → e.op = .stem a →
    sentinelHolds s h c e = false → prefetchHolds s h c n e = false →
    ∃ u t, u = coreWaitFree c 0x200B (coreEvent c 0x2003 1 (commitStem h die.val c l n e a (modCd die.val (fun k => { k with stem := rest }) s))) ∧
      t = mapWait s h c e u ∧ exec (.stemStitch die) s = .next (wakeStem die.val (atBoundary c (passEntry c l (closeWindow c n (freeHalos c n t)))))) ∧
  (∀ (core : CoreId) (lane : LaneId) (h n sb layer a b sp sq : Nat) (e : Entry) (st : Step) (k v : Tensor) (g : SeqStage) (kv : KvSpace) (q : KvSeq) (s : State), Running s →
    Standing s core.val lane.val h n e → e.op = .append sb layer a b → getStep s h = some st → st.replayOf = none → seqBinding (stepBinding s h sb) = some (sp, sq) →
    stepTensor s h a = some k → stepTensor s h b = some v → stageOf st sp sq = some g → getSpace s (handlePart h) sp = some kv → tget? kv.seqs sq = some q →
    exec (.appendEntry core lane) s = .next (appendLayer h core.val lane.val sb layer k v g kv q s))

/-! ## Collective calls (chapter 12) -/

/-- Calls, their fences and late members (R466, R487, R488, R490, R493): issuing starts what may start, a thinned call
is complete at issue with 0 in its register, and a call from which the record of a replay excludes the member is excluded
at issue (R491); a fence is passed when its call is done, else its wait counts where no other lane can go on (R469); after
WINDOW edges a member whose own call has not come is excluded and its contribution is dropped or parked when it comes;
after PEER_LIMIT × WINDOW quiet edges and on ABORT the call ends with fault 0x3811. A replay that a member has not joined
(R218) ends with PARTIAL_PEER_TIMEOUT, after one window. -/
def Obligations.CallsAndLateMembers : Prop :=
  (∀ (core : CoreId) (lane : LaneId) (h n b : Nat) (w : CallWord) (r : CallRun) (e : Entry) (s : State), Running s → Standing s core.val lane.val h n e →
    e.op = .call b → stepBinding s h b = some (.call w) → callOf s h (cwPel w) (cwCall w) = some r → r.issued = false →
    (thinnedOut s h (cwPel w) w = false → ((getStep s h).bind (·.replayOf)) = none → exec (.collectiveCall core lane) s = .next (passEntry core.val lane.val (startCalls h (cwPel w)
      (modCall h (cwPel w) (cwCall w) (fun r => { r with issued := true, core := core.val }) s)))) ∧
    (∀ (q : Peloton) (st : Step), thinnedOut s h (cwPel w) w = false → getPel s (handlePart h) (cwPel w) = some q → getStep s h = some st →
      loggedLate st q (cwPel w) (cwCall w) = true → r.excluded = false → r.phase = .waiting →
      exec (.collectiveCall core lane) s = .next (passEntry core.val lane.val (startCalls h (cwPel w)
        (modCall h (cwPel w) (cwCall w) (fun r => { r with issued := true, core := core.val })
          (excludeCall (handlePart h) h (cwPel w) (cwCall w) s))))) ∧
    (thinnedOut s h (cwPel w) w = true → exec (.collectiveCall core lane) s = .next (passEntry core.val lane.val (startCalls h (cwPel w)
      (putSregOut h { r with core := core.val } 0
        (modCall h (cwPel w) (cwCall w) (fun r => { r with issued := true, core := core.val, phase := .done, thinned := true }) s)))))) ∧
  (∀ (core : CoreId) (lane : LaneId) (h n call : Nat) (r : CallRun) (st : Step) (e : Entry) (s : State), Running s → Standing s core.val lane.val h n e →
    e.op = .callFence call → getStep s h = some st → fencedCall st call = some r →
    (r.phase = .done → exec (.collectiveFence core lane) s = .next (passEntry core.val lane.val s)) ∧
    (r.phase ≠ .done → othersReady s h core.val lane.val = false → exec (.collectiveFence core lane) s = .next (coreWaitFree core.val 0x200D s)) ∧
    (r.phase ≠ .done → othersReady s h core.val lane.val = true → exec (.collectiveFence core lane) s = .next s)) ∧
  (∀ (part : PartId) (n call h : Nat) (c : CallRun) (q : Peloton) (m : PelMark) (st : Step) (s : State), Running s → callingStep s part.val n call = some (h, c) →
    getPel s part.val n = some q → getStep s h = some st → st.det = false → markOf s h n = some m → m.window ≤ c.waited → pelMode q ≠ 1 → cwKind c.word ≤ 1 →
    c.issued = false → c.excluded = false → c.phase = .waiting → scatterHeld q st call = true →
    exec (.lateExclusion part n call) s = .next (startCalls h n (modCall h n call (fun c => { c with excluded := true })
      (devEvent 0x300E n 1 (modPel part.val n (fun q => { q with late := q.late + 1 }) s))))) ∧
  (∀ (part : PartId) (n call h : Nat) (c : CallRun) (q : Peloton) (m : PelMark) (st : Step) (s : State), Running s → callingStep s part.val n call = some (h, c) →
    getPel s part.val n = some q → getStep s h = some st → st.det = false → markOf s h n = some m → c.waited < m.window →
    exec (.lateExclusion part n call) s = .next s) ∧
  (∀ (part : PartId) (n call h : Nat) (c : CallRun) (q : Peloton) (x : Partition) (m : PelMark) (st : Step) (src : Tensor) (s : State), Running s →
    callingStep s part.val n call = some (h, c) → getPel s part.val n = some q → getPart s part.val = some x → getStep s h = some st →
    stepTensor s h (cwSrc c.word) = some src → c.excluded = true → c.issued = true → (∀ e ∈ st.lateLog, e.1 = n → e.2.1 ≠ call) → markOf s h n = some m →
    (match st.replayOf with | none => m.latePolicy ≠ 0 | some r => r.late.contains (n, call, pelRank q, 0) = false) →
    exec (.lateContribution part n call) s = .next (modStep h (fun st => { st with lateLog := st.lateLog ++ [(n, call, pelRank q, 1)] })
      (modPel part.val n (fun q => { q with dropped := q.dropped + 1 }) s))) ∧
  (∀ (part : PartId) (n call h : Nat) (c : CallRun) (q : Peloton) (m : PelMark) (s : State), Running s → callingStep s part.val n call = some (h, c) →
    getPel s part.val n = some q → markOf s h n = some m → c.phase = .scatter →
    (if unjoined s h n && !c.joined then m.window else m.peerLimit * m.window) ≤ c.quiet →
    exec (.peerTimeout part n call) s = .next (abortCall 0x3811 h n call (awaitedRank q c <<< 32) (awaitedRank q c) s)) ∧
  (∀ (part : PartId) (n call h : Nat) (c : CallRun) (q : Peloton) (m : PelMark) (s : State), Running s → callingStep s part.val n call = some (h, c) →
    getPel s part.val n = some q → markOf s h n = some m →
    c.quiet < (if unjoined s h n && !c.joined then m.window else m.peerLimit * m.window) → exec (.peerTimeout part n call) s = .next s) ∧
  (∀ (code h n call detail awaited : Nat) (s : State), unjoined (sendAbort h n call awaited s) h n = true →
    abortCall code h n call detail awaited s = stopFaulty h 0x0302 0 (sendAbort h n call awaited s)) ∧
  (∀ (part : PartId) (n h : Nat) (x : Partition) (q : Peloton) (m : CollMsg) (s : State), Running s → getPart s part.val = some x → getPel s part.val n = some q →
    (q.inbox.find? fun m => m.mtype == 0x20) = some m → runningStepOf x m.stepEpoch (readHead m.header).attempt = some h →
    exec (.abort part n) s = .next (abortCall 0x3811 h n (readHead m.header).call ((readHead m.header).chunk <<< 32) (readHead m.header).chunk
      (modPel part.val n (fun q => { q with inbox := q.inbox.erase m }) s)))

/-- Messages of calls (R310 to R313, R456, R477 to R479, R499 to R501): the message that is taken is of its type, was
held and is held no longer. RED_SCATTER, RED_GATHER, PARAM_GATHER, EXCHANGE, EXCHANGE_RETURN, RING_KV, RING_GRAD and RING_LATE each
complete whenever their message is held and its call or its walk waits for it: a scattered block is summed with the own
contribution and sent on, or finished by the last member; a gathered one is written, counted and sent on; a shard is converted,
written, counted and sent on; rows of an exchange and of its return land in their places; ring chunks are staged and sent on, and
gradients are kept for the walk or, home, written; a late ring wait is recorded. -/
def Obligations.MessagesOfCalls : Prop :=
  (∀ (p n mtype : Nat) (m : CollMsg) (hd : CollHead) (h : Nat) (c : CallRun) (q : Peloton) (s t : State), takeMessage p n mtype s = some (m, hd, h, c, q, t) →
    getPel s p n = some q ∧ m ∈ q.inbox ∧ m.mtype = mtype ∧ hd = readHead m.header ∧
      t = modCall h n hd.call (fun c => { c with quiet := 0, joined := true }) (modPel p n (fun q => { q with inbox := q.inbox.erase m }) s)) ∧
  (∀ (part : PartId) (n : Nat) (m : CollMsg) (h : Nat) (c : CallRun) (q : Peloton) (src : Tensor) (s : State), Running s →
    Comes s part.val n 0x10 m h c q → stepTensor (received part.val n h m s) h (cwSrc c.word) = some src →
    exec (.redScatter part n) s = .next (scatterHop h n q c src m (readHead m.header) (received part.val n h m s))) ∧
  (∀ (h n : Nat) (q : Peloton) (c : CallRun) (src : Tensor) (m : CollMsg) (hd : CollHead) (s t : State), t = noteScale h n q c src hd s →
    ∃ bs u, bs = (readBlocks hd ((chunkLens t h c.word).getD hd.chunk 0) m.body).map (fun b =>
        (b.1, (hopBlock (wireVals b.2.1 b.2.2) (ownBlock t h c src (chunkStart (chunkLens t h c.word) hd.chunk) ((chunkLens t h c.word).getD hd.chunk 0) b.1) b.2.1).1,
          (hopBlock (wireVals b.2.1 b.2.2) (ownBlock t h c src (chunkStart (chunkLens t h c.word) hd.chunk) ((chunkLens t h c.word).getD hd.chunk 0) b.1) b.2.1).2.1)) ∧
      u = addCounts c.core (((hopBlocks t h c src hd m.body).map Prod.snd).foldl Cnt.add {}) 0 t ∧
      (hd.chunk ≠ pelRank q → scatterHop h n q c src m hd s = sendBlocks q n (nextRank q (cwDir c.word)) 0x10 m.stepEpoch (stepLayout u h n)
        { hd with hop := hd.hop + 1, late := hd.late + b2n c.excluded } true (bs.length + 1) bs u) ∧
      (hd.chunk = pelRank q → scatterHop h n q c src m hd s = finishBlocks h n q c hd (hd.late + b2n c.excluded) bs u)) ∧
  (∀ (part : PartId) (n : Nat) (m : CollMsg) (h : Nat) (c : CallRun) (q : Peloton) (s : State), Running s → Comes s part.val n 0x11 m h c q →
    exec (.redGather part n) s = .next (gatherHop h n q c m (readHead m.header) (received part.val n h m s))) ∧
  (∀ (h n : Nat) (q : Peloton) (c : CallRun) (m : CollMsg) (hd : CollHead) (bs : List WireBlock) (s : State), cwKind c.word = 0 →
    bs = readBlocks hd ((chunkLens s h c.word).getD hd.chunk 0) m.body → pelN q ≤ hd.hop + 2 →
    gatherHop h n q c m hd s = startCalls h n (endPass h n c.call (modCall h n c.call (fun c => addDone hd.chunk hd.count { c with late := max c.late hd.late, nanSeen := c.nanSeen || decide (0 < hd.nonfin), totals := if c.totals.any (fun t => t.1 == hd.chunk && t.2.1 == hd.pass) then c.totals else c.totals ++ [(hd.chunk, hd.pass, hd.sumS, hd.sumC, hd.nonfin, hd.amax)], tags := c.tags ++ bs.map fun b => (hd.chunk, b.1, b.2.1) }) (writeFinal s h q c hd.chunk bs)))) ∧
  (∀ (h n : Nat) (q : Peloton) (c : CallRun) (m : CollMsg) (hd : CollHead) (s : State), hd.hop + 2 < pelN q →
    passOn h n q c m hd s = sendTo q n (nextRank q (cwDir c.word)) m.mtype m.format m.stepEpoch (stepLayout s h n) { hd with hop := hd.hop + 1 } m.body s) ∧
  (∀ (part : PartId) (n : Nat) (m : CollMsg) (h : Nat) (c : CallRun) (q : Peloton) (s : State), Running s → Comes s part.val n 0x12 m h c q →
    exec (.paramGather part n) s = .next (shardHop h n q c m (readHead m.header) (received part.val n h m s))) ∧
  (∀ (h n : Nat) (q : Peloton) (c : CallRun) (m : CollMsg) (hd : CollHead) (s : State), pelN q ≤ hd.hop + 2 →
    ∃ outs k, outs = gatherOuts s h q (stepTensor s h (cwDst c.word)) (shardStart s h c hd.chunk) (shardElems (pelGin q) hd.elems (hd.elems / max 1 hd.count) m.body) ∧
      k = (outs.map Prod.snd).foldl Cnt.add {} ∧
      shardHop h n q c m hd s = startCalls h n (endGather h n c.call (modCall h n c.call (fun c => { c with heard := (c.heard ++ [hd.chunk]).eraseDups })
        (putShard h c hd.chunk outs (addCounts c.core k k.made (devEvent 0x3010 (4 + portTo q (nextRank q (!cwDir c.word)) / 4) (converterMade q outs) s)))))) ∧
  (∀ (part : PartId) (n : Nat) (m : CollMsg) (h : Nat) (c : CallRun) (q : Peloton) (dst : Tensor) (s : State), Running s → Comes s part.val n 0x13 m h c q →
    stepTensor (received part.val n h m s) h (cwDst c.word) = some dst →
    exec (.exchange part n) s = .next (exchangeRows h n c dst m (readHead m.header) (received part.val n h m s))) ∧
  (∀ (h n : Nat) (c : CallRun) (dst : Tensor) (m : CollMsg) (hd : CollHead) (s : State),
    ∃ slots rows, slots = (List.range hd.count).map (fun j => leNat ((m.body.drop (4 * j)).take 4)) ∧
      rows = cutRows (rowLength dst) hd.count (m.body.drop ((4 * hd.count + 31) / 32 * 32)) ∧
      exchangeRows h n c dst m hd s = startCalls h n (endExchange h n c.call (modCall h n c.call
        (fun c => { c with heard := (c.heard ++ [hd.chunk]).eraseDups, got := tset c.got hd.chunk slots }) (landRows h c hd.chunk slots rows s)))) ∧
  (∀ (part : PartId) (n : Nat) (m : CollMsg) (h : Nat) (c : CallRun) (q : Peloton) (dst : Tensor) (s : State), Running s → Comes s part.val n 0x14 m h c q →
    stepTensor (received part.val n h m s) h (cwDst c.word) = some dst →
    exec (.exchangeReturn part n) s = .next (startCalls h n (endReturn h n c.call (modCall h n c.call
      (fun c => { c with heard := (c.heard ++ [(readHead m.header).chunk]).eraseDups })
      (landReturned h c (readHead m.header).chunk (cutRows (rowLength dst) (readHead m.header).count m.body) (received part.val n h m s)))))) ∧
  (∀ (part : PartId) (n : Nat) (m : CollMsg) (h c l i : Nat) (a : AWord) (x : Walk) (q : Peloton) (s : State), Running s →
    ComesRing s part.val n 0x15 m h c l i a x q → ∃ u, u = stageChunk h a (ringWidth (dropMsg part.val n m s) h a x) ((readHead m.header).hop + 1) m.body
        (setWalk c l { x with chunk := some m.body } (dropMsg part.val n m s)) ∧
    (pelN q ≤ (readHead m.header).hop + 2 → exec (.ringKv part n) s = .next (ringReady c l a u)) ∧
    ((readHead m.header).hop + 2 < pelN q → exec (.ringKv part n) s = .next (ringReady c l a
      (sendRing h c 0x15 a (readHead m.header).chunk ((readHead m.header).hop + 1) m.body u)))) ∧
  (∀ (part : PartId) (n : Nat) (m : CollMsg) (h c l i : Nat) (a : AWord) (x : Walk) (q : Peloton) (s t : State), Running s →
    ComesRing s part.val n 0x16 m h c l i a x q → t = dropMsg part.val n m s →
    ((readHead m.header).hop + 1 < pelN q → exec (.ringGrad part n) s = .next (ringReady c l a (setWalk c l { x with
      dk := (readGrads a (ringChunk q (readHead m.header).chunk).2 m.body).1, dv := (readGrads a (ringChunk q (readHead m.header).chunk).2 m.body).2, grads := true } t))) ∧
    (∀ tk tv : Tensor, pelN q ≤ (readHead m.header).hop + 1 → stepTensor t h (aDk a) = some tk → stepTensor t h (aDv a) = some tv →
      accessTrouble t (descPages tk.d ++ descPages tv.d) = none →
      exec (.ringGrad part n) s = .next (endWalk c l i (coreWaitFree c 0x5003
        (putGrads h tv (readGrads a (ringChunk q (readHead m.header).chunk).2 m.body).2 (putGrads h tk (readGrads a (ringChunk q (readHead m.header).chunk).2 m.body).1
          (protectTensor h tv (protectTensor h tk t)))))))) ∧
  (∀ (core : CoreId) (lane : LaneId) (h n b : Nat) (a : AWord) (e : Entry) (s : State), Running s → (coreOf s core.val).step = some h →
    laneEntry s core.val lane.val = some (n, e) → e.op = .walk b → stepAttn s h b = some a →
    ((laneOf s core.val lane.val).waitOn = some .ring → exec (.ringLate core lane) s = .next (recEvent 0x5013 (handlePart h) (some (handlePart h)) (dieOfCore core.val) core.val h
      [(16, aRing a), (16, (tget (coreOf s core.val).walk lane.val {}).hop)] (coreWaitFree core.val 0x5003 s))) ∧
    ((laneOf s core.val lane.val).waitOn ≠ some .ring → exec (.ringLate core lane) s = .next s))


/-! ## Rules of every message, entry, commit and step -/

/-- The framing of messages (R14, R61, R105, Table 12 of ch. 02) and the reply (R74, R77, Table 9 of ch. 02): a message
through a function that is not there reaches nothing; one that names a vector beyond the function's table is refused
REFUSED_BAD_MESSAGE; a PF-only command through a VF is refused REFUSED_NOT_PERMITTED; a reply puts its header and its
data into the window, ends BUSY, sets REPLY_READY, and changes nothing else, so a refused command has changed nothing. -/
def Obligations.RefusalsAndReplies : Prop :=
  (∀ (c : Instr) (fn : Fn) (hdr : Hdr) (op : Nat) (pf : Bool) (s : State), messageOf c = some (fn, hdr, op, pf) →
    (fnExists s fn = false → exec c s = .next s) ∧
    (Running s → op ≠ 0x0710 → fnExists s fn = true → cvecOk fn hdr = false → exec c s = refusedWith fn op hdr 0x0201 s) ∧
    (Heard s fn hdr → op ≠ 0x0710 → pf = true → fn ≠ 0 → exec c s = refusedWith fn op hdr 0x0205 s)) ∧
  (∀ (f op status handle : Nat) (hdr : Hdr) (result : W64) (data : List Byte) (s : State), op < 2 ^ 16 → status < 2 ^ 16 → handle < 2 ^ 64 →
    data.length ≤ 4064 →
    (reply f op hdr status result handle data s).readNat (.window f) 0 32 =
      op + 2 ^ 16 * (32 + data.length) + 2 ^ 32 * hdr.tag.toNat + 2 ^ 48 * status + 2 ^ 64 * handle + 2 ^ 128 * result.toNat +
        2 ^ 192 * hdr.cookie.toNat ∧
    (reply f op hdr status result handle data s).read (.window f) 32 data.length = data) ∧
  (∀ (f op status handle : Nat) (hdr : Hdr) (result : W64) (data : List Byte) (s : State), let t := reply f op hdr status result handle data s
    (fnOf t f).busy = false ∧ (fnOf t f).replyReady = true ∧ (fnOf t f).lastTag = hdr.tag ∧ (fnOf t f).ring = (fnOf s f).ring ∧
    (fnOf t f).slots = (fnOf s f).slots ∧ (fnOf t f).overflow = (fnOf s f).overflow ∧ (∀ g : Nat, g ≠ f → fnOf t g = fnOf s g) ∧
    (∀ a : Nat, a < (Space.window f).base ∨ (Space.window f).base + 32 + data.length ≤ a → memRead t.mem a = memRead s.mem a) ∧
    t.outbox = s.outbox ++ (if hdr.replyIrq then [.msix f 0] else []) ∧
    t.steward = s.steward ∧ t.tiers = s.tiers ∧ t.parts = s.parts ∧ t.prefixes = s.prefixes ∧ t.cores = s.cores ∧ t.links = s.links ∧
    t.pairs = s.pairs ∧ t.collector = s.collector ∧ t.trust = s.trust ∧ t.board = s.board ∧ t.free = s.free ∧ t.pending = s.pending)

/-- Completion entries (R81, R84, R85, R87, Table 10a of ch. 02): an entry with room in the ring is written at TAIL with
the current PHASE, and TAIL goes up by one, PHASE turning at each wrap; without a ring, with a full ring or behind
waiting entries it waits in the overflow queue and nothing is written; a handle posts one entry and no second one. -/
def Obligations.CompletionEntries : Prop :=
  (∀ (f : Nat) (c : Completion) (s : State) (r : Ring), (fnOf s f).ring = some r → (fnOf s f).overflow = [] → (fnOf s f).tail < r.entries →
    ((fnOf s f).tail + 1) % r.entries ≠ (fnOf s f).head →
    r.base + 32 * r.entries < 2 ^ 64 → c.handle < 2 ^ 64 → c.status < 2 ^ 16 → c.epoch < 2 ^ 32 →
    (r.writeback = 0 ∨ r.writeback + 8 ≤ r.base ∨ (r.base + 32 * r.entries ≤ r.writeback ∧ r.writeback + 8 ≤ 2 ^ 64)) →
    (postEntry f c s).readNat .host (r.base + 32 * (fnOf s f).tail) 32 =
      c.handle + 2 ^ 64 * c.status + 2 ^ 80 * b2n (fnOf s f).phase + 2 ^ 96 * c.epoch + 2 ^ 128 * c.cookie.toNat + 2 ^ 192 * c.result.toNat ∧
    (fnOf (postEntry f c s) f).tail = ((fnOf s f).tail + 1) % r.entries ∧
    (fnOf (postEntry f c s) f).phase = (if (fnOf s f).tail + 1 = r.entries then !(fnOf s f).phase else (fnOf s f).phase) ∧
    (fnOf (postEntry f c s) f).head = (fnOf s f).head ∧ (fnOf (postEntry f c s) f).overflow = [] ∧
    (∀ a : Nat, (a < Space.host.base + r.base + 32 * (fnOf s f).tail ∨ Space.host.base + r.base + 32 * (fnOf s f).tail + 32 ≤ a) →
      (r.writeback = 0 ∨ a < Space.host.base + r.writeback ∨ Space.host.base + r.writeback + 8 ≤ a) →
      memRead (postEntry f c s).mem a = memRead s.mem a)) ∧
  (∀ (f : Nat) (c : Completion) (s : State), (fnOf s f).ring = none → (fnOf (postEntry f c s) f).overflow = (fnOf s f).overflow ++ [c] ∧ (postEntry f c s).mem = s.mem) ∧
  (∀ (f : Nat) (c : Completion) (s : State) (r : Ring), (fnOf s f).ring = some r → ((fnOf s f).tail + 1) % r.entries = (fnOf s f).head →
    (fnOf (postEntry f c s) f).overflow = (fnOf s f).overflow ++ [c] ∧ (postEntry f c s).mem = s.mem) ∧
  (∀ (h st : Nat) (result : W64) (r : HandleRec) (s : State), getHandle s h = some r → r.owed = true → r.state ≠ .ended →
    finish h st result s = postEntry r.fn { handle := h, status := st, epoch := 0, cookie := r.cookie, result := result, cvec := if r.cvec = 0xFFFF then none else some r.cvec.toNat }
      (setHandle h { r with state := .complete, status := st, owed := false } s) ∧
    ∃ r', getHandle (finish h st result s) h = some r' ∧ r'.owed = false ∧ r'.status = st) ∧
  (∀ (h st : Nat) (result : W64) (r : HandleRec) (s : State), getHandle s h = some r → r.owed = false →
    (finish h st result s).host = s.host ∧ (finish h st result s).mem = s.mem ∧ (finish h st result s).outbox = s.outbox)

/-- Commit publishes (R198, R202, R204, Table 6 of ch. 05): the bank of an applied update flips CUR to the half that the step wrote,
with its staged header values; a skipped update keeps the bank and counts one more SKIPPED; the header in memory shows
the bank; the step and its handle become committed. -/
def Obligations.CommitPublishesBanks : Prop :=
  (∀ (p : Nat) (st : BankStage) (x : Partition) (b : Bank) (s : State), getPart s p = some x → tget? x.banks st.bank = some b → st.applied = some true → b.cur ≤ 1 →
    ∃ y b', getPart (publishBank p st s) p = some y ∧ tget? y.banks st.bank = some b' ∧ b'.cur = 1 - b.cur ∧ half b'.cur b'.t = st.t ∧
      half b'.cur b'.p1 = st.p1 ∧ half b'.cur b'.p2 = st.p2 ∧ half b.cur b'.t = half b.cur b.t ∧ half b.cur b'.p1 = half b.cur b.p1 ∧
      half b.cur b'.p2 = half b.cur b.p2 ∧ b'.skipped = b.skipped ∧ b'.w = b.w ∧ b'.m = b.m ∧ b'.v = b.v ∧ b'.k = b.k ∧
      publishBank p st s = putBank p st.bank b' s) ∧
  (∀ (p : Nat) (st : BankStage) (x : Partition) (b : Bank) (s : State), getPart s p = some x → tget? x.banks st.bank = some b → st.applied = some false →
    publishBank p st s = putBank p st.bank { b with skipped := (b.skipped + 1) % 2 ^ 32 } s) ∧
  (∀ (h : Nat) (st : Step) (x : Partition) (s : State), getPart s (handlePart h) = some x → getStep s h = some st →
    ∃ st', getStep (commitStep h s) h = some st' ∧ st'.state = .committed ∧ st'.holds = [])

/-- A step takes exactly one command from the queue and adds none, whatever the command does. Every command completes in
every state, but for an access that lies outside its BAR, which no address of the block answers: that one stops. -/
def Obligations.StepConsumesOneCommand : Prop :=
  (∀ (s t : State) (c : Instr) (rest : List Instr), s.pending = c :: rest → step s = .next t → t.pending = rest) ∧
  (∀ (c : Instr) (s : State),
    (∀ fn bar offset bytes, c = .barWrite fn bar offset bytes → offset + bytes.length ≤ barSize fn bar) →
    (∀ fn bar offset size, c = .oversizeBarRead fn bar offset size → offset + size ≤ barSize fn bar) →
    (∀ fn bar offset, c = .poisonedTlp fn bar offset → offset < barSize fn bar) →
    ∃ t, exec c s = .next t ∧ t.pending = s.pending) ∧
  (∀ (fn : Fn) (bar offset : Nat) (bytes : List Byte) (s : State), reaches s fn = true → barSize fn bar < offset + bytes.length →
    exec (.barWrite fn bar offset bytes) s = .fault (.noSuchAddress offset)) ∧
  (∀ (fn : Fn) (bar offset size : Nat) (s : State), reaches s fn = true → barSize fn bar < offset + size →
    exec (.oversizeBarRead fn bar offset size) s = .fault (.noSuchAddress offset)) ∧
  (∀ (fn : Fn) (bar offset : Nat) (s : State), reaches s fn = true → barSize fn bar ≤ offset →
    exec (.poisonedTlp fn bar offset) s = .fault (.noSuchAddress offset))

/-- Number formats (R108, R109, R110, Tables 2 and 3 of ch. 03): the value of a floating-point code with exponent field e
and mantissa field m; the codes that read as NaN and as infinities, and the NaN that is written; and no conversion changes a finite value that its
format has, subnormal or not: written back under any rounding, it gives its own code and counts nothing. -/
def Obligations.NumberFormats : Prop :=
  (∀ f width bias code sign e m : Nat, (f, width, bias) ∈ [(0x00, 23, 127), (0x01, 7, 127), (0x02, 3, 7), (0x03, 2, 15), (0x04, 3, 7), (0x05, 2, 15),
      (0x06, 3, 1), (0x07, 2, 3), (0x08, 1, 1), (0x0A, 1, 1), (0x0C, 39, 127)] →
    m < 2 ^ width → sign < 2 → code = sign * 2 ^ (fmtBits f - 1) + e * 2 ^ width + m → code % 2 ^ (fmtBits f - 1) = e * 2 ^ width + m →
    (codeVal f code).isFin = true →
    codeVal f code = if e = 0 then .fin (sign == 1) m (1 - (bias : Int) - width) else .fin (sign == 1) (2 ^ width + m) ((e : Int) - bias - width)) ∧
  (∀ f width bits code : Nat, (f, width, bits) ∈ [(0x00, 23, 32), (0x01, 7, 16), (0x0C, 39, 48)] → code < 2 ^ bits →
    ((codeVal f code).isFin = true ↔ code / 2 ^ width % 256 ≠ 255) ∧ ((codeVal f code).isNan = true ↔ code / 2 ^ width % 256 = 255 ∧ code % 2 ^ width ≠ 0) ∧
    (code / 2 ^ width % 256 = 255 → code % 2 ^ width = 0 → codeVal f code = .inf (code / 2 ^ (bits - 1) == 1))) ∧
  (∀ code : Nat, code < 256 → ((codeVal 0x02 code).isFin = false ↔ code % 128 = 127) ∧ ((codeVal 0x02 code).isNan = true ↔ code % 128 = 127) ∧
    ((codeVal 0x03 code).isFin = false ↔ 124 ≤ code % 128) ∧ ((codeVal 0x03 code).isNan = true ↔ 125 ≤ code % 128) ∧
    (code % 128 = 124 → codeVal 0x03 code = .inf (code / 128 == 1))) ∧
  (∀ f nan cvt r : Nat, (f, nan) ∈ [(0x00, 0x7FC00000), (0x01, 0x7FC0), (0x02, 0x7F), (0x03, 0x7E), (0x0C, 0x7FC000000000)] →
    narrow f cvt r .nan = (nan, { nonfin := 1 })) ∧
  (∀ f code : Nat, f ∈ [0x06, 0x07, 0x08, 0x0A] → (codeVal f code).isFin = true) ∧
  (∀ f code cvt r : Nat, f ∈ [0x00, 0x01, 0x02, 0x03, 0x0C] → code < 2 ^ fmtBits f → (codeVal f code).isFin = true →
    narrow f cvt r (codeVal f code) = (code, {}))
end

