-- ==== Sys2Proof/Laws/Memory.lean ====
section
/-!
SUPPORT. The memory operations: each keeps the canonical form, a read after a write gives what was written, and every
other place reads as before.
-/
set_option Elab.async false
namespace Sys2Proof.Machine
open Sys2Proof.Safety

theorem memory_wf_nil : Memory.wf [] := ⟨List.Pairwise.nil, fun _ h => by cases h⟩

/-- In canonical form, an address below every listed one reads 0. -/
theorem memRead_below {m : Memory} {a : Nat} (h : ∀ c ∈ m, a < c.1) : memRead m a = 0 := by
  induction m with
  | nil => rfl
  | cons c m ih =>
    have h1 : a < c.1 := h c (List.mem_cons_self ..)
    have h2 : c.1 ≠ a := by omega
    simp only [memRead, if_neg h2]
    exact ih fun d hd => h d (List.mem_cons_of_mem _ hd)

theorem mem_memSet {m : Memory} {a : Nat} {b : Byte} {c : Nat × Byte} (h : c ∈ memSet m a b) : c ∈ m ∨ (c = (a, b) ∧ b ≠ 0) := by
  induction m with
  | nil =>
    simp only [memSet] at h
    split at h
    · cases h
    · exact .inr ⟨List.mem_singleton.mp h, ‹_›⟩
  | cons d m ih =>
    obtain ⟨k, e⟩ := d
    simp only [memSet] at h
    split at h
    · split at h
      · exact .inl h
      · rcases List.mem_cons.mp h with h | h
        · exact .inr ⟨h, ‹_›⟩
        · exact .inl h
    · split at h
      · split at h
        · exact .inl (List.mem_cons_of_mem _ h)
        · rcases List.mem_cons.mp h with h | h
          · exact .inr ⟨h, ‹_›⟩
          · exact .inl (List.mem_cons_of_mem _ h)
      · rcases List.mem_cons.mp h with h | h
        · exact .inl (h ▸ List.mem_cons_self ..)
        · rcases ih h with h | h
          · exact .inl (List.mem_cons_of_mem _ h)
          · exact .inr h

theorem memSet_wf {m : Memory} {a : Nat} {b : Byte} (h : Memory.wf m) : Memory.wf (memSet m a b) := by
  refine ⟨?_, fun c hc => ?_⟩
  · induction m with
    | nil => simp only [memSet]; split <;> simp
    | cons d m ih =>
      obtain ⟨k, e⟩ := d
      have h1 := List.pairwise_cons.mp h.1
      have h2 : Memory.wf m := ⟨h1.2, fun c hc => h.2 c (List.mem_cons_of_mem _ hc)⟩
      simp only [memSet]
      split
      · split
        · exact h.1
        · refine List.pairwise_cons.mpr ⟨fun c hc => ?_, h.1⟩
          rcases List.mem_cons.mp hc with hc | hc
          · subst hc; simpa using ‹a < k›
          · have := h1.1 c hc; simp only at this ⊢; omega
      · split
        · split
          · exact h1.2
          · exact List.pairwise_cons.mpr ⟨fun c hc => by have := h1.1 c hc; simp only at this ⊢; omega, h1.2⟩
        · refine List.pairwise_cons.mpr ⟨fun c hc => ?_, ih h2⟩
          rcases mem_memSet hc with hc | hc
          · exact h1.1 c hc
          · obtain ⟨rfl, -⟩ := hc; simp only; omega
  · rcases mem_memSet hc with hc | hc
    · exact h.2 c hc
    · obtain ⟨rfl, hb⟩ := hc; exact hb

@[simp] theorem memRead_memSet_same {m : Memory} {a : Nat} {b : Byte} (h : Memory.wf m) : memRead (memSet m a b) a = b := by
  induction m with
  | nil => simp only [memSet]; split <;> simp_all [memRead]
  | cons d m ih =>
    obtain ⟨k, e⟩ := d
    have h1 := List.pairwise_cons.mp h.1
    have h2 : Memory.wf m := ⟨h1.2, fun c hc => h.2 c (List.mem_cons_of_mem _ hc)⟩
    have below : ∀ c ∈ m, k < c.1 := fun c hc => h1.1 c hc
    simp only [memSet]
    split
    · split
      · rename_i hl hb
        rw [hb]
        exact memRead_below fun c hc => by
          rcases List.mem_cons.mp hc with hc | hc
          · subst hc; exact hl
          · have := below c hc; omega
      · simp [memRead]
    · split
      · split
        · rename_i he hb
          rw [hb]
          exact memRead_below fun c hc => by have := below c hc; omega
        · simp [memRead]
      · have hk : k ≠ a := by omega
        simp only [memRead, if_neg hk]
        exact ih h2

theorem memRead_memSet_other {m : Memory} {a x : Nat} {b : Byte} (h : x ≠ a) : memRead (memSet m a b) x = memRead m x := by
  have ha : a ≠ x := Ne.symm h
  induction m with
  | nil => simp only [memSet]; split <;> simp [memRead, ha]
  | cons d m ih =>
    obtain ⟨k, e⟩ := d
    simp only [memSet]
    split
    · split <;> simp [memRead, ha]
    · split
      · rename_i he
        subst he
        split <;> simp [memRead, ha]
      · simp only [memRead, ih]

theorem memWriteAt_wf {f : Nat → Nat} {bs : List Byte} : ∀ {a : Nat} {m : Memory}, Memory.wf m → Memory.wf (memWriteAt f a bs m) := by
  induction bs with
  | nil => exact fun h => h
  | cons b bs ih => exact fun h => ih (memSet_wf h)

theorem memRead_memWriteAt_other {f : Nat → Nat} {bs : List Byte} {x : Nat} :
    ∀ {a : Nat} {m : Memory}, (∀ i, i < bs.length → f (a + i) ≠ x) → memRead (memWriteAt f a bs m) x = memRead m x := by
  induction bs with
  | nil => exact fun _ => rfl
  | cons b bs ih =>
    intro a m h
    have h0 : x ≠ f a := fun e => h 0 (by simp) (by simpa using e.symm)
    rw [memWriteAt, ih (fun i hi => by have := h (i + 1) (by simpa using hi); rwa [show a + (i + 1) = a + 1 + i by omega] at this),
      memRead_memSet_other h0]

theorem memRead_memWriteAt_same {f : Nat → Nat} {bs : List Byte} :
    ∀ {a i : Nat} {m : Memory}, Memory.wf m → (hi : i < bs.length) → (∀ j k, j < bs.length → k < bs.length → f (a + j) = f (a + k) → j = k) →
      memRead (memWriteAt f a bs m) (f (a + i)) = bs[i] := by
  induction bs with
  | nil => intro a i m _ hi; simp at hi
  | cons b bs ih =>
    intro a i m hm hi inj
    rw [memWriteAt]
    cases i with
    | zero =>
      rw [memRead_memWriteAt_other]
      · simpa using memRead_memSet_same hm
      · intro j hj e
        have := inj (j + 1) 0 (by simpa using hj) (by simp) (by rw [show a + (j + 1) = a + 1 + j by omega]; simpa using e)
        omega
    | succ i =>
      have hi' : i < bs.length := by simpa using hi
      have := ih (a := a + 1) (i := i) (memSet_wf (a := f a) (b := b) hm) hi' (fun j k hj hk e => by
        have := inj (j + 1) (k + 1) (by simpa using hj) (by simpa using hk)
          (by rw [show a + (j + 1) = a + 1 + j by omega, show a + (k + 1) = a + 1 + k by omega]; exact e)
        omega)
      rw [show a + (i + 1) = a + 1 + i by omega]
      simpa using this

theorem filter_wf {m : Memory} (p : Nat × Byte → Bool) (h : Memory.wf m) : Memory.wf (m.filter p) :=
  ⟨h.1.filter p, fun c hc => h.2 c (List.mem_filter.mp hc).1⟩

theorem memClear_wf {m : Memory} {lo hi : Nat} (h : Memory.wf m) : Memory.wf (memClear m lo hi) := filter_wf _ h

theorem memRead_memClear_in {m : Memory} {lo hi x : Nat} (h1 : lo ≤ x) (h2 : x < hi) : memRead (memClear m lo hi) x = 0 := by
  induction m with
  | nil => rfl
  | cons d m ih =>
    obtain ⟨k, e⟩ := d
    rw [memClear, List.filter_cons]
    split
    · rename_i hk
      have : k ≠ x := by rintro rfl; simp at hk; omega
      rw [memRead, if_neg this]
      exact ih
    · exact ih

theorem memRead_memClear_out {m : Memory} {lo hi x : Nat} (h : x < lo ∨ hi ≤ x) : memRead (memClear m lo hi) x = memRead m x := by
  induction m with
  | nil => rfl
  | cons d m ih =>
    obtain ⟨k, e⟩ := d
    rw [memClear, List.filter_cons]
    split
    · rw [memRead, memRead]
      split
      · rfl
      · exact ih
    · rename_i hk
      have : k ≠ x := by rintro rfl; simp at hk; omega
      rw [memRead, if_neg this]
      exact ih

theorem memCopy_wf {m : Memory} {src dst n : Nat} (h : Memory.wf m) : Memory.wf (memCopy m src dst n) := by
  rw [memCopy]
  generalize m.filter _ = l
  have := memClear_wf (lo := dst) (hi := dst + n) h
  revert this
  generalize memClear m dst (dst + n) = k
  induction l generalizing k with
  | nil => exact id
  | cons c l ih => exact fun hk => ih _ (memSet_wf hk)

theorem hostMemory_wf {m : Memory} (h : Memory.wf m) : Memory.wf (hostMemory m) := filter_wf _ h

/-! ## Bytes of a space -/

theorem State.write_memOk {s : State} {sp : Space} {a : Nat} {bs : List Byte} (h : MemOk s) : MemOk (s.write sp a bs) := memWriteAt_wf h

theorem State.writeNat_memOk {s : State} {sp : Space} {a n v : Nat} (h : MemOk s) : MemOk (s.writeNat sp a n v) := memWriteAt_wf h

/-- A write changes no byte outside the places of the bytes written. -/
theorem State.memRead_write_other {s : State} {sp : Space} {a x : Nat} {bs : List Byte} (h : ∀ i, i < bs.length → s.place sp (a + i) ≠ x) :
    memRead (s.write sp a bs).mem x = memRead s.mem x := memRead_memWriteAt_other h

/-- Outside the unified range, addresses of a space have places of their own. -/
theorem State.place_eq {s : State} {sp : Space} {a : Nat} (h : sp ≠ .unified) : s.place sp a = sp.base + a := by
  cases sp <;> first | rfl | exact absurd rfl h

/-- A byte just written reads back. -/
theorem State.byte_write_same {s : State} {sp : Space} {a i : Nat} {bs : List Byte} (h : MemOk s) (hs : sp ≠ .unified) (hi : i < bs.length) :
    (s.write sp a bs).byte sp (a + i) = bs[i] := by
  have hp : (s.write sp a bs).place sp (a + i) = s.place sp (a + i) := by rw [State.place_eq hs, State.place_eq hs]
  rw [State.byte, hp]
  refine memRead_memWriteAt_same h hi fun j k _ _ e => ?_
  rw [State.place_eq hs, State.place_eq hs] at e
  omega

/-- Bytes just written read back. -/
theorem State.read_write_same {s : State} {sp : Space} {a : Nat} {bs : List Byte} (h : MemOk s) (hs : sp ≠ .unified) :
    (s.write sp a bs).read sp a bs.length = bs := by
  apply List.ext_getElem (by simp [State.read])
  intro i h1 h2
  simp only [State.read, List.getElem_map, List.getElem_range]
  exact State.byte_write_same h hs h2

end Sys2Proof.Machine
end

