-- ==== Sys2Proof/Laws/Kept.lean ====
section
/-!
SUPPORT. What every operation of the block leaves alone: the queue of commands, the tick and the canonical form of the
memory. `Kept r s` says it of a state s that work on r has led to; one lemma per operation carries it through.
-/
set_option Elab.async false
namespace Sys2Proof.Machine
open Sys2Proof.Safety

/-- From r to s: the same queue, the same tick, and a memory that is canonical where r's is. -/
structure Kept (r s : State) : Prop where
  pending : s.pending = r.pending
  tick : s.steward.tick = r.steward.tick
  mem : MemOk r → MemOk s

theorem Kept.refl {r : State} : Kept r r := ⟨rfl, rfl, id⟩

theorem Kept.trans {q r s : State} (h : Kept q r) (g : Kept r s) : Kept q s :=
  ⟨g.pending.trans h.pending, g.tick.trans h.tick, g.mem ∘ h.mem⟩

/-- A change of the other parts of the state. -/
theorem kept_mk_iff {r x : State} {f o h ti pa pr co li pai col tr b} {st : Steward} (ht : st.tick = x.steward.tick) :
    Kept r { pending := x.pending, free := f, mem := x.mem, outbox := o, host := h, steward := st, tiers := ti, parts := pa, prefixes := pr, cores := co, links := li, pairs := pai, collector := col, trust := tr, board := b } ↔ Kept r x :=
  ⟨fun k => ⟨k.pending, ht.symm.trans k.tick, k.mem⟩, fun k => ⟨k.pending, ht.trans k.tick, k.mem⟩⟩

theorem kept_ite {r x y : State} {c : Prop} [Decidable c] (h : Kept r x) (g : Kept r y) : Kept r (if c then x else y) := by
  split <;> assumption

theorem kept_foldl {α : Type} {r s : State} {l : List α} {f : State → α → State} (hf : ∀ u a, Kept r u → Kept r (f u a)) (h : Kept r s) :
    Kept r (l.foldl f s) := by
  induction l generalizing s with
  | nil => exact h
  | cons a l ih => exact ih (hf s a h)

theorem kept_foldl_fst {α β : Type} {r : State} {s : State × β} {l : List α} {f : State × β → α → State × β}
    (hf : ∀ u a, Kept r u.1 → Kept r (f u a).1) (h : Kept r s.1) : Kept r (l.foldl f s).1 := by
  induction l generalizing s with
  | nil => exact h
  | cons a l ih => exact ih (hf s a h)

theorem kept_foldl_snd {α β : Type} {r : State} {s : β × State} {l : List α} {f : β × State → α → β × State}
    (hf : ∀ u a, Kept r u.2 → Kept r (f u a).2) (h : Kept r s.2) : Kept r (l.foldl f s).2 := by
  induction l generalizing s with
  | nil => exact h
  | cons a l ih => exact ih (hf s a h)

theorem kept_ite_by {β : Type} (g : β → State) {r : State} {x y : β} {c : Prop} [Decidable c] (h : Kept r (g x)) (k : Kept r (g y)) :
    Kept r (g (if c then x else y)) := by split <;> assumption

theorem kept_foldl_by {α β : Type} (g : β → State) {r : State} {b : β} {l : List α} {f : β → α → β}
    (hf : ∀ u a, Kept r (g u) → Kept r (g (f u a))) (h : Kept r (g b)) : Kept r (g (l.foldl f b)) := by
  induction l generalizing b with
  | nil => exact h
  | cons a l ih => exact ih (hf b a h)

/-- `Kept` of the state that a result carries. -/
def KeptVia {β : Type} (g : β → State) (r : State) (b : β) : Prop := Kept r (g b)

theorem keptVia_mk {β : Type} {g : β → State} {r : State} {b : β} (h : Kept r (g b)) : KeptVia g r b := h

theorem keptVia_ite {β : Type} {g : β → State} {r : State} {x y : β} {c : Prop} [Decidable c] (h : KeptVia g r x) (k : KeptVia g r y) :
    KeptVia g r (if c then x else y) := by split <;> assumption

theorem keptVia_foldl {α β : Type} {g : β → State} {r : State} {b : β} {l : List α} {f : β → α → β}
    (hf : ∀ u a, Kept r (g u) → KeptVia g r (f u a)) (h : KeptVia g r b) : KeptVia g r (l.foldl f b) := by
  induction l generalizing b with
  | nil => exact h
  | cons a l ih => exact ih (hf b a h)

/-- `Kept` of the state that an optional result carries. -/
structure KeptOpt {β : Type} (g : β → State) (r : State) (o : Option β) : Prop where
  get : ∀ x, o = some x → Kept r (g x)

theorem keptOpt_none {β : Type} {g : β → State} {r : State} : KeptOpt g r none := ⟨fun _ h => by cases h⟩

theorem keptOpt_some {β : Type} {g : β → State} {r : State} {x : β} (h : Kept r (g x)) : KeptOpt g r (some x) :=
  ⟨fun _ e => by cases e; exact h⟩

theorem keptOpt_ite {β : Type} {g : β → State} {r : State} {x y : Option β} {c : Prop} [Decidable c] (h : KeptOpt g r x) (k : KeptOpt g r y) :
    KeptOpt g r (if c then x else y) := by split <;> assumption

theorem keptOpt_bind {α β : Type} {g : β → State} {r : State} {o : Option α} {f : α → Option β} (h : ∀ a, o = some a → KeptOpt g r (f a)) :
    KeptOpt g r (o.bind f) := by
  cases o
  · exact keptOpt_none
  · exact h _ rfl

theorem keptOpt_map {α β : Type} {g : β → State} {r : State} {o : Option α} {f : α → β} (h : ∀ a, o = some a → Kept r (g (f a))) :
    KeptOpt g r (o.map f) := by
  cases o
  · exact keptOpt_none
  · exact keptOpt_some (h _ rfl)

theorem keptOpt_findSome {α β : Type} {g : β → State} {r : State} {l : List α} {f : α → Option β} (h : ∀ a, KeptOpt g r (f a)) :
    KeptOpt g r (l.findSome? f) := ⟨fun x e => by
  obtain ⟨a, -, ha⟩ := List.exists_of_findSome?_eq_some e
  exact (h a).get x ha⟩

theorem kept_id {r s : State} (h : Kept r s) : Kept r (id s) := h

/-- What a message's body leaves alone, before the reply and after it. -/
structure BodyKept (r : State) (e : Except Nat Ans) : Prop where
  ok : ∀ a, e = .ok a → Kept r a.st ∧ ∀ u, Kept r u → Kept r (a.after u)

theorem bodyKept_error {r : State} {c : Nat} : BodyKept r (.error c) := ⟨fun _ h => by cases h⟩

theorem bodyKept_ok {r : State} {a : Ans} (h : Kept r a.st) (g : ∀ u, Kept r u → Kept r (a.after u)) : BodyKept r (.ok a) :=
  ⟨fun _ e => by cases e; exact ⟨h, g⟩⟩

theorem bodyKept_ite {r : State} {x y : Except Nat Ans} {c : Prop} [Decidable c] (h : BodyKept r x) (g : BodyKept r y) :
    BodyKept r (if c then x else y) := by split <;> assumption

theorem bodyKept_need {r : State} {c : Bool} {code : Nat} {k : Except Nat Ans} (h : BodyKept r k) : BodyKept r (need c code k) := by
  cases c
  · exact bodyKept_error
  · exact h

theorem bodyKept_have' {α : Type} {r : State} {o : Option α} {code : Nat} {k : α → Except Nat Ans} (h : ∀ a, o = some a → BodyKept r (k a)) :
    BodyKept r (have' o code k) := by
  cases o
  · exact bodyKept_error
  · exact h _ rfl

theorem need_ok_iff {α : Type} {c : Bool} {code : Nat} {k : Except Nat α} {x : α} : need c code k = .ok x ↔ c = true ∧ k = .ok x := by
  cases c <;> simp [need]

theorem have'_ok_iff {α β : Type} {o : Option α} {code : Nat} {k : α → Except Nat β} {x : β} :
    have' o code k = .ok x ↔ ∃ a, o = some a ∧ k a = .ok x := by
  cases o <;> simp [have']

end Sys2Proof.Machine
end

