-- ==== Sys2Proof/Laws/KeptOps.lean ====
section
/-!
SUPPORT. What the operations of Machine/Ops.lean leave alone (`Kept`), one lemma each.
-/
namespace Sys2Proof.Machine
open Sys2Proof.Safety

theorem State.write_kept {q0 s : State} {sp : Space} {a : Nat} {bs : List Byte} (h : Kept q0 s) : Kept q0 (s.write sp a bs) :=
  ⟨h.pending, h.tick, fun m => State.write_memOk (h.mem m)⟩

theorem State.writeNat_kept {q0 : State} {s : State} {sp : Space} {a : Nat} {n : Nat} {v : Nat} (h_s : Kept q0 s) : Kept q0 (State.writeNat s sp a n v) := by
    unfold State.writeNat
    try dsimp only
    repeat' (first | with_reducible assumption | with_reducible apply State.write_kept)

theorem clearUnified_kept {q0 s : State} {a n : Nat} (h : Kept q0 s) : Kept q0 (clearUnified s a n) :=
  kept_foldl (fun _ _ k => ⟨k.pending, k.tick, fun m => memClear_wf (k.mem m)⟩) h

theorem State.clear_kept {q0 s : State} {sp : Space} {a n : Nat} (h : Kept q0 s) : Kept q0 (s.clear sp a n) := by
  cases sp <;> first | exact clearUnified_kept h | exact ⟨h.pending, h.tick, fun m => memClear_wf (h.mem m)⟩

theorem State.clearBank_kept {q0 s : State} {die bank : Nat} (h : Kept q0 s) : Kept q0 (s.clearBank die bank) :=
  ⟨h.pending, h.tick, fun m => filter_wf _ (h.mem m)⟩

theorem State.copyPlace_kept {q0 s : State} {src dst n : Nat} (h : Kept q0 s) : Kept q0 (s.copyPlace src dst n) :=
  ⟨h.pending, h.tick, fun m => memCopy_wf (h.mem m)⟩

theorem takeFree_kept {q0 : State} {s : State} (h_s : Kept q0 s) : KeptVia (fun x => x.2) q0 (takeFree s) := by
    unfold takeFree
    try dsimp only
    repeat' (first | with_reducible assumption | simp only [↓kept_mk_iff] | (with_reducible refine keptVia_mk ?_; try dsimp only))

theorem takeFree_kept_at {q0 : State} {s : State} (h_s : Kept q0 s) : Kept q0 (takeFree s).2 := takeFree_kept (q0 := q0) (s := s) h_s

theorem takeFree_kept_eq {q0 : State} {s : State} {v0} {v1} (he : (takeFree s) = (v0, v1)) (h_s : Kept q0 s) : Kept q0 v1 := by
    have := takeFree_kept_at (q0 := q0) (s := s) h_s
    rw [he] at this; exact this

theorem emit_kept {q0 : State} {o : Output} {s : State} (h_s : Kept q0 s) : Kept q0 (emit o s) := by
    unfold emit
    try dsimp only
    repeat' (first | with_reducible assumption | simp only [↓kept_mk_iff])

theorem setCoreCtr_kept {q0 : State} {core : Nat} {k : Nat} {c : Counter} {s : State} (h_s : Kept q0 s) : Kept q0 (setCoreCtr core k c s) := by
    unfold setCoreCtr
    try dsimp only
    repeat' (first | with_reducible assumption | simp only [↓kept_mk_iff])

theorem setDevCtr_kept {q0 : State} {k : Nat} {c : Counter} {s : State} (h_s : Kept q0 s) : Kept q0 (setDevCtr k c s) := by
    unfold setDevCtr
    try dsimp only
    repeat' (first | with_reducible assumption | simp only [↓kept_mk_iff])

theorem countDev_kept {q0 : State} {id : Nat} {qual : Nat} {n : Nat} {s : State} (h_s : Kept q0 s) : KeptVia (fun x => x.1) q0 (countDev id qual n s) := by
    unfold countDev
    try dsimp only
    repeat' (first | with_reducible assumption | (intro _; try dsimp only) | with_reducible apply setDevCtr_kept | with_reducible apply keptVia_ite | with_reducible apply keptVia_foldl | with_reducible apply kept_ite | with_reducible apply kept_foldl | (with_reducible refine keptVia_mk ?_; try dsimp only))

theorem countDev_kept_at {q0 : State} {id : Nat} {qual : Nat} {n : Nat} {s : State} (h_s : Kept q0 s) : Kept q0 (countDev id qual n s).1 := countDev_kept (q0 := q0) (id := id) (qual := qual) (n := n) (s := s) h_s

theorem countDev_kept_eq {q0 : State} {id : Nat} {qual : Nat} {n : Nat} {s : State} {v0} {v1} (he : (countDev id qual n s) = (v0, v1)) (h_s : Kept q0 s) : Kept q0 v0 := by
    have := countDev_kept_at (q0 := q0) (id := id) (qual := qual) (n := n) (s := s) h_s
    rw [he] at this; exact this

theorem devEvent_kept {q0 : State} {id : Nat} {qual : Nat} {n : Nat} {s : State} (h_s : Kept q0 s) : Kept q0 (devEvent id qual n s) := by
    unfold devEvent
    try dsimp only
    repeat' (first | with_reducible assumption | with_reducible apply countDev_kept | with_reducible apply countDev_kept_at | with_reducible apply kept_ite)

theorem coreEvent_kept {q0 : State} {core : Nat} {id : Nat} {n : Nat} {s : State} (h_s : Kept q0 s) : Kept q0 (coreEvent core id n s) := by
    unfold coreEvent
    try dsimp only
    repeat' (first | with_reducible assumption | with_reducible exact Kept.refl | (intro _; try dsimp only) | with_reducible apply setCoreCtr_kept | with_reducible apply devEvent_kept | with_reducible apply kept_ite | with_reducible apply kept_foldl | with_reducible apply kept_ite_by Prod.fst | with_reducible apply kept_ite_by Prod.snd | with_reducible apply kept_foldl_fst | with_reducible apply kept_foldl_snd | simp only [↓kept_mk_iff] | (split <;> try dsimp only))

theorem coreWaitFree_kept {q0 : State} {core : Nat} {id : Nat} {s : State} (h_s : Kept q0 s) : Kept q0 (coreWaitFree core id s) := by
    unfold coreWaitFree
    try dsimp only
    repeat' (first | with_reducible assumption | with_reducible apply takeFree_kept | with_reducible apply takeFree_kept_at | with_reducible apply coreEvent_kept)

theorem msix_kept {q0 : State} {fn : Nat} {vec : Nat} {s : State} (h_s : Kept q0 s) : Kept q0 (msix fn vec s) := by
    unfold msix
    try dsimp only
    repeat' (first | with_reducible assumption | with_reducible apply emit_kept)

theorem logRecord_kept {q0 : State} {r : EventRec} {s : State} (h_s : Kept q0 s) : Kept q0 (logRecord r s) := by
    unfold logRecord
    try dsimp only
    repeat' (first | with_reducible assumption | with_reducible apply takeFree_kept | with_reducible apply takeFree_kept_at | with_reducible apply devEvent_kept | with_reducible apply kept_ite | simp only [↓kept_mk_iff])

theorem recEvent_kept {q0 : State} {id : Nat} {qual : Nat} {part : Option Nat} {die : Nat} {unit : Nat} {handle : Nat} {data : List (Nat × Nat)} {s : State} (h_s : Kept q0 s) : Kept q0 (recEvent id qual part die unit handle data s) := by
    unfold recEvent
    try dsimp only
    repeat' (first | with_reducible assumption | with_reducible apply logRecord_kept | with_reducible apply devEvent_kept)

theorem raiseFault_kept {q0 : State} {f : FaultIn} {s : State} (h_s : Kept q0 s) : Kept q0 (raiseFault f s) := by
    unfold raiseFault
    try dsimp only
    repeat' (first | with_reducible assumption | simp only [↓kept_mk_iff])

theorem collect_kept {q0 : State} {f : FaultIn} {s : State} (h_s : Kept q0 s) : Kept q0 (collect f s) := by
    unfold collect
    try dsimp only
    repeat' (first | with_reducible assumption | (intro _; try dsimp only) | with_reducible apply devEvent_kept | with_reducible apply logRecord_kept | with_reducible apply msix_kept | with_reducible apply kept_ite | simp only [↓kept_mk_iff])

theorem collectAll_kept {q0 : State} {s : State} (h_s : Kept q0 s) : Kept q0 (collectAll s) := by
    unfold collectAll
    try dsimp only
    repeat' (first | with_reducible assumption | (intro _; try dsimp only) | with_reducible apply collect_kept | with_reducible apply kept_foldl | simp only [↓kept_mk_iff])

theorem setFn_kept {q0 : State} {f : Nat} {x : FnState} {s : State} (h_s : Kept q0 s) : Kept q0 (setFn f x s) := by
    unfold setFn
    try dsimp only
    repeat' (first | with_reducible assumption | simp only [↓kept_mk_iff])

theorem modFn_kept {q0 : State} {f : Nat} {g : FnState → FnState} {s : State} (h_s : Kept q0 s) : Kept q0 (modFn f g s) := by
    unfold modFn
    try dsimp only
    repeat' (first | with_reducible assumption | with_reducible apply setFn_kept)

theorem freshFn_kept {q0 : State} {f : Nat} {s : State} (h_s : Kept q0 s) : Kept q0 (freshFn f s) := by
    unfold freshFn
    try dsimp only
    repeat' (first | with_reducible assumption | with_reducible apply setFn_kept | with_reducible apply State.clear_kept)

theorem ringVector_kept {q0 : State} {f : Nat} {v : Nat} {s : State} (h_s : Kept q0 s) : Kept q0 (ringVector f v s) := by
    unfold ringVector
    try dsimp only
    repeat' (first | with_reducible assumption | with_reducible apply msix_kept | with_reducible apply setFn_kept | with_reducible apply kept_ite | simp only [↓kept_mk_iff] | (split <;> try dsimp only))

theorem writeEntry_kept {q0 : State} {f : Nat} {r : Ring} {c : Completion} {s : State} (h_s : Kept q0 s) : Kept q0 (writeEntry f r c s) := by
    unfold writeEntry
    try dsimp only
    repeat' (first | with_reducible assumption | (intro _; try dsimp only) | with_reducible apply State.write_kept | with_reducible apply setFn_kept | with_reducible apply ringVector_kept | with_reducible apply kept_ite | simp only [↓kept_mk_iff] | (split <;> try dsimp only))

theorem postEntry_kept {q0 : State} {f : Nat} {c : Completion} {s : State} (h_s : Kept q0 s) : Kept q0 (postEntry f c s) := by
    unfold postEntry
    try dsimp only
    repeat' (first | with_reducible assumption | with_reducible apply setFn_kept | with_reducible apply writeEntry_kept | with_reducible apply kept_ite | simp only [↓kept_mk_iff] | (split <;> try dsimp only))

theorem drainOverflow_kept {q0 : State} {f : Nat} {a1 : Nat} {a2 : State} (h_a2 : Kept q0 a2) : Kept q0 (drainOverflow f a1 a2) := by
    revert h_a2
    fun_induction drainOverflow f a1 a2 <;> intros
    all_goals repeat' (first | with_reducible assumption | with_reducible apply writeEntry_kept | with_reducible apply setFn_kept | with_reducible apply kept_ite | simp only [↓kept_mk_iff] | (split <;> try dsimp only) | with_reducible apply_assumption)

theorem drain_kept {q0 : State} {f : Nat} {s : State} (h_s : Kept q0 s) : Kept q0 (drain f s) := by
    unfold drain
    try dsimp only
    repeat' (first | with_reducible assumption | with_reducible apply drainOverflow_kept)

theorem setHandle_kept {q0 : State} {h : Nat} {r : HandleRec} {s : State} (h_s : Kept q0 s) : Kept q0 (setHandle h r s) := by
    unfold setHandle
    try dsimp only
    repeat' (first | with_reducible assumption | simp only [↓kept_mk_iff])

theorem modHandle_kept {q0 : State} {h : Nat} {f : HandleRec → HandleRec} {s : State} (h_s : Kept q0 s) : Kept q0 (modHandle h f s) := by
    unfold modHandle
    try dsimp only
    repeat' (first | with_reducible assumption | simp only [↓kept_mk_iff])

theorem issue_kept {q0 : State} {fn : Nat} {hdr : Hdr} {part : Option Nat} {kind : Nat} {op : LongOp} {s : State} (h_s : Kept q0 s) : KeptVia (fun x => x.2) q0 (issue fn hdr part kind op s) := by
    unfold issue
    try dsimp only
    repeat' (first | with_reducible assumption | with_reducible exact Kept.refl | (intro _; try dsimp only) | with_reducible apply setHandle_kept | with_reducible apply keptVia_ite | with_reducible apply keptVia_foldl | with_reducible apply kept_ite | with_reducible apply kept_foldl | with_reducible apply kept_ite_by Prod.fst | with_reducible apply kept_ite_by Prod.snd | with_reducible apply kept_foldl_fst | with_reducible apply kept_foldl_snd | simp only [↓kept_mk_iff] | (split <;> try dsimp only) | (with_reducible refine keptVia_mk ?_; try dsimp only))

theorem issue_kept_at {q0 : State} {fn : Nat} {hdr : Hdr} {part : Option Nat} {kind : Nat} {op : LongOp} {s : State} (h_s : Kept q0 s) : Kept q0 (issue fn hdr part kind op s).2 := issue_kept (q0 := q0) (fn := fn) (hdr := hdr) (part := part) (kind := kind) (op := op) (s := s) h_s

theorem issue_kept_eq {q0 : State} {fn : Nat} {hdr : Hdr} {part : Option Nat} {kind : Nat} {op : LongOp} {s : State} {v0} {v1} (he : (issue fn hdr part kind op s) = (v0, v1)) (h_s : Kept q0 s) : Kept q0 v1 := by
    have := issue_kept_at (q0 := q0) (fn := fn) (hdr := hdr) (part := part) (kind := kind) (op := op) (s := s) h_s
    rw [he] at this; exact this

theorem complete_kept {q0 : State} {h : Nat} {state : HState} {status : Nat} {result : W64} {epoch : Nat} {s : State} (h_s : Kept q0 s) : Kept q0 (complete h state status result epoch s) := by
    unfold complete
    try dsimp only
    repeat' (first | with_reducible assumption | with_reducible apply setHandle_kept | with_reducible apply postEntry_kept | with_reducible apply kept_ite | simp only [↓kept_mk_iff] | (split <;> try dsimp only))

theorem finish_kept {q0 : State} {h : Nat} {status : Nat} {result : W64} {s : State} (h_s : Kept q0 s) : Kept q0 (finish h status result s) := by
    unfold finish
    try dsimp only
    repeat' (first | with_reducible assumption | with_reducible apply complete_kept)

theorem endSilently_kept {q0 : State} {h : Nat} {s : State} (h_s : Kept q0 s) : Kept q0 (endSilently h s) := by
    unfold endSilently
    try dsimp only
    repeat' (first | with_reducible assumption | (intro _; try dsimp only) | with_reducible apply modHandle_kept | simp only [↓kept_mk_iff])

theorem reply_kept {q0 : State} {f : Nat} {opcode : Nat} {hdr : Hdr} {status : Nat} {result : W64} {handle : Nat} {data : List Byte} {s : State} (h_s : Kept q0 s) : Kept q0 (reply f opcode hdr status result handle data s) := by
    unfold reply
    try dsimp only
    repeat' (first | with_reducible assumption | (intro _; try dsimp only) | with_reducible apply State.write_kept | with_reducible apply modFn_kept | with_reducible apply msix_kept | with_reducible apply kept_ite | simp only [↓kept_mk_iff])

theorem settle_kept {q0 s : State} {f opcode : Nat} {hdr : Hdr} {r : Except Nat Ans} (h : Kept q0 s) (hb : BodyKept q0 r) :
    Kept q0 (settle f opcode hdr r s) := by
  cases r with
  | error c => exact reply_kept h
  | ok a => exact (hb.ok a rfl).2 _ (reply_kept (hb.ok a rfl).1)

theorem needQueue_kept {q0 : State} {f : Nat} {s : State} {k : Except Nat Ans} (h_s : Kept q0 s) (h_k : BodyKept q0 k) : BodyKept q0 (needQueue f s k) := by
    unfold needQueue
    try dsimp only
    repeat' (first | with_reducible assumption | (intro _; try dsimp only) | with_reducible exact bodyKept_error | with_reducible apply bodyKept_need | with_reducible apply bodyKept_ok | with_reducible apply kept_id)

theorem long_kept {q0 : State} {f : Nat} {hdr : Hdr} {part : Option Nat} {kind : Nat} {op : LongOp} {st : State} {result : W64} {after : Nat → State → State} (h_st : Kept q0 st) (h_after : ∀ u0 : Nat, ∀ u1 : State, Kept q0 u1 → Kept q0 (after u0 u1)) : BodyKept q0 (long f hdr part kind op st result after) := by
    unfold long
    try dsimp only
    repeat' (first | with_reducible assumption | (intro _; try dsimp only) | with_reducible exact bodyKept_error | with_reducible apply bodyKept_need | with_reducible apply bodyKept_ok | with_reducible apply kept_id | with_reducible apply needQueue_kept | with_reducible apply issue_kept | with_reducible apply issue_kept_at | with_reducible apply h_after)

theorem setPart_kept {q0 : State} {p : Nat} {x : Partition} {s : State} (h_s : Kept q0 s) : Kept q0 (setPart p x s) := by
    unfold setPart
    try dsimp only
    repeat' (first | with_reducible assumption | simp only [↓kept_mk_iff])

theorem modPart_kept {q0 : State} {p : Nat} {f : Partition → Partition} {s : State} (h_s : Kept q0 s) : Kept q0 (modPart p f s) := by
    unfold modPart
    try dsimp only
    repeat' (first | with_reducible assumption | simp only [↓kept_mk_iff])

theorem withPart_kept {q0 : State} {f : Nat} {hdr : Hdr} {s : State} {k : Nat → Partition → Except Nat Ans} (h_s : Kept q0 s) (h_k : ∀ u0 : Nat, ∀ u1 : Partition, BodyKept q0 (k u0 u1)) : BodyKept q0 (withPart f hdr s k) := by
    unfold withPart
    try dsimp only
    repeat' (first | with_reducible assumption | (intro _; try dsimp only) | with_reducible exact bodyKept_error | with_reducible apply bodyKept_need | with_reducible apply bodyKept_ok | with_reducible apply kept_id | with_reducible apply h_k | simp only [↓kept_mk_iff] | (split <;> try dsimp only))

theorem setCore_kept {q0 : State} {c : Nat} {x : Core} {s : State} (h_s : Kept q0 s) : Kept q0 (setCore c x s) := by
    unfold setCore
    try dsimp only
    repeat' (first | with_reducible assumption | simp only [↓kept_mk_iff])

theorem modCore_kept {q0 : State} {c : Nat} {f : Core → Core} {s : State} (h_s : Kept q0 s) : Kept q0 (modCore c f s) := by
    unfold modCore
    try dsimp only
    repeat' (first | with_reducible assumption | with_reducible apply setCore_kept)

theorem modCd_kept {q0 : State} {d : Nat} {f : Cd → Cd} {s : State} (h_s : Kept q0 s) : Kept q0 (modCd d f s) := by
    unfold modCd
    try dsimp only
    repeat' (first | with_reducible assumption | simp only [↓kept_mk_iff])

theorem modStack_kept {q0 : State} {i : Nat} {f : Stack → Stack} {s : State} (h_s : Kept q0 s) : Kept q0 (modStack i f s) := by
    unfold modStack
    try dsimp only
    repeat' (first | with_reducible assumption | simp only [↓kept_mk_iff])

theorem modFar_kept {q0 : State} {i : Nat} {f : FarPort → FarPort} {s : State} (h_s : Kept q0 s) : Kept q0 (modFar i f s) := by
    unfold modFar
    try dsimp only
    repeat' (first | with_reducible assumption | simp only [↓kept_mk_iff])

theorem setPort_kept {q0 : State} {i : Nat} {x : Port} {s : State} (h_s : Kept q0 s) : Kept q0 (setPort i x s) := by
    unfold setPort
    try dsimp only
    repeat' (first | with_reducible assumption | simp only [↓kept_mk_iff])

theorem modPort_kept {q0 : State} {i : Nat} {f : Port → Port} {s : State} (h_s : Kept q0 s) : Kept q0 (modPort i f s) := by
    unfold modPort
    try dsimp only
    repeat' (first | with_reducible assumption | with_reducible apply setPort_kept)

theorem modPair_kept {q0 : State} {i : Nat} {f : Pair → Pair} {s : State} (h_s : Kept q0 s) : Kept q0 (modPair i f s) := by
    unfold modPair
    try dsimp only
    repeat' (first | with_reducible assumption | simp only [↓kept_mk_iff])

theorem enterSafe_kept {q0 : State} {f : FaultIn} {stewardLost : Bool} {recordLost : Bool} {s : State} (h_s : Kept q0 s) : Kept q0 (enterSafe f stewardLost recordLost s) := by
    unfold enterSafe
    try dsimp only
    repeat' (first | with_reducible assumption | (intro _; try dsimp only) | with_reducible apply collectAll_kept | with_reducible apply raiseFault_kept | with_reducible apply emit_kept | with_reducible apply modPort_kept | with_reducible apply kept_foldl | simp only [↓kept_mk_iff])

/-- A message whose body keeps the queue, the tick and the canonical form keeps them. -/
theorem message_kept {s t : State} {f : Fn} {hdr : Hdr} {op : Nat} {pf : Bool} {body : Body} (h : BodyKept s (body s))
    (e : message f hdr op pf body s = .next t) : Kept s t := by
  unfold message at e
  injection e with e
  subst e
  refine kept_ite Kept.refl (kept_ite (reply_kept Kept.refl) (kept_ite (reply_kept Kept.refl) (kept_ite (reply_kept Kept.refl) ?_)))
  exact settle_kept Kept.refl h

theorem whenLive_kept {s t : State} {f : State → State} (h : Kept s (f s)) (e : whenLive f s = .next t) : Kept s t := by
  unfold whenLive at e
  injection e with e
  subst e
  exact kept_ite h Kept.refl

end Sys2Proof.Machine
end

