-- ==== Sys2Proof/Laws/KeptOperands.lean ====
section
/-!
SUPPORT. What the operations of Machine/Operands.lean leave alone (`Kept`), one lemma each.
-/
namespace Sys2Proof.Machine

theorem needDesc_kept {q0 : State} {s : State} {p : Nat} {x : Partition} {d : DescWord} {k : Except Nat Ans} (h_s : Kept q0 s) (h_k : BodyKept q0 k) : BodyKept q0 (needDesc s p x d k) := by
    unfold needDesc
    try dsimp only
    repeat' (first | with_reducible assumption | (intro _; try dsimp only) | with_reducible exact bodyKept_error | with_reducible apply bodyKept_need | with_reducible apply bodyKept_ok | with_reducible apply kept_id)

theorem needUnified_kept {q0 : State} {s : State} {p : Nat} {x : Partition} {d : DescWord} {k : Except Nat Ans} (h_s : Kept q0 s) (h_k : BodyKept q0 k) : BodyKept q0 (needUnified s p x d k) := by
    unfold needUnified
    try dsimp only
    repeat' (first | with_reducible assumption | (intro _; try dsimp only) | with_reducible exact bodyKept_error | with_reducible apply bodyKept_need | with_reducible apply bodyKept_ok | with_reducible apply kept_id)

theorem writeBits_kept {q0 : State} {s : State} {sp : Space} {addr : Nat} {b : Nat} {n : Nat} {v : Nat} (h_s : Kept q0 s) : Kept q0 (writeBits s sp addr b n v) := by
    unfold writeBits
    try dsimp only
    repeat' (first | with_reducible assumption | with_reducible apply State.write_kept)

theorem Tensor.writeCode_kept {q0 : State} {s : State} {t : Tensor} {k : Nat} {code : Nat} (h_s : Kept q0 s) : Kept q0 (Tensor.writeCode s t k code) := by
    unfold Tensor.writeCode
    try dsimp only
    repeat' (first | with_reducible assumption | with_reducible apply State.writeNat_kept | with_reducible apply writeBits_kept | with_reducible apply kept_ite)

theorem Tensor.writePart_kept {q0 : State} {s : State} {t : Tensor} {k : Nat} {bits : Nat} {v : Nat} (h_s : Kept q0 s) : Kept q0 (Tensor.writePart s t k bits v) := by
    unfold Tensor.writePart
    try dsimp only
    repeat' (first | with_reducible assumption | with_reducible apply Tensor.writeCode_kept)

theorem Tensor.writeBytes_kept {q0 : State} {s : State} {t : Tensor} {bs : List Byte} (h_s : Kept q0 s) : Kept q0 (Tensor.writeBytes s t bs) := by
    unfold Tensor.writeBytes
    try dsimp only
    repeat' (first | with_reducible assumption | (intro _; try dsimp only) | with_reducible apply Tensor.writePart_kept | with_reducible apply kept_foldl)

theorem Tensor.padRow_kept {q0 : State} {s : State} {t : Tensor} {r : Nat} (h_s : Kept q0 s) : Kept q0 (Tensor.padRow s t r) := by
    unfold Tensor.padRow
    try dsimp only
    repeat' (first | with_reducible assumption | with_reducible apply State.write_kept)

theorem Tensor.padScales_kept {q0 : State} {s : State} {t : Tensor} (h_s : Kept q0 s) : Kept q0 (Tensor.padScales s t) := by
    unfold Tensor.padScales
    try dsimp only
    repeat' (first | with_reducible assumption | (intro _; try dsimp only) | with_reducible apply State.write_kept | with_reducible apply Tensor.padRow_kept | with_reducible apply kept_ite | with_reducible apply kept_foldl)

theorem Tensor.storeBlock_kept {q0 : State} {t : Tensor} {src : Nat} {cvt : Nat} {ts : W32} {s : State} {r : Nat} {b : Nat} {k : Nat} {vs : List Val} {rs : List Nat} (h_s : Kept q0 s) : KeptVia (fun x => x.1) q0 (Tensor.storeBlock t src cvt ts s r b k vs rs) := by
    unfold Tensor.storeBlock
    try dsimp only
    repeat' (first | with_reducible assumption | (intro _; try dsimp only) | with_reducible apply Tensor.writeCode_kept | with_reducible apply State.write_kept | with_reducible apply keptVia_ite | with_reducible apply keptVia_foldl | with_reducible apply kept_ite | with_reducible apply kept_foldl | (with_reducible refine keptVia_mk ?_; try dsimp only))

theorem Tensor.storeBlock_kept_at {q0 : State} {t : Tensor} {src : Nat} {cvt : Nat} {ts : W32} {s : State} {r : Nat} {b : Nat} {k : Nat} {vs : List Val} {rs : List Nat} (h_s : Kept q0 s) : Kept q0 (Tensor.storeBlock t src cvt ts s r b k vs rs).1 := Tensor.storeBlock_kept (q0 := q0) (t := t) (src := src) (cvt := cvt) (ts := ts) (s := s) (r := r) (b := b) (k := k) (vs := vs) (rs := rs) h_s

theorem Tensor.storeBlock_kept_eq {q0 : State} {t : Tensor} {src : Nat} {cvt : Nat} {ts : W32} {s : State} {r : Nat} {b : Nat} {k : Nat} {vs : List Val} {rs : List Nat} {v0} {v1} (he : (Tensor.storeBlock t src cvt ts s r b k vs rs) = (v0, v1)) (h_s : Kept q0 s) : Kept q0 v0 := by
    have := Tensor.storeBlock_kept_at (q0 := q0) (t := t) (src := src) (cvt := cvt) (ts := ts) (s := s) (r := r) (b := b) (k := k) (vs := vs) (rs := rs) h_s
    rw [he] at this; exact this

theorem Tensor.storeFrom_kept {q0 : State} {t : Tensor} {src : Nat} {cvt : Nat} {ts : W32} {a1 : Nat} {a2 : State} {a3 : Nat} {a4 : List Val} {a5 : List Nat} (h_a2 : Kept q0 a2) : KeptVia (fun x => x.1) q0 (Tensor.storeFrom t src cvt ts a1 a2 a3 a4 a5) := by
    revert h_a2
    fun_induction Tensor.storeFrom t src cvt ts a1 a2 a3 a4 a5 <;> intros
    all_goals repeat' (first | with_reducible assumption | with_reducible apply Tensor.storeBlock_kept | with_reducible apply Tensor.storeBlock_kept_at | with_reducible apply keptVia_ite | with_reducible apply kept_ite | (with_reducible refine keptVia_mk ?_; try dsimp only) | with_reducible apply_assumption)

theorem Tensor.storeFrom_kept_at {q0 : State} {t : Tensor} {src : Nat} {cvt : Nat} {ts : W32} {a1 : Nat} {a2 : State} {a3 : Nat} {a4 : List Val} {a5 : List Nat} (h_a2 : Kept q0 a2) : Kept q0 (Tensor.storeFrom t src cvt ts a1 a2 a3 a4 a5).1 := Tensor.storeFrom_kept (q0 := q0) (t := t) (src := src) (cvt := cvt) (ts := ts) (a1 := a1) (a2 := a2) (a3 := a3) (a4 := a4) (a5 := a5) h_a2

theorem Tensor.storeFrom_kept_eq {q0 : State} {t : Tensor} {src : Nat} {cvt : Nat} {ts : W32} {a1 : Nat} {a2 : State} {a3 : Nat} {a4 : List Val} {a5 : List Nat} {v0} {v1} (he : (Tensor.storeFrom t src cvt ts a1 a2 a3 a4 a5) = (v0, v1)) (h_a2 : Kept q0 a2) : Kept q0 v0 := by
    have := Tensor.storeFrom_kept_at (q0 := q0) (t := t) (src := src) (cvt := cvt) (ts := ts) (a1 := a1) (a2 := a2) (a3 := a3) (a4 := a4) (a5 := a5) h_a2
    rw [he] at this; exact this

theorem Tensor.storeWith_kept {q0 : State} {s : State} {t : Tensor} {src : Nat} {cvt : Nat} {ts : W32} {runs : List StoreRun} (h_s : Kept q0 s) : KeptVia (fun x => x.1) q0 (Tensor.storeWith s t src cvt ts runs) := by
    unfold Tensor.storeWith
    try dsimp only
    repeat' (first | with_reducible assumption | with_reducible exact Kept.refl | (intro _; try dsimp only) | with_reducible apply Tensor.storeFrom_kept | with_reducible apply Tensor.storeFrom_kept_at | with_reducible refine Tensor.storeFrom_kept_eq ‹_› ?_ | with_reducible apply Tensor.padScales_kept | with_reducible apply keptVia_ite | with_reducible apply keptVia_foldl | with_reducible apply kept_ite | with_reducible apply kept_foldl | with_reducible apply kept_ite_by Prod.fst | with_reducible apply kept_ite_by Prod.snd | with_reducible apply kept_foldl_fst | with_reducible apply kept_foldl_snd | simp only [↓kept_mk_iff] | (split <;> try dsimp only) | (with_reducible refine keptVia_mk ?_; try dsimp only))

theorem Tensor.storeWith_kept_at {q0 : State} {s : State} {t : Tensor} {src : Nat} {cvt : Nat} {ts : W32} {runs : List StoreRun} (h_s : Kept q0 s) : Kept q0 (Tensor.storeWith s t src cvt ts runs).1 := Tensor.storeWith_kept (q0 := q0) (s := s) (t := t) (src := src) (cvt := cvt) (ts := ts) (runs := runs) h_s

theorem Tensor.storeWith_kept_eq {q0 : State} {s : State} {t : Tensor} {src : Nat} {cvt : Nat} {ts : W32} {runs : List StoreRun} {v0} {v1} (he : (Tensor.storeWith s t src cvt ts runs) = (v0, v1)) (h_s : Kept q0 s) : Kept q0 v0 := by
    have := Tensor.storeWith_kept_at (q0 := q0) (s := s) (t := t) (src := src) (cvt := cvt) (ts := ts) (runs := runs) h_s
    rw [he] at this; exact this

theorem Tensor.storeAs_kept {q0 : State} {s : State} {t : Tensor} {src : Nat} {cvt : Nat} {top : Val} {runs : List StoreRun} (h_s : Kept q0 s) : KeptVia (fun x => x.1) q0 (Tensor.storeAs s t src cvt top runs) := by
    unfold Tensor.storeAs
    try dsimp only
    repeat' (first | with_reducible assumption | with_reducible exact Kept.refl | (intro _; try dsimp only) | with_reducible apply State.writeNat_kept | with_reducible apply Tensor.storeWith_kept | with_reducible apply Tensor.storeWith_kept_at | with_reducible refine Tensor.storeWith_kept_eq ‹_› ?_ | with_reducible apply keptVia_ite | with_reducible apply keptVia_foldl | with_reducible apply kept_ite | with_reducible apply kept_foldl | with_reducible apply kept_ite_by Prod.fst | with_reducible apply kept_ite_by Prod.snd | with_reducible apply kept_foldl_fst | with_reducible apply kept_foldl_snd | simp only [↓kept_mk_iff] | (split <;> try dsimp only) | (with_reducible refine keptVia_mk ?_; try dsimp only))

theorem Tensor.storeAs_kept_at {q0 : State} {s : State} {t : Tensor} {src : Nat} {cvt : Nat} {top : Val} {runs : List StoreRun} (h_s : Kept q0 s) : Kept q0 (Tensor.storeAs s t src cvt top runs).1 := Tensor.storeAs_kept (q0 := q0) (s := s) (t := t) (src := src) (cvt := cvt) (top := top) (runs := runs) h_s

theorem Tensor.storeAs_kept_eq {q0 : State} {s : State} {t : Tensor} {src : Nat} {cvt : Nat} {top : Val} {runs : List StoreRun} {v0} {v1} (he : (Tensor.storeAs s t src cvt top runs) = (v0, v1)) (h_s : Kept q0 s) : Kept q0 v0 := by
    have := Tensor.storeAs_kept_at (q0 := q0) (s := s) (t := t) (src := src) (cvt := cvt) (top := top) (runs := runs) h_s
    rw [he] at this; exact this

theorem Tensor.storeRuns_kept {q0 : State} {s : State} {t : Tensor} {src : Nat} {cvt : Nat} {runs : List StoreRun} (h_s : Kept q0 s) : KeptVia (fun x => x.1) q0 (Tensor.storeRuns s t src cvt runs) := by
    unfold Tensor.storeRuns
    try dsimp only
    repeat' (first | with_reducible assumption | (intro _; try dsimp only) | with_reducible apply Tensor.storeAs_kept | with_reducible apply Tensor.storeAs_kept_at | (with_reducible refine keptVia_mk ?_; try dsimp only))

theorem Tensor.storeRuns_kept_at {q0 : State} {s : State} {t : Tensor} {src : Nat} {cvt : Nat} {runs : List StoreRun} (h_s : Kept q0 s) : Kept q0 (Tensor.storeRuns s t src cvt runs).1 := Tensor.storeRuns_kept (q0 := q0) (s := s) (t := t) (src := src) (cvt := cvt) (runs := runs) h_s

theorem Tensor.storeRuns_kept_eq {q0 : State} {s : State} {t : Tensor} {src : Nat} {cvt : Nat} {runs : List StoreRun} {v0} {v1} (he : (Tensor.storeRuns s t src cvt runs) = (v0, v1)) (h_s : Kept q0 s) : Kept q0 v0 := by
    have := Tensor.storeRuns_kept_at (q0 := q0) (s := s) (t := t) (src := src) (cvt := cvt) (runs := runs) h_s
    rw [he] at this; exact this

theorem Tensor.storeRange_kept {q0 : State} {s : State} {t : Tensor} {src : Nat} {cvt : Nat} {k : Nat} {rs : List Nat} {vs : List Val} (h_s : Kept q0 s) : KeptVia (fun x => x.1) q0 (Tensor.storeRange s t src cvt k rs vs) := by
    unfold Tensor.storeRange
    try dsimp only
    repeat' (first | with_reducible assumption | with_reducible apply Tensor.storeRuns_kept | with_reducible apply Tensor.storeRuns_kept_at | (with_reducible refine keptVia_mk ?_; try dsimp only))

theorem Tensor.storeRange_kept_at {q0 : State} {s : State} {t : Tensor} {src : Nat} {cvt : Nat} {k : Nat} {rs : List Nat} {vs : List Val} (h_s : Kept q0 s) : Kept q0 (Tensor.storeRange s t src cvt k rs vs).1 := Tensor.storeRange_kept (q0 := q0) (s := s) (t := t) (src := src) (cvt := cvt) (k := k) (rs := rs) (vs := vs) h_s

theorem Tensor.storeRange_kept_eq {q0 : State} {s : State} {t : Tensor} {src : Nat} {cvt : Nat} {k : Nat} {rs : List Nat} {vs : List Val} {v0} {v1} (he : (Tensor.storeRange s t src cvt k rs vs) = (v0, v1)) (h_s : Kept q0 s) : Kept q0 v0 := by
    have := Tensor.storeRange_kept_at (q0 := q0) (s := s) (t := t) (src := src) (cvt := cvt) (k := k) (rs := rs) (vs := vs) h_s
    rw [he] at this; exact this

theorem Tensor.store_kept {q0 : State} {s : State} {t : Tensor} {src : Nat} {cvt : Nat} {rs : List Nat} {vs : List Val} (h_s : Kept q0 s) : KeptVia (fun x => x.1) q0 (Tensor.store s t src cvt rs vs) := by
    unfold Tensor.store
    try dsimp only
    repeat' (first | with_reducible assumption | with_reducible apply Tensor.storeRange_kept | with_reducible apply Tensor.storeRange_kept_at | (with_reducible refine keptVia_mk ?_; try dsimp only))

theorem Tensor.store_kept_at {q0 : State} {s : State} {t : Tensor} {src : Nat} {cvt : Nat} {rs : List Nat} {vs : List Val} (h_s : Kept q0 s) : Kept q0 (Tensor.store s t src cvt rs vs).1 := Tensor.store_kept (q0 := q0) (s := s) (t := t) (src := src) (cvt := cvt) (rs := rs) (vs := vs) h_s

theorem Tensor.store_kept_eq {q0 : State} {s : State} {t : Tensor} {src : Nat} {cvt : Nat} {rs : List Nat} {vs : List Val} {v0} {v1} (he : (Tensor.store s t src cvt rs vs) = (v0, v1)) (h_s : Kept q0 s) : Kept q0 v0 := by
    have := Tensor.store_kept_at (q0 := q0) (s := s) (t := t) (src := src) (cvt := cvt) (rs := rs) (vs := vs) h_s
    rw [he] at this; exact this

end Sys2Proof.Machine
end

