-- ==== Sys2Proof/Laws/KeptActCoding.lean ====
section
/-!
SUPPORT. What the operations of Machine/ActCoding.lean leave alone (`Kept`), one lemma each.
-/
namespace Sys2Proof.Machine

theorem codeChannel_kept {q0 : State} {e : SegEnv} {src : Tensor} {inter : Option (Int × Int)} {c : Nat} {ps : List (Nat × Nat)} {s : State} (h_s : Kept q0 s) : KeptVia (fun x => x.2) q0 (codeChannel e src inter c ps s) := by
    unfold codeChannel
    try dsimp only
    repeat' (first | with_reducible assumption | (intro _; try dsimp only) | with_reducible apply State.write_kept | with_reducible apply keptVia_foldl | with_reducible apply kept_foldl | (with_reducible refine keptVia_mk ?_; try dsimp only))

theorem codeChannel_kept_at {q0 : State} {e : SegEnv} {src : Tensor} {inter : Option (Int × Int)} {c : Nat} {ps : List (Nat × Nat)} {s : State} (h_s : Kept q0 s) : Kept q0 (codeChannel e src inter c ps s).2 := codeChannel_kept (q0 := q0) (e := e) (src := src) (inter := inter) (c := c) (ps := ps) (s := s) h_s

theorem codeChannel_kept_eq {q0 : State} {e : SegEnv} {src : Tensor} {inter : Option (Int × Int)} {c : Nat} {ps : List (Nat × Nat)} {s : State} {v0} {v1} (he : (codeChannel e src inter c ps s) = (v0, v1)) (h_s : Kept q0 s) : Kept q0 v1 := by
    have := codeChannel_kept_at (q0 := q0) (e := e) (src := src) (inter := inter) (c := c) (ps := ps) (s := s) h_s
    rw [he] at this; exact this

theorem SegOut.addChan_kept {q0 : State} {o : SegOut} {c : Nat} {bins : List Bin} {kr : Nat} {s : State} (h_o : Kept q0 o.s) (h_s : Kept q0 s) : Kept q0 (SegOut.addChan o c bins kr s).s := by
    unfold SegOut.addChan
    try dsimp only
    repeat' (first | with_reducible assumption | simp only [↓kept_mk_iff])

theorem codeCb_kept {q0 : State} {e : SegEnv} {src : Tensor} {pv : Int × Int} {cb : Nat} {o : SegOut} {m : CbMode × (Int × Int)} (h_o : Kept q0 o.s) : Kept q0 (codeCb e src pv cb o m).s := by
    unfold codeCb
    try dsimp only
    repeat' (first | with_reducible assumption | (intro _; try dsimp only) | with_reducible apply State.write_kept | with_reducible apply SegOut.addChan_kept | with_reducible apply codeChannel_kept | with_reducible apply codeChannel_kept_at | with_reducible apply kept_ite | with_reducible apply kept_foldl | with_reducible refine kept_ite_by SegOut.s ?_ ?_ | with_reducible refine kept_foldl_by SegOut.s ?_ ?_ | simp only [↓kept_mk_iff] | (split <;> try dsimp only))

theorem encodeCb_kept {q0 : State} {e : SegEnv} {src : Tensor} {raw : Bool} {o : SegOut} {cb : Nat} (h_o : Kept q0 o.s) : Kept q0 (encodeCb e src raw o cb).s := by
    unfold encodeCb
    try dsimp only
    repeat' (first | with_reducible assumption | with_reducible apply codeCb_kept | with_reducible apply kept_ite | with_reducible refine kept_ite_by SegOut.s ?_ ?_ | simp only [↓kept_mk_iff])

theorem encodeWith_kept {q0 : State} {e : SegEnv} {src : Tensor} {raw : Bool} {s : State} (h_s : Kept q0 s) : Kept q0 (encodeWith e src raw s).s := by
    unfold encodeWith
    try dsimp only
    repeat' (first | with_reducible assumption | (intro _; try dsimp only) | with_reducible apply encodeCb_kept | with_reducible apply kept_foldl | with_reducible refine kept_foldl_by SegOut.s ?_ ?_)

theorem encodeSegment_kept {q0 : State} {e : SegEnv} {src : Tensor} {s : State} (h_s : Kept q0 s) : KeptVia (fun x => x.1) q0 (encodeSegment e src s) := by
    unfold encodeSegment
    try dsimp only
    repeat' (first | with_reducible assumption | with_reducible apply encodeWith_kept | with_reducible apply keptVia_ite | with_reducible apply kept_ite | with_reducible refine kept_ite_by SegOut.s ?_ ?_ | (with_reducible refine keptVia_mk ?_; try dsimp only))

theorem encodeSegment_kept_at {q0 : State} {e : SegEnv} {src : Tensor} {s : State} (h_s : Kept q0 s) : Kept q0 (encodeSegment e src s).1 := encodeSegment_kept (q0 := q0) (e := e) (src := src) (s := s) h_s

theorem encodeSegment_kept_eq {q0 : State} {e : SegEnv} {src : Tensor} {s : State} {v0} {v1} {v2} {v3} (he : (encodeSegment e src s) = (v0, v1, v2, v3)) (h_s : Kept q0 s) : Kept q0 v0 := by
    have := encodeSegment_kept_at (q0 := q0) (e := e) (src := src) (s := s) h_s
    rw [he] at this; exact this

theorem putSample_kept {q0 : State} {e : SegEnv} {dst : Tensor} {x : Nat} {y : Nat} {c : Nat} {code : Nat} {s : State} (h_s : Kept q0 s) : Kept q0 (putSample e dst x y c code s) := by
    unfold putSample
    try dsimp only
    repeat' (first | with_reducible assumption | with_reducible apply Tensor.writeCode_kept | with_reducible apply State.write_kept)

theorem rebuild_kept {q0 : State} {e : SegEnv} {dst : Tensor} {inter : Option (Int × Int)} {c : Nat} {ps : List (Nat × Nat)} {qs : List Int} {s : State} (h_s : Kept q0 s) : Kept q0 (rebuild e dst inter c ps qs s) := by
    unfold rebuild
    try dsimp only
    repeat' (first | with_reducible assumption | (intro _; try dsimp only) | with_reducible apply putSample_kept | with_reducible apply kept_foldl)

theorem decodeCb_kept {q0 : State} {e : SegEnv} {dst : Tensor} {o : SegIn} {cb : Nat} (h_o : Kept q0 o.s) : Kept q0 (decodeCb e dst o cb).s := by
    unfold decodeCb
    try dsimp only
    repeat' (first | with_reducible assumption | (intro _; try dsimp only) | with_reducible apply putSample_kept | with_reducible apply rebuild_kept | with_reducible apply kept_ite | with_reducible apply kept_foldl | with_reducible refine kept_ite_by SegIn.s ?_ ?_ | with_reducible refine kept_foldl_by SegIn.s ?_ ?_ | simp only [↓kept_mk_iff] | (split <;> try dsimp only))

theorem decodeSegment_kept {q0 : State} {e : SegEnv} {dst : Tensor} {bytes : List Byte} {s : State} (h_s : Kept q0 s) : KeptOpt (fun x => x) q0 (decodeSegment e dst bytes s) := by
    unfold decodeSegment
    try dsimp only
    repeat' (first | with_reducible assumption | (intro _; try dsimp only) | with_reducible apply decodeCb_kept | with_reducible exact keptOpt_none | with_reducible apply keptOpt_ite | with_reducible apply keptOpt_map | with_reducible apply keptOpt_some | with_reducible apply kept_ite | with_reducible apply kept_foldl | with_reducible refine kept_ite_by SegIn.s ?_ ?_ | with_reducible refine kept_foldl_by SegIn.s ?_ ?_)

theorem decodeSegment_kept_some {q0 : State} {e : SegEnv} {dst : Tensor} {bytes : List Byte} {s : State} {y} (he : (decodeSegment e dst bytes s) = some y) (h_s : Kept q0 s) : Kept q0 y := (decodeSegment_kept (q0 := q0) (e := e) (dst := dst) (bytes := bytes) (s := s) h_s).get _ he

theorem decodeSegment_kept_eq {q0 : State} {e : SegEnv} {dst : Tensor} {bytes : List Byte} {s : State} {v0} (he : (decodeSegment e dst bytes s) = some v0) (h_s : Kept q0 s) : Kept q0 v0 := (decodeSegment_kept (q0 := q0) (e := e) (dst := dst) (bytes := bytes) (s := s) h_s).get _ he

end Sys2Proof.Machine
end

