-- ==== Sys2Proof/Laws/KeptArrayCore.lean ====
section
/-!
SUPPORT. What the operations of Machine/ArrayCore.lean leave alone (`Kept`), one lemma each.
-/
namespace Sys2Proof.Machine

theorem writeRows_kept {q0 : State} {sp : Space} {first : Nat} {rows : List (List W32)} {s : State} (h_s : Kept q0 s) : Kept q0 (writeRows sp first rows s) := by
    unfold writeRows
    try dsimp only
    repeat' (first | with_reducible assumption | (intro _; try dsimp only) | with_reducible apply State.write_kept | with_reducible apply kept_foldl)

theorem writeCounts_kept {q0 : State} {count : Tensor} {dst : Tensor} {blks : List StoreBlk} {s : State} (h_s : Kept q0 s) : Kept q0 (writeCounts count dst blks s) := by
    unfold writeCounts
    try dsimp only
    repeat' (first | with_reducible assumption | (intro _; try dsimp only) | with_reducible apply State.write_kept | with_reducible apply kept_ite | with_reducible apply kept_foldl)

theorem outputStage_kept {q0 : State} {s : State} {cvt : Nat} {dst : Tensor} {seed : Nat → W64} {cols : Nat} {rows : List (List W32)} (h_s : Kept q0 s) : KeptVia (fun x => x.1) q0 (outputStage s cvt dst seed cols rows) := by
    unfold outputStage
    try dsimp only
    repeat' (first | with_reducible assumption | (intro _; try dsimp only) | with_reducible apply Tensor.storeRange_kept | with_reducible apply Tensor.storeRange_kept_at | with_reducible apply keptVia_foldl | with_reducible apply kept_foldl | (with_reducible refine keptVia_mk ?_; try dsimp only))

theorem outputStage_kept_at {q0 : State} {s : State} {cvt : Nat} {dst : Tensor} {seed : Nat → W64} {cols : Nat} {rows : List (List W32)} (h_s : Kept q0 s) : Kept q0 (outputStage s cvt dst seed cols rows).1 := outputStage_kept (q0 := q0) (s := s) (cvt := cvt) (dst := dst) (seed := seed) (cols := cols) (rows := rows) h_s

theorem outputStage_kept_eq {q0 : State} {s : State} {cvt : Nat} {dst : Tensor} {seed : Nat → W64} {cols : Nat} {rows : List (List W32)} {v0} {v1} (he : (outputStage s cvt dst seed cols rows) = (v0, v1)) (h_s : Kept q0 s) : Kept q0 v0 := by
    have := outputStage_kept_at (q0 := q0) (s := s) (cvt := cvt) (dst := dst) (seed := seed) (cols := cols) (rows := rows) h_s
    rw [he] at this; exact this

end Sys2Proof.Machine
end

