-- ==== Sys2Proof/Laws/KeptFlags.lean ====
section
/-!
SUPPORT. What the operations of Machine/Flags.lean leave alone (`Kept`), one lemma each.
-/
namespace Sys2Proof.Machine

theorem hostMistake_kept {q0 : State} {fn : Nat} {s : State} (h_s : Kept q0 s) : Kept q0 (hostMistake fn s) := by
    unfold hostMistake
    try dsimp only
    repeat' (first | with_reducible assumption | with_reducible apply devEvent_kept)

theorem settingsTrigger_kept {q0 : State} {t : Trigger} {s : State} (h_s : Kept q0 s) : Kept q0 (settingsTrigger t s) := by
    unfold settingsTrigger
    try dsimp only
    repeat' (first | with_reducible assumption | simp only [↓kept_mk_iff] | (split <;> try dsimp only))

theorem freeHalves_kept {q0 : State} {a1 : Nat} {a2 : State} (h_a2 : Kept q0 a2) : KeptVia (fun x => x.2) q0 (freeHalves a1 a2) := by
    revert h_a2
    fun_induction freeHalves a1 a2 <;> intros
    all_goals repeat' (first | with_reducible assumption | with_reducible apply takeFree_kept | with_reducible apply takeFree_kept_at | (with_reducible refine keptVia_mk ?_; try dsimp only) | with_reducible apply_assumption)

theorem freeHalves_kept_at {q0 : State} {a1 : Nat} {a2 : State} (h_a2 : Kept q0 a2) : Kept q0 (freeHalves a1 a2).2 := freeHalves_kept (q0 := q0) (a1 := a1) (a2 := a2) h_a2

theorem freeHalves_kept_eq {q0 : State} {a1 : Nat} {a2 : State} {v0} {v1} (he : (freeHalves a1 a2) = (v0, v1)) (h_a2 : Kept q0 a2) : Kept q0 v1 := by
    have := freeHalves_kept_at (q0 := q0) (a1 := a1) (a2 := a2) h_a2
    rw [he] at this; exact this

end Sys2Proof.Machine
end

