-- ==== Sys2Proof/Laws/KeptTiers.lean ====
section
/-!
SUPPORT. What the operations of Machine/Tiers.lean leave alone (`Kept`), one lemma each.
-/
namespace Sys2Proof.Machine

theorem reserve_kept {q0 : State} {p : Nat} {t : Nat} {n : Nat} {s : State} (h_s : Kept q0 s) : Kept q0 (reserve p t n s) := by
    unfold reserve
    try dsimp only
    repeat' (first | with_reducible assumption | simp only [↓kept_mk_iff])

theorem unreserve_kept {q0 : State} {p : Nat} {t : Nat} {n : Nat} {s : State} (h_s : Kept q0 s) : Kept q0 (unreserve p t n s) := by
    unfold unreserve
    try dsimp only
    repeat' (first | with_reducible assumption | simp only [↓kept_mk_iff])

theorem reserveIn_kept {q0 : State} {p : Nat} {x : Partition} {a1 : Nat} {a2 : Nat} {a3 : Nat} {a4 : State} (h_a4 : Kept q0 a4) : Kept q0 (reserveIn p x a1 a2 a3 a4) := by
    revert h_a4
    fun_induction reserveIn p x a1 a2 a3 a4 <;> intros
    all_goals repeat' (first | with_reducible assumption | (intro _; try dsimp only) | with_reducible apply reserve_kept | simp only [↓kept_mk_iff] | with_reducible apply_assumption)

theorem takeFrames_kept {q0 : State} {p : Nat} {x : Partition} {floor : Nat} {a1 a2 a3 : Nat} {a4 : State} (h_a4 : Kept q0 a4) :
    KeptOpt (fun y => y.2) q0 (takeFrames p x floor a1 a2 a3 a4) := by
  constructor
  induction a1 generalizing a2 a3 a4 with
  | zero =>
    intro y hy
    simp only [takeFrames] at hy
    split at hy <;> cases hy
    exact h_a4
  | succ n ih =>
    intro y hy
    rw [takeFrames] at hy
    split at hy
    · cases hy; exact h_a4
    split at hy
    · cases hy
    dsimp only at hy
    split at hy
    · rename_i r hr
      cases hy
      exact ih (kept_ite h_a4 (reserveIn_kept h_a4)) r hr
    · cases hy

theorem takeFrames_kept_some {q0 : State} {p : Nat} {x : Partition} {floor : Nat} {a1 : Nat} {a2 : Nat} {a3 : Nat} {a4 : State} {y} (he : (takeFrames p x floor a1 a2 a3 a4) = some y) (h_a4 : Kept q0 a4) : Kept q0 y.2 := (takeFrames_kept (q0 := q0) (p := p) (x := x) (floor := floor) (a1 := a1) (a2 := a2) (a3 := a3) (a4 := a4) h_a4).get _ he

theorem takeFrames_kept_eq {q0 : State} {p : Nat} {x : Partition} {floor : Nat} {a1 : Nat} {a2 : Nat} {a3 : Nat} {a4 : State} {v0} {v1} (he : (takeFrames p x floor a1 a2 a3 a4) = some (v0, v1)) (h_a4 : Kept q0 a4) : Kept q0 v1 := (takeFrames_kept (q0 := q0) (p := p) (x := x) (floor := floor) (a1 := a1) (a2 := a2) (a3 := a3) (a4 := a4) h_a4).get _ he

theorem pickFrame_kept {q0 : State} {p : Nat} {x : Partition} {t : Nat} {s : State} (h_s : Kept q0 s) : KeptVia (fun x => x.2) q0 (pickFrame p x t s) := by
    unfold pickFrame
    try dsimp only
    repeat' (first | with_reducible assumption | (intro _; try dsimp only) | with_reducible apply takeFree_kept | with_reducible apply takeFree_kept_at | with_reducible exact keptOpt_none | with_reducible apply keptOpt_map | with_reducible apply keptOpt_some | (with_reducible refine keptVia_mk ?_; try dsimp only))

theorem pickFrame_kept_at {q0 : State} {p : Nat} {x : Partition} {t : Nat} {s : State} (h_s : Kept q0 s) : Kept q0 (pickFrame p x t s).2 := pickFrame_kept (q0 := q0) (p := p) (x := x) (t := t) (s := s) h_s

theorem pickFrame_kept_eq {q0 : State} {p : Nat} {x : Partition} {t : Nat} {s : State} {v0} {v1} (he : (pickFrame p x t s) = (v0, v1)) (h_s : Kept q0 s) : Kept q0 v1 := by
    have := pickFrame_kept_at (q0 := q0) (p := p) (x := x) (t := t) (s := s) h_s
    rw [he] at this; exact this

theorem setEntry_kept {q0 : State} {page : Nat} {e : TierEntry} {s : State} (h_s : Kept q0 s) : Kept q0 (setEntry page e s) := by
    unfold setEntry
    try dsimp only
    repeat' (first | with_reducible assumption | simp only [↓kept_mk_iff])

theorem modEntry_kept {q0 : State} {page : Nat} {f : TierEntry → TierEntry} {s : State} (h_s : Kept q0 s) : Kept q0 (modEntry page f s) := by
    unfold modEntry
    try dsimp only
    repeat' (first | with_reducible assumption | simp only [↓kept_mk_iff])

theorem placePage_kept {q0 : State} {p : Nat} {x : Partition} {obj : Nat} {cls : Nat} {t : Nat} {page : Nat} {s : State} (h_s : Kept q0 s) : Kept q0 (placePage p x obj cls t page s) := by
    unfold placePage
    try dsimp only
    repeat' (first | with_reducible assumption | with_reducible apply pickFrame_kept | with_reducible apply pickFrame_kept_at | with_reducible apply unreserve_kept | with_reducible apply setEntry_kept | with_reducible apply State.clear_kept | simp only [↓kept_mk_iff] | (split <;> try dsimp only))

theorem servePages_kept {q0 : State} {p : Nat} {obj : Nat} {a1 : Nat} {a2 : State} (h_a2 : Kept q0 a2) : Kept q0 (servePages p obj a1 a2) := by
    revert h_a2
    fun_induction servePages p obj a1 a2 <;> intros
    all_goals repeat' (first | with_reducible assumption | (intro _; try dsimp only) | with_reducible apply modPart_kept | with_reducible apply placePage_kept | with_reducible apply kept_ite | simp only [↓kept_mk_iff] | (split <;> try dsimp only) | with_reducible apply_assumption)

theorem touchPage_kept {q0 : State} {page : Nat} {s : State} (h_s : Kept q0 s) : Kept q0 (touchPage page s) := by
    unfold touchPage
    try dsimp only
    repeat' (first | with_reducible assumption | with_reducible apply setEntry_kept | with_reducible apply kept_ite | simp only [↓kept_mk_iff] | (split <;> try dsimp only))

theorem touchPages_kept {q0 : State} {pages : List Nat} {s : State} (h_s : Kept q0 s) : Kept q0 (touchPages pages s) := by
    unfold touchPages
    try dsimp only
    repeat' (first | with_reducible assumption | (intro _; try dsimp only) | with_reducible apply touchPage_kept | with_reducible apply kept_foldl)

theorem poisonRecord_kept {q0 : State} {page : Nat} {h : Nat} {s : State} (h_s : Kept q0 s) : Kept q0 (poisonRecord page h s) := by
    unfold poisonRecord
    try dsimp only
    repeat' (first | with_reducible assumption | with_reducible apply raiseFault_kept | simp only [↓kept_mk_iff] | (split <;> try dsimp only))

theorem failAccess_kept {q0 : State} {h : Nat} {t : Nat × Nat} {s : State} (h_s : Kept q0 s) : Kept q0 (failAccess h t s) := by
    unfold failAccess
    try dsimp only
    repeat' (first | with_reducible assumption | with_reducible apply finish_kept | with_reducible apply poisonRecord_kept | with_reducible apply kept_ite)

theorem cancelMoves_kept {q0 : State} {f : Move → Bool} {s : State} (h_s : Kept q0 s) : Kept q0 (cancelMoves f s) := by
    unfold cancelMoves
    try dsimp only
    repeat' (first | with_reducible assumption | (intro _; try dsimp only) | with_reducible apply modEntry_kept | with_reducible apply unreserve_kept | with_reducible apply kept_ite | with_reducible apply kept_foldl | simp only [↓kept_mk_iff] | (split <;> try dsimp only))

theorem settleHandle_kept {q0 : State} {h : Nat} {s : State} (h_s : Kept q0 s) : Kept q0 (settleHandle h s) := by
    unfold settleHandle
    try dsimp only
    repeat' (first | with_reducible assumption | (intro _; try dsimp only) | with_reducible apply finish_kept | with_reducible apply kept_ite | simp only [↓kept_mk_iff] | (split <;> try dsimp only))

theorem fillFromBacking_kept {q0 : State} {d : DescWord} {first : Nat} {pages : Nat} {s : State} (h_s : Kept q0 s) : Kept q0 (fillFromBacking d first pages s) := by
    unfold fillFromBacking
    try dsimp only
    repeat' (first | with_reducible assumption | with_reducible apply State.write_kept)

theorem serveAlloc_kept {q0 : State} {h : Nat} {s : State} (h_s : Kept q0 s) : Kept q0 (serveAlloc h s) := by
    unfold serveAlloc
    try dsimp only
    repeat' (first | with_reducible assumption | (intro _; try dsimp only) | with_reducible apply servePages_kept | with_reducible apply finish_kept | with_reducible apply failAccess_kept | with_reducible apply touchPages_kept | with_reducible apply fillFromBacking_kept | with_reducible apply kept_ite | simp only [↓kept_mk_iff] | (split <;> try dsimp only))

theorem fillPages_kept {q0 : State} {pages : List Nat} {pattern : W32} {s : State} (h_s : Kept q0 s) : Kept q0 (fillPages pages pattern s) := by
    unfold fillPages
    try dsimp only
    repeat' (first | with_reducible assumption | (intro _; try dsimp only) | with_reducible apply modEntry_kept | with_reducible apply State.write_kept | with_reducible apply kept_foldl | simp only [↓kept_mk_iff])

theorem runFill_kept {q0 : State} {h : Nat} {obj : Nat} {first : Nat} {count : Nat} {pattern : W32} {s : State} (h_s : Kept q0 s) : Kept q0 (runFill h obj first count pattern s) := by
    unfold runFill
    try dsimp only
    repeat' (first | with_reducible assumption | (intro _; try dsimp only) | with_reducible apply finish_kept | with_reducible apply touchPages_kept | with_reducible apply fillPages_kept | with_reducible apply kept_ite | simp only [↓kept_mk_iff] | (split <;> try dsimp only))

theorem serveFill_kept {q0 : State} {h : Nat} {s : State} (h_s : Kept q0 s) : Kept q0 (serveFill h s) := by
    unfold serveFill
    try dsimp only
    repeat' (first | with_reducible assumption | with_reducible apply runFill_kept | simp only [↓kept_mk_iff] | (split <;> try dsimp only))

theorem serveAllocs_kept {q0 : State} {s : State} (h_s : Kept q0 s) : Kept q0 (serveAllocs s) := by
    unfold serveAllocs
    try dsimp only
    repeat' (first | with_reducible assumption | (intro _; try dsimp only) | with_reducible apply serveAlloc_kept | with_reducible apply serveFill_kept | with_reducible apply kept_foldl | simp only [↓kept_mk_iff] | (split <;> try dsimp only))

theorem dropMove_kept {q0 : State} {m : Move} {s : State} (h_s : Kept q0 s) : Kept q0 (dropMove m s) := by
    unfold dropMove
    try dsimp only
    repeat' (first | with_reducible assumption | (intro _; try dsimp only) | with_reducible apply cancelMoves_kept | with_reducible apply settleHandle_kept | with_reducible apply kept_ite)

theorem startMove_kept {q0 : State} {m : Move} {b : Table Nat} {s : State} (h_s : Kept q0 s) : KeptVia (fun x => x.2) q0 (startMove m b s) := by
    unfold startMove
    try dsimp only
    repeat' (first | with_reducible assumption | (intro _; try dsimp only) | with_reducible apply dropMove_kept | with_reducible apply pickFrame_kept | with_reducible apply pickFrame_kept_at | with_reducible apply unreserve_kept | with_reducible apply modEntry_kept | with_reducible apply keptVia_ite | with_reducible apply keptVia_foldl | with_reducible apply kept_ite | with_reducible apply kept_foldl | simp only [↓kept_mk_iff] | (split <;> try dsimp only) | (with_reducible refine keptVia_mk ?_; try dsimp only))

theorem startMove_kept_at {q0 : State} {m : Move} {b : Table Nat} {s : State} (h_s : Kept q0 s) : Kept q0 (startMove m b s).2 := startMove_kept (q0 := q0) (m := m) (b := b) (s := s) h_s

theorem startMove_kept_eq {q0 : State} {m : Move} {b : Table Nat} {s : State} {v0} {v1} (he : (startMove m b s) = (v0, v1)) (h_s : Kept q0 s) : Kept q0 v1 := by
    have := startMove_kept_at (q0 := q0) (m := m) (b := b) (s := s) h_s
    rw [he] at this; exact this

theorem batchBudgets_kept {q0 : State} {s : State} (h_s : Kept q0 s) : KeptVia (fun x => x.2) q0 (batchBudgets s) := by
    unfold batchBudgets
    try dsimp only
    repeat' (first | with_reducible assumption | (intro _; try dsimp only) | with_reducible apply takeFree_kept | with_reducible apply takeFree_kept_at | with_reducible apply keptVia_foldl | with_reducible apply kept_foldl | simp only [↓kept_mk_iff] | (split <;> try dsimp only) | (with_reducible refine keptVia_mk ?_; try dsimp only))

theorem batchBudgets_kept_at {q0 : State} {s : State} (h_s : Kept q0 s) : Kept q0 (batchBudgets s).2 := batchBudgets_kept (q0 := q0) (s := s) h_s

theorem batchBudgets_kept_eq {q0 : State} {s : State} {v0} {v1} (he : (batchBudgets s) = (v0, v1)) (h_s : Kept q0 s) : Kept q0 v1 := by
    have := batchBudgets_kept_at (q0 := q0) (s := s) h_s
    rw [he] at this; exact this

theorem retireDemands_kept {q0 : State} {s : State} (h_s : Kept q0 s) : Kept q0 (retireDemands s) := by
    unfold retireDemands
    try dsimp only
    repeat' (first | with_reducible assumption | (intro _; try dsimp only) | with_reducible apply recEvent_kept | with_reducible apply reserveIn_kept | with_reducible apply kept_ite | with_reducible apply kept_foldl | simp only [↓kept_mk_iff] | (split <;> try dsimp only))

theorem dropTroubled_kept {q0 : State} {s : State} (h_s : Kept q0 s) : Kept q0 (dropTroubled s) := by
    unfold dropTroubled
    try dsimp only
    repeat' (first | with_reducible assumption | (intro _; try dsimp only) | with_reducible apply finish_kept | with_reducible apply cancelMoves_kept | with_reducible apply reserve_kept | with_reducible apply kept_ite | with_reducible apply kept_foldl | simp only [↓kept_mk_iff] | (split <;> try dsimp only))

theorem migrationBatch_kept {q0 : State} {s : State} (h_s : Kept q0 s) : Kept q0 (migrationBatch s) := by
    unfold migrationBatch
    try dsimp only
    repeat' (first | with_reducible assumption | with_reducible exact Kept.refl | (intro _; try dsimp only) | with_reducible apply retireDemands_kept | with_reducible apply dropTroubled_kept | with_reducible apply batchBudgets_kept | with_reducible apply batchBudgets_kept_at | with_reducible refine batchBudgets_kept_eq ‹_› ?_ | with_reducible apply startMove_kept | with_reducible apply startMove_kept_at | with_reducible refine startMove_kept_eq ‹_› ?_ | with_reducible apply kept_ite | with_reducible apply kept_foldl | with_reducible apply kept_ite_by Prod.fst | with_reducible apply kept_ite_by Prod.snd | with_reducible apply kept_foldl_fst | with_reducible apply kept_foldl_snd | simp only [↓kept_mk_iff] | (split <;> try dsimp only))

theorem useSweep_kept {q0 : State} {s : State} (h_s : Kept q0 s) : Kept q0 (useSweep s) := by
    unfold useSweep
    try dsimp only
    repeat' (first | with_reducible assumption | (intro _; try dsimp only) | with_reducible apply kept_ite | simp only [↓kept_mk_iff])

theorem replaceDemotion_kept {q0 : State} {p : Nat} {t : Nat} {page : Nat} {s : State} (h_s : Kept q0 s) : Kept q0 (replaceDemotion p t page s) := by
    unfold replaceDemotion
    try dsimp only
    repeat' (first | with_reducible assumption | with_reducible apply startMove_kept | with_reducible apply startMove_kept_at | with_reducible apply reserve_kept | simp only [↓kept_mk_iff] | (split <;> try dsimp only))

theorem endMove_kept {q0 : State} {page : Nat} {status : Nat} {s : State} (h_s : Kept q0 s) : Kept q0 (endMove page status s) := by
    unfold endMove
    try dsimp only
    repeat' (first | with_reducible assumption | (intro _; try dsimp only) | with_reducible apply modEntry_kept | with_reducible apply finish_kept | with_reducible apply cancelMoves_kept | with_reducible apply replaceDemotion_kept | simp only [↓kept_mk_iff] | (split <;> try dsimp only))

theorem failMoves_kept {q0 : State} {page : Nat} {status : Nat} {s : State} (h_s : Kept q0 s) : Kept q0 (failMoves page status s) := by
    unfold failMoves
    try dsimp only
    repeat' (first | with_reducible assumption | (intro _; try dsimp only) | with_reducible apply finish_kept | with_reducible apply cancelMoves_kept | with_reducible apply replaceDemotion_kept | with_reducible apply kept_ite | with_reducible apply kept_foldl | simp only [↓kept_mk_iff] | (split <;> try dsimp only))

theorem dropArrived_kept {q0 : State} {page : Nat} {a1 : Nat} {a2 : State} (h_a2 : Kept q0 a2) : Kept q0 (dropArrived page a1 a2) := by
    revert h_a2
    fun_induction dropArrived page a1 a2 <;> intros
    all_goals repeat' (first | with_reducible assumption | (intro _; try dsimp only) | with_reducible apply dropMove_kept | with_reducible apply kept_ite | simp only [↓kept_mk_iff] | (split <;> try dsimp only) | with_reducible apply_assumption)

theorem heldWrites_kept {q0 : State} {p : Nat} {s : State} (h_s : Kept q0 s) : Kept q0 (heldWrites p s) := by
    unfold heldWrites
    try dsimp only
    repeat' (first | with_reducible assumption | (intro _; try dsimp only) | with_reducible apply coreWaitFree_kept | with_reducible apply kept_foldl | simp only [↓kept_mk_iff] | (split <;> try dsimp only))

theorem completeMove_kept {q0 : State} {page : Nat} {s : State} (h_s : Kept q0 s) : Kept q0 (completeMove page s) := by
    unfold completeMove
    try dsimp only
    repeat' (first | with_reducible assumption | (intro _; try dsimp only) | with_reducible apply setEntry_kept | with_reducible apply State.copyPlace_kept | with_reducible apply heldWrites_kept | with_reducible apply devEvent_kept | with_reducible apply serveAllocs_kept | with_reducible apply dropArrived_kept | with_reducible apply settleHandle_kept | with_reducible apply kept_ite | simp only [↓kept_mk_iff] | (split <;> try dsimp only))

end Sys2Proof.Machine
end

