-- ==== Sys2Proof/Laws/KeptMemoryCommands.lean ====
section
/-!
SUPPORT. What the operations of Machine/MemoryCommands.lean leave alone (`Kept`), one lemma each.
-/
namespace Sys2Proof.Machine

theorem allocBody_kept {q0 : State} {f : Nat} {hdr : Hdr} {pages : W64} {cls : W64} {readOnly : W64} {backing : DescWord} {st0 : State} (h_st0 : Kept q0 st0) : BodyKept q0 (allocBody f hdr pages cls readOnly backing st0) := by
    unfold allocBody
    try dsimp only
    repeat' (first | with_reducible assumption | (intro _; try dsimp only) | with_reducible exact bodyKept_error | with_reducible apply bodyKept_need | with_reducible apply bodyKept_have' | with_reducible apply bodyKept_ok | with_reducible apply bodyKept_ite | with_reducible apply kept_id | with_reducible apply withPart_kept | with_reducible apply takeFrames_kept | with_reducible refine takeFrames_kept_some ‹_› ?_ | with_reducible apply long_kept | with_reducible apply modPart_kept | with_reducible apply serveAlloc_kept | with_reducible apply needUnified_kept | with_reducible apply kept_ite | simp only [↓kept_mk_iff])

theorem freeObject_kept {q0 : State} {p : Nat} {obj : Nat} {o : MemObject} {s : State} (h_s : Kept q0 s) : Kept q0 (freeObject p obj o s) := by
    unfold freeObject
    try dsimp only
    repeat' (first | with_reducible assumption | (intro _; try dsimp only) | with_reducible apply cancelMoves_kept | with_reducible apply unreserve_kept | with_reducible apply modPart_kept | with_reducible apply finish_kept | with_reducible apply kept_foldl | simp only [↓kept_mk_iff])

theorem freeBody_kept {q0 : State} {f : Nat} {hdr : Hdr} {object : W64} {st0 : State} (h_st0 : Kept q0 st0) : BodyKept q0 (freeBody f hdr object st0) := by
    unfold freeBody
    try dsimp only
    repeat' (first | with_reducible assumption | (intro _; try dsimp only) | with_reducible exact bodyKept_error | with_reducible apply bodyKept_need | with_reducible apply bodyKept_have' | with_reducible apply bodyKept_ok | with_reducible apply kept_id | with_reducible apply withPart_kept | with_reducible apply serveAllocs_kept | with_reducible apply freeObject_kept | simp only [↓kept_mk_iff])

theorem moveBody_kept {q0 : State} {f : Nat} {hdr : Hdr} {p : Nat} {x : Partition} {obj : Nat} {o : MemObject} {floor : Nat} {tier : Nat} {pages : List Nat} {s : State} (h_s : Kept q0 s) : BodyKept q0 (moveBody f hdr p x obj o floor tier pages s) := by
    unfold moveBody
    try dsimp only
    repeat' (first | with_reducible assumption | (intro _; try dsimp only) | with_reducible exact bodyKept_error | with_reducible apply bodyKept_need | with_reducible apply bodyKept_have' | with_reducible apply bodyKept_ok | with_reducible apply kept_id | with_reducible apply takeFrames_kept | with_reducible refine takeFrames_kept_some ‹_› ?_ | with_reducible apply unreserve_kept | with_reducible apply long_kept | with_reducible apply finish_kept | with_reducible apply cancelMoves_kept | with_reducible apply settleHandle_kept | with_reducible apply kept_foldl | simp only [↓kept_mk_iff] | (split <;> try dsimp only))

theorem classSetBody_kept {q0 : State} {f : Nat} {hdr : Hdr} {object : W64} {cls : W64} {st0 : State} (h_st0 : Kept q0 st0) : BodyKept q0 (classSetBody f hdr object cls st0) := by
    unfold classSetBody
    try dsimp only
    repeat' (first | with_reducible assumption | (intro _; try dsimp only) | with_reducible exact bodyKept_error | with_reducible apply bodyKept_need | with_reducible apply bodyKept_have' | with_reducible apply bodyKept_ok | with_reducible apply bodyKept_ite | with_reducible apply kept_id | with_reducible apply withPart_kept | with_reducible apply modPart_kept | with_reducible apply moveBody_kept | with_reducible apply kept_ite | simp only [↓kept_mk_iff])

theorem migrateBody_kept {q0 : State} {f : Nat} {hdr : Hdr} {object : W64} {first : W64} {count : W64} {tier : W64} {st0 : State} (h_st0 : Kept q0 st0) : BodyKept q0 (migrateBody f hdr object first count tier st0) := by
    unfold migrateBody
    try dsimp only
    repeat' (first | with_reducible assumption | (intro _; try dsimp only) | with_reducible exact bodyKept_error | with_reducible apply bodyKept_need | with_reducible apply bodyKept_have' | with_reducible apply bodyKept_ok | with_reducible apply kept_id | with_reducible apply withPart_kept | with_reducible apply moveBody_kept | simp only [↓kept_mk_iff])

theorem copyElements_kept {q0 : State} {src : DescWord} {dst : DescWord} {cvt : Nat} {s : State} (h_s : Kept q0 s) : Kept q0 (copyElements src dst cvt s) := by
    unfold copyElements
    try dsimp only
    repeat' (first | with_reducible assumption | with_reducible exact Kept.refl | (intro _; try dsimp only) | with_reducible apply Tensor.writeCode_kept | with_reducible apply freeHalves_kept | with_reducible apply freeHalves_kept_at | with_reducible refine freeHalves_kept_eq ‹_› ?_ | with_reducible apply Tensor.store_kept | with_reducible apply Tensor.store_kept_at | with_reducible refine Tensor.store_kept_eq ‹_› ?_ | with_reducible apply kept_ite | with_reducible apply kept_foldl | with_reducible apply kept_ite_by Prod.fst | with_reducible apply kept_ite_by Prod.snd | with_reducible apply kept_foldl_fst | with_reducible apply kept_foldl_snd | simp only [↓kept_mk_iff] | (split <;> try dsimp only))

theorem runCopy_kept {q0 : State} {src : DescWord} {dst : DescWord} {cvt : Nat} {h : Nat} {s : State} (h_s : Kept q0 s) : Kept q0 (runCopy src dst cvt h s) := by
    unfold runCopy
    try dsimp only
    repeat' (first | with_reducible assumption | with_reducible apply failAccess_kept | with_reducible apply finish_kept | with_reducible apply touchPages_kept | with_reducible apply copyElements_kept | with_reducible apply kept_ite | simp only [↓kept_mk_iff] | (split <;> try dsimp only))

theorem serveCopies_kept {q0 : State} {s : State} (h_s : Kept q0 s) : Kept q0 (serveCopies s) := by
    unfold serveCopies
    try dsimp only
    repeat' (first | with_reducible assumption | (intro _; try dsimp only) | with_reducible apply runCopy_kept | with_reducible apply kept_foldl | simp only [↓kept_mk_iff] | (split <;> try dsimp only))

theorem copyBody_kept {q0 : State} {f : Nat} {hdr : Hdr} {src : DescWord} {dst : DescWord} {cvt : W64} {st0 : State} (h_st0 : Kept q0 st0) : BodyKept q0 (copyBody f hdr src dst cvt st0) := by
    unfold copyBody
    try dsimp only
    repeat' (first | with_reducible assumption | (intro _; try dsimp only) | with_reducible exact bodyKept_error | with_reducible apply bodyKept_need | with_reducible apply bodyKept_ok | with_reducible apply kept_id | with_reducible apply withPart_kept | with_reducible apply needUnified_kept | with_reducible apply long_kept | with_reducible apply runCopy_kept | simp only [↓kept_mk_iff])

theorem fillBody_kept {q0 : State} {f : Nat} {hdr : Hdr} {object : W64} {first : W64} {count : W64} {pattern : W64} {st0 : State} (h_st0 : Kept q0 st0) : BodyKept q0 (fillBody f hdr object first count pattern st0) := by
    unfold fillBody
    try dsimp only
    repeat' (first | with_reducible assumption | (intro _; try dsimp only) | with_reducible exact bodyKept_error | with_reducible apply bodyKept_need | with_reducible apply bodyKept_have' | with_reducible apply bodyKept_ok | with_reducible apply kept_id | with_reducible apply withPart_kept | with_reducible apply long_kept | with_reducible apply serveFill_kept | simp only [↓kept_mk_iff])

theorem queryBody_kept {q0 : State} {f : Nat} {hdr : Hdr} {object : W64} {st0 : State} (h_st0 : Kept q0 st0) : BodyKept q0 (queryBody f hdr object st0) := by
    unfold queryBody
    try dsimp only
    repeat' (first | with_reducible assumption | (intro _; try dsimp only) | with_reducible exact bodyKept_error | with_reducible apply bodyKept_need | with_reducible apply bodyKept_have' | with_reducible apply bodyKept_ok | with_reducible apply kept_id | with_reducible apply withPart_kept | simp only [↓kept_mk_iff])

theorem poolBody_kept {q0 : State} {f : Nat} {hdr : Hdr} {st0 : State} (h_st0 : Kept q0 st0) : BodyKept q0 (poolBody f hdr st0) := by
    unfold poolBody
    try dsimp only
    repeat' (first | with_reducible assumption | (intro _; try dsimp only) | with_reducible exact bodyKept_error | with_reducible apply bodyKept_need | with_reducible apply bodyKept_ok | with_reducible apply kept_id | with_reducible apply withPart_kept | simp only [↓kept_mk_iff])

theorem hostRegisterBody_kept {q0 : State} {f : Nat} {hdr : Hdr} {addrs : List W64} {st0 : State} (h_st0 : Kept q0 st0) : BodyKept q0 (hostRegisterBody f hdr addrs st0) := by
    unfold hostRegisterBody
    try dsimp only
    repeat' (first | with_reducible assumption | (intro _; try dsimp only) | with_reducible exact bodyKept_error | with_reducible apply bodyKept_need | with_reducible apply bodyKept_ok | with_reducible apply kept_id | with_reducible apply withPart_kept | with_reducible apply modPart_kept | simp only [↓kept_mk_iff])

theorem hostReleaseBody_kept {q0 : State} {f : Nat} {hdr : Hdr} {count : W64} {list : W64} {st0 : State} (h_st0 : Kept q0 st0) : BodyKept q0 (hostReleaseBody f hdr count list st0) := by
    unfold hostReleaseBody
    try dsimp only
    repeat' (first | with_reducible assumption | (intro _; try dsimp only) | with_reducible exact bodyKept_error | with_reducible apply bodyKept_need | with_reducible apply bodyKept_ok | with_reducible apply kept_id | with_reducible apply withPart_kept | with_reducible apply State.write_kept | with_reducible apply modPart_kept | simp only [↓kept_mk_iff])

theorem needRecords_kept {q0 : State} {s : State} {p : Nat} {x : Partition} {d : DescWord} {n : Nat} {k : Except Nat Ans} (h_s : Kept q0 s) (h_k : BodyKept q0 k) : BodyKept q0 (needRecords s p x d n k) := by
    unfold needRecords
    try dsimp only
    repeat' (first | with_reducible assumption | (intro _; try dsimp only) | with_reducible exact bodyKept_error | with_reducible apply bodyKept_need | with_reducible apply bodyKept_ok | with_reducible apply kept_id)

theorem writeRecords_kept {q0 : State} {d : DescWord} {n : Nat} {rs : List (List Byte)} {s : State} (h_s : Kept q0 s) : KeptVia (fun x => x.2) q0 (writeRecords d n rs s) := by
    unfold writeRecords
    try dsimp only
    repeat' (first | with_reducible assumption | with_reducible apply touchPages_kept | with_reducible apply Tensor.writeBytes_kept | (with_reducible refine keptVia_mk ?_; try dsimp only))

theorem writeRecords_kept_at {q0 : State} {d : DescWord} {n : Nat} {rs : List (List Byte)} {s : State} (h_s : Kept q0 s) : Kept q0 (writeRecords d n rs s).2 := writeRecords_kept (q0 := q0) (d := d) (n := n) (rs := rs) (s := s) h_s

theorem writeRecords_kept_eq {q0 : State} {d : DescWord} {n : Nat} {rs : List (List Byte)} {s : State} {v0} {v1} (he : (writeRecords d n rs s) = (v0, v1)) (h_s : Kept q0 s) : Kept q0 v1 := by
    have := writeRecords_kept_at (q0 := q0) (d := d) (n := n) (rs := rs) (s := s) h_s
    rw [he] at this; exact this

theorem tierMapBody_kept {q0 : State} {f : Nat} {hdr : Hdr} {first : W64} {count : W64} {dst : DescWord} {st0 : State} (h_st0 : Kept q0 st0) : BodyKept q0 (tierMapBody f hdr first count dst st0) := by
    unfold tierMapBody
    try dsimp only
    repeat' (first | with_reducible assumption | (intro _; try dsimp only) | with_reducible exact bodyKept_error | with_reducible apply bodyKept_need | with_reducible apply bodyKept_ok | with_reducible apply kept_id | with_reducible apply needRecords_kept | with_reducible apply long_kept | with_reducible apply finish_kept | with_reducible apply writeRecords_kept | with_reducible apply writeRecords_kept_at | simp only [↓kept_mk_iff] | (split <;> try dsimp only))

theorem tierSetBody_kept {q0 : State} {mode : W64} {shares : List W64} {darnLimit : W64} {st0 : State} (h_st0 : Kept q0 st0) : BodyKept q0 (tierSetBody mode shares darnLimit st0) := by
    unfold tierSetBody
    try dsimp only
    repeat' (first | with_reducible assumption | (intro _; try dsimp only) | with_reducible exact bodyKept_error | with_reducible apply bodyKept_need | with_reducible apply bodyKept_ok | with_reducible apply kept_id | with_reducible apply settingsTrigger_kept | with_reducible apply darnLimit_kept | simp only [↓kept_mk_iff])

end Sys2Proof.Machine
end

