-- ==== Sys2Proof/Laws/KeptVector.lean ====
section
/-!
SUPPORT. What the operations of Machine/Vector.lean leave alone (`Kept`), one lemma each.
-/
namespace Sys2Proof.Machine

theorem vStore_kept {q0 : State} {e : VEnv} {w : VInstr} {src : Nat} {vals : List Val} {v : VState} {lanes : Option (List Nat)} (h_v : Kept q0 v.s) : Kept q0 (vStore e w src vals v lanes).s := by
    unfold vStore
    try dsimp only
    repeat' (first | with_reducible assumption | with_reducible apply Tensor.store_kept | with_reducible apply Tensor.store_kept_at | simp only [↓kept_mk_iff] | (split <;> try dsimp only))

theorem vElement_kept {q0 : State} {e : VEnv} {w : VInstr} {v : VState} (h_v : Kept q0 v.s) : Kept q0 (vElement e w v).s := by
    unfold vElement
    try dsimp only
    repeat' (first | with_reducible assumption | (intro _; try dsimp only) | with_reducible apply vStore_kept | with_reducible apply kept_ite | with_reducible apply kept_foldl | with_reducible refine kept_ite_by VState.s ?_ ?_ | with_reducible refine kept_foldl_by VState.s ?_ ?_ | simp only [↓kept_mk_iff] | (split <;> try dsimp only))

theorem vReduce_kept {q0 : State} {e : VEnv} {w : VInstr} {v : VState} (h_v : Kept q0 v.s) : Kept q0 (vReduce e w v).s := by
    unfold vReduce
    try dsimp only
    repeat' (first | with_reducible assumption | (intro _; try dsimp only) | with_reducible apply vStore_kept | with_reducible apply kept_ite | with_reducible apply kept_foldl | with_reducible refine kept_ite_by VState.s ?_ ?_ | with_reducible refine kept_foldl_by VState.s ?_ ?_ | simp only [↓kept_mk_iff] | (split <;> try dsimp only))

theorem vScan_kept {q0 : State} {e : VEnv} {w : VInstr} {v : VState} (h_v : Kept q0 v.s) : Kept q0 (vScan e w v).s := by
    unfold vScan
    try dsimp only
    repeat' (first | with_reducible assumption | (intro _; try dsimp only) | with_reducible apply vStore_kept | with_reducible apply kept_ite | with_reducible apply kept_foldl | with_reducible refine kept_ite_by VState.s ?_ ?_ | with_reducible refine kept_foldl_by VState.s ?_ ?_ | simp only [↓kept_mk_iff] | (split <;> try dsimp only))

theorem vTopk_kept {q0 : State} {e : VEnv} {w : VInstr} {v : VState} (h_v : Kept q0 v.s) : Kept q0 (vTopk e w v).s := by
    unfold vTopk
    try dsimp only
    repeat' (first | with_reducible assumption | (intro _; try dsimp only) | with_reducible apply vStore_kept | with_reducible apply Tensor.store_kept | with_reducible apply Tensor.store_kept_at | simp only [↓kept_mk_iff] | (split <;> try dsimp only))

theorem vStoreFill_kept {q0 : State} {e : VEnv} {w : VInstr} {src : Nat} {vals : List (Option Val)} {v : VState} {lanes : Option (List Nat)} (h_v : Kept q0 v.s) : Kept q0 (vStoreFill e w src vals v lanes).s := by
    unfold vStoreFill
    try dsimp only
    repeat' (first | with_reducible assumption | (intro _; try dsimp only) | with_reducible apply vStore_kept | with_reducible apply Tensor.writeCode_kept | with_reducible apply kept_ite | with_reducible apply kept_foldl | with_reducible refine kept_ite_by VState.s ?_ ?_ | with_reducible refine kept_foldl_by VState.s ?_ ?_ | simp only [↓kept_mk_iff] | (split <;> try dsimp only))

theorem countFilled_kept {q0 : State} {w : VInstr} {n : Nat} {v : VState} (h_v : Kept q0 v.s) : Kept q0 (countFilled w n v).s := by
    unfold countFilled
    try dsimp only
    repeat' (first | with_reducible assumption | with_reducible apply kept_ite | with_reducible refine kept_ite_by VState.s ?_ ?_ | simp only [↓kept_mk_iff])

theorem vGather_kept {q0 : State} {e : VEnv} {w : VInstr} {v : VState} (h_v : Kept q0 v.s) : Kept q0 (vGather e w v).s := by
    unfold vGather
    try dsimp only
    repeat' (first | with_reducible assumption | (intro _; try dsimp only) | with_reducible apply vStoreFill_kept | with_reducible apply countFilled_kept | with_reducible apply kept_ite | with_reducible refine kept_ite_by VState.s ?_ ?_ | simp only [↓kept_mk_iff] | (split <;> try dsimp only))

theorem vScatter_kept {q0 : State} {e : VEnv} {w : VInstr} {add : Bool} {v : VState} (h_v : Kept q0 v.s) : Kept q0 (vScatter e w add v).s := by
    unfold vScatter
    try dsimp only
    repeat' (first | with_reducible assumption | (intro _; try dsimp only) | with_reducible apply vStore_kept | with_reducible apply countFilled_kept | with_reducible apply kept_ite | with_reducible apply kept_foldl | with_reducible refine kept_ite_by VState.s ?_ ?_ | with_reducible refine kept_foldl_by VState.s ?_ ?_ | simp only [↓kept_mk_iff] | (split <;> try dsimp only))

theorem vOnehot_kept {q0 : State} {e : VEnv} {w : VInstr} {v : VState} (h_v : Kept q0 v.s) : Kept q0 (vOnehot e w v).s := by
  unfold vOnehot
  split
  · exact countFilled_kept (vStoreFill_kept h_v)
  · exact h_v

theorem vCompact_kept {q0 : State} {e : VEnv} {w : VInstr} {v : VState} (h_v : Kept q0 v.s) : Kept q0 (vCompact e w v).s := by
    unfold vCompact
    try dsimp only
    repeat' (first | with_reducible assumption | (intro _; try dsimp only) | with_reducible apply vStoreFill_kept | with_reducible apply kept_ite | with_reducible refine kept_ite_by VState.s ?_ ?_ | simp only [↓kept_mk_iff] | (split <;> try dsimp only))

theorem vTranspose_kept {q0 : State} {e : VEnv} {w : VInstr} {v : VState} (h_v : Kept q0 v.s) : Kept q0 (vTranspose e w v).s := by
    unfold vTranspose
    try dsimp only
    repeat' (first | with_reducible assumption | (intro _; try dsimp only) | with_reducible apply vStore_kept | with_reducible apply kept_ite | with_reducible refine kept_ite_by VState.s ?_ ?_ | simp only [↓kept_mk_iff] | (split <;> try dsimp only))

theorem vNorm_kept {q0 : State} {e : VEnv} {w : VInstr} {v : VState} (h_v : Kept q0 v.s) : Kept q0 (vNorm e w v).s := by
    unfold vNorm
    try dsimp only
    repeat' (first | with_reducible assumption | (intro _; try dsimp only) | with_reducible apply vStore_kept | with_reducible apply kept_foldl | with_reducible refine kept_foldl_by VState.s ?_ ?_ | simp only [↓kept_mk_iff] | (split <;> try dsimp only))

theorem vXent_kept {q0 : State} {e : VEnv} {w : VInstr} {v : VState} (h_v : Kept q0 v.s) : Kept q0 (vXent e w v).s := by
    unfold vXent
    try dsimp only
    repeat' (first | with_reducible assumption | (intro _; try dsimp only) | with_reducible apply vStoreFill_kept | with_reducible apply countFilled_kept | with_reducible apply kept_ite | with_reducible apply kept_foldl | with_reducible refine kept_ite_by VState.s ?_ ?_ | with_reducible refine kept_foldl_by VState.s ?_ ?_ | simp only [↓kept_mk_iff] | (split <;> try dsimp only))

theorem vInstr_kept {q0 : State} {e : VEnv} {w : VInstr} {v : VState} (h_v : Kept q0 v.s) : Kept q0 (vInstr e w v).s := by
    unfold vInstr
    try dsimp only
    repeat' (first | with_reducible assumption | with_reducible apply vElement_kept | with_reducible apply vReduce_kept | with_reducible apply vScan_kept | with_reducible apply vTopk_kept | with_reducible apply vGather_kept | with_reducible apply vScatter_kept | with_reducible apply vOnehot_kept | with_reducible apply vCompact_kept | with_reducible apply vTranspose_kept | with_reducible apply vXent_kept | with_reducible apply vNorm_kept | with_reducible apply kept_ite | with_reducible refine kept_ite_by VState.s ?_ ?_ | simp only [↓kept_mk_iff])

end Sys2Proof.Machine
end

