-- ==== Sys2Proof/Laws/KeptSteps.lean ====
section
/-!
SUPPORT. What the operations of Machine/Steps.lean leave alone (`Kept`), one lemma each.
-/
namespace Sys2Proof.Machine

theorem setStep_kept {q0 : State} {h : Nat} {st : Step} {s : State} (h_s : Kept q0 s) : Kept q0 (setStep h st s) := by
    unfold setStep
    try dsimp only
    repeat' (first | with_reducible assumption | (intro _; try dsimp only) | with_reducible apply modPart_kept | simp only [↓kept_mk_iff])

theorem modStep_kept {q0 : State} {h : Nat} {f : Step → Step} {s : State} (h_s : Kept q0 s) : Kept q0 (modStep h f s) := by
    unfold modStep
    try dsimp only
    repeat' (first | with_reducible assumption | (intro _; try dsimp only) | with_reducible apply modPart_kept | simp only [↓kept_mk_iff])

theorem modJob_kept {q0 : State} {p : Nat} {j : Nat} {f : Job → Job} {s : State} (h_s : Kept q0 s) : Kept q0 (modJob p j f s) := by
    unfold modJob
    try dsimp only
    repeat' (first | with_reducible assumption | (intro _; try dsimp only) | with_reducible apply modPart_kept | simp only [↓kept_mk_iff])

theorem modLane_kept {q0 : State} {c : Nat} {l : Nat} {f : LaneState → LaneState} {s : State} (h_s : Kept q0 s) : Kept q0 (modLane c l f s) := by
    unfold modLane
    try dsimp only
    repeat' (first | with_reducible assumption | (intro _; try dsimp only) | with_reducible apply modCore_kept | simp only [↓kept_mk_iff])

theorem setSreg_kept {q0 : State} {c : Nat} {i : Nat} {v : W64} {s : State} (h_s : Kept q0 s) : Kept q0 (setSreg c i v s) := by
    unfold setSreg
    try dsimp only
    repeat' (first | with_reducible assumption | (intro _; try dsimp only) | with_reducible apply modCore_kept | simp only [↓kept_mk_iff])

theorem modMarks_kept {q0 : State} {h : Nat} {c : Nat} {f : RowMarks → RowMarks} {s : State} (h_s : Kept q0 s) : Kept q0 (modMarks h c f s) := by
    unfold modMarks
    try dsimp only
    repeat' (first | with_reducible assumption | (intro _; try dsimp only) | with_reducible apply modStep_kept | simp only [↓kept_mk_iff] | (split <;> try dsimp only))

theorem protectRows_kept {q0 : State} {h : Nat} {c : Nat} {rows : List Nat} {s : State} (h_s : Kept q0 s) : Kept q0 (protectRows h c rows s) := by
    unfold protectRows
    try dsimp only
    repeat' (first | with_reducible assumption | (intro _; try dsimp only) | with_reducible apply modCore_kept | with_reducible apply modMarks_kept | with_reducible apply State.write_kept | with_reducible apply kept_ite | with_reducible apply kept_foldl | simp only [↓kept_mk_iff])

theorem protectTensor_kept {q0 : State} {h : Nat} {t : Tensor} {s : State} (h_s : Kept q0 s) : Kept q0 (protectTensor h t s) := by
    unfold protectTensor
    try dsimp only
    repeat' (first | with_reducible assumption | with_reducible apply protectRows_kept | with_reducible apply kept_ite)

theorem joinRows_kept {q0 : State} {h : Nat} {c : Nat} {acc : Nat} {rows : List Nat} {s : State} (h_s : Kept q0 s) : Kept q0 (joinRows h c acc rows s) := by
    unfold joinRows
    try dsimp only
    repeat' (first | with_reducible assumption | (intro _; try dsimp only) | with_reducible apply modMarks_kept | with_reducible apply modCore_kept | with_reducible apply kept_ite | simp only [↓kept_mk_iff])

theorem mapRows_kept {q0 : State} {c : Nat} {rows : List Nat} {was : List (List Byte)} {s : State} (h_s : Kept q0 s) : Kept q0 (mapRows c rows was s) := by
    unfold mapRows
    try dsimp only
    repeat' (first | with_reducible assumption | (intro _; try dsimp only) | with_reducible apply modCore_kept | with_reducible apply kept_ite | with_reducible apply kept_foldl | simp only [↓kept_mk_iff])

end Sys2Proof.Machine
end

