-- ==== Sys2Proof/Laws/KeptCodecWork.lean ====
section
/-!
SUPPORT. What the operations of Machine/CodecWork.lean leave alone (`Kept`), one lemma each.
-/
namespace Sys2Proof.Machine

theorem modSession_kept {q0 : State} {p : Nat} {n : Nat} {f : Session → Session} {s : State} (h_s : Kept q0 s) : Kept q0 (modSession p n f s) := by
    unfold modSession
    try dsimp only
    repeat' (first | with_reducible assumption | (intro _; try dsimp only) | with_reducible apply modPart_kept | simp only [↓kept_mk_iff])

theorem startWait_kept {q0 : State} {p : Nat} {n : Nat} {s : State} (h_s : Kept q0 s) : Kept q0 (startWait p n s) := by
    unfold startWait
    try dsimp only
    repeat' (first | with_reducible assumption | (intro _; try dsimp only) | with_reducible apply modSession_kept | with_reducible apply kept_ite | with_reducible apply kept_foldl | simp only [↓kept_mk_iff])

theorem withSession_kept {q0 : State} {s : State} {p : Nat} {n : Nat} {k : Session → Except Nat Ans} (h_s : Kept q0 s) (h_k : ∀ u0 : Session, BodyKept q0 (k u0)) : BodyKept q0 (withSession s p n k) := by
    unfold withSession
    try dsimp only
    repeat' (first | with_reducible assumption | (intro _; try dsimp only) | with_reducible exact bodyKept_error | with_reducible apply bodyKept_need | with_reducible apply bodyKept_ok | with_reducible apply bodyKept_ite | with_reducible apply kept_id | with_reducible apply h_k | with_reducible apply kept_ite | simp only [↓kept_mk_iff] | (split <;> try dsimp only))

end Sys2Proof.Machine
end

