-- ==== Sys2Proof/Laws/KeptKvOps.lean ====
section
/-!
SUPPORT. What the operations of Machine/KvOps.lean leave alone (`Kept`), one lemma each.
-/
namespace Sys2Proof.Machine

theorem modSpace_kept {q0 : State} {p : Nat} {sp : Nat} {f : KvSpace → KvSpace} {s : State} (h_s : Kept q0 s) : Kept q0 (modSpace p sp f s) := by
    unfold modSpace
    try dsimp only
    repeat' (first | with_reducible assumption | (intro _; try dsimp only) | with_reducible apply modPart_kept | simp only [↓kept_mk_iff])

theorem showControl_kept {q0 : State} {p : Nat} {sp : Nat} {seqs : List Nat} {pages : List Nat} {s : State} (h_s : Kept q0 s) : Kept q0 (showControl p sp seqs pages s) := by
    unfold showControl
    try dsimp only
    repeat' (first | with_reducible assumption | (intro _; try dsimp only) | with_reducible apply touchPages_kept | with_reducible apply State.writeNat_kept | with_reducible apply State.write_kept | with_reducible apply State.clear_kept | with_reducible apply kept_foldl | simp only [↓kept_mk_iff] | (split <;> try dsimp only))

theorem freePage_kept {q0 : State} {p : Nat} {sp : Nat} {id : Nat} {s : State} (h_s : Kept q0 s) : Kept q0 (freePage p sp id s) := by
    unfold freePage
    try dsimp only
    repeat' (first | with_reducible assumption | (intro _; try dsimp only) | with_reducible apply modSpace_kept | with_reducible apply showControl_kept | with_reducible apply kept_ite | simp only [↓kept_mk_iff])

theorem evict_kept {q0 : State} {i : Nat} {s : State} (h_s : Kept q0 s) : KeptVia (fun x => x.2) q0 (evict i s) := by
    unfold evict
    try dsimp only
    repeat' (first | with_reducible assumption | (intro _; try dsimp only) | with_reducible apply devEvent_kept | with_reducible apply freePage_kept | with_reducible apply keptVia_foldl | with_reducible apply kept_foldl | simp only [↓kept_mk_iff] | (split <;> try dsimp only) | (with_reducible refine keptVia_mk ?_; try dsimp only))

theorem evict_kept_at {q0 : State} {i : Nat} {s : State} (h_s : Kept q0 s) : Kept q0 (evict i s).2 := evict_kept (q0 := q0) (i := i) (s := s) h_s

theorem evict_kept_eq {q0 : State} {i : Nat} {s : State} {v0} {v1} (he : (evict i s) = (v0, v1)) (h_s : Kept q0 s) : Kept q0 v1 := by
    have := evict_kept_at (q0 := q0) (i := i) (s := s) h_s
    rw [he] at this; exact this

theorem dropRef_kept {q0 : State} {p : Nat} {sp : Nat} {id : Nat} {s : State} (h_s : Kept q0 s) : Kept q0 (dropRef p sp id s) := by
    unfold dropRef
    try dsimp only
    repeat' (first | with_reducible assumption | with_reducible apply modSpace_kept | with_reducible apply showControl_kept | with_reducible apply freePage_kept | with_reducible apply kept_ite | simp only [↓kept_mk_iff] | (split <;> try dsimp only))

theorem takeFreePage_kept {q0 : State} {p : Nat} {sp : Nat} {tier : Nat} {s : State} (h_s : Kept q0 s) : KeptOpt (fun x => x.2) q0 (takeFreePage p sp tier s) := by
    unfold takeFreePage
    try dsimp only
    repeat' (first | with_reducible assumption | (intro _; try dsimp only) | with_reducible apply takeFree_kept | with_reducible apply takeFree_kept_at | with_reducible apply showControl_kept | with_reducible apply modSpace_kept | with_reducible exact keptOpt_none | with_reducible apply keptOpt_ite | with_reducible apply keptOpt_bind | with_reducible apply keptOpt_some | with_reducible apply keptVia_ite | with_reducible apply kept_ite | (with_reducible refine keptVia_mk ?_; try dsimp only))

theorem takeFreePage_kept_some {q0 : State} {p : Nat} {sp : Nat} {tier : Nat} {s : State} {y} (he : (takeFreePage p sp tier s) = some y) (h_s : Kept q0 s) : Kept q0 y.2 := (takeFreePage_kept (q0 := q0) (p := p) (sp := sp) (tier := tier) (s := s) h_s).get _ he

theorem takeFreePage_kept_eq {q0 : State} {p : Nat} {sp : Nat} {tier : Nat} {s : State} {v0} {v1} (he : (takeFreePage p sp tier s) = some (v0, v1)) (h_s : Kept q0 s) : Kept q0 v1 := (takeFreePage_kept (q0 := q0) (p := p) (sp := sp) (tier := tier) (s := s) h_s).get _ he

theorem takePage_kept {q0 : State} {p : Nat} {sp : Nat} {permit : BitVec 3} {s : State} (h_s : Kept q0 s) : KeptOpt (fun x => x.2) q0 (takePage p sp permit s) := by
    unfold takePage
    try dsimp only
    repeat' (first | with_reducible assumption | (intro _; try dsimp only) | with_reducible apply takeFreePage_kept | with_reducible refine takeFreePage_kept_some ‹_› ?_ | with_reducible apply evict_kept | with_reducible apply evict_kept_at | with_reducible exact keptOpt_none | with_reducible apply keptOpt_ite | with_reducible apply keptOpt_findSome | with_reducible apply keptOpt_some | with_reducible apply keptVia_ite | with_reducible apply kept_ite | simp only [↓kept_mk_iff] | (split <;> try dsimp only) | with_reducible refine KeptOpt.get (keptOpt_findSome ?_) _ ‹_ = some _› | (with_reducible refine keptVia_mk ?_; try dsimp only))

theorem takePage_kept_some {q0 : State} {p : Nat} {sp : Nat} {permit : BitVec 3} {s : State} {y} (he : (takePage p sp permit s) = some y) (h_s : Kept q0 s) : Kept q0 y.2 := (takePage_kept (q0 := q0) (p := p) (sp := sp) (permit := permit) (s := s) h_s).get _ he

theorem takePage_kept_eq {q0 : State} {p : Nat} {sp : Nat} {permit : BitVec 3} {s : State} {v0} {v1} (he : (takePage p sp permit s) = some (v0, v1)) (h_s : Kept q0 s) : Kept q0 v1 := (takePage_kept (q0 := q0) (p := p) (sp := sp) (permit := permit) (s := s) h_s).get _ he

theorem takePages_kept {q0 : State} {p : Nat} {sp : Nat} {permit : BitVec 3} {a1 : Nat} {a2 : State} (h_a2 : Kept q0 a2) : KeptOpt (fun x => x.2) q0 (takePages p sp permit a1 a2) := by
    revert h_a2
    fun_induction takePages p sp permit a1 a2 <;> intros
    all_goals repeat' (first | with_reducible assumption | (intro _; try dsimp only) | with_reducible apply takePage_kept | with_reducible refine takePage_kept_some ‹_› ?_ | with_reducible exact keptOpt_none | with_reducible apply keptOpt_map | with_reducible apply keptOpt_some | simp only [↓kept_mk_iff] | (split <;> try dsimp only) | with_reducible refine KeptOpt.get ?_ _ ‹_ = some _› | (with_reducible refine keptVia_mk ?_; try dsimp only) | with_reducible apply_assumption)

theorem takePages_kept_some {q0 : State} {p : Nat} {sp : Nat} {permit : BitVec 3} {a1 : Nat} {a2 : State} {y} (he : (takePages p sp permit a1 a2) = some y) (h_a2 : Kept q0 a2) : Kept q0 y.2 := (takePages_kept (q0 := q0) (p := p) (sp := sp) (permit := permit) (a1 := a1) (a2 := a2) h_a2).get _ he

theorem takePages_kept_eq {q0 : State} {p : Nat} {sp : Nat} {permit : BitVec 3} {a1 : Nat} {a2 : State} {v0} {v1} (he : (takePages p sp permit a1 a2) = some (v0, v1)) (h_a2 : Kept q0 a2) : Kept q0 v1 := (takePages_kept (q0 := q0) (p := p) (sp := sp) (permit := permit) (a1 := a1) (a2 := a2) h_a2).get _ he

theorem reserveSeq_kept {q0 : State} {p : Nat} {sp : Nat} {seq : Nat} {n : Nat} {permit : BitVec 3} {s : State} (h_s : Kept q0 s) : KeptOpt (fun x => x.2) q0 (reserveSeq p sp seq n permit s) := by
    unfold reserveSeq
    try dsimp only
    repeat' (first | with_reducible assumption | (intro _; try dsimp only) | with_reducible apply takePages_kept | with_reducible refine takePages_kept_some ‹_› ?_ | with_reducible apply modSpace_kept | with_reducible apply showControl_kept | with_reducible exact keptOpt_none | with_reducible apply keptOpt_ite | with_reducible apply keptOpt_bind | with_reducible apply keptOpt_map | with_reducible apply keptOpt_some | with_reducible apply keptVia_ite | with_reducible apply kept_ite | simp only [↓kept_mk_iff] | (with_reducible refine keptVia_mk ?_; try dsimp only))

theorem reserveSeq_kept_some {q0 : State} {p : Nat} {sp : Nat} {seq : Nat} {n : Nat} {permit : BitVec 3} {s : State} {y} (he : (reserveSeq p sp seq n permit s) = some y) (h_s : Kept q0 s) : Kept q0 y.2 := (reserveSeq_kept (q0 := q0) (p := p) (sp := sp) (seq := seq) (n := n) (permit := permit) (s := s) h_s).get _ he

theorem reserveSeq_kept_eq {q0 : State} {p : Nat} {sp : Nat} {seq : Nat} {n : Nat} {permit : BitVec 3} {s : State} {v0} {v1} (he : (reserveSeq p sp seq n permit s) = some (v0, v1)) (h_s : Kept q0 s) : Kept q0 v1 := (reserveSeq_kept (q0 := q0) (p := p) (sp := sp) (seq := seq) (n := n) (permit := permit) (s := s) h_s).get _ he

theorem needSeq_kept {q0 : State} {k : KvSpace} {seq : Nat} {c : KvSeq → Except Nat Ans} (h_c : ∀ u0 : KvSeq, BodyKept q0 (c u0)) : BodyKept q0 (needSeq k seq c) := by
    unfold needSeq
    try dsimp only
    repeat' (first | with_reducible assumption | (intro _; try dsimp only) | with_reducible exact bodyKept_error | with_reducible apply bodyKept_need | with_reducible apply bodyKept_have' | with_reducible apply bodyKept_ok | with_reducible apply kept_id | with_reducible apply h_c)

theorem copyOnAppend_kept {q0 : State} {k : KvSpace} {q : KvSeq} {st : SeqStage} {s : State} (h_s : Kept q0 s) : Kept q0 (copyOnAppend k q st s) := by
    unfold copyOnAppend
    try dsimp only
    repeat' (first | with_reducible assumption | (intro _; try dsimp only) | with_reducible apply State.write_kept | with_reducible apply kept_foldl | simp only [↓kept_mk_iff] | (split <;> try dsimp only))

theorem appendRows_kept {q0 : State} {k : KvSpace} {len : Nat} {table : List Nat} {layer : Nat} {n : Nat} {kv : Nat → Nat → Nat → Nat} {s : State} (h_s : Kept q0 s) : Kept q0 (appendRows k len table layer n kv s) := by
    unfold appendRows
    try dsimp only
    repeat' (first | with_reducible assumption | (intro _; try dsimp only) | with_reducible apply State.write_kept | with_reducible apply kept_foldl)

theorem prefixWay_kept {q0 : State} {h : W64} {s : State} (h_s : Kept q0 s) : KeptOpt (fun x => x.2) q0 (prefixWay h s) := by
    unfold prefixWay
    try dsimp only
    repeat' (first | with_reducible assumption | (intro _; try dsimp only) | with_reducible apply evict_kept | with_reducible apply evict_kept_at | with_reducible exact keptOpt_none | with_reducible apply keptOpt_some | simp only [↓kept_mk_iff] | (split <;> try dsimp only) | (with_reducible refine keptVia_mk ?_; try dsimp only))

theorem prefixWay_kept_some {q0 : State} {h : W64} {s : State} {y} (he : (prefixWay h s) = some y) (h_s : Kept q0 s) : Kept q0 y.2 := (prefixWay_kept (q0 := q0) (h := h) (s := s) h_s).get _ he

theorem prefixWay_kept_eq {q0 : State} {h : W64} {s : State} {v0} {v1} (he : (prefixWay h s) = some (v0, v1)) (h_s : Kept q0 s) : Kept q0 v1 := (prefixWay_kept (q0 := q0) (h := h) (s := s) h_s).get _ he

theorem insertPrefix_kept {q0 : State} {p : Nat} {sp : Nat} {owner : Nat} {k : KvSpace} {st : SeqStage} {b : Nat} {s : State} (h_s : Kept q0 s) : KeptVia (fun x => x.2) q0 (insertPrefix p sp owner k st b s) := by
    unfold insertPrefix
    try dsimp only
    repeat' (first | with_reducible assumption | (intro _; try dsimp only) | with_reducible apply devEvent_kept | with_reducible apply prefixWay_kept | with_reducible refine prefixWay_kept_some ‹_› ?_ | with_reducible apply modSpace_kept | with_reducible apply keptVia_ite | with_reducible apply kept_ite | simp only [↓kept_mk_iff] | (split <;> try dsimp only) | (with_reducible refine keptVia_mk ?_; try dsimp only))

theorem insertPrefix_kept_at {q0 : State} {p : Nat} {sp : Nat} {owner : Nat} {k : KvSpace} {st : SeqStage} {b : Nat} {s : State} (h_s : Kept q0 s) : Kept q0 (insertPrefix p sp owner k st b s).2 := insertPrefix_kept (q0 := q0) (p := p) (sp := sp) (owner := owner) (k := k) (st := st) (b := b) (s := s) h_s

theorem insertPrefix_kept_eq {q0 : State} {p : Nat} {sp : Nat} {owner : Nat} {k : KvSpace} {st : SeqStage} {b : Nat} {s : State} {v0} {v1} (he : (insertPrefix p sp owner k st b s) = (v0, v1)) (h_s : Kept q0 s) : Kept q0 v1 := by
    have := insertPrefix_kept_at (q0 := q0) (p := p) (sp := sp) (owner := owner) (k := k) (st := st) (b := b) (s := s) h_s
    rw [he] at this; exact this

theorem absorbTags_kept {q0 : State} {p : Nat} {sp : Nat} {owner : Nat} {k : KvSpace} {len : Nat} {tags : List W64} {st : SeqStage} {s : State} (h_s : Kept q0 s) : KeptVia (fun x => x.2) q0 (absorbTags p sp owner k len tags st s) := by
    unfold absorbTags
    try dsimp only
    repeat' (first | with_reducible assumption | (intro _; try dsimp only) | with_reducible apply insertPrefix_kept | with_reducible apply insertPrefix_kept_at | with_reducible apply keptVia_ite | with_reducible apply keptVia_foldl | with_reducible apply kept_ite | with_reducible apply kept_foldl | simp only [↓kept_mk_iff] | (with_reducible refine keptVia_mk ?_; try dsimp only))

theorem absorbTags_kept_at {q0 : State} {p : Nat} {sp : Nat} {owner : Nat} {k : KvSpace} {len : Nat} {tags : List W64} {st : SeqStage} {s : State} (h_s : Kept q0 s) : Kept q0 (absorbTags p sp owner k len tags st s).2 := absorbTags_kept (q0 := q0) (p := p) (sp := sp) (owner := owner) (k := k) (len := len) (tags := tags) (st := st) (s := s) h_s

theorem absorbTags_kept_eq {q0 : State} {p : Nat} {sp : Nat} {owner : Nat} {k : KvSpace} {len : Nat} {tags : List W64} {st : SeqStage} {s : State} {v0} {v1} (he : (absorbTags p sp owner k len tags st s) = (v0, v1)) (h_s : Kept q0 s) : Kept q0 v1 := by
    have := absorbTags_kept_at (q0 := q0) (p := p) (sp := sp) (owner := owner) (k := k) (len := len) (tags := tags) (st := st) (s := s) h_s
    rw [he] at this; exact this

theorem commitPrefix_kept {q0 : State} {p : Nat} {sp : Nat} {i : Nat} {s : State} (h_s : Kept q0 s) : Kept q0 (commitPrefix p sp i s) := by
    unfold commitPrefix
    try dsimp only
    repeat' (first | with_reducible assumption | (intro _; try dsimp only) | with_reducible apply devEvent_kept | with_reducible apply modSpace_kept | with_reducible apply kept_ite | simp only [↓kept_mk_iff] | (split <;> try dsimp only))

theorem keepPage_kept {q0 : State} {p : Nat} {sp : Nat} {id : Nat} {s : State} (h_s : Kept q0 s) : Kept q0 (keepPage p sp id s) := by
    unfold keepPage
    try dsimp only
    repeat' (first | with_reducible assumption | (intro _; try dsimp only) | with_reducible apply modSpace_kept | with_reducible apply kept_ite | simp only [↓kept_mk_iff])

theorem publishSeq_kept {q0 : State} {p : Nat} {st : SeqStage} {s : State} (h_s : Kept q0 s) : Kept q0 (publishSeq p st s) := by
    unfold publishSeq
    try dsimp only
    repeat' (first | with_reducible assumption | (intro _; try dsimp only) | with_reducible apply keepPage_kept | with_reducible apply dropRef_kept | with_reducible apply modSpace_kept | with_reducible apply commitPrefix_kept | with_reducible apply showControl_kept | with_reducible apply kept_ite | with_reducible apply kept_foldl | simp only [↓kept_mk_iff] | (split <;> try dsimp only))

theorem discardSeq_kept {q0 : State} {p : Nat} {st : SeqStage} {s : State} (h_s : Kept q0 s) : Kept q0 (discardSeq p st s) := by
    unfold discardSeq
    try dsimp only
    repeat' (first | with_reducible assumption | (intro _; try dsimp only) | with_reducible apply freePage_kept | with_reducible apply modSpace_kept | with_reducible apply showControl_kept | with_reducible apply kept_ite | with_reducible apply kept_foldl | simp only [↓kept_mk_iff])

theorem loseKvPages_kept {q0 : State} {page : Nat} {s : State} (h_s : Kept q0 s) : Kept q0 (loseKvPages page s) := by
    unfold loseKvPages
    try dsimp only
    repeat' (first | with_reducible assumption | (intro _; try dsimp only) | with_reducible apply modSpace_kept | with_reducible apply showControl_kept | with_reducible apply kept_foldl | simp only [↓kept_mk_iff])

theorem replaceLost_kept {q0 : State} {p : Nat} {st : SeqStage} {s : State} (h_s : Kept q0 s) : KeptVia (fun x => x.2) q0 (replaceLost p st s) := by
    unfold replaceLost
    try dsimp only
    repeat' (first | with_reducible assumption | (intro _; try dsimp only) | with_reducible apply takeFreePage_kept | with_reducible refine takeFreePage_kept_some ‹_› ?_ | with_reducible exact keptOpt_none | with_reducible apply keptVia_ite | with_reducible apply keptVia_foldl | with_reducible apply kept_ite | with_reducible apply kept_foldl | simp only [↓kept_mk_iff] | (split <;> try dsimp only) | with_reducible refine KeptOpt.get (keptOpt_findSome ?_) _ ‹_ = some _› | (with_reducible refine keptVia_mk ?_; try dsimp only))

theorem replaceLost_kept_at {q0 : State} {p : Nat} {st : SeqStage} {s : State} (h_s : Kept q0 s) : Kept q0 (replaceLost p st s).2 := replaceLost_kept (q0 := q0) (p := p) (st := st) (s := s) h_s

theorem replaceLost_kept_eq {q0 : State} {p : Nat} {st : SeqStage} {s : State} {v0} {v1} (he : (replaceLost p st s) = (v0, v1)) (h_s : Kept q0 s) : Kept q0 v1 := by
    have := replaceLost_kept_at (q0 := q0) (p := p) (st := st) (s := s) h_s
    rw [he] at this; exact this

end Sys2Proof.Machine
end

