-- ==== Sys2Proof/Laws/KeptPelotonWords.lean ====
section
/-!
SUPPORT. What the operations of Machine/PelotonWords.lean leave alone (`Kept`), one lemma each.
-/
namespace Sys2Proof.Machine

theorem modPel_kept {q0 : State} {p : Nat} {n : Nat} {f : Peloton → Peloton} {s : State} (h_s : Kept q0 s) : Kept q0 (modPel p n f s) := by
    unfold modPel
    try dsimp only
    repeat' (first | with_reducible assumption | (intro _; try dsimp only) | with_reducible apply modPart_kept | simp only [↓kept_mk_iff])

theorem dropMsg_kept {q0 : State} {p : Nat} {n : Nat} {m : CollMsg} {s : State} (h_s : Kept q0 s) : Kept q0 (dropMsg p n m s) := by
    unfold dropMsg
    try dsimp only
    repeat' (first | with_reducible assumption | (intro _; try dsimp only) | with_reducible apply modPel_kept | simp only [↓kept_mk_iff])

end Sys2Proof.Machine
end

