-- ==== Sys2Proof/Laws/KeptWindows.lean ====
section
/-!
SUPPORT. What the operations of Machine/Windows.lean leave alone (`Kept`), one lemma each.
-/
namespace Sys2Proof.Machine

theorem putWindow_kept {q0 : State} {h : Nat} {cvt : Nat} {dst : Tensor} {o : WinOut} {part : List (Nat × List Val)} {s : State} (h_s : Kept q0 s) : KeptVia (fun x => x.1) q0 (putWindow h cvt dst o part s) := by
    unfold putWindow
    try dsimp only
    repeat' (first | with_reducible assumption | (intro _; try dsimp only) | with_reducible apply protectTensor_kept | with_reducible apply Tensor.storeAs_kept | with_reducible apply Tensor.storeAs_kept_at | with_reducible apply Tensor.storeWith_kept | with_reducible apply Tensor.storeWith_kept_at | with_reducible apply keptVia_ite | with_reducible apply kept_ite | (with_reducible refine keptVia_mk ?_; try dsimp only))

theorem putWindow_kept_at {q0 : State} {h : Nat} {cvt : Nat} {dst : Tensor} {o : WinOut} {part : List (Nat × List Val)} {s : State} (h_s : Kept q0 s) : Kept q0 (putWindow h cvt dst o part s).1 := putWindow_kept (q0 := q0) (h := h) (cvt := cvt) (dst := dst) (o := o) (part := part) (s := s) h_s

theorem putWindow_kept_eq {q0 : State} {h : Nat} {cvt : Nat} {dst : Tensor} {o : WinOut} {part : List (Nat × List Val)} {s : State} {v0} {v1} (he : (putWindow h cvt dst o part s) = (v0, v1)) (h_s : Kept q0 s) : Kept q0 v0 := by
    have := putWindow_kept_at (q0 := q0) (h := h) (cvt := cvt) (dst := dst) (o := o) (part := part) (s := s) h_s
    rw [he] at this; exact this

theorem cutWindow_kept {q0 : State} {h : Nat} {c : Nat} {l : Nat} {x : WindowStitch} {s : State} (h_s : Kept q0 s) : Kept q0 (cutWindow h c l x s) := by
    unfold cutWindow
    try dsimp only
    repeat' (first | with_reducible assumption | with_reducible apply takeFree_kept | with_reducible apply takeFree_kept_at | with_reducible apply putWindow_kept | with_reducible apply putWindow_kept_at | simp only [↓kept_mk_iff] | (split <;> try dsimp only))

end Sys2Proof.Machine
end

