-- ==== Sys2Proof/Laws/KeptPairs.lean ====
section
/-!
SUPPORT. What the operations of Machine/Pairs.lean leave alone (`Kept`), one lemma each.
-/
namespace Sys2Proof.Machine

theorem putStageBytes_kept {q0 : State} {s : State} {h : Nat} {a : AWord} {off : Nat} {room : Nat} {bs : List Byte} (h_s : Kept q0 s) : Kept q0 (putStageBytes s h a off room bs) := by
    unfold putStageBytes
    try dsimp only
    repeat' (first | with_reducible assumption | with_reducible apply State.write_kept | simp only [↓kept_mk_iff] | (split <;> try dsimp only))

theorem stageChunk_kept {q0 : State} {h : Nat} {a : AWord} {w : Nat} {hop : Nat} {bs : List Byte} {s : State} (h_s : Kept q0 s) : Kept q0 (stageChunk h a w hop bs s) := by
    unfold stageChunk
    try dsimp only
    repeat' (first | with_reducible assumption | with_reducible apply putStageBytes_kept)

theorem stageKeys_kept {q0 : State} {h : Nat} {a : AWord} {ks : Keys} {pair : Nat} {kb : Nat} {s : State} (h_s : Kept q0 s) : Kept q0 (stageKeys h a ks pair kb s) := by
    unfold stageKeys
    try dsimp only
    repeat' (first | with_reducible assumption | with_reducible apply putStageBytes_kept)

theorem stageRows_kept {q0 : State} {h : Nat} {a : AWord} {pair : Nat} {i : Nat} {rows : List (List Byte)} {s : State} (h_s : Kept q0 s) : Kept q0 (stageRows h a pair i rows s) := by
    unfold stageRows
    try dsimp only
    repeat' (first | with_reducible assumption | (intro _; try dsimp only) | with_reducible apply putStageBytes_kept | with_reducible apply kept_foldl)

theorem stageVector_kept {q0 : State} {h : Nat} {a : AWord} {pair : Nat} {o : PairOut} {s : State} (h_s : Kept q0 s) : Kept q0 (stageVector h a pair o s) := by
    unfold stageVector
    try dsimp only
    repeat' (first | with_reducible assumption | with_reducible apply putStageBytes_kept | with_reducible apply stageRows_kept)

theorem stageSums_kept {q0 : State} {h : Nat} {a : AWord} {pair : Nat} {o : PairOut} {s : State} (h_s : Kept q0 s) : Kept q0 (stageSums h a pair o s) := by
    unfold stageSums
    try dsimp only
    repeat' (first | with_reducible assumption | (intro _; try dsimp only) | with_reducible apply stageRows_kept)

theorem cutWalk_kept {q0 : State} {h : Nat} {c : Nat} {l : Nat} {b : Nat} {s : State} (h_s : Kept q0 s) : Kept q0 (cutWalk h c l b s) := by
    unfold cutWalk
    try dsimp only
    repeat' (first | with_reducible assumption | (intro _; try dsimp only) | with_reducible apply takeFree_kept | with_reducible apply takeFree_kept_at | with_reducible apply putStageBytes_kept | with_reducible apply stageRows_kept | with_reducible apply kept_ite | simp only [↓kept_mk_iff] | (split <;> try dsimp only))

end Sys2Proof.Machine
end

