-- ==== Sys2Proof/Laws/KeptLanes.lean ====
section
/-!
SUPPORT. What the operations of Machine/Lanes.lean leave alone (`Kept`), one lemma each.
-/
namespace Sys2Proof.Machine

theorem issueAct_kept {q0 : State} {h : Nat} {c : Nat} {b : Nat} {w : ActWord} {s : State} (h_s : Kept q0 s) : Kept q0 (issueAct h c b w s) := by
    unfold issueAct
    try dsimp only
    repeat' (first | with_reducible assumption | (intro _; try dsimp only) | with_reducible apply startWait_kept | with_reducible apply modPart_kept | with_reducible apply kept_ite | simp only [↓kept_mk_iff] | (split <;> try dsimp only))

theorem queueFrame_kept {q0 : State} {p : Nat} {n : Nat} {buffer : Nat} {time : W64} {force : Bool} {s : State} (h_s : Kept q0 s) : Kept q0 (queueFrame p n buffer time force s) := by
    unfold queueFrame
    try dsimp only
    repeat' (first | with_reducible assumption | (intro _; try dsimp only) | with_reducible apply startWait_kept | with_reducible apply modSession_kept | simp only [↓kept_mk_iff])

theorem issueFrame_kept {q0 : State} {h : Nat} {ws : List W32} {s : State} (h_s : Kept q0 s) : KeptOpt (fun x => x) q0 (issueFrame h ws s) := by
    unfold issueFrame
    try dsimp only
    repeat' (first | with_reducible assumption | (intro _; try dsimp only) | with_reducible apply queueFrame_kept | with_reducible exact keptOpt_none | with_reducible apply keptOpt_ite | with_reducible apply keptOpt_some | with_reducible apply kept_ite | simp only [↓kept_mk_iff] | (split <;> try dsimp only))

theorem issueFrame_kept_some {q0 : State} {h : Nat} {ws : List W32} {s : State} {y} (he : (issueFrame h ws s) = some y) (h_s : Kept q0 s) : Kept q0 y := (issueFrame_kept (q0 := q0) (h := h) (ws := ws) (s := s) h_s).get _ he

theorem issueFrame_kept_eq {q0 : State} {h : Nat} {ws : List W32} {s : State} {v0} (he : (issueFrame h ws s) = some v0) (h_s : Kept q0 s) : Kept q0 v0 := (issueFrame_kept (q0 := q0) (h := h) (ws := ws) (s := s) h_s).get _ he

theorem addResidency_kept {q0 : State} {c : Nat} {r : Residency} {s : State} (h_s : Kept q0 s) : Kept q0 (addResidency c r s) := by
    unfold addResidency
    try dsimp only
    repeat' (first | with_reducible assumption | (intro _; try dsimp only) | with_reducible apply modCore_kept | with_reducible apply kept_ite | simp only [↓kept_mk_iff])

theorem fenceStall_kept {q0 : State} {c : Nat} {counter : Nat} {waited : Nat} {met : List (Nat × Option (Nat × W32))} {s : State} (h_s : Kept q0 s) : Kept q0 (fenceStall c counter waited met s) := by
    unfold fenceStall
    try dsimp only
    repeat' (first | with_reducible assumption | (intro _; try dsimp only) | with_reducible apply coreEvent_kept | with_reducible apply modCore_kept | with_reducible apply addResidency_kept | with_reducible apply kept_foldl | simp only [↓kept_mk_iff])

theorem loadWeights_kept {q0 : State} {h : Nat} {c : Nat} {n : Nat} {a : ArrayStitch} {s : State} (h_s : Kept q0 s) : Kept q0 (loadWeights h c n a s) := by
    unfold loadWeights
    try dsimp only
    repeat' (first | with_reducible assumption | (intro _; try dsimp only) | with_reducible apply modCore_kept | with_reducible apply kept_ite | simp only [↓kept_mk_iff] | (split <;> try dsimp only))

theorem startWeights_kept {q0 : State} {h : Nat} {c : Nat} {n : Nat} {a : ArrayStitch} {s : State} (h_s : Kept q0 s) : Kept q0 (startWeights h c n a s) := by
    unfold startWeights
    try dsimp only
    repeat' (first | with_reducible assumption | (intro _; try dsimp only) | with_reducible apply modCore_kept | with_reducible apply loadWeights_kept | with_reducible apply kept_ite | simp only [↓kept_mk_iff])

theorem startStitch_kept {q0 : State} {c : Nat} {l : Nat} {n : Nat} {e : Entry} {s : State} (h_s : Kept q0 s) : Kept q0 (startStitch c l n e s) := by
    unfold startStitch
    try dsimp only
    repeat' (first | with_reducible assumption | (intro _; try dsimp only) | with_reducible apply startWeights_kept | with_reducible apply modLane_kept | simp only [↓kept_mk_iff] | (split <;> try dsimp only))

theorem openWindow_kept {q0 : State} {c : Nat} {n : Nat} {s : State} (h_s : Kept q0 s) : Kept q0 (openWindow c n s) := by
    unfold openWindow
    try dsimp only
    repeat' (first | with_reducible assumption | (intro _; try dsimp only) | with_reducible apply modCore_kept | simp only [↓kept_mk_iff] | (split <;> try dsimp only))

theorem openStem_kept {q0 : State} {d : Nat} {s : State} (h_s : Kept q0 s) : Kept q0 (openStem d s) := by
    unfold openStem
    try dsimp only
    repeat' (first | with_reducible assumption | with_reducible apply openWindow_kept | with_reducible apply kept_ite | simp only [↓kept_mk_iff] | (split <;> try dsimp only))

theorem settleLane_kept {q0 : State} {c : Nat} {l : Nat} {a1 : Nat} {a2 : State} (h_a2 : Kept q0 a2) : Kept q0 (settleLane c l a1 a2) := by
    revert h_a2
    fun_induction settleLane c l a1 a2 <;> intros
    all_goals repeat' (first | with_reducible assumption | (intro _; try dsimp only) | with_reducible apply modLane_kept | with_reducible apply modCore_kept | with_reducible apply issueAct_kept | with_reducible apply issueFrame_kept | with_reducible refine issueFrame_kept_some ‹_› ?_ | with_reducible apply openStem_kept | with_reducible apply modCd_kept | with_reducible apply startStitch_kept | with_reducible apply openWindow_kept | with_reducible apply kept_ite | simp only [↓kept_mk_iff] | (split <;> try dsimp only) | with_reducible apply_assumption)

theorem settleOthers_kept {q0 : State} {c : Nat} {l : Nat} {s : State} (h_s : Kept q0 s) : Kept q0 (settleOthers c l s) := by
    unfold settleOthers
    try dsimp only
    repeat' (first | with_reducible assumption | (intro _; try dsimp only) | with_reducible apply settleLane_kept | with_reducible apply kept_ite | with_reducible apply kept_foldl)

theorem wakeStem_kept {q0 : State} {d : Nat} {s : State} (h_s : Kept q0 s) : Kept q0 (wakeStem d s) := by
    unfold wakeStem
    try dsimp only
    repeat' (first | with_reducible assumption | (intro _; try dsimp only) | with_reducible apply openStem_kept | with_reducible apply settleLane_kept | with_reducible apply kept_ite | with_reducible apply kept_foldl | simp only [↓kept_mk_iff] | (split <;> try dsimp only))

theorem leaveStem_kept {q0 : State} {c : Nat} {s : State} (h_s : Kept q0 s) : Kept q0 (leaveStem c s) := by
    unfold leaveStem
    try dsimp only
    repeat' (first | with_reducible assumption | (intro _; try dsimp only) | with_reducible apply modCore_kept | with_reducible apply modCd_kept | with_reducible apply kept_ite | simp only [↓kept_mk_iff])

theorem passEntry_kept {q0 : State} {c : Nat} {l : Nat} {s : State} (h_s : Kept q0 s) : Kept q0 (passEntry c l s) := by
    unfold passEntry
    try dsimp only
    repeat' (first | with_reducible assumption | (intro _; try dsimp only) | with_reducible apply modLane_kept | with_reducible apply settleOthers_kept | with_reducible apply settleLane_kept | simp only [↓kept_mk_iff])

theorem jumpEntry_kept {q0 : State} {c : Nat} {l : Nat} {n : Nat} {s : State} (h_s : Kept q0 s) : Kept q0 (jumpEntry c l n s) := by
    unfold jumpEntry
    try dsimp only
    repeat' (first | with_reducible assumption | (intro _; try dsimp only) | with_reducible apply modLane_kept | with_reducible apply settleOthers_kept | with_reducible apply settleLane_kept | simp only [↓kept_mk_iff])

theorem armCores_kept {q0 : State} {h : Nat} {s : State} (h_s : Kept q0 s) : Kept q0 (armCores h s) := by
    unfold armCores
    try dsimp only
    repeat' (first | with_reducible assumption | (intro _; try dsimp only) | with_reducible apply loadWeights_kept | with_reducible apply modCore_kept | with_reducible apply kept_foldl | simp only [↓kept_mk_iff] | (split <;> try dsimp only))

theorem markSlot_kept {q0 : State} {f : Nat} {i : Nat} {loaded : Bool} {s : State} (h_s : Kept q0 s) : Kept q0 (markSlot f i loaded s) := by
    unfold markSlot
    try dsimp only
    repeat' (first | with_reducible assumption | with_reducible apply setFn_kept | simp only [↓kept_mk_iff])

theorem takeRegs_kept {q0 : State} {h : Nat} {s : State} (h_s : Kept q0 s) : Kept q0 (takeRegs h s) := by
    unfold takeRegs
    try dsimp only
    repeat' (first | with_reducible assumption | (intro _; try dsimp only) | with_reducible apply kept_ite | simp only [↓kept_mk_iff])

theorem armSlots_kept {q0 : State} {s : State} (h_s : Kept q0 s) : Kept q0 (armSlots s) := by
    unfold armSlots
    try dsimp only
    repeat' (first | with_reducible assumption | (intro _; try dsimp only) | with_reducible apply markSlot_kept | with_reducible apply armCores_kept | with_reducible apply kept_ite | with_reducible apply kept_foldl | simp only [↓kept_mk_iff] | (split <;> try dsimp only))

theorem takeBoundary_kept {q0 : State} {c : Nat} {s : State} (h_s : Kept q0 s) : Kept q0 (takeBoundary c s) := by
    unfold takeBoundary
    try dsimp only
    repeat' (first | with_reducible assumption | with_reducible apply leaveStem_kept | with_reducible apply wakeStem_kept | with_reducible apply armSlots_kept | with_reducible apply setCore_kept | with_reducible apply kept_ite | simp only [↓kept_mk_iff] | (split <;> try dsimp only))

theorem takePart_kept {q0 : State} {t : Tensor} {n : Nat} {from' : State} {s : State} (h_from' : Kept q0 from') (h_s : Kept q0 s) : Kept q0 (takePart t n from' s) := by
    unfold takePart
    try dsimp only
    repeat' (first | with_reducible assumption | (intro _; try dsimp only) | with_reducible apply Tensor.writeCode_kept | with_reducible apply kept_foldl)

theorem cutVector_kept {q0 : State} {h : Nat} {c : Nat} {l : Nat} {n : Nat} {is : List VInstr} {s : State} (h_s : Kept q0 s) : Kept q0 (cutVector h c l n is s) := by
    unfold cutVector
    try dsimp only
    repeat' (first | with_reducible assumption | (intro _; try dsimp only) | with_reducible apply protectTensor_kept | with_reducible apply takeFree_kept | with_reducible apply takeFree_kept_at | with_reducible apply vInstr_kept | with_reducible apply takePart_kept | with_reducible apply kept_ite | with_reducible apply kept_foldl | with_reducible refine kept_ite_by VState.s ?_ ?_ | with_reducible refine kept_foldl_by VState.s ?_ ?_ | simp only [↓kept_mk_iff] | (split <;> try dsimp only))

theorem leaveParts_kept {q0 : State} {c : Nat} {s : State} (h_s : Kept q0 s) : Kept q0 (leaveParts c s) := by
    unfold leaveParts
    try dsimp only
    repeat' (first | with_reducible assumption | (intro _; try dsimp only) | with_reducible apply cutVector_kept | with_reducible apply cutWindow_kept | with_reducible apply cutWalk_kept | with_reducible apply kept_ite | with_reducible apply kept_foldl | simp only [↓kept_mk_iff] | (split <;> try dsimp only))

theorem cutStitches_kept {q0 : State} {c : Nat} {s : State} (h_s : Kept q0 s) : Kept q0 (cutStitches c s) := by
    unfold cutStitches
    try dsimp only
    repeat' (first | with_reducible assumption | (intro _; try dsimp only) | with_reducible apply leaveStem_kept | with_reducible apply leaveParts_kept | with_reducible apply coreEvent_kept | with_reducible apply setCore_kept | with_reducible apply kept_ite | simp only [↓kept_mk_iff])

theorem stopCore_kept {q0 : State} {k : StopKind} {c : Nat} {s : State} (h_s : Kept q0 s) : Kept q0 (stopCore k c s) := by
    unfold stopCore
    try dsimp only
    repeat' (first | with_reducible assumption | with_reducible apply setCore_kept | with_reducible apply cutStitches_kept | with_reducible apply takeBoundary_kept | with_reducible apply kept_ite | simp only [↓kept_mk_iff] | (split <;> try dsimp only))

theorem stopStep_kept {q0 : State} {k : StopKind} {h : Nat} {s : State} (h_s : Kept q0 s) : Kept q0 (stopStep k h s) := by
    unfold stopStep
    try dsimp only
    repeat' (first | with_reducible assumption | (intro _; try dsimp only) | with_reducible apply stopCore_kept | with_reducible apply kept_foldl)

theorem releaseCores_kept {q0 : State} {h : Nat} {s : State} (h_s : Kept q0 s) : Kept q0 (releaseCores h s) := by
    unfold releaseCores
    try dsimp only
    repeat' (first | with_reducible assumption | (intro _; try dsimp only) | with_reducible apply armSlots_kept | with_reducible apply kept_ite | simp only [↓kept_mk_iff])

theorem closeWindow_kept {q0 : State} {c : Nat} {n : Nat} {s : State} (h_s : Kept q0 s) : Kept q0 (closeWindow c n s) := by
    unfold closeWindow
    try dsimp only
    repeat' (first | with_reducible assumption | (intro _; try dsimp only) | with_reducible apply takeFree_kept | with_reducible apply takeFree_kept_at | with_reducible apply setCore_kept | with_reducible apply modJob_kept | with_reducible apply recEvent_kept | with_reducible apply modStep_kept | with_reducible apply kept_ite | simp only [↓kept_mk_iff] | (split <;> try dsimp only))

theorem atBoundary_kept {q0 : State} {c : Nat} {s : State} (h_s : Kept q0 s) : Kept q0 (atBoundary c s) := by
    unfold atBoundary
    try dsimp only
    repeat' (first | with_reducible assumption | with_reducible apply cutStitches_kept | with_reducible apply takeBoundary_kept | with_reducible apply kept_ite | simp only [↓kept_mk_iff] | (split <;> try dsimp only))

end Sys2Proof.Machine
end

