-- ==== Sys2Proof/Laws/KeptLinks.lean ====
section
/-!
SUPPORT. What the operations of Machine/Links.lean leave alone (`Kept`), one lemma each.
-/
namespace Sys2Proof.Machine

theorem pumpPort_kept {q0 : State} {i : Nat} {a1 : Nat} {a2 : State} (h_a2 : Kept q0 a2) : Kept q0 (pumpPort i a1 a2) := by
    revert h_a2
    fun_induction pumpPort i a1 a2 <;> intros
    all_goals repeat' (first | with_reducible assumption | (intro _; try dsimp only) | with_reducible apply emit_kept | with_reducible apply setPort_kept | with_reducible apply kept_ite | simp only [↓kept_mk_iff] | (split <;> try dsimp only) | with_reducible apply_assumption)

theorem pump_kept {q0 : State} {i : Nat} {s : State} (h_s : Kept q0 s) : Kept q0 (pump i s) := by
    unfold pump
    try dsimp only
    repeat' (first | with_reducible assumption | with_reducible apply pumpPort_kept)

theorem sendMsg_kept {q0 : State} {i : Nat} {type : Nat} {vc : Nat} {m : MsgHead} {body : List Byte} {s : State} (h_s : Kept q0 s) : Kept q0 (sendMsg i type vc m body s) := by
    unfold sendMsg
    try dsimp only
    repeat' (first | with_reducible assumption | (intro _; try dsimp only) | with_reducible apply pump_kept | with_reducible apply modPort_kept | simp only [↓kept_mk_iff])

theorem sendControl_kept {q0 : State} {i : Nat} {mtype : Nat} {dst : Nat} {body : List Byte} {s : State} (h_s : Kept q0 s) : Kept q0 (sendControl i mtype dst body s) := by
    unfold sendControl
    try dsimp only
    repeat' (first | with_reducible assumption | with_reducible apply sendMsg_kept)

theorem sendIdle_kept {q0 : State} {i : Nat} {v : Nat} {n : Nat} {s : State} (h_s : Kept q0 s) : Kept q0 (sendIdle i v n s) := by
    unfold sendIdle
    try dsimp only
    repeat' (first | with_reducible assumption | with_reducible apply emit_kept)

theorem returnCredits_kept {q0 : State} {i : Nat} {s : State} (h_s : Kept q0 s) : Kept q0 (returnCredits i s) := by
    unfold returnCredits
    try dsimp only
    repeat' (first | with_reducible assumption | (intro _; try dsimp only) | with_reducible apply sendIdle_kept | with_reducible apply modPort_kept | with_reducible apply kept_ite | with_reducible apply kept_foldl | simp only [↓kept_mk_iff])

theorem replayAll_kept {q0 : State} {i : Nat} {s : State} (h_s : Kept q0 s) : Kept q0 (replayAll i s) := by
    unfold replayAll
    try dsimp only
    repeat' (first | with_reducible assumption | (intro _; try dsimp only) | with_reducible apply emit_kept | with_reducible apply kept_ite | with_reducible apply kept_foldl)

theorem beginRetrain_kept {q0 : State} {i : Nat} {s : State} (h_s : Kept q0 s) : Kept q0 (beginRetrain i s) := by
    unfold beginRetrain
    try dsimp only
    repeat' (first | with_reducible assumption | (intro _; try dsimp only) | with_reducible apply modPort_kept | simp only [↓kept_mk_iff])

theorem replayOnce_kept {q0 : State} {i : Nat} {s : State} (h_s : Kept q0 s) : Kept q0 (replayOnce i s) := by
    unfold replayOnce
    try dsimp only
    repeat' (first | with_reducible assumption | (intro _; try dsimp only) | with_reducible apply modPort_kept | with_reducible apply beginRetrain_kept | with_reducible apply replayAll_kept | with_reducible apply kept_ite | simp only [↓kept_mk_iff])

theorem violation_kept {q0 : State} {i : Nat} {row : Nat} {vc : Nat} {src : Nat} {seq : Nat} {s : State} (h_s : Kept q0 s) : Kept q0 (violation i row vc src seq s) := by
    unfold violation
    try dsimp only
    repeat' (first | with_reducible assumption | with_reducible apply setPort_kept | with_reducible apply recEvent_kept | with_reducible apply kept_ite | simp only [↓kept_mk_iff])

theorem sendAnswer_kept {q0 : State} {i : Nat} {reason : Nat} {w : FlitHead} {s : State} (h_s : Kept q0 s) : Kept q0 (sendAnswer i reason w s) := by
    unfold sendAnswer
    try dsimp only
    repeat' (first | with_reducible assumption | (intro _; try dsimp only) | with_reducible apply devEvent_kept | with_reducible apply sendControl_kept | with_reducible apply kept_ite | simp only [↓kept_mk_iff] | (split <;> try dsimp only))

theorem refuseMsg_kept {q0 : State} {i : Nat} {row : Nat} {reason : Nat} {w : FlitHead} {s : State} (h_s : Kept q0 s) : Kept q0 (refuseMsg i row reason w s) := by
    unfold refuseMsg
    try dsimp only
    repeat' (first | with_reducible assumption | with_reducible apply sendAnswer_kept | with_reducible apply violation_kept)

theorem keepMsg_kept {q0 : State} {p : Nat} {n : Nat} {m : CollMsg} {s : State} (h_s : Kept q0 s) : Kept q0 (keepMsg p n m s) := by
    unfold keepMsg
    try dsimp only
    repeat' (first | with_reducible assumption | (intro _; try dsimp only) | with_reducible apply modPart_kept | simp only [↓kept_mk_iff])

theorem deliverMsg_kept {q0 : State} {i : Nat} {p : Nat} {n : Nat} {q : Peloton} {w : FlitHead} {bytes : List Byte} {s : State} (h_s : Kept q0 s) : Kept q0 (deliverMsg i p n q w bytes s) := by
    unfold deliverMsg
    try dsimp only
    repeat' (first | with_reducible assumption | (intro _; try dsimp only) | with_reducible apply refuseMsg_kept | with_reducible apply keepMsg_kept | with_reducible apply sendAnswer_kept | with_reducible apply devEvent_kept | with_reducible apply modPart_kept | with_reducible apply kept_ite | simp only [↓kept_mk_iff] | (split <;> try dsimp only))

theorem answerThin_kept {q0 : State} {h : Nat} {s : State} (h_s : Kept q0 s) : Kept q0 (answerThin h s) := by
    unfold answerThin
    try dsimp only
    repeat' (first | with_reducible assumption | (intro _; try dsimp only) | with_reducible apply sendAnswer_kept | with_reducible apply modPart_kept | with_reducible apply kept_foldl | simp only [↓kept_mk_iff] | (split <;> try dsimp only))

theorem takeReturns_kept {q0 : State} {i : Nat} {w : FlitHead} {s : State} (h_s : Kept q0 s) : Kept q0 (takeReturns i w s) := by
    unfold takeReturns
    try dsimp only
    repeat' (first | with_reducible assumption | with_reducible apply modPort_kept | with_reducible apply pump_kept | with_reducible apply violation_kept | with_reducible apply kept_ite | simp only [↓kept_mk_iff])

theorem nakOnce_kept {q0 : State} {i : Nat} {s : State} (h_s : Kept q0 s) : Kept q0 (nakOnce i s) := by
    unfold nakOnce
    try dsimp only
    repeat' (first | with_reducible assumption | with_reducible apply emit_kept | with_reducible apply setPort_kept | with_reducible apply kept_ite | simp only [↓kept_mk_iff])

theorem oweCredit_kept {q0 : State} {i : Nat} {v : Nat} {s : State} (h_s : Kept q0 s) : Kept q0 (oweCredit i v s) := by
    unfold oweCredit
    try dsimp only
    repeat' (first | with_reducible assumption | with_reducible apply modPort_kept | simp only [↓kept_mk_iff])

theorem setRx_kept {q0 : State} {i : Nat} {v : Nat} {rx : Option (BitVec 192 × List Byte)} {discarding : Bool} {s : State} (h_s : Kept q0 s) : Kept q0 (setRx i v rx discarding s) := by
    unfold setRx
    try dsimp only
    repeat' (first | with_reducible assumption | (intro _; try dsimp only) | with_reducible apply modPort_kept | simp only [↓kept_mk_iff])

theorem messageDone_kept {q0 : State} {i : Nat} {v : Nat} {w : FlitHead} {bytes : List Byte} {s : State} (h_s : Kept q0 s) : Kept q0 (messageDone i v w bytes s) := by
    unfold messageDone
    try dsimp only
    repeat' (first | with_reducible assumption | with_reducible apply refuseMsg_kept | with_reducible apply violation_kept | with_reducible apply deliverMsg_kept | with_reducible apply kept_ite | simp only [↓kept_mk_iff] | (split <;> try dsimp only))

theorem takeFlit_kept {q0 : State} {i : Nat} {f : Flit} {s : State} (h_s : Kept q0 s) : Kept q0 (takeFlit i f s) := by
    unfold takeFlit
    try dsimp only
    repeat' (first | with_reducible assumption | with_reducible apply setRx_kept | with_reducible apply refuseMsg_kept | with_reducible apply messageDone_kept | with_reducible apply kept_ite | simp only [↓kept_mk_iff] | (split <;> try dsimp only))

theorem badFlit_kept {q0 : State} {i : Nat} {w : FlitHead} {s : State} (h_s : Kept q0 s) : Kept q0 (badFlit i w s) := by
    unfold badFlit
    try dsimp only
    repeat' (first | with_reducible assumption | with_reducible apply nakOnce_kept | with_reducible apply violation_kept | with_reducible apply devEvent_kept)

theorem dataFlit_kept {q0 : State} {i : Nat} {ok : Bool} {f : Flit} {s : State} (h_s : Kept q0 s) : Kept q0 (dataFlit i ok f s) := by
    unfold dataFlit
    try dsimp only
    repeat' (first | with_reducible assumption | with_reducible apply badFlit_kept | with_reducible apply violation_kept | with_reducible apply nakOnce_kept | with_reducible apply setPort_kept | with_reducible apply returnCredits_kept | with_reducible apply oweCredit_kept | with_reducible apply takeFlit_kept | with_reducible apply takeReturns_kept | with_reducible apply kept_ite | simp only [↓kept_mk_iff])

theorem partnerFenced_kept {q0 : State} {i : Nat} {s : State} (h_s : Kept q0 s) : Kept q0 (partnerFenced i s) := by
    unfold partnerFenced
    try dsimp only
    repeat' (first | with_reducible assumption | with_reducible apply recEvent_kept | with_reducible apply setPort_kept | with_reducible apply kept_ite | simp only [↓kept_mk_iff])

theorem idleFlit_kept {q0 : State} {i : Nat} {ok : Bool} {f : Flit} {s : State} (h_s : Kept q0 s) : Kept q0 (idleFlit i ok f s) := by
    unfold idleFlit
    try dsimp only
    repeat' (first | with_reducible assumption | (intro _; try dsimp only) | with_reducible apply badFlit_kept | with_reducible apply nakOnce_kept | with_reducible apply violation_kept | with_reducible apply partnerFenced_kept | with_reducible apply takeReturns_kept | with_reducible apply modPort_kept | with_reducible apply kept_ite | simp only [↓kept_mk_iff])

theorem nakFlit_kept {q0 : State} {i : Nat} {ok : Bool} {f : Flit} {s : State} (h_s : Kept q0 s) : Kept q0 (nakFlit i ok f s) := by
    unfold nakFlit
    try dsimp only
    repeat' (first | with_reducible assumption | (intro _; try dsimp only) | with_reducible apply badFlit_kept | with_reducible apply nakOnce_kept | with_reducible apply violation_kept | with_reducible apply modPort_kept | with_reducible apply pump_kept | with_reducible apply replayOnce_kept | with_reducible apply takeReturns_kept | with_reducible apply kept_ite | simp only [↓kept_mk_iff])

theorem replayTimeout_kept {q0 : State} {i : Nat} {s : State} (h_s : Kept q0 s) : Kept q0 (replayTimeout i s) := by
    unfold replayTimeout
    try dsimp only
    repeat' (first | with_reducible assumption | with_reducible apply replayOnce_kept | with_reducible apply kept_ite)

theorem endPortWork_kept {q0 : State} {i : Nat} {status : Nat} {s : State} (h_s : Kept q0 s) : Kept q0 (endPortWork i status s) := by
    unfold endPortWork
    try dsimp only
    repeat' (first | with_reducible assumption | with_reducible apply setPort_kept | with_reducible apply finish_kept | with_reducible apply kept_ite | simp only [↓kept_mk_iff])

theorem portDown_kept {q0 : State} {code : Nat} {extra : Nat} {i : Nat} {s : State} (h_s : Kept q0 s) : Kept q0 (portDown code extra i s) := by
    unfold portDown
    try dsimp only
    repeat' (first | with_reducible assumption | with_reducible apply setPort_kept | with_reducible apply endPortWork_kept | with_reducible apply raiseFault_kept | with_reducible apply kept_ite | simp only [↓kept_mk_iff])

theorem linkDown_kept {q0 : State} {i : Nat} {s : State} (h_s : Kept q0 s) : Kept q0 (linkDown i s) := by
    unfold linkDown
    try dsimp only
    repeat' (first | with_reducible assumption | with_reducible apply portDown_kept)

theorem sendConfig_kept {q0 : State} {i : Nat} {s : State} (h_s : Kept q0 s) : Kept q0 (sendConfig i s) := by
    unfold sendConfig
    try dsimp only
    repeat' (first | with_reducible assumption | with_reducible apply sendControl_kept)

theorem fastRetrain_kept {q0 : State} {i : Nat} {m : BitVec 4} {advanced : Bool} {s : State} (h_s : Kept q0 s) : Kept q0 (fastRetrain i m advanced s) := by
    unfold fastRetrain
    try dsimp only
    repeat' (first | with_reducible assumption | with_reducible apply setPort_kept | with_reducible apply linkDown_kept | with_reducible apply replayAll_kept | with_reducible apply sendConfig_kept | with_reducible apply kept_ite | simp only [↓kept_mk_iff] | (split <;> try dsimp only))

theorem fullTraining_kept {q0 : State} {i : Nat} {m : BitVec 4} {s : State} (h_s : Kept q0 s) : Kept q0 (fullTraining i m s) := by
    unfold fullTraining
    try dsimp only
    repeat' (first | with_reducible assumption | (intro _; try dsimp only) | with_reducible apply linkDown_kept | with_reducible apply setPort_kept | with_reducible apply takeFree_kept | with_reducible apply takeFree_kept_at | with_reducible apply sendControl_kept | with_reducible apply replayAll_kept | with_reducible apply sendConfig_kept | with_reducible apply returnCredits_kept | with_reducible apply finish_kept | with_reducible apply kept_ite | with_reducible apply kept_foldl | simp only [↓kept_mk_iff] | (split <;> try dsimp only))

theorem lockLost_kept {q0 : State} {i : Nat} {s : State} (h_s : Kept q0 s) : Kept q0 (lockLost i s) := by
    unfold lockLost
    try dsimp only
    repeat' (first | with_reducible assumption | with_reducible apply beginRetrain_kept | with_reducible apply kept_ite)

theorem laneDegrade_kept {q0 : State} {i : Nat} {l : Fin 4} {s : State} (h_s : Kept q0 s) : Kept q0 (laneDegrade i l s) := by
    unfold laneDegrade
    try dsimp only
    repeat' (first | with_reducible assumption | with_reducible apply devEvent_kept | with_reducible apply setPort_kept | with_reducible apply replayAll_kept | with_reducible apply sendConfig_kept | with_reducible apply raiseFault_kept | with_reducible apply linkDown_kept | with_reducible apply kept_ite | simp only [↓kept_mk_iff])

theorem configMsg_kept {q0 : State} {i : Nat} {id : W16} {slow : Bool} {ack : BitVec 12} {s : State} (h_s : Kept q0 s) : Kept q0 (configMsg i id slow ack s) := by
    unfold configMsg
    try dsimp only
    repeat' (first | with_reducible assumption | (intro _; try dsimp only) | with_reducible apply pump_kept | with_reducible apply modPort_kept | with_reducible apply portDown_kept | with_reducible apply kept_ite | simp only [↓kept_mk_iff] | (split <;> try dsimp only))

theorem echoReq_kept {q0 : State} {i : Nat} {t : W64} {s : State} (h_s : Kept q0 s) : Kept q0 (echoReq i t s) := by
    unfold echoReq
    try dsimp only
    repeat' (first | with_reducible assumption | with_reducible apply takeFree_kept | with_reducible apply takeFree_kept_at | with_reducible apply sendControl_kept | with_reducible apply kept_ite)

theorem echoResp_kept {q0 : State} {i : Nat} {time : W64} {turnaround : W64} {now : W64} {s : State} (h_s : Kept q0 s) : Kept q0 (echoResp i time turnaround now s) := by
    unfold echoResp
    try dsimp only
    repeat' (first | with_reducible assumption | (intro _; try dsimp only) | with_reducible apply setPort_kept | with_reducible apply kept_ite | with_reducible apply kept_foldl | simp only [↓kept_mk_iff])

theorem vcReset_kept {q0 : State} {i : Nat} {v : Nat} {s : State} (h_s : Kept q0 s) : Kept q0 (vcReset i v s) := by
    unfold vcReset
    try dsimp only
    repeat' (first | with_reducible assumption | (intro _; try dsimp only) | with_reducible apply modPort_kept | with_reducible apply kept_ite | simp only [↓kept_mk_iff])

end Sys2Proof.Machine
end

