-- ==== Sys2Proof/Laws/KeptKv.lean ====
section
/-!
SUPPORT. What the operations of Machine/Kv.lean leave alone (`Kept`), one lemma each.
-/
namespace Sys2Proof.Machine

theorem withSpace_kept {q0 : State} {f : Nat} {hdr : Hdr} {s : State} {space : W64} {k : Nat → Partition → KvSpace → Except Nat Ans} (h_s : Kept q0 s) (h_k : ∀ u0 : Nat, ∀ u1 : Partition, ∀ u2 : KvSpace, BodyKept q0 (k u0 u1 u2)) : BodyKept q0 (withSpace f hdr s space k) := by
    unfold withSpace
    try dsimp only
    repeat' (first | with_reducible assumption | (intro _; try dsimp only) | with_reducible exact bodyKept_error | with_reducible apply bodyKept_need | with_reducible apply bodyKept_have' | with_reducible apply bodyKept_ok | with_reducible apply kept_id | with_reducible apply withPart_kept | with_reducible apply h_k | simp only [↓kept_mk_iff])

theorem needRegions_kept {q0 : State} {s : State} {p : Nat} {x : Partition} {bytes : Nat} {a1 : List KvRegionOps} {a2 : Except Nat Ans} (h_s : Kept q0 s) (h_a2 : BodyKept q0 a2) : BodyKept q0 (needRegions s p x bytes a1 a2) := by
    revert h_s h_a2
    fun_induction needRegions s p x bytes a1 a2 <;> intros
    all_goals repeat' (first | with_reducible assumption | (intro _; try dsimp only) | with_reducible exact bodyKept_error | with_reducible apply bodyKept_need | with_reducible apply bodyKept_ok | with_reducible apply kept_id | with_reducible apply needUnified_kept | with_reducible apply_assumption)

theorem spaceBody_kept {q0 : State} {f : Nat} {hdr : Hdr} {o : KvSpaceOps} {st0 : State} (h_st0 : Kept q0 st0) : BodyKept q0 (spaceBody f hdr o st0) := by
    unfold spaceBody
    try dsimp only
    repeat' (first | with_reducible assumption | (intro _; try dsimp only) | with_reducible exact bodyKept_error | with_reducible apply bodyKept_need | with_reducible apply bodyKept_have' | with_reducible apply bodyKept_ok | with_reducible apply kept_id | with_reducible apply withPart_kept | with_reducible apply needUnified_kept | with_reducible apply needRegions_kept | with_reducible apply long_kept | with_reducible apply modPart_kept | with_reducible apply State.clear_kept | with_reducible apply finish_kept | simp only [↓kept_mk_iff])

theorem dropSpace_kept {q0 : State} {p : Nat} {sp : Nat} {s : State} (h_s : Kept q0 s) : Kept q0 (dropSpace p sp s) := by
    unfold dropSpace
    try dsimp only
    repeat' (first | with_reducible assumption | (intro _; try dsimp only) | with_reducible apply modPart_kept | simp only [↓kept_mk_iff])

theorem spaceDestroyBody_kept {q0 : State} {f : Nat} {hdr : Hdr} {space : W64} {st0 : State} (h_st0 : Kept q0 st0) : BodyKept q0 (spaceDestroyBody f hdr space st0) := by
    unfold spaceDestroyBody
    try dsimp only
    repeat' (first | with_reducible assumption | (intro _; try dsimp only) | with_reducible exact bodyKept_error | with_reducible apply bodyKept_need | with_reducible apply bodyKept_ok | with_reducible apply kept_id | with_reducible apply withSpace_kept | with_reducible apply dropSpace_kept | simp only [↓kept_mk_iff])

theorem putSeq_kept {q0 : State} {p : Nat} {sp : Nat} {i : Nat} {q : KvSeq} {s : State} (h_s : Kept q0 s) : Kept q0 (putSeq p sp i q s) := by
    unfold putSeq
    try dsimp only
    repeat' (first | with_reducible assumption | (intro _; try dsimp only) | with_reducible apply showControl_kept | with_reducible apply modSpace_kept | simp only [↓kept_mk_iff])

theorem seqOpenBody_kept {q0 : State} {f : Nat} {hdr : Hdr} {space : W64} {st0 : State} (h_st0 : Kept q0 st0) : BodyKept q0 (seqOpenBody f hdr space st0) := by
    unfold seqOpenBody
    try dsimp only
    repeat' (first | with_reducible assumption | (intro _; try dsimp only) | with_reducible exact bodyKept_error | with_reducible apply bodyKept_need | with_reducible apply bodyKept_have' | with_reducible apply bodyKept_ok | with_reducible apply kept_id | with_reducible apply withSpace_kept | with_reducible apply putSeq_kept | simp only [↓kept_mk_iff])

theorem addRefs_kept {q0 : State} {p : Nat} {sp : Nat} {ids : List Nat} {s : State} (h_s : Kept q0 s) : Kept q0 (addRefs p sp ids s) := by
    unfold addRefs
    try dsimp only
    repeat' (first | with_reducible assumption | (intro _; try dsimp only) | with_reducible apply showControl_kept | with_reducible apply modSpace_kept | with_reducible apply kept_foldl | simp only [↓kept_mk_iff])

theorem forkBody_kept {q0 : State} {f : Nat} {hdr : Hdr} {space : W64} {parent : W64} {length : W64} {st0 : State} (h_st0 : Kept q0 st0) : BodyKept q0 (forkBody f hdr space parent length st0) := by
    unfold forkBody
    try dsimp only
    repeat' (first | with_reducible assumption | (intro _; try dsimp only) | with_reducible exact bodyKept_error | with_reducible apply bodyKept_need | with_reducible apply bodyKept_have' | with_reducible apply bodyKept_ok | with_reducible apply kept_id | with_reducible apply withSpace_kept | with_reducible apply putSeq_kept | with_reducible apply addRefs_kept | simp only [↓kept_mk_iff])

theorem dropRefs_kept {q0 : State} {p : Nat} {sp : Nat} {ids : List Nat} {s : State} (h_s : Kept q0 s) : Kept q0 (dropRefs p sp ids s) := by
    unfold dropRefs
    try dsimp only
    repeat' (first | with_reducible assumption | (intro _; try dsimp only) | with_reducible apply dropRef_kept | with_reducible apply kept_foldl)

theorem truncateBody_kept {q0 : State} {f : Nat} {hdr : Hdr} {space : W64} {seq : W64} {length : W64} {st0 : State} (h_st0 : Kept q0 st0) : BodyKept q0 (truncateBody f hdr space seq length st0) := by
    unfold truncateBody
    try dsimp only
    repeat' (first | with_reducible assumption | (intro _; try dsimp only) | with_reducible exact bodyKept_error | with_reducible apply bodyKept_need | with_reducible apply bodyKept_ok | with_reducible apply kept_id | with_reducible apply withSpace_kept | with_reducible apply needSeq_kept | with_reducible apply putSeq_kept | with_reducible apply dropRefs_kept | simp only [↓kept_mk_iff])

theorem closeBody_kept {q0 : State} {f : Nat} {hdr : Hdr} {space : W64} {seq : W64} {st0 : State} (h_st0 : Kept q0 st0) : BodyKept q0 (closeBody f hdr space seq st0) := by
    unfold closeBody
    try dsimp only
    repeat' (first | with_reducible assumption | (intro _; try dsimp only) | with_reducible exact bodyKept_error | with_reducible apply bodyKept_need | with_reducible apply bodyKept_ok | with_reducible apply kept_id | with_reducible apply withSpace_kept | with_reducible apply needSeq_kept | with_reducible apply modSpace_kept | with_reducible apply dropRefs_kept | with_reducible apply showControl_kept | simp only [↓kept_mk_iff])

theorem attachPages_kept {q0 : State} {p : Nat} {sp : Nat} {seq : Nat} {k : KvSpace} {q : KvSeq} {tags : DescWord} {blocks : Nat} {h : Nat} {s : State} (h_s : Kept q0 s) : Kept q0 (attachPages p sp seq k q tags blocks h s) := by
    unfold attachPages
    try dsimp only
    repeat' (first | with_reducible assumption | with_reducible apply failAccess_kept | with_reducible apply putSeq_kept | with_reducible apply addRefs_kept | with_reducible apply finish_kept | with_reducible apply touchPages_kept | simp only [↓kept_mk_iff] | (split <;> try dsimp only))

theorem attachBody_kept {q0 : State} {f : Nat} {hdr : Hdr} {space : W64} {seq : W64} {tags : DescWord} {blocks : W64} {st0 : State} (h_st0 : Kept q0 st0) : BodyKept q0 (attachBody f hdr space seq tags blocks st0) := by
    unfold attachBody
    try dsimp only
    repeat' (first | with_reducible assumption | (intro _; try dsimp only) | with_reducible exact bodyKept_error | with_reducible apply bodyKept_need | with_reducible apply bodyKept_ok | with_reducible apply kept_id | with_reducible apply withSpace_kept | with_reducible apply needSeq_kept | with_reducible apply needDesc_kept | with_reducible apply long_kept | with_reducible apply attachPages_kept | simp only [↓kept_mk_iff])

theorem kvLostFault_kept {q0 : State} {p : Nat} {sp : Nat} {page : Nat} {handle : Nat} {s : State} (h_s : Kept q0 s) : Kept q0 (kvLostFault p sp page handle s) := by
    unfold kvLostFault
    try dsimp only
    repeat' (first | with_reducible assumption | with_reducible apply raiseFault_kept)

theorem appendTokens_kept {q0 : State} {p : Nat} {sp : Nat} {k : KvSpace} {q : KvSeq} {kd : DescWord} {vd : DescWord} {tags : DescWord} {n : Nat} {g : SeqStage} {h : Nat} {s : State} (h_s : Kept q0 s) : Kept q0 (appendTokens p sp k q kd vd tags n g h s) := by
    unfold appendTokens
    try dsimp only
    repeat' (first | with_reducible assumption | (intro _; try dsimp only) | with_reducible apply failAccess_kept | with_reducible apply discardSeq_kept | with_reducible apply finish_kept | with_reducible apply kvLostFault_kept | with_reducible apply copyOnAppend_kept | with_reducible apply appendRows_kept | with_reducible apply absorbTags_kept | with_reducible apply absorbTags_kept_at | with_reducible apply touchPages_kept | with_reducible apply publishSeq_kept | with_reducible apply kept_foldl | simp only [↓kept_mk_iff] | (split <;> try dsimp only))

theorem kvAppendBody_kept {q0 : State} {f : Nat} {hdr : Hdr} {space : W64} {seq : W64} {n : W64} {kd : DescWord} {vd : DescWord} {tags : DescWord} {permit : W64} {st0 : State} (h_st0 : Kept q0 st0) : BodyKept q0 (kvAppendBody f hdr space seq n kd vd tags permit st0) := by
    unfold kvAppendBody
    try dsimp only
    repeat' (first | with_reducible assumption | (intro _; try dsimp only) | with_reducible exact bodyKept_error | with_reducible apply bodyKept_need | with_reducible apply bodyKept_have' | with_reducible apply bodyKept_ok | with_reducible apply kept_id | with_reducible apply withSpace_kept | with_reducible apply needSeq_kept | with_reducible apply needDesc_kept | with_reducible apply reserveSeq_kept | with_reducible refine reserveSeq_kept_some ‹_› ?_ | with_reducible apply long_kept | with_reducible apply appendTokens_kept | simp only [↓kept_mk_iff])

theorem seqQueryBody_kept {q0 : State} {f : Nat} {hdr : Hdr} {space : W64} {seq : W64} {st0 : State} (h_st0 : Kept q0 st0) : BodyKept q0 (seqQueryBody f hdr space seq st0) := by
    unfold seqQueryBody
    try dsimp only
    repeat' (first | with_reducible assumption | (intro _; try dsimp only) | with_reducible exact bodyKept_error | with_reducible apply bodyKept_need | with_reducible apply bodyKept_have' | with_reducible apply bodyKept_ok | with_reducible apply kept_id | with_reducible apply withSpace_kept | simp only [↓kept_mk_iff])

theorem prefixReadBody_kept {q0 : State} {f : Nat} {hdr : Hdr} {space : W64} {dst : DescWord} {first : W64} {st0 : State} (h_st0 : Kept q0 st0) : BodyKept q0 (prefixReadBody f hdr space dst first st0) := by
    unfold prefixReadBody
    try dsimp only
    repeat' (first | with_reducible assumption | (intro _; try dsimp only) | with_reducible exact bodyKept_error | with_reducible apply bodyKept_need | with_reducible apply bodyKept_ok | with_reducible apply kept_id | with_reducible apply withSpace_kept | with_reducible apply needRecords_kept | with_reducible apply long_kept | with_reducible apply finish_kept | with_reducible apply writeRecords_kept | with_reducible apply writeRecords_kept_at | simp only [↓kept_mk_iff] | (split <;> try dsimp only))

theorem flushSpace_kept {q0 : State} {p : Nat} {sp : Nat} {a1 : Nat} {a2 : State} (h_a2 : Kept q0 a2) : KeptVia (fun x => x.2) q0 (flushSpace p sp a1 a2) := by
    revert h_a2
    fun_induction flushSpace p sp a1 a2 <;> intros
    all_goals repeat' (first | with_reducible assumption | (intro _; try dsimp only) | with_reducible apply evict_kept | with_reducible apply evict_kept_at | simp only [↓kept_mk_iff] | (split <;> try dsimp only) | (with_reducible refine keptVia_mk ?_; try dsimp only) | with_reducible apply_assumption)

theorem flushSpace_kept_at {q0 : State} {p : Nat} {sp : Nat} {a1 : Nat} {a2 : State} (h_a2 : Kept q0 a2) : Kept q0 (flushSpace p sp a1 a2).2 := flushSpace_kept (q0 := q0) (p := p) (sp := sp) (a1 := a1) (a2 := a2) h_a2

theorem flushSpace_kept_eq {q0 : State} {p : Nat} {sp : Nat} {a1 : Nat} {a2 : State} {v0} {v1} (he : (flushSpace p sp a1 a2) = (v0, v1)) (h_a2 : Kept q0 a2) : Kept q0 v1 := by
    have := flushSpace_kept_at (q0 := q0) (p := p) (sp := sp) (a1 := a1) (a2 := a2) h_a2
    rw [he] at this; exact this

theorem flushBody_kept {q0 : State} {f : Nat} {hdr : Hdr} {space : W64} {st0 : State} (h_st0 : Kept q0 st0) : BodyKept q0 (flushBody f hdr space st0) := by
    unfold flushBody
    try dsimp only
    repeat' (first | with_reducible assumption | (intro _; try dsimp only) | with_reducible exact bodyKept_error | with_reducible apply bodyKept_need | with_reducible apply bodyKept_ok | with_reducible apply kept_id | with_reducible apply withSpace_kept | with_reducible apply flushSpace_kept | with_reducible apply flushSpace_kept_at | simp only [↓kept_mk_iff])

end Sys2Proof.Machine
end

