-- ==== Sys2Proof/Laws/KeptStepOps.lean ====
section
/-!
SUPPORT. What the operations of Machine/StepOps.lean leave alone (`Kept`), one lemma each.
-/
namespace Sys2Proof.Machine

theorem putBank_kept {q0 : State} {p : Nat} {i : Nat} {b : Bank} {s : State} (h_s : Kept q0 s) : Kept q0 (putBank p i b s) := by
    unfold putBank
    try dsimp only
    repeat' (first | with_reducible assumption | (intro _; try dsimp only) | with_reducible apply touchPages_kept | with_reducible apply modPart_kept | with_reducible apply State.writeNat_kept | simp only [↓kept_mk_iff])

theorem publishBank_kept {q0 : State} {p : Nat} {st : BankStage} {s : State} (h_s : Kept q0 s) : Kept q0 (publishBank p st s) := by
    unfold publishBank
    try dsimp only
    repeat' (first | with_reducible assumption | (intro _; try dsimp only) | with_reducible apply putBank_kept | simp only [↓kept_mk_iff] | (split <;> try dsimp only))

theorem addCounts_kept {q0 : State} {c : Nat} {k : Cnt} {made : Nat} {s : State} (h_s : Kept q0 s) : Kept q0 (addCounts c k made s) := by
    unfold addCounts
    try dsimp only
    repeat' (first | with_reducible assumption | with_reducible apply coreEvent_kept)

theorem freeBytes_kept {q0 : State} {a1 : Nat} {a2 : State} (h_a2 : Kept q0 a2) : KeptVia (fun x => x.2) q0 (freeBytes a1 a2) := by
    revert h_a2
    fun_induction freeBytes a1 a2 <;> intros
    all_goals repeat' (first | with_reducible assumption | with_reducible apply takeFree_kept | with_reducible apply takeFree_kept_at | (with_reducible refine keptVia_mk ?_; try dsimp only) | with_reducible apply_assumption)

theorem freeBytes_kept_at {q0 : State} {a1 : Nat} {a2 : State} (h_a2 : Kept q0 a2) : Kept q0 (freeBytes a1 a2).2 := freeBytes_kept (q0 := q0) (a1 := a1) (a2 := a2) h_a2

theorem freeBytes_kept_eq {q0 : State} {a1 : Nat} {a2 : State} {v0} {v1} (he : (freeBytes a1 a2) = (v0, v1)) (h_a2 : Kept q0 a2) : Kept q0 v1 := by
    have := freeBytes_kept_at (q0 := q0) (a1 := a1) (a2 := a2) h_a2
    rw [he] at this; exact this

theorem scrambleBytes_kept {q0 : State} {at' : Nat} {n : Nat} {s : State} (h_s : Kept q0 s) : Kept q0 (scrambleBytes at' n s) := by
    unfold scrambleBytes
    try dsimp only
    repeat' (first | with_reducible assumption | with_reducible apply freeBytes_kept | with_reducible apply freeBytes_kept_at | with_reducible apply State.write_kept)

theorem scramble_kept {q0 : State} {d : DescWord} {s : State} (h_s : Kept q0 s) : Kept q0 (scramble d s) := by
    unfold scramble
    try dsimp only
    repeat' (first | with_reducible assumption | with_reducible apply scrambleBytes_kept | with_reducible apply kept_ite)

theorem discardBank_kept {q0 : State} {p : Nat} {st : BankStage} {s : State} (h_s : Kept q0 s) : Kept q0 (discardBank p st s) := by
    unfold discardBank
    try dsimp only
    repeat' (first | with_reducible assumption | (intro _; try dsimp only) | with_reducible apply scramble_kept | with_reducible apply kept_ite | simp only [↓kept_mk_iff] | (split <;> try dsimp only))

theorem putRows_kept {q0 : State} {c : Nat} {rs : List (Nat × List Byte)} {s : State} (h_s : Kept q0 s) : Kept q0 (putRows c rs s) := by
    unfold putRows
    try dsimp only
    repeat' (first | with_reducible assumption | (intro _; try dsimp only) | with_reducible apply modCore_kept | with_reducible apply State.write_kept | with_reducible apply kept_foldl | simp only [↓kept_mk_iff])

theorem endRows_kept {q0 : State} {c : Nat} {rs : List Nat} {s : State} (h_s : Kept q0 s) : Kept q0 (endRows c rs s) := by
    unfold endRows
    try dsimp only
    repeat' (first | with_reducible assumption | (intro _; try dsimp only) | with_reducible apply modCore_kept | with_reducible apply State.clear_kept | with_reducible apply kept_foldl | simp only [↓kept_mk_iff])

theorem rowsHome_kept {q0 : State} {c : Nat} {s : State} (h_s : Kept q0 s) : Kept q0 (rowsHome c s) := by
    unfold rowsHome
    try dsimp only
    repeat' (first | with_reducible assumption | (intro _; try dsimp only) | with_reducible apply endRows_kept | with_reducible apply putRows_kept | with_reducible apply modCore_kept | simp only [↓kept_mk_iff])

theorem restoreRows_kept {q0 : State} {h : Nat} {c : Nat} {s : State} (h_s : Kept q0 s) : Kept q0 (restoreRows h c s) := by
    unfold restoreRows
    try dsimp only
    repeat' (first | with_reducible assumption | (intro _; try dsimp only) | with_reducible apply putRows_kept | with_reducible apply modCore_kept | with_reducible apply State.write_kept | with_reducible apply kept_ite | with_reducible apply kept_foldl | simp only [↓kept_mk_iff] | (split <;> try dsimp only))

theorem commitRows_kept {q0 : State} {h : Nat} {c : Nat} {s : State} (h_s : Kept q0 s) : Kept q0 (commitRows h c s) := by
    unfold commitRows
    try dsimp only
    repeat' (first | with_reducible assumption | (intro _; try dsimp only) | with_reducible apply endRows_kept | with_reducible apply modCore_kept | simp only [↓kept_mk_iff] | (split <;> try dsimp only))

theorem freeLock_kept {q0 : State} {p : Nat} {n : Nat} {s : State} (h_s : Kept q0 s) : Kept q0 (freeLock p n s) := by
    unfold freeLock
    try dsimp only
    repeat' (first | with_reducible assumption | (intro _; try dsimp only) | with_reducible apply modPart_kept | with_reducible apply passEntry_kept | simp only [↓kept_mk_iff] | (split <;> try dsimp only))

theorem freeLocks_kept {q0 : State} {h : Nat} {s : State} (h_s : Kept q0 s) : Kept q0 (freeLocks h s) := by
    unfold freeLocks
    try dsimp only
    repeat' (first | with_reducible assumption | (intro _; try dsimp only) | with_reducible apply modPart_kept | with_reducible apply freeLock_kept | with_reducible apply kept_foldl | simp only [↓kept_mk_iff] | (split <;> try dsimp only))

theorem putLog_kept {q0 : State} {p : Nat} {lg : ReplayLog} {s : State} (h_s : Kept q0 s) : Kept q0 (putLog p lg s) := by
    unfold putLog
    try dsimp only
    repeat' (first | with_reducible assumption | (intro _; try dsimp only) | with_reducible apply modPart_kept | with_reducible apply kept_ite | simp only [↓kept_mk_iff] | (split <;> try dsimp only))

theorem writeReplayRecord_kept {q0 : State} {h : Nat} {outcome : Nat} {s : State} (h_s : Kept q0 s) : Kept q0 (writeReplayRecord h outcome s) := by
    unfold writeReplayRecord
    try dsimp only
    repeat' (first | with_reducible assumption | (intro _; try dsimp only) | with_reducible apply State.write_kept | with_reducible apply touchPages_kept | with_reducible apply devEvent_kept | with_reducible apply putLog_kept | with_reducible apply modStep_kept | with_reducible apply kept_ite | simp only [↓kept_mk_iff] | (split <;> try dsimp only))

theorem markRecord_kept {q0 : State} {h : Nat} {outcome : Nat} {s : State} (h_s : Kept q0 s) : Kept q0 (markRecord h outcome s) := by
    unfold markRecord
    try dsimp only
    repeat' (first | with_reducible assumption | with_reducible apply touchPages_kept | with_reducible apply State.writeNat_kept | with_reducible apply kept_ite | simp only [↓kept_mk_iff] | (split <;> try dsimp only))

theorem publishAmax_kept {q0 : State} {p : Nat} {a : Table W32} {s : State} (h_s : Kept q0 s) : Kept q0 (publishAmax p a s) := by
    unfold publishAmax
    try dsimp only
    repeat' (first | with_reducible assumption | (intro _; try dsimp only) | with_reducible apply modPart_kept | with_reducible apply kept_ite | with_reducible apply kept_foldl | simp only [↓kept_mk_iff])

theorem stageAmax_kept {q0 : State} {h : Nat} {tensor : W32} {v : W32} {s : State} (h_s : Kept q0 s) : Kept q0 (stageAmax h tensor v s) := by
    unfold stageAmax
    try dsimp only
    repeat' (first | with_reducible assumption | (intro _; try dsimp only) | with_reducible apply devEvent_kept | with_reducible apply setStep_kept | with_reducible apply kept_ite | simp only [↓kept_mk_iff] | (split <;> try dsimp only))

theorem dropHeld_kept {q0 : State} {p : Nat} {epoch : Nat} {attempt : Nat} {s : State} (h_s : Kept q0 s) : Kept q0 (dropHeld p epoch attempt s) := by
    unfold dropHeld
    try dsimp only
    repeat' (first | with_reducible assumption | (intro _; try dsimp only) | with_reducible apply devEvent_kept | with_reducible apply modPart_kept | with_reducible apply kept_ite | with_reducible apply kept_foldl | simp only [↓kept_mk_iff] | (split <;> try dsimp only))

theorem releaseSpills_kept {q0 : State} {h : Nat} {s : State} (h_s : Kept q0 s) : Kept q0 (releaseSpills h s) := by
    unfold releaseSpills
    try dsimp only
    repeat' (first | with_reducible assumption | (intro _; try dsimp only) | with_reducible apply modStep_kept | with_reducible apply modPart_kept | simp only [↓kept_mk_iff] | (split <;> try dsimp only))

theorem commitPelotons_kept {q0 : State} {h : Nat} {s : State} (h_s : Kept q0 s) : Kept q0 (commitPelotons h s) := by
    unfold commitPelotons
    try dsimp only
    repeat' (first | with_reducible assumption | (intro _; try dsimp only) | with_reducible apply modPart_kept | with_reducible apply kept_ite | simp only [↓kept_mk_iff] | (split <;> try dsimp only))

theorem commitStep_kept {q0 : State} {h : Nat} {s : State} (h_s : Kept q0 s) : Kept q0 (commitStep h s) := by
    unfold commitStep
    try dsimp only
    repeat' (first | with_reducible assumption | (intro _; try dsimp only) | with_reducible apply publishBank_kept | with_reducible apply modStep_kept | with_reducible apply commitRows_kept | with_reducible apply publishAmax_kept | with_reducible apply modPart_kept | with_reducible apply publishSeq_kept | with_reducible apply dropHeld_kept | with_reducible apply releaseSpills_kept | with_reducible apply commitPelotons_kept | with_reducible apply markRecord_kept | with_reducible apply modHandle_kept | with_reducible apply kept_foldl | simp only [↓kept_mk_iff] | (split <;> try dsimp only))

theorem dropStaged_kept {q0 : State} {h : Nat} {s : State} (h_s : Kept q0 s) : Kept q0 (dropStaged h s) := by
    unfold dropStaged
    try dsimp only
    repeat' (first | with_reducible assumption | (intro _; try dsimp only) | with_reducible apply discardBank_kept | with_reducible apply modStep_kept | with_reducible apply restoreRows_kept | with_reducible apply discardSeq_kept | with_reducible apply freeLocks_kept | with_reducible apply releaseSpills_kept | with_reducible apply releaseCores_kept | with_reducible apply kept_ite | with_reducible apply kept_foldl | simp only [↓kept_mk_iff] | (split <;> try dsimp only))

theorem discardStep_kept {q0 : State} {h : Nat} {s : State} (h_s : Kept q0 s) : Kept q0 (discardStep h s) := by
    unfold discardStep
    try dsimp only
    repeat' (first | with_reducible assumption | (intro _; try dsimp only) | with_reducible apply dropHeld_kept | with_reducible apply dropStaged_kept | with_reducible apply modPart_kept | with_reducible apply markRecord_kept | with_reducible apply modHandle_kept | with_reducible apply modStep_kept | with_reducible apply kept_ite | simp only [↓kept_mk_iff] | (split <;> try dsimp only))

theorem finishFrog_kept {q0 : State} {h : Nat} {s : State} (h_s : Kept q0 s) : Kept q0 (finishFrog h s) := by
    unfold finishFrog
    try dsimp only
    repeat' (first | with_reducible assumption | (intro _; try dsimp only) | with_reducible apply modStep_kept | with_reducible apply writeReplayRecord_kept | with_reducible apply complete_kept | with_reducible apply discardStep_kept | simp only [↓kept_mk_iff] | (split <;> try dsimp only))

theorem endReplay_kept {q0 : State} {h : Nat} {s : State} (h_s : Kept q0 s) : Kept q0 (endReplay h s) := by
    unfold endReplay
    try dsimp only
    repeat' (first | with_reducible assumption | (intro _; try dsimp only) | with_reducible apply dropHeld_kept | with_reducible apply modStep_kept | with_reducible apply dropStaged_kept | simp only [↓kept_mk_iff] | (split <;> try dsimp only))

theorem releaseQuads_kept {q0 : State} {h : Nat} {s : State} (h_s : Kept q0 s) : Kept q0 (releaseQuads h s) := by
    unfold releaseQuads
    try dsimp only
    repeat' (first | with_reducible assumption | (intro _; try dsimp only) | with_reducible apply modJob_kept | simp only [↓kept_mk_iff] | (split <;> try dsimp only))

theorem stopFaulty_kept {q0 : State} {h : Nat} {status : Nat} {result : W64} {s : State} (h_s : Kept q0 s) : Kept q0 (stopFaulty h status result s) := by
    unfold stopFaulty
    try dsimp only
    repeat' (first | with_reducible assumption | (intro _; try dsimp only) | with_reducible apply cutStitches_kept | with_reducible apply modStep_kept | with_reducible apply releaseQuads_kept | with_reducible apply writeReplayRecord_kept | with_reducible apply finish_kept | with_reducible apply endReplay_kept | with_reducible apply armSlots_kept | with_reducible apply complete_kept | with_reducible apply kept_ite | with_reducible apply kept_foldl | simp only [↓kept_mk_iff] | (split <;> try dsimp only))

theorem stopOnPage_kept {q0 : State} {h : Nat} {t : Nat × Nat} {s : State} (h_s : Kept q0 s) : Kept q0 (stopOnPage h t s) := by
    unfold stopOnPage
    try dsimp only
    repeat' (first | with_reducible assumption | with_reducible apply stopFaulty_kept)

theorem freeSlots_kept {q0 : State} {h : Nat} {s : State} (h_s : Kept q0 s) : Kept q0 (freeSlots h s) := by
    unfold freeSlots
    try dsimp only
    repeat' (first | with_reducible assumption | (intro _; try dsimp only) | simp only [↓kept_mk_iff])

theorem dropQueued_kept {q0 : State} {h : Nat} {s : State} (h_s : Kept q0 s) : Kept q0 (dropQueued h s) := by
    unfold dropQueued
    try dsimp only
    repeat' (first | with_reducible assumption | (intro _; try dsimp only) | with_reducible apply discardSeq_kept | with_reducible apply modPart_kept | with_reducible apply releaseSpills_kept | with_reducible apply freeSlots_kept | with_reducible apply kept_foldl | simp only [↓kept_mk_iff] | (split <;> try dsimp only))

end Sys2Proof.Machine
end

