-- ==== Sys2Proof/Laws/KeptSaveState.lean ====
section
/-!
SUPPORT. What the operations of Machine/SaveState.lean leave alone (`Kept`), one lemma each.
-/
namespace Sys2Proof.Machine

theorem saveFoot_kept {q0 : State} {s : State} {c : Nat} {pat : PatternImage} {p : Space × Nat × Nat × Nat} (h_s : Kept q0 s) : Kept q0 (saveFoot s c pat p) := by
    unfold saveFoot
    try dsimp only
    repeat' (first | with_reducible assumption | with_reducible apply State.write_kept | with_reducible apply kept_ite)

theorem restoreFoot_kept {q0 : State} {s : State} {c : Nat} {pat : PatternImage} {p : Space × Nat × Nat × Nat} (h_s : Kept q0 s) : Kept q0 (restoreFoot s c pat p) := by
    unfold restoreFoot
    try dsimp only
    repeat' (first | with_reducible assumption | with_reducible apply State.write_kept | with_reducible apply kept_ite)

theorem landSave_kept {q0 : State} {c : Nat} {s : State} (h_s : Kept q0 s) : Kept q0 (landSave c s) := by
    unfold landSave
    try dsimp only
    repeat' (first | with_reducible assumption | (intro _; try dsimp only) | with_reducible apply stopOnPage_kept | with_reducible apply setCore_kept | with_reducible apply saveFoot_kept | with_reducible apply touchPages_kept | with_reducible apply State.writeNat_kept | with_reducible apply armSlots_kept | with_reducible apply kept_ite | simp only [↓kept_mk_iff] | (split <;> try dsimp only))

theorem landRestore_kept {q0 : State} {c : Nat} {v : Saved} {s : State} (h_s : Kept q0 s) : Kept q0 (landRestore c v s) := by
    unfold landRestore
    try dsimp only
    repeat' (first | with_reducible assumption | (intro _; try dsimp only) | with_reducible apply stopOnPage_kept | with_reducible apply touchPages_kept | with_reducible apply restoreFoot_kept | with_reducible apply setCore_kept | with_reducible apply armSlots_kept | with_reducible apply settleLane_kept | with_reducible apply kept_ite | with_reducible apply kept_foldl | simp only [↓kept_mk_iff] | (split <;> try dsimp only))

end Sys2Proof.Machine
end

