-- ==== Sys2Proof/Laws/KeptSched.lean ====
section
/-!
SUPPORT. What the operations of Machine/Sched.lean leave alone (`Kept`), one lemma each.
-/
namespace Sys2Proof.Machine

theorem startSems_kept {q0 : State} {h : Nat} {s : State} (h_s : Kept q0 s) : Kept q0 (startSems h s) := by
    unfold startSems
    try dsimp only
    repeat' (first | with_reducible assumption | (intro _; try dsimp only) | with_reducible apply modPart_kept | with_reducible apply State.write_kept | with_reducible apply kept_foldl | simp only [↓kept_mk_iff] | (split <;> try dsimp only))

theorem issueStep_kept {q0 : State} {h : Nat} {s : State} (h_s : Kept q0 s) : Kept q0 (issueStep h s) := by
    unfold issueStep
    try dsimp only
    repeat' (first | with_reducible assumption | (intro _; try dsimp only) | with_reducible apply armSlots_kept | with_reducible apply rowsHome_kept | with_reducible apply setCore_kept | with_reducible apply settleLane_kept | with_reducible apply kept_ite | with_reducible apply kept_foldl | simp only [↓kept_mk_iff] | (split <;> try dsimp only))

theorem takeEpoch_kept {q0 : State} {h : Nat} {s : State} (h_s : Kept q0 s) : Kept q0 (takeEpoch h s) := by
    unfold takeEpoch
    try dsimp only
    repeat' (first | with_reducible assumption | (intro _; try dsimp only) | with_reducible apply modPart_kept | with_reducible apply setStep_kept | with_reducible apply answerThin_kept | with_reducible apply startSems_kept | with_reducible apply modHandle_kept | with_reducible apply kept_ite | simp only [↓kept_mk_iff] | (split <;> try dsimp only))

theorem preemptQuads_kept {q0 : State} {h : Nat} {s : State} (h_s : Kept q0 s) : Kept q0 (preemptQuads h s) := by
    unfold preemptQuads
    try dsimp only
    repeat' (first | with_reducible assumption | (intro _; try dsimp only) | with_reducible apply devEvent_kept | with_reducible apply stopCore_kept | with_reducible apply kept_foldl)

theorem class0Go_kept {q0 : State} {h : Nat} {s : State} (h_s : Kept q0 s) : Kept q0 (class0Go h s) := by
    unfold class0Go
    try dsimp only
    repeat' (first | with_reducible assumption | with_reducible apply devEvent_kept | with_reducible apply issueStep_kept | with_reducible apply kept_ite | simp only [↓kept_mk_iff] | (split <;> try dsimp only))

theorem admitStep_kept {q0 : State} {h : Nat} {fast : Bool} {s : State} (h_s : Kept q0 s) : Kept q0 (admitStep h fast s) := by
    unfold admitStep
    try dsimp only
    repeat' (first | with_reducible assumption | (intro _; try dsimp only) | with_reducible apply issueStep_kept | with_reducible apply class0Go_kept | with_reducible apply preemptQuads_kept | with_reducible apply takeEpoch_kept | with_reducible apply modJob_kept | with_reducible apply kept_ite | simp only [↓kept_mk_iff] | (split <;> try dsimp only))

theorem startClass0_kept {q0 : State} {h : Nat} {s : State} (h_s : Kept q0 s) : Kept q0 (startClass0 h s) := by
    unfold startClass0
    try dsimp only
    repeat' (first | with_reducible assumption | with_reducible apply class0Go_kept | with_reducible apply kept_ite | simp only [↓kept_mk_iff] | (split <;> try dsimp only))

theorem grantJob_kept {q0 : State} {p : Nat} {later : List Nat} {i : Nat} {s : State} (h_s : Kept q0 s) : Kept q0 (grantJob p later i s) := by
    unfold grantJob
    try dsimp only
    repeat' (first | with_reducible assumption | (intro _; try dsimp only) | with_reducible apply modJob_kept | with_reducible apply stopStep_kept | with_reducible apply kept_ite | with_reducible apply kept_foldl | simp only [↓kept_mk_iff] | (split <;> try dsimp only))

theorem grantAll_kept {q0 : State} {p : Nat} {a1 : List Nat} {a2 : State} (h_a2 : Kept q0 a2) : Kept q0 (grantAll p a1 a2) := by
    revert h_a2
    fun_induction grantAll p a1 a2 <;> intros
    all_goals repeat' (first | with_reducible assumption | with_reducible apply grantJob_kept | with_reducible apply_assumption)

theorem scheduleTick_kept {q0 : State} {s : State} (h_s : Kept q0 s) : Kept q0 (scheduleTick s) := by
    unfold scheduleTick
    try dsimp only
    repeat' (first | with_reducible assumption | (intro _; try dsimp only) | with_reducible apply modPart_kept | with_reducible apply grantAll_kept | with_reducible apply kept_ite | with_reducible apply kept_foldl | simp only [↓kept_mk_iff] | (split <;> try dsimp only))

theorem lockTick_kept {q0 : State} {s : State} (h_s : Kept q0 s) : Kept q0 (lockTick s) := by
    unfold lockTick
    try dsimp only
    repeat' (first | with_reducible assumption | (intro _; try dsimp only) | with_reducible apply devEvent_kept | with_reducible apply kept_foldl | simp only [↓kept_mk_iff] | (split <;> try dsimp only))

theorem withStep_kept {q0 : State} {f : Nat} {hdr : Hdr} {s : State} {k : Nat → Partition → Step → Except Nat Ans} (h_s : Kept q0 s) (h_k : ∀ u0 : Nat, ∀ u1 : Partition, ∀ u2 : Step, BodyKept q0 (k u0 u1 u2)) : BodyKept q0 (withStep f hdr s k) := by
    unfold withStep
    try dsimp only
    repeat' (first | with_reducible assumption | (intro _; try dsimp only) | with_reducible exact bodyKept_error | with_reducible apply bodyKept_need | with_reducible apply bodyKept_ok | with_reducible apply bodyKept_ite | with_reducible apply kept_id | with_reducible apply h_k | with_reducible apply kept_ite | simp only [↓kept_mk_iff] | (split <;> try dsimp only))

theorem stopBody_kept {q0 : State} {f : Nat} {hdr : Hdr} {st0 : State} (h_st0 : Kept q0 st0) : BodyKept q0 (stopBody f hdr st0) := by
    unfold stopBody
    try dsimp only
    repeat' (first | with_reducible assumption | (intro _; try dsimp only) | with_reducible exact bodyKept_error | with_reducible apply bodyKept_need | with_reducible apply bodyKept_ok | with_reducible apply kept_id | with_reducible apply withStep_kept | with_reducible apply releaseQuads_kept | with_reducible apply stopStep_kept | with_reducible apply modStep_kept | simp only [↓kept_mk_iff])

theorem resumeBody_kept {q0 : State} {f : Nat} {hdr : Hdr} {st0 : State} (h_st0 : Kept q0 st0) : BodyKept q0 (resumeBody f hdr st0) := by
    unfold resumeBody
    try dsimp only
    repeat' (first | with_reducible assumption | (intro _; try dsimp only) | with_reducible exact bodyKept_error | with_reducible apply bodyKept_need | with_reducible apply bodyKept_ok | with_reducible apply bodyKept_ite | with_reducible apply kept_id | with_reducible apply withStep_kept | with_reducible apply modStep_kept | with_reducible apply preemptQuads_kept | with_reducible apply kept_ite | simp only [↓kept_mk_iff])

theorem queryJobBody_kept {q0 : State} {f : Nat} {hdr : Hdr} {job : W64} {st0 : State} (h_st0 : Kept q0 st0) : BodyKept q0 (queryJobBody f hdr job st0) := by
    unfold queryJobBody
    try dsimp only
    repeat' (first | with_reducible assumption | (intro _; try dsimp only) | with_reducible exact bodyKept_error | with_reducible apply bodyKept_need | with_reducible apply bodyKept_have' | with_reducible apply bodyKept_ok | with_reducible apply bodyKept_ite | with_reducible apply kept_id | with_reducible apply withPart_kept | with_reducible apply kept_ite | simp only [↓kept_mk_iff] | (split <;> try dsimp only))

theorem needInFlight_kept {q0 : State} {st : Step} {k : Except Nat Ans} (h_k : BodyKept q0 k) : BodyKept q0 (needInFlight st k) := by
    unfold needInFlight
    try dsimp only
    repeat' (first | with_reducible assumption | (intro _; try dsimp only) | with_reducible exact bodyKept_error | with_reducible apply bodyKept_need | with_reducible apply bodyKept_ok | with_reducible apply kept_id)

theorem commitBody_kept {q0 : State} {f : Nat} {hdr : Hdr} {st0 : State} (h_st0 : Kept q0 st0) : BodyKept q0 (commitBody f hdr st0) := by
    unfold commitBody
    try dsimp only
    repeat' (first | with_reducible assumption | (intro _; try dsimp only) | with_reducible exact bodyKept_error | with_reducible apply bodyKept_need | with_reducible apply bodyKept_ok | with_reducible apply kept_id | with_reducible apply withStep_kept | with_reducible apply needInFlight_kept | with_reducible apply commitStep_kept | simp only [↓kept_mk_iff])

theorem frogStep_kept {q0 : State} {h : Nat} {s : State} (h_s : Kept q0 s) : Kept q0 (frogStep h s) := by
    unfold frogStep
    try dsimp only
    repeat' (first | with_reducible assumption | (intro _; try dsimp only) | with_reducible apply stopStep_kept | with_reducible apply modStep_kept | with_reducible apply discardStep_kept | with_reducible apply kept_ite | simp only [↓kept_mk_iff] | (split <;> try dsimp only))

theorem frogBody_kept {q0 : State} {f : Nat} {hdr : Hdr} {st0 : State} (h_st0 : Kept q0 st0) : BodyKept q0 (frogBody f hdr st0) := by
    unfold frogBody
    try dsimp only
    repeat' (first | with_reducible assumption | (intro _; try dsimp only) | with_reducible exact bodyKept_error | with_reducible apply bodyKept_need | with_reducible apply bodyKept_ok | with_reducible apply kept_id | with_reducible apply withStep_kept | with_reducible apply needInFlight_kept | with_reducible apply frogStep_kept | simp only [↓kept_mk_iff])

theorem frogLanded_kept {q0 : State} {h : Nat} {s : State} (h_s : Kept q0 s) : Kept q0 (frogLanded h s) := by
    unfold frogLanded
    try dsimp only
    repeat' (first | with_reducible assumption | with_reducible apply finishFrog_kept | with_reducible apply releaseQuads_kept | with_reducible apply kept_ite | simp only [↓kept_mk_iff] | (split <;> try dsimp only))

end Sys2Proof.Machine
end

