-- ==== Sys2Proof/Laws/KeptSequencer.lean ====
section
/-!
SUPPORT. What the operations of Machine/Sequencer.lean leave alone (`Kept`), one lemma each.
-/
namespace Sys2Proof.Machine

theorem laneEvent_kept {q0 : State} {c : Nat} {l : Nat} {f : Nat → Nat → Entry → State → State} {s : State} (h_f : ∀ u0 : Nat, ∀ u1 : Nat, ∀ u2 : Entry, ∀ u3 : State, Kept q0 u3 → Kept q0 (f u0 u1 u2 u3)) (h_s : Kept q0 s) : Kept q0 (laneEvent c l f s) := by
    unfold laneEvent
    try dsimp only
    repeat' (first | with_reducible assumption | (intro _; try dsimp only) | with_reducible apply h_f | with_reducible apply kept_ite | simp only [↓kept_mk_iff] | (split <;> try dsimp only))

theorem haloWaited_kept {q0 : State} {c : Nat} {w : WaitOn} {s : State} (h_s : Kept q0 s) : Kept q0 (haloWaited c w s) := by
    unfold haloWaited
    try dsimp only
    repeat' (first | with_reducible assumption | (intro _; try dsimp only) | with_reducible apply coreWaitFree_kept | with_reducible apply kept_ite | simp only [↓kept_mk_iff] | (split <;> try dsimp only))

theorem wakeLane_kept {q0 : State} {c : Nat} {l : Nat} {w : WaitOn} {s : State} (h_s : Kept q0 s) : Kept q0 (wakeLane c l w s) := by
    unfold wakeLane
    try dsimp only
    repeat' (first | with_reducible assumption | (intro _; try dsimp only) | with_reducible apply passEntry_kept | with_reducible apply setCore_kept | with_reducible apply State.writeNat_kept | with_reducible apply kept_ite | simp only [↓kept_mk_iff] | (split <;> try dsimp only))

theorem setSem_kept {q0 : State} {p : Nat} {n : Nat} {m : Sem} {s : State} (h_s : Kept q0 s) : Kept q0 (setSem p n m s) := by
    unfold setSem
    try dsimp only
    repeat' (first | with_reducible assumption | (intro _; try dsimp only) | with_reducible apply modPart_kept | simp only [↓kept_mk_iff])

theorem serveSem_kept {q0 : State} {p : Nat} {n : Nat} {a1 : Nat} {a2 : State} (h_a2 : Kept q0 a2) : Kept q0 (serveSem p n a1 a2) := by
    revert h_a2
    fun_induction serveSem p n a1 a2 <;> intros
    all_goals repeat' (first | with_reducible assumption | with_reducible apply wakeLane_kept | with_reducible apply haloWaited_kept | with_reducible apply setSem_kept | with_reducible apply kept_ite | simp only [↓kept_mk_iff] | (split <;> try dsimp only) | with_reducible apply_assumption)

theorem signalSem_kept {q0 : State} {p : Nat} {n : Nat} {s : State} (h_s : Kept q0 s) : Kept q0 (signalSem p n s) := by
    unfold signalSem
    try dsimp only
    repeat' (first | with_reducible assumption | with_reducible apply devEvent_kept | with_reducible apply serveSem_kept | with_reducible apply setSem_kept | with_reducible apply kept_ite | simp only [↓kept_mk_iff])

theorem waitSem_kept {q0 : State} {p : Nat} {n : Nat} {c : Nat} {l : Nat} {s : State} (h_s : Kept q0 s) : Kept q0 (waitSem p n c l s) := by
    unfold waitSem
    try dsimp only
    repeat' (first | with_reducible assumption | (intro _; try dsimp only) | with_reducible apply passEntry_kept | with_reducible apply setSem_kept | with_reducible apply modLane_kept | with_reducible apply kept_ite | simp only [↓kept_mk_iff])

theorem lendClass_kept {q0 : State} {p : Nat} {waiter : Nat} {cls : Nat} {a1 : Nat} {a2 : Nat} {a3 : State} (h_a3 : Kept q0 a3) : Kept q0 (lendClass p waiter cls a1 a2 a3) := by
    induction a1 generalizing a2 a3 with
    | zero =>
      unfold lendClass
      try dsimp only
      first | assumption | exact keptOpt_none | exact keptOpt_some (by assumption)
    | succ n ih =>
      unfold lendClass
      try dsimp only
      repeat' (first | with_reducible assumption | (intro _; try dsimp only) | with_reducible apply modJob_kept | with_reducible apply modPart_kept | with_reducible apply modStep_kept | with_reducible apply stopStep_kept | with_reducible apply kept_ite | simp only [↓kept_mk_iff] | (split <;> try dsimp only) | with_reducible apply ih)

theorem lockCycle_kept {q0 : State} {p : Nat} {h : Nat} {s : State} (h_s : Kept q0 s) : Kept q0 (lockCycle p h s) := by
    unfold lockCycle
    try dsimp only
    repeat' (first | with_reducible assumption | (intro _; try dsimp only) | with_reducible apply recEvent_kept | with_reducible apply kept_ite | simp only [↓kept_mk_iff] | (split <;> try dsimp only))

theorem acquireLock_kept {q0 : State} {p : Nat} {n : Nat} {bound : Nat} {h : Nat} {c : Nat} {l : Nat} {s : State} (h_s : Kept q0 s) : Kept q0 (acquireLock p n bound h c l s) := by
    unfold acquireLock
    try dsimp only
    repeat' (first | with_reducible assumption | (intro _; try dsimp only) | with_reducible apply passEntry_kept | with_reducible apply modPart_kept | with_reducible apply modLane_kept | with_reducible apply lockCycle_kept | with_reducible apply lendClass_kept | with_reducible apply kept_ite | simp only [↓kept_mk_iff] | (split <;> try dsimp only))

theorem releaseLock_kept {q0 : State} {p : Nat} {n : Nat} {h : Nat} {s : State} (h_s : Kept q0 s) : Kept q0 (releaseLock p n h s) := by
    unfold releaseLock
    try dsimp only
    repeat' (first | with_reducible assumption | (intro _; try dsimp only) | with_reducible apply freeLock_kept | with_reducible apply modJob_kept | with_reducible apply kept_ite | simp only [↓kept_mk_iff] | (split <;> try dsimp only))

theorem csOver_kept {q0 : State} {p : Nat} {n : Nat} {s : State} (h_s : Kept q0 s) : Kept q0 (csOver p n s) := by
    unfold csOver
    try dsimp only
    repeat' (first | with_reducible assumption | (intro _; try dsimp only) | with_reducible apply modPart_kept | with_reducible apply stopStep_kept | with_reducible apply modJob_kept | with_reducible apply recEvent_kept | with_reducible apply kept_ite | simp only [↓kept_mk_iff] | (split <;> try dsimp only))

theorem putSummary_kept {q0 : State} {h : Nat} {c : Nat} {i : Nat} {v : W64} {s : State} (h_s : Kept q0 s) : Kept q0 (putSummary h c i v s) := by
    unfold putSummary
    try dsimp only
    repeat' (first | with_reducible assumption | (intro _; try dsimp only) | with_reducible apply setSreg_kept | with_reducible apply State.writeNat_kept | with_reducible apply kept_ite | simp only [↓kept_mk_iff] | (split <;> try dsimp only))

theorem mergeStep_kept {q0 : State} {h : Nat} {m : Nat} {s : State} (h_s : Kept q0 s) : Kept q0 (mergeStep h m s) := by
    unfold mergeStep
    try dsimp only
    repeat' (first | with_reducible assumption | (intro _; try dsimp only) | with_reducible apply putSummary_kept | with_reducible apply coreEvent_kept | with_reducible apply modStep_kept | with_reducible apply kept_ite | with_reducible apply kept_foldl | simp only [↓kept_mk_iff] | (split <;> try dsimp only))

theorem passAmax_kept {q0 : State} {ls : List (Nat × Nat × Nat)} {s : State} (h_s : Kept q0 s) : Kept q0 (passAmax ls s) := by
    unfold passAmax
    try dsimp only
    repeat' (first | with_reducible assumption | (intro _; try dsimp only) | with_reducible apply passEntry_kept | with_reducible apply modCore_kept | with_reducible apply kept_foldl | simp only [↓kept_mk_iff])

theorem amaxStep_kept {q0 : State} {h : Nat} {m : Nat} {s : State} (h_s : Kept q0 s) : Kept q0 (amaxStep h m s) := by
    unfold amaxStep
    try dsimp only
    repeat' (first | with_reducible assumption | (intro _; try dsimp only) | with_reducible apply passAmax_kept | with_reducible apply State.write_kept | with_reducible apply kept_ite | simp only [↓kept_mk_iff] | (split <;> try dsimp only))

theorem noteFate_kept {q0 : State} {c : Nat} {f : Option (Nat × W32)} {src : DescWord} {dst : DescWord} {s : State} (h_s : Kept q0 s) : Kept q0 (noteFate c f src dst s) := by
    unfold noteFate
    try dsimp only
    repeat' (first | with_reducible assumption | with_reducible apply takeFree_kept | with_reducible apply takeFree_kept_at | with_reducible apply addResidency_kept | with_reducible apply kept_ite | simp only [↓kept_mk_iff] | (split <;> try dsimp only))

theorem copyRaw_kept {q0 : State} {src : Tensor} {dst : Tensor} {s : State} (h_s : Kept q0 s) : Kept q0 (copyRaw src dst s) := by
    unfold copyRaw
    try dsimp only
    repeat' (first | with_reducible assumption | (intro _; try dsimp only) | with_reducible apply Tensor.writeCode_kept | with_reducible apply State.writeNat_kept | with_reducible apply Tensor.padScales_kept | with_reducible apply State.write_kept | with_reducible apply kept_ite | with_reducible apply kept_foldl)

theorem moveTensor_kept {q0 : State} {h : Nat} {c : Nat} {src : Tensor} {dst : Tensor} {cvt : Nat} {s : State} (h_s : Kept q0 s) : Kept q0 (moveTensor h c src dst cvt s) := by
    unfold moveTensor
    try dsimp only
    repeat' (first | with_reducible assumption | with_reducible exact Kept.refl | (intro _; try dsimp only) | with_reducible apply protectTensor_kept | with_reducible apply copyRaw_kept | with_reducible apply Tensor.store_kept | with_reducible apply Tensor.store_kept_at | with_reducible refine Tensor.store_kept_eq ‹_› ?_ | with_reducible apply addCounts_kept | with_reducible apply stageAmax_kept | with_reducible apply kept_ite | with_reducible apply kept_foldl | with_reducible apply kept_ite_by Prod.fst | with_reducible apply kept_ite_by Prod.snd | with_reducible apply kept_foldl_fst | with_reducible apply kept_foldl_snd | simp only [↓kept_mk_iff] | (split <;> try dsimp only))

theorem wakeMoverLanes_kept {q0 : State} {c : Nat} {s : State} (h_s : Kept q0 s) : Kept q0 (wakeMoverLanes c s) := by
    unfold wakeMoverLanes
    try dsimp only
    repeat' (first | with_reducible assumption | (intro _; try dsimp only) | with_reducible apply settleLane_kept | with_reducible apply kept_foldl | simp only [↓kept_mk_iff] | (split <;> try dsimp only))

theorem mapWait_kept {q0 : State} {s : State} {h : Nat} {c : Nat} {e : Entry} {s' : State} (h_s : Kept q0 s) (h_s' : Kept q0 s') : Kept q0 (mapWait s h c e s') := by
    unfold mapWait
    try dsimp only
    repeat' (first | with_reducible assumption | (intro _; try dsimp only) | with_reducible apply coreWaitFree_kept | with_reducible apply kept_ite)

theorem landMover_kept {q0 : State} {c : Nat} {n : Nat} {s : State} (h_s : Kept q0 s) : Kept q0 (landMover c n s) := by
    unfold landMover
    try dsimp only
    repeat' (first | with_reducible assumption | (intro _; try dsimp only) | with_reducible apply coreWaitFree_kept | with_reducible apply stopOnPage_kept | with_reducible apply moveTensor_kept | with_reducible apply mapWait_kept | with_reducible apply noteFate_kept | with_reducible apply touchPages_kept | with_reducible apply modCore_kept | with_reducible apply wakeMoverLanes_kept | with_reducible apply signalSem_kept | with_reducible apply kept_ite | simp only [↓kept_mk_iff] | (split <;> try dsimp only))

theorem prefetchLate_kept {q0 : State} {c : Nat} {layer : Nat} {waited : Nat} {s : State} (h_s : Kept q0 s) : Kept q0 (prefetchLate c layer waited s) := by
    unfold prefetchLate
    try dsimp only
    repeat' (first | with_reducible assumption | (intro _; try dsimp only) | with_reducible apply fenceStall_kept | with_reducible apply modCore_kept | with_reducible apply recEvent_kept | with_reducible apply kept_ite | simp only [↓kept_mk_iff] | (split <;> try dsimp only) | with_reducible refine KeptOpt.get (keptOpt_findSome ?_) _ ‹_ = some _›)

theorem haloMismatch_kept {q0 : State} {c : Nat} {h : Nat} {slot : Nat} {found : Nat} {want : Nat} {s : State} (h_s : Kept q0 s) : Kept q0 (haloMismatch c h slot found want s) := by
    unfold haloMismatch
    try dsimp only
    repeat' (first | with_reducible assumption | with_reducible apply stopFaulty_kept | with_reducible apply raiseFault_kept)

theorem putStage_kept {q0 : State} {h : Nat} {g : SeqStage} {s : State} (h_s : Kept q0 s) : Kept q0 (putStage h g s) := by
    unfold putStage
    try dsimp only
    repeat' (first | with_reducible assumption | (intro _; try dsimp only) | with_reducible apply modStep_kept | with_reducible apply kept_ite | simp only [↓kept_mk_iff])

theorem appendLayer_kept {q0 : State} {h : Nat} {c : Nat} {l : Nat} {sb : Nat} {layer : Nat} {k : Tensor} {v : Tensor} {g : SeqStage} {kv : KvSpace} {q : KvSeq} {s : State} (h_s : Kept q0 s) : Kept q0 (appendLayer h c l sb layer k v g kv q s) := by
    unfold appendLayer
    try dsimp only
    repeat' (first | with_reducible assumption | (intro _; try dsimp only) | with_reducible apply stopFaulty_kept | with_reducible apply kvLostFault_kept | with_reducible apply stopOnPage_kept | with_reducible apply touchPages_kept | with_reducible apply copyOnAppend_kept | with_reducible apply appendRows_kept | with_reducible apply absorbTags_kept | with_reducible apply absorbTags_kept_at | with_reducible apply putStage_kept | with_reducible apply passEntry_kept | with_reducible apply kept_ite | simp only [↓kept_mk_iff] | (split <;> try dsimp only))

theorem appendArea_kept {q0 : State} {p : Nat} {area : Option Tensor} {rec' : List Byte} {event : Nat} {s : State} (h_s : Kept q0 s) : Kept q0 (appendArea p area rec' event s) := by
    unfold appendArea
    try dsimp only
    repeat' (first | with_reducible assumption | (intro _; try dsimp only) | with_reducible apply devEvent_kept | with_reducible apply State.write_kept | with_reducible apply touchPages_kept | with_reducible apply modPart_kept | with_reducible apply kept_ite | simp only [↓kept_mk_iff] | (split <;> try dsimp only))

theorem fenceRecords_kept {q0 : State} {h : Nat} {s : State} (h_s : Kept q0 s) : Kept q0 (fenceRecords h s) := by
    unfold fenceRecords
    try dsimp only
    repeat' (first | with_reducible assumption | (intro _; try dsimp only) | with_reducible apply appendArea_kept | with_reducible apply kept_foldl | simp only [↓kept_mk_iff] | (split <;> try dsimp only))

theorem leakLocks_kept {q0 : State} {h : Nat} {s : State} (h_s : Kept q0 s) : Kept q0 (leakLocks h s) := by
    unfold leakLocks
    try dsimp only
    repeat' (first | with_reducible assumption | (intro _; try dsimp only) | with_reducible apply recEvent_kept | with_reducible apply freeLock_kept | with_reducible apply kept_foldl | simp only [↓kept_mk_iff] | (split <;> try dsimp only))

theorem finishReplay_kept {q0 : State} {h : Nat} {r : ReplayInfo} {s : State} (h_s : Kept q0 s) : Kept q0 (finishReplay h r s) := by
    unfold finishReplay
    try dsimp only
    repeat' (first | with_reducible assumption | (intro _; try dsimp only) | with_reducible apply State.write_kept | with_reducible apply writeReplayRecord_kept | with_reducible apply finish_kept | with_reducible apply endReplay_kept | simp only [↓kept_mk_iff] | (split <;> try dsimp only))

theorem holdStep_kept {q0 : State} {h : Nat} {s : State} (h_s : Kept q0 s) : Kept q0 (holdStep h s) := by
    unfold holdStep
    try dsimp only
    repeat' (first | with_reducible assumption | (intro _; try dsimp only) | with_reducible apply stopOnPage_kept | with_reducible apply fenceRecords_kept | with_reducible apply leakLocks_kept | with_reducible apply modStep_kept | with_reducible apply finishReplay_kept | with_reducible apply releaseQuads_kept | with_reducible apply releaseCores_kept | with_reducible apply writeReplayRecord_kept | with_reducible apply complete_kept | with_reducible apply kept_ite | simp only [↓kept_mk_iff] | (split <;> try dsimp only))

end Sys2Proof.Machine
end

