-- ==== Sys2Proof/Laws/KeptCollectives.lean ====
section
/-!
SUPPORT. What the operations of Machine/Collectives.lean leave alone (`Kept`), one lemma each.
-/
namespace Sys2Proof.Machine

theorem sendTo_kept {q0 : State} {q : Peloton} {pel : Nat} {r : Nat} {mtype : Nat} {fmt : Nat} {epoch : Nat} {layout : Nat} {h : CollHead} {body : List Byte} {s : State} (h_s : Kept q0 s) : Kept q0 (sendTo q pel r mtype fmt epoch layout h body s) := by
    unfold sendTo
    try dsimp only
    repeat' (first | with_reducible assumption | with_reducible apply sendMsg_kept | simp only [↓kept_mk_iff])

theorem modCall_kept {q0 : State} {h : Nat} {n : Nat} {call : Nat} {f : CallRun → CallRun} {s : State} (h_s : Kept q0 s) : Kept q0 (modCall h n call f s) := by
    unfold modCall
    try dsimp only
    repeat' (first | with_reducible assumption | (intro _; try dsimp only) | with_reducible apply modStep_kept | with_reducible apply kept_ite | simp only [↓kept_mk_iff])

theorem putSregOut_kept {q0 : State} {h : Nat} {c : CallRun} {v : Nat} {s : State} (h_s : Kept q0 s) : Kept q0 (putSregOut h c v s) := by
    unfold putSregOut
    try dsimp only
    repeat' (first | with_reducible assumption | with_reducible apply putSummary_kept)

theorem sendBlocks_kept {q0 : State} {q : Peloton} {n : Nat} {r : Nat} {mtype : Nat} {epoch : Nat} {layout : Nat} {hd : CollHead} {body : Bool} {a1 : Nat} {a2 : List WireBlock} {a3 : State} (h_a3 : Kept q0 a3) : Kept q0 (sendBlocks q n r mtype epoch layout hd body a1 a2 a3) := by
  induction a1 generalizing hd a2 a3 with
  | zero => exact h_a3
  | succ k ih =>
    cases a2 with
    | nil => unfold sendBlocks; exact h_a3
    | cons b r => unfold sendBlocks; exact ih (sendTo_kept h_a3)

theorem startPass_kept {q0 : State} {h : Nat} {n : Nat} {q : Peloton} {c : CallRun} {src : Tensor} {s : State} (h_s : Kept q0 s) : Kept q0 (startPass h n q c src s) := by
    unfold startPass
    try dsimp only
    repeat' (first | with_reducible assumption | (intro _; try dsimp only) | with_reducible apply modCall_kept | with_reducible apply addCounts_kept | with_reducible apply sendBlocks_kept | with_reducible apply kept_ite | with_reducible apply kept_foldl | simp only [↓kept_mk_iff])

theorem writeBlock_kept {q0 : State} {s : State} {dst : Tensor} {at' : Nat} {tag : Nat} {codes : List Nat} (h_s : Kept q0 s) : KeptVia (fun x => x.1) q0 (writeBlock s dst at' tag codes) := by
    unfold writeBlock
    try dsimp only
    repeat' (first | with_reducible assumption | (intro _; try dsimp only) | with_reducible apply Tensor.writeCode_kept | with_reducible apply Tensor.padRow_kept | with_reducible apply State.write_kept | with_reducible apply keptVia_ite | with_reducible apply keptVia_foldl | with_reducible apply kept_ite | with_reducible apply kept_foldl | (with_reducible refine keptVia_mk ?_; try dsimp only))

theorem writeBlock_kept_at {q0 : State} {s : State} {dst : Tensor} {at' : Nat} {tag : Nat} {codes : List Nat} (h_s : Kept q0 s) : Kept q0 (writeBlock s dst at' tag codes).1 := writeBlock_kept (q0 := q0) (s := s) (dst := dst) (at' := at') (tag := tag) (codes := codes) h_s

theorem writeBlock_kept_eq {q0 : State} {s : State} {dst : Tensor} {at' : Nat} {tag : Nat} {codes : List Nat} {v0} {v1} (he : (writeBlock s dst at' tag codes) = (v0, v1)) (h_s : Kept q0 s) : Kept q0 v0 := by
    have := writeBlock_kept_at (q0 := q0) (s := s) (dst := dst) (at' := at') (tag := tag) (codes := codes) h_s
    rw [he] at this; exact this

theorem writeFinal_kept {q0 : State} {s : State} {h : Nat} {q : Peloton} {c : CallRun} {chunk : Nat} {bs : List WireBlock} (h_s : Kept q0 s) : Kept q0 (writeFinal s h q c chunk bs) := by
    unfold writeFinal
    try dsimp only
    repeat' (first | with_reducible assumption | with_reducible exact Kept.refl | (intro _; try dsimp only) | with_reducible apply writeBlock_kept | with_reducible apply writeBlock_kept_at | with_reducible refine writeBlock_kept_eq ‹_› ?_ | with_reducible apply protectTensor_kept | with_reducible apply coreEvent_kept | with_reducible apply kept_ite | with_reducible apply kept_foldl | with_reducible apply kept_ite_by Prod.fst | with_reducible apply kept_ite_by Prod.snd | with_reducible apply kept_foldl_fst | with_reducible apply kept_foldl_snd | simp only [↓kept_mk_iff] | (split <;> try dsimp only))

theorem completeReduction_kept {q0 : State} {h : Nat} {n : Nat} {s : State} {c : CallRun} (h_s : Kept q0 s) : Kept q0 (completeReduction h n s c) := by
    unfold completeReduction
    try dsimp only
    repeat' (first | with_reducible assumption | (intro _; try dsimp only) | with_reducible apply modCall_kept | with_reducible apply stageAmax_kept | with_reducible apply modStep_kept | with_reducible apply devEvent_kept | with_reducible apply modPel_kept | with_reducible apply putSregOut_kept | with_reducible apply kept_ite | simp only [↓kept_mk_iff] | (split <;> try dsimp only))

theorem endPass_kept {q0 : State} {h : Nat} {n : Nat} {call : Nat} {s : State} (h_s : Kept q0 s) : Kept q0 (endPass h n call s) := by
    unfold endPass
    try dsimp only
    repeat' (first | with_reducible assumption | (intro _; try dsimp only) | with_reducible apply completeReduction_kept | with_reducible apply modCall_kept | with_reducible apply startPass_kept | with_reducible apply kept_ite | simp only [↓kept_mk_iff] | (split <;> try dsimp only))

theorem finishChunk_kept {q0 : State} {h : Nat} {n : Nat} {q : Peloton} {c : CallRun} {late : Nat} {agreed : Nat} {s : State} (h_s : Kept q0 s) : Kept q0 (finishChunk h n q c late agreed s) := by
    unfold finishChunk
    try dsimp only
    repeat' (first | with_reducible assumption | (intro _; try dsimp only) | with_reducible apply coreEvent_kept | with_reducible apply writeFinal_kept | with_reducible apply modCall_kept | with_reducible apply sendBlocks_kept | simp only [↓kept_mk_iff])

theorem putRow_kept {q0 : State} {s : State} {t : Tensor} {r : Nat} {bs : List Byte} (h_s : Kept q0 s) : Kept q0 (putRow s t r bs) := by
    unfold putRow
    try dsimp only
    repeat' (first | with_reducible assumption | (intro _; try dsimp only) | with_reducible apply Tensor.writeCode_kept | with_reducible apply State.write_kept | with_reducible apply Tensor.padRow_kept | with_reducible apply kept_ite | with_reducible apply kept_foldl)

theorem fillRow_kept {q0 : State} {s : State} {t : Tensor} {r : Nat} (h_s : Kept q0 s) : Kept q0 (fillRow s t r) := by
    unfold fillRow
    try dsimp only
    repeat' (first | with_reducible assumption | with_reducible apply Tensor.storeFrom_kept | with_reducible apply Tensor.storeFrom_kept_at | with_reducible apply Tensor.padRow_kept | with_reducible apply kept_ite)

theorem landRows_kept {q0 : State} {h : Nat} {c : CallRun} {sender : Nat} {slots : List Nat} {rows : List (List Byte)} {s : State} (h_s : Kept q0 s) : Kept q0 (landRows h c sender slots rows s) := by
    unfold landRows
    try dsimp only
    repeat' (first | with_reducible assumption | (intro _; try dsimp only) | with_reducible apply putRow_kept | with_reducible apply protectTensor_kept | with_reducible apply kept_ite | with_reducible apply kept_foldl | simp only [↓kept_mk_iff] | (split <;> try dsimp only))

theorem writeGotCounts_kept {q0 : State} {h : Nat} {w : CallWord} {ns : List Nat} {s : State} (h_s : Kept q0 s) : Kept q0 (writeGotCounts h w ns s) := by
    unfold writeGotCounts
    try dsimp only
    repeat' (first | with_reducible assumption | (intro _; try dsimp only) | with_reducible apply Tensor.writeCode_kept | with_reducible apply protectTensor_kept | with_reducible apply kept_ite | with_reducible apply kept_foldl | simp only [↓kept_mk_iff] | (split <;> try dsimp only))

theorem endExchange_kept {q0 : State} {h : Nat} {n : Nat} {call : Nat} {s : State} (h_s : Kept q0 s) : Kept q0 (endExchange h n call s) := by
    unfold endExchange
    try dsimp only
    repeat' (first | with_reducible assumption | (intro _; try dsimp only) | with_reducible apply writeGotCounts_kept | with_reducible apply putSregOut_kept | with_reducible apply modCall_kept | with_reducible apply kept_ite | with_reducible apply kept_foldl | simp only [↓kept_mk_iff] | (split <;> try dsimp only))

theorem startExchange_kept {q0 : State} {h : Nat} {n : Nat} {q : Peloton} {c : CallRun} {src : Tensor} {s : State} (h_s : Kept q0 s) : Kept q0 (startExchange h n q c src s) := by
    unfold startExchange
    try dsimp only
    repeat' (first | with_reducible assumption | (intro _; try dsimp only) | with_reducible apply coreEvent_kept | with_reducible apply modStep_kept | with_reducible apply modCall_kept | with_reducible apply landRows_kept | with_reducible apply sendTo_kept | with_reducible apply endExchange_kept | with_reducible apply kept_ite | with_reducible apply kept_foldl | simp only [↓kept_mk_iff])

theorem endReturn_kept {q0 : State} {h : Nat} {n : Nat} {call : Nat} {s : State} (h_s : Kept q0 s) : Kept q0 (endReturn h n call s) := by
    unfold endReturn
    try dsimp only
    repeat' (first | with_reducible assumption | (intro _; try dsimp only) | with_reducible apply modCall_kept | with_reducible apply kept_ite | simp only [↓kept_mk_iff] | (split <;> try dsimp only))

theorem landReturned_kept {q0 : State} {h : Nat} {c : CallRun} {r : Nat} {rows : List (List Byte)} {s : State} (h_s : Kept q0 s) : Kept q0 (landReturned h c r rows s) := by
    unfold landReturned
    try dsimp only
    repeat' (first | with_reducible assumption | (intro _; try dsimp only) | with_reducible apply putRow_kept | with_reducible apply protectTensor_kept | with_reducible apply kept_ite | with_reducible apply kept_foldl | simp only [↓kept_mk_iff] | (split <;> try dsimp only))

theorem startReturn_kept {q0 : State} {h : Nat} {n : Nat} {q : Peloton} {c : CallRun} {s : State} (h_s : Kept q0 s) : Kept q0 (startReturn h n q c s) := by
    unfold startReturn
    try dsimp only
    repeat' (first | with_reducible assumption | (intro _; try dsimp only) | with_reducible apply fillRow_kept | with_reducible apply protectTensor_kept | with_reducible apply landReturned_kept | with_reducible apply sendTo_kept | with_reducible apply endReturn_kept | with_reducible apply kept_ite | with_reducible apply kept_foldl | simp only [↓kept_mk_iff] | (split <;> try dsimp only))

theorem putShard_kept {q0 : State} {h : Nat} {c : CallRun} {r : Nat} {outs : List (Nat × Cnt)} {s : State} (h_s : Kept q0 s) : Kept q0 (putShard h c r outs s) := by
    unfold putShard
    try dsimp only
    repeat' (first | with_reducible assumption | (intro _; try dsimp only) | with_reducible apply Tensor.writeCode_kept | with_reducible apply protectTensor_kept | with_reducible apply kept_ite | with_reducible apply kept_foldl | simp only [↓kept_mk_iff] | (split <;> try dsimp only))

theorem endGather_kept {q0 : State} {h : Nat} {n : Nat} {call : Nat} {s : State} (h_s : Kept q0 s) : Kept q0 (endGather h n call s) := by
    unfold endGather
    try dsimp only
    repeat' (first | with_reducible assumption | (intro _; try dsimp only) | with_reducible apply modCall_kept | with_reducible apply kept_ite | simp only [↓kept_mk_iff] | (split <;> try dsimp only))

theorem startGather_kept {q0 : State} {h : Nat} {n : Nat} {q : Peloton} {c : CallRun} {src : Tensor} {s : State} (h_s : Kept q0 s) : Kept q0 (startGather h n q c src s) := by
    unfold startGather
    try dsimp only
    repeat' (first | with_reducible assumption | (intro _; try dsimp only) | with_reducible apply putShard_kept | with_reducible apply addCounts_kept | with_reducible apply stageAmax_kept | with_reducible apply sendTo_kept | with_reducible apply endGather_kept | with_reducible apply kept_ite | with_reducible apply kept_foldl | simp only [↓kept_mk_iff] | (split <;> try dsimp only))

theorem startCall_kept {q0 : State} {h : Nat} {n : Nat} {call : Nat} {s : State} (h_s : Kept q0 s) : Kept q0 (startCall h n call s) := by
    unfold startCall
    try dsimp only
    repeat' (first | with_reducible assumption | (intro _; try dsimp only) | with_reducible apply modCall_kept | with_reducible apply modStep_kept | with_reducible apply endPass_kept | with_reducible apply startPass_kept | with_reducible apply startGather_kept | with_reducible apply startExchange_kept | with_reducible apply startReturn_kept | with_reducible apply kept_ite | simp only [↓kept_mk_iff] | (split <;> try dsimp only))

theorem startCalls_kept {q0 : State} {h : Nat} {n : Nat} {s : State} (h_s : Kept q0 s) : Kept q0 (startCalls h n s) := by
    unfold startCalls
    try dsimp only
    repeat' (first | with_reducible assumption | (intro _; try dsimp only) | with_reducible apply startCall_kept | with_reducible apply kept_ite | with_reducible apply kept_foldl | simp only [↓kept_mk_iff] | (split <;> try dsimp only))

theorem excludeCall_kept {q0 : State} {p : Nat} {h : Nat} {n : Nat} {call : Nat} {s : State} (h_s : Kept q0 s) : Kept q0 (excludeCall p h n call s) := by
    unfold excludeCall
    try dsimp only
    repeat' (first | with_reducible assumption | (intro _; try dsimp only) | with_reducible apply modCall_kept | with_reducible apply devEvent_kept | with_reducible apply modPel_kept | simp only [↓kept_mk_iff])

theorem excludeLogged_kept {q0 : State} {h : Nat} {n : Nat} {call : Nat} {run : CallRun} {s : State} (h_s : Kept q0 s) : Kept q0 (excludeLogged h n call run s) := by
    unfold excludeLogged
    try dsimp only
    repeat' (first | with_reducible assumption | with_reducible apply excludeCall_kept | with_reducible apply kept_ite | simp only [↓kept_mk_iff] | (split <;> try dsimp only))

theorem issueCall_kept {q0 : State} {c : Nat} {l : Nat} {h : Nat} {w : CallWord} {s : State} (h_s : Kept q0 s) : Kept q0 (issueCall c l h w s) := by
    unfold issueCall
    try dsimp only
    repeat' (first | with_reducible assumption | (intro _; try dsimp only) | with_reducible apply passEntry_kept | with_reducible apply startCalls_kept | with_reducible apply putSregOut_kept | with_reducible apply modCall_kept | with_reducible apply excludeLogged_kept | with_reducible apply kept_ite | simp only [↓kept_mk_iff] | (split <;> try dsimp only))

theorem fenceCall_kept {q0 : State} {c : Nat} {l : Nat} {h : Nat} {call : Nat} {s : State} (h_s : Kept q0 s) : Kept q0 (fenceCall c l h call s) := by
    unfold fenceCall
    try dsimp only
    repeat' (first | with_reducible assumption | (intro _; try dsimp only) | with_reducible apply passEntry_kept | with_reducible apply coreWaitFree_kept | with_reducible apply kept_ite | simp only [↓kept_mk_iff] | (split <;> try dsimp only))

theorem received_kept {q0 : State} {p : Nat} {n : Nat} {h : Nat} {m : CollMsg} {s : State} (h_s : Kept q0 s) : Kept q0 (received p n h m s) := by
    unfold received
    try dsimp only
    repeat' (first | with_reducible assumption | (intro _; try dsimp only) | with_reducible apply modCall_kept | with_reducible apply dropMsg_kept | simp only [↓kept_mk_iff])

theorem takeMessage_kept {q0 : State} {p : Nat} {n : Nat} {mtype : Nat} {s : State} (h_s : Kept q0 s) : KeptOpt (fun x => x.2.2.2.2.2) q0 (takeMessage p n mtype s) := by
    unfold takeMessage
    try dsimp only
    repeat' (first | with_reducible assumption | (intro _; try dsimp only) | with_reducible apply received_kept | with_reducible exact keptOpt_none | with_reducible apply keptOpt_map | with_reducible apply keptOpt_findSome | with_reducible apply keptOpt_some | simp only [↓kept_mk_iff] | (split <;> try dsimp only) | with_reducible refine KeptOpt.get (keptOpt_findSome ?_) _ ‹_ = some _› | (with_reducible refine keptVia_mk ?_; try dsimp only))

theorem takeMessage_kept_some {q0 : State} {p : Nat} {n : Nat} {mtype : Nat} {s : State} {y} (he : (takeMessage p n mtype s) = some y) (h_s : Kept q0 s) : Kept q0 y.2.2.2.2.2 := (takeMessage_kept (q0 := q0) (p := p) (n := n) (mtype := mtype) (s := s) h_s).get _ he

theorem takeMessage_kept_eq {q0 : State} {p : Nat} {n : Nat} {mtype : Nat} {s : State} {v0} {v1} {v2} {v3} {v4} {v5} (he : (takeMessage p n mtype s) = some (v0, v1, v2, v3, v4, v5)) (h_s : Kept q0 s) : Kept q0 v5 := (takeMessage_kept (q0 := q0) (p := p) (n := n) (mtype := mtype) (s := s) h_s).get _ he

theorem noteScale_kept {q0 : State} {h : Nat} {n : Nat} {q : Peloton} {c : CallRun} {src : Tensor} {hd : CollHead} {s : State} (h_s : Kept q0 s) : Kept q0 (noteScale h n q c src hd s) := by
    unfold noteScale
    try dsimp only
    repeat' (first | with_reducible assumption | (intro _; try dsimp only) | with_reducible apply devEvent_kept | with_reducible apply modPel_kept | with_reducible apply kept_ite | simp only [↓kept_mk_iff])

theorem finishBlocks_kept {q0 : State} {h : Nat} {n : Nat} {q : Peloton} {c : CallRun} {hd : CollHead} {late : Nat} {bs : List WireBlock} {s : State} (h_s : Kept q0 s) : Kept q0 (finishBlocks h n q c hd late bs s) := by
    unfold finishBlocks
    try dsimp only
    repeat' (first | with_reducible assumption | (intro _; try dsimp only) | with_reducible apply modCall_kept | with_reducible apply startCalls_kept | with_reducible apply endPass_kept | with_reducible apply finishChunk_kept | with_reducible apply kept_ite | simp only [↓kept_mk_iff])

theorem scatterHop_kept {q0 : State} {h : Nat} {n : Nat} {q : Peloton} {c : CallRun} {src : Tensor} {m : CollMsg} {hd : CollHead} {s : State} (h_s : Kept q0 s) : Kept q0 (scatterHop h n q c src m hd s) := by
    unfold scatterHop
    try dsimp only
    repeat' (first | with_reducible assumption | (intro _; try dsimp only) | with_reducible apply noteScale_kept | with_reducible apply addCounts_kept | with_reducible apply sendBlocks_kept | with_reducible apply finishBlocks_kept | with_reducible apply kept_ite | with_reducible apply kept_foldl | simp only [↓kept_mk_iff])

theorem redScatter_kept {q0 : State} {p : Nat} {n : Nat} {s : State} (h_s : Kept q0 s) : Kept q0 (redScatter p n s) := by
    unfold redScatter
    try dsimp only
    repeat' (first | with_reducible assumption | with_reducible apply takeMessage_kept | with_reducible refine takeMessage_kept_some ‹_› ?_ | with_reducible apply scatterHop_kept | simp only [↓kept_mk_iff] | (split <;> try dsimp only))

theorem freeTags_kept {q0 : State} {a1 : List Nat} {a2 : State} (h_a2 : Kept q0 a2) : KeptVia (fun x => x.2) q0 (freeTags a1 a2) := by
    revert h_a2
    fun_induction freeTags a1 a2 <;> intros
    all_goals repeat' (first | with_reducible assumption | with_reducible apply takeFree_kept | with_reducible apply takeFree_kept_at | (with_reducible refine keptVia_mk ?_; try dsimp only) | with_reducible apply_assumption)

theorem freeTags_kept_at {q0 : State} {a1 : List Nat} {a2 : State} (h_a2 : Kept q0 a2) : Kept q0 (freeTags a1 a2).2 := freeTags_kept (q0 := q0) (a1 := a1) (a2 := a2) h_a2

theorem freeTags_kept_eq {q0 : State} {a1 : List Nat} {a2 : State} {v0} {v1} (he : (freeTags a1 a2) = (v0, v1)) (h_a2 : Kept q0 a2) : Kept q0 v1 := by
    have := freeTags_kept_at (q0 := q0) (a1 := a1) (a2 := a2) h_a2
    rw [he] at this; exact this

theorem gatherBlocks_kept {q0 : State} {c : CallRun} {hd : CollHead} {len : Nat} {body : List Byte} {s : State} (h_s : Kept q0 s) : KeptVia (fun x => x.2) q0 (gatherBlocks c hd len body s) := by
    unfold gatherBlocks
    try dsimp only
    repeat' (first | with_reducible assumption | (intro _; try dsimp only) | with_reducible apply freeTags_kept | with_reducible apply freeTags_kept_at | with_reducible apply keptVia_ite | with_reducible apply kept_ite | (with_reducible refine keptVia_mk ?_; try dsimp only))

theorem gatherBlocks_kept_at {q0 : State} {c : CallRun} {hd : CollHead} {len : Nat} {body : List Byte} {s : State} (h_s : Kept q0 s) : Kept q0 (gatherBlocks c hd len body s).2 := gatherBlocks_kept (q0 := q0) (c := c) (hd := hd) (len := len) (body := body) (s := s) h_s

theorem gatherBlocks_kept_eq {q0 : State} {c : CallRun} {hd : CollHead} {len : Nat} {body : List Byte} {s : State} {v0} {v1} (he : (gatherBlocks c hd len body s) = (v0, v1)) (h_s : Kept q0 s) : Kept q0 v1 := by
    have := gatherBlocks_kept_at (q0 := q0) (c := c) (hd := hd) (len := len) (body := body) (s := s) h_s
    rw [he] at this; exact this

theorem passOn_kept {q0 : State} {h : Nat} {n : Nat} {q : Peloton} {c : CallRun} {m : CollMsg} {hd : CollHead} {s : State} (h_s : Kept q0 s) : Kept q0 (passOn h n q c m hd s) := by
    unfold passOn
    try dsimp only
    repeat' (first | with_reducible assumption | with_reducible apply sendTo_kept | with_reducible apply kept_ite | simp only [↓kept_mk_iff])

theorem gatherHop_kept {q0 : State} {h : Nat} {n : Nat} {q : Peloton} {c : CallRun} {m : CollMsg} {hd : CollHead} {s : State} (h_s : Kept q0 s) : Kept q0 (gatherHop h n q c m hd s) := by
    unfold gatherHop
    try dsimp only
    repeat' (first | with_reducible assumption | with_reducible apply gatherBlocks_kept | with_reducible apply gatherBlocks_kept_at | with_reducible apply startCalls_kept | with_reducible apply endPass_kept | with_reducible apply passOn_kept | with_reducible apply modCall_kept | with_reducible apply writeFinal_kept)

theorem redGather_kept {q0 : State} {p : Nat} {n : Nat} {s : State} (h_s : Kept q0 s) : Kept q0 (redGather p n s) := by
    unfold redGather
    try dsimp only
    repeat' (first | with_reducible assumption | with_reducible apply takeMessage_kept | with_reducible refine takeMessage_kept_some ‹_› ?_ | with_reducible apply gatherHop_kept | simp only [↓kept_mk_iff] | (split <;> try dsimp only))

theorem shardHop_kept {q0 : State} {h : Nat} {n : Nat} {q : Peloton} {c : CallRun} {m : CollMsg} {hd : CollHead} {s : State} (h_s : Kept q0 s) : Kept q0 (shardHop h n q c m hd s) := by
    unfold shardHop
    try dsimp only
    repeat' (first | with_reducible assumption | (intro _; try dsimp only) | with_reducible apply addCounts_kept | with_reducible apply devEvent_kept | with_reducible apply passOn_kept | with_reducible apply putShard_kept | with_reducible apply startCalls_kept | with_reducible apply endGather_kept | with_reducible apply modCall_kept | with_reducible apply kept_foldl)

theorem paramGather_kept {q0 : State} {p : Nat} {n : Nat} {s : State} (h_s : Kept q0 s) : Kept q0 (paramGather p n s) := by
    unfold paramGather
    try dsimp only
    repeat' (first | with_reducible assumption | with_reducible apply takeMessage_kept | with_reducible refine takeMessage_kept_some ‹_› ?_ | with_reducible apply shardHop_kept | simp only [↓kept_mk_iff] | (split <;> try dsimp only))

theorem exchangeRows_kept {q0 : State} {h : Nat} {n : Nat} {c : CallRun} {dst : Tensor} {m : CollMsg} {hd : CollHead} {s : State} (h_s : Kept q0 s) : Kept q0 (exchangeRows h n c dst m hd s) := by
    unfold exchangeRows
    try dsimp only
    repeat' (first | with_reducible assumption | (intro _; try dsimp only) | with_reducible apply landRows_kept | with_reducible apply startCalls_kept | with_reducible apply endExchange_kept | with_reducible apply modCall_kept | simp only [↓kept_mk_iff])

theorem exchange_kept {q0 : State} {p : Nat} {n : Nat} {s : State} (h_s : Kept q0 s) : Kept q0 (exchange p n s) := by
    unfold exchange
    try dsimp only
    repeat' (first | with_reducible assumption | with_reducible apply takeMessage_kept | with_reducible refine takeMessage_kept_some ‹_› ?_ | with_reducible apply exchangeRows_kept | simp only [↓kept_mk_iff] | (split <;> try dsimp only))

theorem returnedRows_kept {q0 : State} {h : Nat} {n : Nat} {c : CallRun} {dst : Tensor} {m : CollMsg} {hd : CollHead} {s : State} (h_s : Kept q0 s) : Kept q0 (returnedRows h n c dst m hd s) := by
    unfold returnedRows
    try dsimp only
    repeat' (first | with_reducible assumption | with_reducible apply landReturned_kept | with_reducible apply startCalls_kept | with_reducible apply endReturn_kept | with_reducible apply modCall_kept)

theorem exchangeReturn_kept {q0 : State} {p : Nat} {n : Nat} {s : State} (h_s : Kept q0 s) : Kept q0 (exchangeReturn p n s) := by
    unfold exchangeReturn
    try dsimp only
    repeat' (first | with_reducible assumption | with_reducible apply takeMessage_kept | with_reducible refine takeMessage_kept_some ‹_› ?_ | with_reducible apply returnedRows_kept | simp only [↓kept_mk_iff] | (split <;> try dsimp only))

theorem lateExclude_kept {q0 : State} {p : Nat} {n : Nat} {call : Nat} {s : State} (h_s : Kept q0 s) : Kept q0 (lateExclude p n call s) := by
    unfold lateExclude
    try dsimp only
    repeat' (first | with_reducible assumption | with_reducible apply startCalls_kept | with_reducible apply excludeCall_kept | with_reducible apply kept_ite | simp only [↓kept_mk_iff] | (split <;> try dsimp only))

theorem lateContribution_kept {q0 : State} {p : Nat} {n : Nat} {call : Nat} {s : State} (h_s : Kept q0 s) : Kept q0 (lateContribution p n call s) := by
    unfold lateContribution
    try dsimp only
    repeat' (first | with_reducible assumption | (intro _; try dsimp only) | with_reducible apply modStep_kept | with_reducible apply modPel_kept | with_reducible apply devEvent_kept | with_reducible apply kept_ite | simp only [↓kept_mk_iff] | (split <;> try dsimp only))

theorem sendAbort_kept {q0 : State} {h : Nat} {n : Nat} {call : Nat} {awaited : Nat} {s : State} (h_s : Kept q0 s) : Kept q0 (sendAbort h n call awaited s) := by
    unfold sendAbort
    try dsimp only
    repeat' (first | with_reducible assumption | with_reducible apply sendTo_kept | simp only [↓kept_mk_iff] | (split <;> try dsimp only))

theorem abortCall_kept {q0 : State} {code : Nat} {h : Nat} {n : Nat} {call : Nat} {detail : Nat} {awaited : Nat} {s : State} (h_s : Kept q0 s) : Kept q0 (abortCall code h n call detail awaited s) := by
    unfold abortCall
    try dsimp only
    repeat' (first | with_reducible assumption | with_reducible apply sendAbort_kept | with_reducible apply stopFaulty_kept | with_reducible apply raiseFault_kept | with_reducible apply kept_ite)

theorem peerTimeout_kept {q0 : State} {p : Nat} {n : Nat} {call : Nat} {s : State} (h_s : Kept q0 s) : Kept q0 (peerTimeout p n call s) := by
    unfold peerTimeout
    try dsimp only
    repeat' (first | with_reducible assumption | with_reducible apply abortCall_kept | with_reducible apply kept_ite | simp only [↓kept_mk_iff] | (split <;> try dsimp only))

theorem takeAbort_kept {q0 : State} {p : Nat} {n : Nat} {s : State} (h_s : Kept q0 s) : Kept q0 (takeAbort p n s) := by
    unfold takeAbort
    try dsimp only
    repeat' (first | with_reducible assumption | (intro _; try dsimp only) | with_reducible apply dropMsg_kept | with_reducible apply abortCall_kept | simp only [↓kept_mk_iff] | (split <;> try dsimp only))

end Sys2Proof.Machine
end

