-- ==== Sys2Proof/Laws/KeptWalk.lean ====
section
/-!
SUPPORT. What the operations of Machine/Walk.lean leave alone (`Kept`), one lemma each.
-/
namespace Sys2Proof.Machine

theorem addRows_kept {q0 : State} {t : Tensor} {l : List (Nat × List W32)} {s : State} (h_s : Kept q0 s) : KeptVia (fun x => x.1) q0 (addRows t l s) := by
    unfold addRows
    try dsimp only
    repeat' (first | with_reducible assumption | (intro _; try dsimp only) | with_reducible apply Tensor.writeCode_kept | with_reducible apply keptVia_foldl | with_reducible apply kept_foldl | (with_reducible refine keptVia_mk ?_; try dsimp only))

theorem addRows_kept_at {q0 : State} {t : Tensor} {l : List (Nat × List W32)} {s : State} (h_s : Kept q0 s) : Kept q0 (addRows t l s).1 := addRows_kept (q0 := q0) (t := t) (l := l) (s := s) h_s

theorem addRows_kept_eq {q0 : State} {t : Tensor} {l : List (Nat × List W32)} {s : State} {v0} {v1} (he : (addRows t l s) = (v0, v1)) (h_s : Kept q0 s) : Kept q0 v0 := by
    have := addRows_kept_at (q0 := q0) (t := t) (l := l) (s := s) h_s
    rw [he] at this; exact this

theorem finishForward_kept {q0 : State} {h : Nat} {c : Nat} {l : Nat} {n : Nat} {a : AWord} {rows : List WRow} {s : State} (h_s : Kept q0 s) : Kept q0 (finishForward h c l n a rows s) := by
    unfold finishForward
    try dsimp only
    repeat' (first | with_reducible assumption | (intro _; try dsimp only) | with_reducible apply protectTensor_kept | with_reducible apply Tensor.storeRange_kept | with_reducible apply Tensor.storeRange_kept_at | with_reducible apply Tensor.writeCode_kept | with_reducible apply addCounts_kept | with_reducible apply stageAmax_kept | with_reducible apply coreEvent_kept | with_reducible apply kept_ite | with_reducible apply kept_foldl | simp only [↓kept_mk_iff] | (split <;> try dsimp only))

theorem finishBackward_kept {q0 : State} {h : Nat} {c : Nat} {a : AWord} {rows : List WRow} {s : State} (h_s : Kept q0 s) : Kept q0 (finishBackward h c a rows s) := by
    unfold finishBackward
    try dsimp only
    repeat' (first | with_reducible assumption | (intro _; try dsimp only) | with_reducible apply protectTensor_kept | with_reducible apply Tensor.writeCode_kept | with_reducible apply coreEvent_kept | with_reducible apply kept_ite | with_reducible apply kept_foldl | simp only [↓kept_mk_iff] | (split <;> try dsimp only))

theorem sendRing_kept {q0 : State} {h : Nat} {c : Nat} {mtype : Nat} {a : AWord} {origin : Nat} {hop : Nat} {body : List Byte} {s : State} (h_s : Kept q0 s) : Kept q0 (sendRing h c mtype a origin hop body s) := by
    unfold sendRing
    try dsimp only
    repeat' (first | with_reducible assumption | with_reducible apply sendTo_kept | with_reducible apply kept_ite | simp only [↓kept_mk_iff] | (split <;> try dsimp only))

theorem setWalk_kept {q0 : State} {c : Nat} {l : Nat} {x : Walk} {s : State} (h_s : Kept q0 s) : Kept q0 (setWalk c l x s) := by
    unfold setWalk
    try dsimp only
    repeat' (first | with_reducible assumption | (intro _; try dsimp only) | with_reducible apply modCore_kept | simp only [↓kept_mk_iff])

theorem endWalk_kept {q0 : State} {c : Nat} {l : Nat} {n : Nat} {s : State} (h_s : Kept q0 s) : Kept q0 (endWalk c l n s) := by
    unfold endWalk
    try dsimp only
    repeat' (first | with_reducible assumption | (intro _; try dsimp only) | with_reducible apply coreEvent_kept | with_reducible apply modCore_kept | with_reducible apply atBoundary_kept | with_reducible apply passEntry_kept | with_reducible apply closeWindow_kept | simp only [↓kept_mk_iff])

theorem ringWait_kept {q0 : State} {c : Nat} {l : Nat} {s : State} (h_s : Kept q0 s) : Kept q0 (ringWait c l s) := by
    unfold ringWait
    try dsimp only
    repeat' (first | with_reducible assumption | (intro _; try dsimp only) | with_reducible apply atBoundary_kept | with_reducible apply modLane_kept | simp only [↓kept_mk_iff])

theorem walkOn_kept {q0 : State} {c : Nat} {l : Nat} {s : State} (h_s : Kept q0 s) : Kept q0 (walkOn c l s) := by
    unfold walkOn
    try dsimp only
    repeat' (first | with_reducible assumption | (intro _; try dsimp only) | with_reducible apply modLane_kept | with_reducible apply modCore_kept | with_reducible apply atBoundary_kept | with_reducible apply settleOthers_kept | with_reducible apply settleLane_kept | simp only [↓kept_mk_iff])

theorem hopDone_kept {q0 : State} {h : Nat} {c : Nat} {l : Nat} {n : Nat} {a : AWord} {x : Walk} {s : State} (h_s : Kept q0 s) : Kept q0 (hopDone h c l n a x s) := by
    unfold hopDone
    try dsimp only
    repeat' (first | with_reducible assumption | (intro _; try dsimp only) | with_reducible apply finishBackward_kept | with_reducible apply finishForward_kept | with_reducible apply stopOnPage_kept | with_reducible apply touchPages_kept | with_reducible apply endWalk_kept | with_reducible apply sendRing_kept | with_reducible apply ringWait_kept | with_reducible apply setWalk_kept | with_reducible apply kept_ite | simp only [↓kept_mk_iff] | (split <;> try dsimp only))

theorem addGrads_kept {q0 : State} {h : Nat} {c : Nat} {b : Nat} {a : AWord} {acc : Table (List W32)} {l : List (Nat × List W32)} {s : State} (h_s : Kept q0 s) : KeptVia (fun x => x.1) q0 (addGrads h c b a acc l s) := by
    unfold addGrads
    try dsimp only
    repeat' (first | with_reducible assumption | with_reducible apply coreEvent_kept | with_reducible apply addRows_kept | with_reducible apply addRows_kept_at | with_reducible apply protectTensor_kept | with_reducible apply keptVia_ite | with_reducible apply kept_ite | simp only [↓kept_mk_iff] | (split <;> try dsimp only) | (with_reducible refine keptVia_mk ?_; try dsimp only))

theorem addGrads_kept_at {q0 : State} {h : Nat} {c : Nat} {b : Nat} {a : AWord} {acc : Table (List W32)} {l : List (Nat × List W32)} {s : State} (h_s : Kept q0 s) : Kept q0 (addGrads h c b a acc l s).1 := addGrads_kept (q0 := q0) (h := h) (c := c) (b := b) (a := a) (acc := acc) (l := l) (s := s) h_s

theorem addGrads_kept_eq {q0 : State} {h : Nat} {c : Nat} {b : Nat} {a : AWord} {acc : Table (List W32)} {l : List (Nat × List W32)} {s : State} {v0} {v1} (he : (addGrads h c b a acc l s) = (v0, v1)) (h_s : Kept q0 s) : Kept q0 v0 := by
    have := addGrads_kept_at (q0 := q0) (h := h) (c := c) (b := b) (a := a) (acc := acc) (l := l) (s := s) h_s
    rw [he] at this; exact this

theorem pairStitch_kept {q0 : State} {h : Nat} {c : Nat} {a : AWord} {x : Walk} {o : PairOut} {s : State} (h_s : Kept q0 s) : KeptVia (fun x => x.1) q0 (pairStitch h c a x o s) := by
    unfold pairStitch
    try dsimp only
    repeat' (first | with_reducible assumption | with_reducible apply addCounts_kept | with_reducible apply stageVector_kept | with_reducible apply stageSums_kept | with_reducible apply addGrads_kept | with_reducible apply addGrads_kept_at | with_reducible apply keptVia_ite | with_reducible apply kept_ite | simp only [↓kept_mk_iff] | (with_reducible refine keptVia_mk ?_; try dsimp only))

theorem pairStitch_kept_at {q0 : State} {h : Nat} {c : Nat} {a : AWord} {x : Walk} {o : PairOut} {s : State} (h_s : Kept q0 s) : Kept q0 (pairStitch h c a x o s).1 := pairStitch_kept (q0 := q0) (h := h) (c := c) (a := a) (x := x) (o := o) (s := s) h_s

theorem pairStitch_kept_eq {q0 : State} {h : Nat} {c : Nat} {a : AWord} {x : Walk} {o : PairOut} {s : State} {v0} {v1} (he : (pairStitch h c a x o s) = (v0, v1)) (h_s : Kept q0 s) : Kept q0 v0 := by
    have := pairStitch_kept_at (q0 := q0) (h := h) (c := c) (a := a) (x := x) (o := o) (s := s) h_s
    rw [he] at this; exact this

theorem fetchBlock_kept {q0 : State} {h : Nat} {c : Nat} {a : AWord} {ks : Keys} {x : Walk} {kb : Nat} {s : State} (h_s : Kept q0 s) : KeptVia (fun x => x.1) q0 (fetchBlock h c a ks x kb s) := by
    unfold fetchBlock
    try dsimp only
    repeat' (first | with_reducible assumption | with_reducible apply coreEvent_kept | with_reducible apply stageKeys_kept | with_reducible apply keptVia_ite | with_reducible apply kept_ite | simp only [↓kept_mk_iff] | (with_reducible refine keptVia_mk ?_; try dsimp only))

theorem fetchBlock_kept_at {q0 : State} {h : Nat} {c : Nat} {a : AWord} {ks : Keys} {x : Walk} {kb : Nat} {s : State} (h_s : Kept q0 s) : Kept q0 (fetchBlock h c a ks x kb s).1 := fetchBlock_kept (q0 := q0) (h := h) (c := c) (a := a) (ks := ks) (x := x) (kb := kb) (s := s) h_s

theorem fetchBlock_kept_eq {q0 : State} {h : Nat} {c : Nat} {a : AWord} {ks : Keys} {x : Walk} {kb : Nat} {s : State} {v0} {v1} (he : (fetchBlock h c a ks x kb s) = (v0, v1)) (h_s : Kept q0 s) : Kept q0 v0 := by
    have := fetchBlock_kept_at (q0 := q0) (h := h) (c := c) (a := a) (ks := ks) (x := x) (kb := kb) (s := s) h_s
    rw [he] at this; exact this

theorem fetchNext_kept {q0 : State} {h : Nat} {c : Nat} {a : AWord} {ks : Keys} {x : Walk} {later : List Nat} {s : State} (h_s : Kept q0 s) : KeptVia (fun x => x.1) q0 (fetchNext h c a ks x later s) := by
    unfold fetchNext
    try dsimp only
    repeat' (first | with_reducible assumption | with_reducible apply fetchBlock_kept | with_reducible apply fetchBlock_kept_at | with_reducible apply touchPages_kept | with_reducible apply keptVia_ite | with_reducible apply kept_ite | simp only [↓kept_mk_iff] | (split <;> try dsimp only) | (with_reducible refine keptVia_mk ?_; try dsimp only))

theorem fetchNext_kept_at {q0 : State} {h : Nat} {c : Nat} {a : AWord} {ks : Keys} {x : Walk} {later : List Nat} {s : State} (h_s : Kept q0 s) : Kept q0 (fetchNext h c a ks x later s).1 := fetchNext_kept (q0 := q0) (h := h) (c := c) (a := a) (ks := ks) (x := x) (later := later) (s := s) h_s

theorem fetchNext_kept_eq {q0 : State} {h : Nat} {c : Nat} {a : AWord} {ks : Keys} {x : Walk} {later : List Nat} {s : State} {v0} {v1} (he : (fetchNext h c a ks x later s) = (v0, v1)) (h_s : Kept q0 s) : Kept q0 v0 := by
    have := fetchNext_kept_at (q0 := q0) (h := h) (c := c) (a := a) (ks := ks) (x := x) (later := later) (s := s) h_s
    rw [he] at this; exact this

theorem beginWalk_kept {q0 : State} {h : Nat} {c : Nat} {a : AWord} {ks : Keys} {rows : Nat} {x : Walk} {s : State} (h_s : Kept q0 s) : KeptVia (fun x => x.1) q0 (beginWalk h c a ks rows x s) := by
    unfold beginWalk
    try dsimp only
    repeat' (first | with_reducible assumption | with_reducible apply stageChunk_kept | with_reducible apply sendRing_kept | with_reducible apply coreEvent_kept | with_reducible apply putStageBytes_kept | with_reducible apply keptVia_ite | with_reducible apply kept_ite | simp only [↓kept_mk_iff] | (split <;> try dsimp only) | (with_reducible refine keptVia_mk ?_; try dsimp only))

theorem beginWalk_kept_at {q0 : State} {h : Nat} {c : Nat} {a : AWord} {ks : Keys} {rows : Nat} {x : Walk} {s : State} (h_s : Kept q0 s) : Kept q0 (beginWalk h c a ks rows x s).1 := beginWalk_kept (q0 := q0) (h := h) (c := c) (a := a) (ks := ks) (rows := rows) (x := x) (s := s) h_s

theorem beginWalk_kept_eq {q0 : State} {h : Nat} {c : Nat} {a : AWord} {ks : Keys} {rows : Nat} {x : Walk} {s : State} {v0} {v1} (he : (beginWalk h c a ks rows x s) = (v0, v1)) (h_s : Kept q0 s) : Kept q0 v0 := by
    have := beginWalk_kept_at (q0 := q0) (h := h) (c := c) (a := a) (ks := ks) (rows := rows) (x := x) (s := s) h_s
    rw [he] at this; exact this

theorem walkCommit_kept {q0 : State} {h : Nat} {c : Nat} {l : Nat} {n : Nat} {b : Nat} {s : State} (h_s : Kept q0 s) : Kept q0 (walkCommit h c l n b s) := by
    unfold walkCommit
    try dsimp only
    repeat' (first | with_reducible assumption | (intro _; try dsimp only) | with_reducible apply endWalk_kept | with_reducible apply coreWaitFree_kept | with_reducible apply stopFaulty_kept | with_reducible apply kvLostFault_kept | with_reducible apply stopOnPage_kept | with_reducible apply beginWalk_kept | with_reducible apply beginWalk_kept_at | with_reducible apply touchPages_kept | with_reducible apply coreEvent_kept | with_reducible apply hopDone_kept | with_reducible apply fetchBlock_kept | with_reducible apply fetchBlock_kept_at | with_reducible apply pairStitch_kept | with_reducible apply pairStitch_kept_at | with_reducible apply walkOn_kept | with_reducible apply setWalk_kept | with_reducible apply fetchNext_kept | with_reducible apply fetchNext_kept_at | with_reducible apply kept_ite | simp only [↓kept_mk_iff] | (split <;> try dsimp only) | with_reducible refine KeptOpt.get (keptOpt_findSome ?_) _ ‹_ = some _›)

theorem ringReady_kept {q0 : State} {c : Nat} {l : Nat} {a : AWord} {s : State} (h_s : Kept q0 s) : Kept q0 (ringReady c l a s) := by
    unfold ringReady
    try dsimp only
    repeat' (first | with_reducible assumption | (intro _; try dsimp only) | with_reducible apply modLane_kept | with_reducible apply coreWaitFree_kept | with_reducible apply settleLane_kept | with_reducible apply kept_ite | simp only [↓kept_mk_iff])

theorem chunkHop_kept {q0 : State} {h : Nat} {c : Nat} {l : Nat} {a : AWord} {x : Walk} {q : Peloton} {m : CollMsg} {s : State} (h_s : Kept q0 s) : Kept q0 (chunkHop h c l a x q m s) := by
    unfold chunkHop
    try dsimp only
    repeat' (first | with_reducible assumption | with_reducible apply stageChunk_kept | with_reducible apply setWalk_kept | with_reducible apply ringReady_kept | with_reducible apply sendRing_kept | with_reducible apply kept_ite | simp only [↓kept_mk_iff])

theorem ringKv_kept {q0 : State} {p : Nat} {n : Nat} {s : State} (h_s : Kept q0 s) : Kept q0 (ringKv p n s) := by
    unfold ringKv
    try dsimp only
    repeat' (first | with_reducible assumption | with_reducible apply chunkHop_kept | with_reducible apply dropMsg_kept | simp only [↓kept_mk_iff] | (split <;> try dsimp only))

theorem putGrads_kept {q0 : State} {h : Nat} {t : Tensor} {rows : Table (List W32)} {s : State} (h_s : Kept q0 s) : Kept q0 (putGrads h t rows s) := by
    unfold putGrads
    try dsimp only
    repeat' (first | with_reducible assumption | (intro _; try dsimp only) | with_reducible apply Tensor.writeCode_kept | with_reducible apply kept_ite | with_reducible apply kept_foldl)

theorem gradHop_kept {q0 : State} {h : Nat} {c : Nat} {l : Nat} {i : Nat} {a : AWord} {x : Walk} {q : Peloton} {m : CollMsg} {s : State} (h_s : Kept q0 s) : Kept q0 (gradHop h c l i a x q m s) := by
    unfold gradHop
    try dsimp only
    repeat' (first | with_reducible assumption | with_reducible apply ringReady_kept | with_reducible apply setWalk_kept | with_reducible apply stopOnPage_kept | with_reducible apply endWalk_kept | with_reducible apply coreWaitFree_kept | with_reducible apply putGrads_kept | with_reducible apply protectTensor_kept | with_reducible apply kept_ite | simp only [↓kept_mk_iff] | (split <;> try dsimp only))

theorem ringGrad_kept {q0 : State} {p : Nat} {n : Nat} {s : State} (h_s : Kept q0 s) : Kept q0 (ringGrad p n s) := by
    unfold ringGrad
    try dsimp only
    repeat' (first | with_reducible assumption | with_reducible apply gradHop_kept | with_reducible apply dropMsg_kept | simp only [↓kept_mk_iff] | (split <;> try dsimp only))

theorem ringLate_kept {q0 : State} {c : Nat} {l : Nat} {s : State} (h_s : Kept q0 s) : Kept q0 (ringLate c l s) := by
    unfold ringLate
    try dsimp only
    repeat' (first | with_reducible assumption | with_reducible apply recEvent_kept | with_reducible apply coreWaitFree_kept | with_reducible apply kept_ite | simp only [↓kept_mk_iff] | (split <;> try dsimp only))

end Sys2Proof.Machine
end

