-- ==== Sys2Proof/Laws/KeptUpdate.lean ====
section
/-!
SUPPORT. What the operations of Machine/Update.lean leave alone (`Kept`), one lemma each.
-/
namespace Sys2Proof.Machine

theorem clipFactor_kept {q0 : State} {u : UWord} {sum : W32} {s : State} (h_s : Kept q0 s) : KeptVia (fun x => x.2.2) q0 (clipFactor u sum s) := by
    unfold clipFactor
    try dsimp only
    repeat' (first | with_reducible assumption | with_reducible apply takeFree_kept | with_reducible apply takeFree_kept_at | with_reducible apply keptVia_ite | with_reducible apply kept_ite | (with_reducible refine keptVia_mk ?_; try dsimp only))

theorem clipFactor_kept_at {q0 : State} {u : UWord} {sum : W32} {s : State} (h_s : Kept q0 s) : Kept q0 (clipFactor u sum s).2.2 := clipFactor_kept (q0 := q0) (u := u) (sum := sum) (s := s) h_s

theorem clipFactor_kept_eq {q0 : State} {u : UWord} {sum : W32} {s : State} {v0} {v1} {v2} (he : (clipFactor u sum s) = (v0, v1, v2)) (h_s : Kept q0 s) : Kept q0 v2 := by
    have := clipFactor_kept_at (q0 := q0) (u := u) (sum := sum) (s := s) h_s
    rw [he] at this; exact this

theorem stageBank_kept {q0 : State} {h : Nat} {u : UWord} {s : State} (h_s : Kept q0 s) : Kept q0 (stageBank h u s) := by
    unfold stageBank
    try dsimp only
    repeat' (first | with_reducible assumption | (intro _; try dsimp only) | with_reducible apply clipFactor_kept | with_reducible apply clipFactor_kept_at | with_reducible apply modStep_kept | with_reducible apply kept_ite | simp only [↓kept_mk_iff] | (split <;> try dsimp only))

theorem vUpdate_kept {q0 : State} {e : VEnv} {h : Nat} {w : VInstr} {v : VState} (h_v : Kept q0 v.s) : Kept q0 (vUpdate e h w v).s := by
    unfold vUpdate
    try dsimp only
    repeat' (first | with_reducible assumption | (intro _; try dsimp only) | with_reducible apply stageBank_kept | with_reducible apply Tensor.writeCode_kept | with_reducible apply modStep_kept | with_reducible apply Tensor.storeAs_kept | with_reducible apply Tensor.storeAs_kept_at | with_reducible apply kept_ite | with_reducible apply kept_foldl | with_reducible refine kept_ite_by VState.s ?_ ?_ | with_reducible refine kept_foldl_by VState.s ?_ ?_ | simp only [↓kept_mk_iff] | (split <;> try dsimp only))

end Sys2Proof.Machine
end

