-- ==== Sys2Proof/Laws/KeptBanks.lean ====
section
/-!
SUPPORT. What the operations of Machine/Banks.lean leave alone (`Kept`), one lemma each.
-/
namespace Sys2Proof.Machine

theorem putValues_kept {q0 : State} {t : Tensor} {src : Nat} {vals : List Val} {s : State} (h_s : Kept q0 s) : Kept q0 (putValues t src vals s) := by
    unfold putValues
    try dsimp only
    repeat' (first | with_reducible assumption | with_reducible apply Tensor.store_kept | with_reducible apply Tensor.store_kept_at)

theorem fillBank_kept {q0 : State} {b : Bank} {src : Nat} {w : List Val} {m : List Val} {v : List Val} {s : State} (h_s : Kept q0 s) : Kept q0 (fillBank b src w m v s) := by
    unfold fillBank
    try dsimp only
    repeat' (first | with_reducible assumption | (intro _; try dsimp only) | with_reducible apply putValues_kept | with_reducible apply kept_ite | with_reducible apply kept_foldl)

theorem needAll_kept {q0 : State} {s : State} {p : Nat} {x : Partition} {a1 : List DescWord} {a2 : Except Nat Ans} (h_s : Kept q0 s) (h_a2 : BodyKept q0 a2) : BodyKept q0 (needAll s p x a1 a2) := by
    revert h_s h_a2
    fun_induction needAll s p x a1 a2 <;> intros
    all_goals repeat' (first | with_reducible assumption | (intro _; try dsimp only) | with_reducible exact bodyKept_error | with_reducible apply bodyKept_need | with_reducible apply bodyKept_ok | with_reducible apply kept_id | with_reducible apply needUnified_kept | with_reducible apply_assumption)

theorem bankCreateBody_kept {q0 : State} {f : Nat} {hdr : Hdr} {o : BankOps} {st0 : State} (h_st0 : Kept q0 st0) : BodyKept q0 (bankCreateBody f hdr o st0) := by
    unfold bankCreateBody
    try dsimp only
    repeat' (first | with_reducible assumption | (intro _; try dsimp only) | with_reducible exact bodyKept_error | with_reducible apply bodyKept_need | with_reducible apply bodyKept_have' | with_reducible apply bodyKept_ok | with_reducible apply kept_id | with_reducible apply withPart_kept | with_reducible apply needAll_kept | with_reducible apply long_kept | with_reducible apply failAccess_kept | with_reducible apply finish_kept | with_reducible apply putBank_kept | with_reducible apply fillBank_kept | with_reducible apply touchPages_kept | simp only [↓kept_mk_iff] | (split <;> try dsimp only))

theorem withBank_kept {q0 : State} {f : Nat} {hdr : Hdr} {s : State} {bank : W64} {k : Nat → Partition → Bank → Except Nat Ans} (h_s : Kept q0 s) (h_k : ∀ u0 : Nat, ∀ u1 : Partition, ∀ u2 : Bank, BodyKept q0 (k u0 u1 u2)) : BodyKept q0 (withBank f hdr s bank k) := by
    unfold withBank
    try dsimp only
    repeat' (first | with_reducible assumption | (intro _; try dsimp only) | with_reducible exact bodyKept_error | with_reducible apply bodyKept_need | with_reducible apply bodyKept_have' | with_reducible apply bodyKept_ok | with_reducible apply kept_id | with_reducible apply withPart_kept | with_reducible apply h_k | simp only [↓kept_mk_iff])

theorem needMoments_kept {q0 : State} {s : State} {p : Nat} {x : Partition} {b : Bank} {w : DescWord} {m : DescWord} {v : DescWord} {k : Except Nat Ans} (h_s : Kept q0 s) (h_k : BodyKept q0 k) : BodyKept q0 (needMoments s p x b w m v k) := by
    unfold needMoments
    try dsimp only
    repeat' (first | with_reducible assumption | (intro _; try dsimp only) | with_reducible exact bodyKept_error | with_reducible apply bodyKept_need | with_reducible apply bodyKept_ok | with_reducible apply kept_id | with_reducible apply needAll_kept)

theorem exportBody_kept {q0 : State} {f : Nat} {hdr : Hdr} {bank : W64} {w : DescWord} {m : DescWord} {v : DescWord} {st0 : State} (h_st0 : Kept q0 st0) : BodyKept q0 (exportBody f hdr bank w m v st0) := by
    unfold exportBody
    try dsimp only
    repeat' (first | with_reducible assumption | (intro _; try dsimp only) | with_reducible exact bodyKept_error | with_reducible apply bodyKept_need | with_reducible apply bodyKept_ok | with_reducible apply kept_id | with_reducible apply withBank_kept | with_reducible apply needMoments_kept | with_reducible apply long_kept | with_reducible apply failAccess_kept | with_reducible apply touchPages_kept | with_reducible apply putValues_kept | with_reducible apply finish_kept | simp only [↓kept_mk_iff] | (split <;> try dsimp only))

theorem importBody_kept {q0 : State} {f : Nat} {hdr : Hdr} {bank : W64} {w : DescWord} {m : DescWord} {v : DescWord} {t : W64} {p1 : W64} {p2 : W64} {st0 : State} (h_st0 : Kept q0 st0) : BodyKept q0 (importBody f hdr bank w m v t p1 p2 st0) := by
    unfold importBody
    try dsimp only
    repeat' (first | with_reducible assumption | (intro _; try dsimp only) | with_reducible exact bodyKept_error | with_reducible apply bodyKept_need | with_reducible apply bodyKept_ok | with_reducible apply bodyKept_ite | with_reducible apply kept_id | with_reducible apply withBank_kept | with_reducible apply needMoments_kept | with_reducible apply long_kept | with_reducible apply failAccess_kept | with_reducible apply touchPages_kept | with_reducible apply fillBank_kept | with_reducible apply finish_kept | with_reducible apply putBank_kept | with_reducible apply kept_ite | simp only [↓kept_mk_iff] | (split <;> try dsimp only))

theorem bankDestroyBody_kept {q0 : State} {f : Nat} {hdr : Hdr} {bank : W64} {st0 : State} (h_st0 : Kept q0 st0) : BodyKept q0 (bankDestroyBody f hdr bank st0) := by
    unfold bankDestroyBody
    try dsimp only
    repeat' (first | with_reducible assumption | (intro _; try dsimp only) | with_reducible exact bodyKept_error | with_reducible apply bodyKept_need | with_reducible apply bodyKept_ok | with_reducible apply kept_id | with_reducible apply withBank_kept | with_reducible apply modPart_kept | simp only [↓kept_mk_iff])

theorem logSetBody_kept {q0 : State} {f : Nat} {hdr : Hdr} {addr : W64} {size : W64} {st0 : State} (h_st0 : Kept q0 st0) : BodyKept q0 (logSetBody f hdr addr size st0) := by
    unfold logSetBody
    try dsimp only
    repeat' (first | with_reducible assumption | (intro _; try dsimp only) | with_reducible exact bodyKept_error | with_reducible apply bodyKept_need | with_reducible apply bodyKept_ok | with_reducible apply bodyKept_ite | with_reducible apply kept_id | with_reducible apply withPart_kept | with_reducible apply modPart_kept | with_reducible apply kept_ite | simp only [↓kept_mk_iff])

end Sys2Proof.Machine
end

