-- ==== Sys2Proof/Laws/KeptCodec.lean ====
section
/-!
SUPPORT. What the operations of Machine/Codec.lean leave alone (`Kept`), one lemma each.
-/
namespace Sys2Proof.Machine

theorem leavePairs_kept {q0 : State} {p : Nat} {n : Nat} {s : State} (h_s : Kept q0 s) : Kept q0 (leavePairs p n s) := by
    unfold leavePairs
    try dsimp only
    repeat' (first | with_reducible assumption | (intro _; try dsimp only) | with_reducible apply modPair_kept | with_reducible apply kept_ite | with_reducible apply kept_foldl | simp only [↓kept_mk_iff] | (split <;> try dsimp only))

theorem stopSession_kept {q0 : State} {p : Nat} {n : Nat} {s : State} (h_s : Kept q0 s) : Kept q0 (stopSession p n s) := by
    unfold stopSession
    try dsimp only
    repeat' (first | with_reducible assumption | (intro _; try dsimp only) | with_reducible apply finish_kept | with_reducible apply modSession_kept | with_reducible apply leavePairs_kept | simp only [↓kept_mk_iff] | (split <;> try dsimp only))

theorem modEntryPool_kept {q0 : State} {i : Nat} {k : Nat} {f : PoolEntry → PoolEntry} {s : State} (h_s : Kept q0 s) : Kept q0 (modEntryPool i k f s) := by
    unfold modEntryPool
    try dsimp only
    repeat' (first | with_reducible assumption | (intro _; try dsimp only) | with_reducible apply modPair_kept | simp only [↓kept_mk_iff])

theorem endPicture_kept {q0 : State} {i : Nat} {p : Nat} {n : Nat} {s : State} (h_s : Kept q0 s) : Kept q0 (endPicture i p n s) := by
    unfold endPicture
    try dsimp only
    repeat' (first | with_reducible assumption | (intro _; try dsimp only) | with_reducible apply modEntryPool_kept | with_reducible apply modSession_kept | with_reducible apply kept_ite | simp only [↓kept_mk_iff] | (split <;> try dsimp only))

theorem markPool_kept {q0 : State} {i : Nat} {e : Session} {payload : List Byte} {s : State} (h_s : Kept q0 s) : Kept q0 (markPool i e payload s) := by
    unfold markPool
    try dsimp only
    repeat' (first | with_reducible assumption | (intro _; try dsimp only) | with_reducible apply modEntryPool_kept | with_reducible apply kept_ite | with_reducible apply kept_foldl | simp only [↓kept_mk_iff])

theorem refreshPool_kept {q0 : State} {i : Nat} {cur : Nat} {e : Session} {payload : List Byte} {s : State} (h_s : Kept q0 s) : Kept q0 (refreshPool i cur e payload s) := by
    unfold refreshPool
    try dsimp only
    repeat' (first | with_reducible assumption | (intro _; try dsimp only) | with_reducible apply modEntryPool_kept | with_reducible apply kept_ite | with_reducible apply kept_foldl | simp only [↓kept_mk_iff])

theorem discontinue_kept {q0 : State} {i : Nat} {p : Nat} {n : Nat} {e : Session} {s : State} (h_s : Kept q0 s) : Kept q0 (discontinue i p n e s) := by
    unfold discontinue
    try dsimp only
    repeat' (first | with_reducible assumption | (intro _; try dsimp only) | with_reducible apply endPicture_kept | with_reducible apply modEntryPool_kept | with_reducible apply modSession_kept | with_reducible apply kept_foldl | simp only [↓kept_mk_iff])

theorem beforePicture_kept {q0 : State} {i : Nat} {p : Nat} {n : Nat} {e : Session} {h : BitVec 256} {ans : W64} {s : State} (h_s : Kept q0 s) : Kept q0 (beforePicture i p n e h ans s) := by
    unfold beforePicture
    try dsimp only
    repeat' (first | with_reducible assumption | with_reducible apply discontinue_kept | with_reducible apply endPicture_kept | with_reducible apply markPool_kept | with_reducible apply kept_ite)

theorem wakeCodecLanes_kept {q0 : State} {p : Nat} {s : State} (h_s : Kept q0 s) : Kept q0 (wakeCodecLanes p s) := by
    unfold wakeCodecLanes
    try dsimp only
    repeat' (first | with_reducible assumption | (intro _; try dsimp only) | with_reducible apply settleLane_kept | with_reducible apply kept_ite | with_reducible apply kept_foldl | simp only [↓kept_mk_iff] | (split <;> try dsimp only))

theorem beginUnit_kept {q0 : State} {i : Nat} {p : Nat} {n : Nat} {e : Session} {s : State} (h_s : Kept q0 s) : Kept q0 (beginUnit i p n e s) := by
    unfold beginUnit
    try dsimp only
    repeat' (first | with_reducible assumption | (intro _; try dsimp only) | with_reducible apply modPair_kept | with_reducible apply modSession_kept | with_reducible apply wakeCodecLanes_kept | with_reducible apply kept_ite | simp only [↓kept_mk_iff])

theorem takeNext_kept {q0 : State} {i : Nat} {s : State} (h_s : Kept q0 s) : Kept q0 (takeNext i s) := by
    unfold takeNext
    try dsimp only
    repeat' (first | with_reducible assumption | (intro _; try dsimp only) | with_reducible apply beginUnit_kept | with_reducible apply kept_ite | with_reducible apply kept_foldl | simp only [↓kept_mk_iff] | (split <;> try dsimp only))

theorem leaveUnit_kept {q0 : State} {i : Nat} {p : Nat} {n : Nat} {s : State} (h_s : Kept q0 s) : Kept q0 (leaveUnit i p n s) := by
    unfold leaveUnit
    try dsimp only
    repeat' (first | with_reducible assumption | (intro _; try dsimp only) | with_reducible apply startWait_kept | with_reducible apply modPair_kept | simp only [↓kept_mk_iff])

theorem abandonUnit_kept {q0 : State} {i : Nat} {p : Nat} {n : Nat} {s : State} (h_s : Kept q0 s) : Kept q0 (abandonUnit i p n s) := by
    unfold abandonUnit
    try dsimp only
    repeat' (first | with_reducible assumption | (intro _; try dsimp only) | with_reducible apply devEvent_kept | with_reducible apply modSession_kept | with_reducible apply modPair_kept | simp only [↓kept_mk_iff])

theorem starveLimit_kept {q0 : State} {p : Nat} {n : Nat} {s : State} (h_s : Kept q0 s) : Kept q0 (starveLimit p n s) := by
    unfold starveLimit
    try dsimp only
    repeat' (first | with_reducible assumption | with_reducible apply takeNext_kept | with_reducible apply abandonUnit_kept | with_reducible apply kept_ite | simp only [↓kept_mk_iff] | (split <;> try dsimp only))

theorem codecTick_kept {q0 : State} {s : State} (h_s : Kept q0 s) : Kept q0 (codecTick s) := by
    unfold codecTick
    try dsimp only
    repeat' (first | with_reducible assumption | (intro _; try dsimp only) | with_reducible apply modSession_kept | with_reducible apply devEvent_kept | with_reducible apply kept_ite | with_reducible apply kept_foldl | simp only [↓kept_mk_iff] | (split <;> try dsimp only))

theorem consumeRecord_kept {q0 : State} {p : Nat} {n : Nat} {len : Nat} {s : State} (h_s : Kept q0 s) : Kept q0 (consumeRecord p n len s) := by
    unfold consumeRecord
    try dsimp only
    repeat' (first | with_reducible assumption | (intro _; try dsimp only) | with_reducible apply modSession_kept | with_reducible apply State.writeNat_kept | simp only [↓kept_mk_iff] | (split <;> try dsimp only))

theorem skipPadding_kept {q0 : State} {p : Nat} {n : Nat} {len : Nat} {s : State} (h_s : Kept q0 s) : Kept q0 (skipPadding p n len s) := by
    unfold skipPadding
    try dsimp only
    repeat' (first | with_reducible assumption | (intro _; try dsimp only) | with_reducible apply consumeRecord_kept | with_reducible apply modSession_kept | simp only [↓kept_mk_iff])

theorem startPicture_kept {q0 : State} {i : Nat} {p : Nat} {n : Nat} {k : Nat} {ans : W64} {time : W64} {s : State} (h_s : Kept q0 s) : Kept q0 (startPicture i p n k ans time s) := by
    unfold startPicture
    try dsimp only
    repeat' (first | with_reducible assumption | (intro _; try dsimp only) | with_reducible apply modEntryPool_kept | with_reducible apply modSession_kept | simp only [↓kept_mk_iff])

theorem putPicture_kept {q0 : State} {base : Nat} {pitch : Nat} {sh : Config.StreamShape} {f : Nat → Nat → Nat → Option Nat} {s : State} (h_s : Kept q0 s) : Kept q0 (putPicture base pitch sh f s) := by
    unfold putPicture
    try dsimp only
    repeat' (first | with_reducible assumption | (intro _; try dsimp only) | with_reducible apply State.write_kept | with_reducible apply kept_foldl | simp only [↓kept_mk_iff] | (split <;> try dsimp only))

theorem generateRef_kept {q0 : State} {i : Nat} {e : Session} {payload : List Byte} {s : State} (h_s : Kept q0 s) : Kept q0 (generateRef i e payload s) := by
    unfold generateRef
    try dsimp only
    repeat' (first | with_reducible assumption | (intro _; try dsimp only) | with_reducible apply modEntryPool_kept | with_reducible apply putPicture_kept | with_reducible apply kept_ite | simp only [↓kept_mk_iff] | (split <;> try dsimp only))

theorem inputFormat_kept {q0 : State} {i : Nat} {p : Nat} {n : Nat} {e : Session} {s : State} (h_s : Kept q0 s) : Kept q0 (inputFormat i p n e s) := by
    unfold inputFormat
    try dsimp only
    repeat' (first | with_reducible assumption | with_reducible apply stopSession_kept | with_reducible apply raiseFault_kept)

theorem unitRecord_kept {q0 : State} {p : Nat} {n : Nat} {s : State} (h_s : Kept q0 s) : Kept q0 (unitRecord p n s) := by
    unfold unitRecord
    try dsimp only
    repeat' (first | with_reducible assumption | (intro _; try dsimp only) | with_reducible apply inputFormat_kept | with_reducible apply skipPadding_kept | with_reducible apply beforePicture_kept | with_reducible apply startPicture_kept | with_reducible apply generateRef_kept | with_reducible apply devEvent_kept | with_reducible apply modSession_kept | with_reducible apply consumeRecord_kept | with_reducible apply kept_ite | simp only [↓kept_mk_iff] | (split <;> try dsimp only))

theorem writeUnit_kept {q0 : State} {i : Nat} {e : Session} {ans : W64} {payload : List Byte} {s : State} (h_s : Kept q0 s) : Kept q0 (writeUnit i e ans payload s) := by
    unfold writeUnit
    try dsimp only
    repeat' (first | with_reducible assumption | (intro _; try dsimp only) | with_reducible apply putPicture_kept | simp only [↓kept_mk_iff] | (split <;> try dsimp only))

theorem showAgain_kept {q0 : State} {i : Nat} {p : Nat} {n : Nat} {k : Nat} {e : Session} {s : State} (h_s : Kept q0 s) : Kept q0 (showAgain i p n k e s) := by
    unfold showAgain
    try dsimp only
    repeat' (first | with_reducible assumption | (intro _; try dsimp only) | with_reducible apply modSession_kept | with_reducible apply modEntryPool_kept | simp only [↓kept_mk_iff] | (split <;> try dsimp only))

theorem finishDecode_kept {q0 : State} {i : Nat} {p : Nat} {n : Nat} {e : Session} {ans : W64} {payload : List Byte} {eos : Bool} {s : State} (h_s : Kept q0 s) : Kept q0 (finishDecode i p n e ans payload eos s) := by
    unfold finishDecode
    try dsimp only
    repeat' (first | with_reducible assumption | (intro _; try dsimp only) | with_reducible apply writeUnit_kept | with_reducible apply endPicture_kept | with_reducible apply refreshPool_kept | with_reducible apply showAgain_kept | with_reducible apply modSession_kept | with_reducible apply leaveUnit_kept | with_reducible apply kept_ite | simp only [↓kept_mk_iff] | (split <;> try dsimp only))

theorem finishEncode_kept {q0 : State} {i : Nat} {p : Nat} {n : Nat} {e : Session} {s : State} (h_s : Kept q0 s) : Kept q0 (finishEncode i p n e s) := by
    unfold finishEncode
    try dsimp only
    repeat' (first | with_reducible assumption | (intro _; try dsimp only) | with_reducible apply leaveUnit_kept | with_reducible apply State.write_kept | with_reducible apply markPool_kept | with_reducible apply modEntryPool_kept | with_reducible apply putPicture_kept | with_reducible apply modSession_kept | with_reducible apply kept_ite | with_reducible apply kept_foldl | simp only [↓kept_mk_iff] | (split <;> try dsimp only))

theorem tensorOutput_kept {q0 : State} {e : Session} {c : Picture} {base : Nat} {s : State} (h_s : Kept q0 s) : Kept q0 (tensorOutput e c base s) := by
    unfold tensorOutput
    try dsimp only
    repeat' (first | with_reducible assumption | with_reducible exact Kept.refl | (intro _; try dsimp only) | with_reducible apply freeHalves_kept | with_reducible apply freeHalves_kept_at | with_reducible refine freeHalves_kept_eq ‹_› ?_ | with_reducible apply Tensor.storeRange_kept | with_reducible apply Tensor.storeRange_kept_at | with_reducible refine Tensor.storeRange_kept_eq ‹_› ?_ | with_reducible apply kept_ite | with_reducible apply kept_foldl | with_reducible apply kept_ite_by Prod.fst | with_reducible apply kept_ite_by Prod.snd | with_reducible apply kept_foldl_fst | with_reducible apply kept_foldl_snd | simp only [↓kept_mk_iff] | (split <;> try dsimp only))

theorem pictureOutput_kept {q0 : State} {p : Nat} {n : Nat} {entry : Nat} {s : State} (h_s : Kept q0 s) : Kept q0 (pictureOutput p n entry s) := by
    unfold pictureOutput
    try dsimp only
    repeat' (first | with_reducible assumption | (intro _; try dsimp only) | with_reducible apply modEntryPool_kept | with_reducible apply tensorOutput_kept | with_reducible apply State.write_kept | with_reducible apply modSession_kept | with_reducible apply kept_ite | simp only [↓kept_mk_iff] | (split <;> try dsimp only))

theorem modAct_kept {q0 : State} {p : Nat} {k : Nat} {f : ActCall → ActCall} {s : State} (h_s : Kept q0 s) : Kept q0 (modAct p k f s) := by
    unfold modAct
    try dsimp only
    repeat' (first | with_reducible assumption | (intro _; try dsimp only) | with_reducible apply modPart_kept | simp only [↓kept_mk_iff])

theorem dropAct_kept {q0 : State} {p : Nat} {k : Nat} {s : State} (h_s : Kept q0 s) : Kept q0 (dropAct p k s) := by
    unfold dropAct
    try dsimp only
    repeat' (first | with_reducible assumption | (intro _; try dsimp only) | with_reducible apply modPart_kept | simp only [↓kept_mk_iff])

theorem failAct_kept {q0 : State} {p : Nat} {k : Nat} {a : ActCall} {status : Nat} {result : W64} {s : State} (h_s : Kept q0 s) : Kept q0 (failAct p k a status result s) := by
    unfold failAct
    try dsimp only
    repeat' (first | with_reducible assumption | (intro _; try dsimp only) | with_reducible apply modAct_kept | with_reducible apply stopFaulty_kept | with_reducible apply finish_kept | simp only [↓kept_mk_iff] | (split <;> try dsimp only))

theorem codecData_kept {q0 : State} {i : Nat} {p : Nat} {k : Nat} {seg : Nat} {a : ActCall} {s : State} (h_s : Kept q0 s) : Kept q0 (codecData i p k seg a s) := by
    unfold codecData
    try dsimp only
    repeat' (first | with_reducible assumption | with_reducible apply failAct_kept | with_reducible apply raiseFault_kept)

theorem encodeUnit_kept {q0 : State} {i : Nat} {p : Nat} {k : Nat} {n : Nat} {pi : Nat} {a : ActCall} {g : Geo} {s : State} (h_s : Kept q0 s) : Kept q0 (encodeUnit i p k n pi a g s) := by
    unfold encodeUnit
    try dsimp only
    repeat' (first | with_reducible assumption | (intro _; try dsimp only) | with_reducible apply encodeSegment_kept | with_reducible apply encodeSegment_kept_at | with_reducible apply State.write_kept | with_reducible apply devEvent_kept | with_reducible apply modAct_kept | with_reducible apply kept_ite | simp only [↓kept_mk_iff])

theorem decodeUnit_kept {q0 : State} {i : Nat} {p : Nat} {k : Nat} {n : Nat} {pi : Nat} {a : ActCall} {g : Geo} {spill : Nat} {s : State} (h_s : Kept q0 s) : Kept q0 (decodeUnit i p k n pi a g spill s) := by
    unfold decodeUnit
    try dsimp only
    repeat' (first | with_reducible assumption | (intro _; try dsimp only) | with_reducible apply decodeSegment_kept | with_reducible refine decodeSegment_kept_some ‹_› ?_ | with_reducible apply codecData_kept | with_reducible apply modAct_kept | with_reducible apply kept_ite | simp only [↓kept_mk_iff] | (split <;> try dsimp only))

theorem finishSegment_kept {q0 : State} {i : Nat} {p : Nat} {n : Nat} {e : Session} {s : State} (h_s : Kept q0 s) : Kept q0 (finishSegment i p n e s) := by
    unfold finishSegment
    try dsimp only
    repeat' (first | with_reducible assumption | (intro _; try dsimp only) | with_reducible apply leaveUnit_kept | with_reducible apply failAct_kept | with_reducible apply touchPages_kept | with_reducible apply codecData_kept | with_reducible apply decodeUnit_kept | with_reducible apply encodeUnit_kept | with_reducible apply kept_ite | simp only [↓kept_mk_iff] | (split <;> try dsimp only))

theorem purgeCalls_kept {q0 : State} {s : State} (h_s : Kept q0 s) : Kept q0 (purgeCalls s) := by
    unfold purgeCalls
    try dsimp only
    repeat' (first | with_reducible assumption | (intro _; try dsimp only) | simp only [↓kept_mk_iff])

theorem unitBoundary_kept {q0 : State} {i : Nat} {s : State} (h_s : Kept q0 s) : Kept q0 (unitBoundary i s) := by
    unfold unitBoundary
    try dsimp only
    repeat' (first | with_reducible assumption | (intro _; try dsimp only) | with_reducible apply modPair_kept | with_reducible apply finishSegment_kept | with_reducible apply finishEncode_kept | with_reducible apply finishDecode_kept | with_reducible apply abandonUnit_kept | with_reducible apply State.write_kept | with_reducible apply leaveUnit_kept | with_reducible apply takeNext_kept | with_reducible apply purgeCalls_kept | with_reducible apply kept_ite | simp only [↓kept_mk_iff] | (split <;> try dsimp only))

theorem noteAct_kept {q0 : State} {a : ActCall} {s : State} (h_s : Kept q0 s) : Kept q0 (noteAct a s) := by
    unfold noteAct
    try dsimp only
    repeat' (first | with_reducible assumption | with_reducible apply takeFree_kept | with_reducible apply takeFree_kept_at | with_reducible apply addResidency_kept | with_reducible apply kept_ite | simp only [↓kept_mk_iff] | (split <;> try dsimp only))

theorem actComplete_kept {q0 : State} {p : Nat} {k : Nat} {s : State} (h_s : Kept q0 s) : Kept q0 (actComplete p k s) := by
    unfold actComplete
    try dsimp only
    repeat' (first | with_reducible assumption | (intro _; try dsimp only) | with_reducible apply State.write_kept | with_reducible apply dropAct_kept | with_reducible apply noteAct_kept | with_reducible apply signalSem_kept | with_reducible apply finish_kept | with_reducible apply kept_ite | with_reducible apply kept_foldl | simp only [↓kept_mk_iff] | (split <;> try dsimp only))

theorem joinPair_kept {q0 : State} {p : Nat} {n : Nat} {base : Nat} {size : Nat} {entries : Nat} {i : Nat} {s : State} (h_s : Kept q0 s) : Kept q0 (joinPair p n base size entries i s) := by
    unfold joinPair
    try dsimp only
    repeat' (first | with_reducible assumption | (intro _; try dsimp only) | with_reducible apply modPair_kept | with_reducible apply modSession_kept | with_reducible apply kept_foldl | simp only [↓kept_mk_iff])

theorem enterSession_kept {q0 : State} {p : Nat} {n : Nat} {handle : Nat} {o : CodecOpenOps} {s : State} (h_s : Kept q0 s) : Kept q0 (enterSession p n handle o s) := by
    unfold enterSession
    try dsimp only
    repeat' (first | with_reducible assumption | (intro _; try dsimp only) | with_reducible apply joinPair_kept | with_reducible apply modPart_kept | with_reducible apply kept_foldl | simp only [↓kept_mk_iff])

theorem openBody_kept {q0 : State} {f : Nat} {hdr : Hdr} {o : CodecOpenOps} {st0 : State} (h_st0 : Kept q0 st0) : BodyKept q0 (openBody f hdr o st0) := by
    unfold openBody
    try dsimp only
    repeat' (first | with_reducible assumption | (intro _; try dsimp only) | with_reducible exact bodyKept_error | with_reducible apply bodyKept_need | with_reducible apply bodyKept_have' | with_reducible apply bodyKept_ok | with_reducible apply kept_id | with_reducible apply withPart_kept | with_reducible apply long_kept | with_reducible apply enterSession_kept | simp only [↓kept_mk_iff])

theorem closeSession_kept {q0 : State} {p : Nat} {n : Nat} {status : Nat} {s : State} (h_s : Kept q0 s) : Kept q0 (closeSession p n status s) := by
    unfold closeSession
    try dsimp only
    repeat' (first | with_reducible assumption | (intro _; try dsimp only) | with_reducible apply modPart_kept | with_reducible apply leavePairs_kept | with_reducible apply finish_kept | with_reducible apply kept_ite | simp only [↓kept_mk_iff] | (split <;> try dsimp only))

theorem codecCloseBody_kept {q0 : State} {f : Nat} {hdr : Hdr} {session : W64} {st0 : State} (h_st0 : Kept q0 st0) : BodyKept q0 (codecCloseBody f hdr session st0) := by
    unfold codecCloseBody
    try dsimp only
    repeat' (first | with_reducible assumption | (intro _; try dsimp only) | with_reducible exact bodyKept_error | with_reducible apply bodyKept_need | with_reducible apply bodyKept_ok | with_reducible apply bodyKept_ite | with_reducible apply kept_id | with_reducible apply withPart_kept | with_reducible apply withSession_kept | with_reducible apply closeSession_kept | with_reducible apply kept_ite | simp only [↓kept_mk_iff])

theorem feedBody_kept {q0 : State} {f : Nat} {hdr : Hdr} {session : W64} {count : W64} {st0 : State} (h_st0 : Kept q0 st0) : BodyKept q0 (feedBody f hdr session count st0) := by
    unfold feedBody
    try dsimp only
    repeat' (first | with_reducible assumption | (intro _; try dsimp only) | with_reducible exact bodyKept_error | with_reducible apply bodyKept_need | with_reducible apply bodyKept_ok | with_reducible apply kept_id | with_reducible apply withPart_kept | with_reducible apply withSession_kept | with_reducible apply State.write_kept | with_reducible apply modSession_kept | with_reducible apply startWait_kept | simp only [↓kept_mk_iff])

theorem releaseBody_kept {q0 : State} {f : Nat} {hdr : Hdr} {session : W64} {entries : W64} {area : W64} {st0 : State} (h_st0 : Kept q0 st0) : BodyKept q0 (releaseBody f hdr session entries area st0) := by
    unfold releaseBody
    try dsimp only
    repeat' (first | with_reducible assumption | (intro _; try dsimp only) | with_reducible exact bodyKept_error | with_reducible apply bodyKept_need | with_reducible apply bodyKept_ok | with_reducible apply kept_id | with_reducible apply withPart_kept | with_reducible apply withSession_kept | with_reducible apply modEntryPool_kept | with_reducible apply modSession_kept | with_reducible apply kept_foldl | simp only [↓kept_mk_iff])

theorem encFrameBody_kept {q0 : State} {f : Nat} {hdr : Hdr} {session : W64} {buffer : W64} {timestamp : W64} {forceIrap : W64} {st0 : State} (h_st0 : Kept q0 st0) : BodyKept q0 (encFrameBody f hdr session buffer timestamp forceIrap st0) := by
    unfold encFrameBody
    try dsimp only
    repeat' (first | with_reducible assumption | (intro _; try dsimp only) | with_reducible exact bodyKept_error | with_reducible apply bodyKept_need | with_reducible apply bodyKept_ok | with_reducible apply kept_id | with_reducible apply withPart_kept | with_reducible apply withSession_kept | with_reducible apply queueFrame_kept | simp only [↓kept_mk_iff])

theorem codecQueryBody_kept {q0 : State} {f : Nat} {hdr : Hdr} {session : W64} {st0 : State} (h_st0 : Kept q0 st0) : BodyKept q0 (codecQueryBody f hdr session st0) := by
    unfold codecQueryBody
    try dsimp only
    repeat' (first | with_reducible assumption | (intro _; try dsimp only) | with_reducible exact bodyKept_error | with_reducible apply bodyKept_need | with_reducible apply bodyKept_ok | with_reducible apply bodyKept_ite | with_reducible apply kept_id | with_reducible apply withPart_kept | with_reducible apply withSession_kept | with_reducible apply kept_ite | simp only [↓kept_mk_iff])

theorem takeSpill_kept {q0 : State} {p : Nat} {n : Nat} {bytes : Nat} {s : State} (h_s : Kept q0 s) : KeptOpt (fun x => x.2) q0 (takeSpill p n bytes s) := by
    unfold takeSpill
    try dsimp only
    repeat' (first | with_reducible assumption | (intro _; try dsimp only) | with_reducible apply modSession_kept | with_reducible exact keptOpt_none | with_reducible apply keptOpt_ite | with_reducible apply keptOpt_map | with_reducible apply keptOpt_some | with_reducible apply keptVia_ite | with_reducible apply kept_ite | simp only [↓kept_mk_iff] | (split <;> try dsimp only) | (with_reducible refine keptVia_mk ?_; try dsimp only))

theorem takeSpill_kept_some {q0 : State} {p : Nat} {n : Nat} {bytes : Nat} {s : State} {y} (he : (takeSpill p n bytes s) = some y) (h_s : Kept q0 s) : Kept q0 y.2 := (takeSpill_kept (q0 := q0) (p := p) (n := n) (bytes := bytes) (s := s) h_s).get _ he

theorem takeSpill_kept_eq {q0 : State} {p : Nat} {n : Nat} {bytes : Nat} {s : State} {v0} {v1} (he : (takeSpill p n bytes s) = some (v0, v1)) (h_s : Kept q0 s) : Kept q0 v1 := (takeSpill_kept (q0 := q0) (p := p) (n := n) (bytes := bytes) (s := s) h_s).get _ he

theorem actBody_kept {q0 : State} {f : Nat} {hdr : Hdr} {decode : Bool} {call : BitVec 512} {src : DescWord} {dst : DescWord} {ref : DescWord} {bound : DescWord} {st0 : State} (h_st0 : Kept q0 st0) : BodyKept q0 (actBody f hdr decode call src dst ref bound st0) := by
    unfold actBody
    try dsimp only
    repeat' (first | with_reducible assumption | (intro _; try dsimp only) | with_reducible exact bodyKept_error | with_reducible apply bodyKept_need | with_reducible apply bodyKept_have' | with_reducible apply bodyKept_ok | with_reducible apply kept_id | with_reducible apply withPart_kept | with_reducible apply withSession_kept | with_reducible apply needUnified_kept | with_reducible apply takeSpill_kept | with_reducible refine takeSpill_kept_some ‹_› ?_ | with_reducible apply long_kept | with_reducible apply startWait_kept | with_reducible apply modPart_kept | simp only [↓kept_mk_iff])

theorem actReleaseBody_kept {q0 : State} {f : Nat} {hdr : Hdr} {session : W64} {spill : W64} {st0 : State} (h_st0 : Kept q0 st0) : BodyKept q0 (actReleaseBody f hdr session spill st0) := by
    unfold actReleaseBody
    try dsimp only
    repeat' (first | with_reducible assumption | (intro _; try dsimp only) | with_reducible exact bodyKept_error | with_reducible apply bodyKept_need | with_reducible apply bodyKept_have' | with_reducible apply bodyKept_ok | with_reducible apply kept_id | with_reducible apply withPart_kept | with_reducible apply withSession_kept | with_reducible apply modSession_kept | simp only [↓kept_mk_iff])

theorem pairError_kept {q0 : State} {i : Nat} {s : State} (h_s : Kept q0 s) : Kept q0 (pairError i s) := by
    unfold pairError
    try dsimp only
    repeat' (first | with_reducible assumption | (intro _; try dsimp only) | with_reducible apply raiseFault_kept | with_reducible apply modPair_kept | with_reducible apply failAct_kept | with_reducible apply stopSession_kept | with_reducible apply kept_ite | simp only [↓kept_mk_iff] | (split <;> try dsimp only))

end Sys2Proof.Machine
end

