-- ==== Sys2Proof/Laws/KeptPelotons.lean ====
section
/-!
SUPPORT. What the operations of Machine/Pelotons.lean leave alone (`Kept`), one lemma each.
-/
namespace Sys2Proof.Machine

theorem bindVcs_kept {q0 : State} {p : Nat} {n : Nat} {credits : Nat} {ports : List Nat} {vcs : List Nat} {s : State} (h_s : Kept q0 s) : Kept q0 (bindVcs p n credits ports vcs s) := by
    unfold bindVcs
    try dsimp only
    repeat' (first | with_reducible assumption | (intro _; try dsimp only) | with_reducible apply modPort_kept | with_reducible apply returnCredits_kept | with_reducible apply kept_ite | with_reducible apply kept_foldl)

theorem formBody_kept {q0 : State} {f : Nat} {hdr : Hdr} {desc : DescWord} {st0 : State} (h_st0 : Kept q0 st0) : BodyKept q0 (formBody f hdr desc st0) := by
    unfold formBody
    try dsimp only
    repeat' (first | with_reducible assumption | (intro _; try dsimp only) | with_reducible exact bodyKept_error | with_reducible apply bodyKept_need | with_reducible apply bodyKept_ok | with_reducible apply kept_id | with_reducible apply withPart_kept | with_reducible apply needUnified_kept | with_reducible apply long_kept | with_reducible apply bindVcs_kept | with_reducible apply modPart_kept | with_reducible apply kept_foldl | simp only [↓kept_mk_iff])

theorem pelotonFormed_kept {q0 : State} {p : Nat} {n : Nat} {s : State} (h_s : Kept q0 s) : Kept q0 (pelotonFormed p n s) := by
    unfold pelotonFormed
    try dsimp only
    repeat' (first | with_reducible assumption | (intro _; try dsimp only) | with_reducible apply finish_kept | with_reducible apply modPel_kept | with_reducible apply kept_ite | simp only [↓kept_mk_iff] | (split <;> try dsimp only))

theorem releaseOn_kept {q0 : State} {ports : List Nat} {p : Nat} {n : Nat} {q : Peloton} {s : State} (h_s : Kept q0 s) : Kept q0 (releaseOn ports p n q s) := by
    unfold releaseOn
    try dsimp only
    repeat' (first | with_reducible assumption | (intro _; try dsimp only) | with_reducible apply sendControl_kept | with_reducible apply modPort_kept | with_reducible apply kept_ite | with_reducible apply kept_foldl | simp only [↓kept_mk_iff])

theorem releaseVcs_kept {q0 : State} {p : Nat} {n : Nat} {q : Peloton} {s : State} (h_s : Kept q0 s) : Kept q0 (releaseVcs p n q s) := by
    unfold releaseVcs
    try dsimp only
    repeat' (first | with_reducible assumption | with_reducible apply releaseOn_kept)

theorem disbandBody_kept {q0 : State} {f : Nat} {hdr : Hdr} {peloton : W64} {st0 : State} (h_st0 : Kept q0 st0) : BodyKept q0 (disbandBody f hdr peloton st0) := by
    unfold disbandBody
    try dsimp only
    repeat' (first | with_reducible assumption | (intro _; try dsimp only) | with_reducible exact bodyKept_error | with_reducible apply bodyKept_need | with_reducible apply bodyKept_have' | with_reducible apply bodyKept_ok | with_reducible apply kept_id | with_reducible apply withPart_kept | with_reducible apply modPart_kept | with_reducible apply releaseVcs_kept | simp only [↓kept_mk_iff])

theorem policyBody_kept {q0 : State} {f : Nat} {hdr : Hdr} {peloton : W64} {window : W64} {peerLimit : W64} {latePolicy : W64} {thin : W64} {headroom : W64} {st0 : State} (h_st0 : Kept q0 st0) : BodyKept q0 (policyBody f hdr peloton window peerLimit latePolicy thin headroom st0) := by
    unfold policyBody
    try dsimp only
    repeat' (first | with_reducible assumption | (intro _; try dsimp only) | with_reducible exact bodyKept_error | with_reducible apply bodyKept_need | with_reducible apply bodyKept_have' | with_reducible apply bodyKept_ok | with_reducible apply kept_id | with_reducible apply withPart_kept | with_reducible apply modPel_kept | simp only [↓kept_mk_iff])

theorem pelQueryBody_kept {q0 : State} {f : Nat} {hdr : Hdr} {peloton : W64} {st0 : State} (h_st0 : Kept q0 st0) : BodyKept q0 (pelQueryBody f hdr peloton st0) := by
    unfold pelQueryBody
    try dsimp only
    repeat' (first | with_reducible assumption | (intro _; try dsimp only) | with_reducible exact bodyKept_error | with_reducible apply bodyKept_need | with_reducible apply bodyKept_have' | with_reducible apply bodyKept_ok | with_reducible apply kept_id | with_reducible apply withPart_kept | simp only [↓kept_mk_iff])

theorem endLap_kept {q0 : State} {p : Nat} {n : Nat} {status : Nat} {result : W64} {s : State} (h_s : Kept q0 s) : Kept q0 (endLap p n status result s) := by
    unfold endLap
    try dsimp only
    repeat' (first | with_reducible assumption | (intro _; try dsimp only) | with_reducible apply finish_kept | with_reducible apply modPel_kept | simp only [↓kept_mk_iff] | (split <;> try dsimp only))

theorem sendToken_kept {q0 : State} {n : Nat} {mtype : Nat} {epoch : Nat} {layout : Nat} {q : Peloton} {h : CollHead} {body : List Byte} {s : State} (h_s : Kept q0 s) : Kept q0 (sendToken n mtype epoch layout q h body s) := by
    unfold sendToken
    try dsimp only
    repeat' (first | with_reducible assumption | with_reducible apply sendTo_kept | simp only [↓kept_mk_iff])

theorem substBody_kept {q0 : State} {f : Nat} {hdr : Hdr} {peloton : W64} {rank : W64} {linkId : W64} {port : W64} {st0 : State} (h_st0 : Kept q0 st0) : BodyKept q0 (substBody f hdr peloton rank linkId port st0) := by
    unfold substBody
    try dsimp only
    repeat' (first | with_reducible assumption | (intro _; try dsimp only) | with_reducible exact bodyKept_error | with_reducible apply bodyKept_need | with_reducible apply bodyKept_have' | with_reducible apply bodyKept_ok | with_reducible apply kept_id | with_reducible apply withPart_kept | with_reducible apply long_kept | with_reducible apply bindVcs_kept | with_reducible apply modPel_kept | with_reducible apply sendToken_kept | simp only [↓kept_mk_iff])

theorem substToken_kept {q0 : State} {p : Nat} {n : Nat} {s : State} (h_s : Kept q0 s) : Kept q0 (substToken p n s) := by
    unfold substToken
    try dsimp only
    repeat' (first | with_reducible assumption | with_reducible apply dropMsg_kept | with_reducible apply endLap_kept | with_reducible apply sendToken_kept | with_reducible apply kept_ite | simp only [↓kept_mk_iff] | (split <;> try dsimp only))

theorem endFrog_kept {q0 : State} {p : Nat} {n : Nat} {status : Nat} {result : W64} {s : State} (h_s : Kept q0 s) : Kept q0 (endFrog p n status result s) := by
    unfold endFrog
    try dsimp only
    repeat' (first | with_reducible assumption | (intro _; try dsimp only) | with_reducible apply finish_kept | with_reducible apply modPel_kept | simp only [↓kept_mk_iff] | (split <;> try dsimp only))

theorem frogEpoch_kept {q0 : State} {p : Nat} {epoch : Nat} {attempt : Nat} {s : State} (h_s : Kept q0 s) : KeptVia (fun x => x.2) q0 (frogEpoch p epoch attempt s) := by
    unfold frogEpoch
    try dsimp only
    repeat' (first | with_reducible assumption | (intro _; try dsimp only) | with_reducible apply frogStep_kept | with_reducible apply modPart_kept | with_reducible apply dropHeld_kept | with_reducible apply keptVia_ite | with_reducible apply kept_ite | simp only [↓kept_mk_iff] | (split <;> try dsimp only) | (with_reducible refine keptVia_mk ?_; try dsimp only))

theorem frogEpoch_kept_at {q0 : State} {p : Nat} {epoch : Nat} {attempt : Nat} {s : State} (h_s : Kept q0 s) : Kept q0 (frogEpoch p epoch attempt s).2 := frogEpoch_kept (q0 := q0) (p := p) (epoch := epoch) (attempt := attempt) (s := s) h_s

theorem frogEpoch_kept_eq {q0 : State} {p : Nat} {epoch : Nat} {attempt : Nat} {s : State} {v0} {v1} (he : (frogEpoch p epoch attempt s) = (v0, v1)) (h_s : Kept q0 s) : Kept q0 v1 := by
    have := frogEpoch_kept_at (q0 := q0) (p := p) (epoch := epoch) (attempt := attempt) (s := s) h_s
    rw [he] at this; exact this

theorem pelFrogBody_kept {q0 : State} {f : Nat} {hdr : Hdr} {peloton : W64} {epoch : W64} {st0 : State} (h_st0 : Kept q0 st0) : BodyKept q0 (pelFrogBody f hdr peloton epoch st0) := by
    unfold pelFrogBody
    try dsimp only
    repeat' (first | with_reducible assumption | (intro _; try dsimp only) | with_reducible exact bodyKept_error | with_reducible apply bodyKept_need | with_reducible apply bodyKept_have' | with_reducible apply bodyKept_ok | with_reducible apply kept_id | with_reducible apply withPart_kept | with_reducible apply modPel_kept | with_reducible apply long_kept | with_reducible apply frogEpoch_kept | with_reducible apply frogEpoch_kept_at | with_reducible apply sendToken_kept | simp only [↓kept_mk_iff])

theorem groupFrog_kept {q0 : State} {p : Nat} {n : Nat} {s : State} (h_s : Kept q0 s) : Kept q0 (groupFrog p n s) := by
    unfold groupFrog
    try dsimp only
    repeat' (first | with_reducible assumption | with_reducible apply dropMsg_kept | with_reducible apply endFrog_kept | with_reducible apply frogEpoch_kept | with_reducible apply frogEpoch_kept_at | with_reducible apply sendToken_kept | with_reducible apply kept_ite | simp only [↓kept_mk_iff] | (split <;> try dsimp only))

theorem putElem_kept {q0 : State} {s : State} {t : Tensor} {k : Nat} {bs : List Byte} (h_s : Kept q0 s) : Kept q0 (putElem s t k bs) := by
    unfold putElem
    try dsimp only
    repeat' (first | with_reducible assumption | with_reducible apply Tensor.writeCode_kept | with_reducible apply Tensor.padRow_kept | with_reducible apply State.write_kept | with_reducible apply kept_ite)

theorem movePair_kept {q0 : State} {n : Nat} {layout : Nat} {q : Peloton} {i : Nat} {pr : ReshardPair} {s : State} (h_s : Kept q0 s) : Kept q0 (movePair n layout q i pr s) := by
    unfold movePair
    try dsimp only
    repeat' (first | with_reducible assumption | (intro _; try dsimp only) | with_reducible apply putElem_kept | with_reducible apply sendTo_kept | with_reducible apply kept_ite | with_reducible apply kept_foldl)

theorem checkReshard_kept {q0 : State} {p : Nat} {n : Nat} {s : State} (h_s : Kept q0 s) : Kept q0 (checkReshard p n s) := by
    unfold checkReshard
    try dsimp only
    repeat' (first | with_reducible assumption | (intro _; try dsimp only) | with_reducible apply endLap_kept | with_reducible apply kept_ite | with_reducible apply kept_foldl | simp only [↓kept_mk_iff] | (split <;> try dsimp only))

theorem setLap_kept {q0 : State} {p : Nat} {n : Nat} {lap : Nat} {s : State} (h_s : Kept q0 s) : Kept q0 (setLap p n lap s) := by
    unfold setLap
    try dsimp only
    repeat' (first | with_reducible assumption | (intro _; try dsimp only) | with_reducible apply modPel_kept | simp only [↓kept_mk_iff] | (split <;> try dsimp only))

theorem switchLayout_kept {q0 : State} {p : Nat} {n : Nat} {s : State} (h_s : Kept q0 s) : Kept q0 (switchLayout p n s) := by
    unfold switchLayout
    try dsimp only
    repeat' (first | with_reducible assumption | (intro _; try dsimp only) | with_reducible apply modPel_kept | simp only [↓kept_mk_iff] | (split <;> try dsimp only))

theorem startShards_kept {q0 : State} {p : Nat} {n : Nat} {s : State} (h_s : Kept q0 s) : Kept q0 (startShards p n s) := by
    unfold startShards
    try dsimp only
    repeat' (first | with_reducible assumption | (intro _; try dsimp only) | with_reducible apply checkReshard_kept | with_reducible apply movePair_kept | with_reducible apply setLap_kept | with_reducible apply kept_foldl | simp only [↓kept_mk_iff] | (split <;> try dsimp only))

theorem beginLap_kept {q0 : State} {p : Nat} {n : Nat} {s : State} (h_s : Kept q0 s) : Kept q0 (beginLap p n s) := by
    unfold beginLap
    try dsimp only
    repeat' (first | with_reducible assumption | with_reducible apply sendToken_kept | with_reducible apply setLap_kept | with_reducible apply kept_ite | simp only [↓kept_mk_iff] | (split <;> try dsimp only))

theorem reshardBody_kept {q0 : State} {f : Nat} {hdr : Hdr} {peloton : W64} {epoch : W64} {shards : DescWord} {pairs : List ReshardPair} {st0 : State} (h_st0 : Kept q0 st0) : BodyKept q0 (reshardBody f hdr peloton epoch shards pairs st0) := by
    unfold reshardBody
    try dsimp only
    repeat' (first | with_reducible assumption | (intro _; try dsimp only) | with_reducible exact bodyKept_error | with_reducible apply bodyKept_need | with_reducible apply bodyKept_have' | with_reducible apply bodyKept_ok | with_reducible apply kept_id | with_reducible apply withPart_kept | with_reducible apply needUnified_kept | with_reducible apply long_kept | with_reducible apply modPel_kept | with_reducible apply beginLap_kept | simp only [↓kept_mk_iff])

theorem reshardToken_kept {q0 : State} {p : Nat} {n : Nat} {s : State} (h_s : Kept q0 s) : Kept q0 (reshardToken p n s) := by
    unfold reshardToken
    try dsimp only
    repeat' (first | with_reducible assumption | with_reducible apply beginLap_kept | with_reducible apply sendToken_kept | with_reducible apply switchLayout_kept | with_reducible apply dropMsg_kept | with_reducible apply setLap_kept | with_reducible apply startShards_kept | with_reducible apply kept_ite | simp only [↓kept_mk_iff] | (split <;> try dsimp only))

theorem reshardData_kept {q0 : State} {p : Nat} {n : Nat} {s : State} (h_s : Kept q0 s) : Kept q0 (reshardData p n s) := by
    unfold reshardData
    try dsimp only
    repeat' (first | with_reducible assumption | (intro _; try dsimp only) | with_reducible apply dropMsg_kept | with_reducible apply putElem_kept | with_reducible apply checkReshard_kept | with_reducible apply modPel_kept | with_reducible apply kept_foldl | simp only [↓kept_mk_iff] | (split <;> try dsimp only))

theorem lapTimeout_kept {q0 : State} {p : Nat} {n : Nat} {s : State} (h_s : Kept q0 s) : Kept q0 (lapTimeout p n s) := by
    unfold lapTimeout
    try dsimp only
    repeat' (first | with_reducible assumption | (intro _; try dsimp only) | with_reducible apply endFrog_kept | with_reducible apply finish_kept | with_reducible apply modPel_kept | with_reducible apply endLap_kept | with_reducible apply kept_ite | simp only [↓kept_mk_iff] | (split <;> try dsimp only))

theorem dropUnjoined_kept {q0 : State} {s : State} (h_s : Kept q0 s) : Kept q0 (dropUnjoined s) := by
    unfold dropUnjoined
    try dsimp only
    repeat' (first | with_reducible assumption | (intro _; try dsimp only) | with_reducible apply devEvent_kept | with_reducible apply modPart_kept | with_reducible apply kept_ite | with_reducible apply kept_foldl | simp only [↓kept_mk_iff])

theorem pelotonTick_kept {q0 : State} {s : State} (h_s : Kept q0 s) : Kept q0 (pelotonTick s) := by
    unfold pelotonTick
    try dsimp only
    repeat' (first | with_reducible assumption | (intro _; try dsimp only) | with_reducible apply dropUnjoined_kept | with_reducible apply kept_ite | simp only [↓kept_mk_iff] | (split <;> try dsimp only))

theorem undoSubst_kept {q0 : State} {p : Nat} {n : Nat} {status : Nat} {header : BitVec 512} {members : List W64} {layout : Nat} {desc16 : Nat} {s : State} (h_s : Kept q0 s) : Kept q0 (undoSubst p n status header members layout desc16 s) := by
    unfold undoSubst
    try dsimp only
    repeat' (first | with_reducible assumption | (intro _; try dsimp only) | with_reducible apply releaseOn_kept | with_reducible apply endLap_kept | with_reducible apply modPel_kept | simp only [↓kept_mk_iff] | (split <;> try dsimp only))

theorem answerToken_kept {q0 : State} {p : Nat} {n : Nat} {mtype : Nat} {status : Nat} {s : State} (h_s : Kept q0 s) : Kept q0 (answerToken p n mtype status s) := by
    unfold answerToken
    try dsimp only
    repeat' (first | with_reducible assumption | with_reducible apply endFrog_kept | with_reducible apply endLap_kept | with_reducible apply undoSubst_kept | with_reducible apply kept_ite | simp only [↓kept_mk_iff] | (split <;> try dsimp only))

theorem answerCall_kept {q0 : State} {i : Nat} {p : Nat} {n : Nat} {q : Peloton} {src : W16} {w : BitVec 256} {s : State} (h_s : Kept q0 s) : Kept q0 (answerCall i p n q src w s) := by
    unfold answerCall
    try dsimp only
    repeat' (first | with_reducible assumption | (intro _; try dsimp only) | with_reducible apply abortCall_kept | with_reducible apply kept_ite | simp only [↓kept_mk_iff] | (split <;> try dsimp only))

theorem answerMsg_kept {q0 : State} {i : Nat} {src : W16} {w : BitVec 256} {s : State} (h_s : Kept q0 s) : Kept q0 (answerMsg i src w s) := by
    unfold answerMsg
    try dsimp only
    repeat' (first | with_reducible assumption | (intro _; try dsimp only) | with_reducible apply devEvent_kept | with_reducible apply modPort_kept | with_reducible apply answerToken_kept | with_reducible apply answerCall_kept | with_reducible apply kept_ite | simp only [↓kept_mk_iff] | (split <;> try dsimp only))

end Sys2Proof.Machine
end

