-- ==== Sys2Proof/Laws/KeptLinkService.lean ====
section
/-!
SUPPORT. What the operations of Machine/LinkService.lean leave alone (`Kept`), one lemma each.
-/
namespace Sys2Proof.Machine

theorem disablePort_kept {q0 : State} {i : Nat} {s : State} (h_s : Kept q0 s) : Kept q0 (disablePort i s) := by
    unfold disablePort
    try dsimp only
    repeat' (first | with_reducible assumption | (intro _; try dsimp only) | with_reducible apply endPortWork_kept | with_reducible apply modPort_kept | simp only [↓kept_mk_iff])

theorem applyGroup_kept {q0 : State} {g : BitVec 128} {s : State} (h_s : Kept q0 s) : Kept q0 (applyGroup g s) := by
    unfold applyGroup
    try dsimp only
    repeat' (first | with_reducible assumption | (intro _; try dsimp only) | with_reducible apply modPort_kept | with_reducible apply disablePort_kept | with_reducible apply kept_ite | with_reducible apply kept_foldl | simp only [↓kept_mk_iff])

theorem groupBody_kept {q0 : State} {g : BitVec 128} {st0 : State} (h_st0 : Kept q0 st0) : BodyKept q0 (groupBody g st0) := by
    unfold groupBody
    try dsimp only
    repeat' (first | with_reducible assumption | (intro _; try dsimp only) | with_reducible exact bodyKept_error | with_reducible apply bodyKept_need | with_reducible apply bodyKept_ok | with_reducible apply kept_id | with_reducible apply applyGroup_kept)

theorem retuneLane_kept {q0 : State} {i : Nat} {l : Nat} {s : State} (h_s : Kept q0 s) : Kept q0 (retuneLane i l s) := by
    unfold retuneLane
    try dsimp only
    repeat' (first | with_reducible assumption | (intro _; try dsimp only) | with_reducible apply replayAll_kept | with_reducible apply sendConfig_kept | with_reducible apply modPort_kept | simp only [↓kept_mk_iff])

theorem recalBody_kept {q0 : State} {fn : Nat} {hdr : Hdr} {port : W64} {st0 : State} (h_st0 : Kept q0 st0) : BodyKept q0 (recalBody fn hdr port st0) := by
    unfold recalBody
    try dsimp only
    repeat' (first | with_reducible assumption | (intro _; try dsimp only) | with_reducible exact bodyKept_error | with_reducible apply bodyKept_need | with_reducible apply bodyKept_ok | with_reducible apply bodyKept_ite | with_reducible apply kept_id | with_reducible apply long_kept | with_reducible apply retuneLane_kept | with_reducible apply modPort_kept | with_reducible apply kept_ite | simp only [↓kept_mk_iff])

theorem endRecal_kept {q0 : State} {i : Nat} {m : BitVec 4} {bad : Option Nat} {status : Nat} {s : State} (h_s : Kept q0 s) : Kept q0 (endRecal i m bad status s) := by
    unfold endRecal
    try dsimp only
    repeat' (first | with_reducible assumption | (intro _; try dsimp only) | with_reducible apply modPort_kept | with_reducible apply replayAll_kept | with_reducible apply sendConfig_kept | with_reducible apply recEvent_kept | with_reducible apply finish_kept | with_reducible apply kept_ite | simp only [↓kept_mk_iff])

theorem laneRecalDone_kept {q0 : State} {i : Nat} {l : Nat} {pass : Bool} {s : State} (h_s : Kept q0 s) : Kept q0 (laneRecalDone i l pass s) := by
    unfold laneRecalDone
    try dsimp only
    repeat' (first | with_reducible assumption | (intro _; try dsimp only) | with_reducible apply endRecal_kept | with_reducible apply retuneLane_kept | with_reducible apply replayAll_kept | with_reducible apply sendConfig_kept | with_reducible apply modPort_kept | with_reducible apply kept_ite | simp only [↓kept_mk_iff])

theorem trainBody_kept {q0 : State} {fn : Nat} {hdr : Hdr} {port : W64} {st0 : State} (h_st0 : Kept q0 st0) : BodyKept q0 (trainBody fn hdr port st0) := by
    unfold trainBody
    try dsimp only
    repeat' (first | with_reducible assumption | (intro _; try dsimp only) | with_reducible exact bodyKept_error | with_reducible apply bodyKept_need | with_reducible apply bodyKept_ok | with_reducible apply kept_id | with_reducible apply long_kept | with_reducible apply modPort_kept | simp only [↓kept_mk_iff])

theorem sendMarkers_kept {q0 : State} {base : Nat} {lo : Nat} {s : State} (h_s : Kept q0 s) : Kept q0 (sendMarkers base lo s) := by
    unfold sendMarkers
    try dsimp only
    repeat' (first | with_reducible assumption | (intro _; try dsimp only) | with_reducible apply takeFree_kept | with_reducible apply takeFree_kept_at | with_reducible apply emit_kept | with_reducible apply kept_foldl)

theorem missOne_kept {q0 : State} {s : State} (h_s : Kept q0 s) : Kept q0 (missOne s) := by
    unfold missOne
    try dsimp only
    repeat' (first | with_reducible assumption | with_reducible apply devEvent_kept | with_reducible apply recEvent_kept | with_reducible apply kept_ite | simp only [↓kept_mk_iff])

theorem tickMarker_kept {q0 : State} {i : Nat} {accum : Nat} {lo : Nat} {phase : Int} {s : State} (h_s : Kept q0 s) : Kept q0 (tickMarker i accum lo phase s) := by
    unfold tickMarker
    try dsimp only
    repeat' (first | with_reducible assumption | with_reducible apply devEvent_kept | with_reducible apply sendMarkers_kept | with_reducible apply kept_ite | simp only [↓kept_mk_iff] | (split <;> try dsimp only))

theorem markerMissed_kept {q0 : State} {s : State} (h_s : Kept q0 s) : Kept q0 (markerMissed s) := by
    unfold markerMissed
    try dsimp only
    repeat' (first | with_reducible assumption | with_reducible apply missOne_kept | with_reducible apply sendMarkers_kept | with_reducible apply kept_ite)

theorem syncIn_kept {q0 : State} {since : Nat} {s : State} (h_s : Kept q0 s) : Kept q0 (syncIn since s) := by
    unfold syncIn
    try dsimp only
    repeat' (first | with_reducible assumption | with_reducible apply devEvent_kept | with_reducible apply sendMarkers_kept | with_reducible apply kept_ite | simp only [↓kept_mk_iff])

end Sys2Proof.Machine
end

