-- ==== Sys2Proof/Laws/KeptFaults.lean ====
section
/-!
SUPPORT. What the operations of Machine/Faults.lean leave alone (`Kept`), one lemma each.
-/
namespace Sys2Proof.Machine

theorem collectorFault_kept {q0 : State} {mask : W64} {s : State} (h_s : Kept q0 s) : Kept q0 (collectorFault mask s) := by
    unfold collectorFault
    try dsimp only
    repeat' (first | with_reducible assumption | with_reducible apply enterSafe_kept | with_reducible apply kept_ite | simp only [↓kept_mk_iff])

theorem overTemperature_kept {q0 : State} {die : Nat} {temp : Int} {s : State} (h_s : Kept q0 s) : Kept q0 (overTemperature die temp s) := by
    unfold overTemperature
    try dsimp only
    repeat' (first | with_reducible assumption | with_reducible apply enterSafe_kept | with_reducible apply kept_ite)

theorem coreFault_kept {q0 : State} {code : Nat} {c : Nat} {detail : W64} {s : State} (h_s : Kept q0 s) : Kept q0 (coreFault code c detail s) := by
    unfold coreFault
    try dsimp only
    repeat' (first | with_reducible assumption | with_reducible apply raiseFault_kept | with_reducible apply stopFaulty_kept | simp only [↓kept_mk_iff] | (split <;> try dsimp only))

theorem mapbufFault_kept {q0 : State} {d : Nat} {b : Nat} {addr : Nat} {s : State} (h_s : Kept q0 s) : Kept q0 (mapbufFault d b addr s) := by
    unfold mapbufFault
    try dsimp only
    repeat' (first | with_reducible assumption | (intro _; try dsimp only) | with_reducible apply raiseFault_kept | with_reducible apply stopFaulty_kept | with_reducible apply kept_foldl)

theorem stemFault_kept {q0 : State} {d : Nat} {s : State} (h_s : Kept q0 s) : Kept q0 (stemFault d s) := by
    unfold stemFault
    try dsimp only
    repeat' (first | with_reducible assumption | (intro _; try dsimp only) | with_reducible apply modCd_kept | with_reducible apply raiseFault_kept | with_reducible apply stopFaulty_kept | simp only [↓kept_mk_iff] | (split <;> try dsimp only))

theorem coreDegraded_kept {q0 : State} {c : Nat} {s : State} (h_s : Kept q0 s) : Kept q0 (coreDegraded c s) := by
    unfold coreDegraded
    try dsimp only
    repeat' (first | with_reducible assumption | (intro _; try dsimp only) | with_reducible apply recEvent_kept | with_reducible apply modCore_kept | with_reducible apply kept_ite | simp only [↓kept_mk_iff] | (split <;> try dsimp only))

theorem noteRowErrors_kept {q0 : State} {stack : Nat} {row : Nat} {n : Nat} {s : State} (h_s : Kept q0 s) : Kept q0 (noteRowErrors stack row n s) := by
    unfold noteRowErrors
    try dsimp only
    repeat' (first | with_reducible assumption | (intro _; try dsimp only) | simp only [↓kept_mk_iff] | (split <;> try dsimp only))

theorem scrub_kept {q0 : State} {target : Nat} {corrected : List (Nat × Nat)} {s : State} (h_s : Kept q0 s) : Kept q0 (scrub target corrected s) := by
    unfold scrub
    try dsimp only
    repeat' (first | with_reducible assumption | (intro _; try dsimp only) | with_reducible apply devEvent_kept | with_reducible apply noteRowErrors_kept | with_reducible apply coreEvent_kept | with_reducible apply kept_ite | with_reducible apply kept_foldl)

theorem slotStoreError_kept {q0 : State} {f : Nat} {slot : Nat} {s : State} (h_s : Kept q0 s) : Kept q0 (slotStoreError f slot s) := by
    unfold slotStoreError
    try dsimp only
    repeat' (first | with_reducible assumption | (intro _; try dsimp only) | with_reducible apply raiseFault_kept | with_reducible apply dropQueued_kept | with_reducible apply modFn_kept | with_reducible apply finish_kept | with_reducible apply kept_ite | simp only [↓kept_mk_iff])

theorem rowEvent_kept {q0 : State} {id : Nat} {row : W64} {page : Nat} {s : State} (h_s : Kept q0 s) : Kept q0 (rowEvent id row page s) := by
    unfold rowEvent
    try dsimp only
    repeat' (first | with_reducible assumption | with_reducible apply recEvent_kept)

theorem darnRow_kept {q0 : State} {page : Nat} {row : W64} {s : State} (h_s : Kept q0 s) : Kept q0 (darnRow page row s) := by
    unfold darnRow
    try dsimp only
    repeat' (first | with_reducible assumption | (intro _; try dsimp only) | with_reducible apply rowEvent_kept | with_reducible apply settingsTrigger_kept | simp only [↓kept_mk_iff])

theorem freeFrameQuota_kept {q0 : State} {row : W64} {s : State} (h_s : Kept q0 s) : Kept q0 (freeFrameQuota row s) := by
    unfold freeFrameQuota
    try dsimp only
    repeat' (first | with_reducible assumption | (intro _; try dsimp only) | with_reducible apply modPart_kept | with_reducible apply kept_ite | with_reducible apply kept_foldl | simp only [↓kept_mk_iff] | (split <;> try dsimp only))

theorem interruptMove_kept {q0 : State} {page : Nat} {lost : Bool} {s : State} (h_s : Kept q0 s) : Kept q0 (interruptMove page lost s) := by
    unfold interruptMove
    try dsimp only
    repeat' (first | with_reducible assumption | (intro _; try dsimp only) | with_reducible apply endMove_kept | with_reducible apply modEntry_kept | with_reducible apply reserve_kept | with_reducible apply kept_ite | simp only [↓kept_mk_iff] | (split <;> try dsimp only))

theorem addWithdrawn_kept {q0 : State} {among : Nat} {frame : Nat} {row : W64} {s : State} (h_s : Kept q0 s) : Kept q0 (addWithdrawn among frame row s) := by
    unfold addWithdrawn
    try dsimp only
    repeat' (first | with_reducible assumption | simp only [↓kept_mk_iff])

theorem withdrawFrame_kept {q0 : State} {page : Nat} {row : W64} {s : State} (h_s : Kept q0 s) : Kept q0 (withdrawFrame page row s) := by
    unfold withdrawFrame
    try dsimp only
    repeat' (first | with_reducible assumption | (intro _; try dsimp only) | with_reducible apply addWithdrawn_kept | with_reducible apply modPart_kept | with_reducible apply modEntry_kept | with_reducible apply recEvent_kept | with_reducible apply takeFree_kept | with_reducible apply takeFree_kept_at | with_reducible apply freeFrameQuota_kept | with_reducible apply kept_ite | simp only [↓kept_mk_iff] | (split <;> try dsimp only))

theorem handleRow_kept {q0 : State} {page : Nat} {row : W64} {spareLeft : Bool} {s : State} (h_s : Kept q0 s) : Kept q0 (handleRow page row spareLeft s) := by
    unfold handleRow
    try dsimp only
    repeat' (first | with_reducible assumption | with_reducible apply darnRow_kept | with_reducible apply rowEvent_kept | with_reducible apply withdrawFrame_kept | with_reducible apply interruptMove_kept | with_reducible apply kept_ite)

theorem replaceAllLost_kept {q0 : State} {s : State} (h_s : Kept q0 s) : Kept q0 (replaceAllLost s) := by
    unfold replaceAllLost
    try dsimp only
    repeat' (first | with_reducible assumption | with_reducible exact Kept.refl | (intro _; try dsimp only) | with_reducible apply replaceLost_kept | with_reducible apply replaceLost_kept_at | with_reducible refine replaceLost_kept_eq ‹_› ?_ | with_reducible apply modStep_kept | with_reducible apply kept_ite | with_reducible apply kept_foldl | with_reducible apply kept_ite_by Prod.fst | with_reducible apply kept_ite_by Prod.snd | with_reducible apply kept_foldl_fst | with_reducible apply kept_foldl_snd | simp only [↓kept_mk_iff] | (split <;> try dsimp only))

theorem darnLimit_kept {q0 : State} {page : Nat} {row : W64} {spareLeft : Bool} {s : State} (h_s : Kept q0 s) : Kept q0 (darnLimit page row spareLeft s) := by
    unfold darnLimit
    try dsimp only
    repeat' (first | with_reducible assumption | with_reducible apply handleRow_kept | with_reducible apply replaceAllLost_kept | with_reducible apply loseKvPages_kept | with_reducible apply kept_ite)

theorem hbmUncorrectable_kept {q0 : State} {page : Nat} {row : W64} {spareLeft : Bool} {s : State} (h_s : Kept q0 s) : Kept q0 (hbmUncorrectable page row spareLeft s) := by
    unfold hbmUncorrectable
    try dsimp only
    repeat' (first | with_reducible assumption | (intro _; try dsimp only) | with_reducible apply handleRow_kept | with_reducible apply interruptMove_kept | with_reducible apply rowEvent_kept | with_reducible apply modEntry_kept | with_reducible apply raiseFault_kept | with_reducible apply failMoves_kept | with_reducible apply replaceAllLost_kept | with_reducible apply loseKvPages_kept | with_reducible apply kept_ite | simp only [↓kept_mk_iff] | (split <;> try dsimp only))

theorem restored_kept {q0 : State} {s : State} (h_s : Kept q0 s) : Kept q0 (restored s) := by
    unfold restored
    try dsimp only
    repeat' (first | with_reducible assumption | with_reducible apply serveAllocs_kept | with_reducible apply serveCopies_kept)

theorem pageRestore_kept {q0 : State} {page : Nat} {s : State} (h_s : Kept q0 s) : Kept q0 (pageRestore page s) := by
    unfold pageRestore
    try dsimp only
    repeat' (first | with_reducible assumption | (intro _; try dsimp only) | with_reducible apply raiseFault_kept | with_reducible apply failMoves_kept | with_reducible apply setEntry_kept | with_reducible apply restored_kept | with_reducible apply touchPages_kept | with_reducible apply State.write_kept | with_reducible apply kept_ite | simp only [↓kept_mk_iff] | (split <;> try dsimp only))

theorem endOnPoison_kept {q0 : State} {page : Nat} {h : Nat} {s : State} (h_s : Kept q0 s) : Kept q0 (endOnPoison page h s) := by
    unfold endOnPoison
    try dsimp only
    repeat' (first | with_reducible assumption | (intro _; try dsimp only) | with_reducible apply endMove_kept | with_reducible apply stopFaulty_kept | with_reducible apply failAct_kept | with_reducible apply finish_kept | simp only [↓kept_mk_iff] | (split <;> try dsimp only))

theorem farPoison_kept {q0 : State} {page : Nat} {h : Nat} {s : State} (h_s : Kept q0 s) : Kept q0 (farPoison page h s) := by
    unfold farPoison
    try dsimp only
    repeat' (first | with_reducible assumption | with_reducible apply endOnPoison_kept | with_reducible apply poisonRecord_kept | with_reducible apply kept_ite | simp only [↓kept_mk_iff] | (split <;> try dsimp only))

theorem farLinkDown_kept {q0 : State} {f : Nat} {s : State} (h_s : Kept q0 s) : Kept q0 (farLinkDown f s) := by
    unfold farLinkDown
    try dsimp only
    repeat' (first | with_reducible assumption | (intro _; try dsimp only) | with_reducible apply modFar_kept | with_reducible apply raiseFault_kept | with_reducible apply endMove_kept | with_reducible apply kept_ite | with_reducible apply kept_foldl | simp only [↓kept_mk_iff] | (split <;> try dsimp only))

theorem farMedia_kept {q0 : State} {f : Nat} {code : W32} {s : State} (h_s : Kept q0 s) : Kept q0 (farMedia f code s) := by
    unfold farMedia
    try dsimp only
    repeat' (first | with_reducible assumption | with_reducible apply recEvent_kept | with_reducible apply raiseFault_kept)

theorem farEnumerated_kept {q0 : State} {f : Nat} {frames : Nat} {same : Bool} {s : State} (h_s : Kept q0 s) : Kept q0 (farEnumerated f frames same s) := by
    unfold farEnumerated
    try dsimp only
    repeat' (first | with_reducible assumption | (intro _; try dsimp only) | with_reducible apply takeFree_kept | with_reducible apply takeFree_kept_at | with_reducible apply serveAllocs_kept | with_reducible apply finish_kept | with_reducible apply modFar_kept | with_reducible apply kept_ite | with_reducible apply kept_foldl | simp only [↓kept_mk_iff] | (split <;> try dsimp only))

end Sys2Proof.Machine
end

