-- ==== Sys2Proof/Laws/KeptImages.lean ====
section
/-!
SUPPORT. What the operations of Machine/Images.lean leave alone (`Kept`), one lemma each.
-/
namespace Sys2Proof.Machine

theorem blowFuses_kept {q0 : State} {f : FwImage} {s : State} (h_s : Kept q0 s) : Kept q0 (blowFuses f s) := by
    unfold blowFuses
    try dsimp only
    repeat' (first | with_reducible assumption | simp only [↓kept_mk_iff])

theorem putSteward_kept {q0 : State} {b : Bool} {f : FwImage} {s : State} (h_s : Kept q0 s) : Kept q0 (putSteward b f s) := by
    unfold putSteward
    try dsimp only
    repeat' (first | with_reducible assumption | with_reducible apply kept_ite | simp only [↓kept_mk_iff])

theorem putUcode_kept {q0 : State} {b : Bool} {f : FwImage} {s : State} (h_s : Kept q0 s) : Kept q0 (putUcode b f s) := by
    unfold putUcode
    try dsimp only
    repeat' (first | with_reducible assumption | with_reducible apply kept_ite | simp only [↓kept_mk_iff])

theorem takeRoom_kept {q0 : State} {n : Nat} {s : State} (h_s : Kept q0 s) : Kept q0 (takeRoom n s) := by
    unfold takeRoom
    try dsimp only
    repeat' (first | with_reducible assumption | with_reducible apply kept_ite | simp only [↓kept_mk_iff])

theorem beginNext_kept {q0 : State} {s : State} (h_s : Kept q0 s) : Kept q0 (beginNext s) := by
    unfold beginNext
    try dsimp only
    repeat' (first | with_reducible assumption | simp only [↓kept_mk_iff] | (split <;> try dsimp only))

theorem recordCommitted_kept {q0 : State} {x : Settings} {s : State} (h_s : Kept q0 s) : Kept q0 (recordCommitted x s) := by
    unfold recordCommitted
    try dsimp only
    repeat' (first | with_reducible assumption | with_reducible apply blowFuses_kept | with_reducible apply finish_kept | with_reducible apply kept_ite | simp only [↓kept_mk_iff] | (split <;> try dsimp only))

theorem recordFailed_kept {q0 : State} {ts : List Trigger} {s : State} (h_s : Kept q0 s) : Kept q0 (recordFailed ts s) := by
    unfold recordFailed
    try dsimp only
    repeat' (first | with_reducible assumption | (intro _; try dsimp only) | with_reducible apply finish_kept | with_reducible apply kept_ite | with_reducible apply kept_foldl | simp only [↓kept_mk_iff] | (split <;> try dsimp only))

theorem recordWrite_kept {q0 : State} {ok : Bool} {s : State} (h_s : Kept q0 s) : Kept q0 (recordWrite ok s) := by
    unfold recordWrite
    try dsimp only
    repeat' (first | with_reducible assumption | (intro _; try dsimp only) | with_reducible apply takeRoom_kept | with_reducible apply recordCommitted_kept | with_reducible apply beginNext_kept | with_reducible apply finish_kept | with_reducible apply recordFailed_kept | with_reducible apply kept_ite | with_reducible apply kept_foldl | simp only [↓kept_mk_iff] | (split <;> try dsimp only))

end Sys2Proof.Machine
end

