-- ==== Sys2Proof/Laws/KeptSteward.lean ====
section
/-!
SUPPORT. What the operations of Machine/Steward.lean leave alone (`Kept`), one lemma each.
-/
namespace Sys2Proof.Machine

theorem finishAll_kept {q0 : State} {hs : List Nat} {status : Nat} {s : State} (h_s : Kept q0 s) : Kept q0 (finishAll hs status s) := by
    unfold finishAll
    try dsimp only
    repeat' (first | with_reducible assumption | (intro _; try dsimp only) | with_reducible apply finish_kept | with_reducible apply kept_foldl)

theorem setPhase_kept {q0 : State} {ph : UpdatePhase} {s : State} (h_s : Kept q0 s) : Kept q0 (setPhase ph s) := by
    unfold setPhase
    try dsimp only
    repeat' (first | with_reducible assumption | with_reducible apply recEvent_kept | simp only [↓kept_mk_iff])

theorem abortUpdate_kept {q0 : State} {s : State} (h_s : Kept q0 s) : Kept q0 (abortUpdate s) := by
    unfold abortUpdate
    try dsimp only
    repeat' (first | with_reducible assumption | with_reducible apply raiseFault_kept | with_reducible apply finishAll_kept | with_reducible apply setPhase_kept)

theorem takeMailboxes_kept {q0 : State} {s : State} (h_s : Kept q0 s) : Kept q0 (takeMailboxes s) := by
    unfold takeMailboxes
    try dsimp only
    repeat' (first | with_reducible assumption | simp only [↓kept_mk_iff])

theorem backToOld_kept {q0 : State} {s : State} (h_s : Kept q0 s) : Kept q0 (backToOld s) := by
    unfold backToOld
    try dsimp only
    repeat' (first | with_reducible assumption | with_reducible apply setPhase_kept | with_reducible apply finish_kept | simp only [↓kept_mk_iff] | (split <;> try dsimp only))

theorem takeover_kept {q0 : State} {core : Nat} {s : State} (h_s : Kept q0 s) : Kept q0 (takeover core s) := by
    unfold takeover
    try dsimp only
    repeat' (first | with_reducible assumption | with_reducible apply raiseFault_kept | with_reducible apply abortUpdate_kept | with_reducible apply backToOld_kept | with_reducible apply finishAll_kept | with_reducible apply recEvent_kept | with_reducible apply takeMailboxes_kept | simp only [↓kept_mk_iff] | (split <;> try dsimp only))

theorem actingFault_kept {q0 : State} {core : Nat} {s : State} (h_s : Kept q0 s) : Kept q0 (actingFault core s) := by
    unfold actingFault
    try dsimp only
    repeat' (first | with_reducible assumption | with_reducible apply takeover_kept | with_reducible apply enterSafe_kept | with_reducible apply kept_ite)

theorem doubleFault_kept {q0 : State} {core : Nat} {s : State} (h_s : Kept q0 s) : Kept q0 (doubleFault core s) := by
    unfold doubleFault
    try dsimp only
    repeat' (first | with_reducible assumption | with_reducible apply actingFault_kept)

theorem selfTest_kept {q0 : State} {pass : Bool} {s : State} (h_s : Kept q0 s) : Kept q0 (selfTest pass s) := by
    unfold selfTest
    try dsimp only
    repeat' (first | with_reducible assumption | with_reducible apply kept_ite | simp only [↓kept_mk_iff])

theorem standbyFault_kept {q0 : State} {s : State} (h_s : Kept q0 s) : Kept q0 (standbyFault s) := by
    unfold standbyFault
    try dsimp only
    repeat' (first | with_reducible assumption | with_reducible apply abortUpdate_kept | with_reducible apply kept_ite | simp only [↓kept_mk_iff])

theorem updateBody_kept {q0 : State} {fn : Nat} {hdr : Hdr} {image : FwImage} {st0 : State} (h_st0 : Kept q0 st0) : BodyKept q0 (updateBody fn hdr image st0) := by
    unfold updateBody
    try dsimp only
    repeat' (first | with_reducible assumption | (intro _; try dsimp only) | with_reducible exact bodyKept_error | with_reducible apply bodyKept_need | with_reducible apply bodyKept_ok | with_reducible apply bodyKept_ite | with_reducible apply kept_id | with_reducible apply long_kept | with_reducible apply setPhase_kept | with_reducible apply finish_kept | with_reducible apply kept_ite | simp only [↓kept_mk_iff])

theorem handOver_kept {q0 : State} {s : State} (h_s : Kept q0 s) : Kept q0 (handOver s) := by
    unfold handOver
    try dsimp only
    repeat' (first | with_reducible assumption | (intro _; try dsimp only) | with_reducible apply takeMailboxes_kept | with_reducible apply setPhase_kept | with_reducible apply finish_kept | with_reducible apply kept_ite | with_reducible apply kept_foldl | simp only [↓kept_mk_iff])

theorem commitUpdateBody_kept {q0 : State} {fn : Nat} {hdr : Hdr} {st0 : State} (h_st0 : Kept q0 st0) : BodyKept q0 (commitUpdateBody fn hdr st0) := by
    unfold commitUpdateBody
    try dsimp only
    repeat' (first | with_reducible assumption | (intro _; try dsimp only) | with_reducible exact bodyKept_error | with_reducible apply bodyKept_need | with_reducible apply bodyKept_ok | with_reducible apply bodyKept_ite | with_reducible apply kept_id | with_reducible apply long_kept | with_reducible apply finish_kept | with_reducible apply settingsTrigger_kept | with_reducible apply putSteward_kept | with_reducible apply kept_ite | simp only [↓kept_mk_iff])

theorem revertBody_kept {q0 : State} {fn : Nat} {hdr : Hdr} {st0 : State} (h_st0 : Kept q0 st0) : BodyKept q0 (revertBody fn hdr st0) := by
    unfold revertBody
    try dsimp only
    repeat' (first | with_reducible assumption | (intro _; try dsimp only) | with_reducible exact bodyKept_error | with_reducible apply bodyKept_need | with_reducible apply bodyKept_ok | with_reducible apply kept_id | with_reducible apply long_kept | simp only [↓kept_mk_iff])

theorem switchBody_kept {q0 : State} {fn : Nat} {hdr : Hdr} {st0 : State} (h_st0 : Kept q0 st0) : BodyKept q0 (switchBody fn hdr st0) := by
    unfold switchBody
    try dsimp only
    repeat' (first | with_reducible assumption | (intro _; try dsimp only) | with_reducible exact bodyKept_error | with_reducible apply bodyKept_need | with_reducible apply bodyKept_ok | with_reducible apply kept_id | with_reducible apply long_kept | simp only [↓kept_mk_iff])

theorem stewardTick_kept {q0 : State} {s : State} (h_s : Kept q0 s) : Kept q0 (stewardTick s) := by
    unfold stewardTick
    try dsimp only
    repeat' (first | with_reducible assumption | with_reducible apply finishAll_kept | with_reducible apply takeMailboxes_kept | with_reducible apply backToOld_kept | with_reducible apply recEvent_kept | with_reducible apply kept_ite | simp only [↓kept_mk_iff])

theorem ucodeBody_kept {q0 : State} {fn : Nat} {hdr : Hdr} {pair : W64} {image : FwImage} {st0 : State} (h_st0 : Kept q0 st0) : BodyKept q0 (ucodeBody fn hdr pair image st0) := by
    unfold ucodeBody
    try dsimp only
    repeat' (first | with_reducible assumption | (intro _; try dsimp only) | with_reducible exact bodyKept_error | with_reducible apply bodyKept_need | with_reducible apply bodyKept_ok | with_reducible apply bodyKept_ite | with_reducible apply kept_id | with_reducible apply long_kept | with_reducible apply modPair_kept | with_reducible apply finish_kept | with_reducible apply kept_ite | simp only [↓kept_mk_iff])

theorem commitUcode_kept {q0 : State} {f : FwImage} {s : State} (h_s : Kept q0 s) : Kept q0 (commitUcode f s) := by
    unfold commitUcode
    try dsimp only
    repeat' (first | with_reducible assumption | (intro _; try dsimp only) | with_reducible apply settingsTrigger_kept | with_reducible apply putUcode_kept | with_reducible apply kept_ite | simp only [↓kept_mk_iff])

theorem ucodeDone_kept {q0 : State} {i : Nat} {s : State} (h_s : Kept q0 s) : Kept q0 (ucodeDone i s) := by
    unfold ucodeDone
    try dsimp only
    repeat' (first | with_reducible assumption | (intro _; try dsimp only) | with_reducible apply takeNext_kept | with_reducible apply commitUcode_kept | with_reducible apply finish_kept | with_reducible apply modPair_kept | with_reducible apply kept_ite | simp only [↓kept_mk_iff] | (split <;> try dsimp only))

end Sys2Proof.Machine
end

