-- ==== Sys2Proof/Laws/KeptService.lean ====
section
/-!
SUPPORT. What the operations of Machine/Service.lean leave alone (`Kept`), one lemma each.
-/
namespace Sys2Proof.Machine

theorem counterBody_kept {q0 : State} {f : Nat} {scope : W64} {counter : W64} {word : W64} {st0 : State} (h_st0 : Kept q0 st0) : BodyKept q0 (counterBody f scope counter word st0) := by
    unfold counterBody
    try dsimp only
    repeat' (first | with_reducible assumption | (intro _; try dsimp only) | with_reducible exact bodyKept_error | with_reducible apply bodyKept_need | with_reducible apply bodyKept_ok | with_reducible apply bodyKept_ite | with_reducible apply kept_id | with_reducible apply settingsTrigger_kept | with_reducible apply kept_ite | simp only [↓kept_mk_iff] | (split <;> try dsimp only))

theorem applyWord_kept {q0 : State} {c : CounterWord} {s : State} (h_s : Kept q0 s) : Kept q0 (applyWord c s) := by
    unfold applyWord
    try dsimp only
    repeat' (first | with_reducible assumption | with_reducible apply setCoreCtr_kept | with_reducible apply setDevCtr_kept | with_reducible apply kept_ite | simp only [↓kept_mk_iff])

theorem applyWords_kept {q0 : State} {s : State} (h_s : Kept q0 s) : Kept q0 (applyWords s) := by
    unfold applyWords
    try dsimp only
    repeat' (first | with_reducible assumption | (intro _; try dsimp only) | with_reducible apply applyWord_kept | with_reducible apply kept_foldl | simp only [↓kept_mk_iff])

theorem snapCounters_kept {q0 : State} {s : State} (h_s : Kept q0 s) : Kept q0 (snapCounters s) := by
    unfold snapCounters
    try dsimp only
    repeat' (first | with_reducible assumption | (intro _; try dsimp only) | simp only [↓kept_mk_iff])

theorem needDest_kept {q0 : State} {s : State} {f : Nat} {hdr : Hdr} {d : DescWord} {n : Nat} {k : Except Nat Ans} (h_s : Kept q0 s) (h_k : BodyKept q0 k) : BodyKept q0 (needDest s f hdr d n k) := by
    unfold needDest
    try dsimp only
    repeat' (first | with_reducible assumption | (intro _; try dsimp only) | with_reducible exact bodyKept_error | with_reducible apply bodyKept_need | with_reducible apply bodyKept_ok | with_reducible apply kept_id | with_reducible apply needRecords_kept | simp only [↓kept_mk_iff] | (split <;> try dsimp only))

theorem eventReadBody_kept {q0 : State} {f : Nat} {hdr : Hdr} {first : W64} {count : W64} {dst : DescWord} {st0 : State} (h_st0 : Kept q0 st0) : BodyKept q0 (eventReadBody f hdr first count dst st0) := by
    unfold eventReadBody
    try dsimp only
    repeat' (first | with_reducible assumption | (intro _; try dsimp only) | with_reducible exact bodyKept_error | with_reducible apply bodyKept_need | with_reducible apply bodyKept_ok | with_reducible apply kept_id | with_reducible apply needDest_kept | with_reducible apply writeRecords_kept | with_reducible apply writeRecords_kept_at | simp only [↓kept_mk_iff] | (split <;> try dsimp only))

theorem faultClearBody_kept {q0 : State} {tick : W64} {code : W64} {st0 : State} (h_st0 : Kept q0 st0) : BodyKept q0 (faultClearBody tick code st0) := by
    unfold faultClearBody
    try dsimp only
    repeat' (first | with_reducible assumption | (intro _; try dsimp only) | with_reducible exact bodyKept_error | with_reducible apply bodyKept_need | with_reducible apply bodyKept_ok | with_reducible apply kept_id | simp only [↓kept_mk_iff])

theorem telemetryBody_kept {q0 : State} {st0 : State} (h_st0 : Kept q0 st0) : BodyKept q0 (telemetryBody st0) := by
    unfold telemetryBody
    try dsimp only
    repeat' (first | with_reducible assumption | (intro _; try dsimp only) | with_reducible exact bodyKept_error | with_reducible apply bodyKept_need | with_reducible apply bodyKept_ok | with_reducible apply kept_id)

theorem serviceBody_kept {q0 : State} {limit : W64} {st0 : State} (h_st0 : Kept q0 st0) : BodyKept q0 (serviceBody limit st0) := by
    unfold serviceBody
    try dsimp only
    repeat' (first | with_reducible assumption | (intro _; try dsimp only) | with_reducible exact bodyKept_error | with_reducible apply bodyKept_need | with_reducible apply bodyKept_ok | with_reducible apply kept_id | with_reducible apply settingsTrigger_kept | simp only [↓kept_mk_iff])

theorem renameCore_kept {q0 : State} {old : Nat} {new : Nat} {s : State} (h_s : Kept q0 s) : Kept q0 (renameCore old new s) := by
    unfold renameCore
    try dsimp only
    repeat' (first | with_reducible assumption | (intro _; try dsimp only) | with_reducible apply kept_ite | simp only [↓kept_mk_iff])

theorem copyFoot_kept {q0 : State} {old : Nat} {new : Nat} {pat : PatternImage} {s : State} (h_s : Kept q0 s) : Kept q0 (copyFoot old new pat s) := by
    unfold copyFoot
    try dsimp only
    repeat' (first | with_reducible assumption | with_reducible apply State.write_kept | with_reducible apply kept_ite)

theorem takePosition_kept {q0 : State} {old : Nat} {new : Nat} {h : Nat} {s : State} (h_s : Kept q0 s) : Kept q0 (takePosition old new h s) := by
    unfold takePosition
    try dsimp only
    repeat' (first | with_reducible assumption | with_reducible apply settingsTrigger_kept | with_reducible apply finish_kept | with_reducible apply recEvent_kept | simp only [↓kept_mk_iff] | (split <;> try dsimp only))

theorem swapIdle_kept {q0 : State} {old : Nat} {new : Nat} {h : Nat} {s : State} (h_s : Kept q0 s) : Kept q0 (swapIdle old new h s) := by
    unfold swapIdle
    try dsimp only
    repeat' (first | with_reducible assumption | with_reducible apply takePosition_kept | with_reducible apply renameCore_kept | with_reducible apply setCore_kept | simp only [↓kept_mk_iff])

theorem swapRunning_kept {q0 : State} {old : Nat} {new : Nat} {h : Nat} {s : State} (h_s : Kept q0 s) : Kept q0 (swapRunning old new h s) := by
    unfold swapRunning
    try dsimp only
    repeat' (first | with_reducible assumption | (intro _; try dsimp only) | with_reducible apply copyFoot_kept | with_reducible apply setCore_kept | with_reducible apply takePosition_kept | with_reducible apply renameCore_kept | with_reducible apply settleLane_kept | with_reducible apply kept_ite | with_reducible apply kept_foldl | simp only [↓kept_mk_iff] | (split <;> try dsimp only))

theorem coreSwap_kept {q0 : State} {c : Nat} {s : State} (h_s : Kept q0 s) : Kept q0 (coreSwap c s) := by
    unfold coreSwap
    try dsimp only
    repeat' (first | with_reducible assumption | with_reducible apply swapIdle_kept | with_reducible apply stopCore_kept | with_reducible apply swapRunning_kept | with_reducible apply kept_ite | simp only [↓kept_mk_iff] | (split <;> try dsimp only))

theorem spareBody_kept {q0 : State} {fn : Nat} {hdr : Hdr} {core : W64} {spare : W64} {st0 : State} (h_st0 : Kept q0 st0) : BodyKept q0 (spareBody fn hdr core spare st0) := by
    unfold spareBody
    try dsimp only
    repeat' (first | with_reducible assumption | (intro _; try dsimp only) | with_reducible exact bodyKept_error | with_reducible apply bodyKept_need | with_reducible apply bodyKept_ok | with_reducible apply bodyKept_ite | with_reducible apply kept_id | with_reducible apply long_kept | with_reducible apply coreSwap_kept | with_reducible apply kept_ite | simp only [↓kept_mk_iff] | (split <;> try dsimp only))

theorem stackBody_kept {q0 : State} {fn : Nat} {hdr : Hdr} {stack : W64} {st0 : State} (h_st0 : Kept q0 st0) : BodyKept q0 (stackBody fn hdr stack st0) := by
    unfold stackBody
    try dsimp only
    repeat' (first | with_reducible assumption | (intro _; try dsimp only) | with_reducible exact bodyKept_error | with_reducible apply bodyKept_need | with_reducible apply bodyKept_ok | with_reducible apply kept_id | with_reducible apply long_kept | with_reducible apply modStack_kept | simp only [↓kept_mk_iff])

theorem stackTick_kept {q0 : State} {s : State} (h_s : Kept q0 s) : Kept q0 (stackTick s) := by
    unfold stackTick
    try dsimp only
    repeat' (first | with_reducible assumption | (intro _; try dsimp only) | with_reducible apply modStack_kept | with_reducible apply recEvent_kept | with_reducible apply finishAll_kept | with_reducible apply kept_ite | with_reducible apply kept_foldl | simp only [↓kept_mk_iff] | (split <;> try dsimp only))

theorem farRestartBody_kept {q0 : State} {fn : Nat} {hdr : Hdr} {port : W64} {st0 : State} (h_st0 : Kept q0 st0) : BodyKept q0 (farRestartBody fn hdr port st0) := by
    unfold farRestartBody
    try dsimp only
    repeat' (first | with_reducible assumption | (intro _; try dsimp only) | with_reducible exact bodyKept_error | with_reducible apply bodyKept_need | with_reducible apply bodyKept_ok | with_reducible apply kept_id | with_reducible apply long_kept | with_reducible apply modFar_kept | simp only [↓kept_mk_iff])

end Sys2Proof.Machine
end

