-- ==== Sys2Proof/Laws/KeptPatterns.lean ====
section
/-!
SUPPORT. What the operations of Machine/Patterns.lean leave alone (`Kept`), one lemma each.
-/
namespace Sys2Proof.Machine

theorem needPattern_kept {q0 : State} {s : State} {p : Nat} {e : CheckEnv} {k : Except Nat Ans} (h_s : Kept q0 s) (h_k : BodyKept q0 k) : BodyKept q0 (needPattern s p e k) := by
    unfold needPattern
    try dsimp only
    repeat' (first | with_reducible assumption | (intro _; try dsimp only) | with_reducible exact bodyKept_error | with_reducible apply bodyKept_need | with_reducible apply bodyKept_ok | with_reducible apply kept_id)

theorem needPlacement_kept {q0 : State} {s : State} {p : Nat} {x : Partition} {e : CheckEnv} {cores : List Nat} {k : Except Nat Ans} (h_s : Kept q0 s) (h_k : BodyKept q0 k) : BodyKept q0 (needPlacement s p x e cores k) := by
    unfold needPlacement
    try dsimp only
    repeat' (first | with_reducible assumption | (intro _; try dsimp only) | with_reducible exact bodyKept_error | with_reducible apply bodyKept_need | with_reducible apply bodyKept_ok | with_reducible apply kept_id)

theorem loadBody_kept {q0 : State} {f : Nat} {hdr : Hdr} {desc : DescWord} {image : PatternImage} {st0 : State} (h_st0 : Kept q0 st0) : BodyKept q0 (loadBody f hdr desc image st0) := by
    unfold loadBody
    try dsimp only
    repeat' (first | with_reducible assumption | (intro _; try dsimp only) | with_reducible exact bodyKept_error | with_reducible apply bodyKept_need | with_reducible apply bodyKept_have' | with_reducible apply bodyKept_ok | with_reducible apply kept_id | with_reducible apply withPart_kept | with_reducible apply needUnified_kept | with_reducible apply needPattern_kept | with_reducible apply long_kept | with_reducible apply modPart_kept | with_reducible apply finish_kept | simp only [↓kept_mk_iff])

theorem unloadBody_kept {q0 : State} {f : Nat} {hdr : Hdr} {pattern : W64} {st0 : State} (h_st0 : Kept q0 st0) : BodyKept q0 (unloadBody f hdr pattern st0) := by
    unfold unloadBody
    try dsimp only
    repeat' (first | with_reducible assumption | (intro _; try dsimp only) | with_reducible exact bodyKept_error | with_reducible apply bodyKept_need | with_reducible apply bodyKept_have' | with_reducible apply bodyKept_ok | with_reducible apply kept_id | with_reducible apply withPart_kept | with_reducible apply modPart_kept | simp only [↓kept_mk_iff])

theorem createBody_kept {q0 : State} {f : Nat} {hdr : Hdr} {pattern : W64} {cls : W64} {quads : W64} {banks : W64} {weight : W64} {slice : W64} {context : DescWord} {st0 : State} (h_st0 : Kept q0 st0) : BodyKept q0 (createBody f hdr pattern cls quads banks weight slice context st0) := by
    unfold createBody
    try dsimp only
    repeat' (first | with_reducible assumption | (intro _; try dsimp only) | with_reducible exact bodyKept_error | with_reducible apply bodyKept_need | with_reducible apply bodyKept_have' | with_reducible apply bodyKept_ok | with_reducible apply kept_id | with_reducible apply withPart_kept | with_reducible apply needUnified_kept | with_reducible apply needPlacement_kept | with_reducible apply modPart_kept | simp only [↓kept_mk_iff])

theorem destroyBody_kept {q0 : State} {f : Nat} {hdr : Hdr} {job : W64} {st0 : State} (h_st0 : Kept q0 st0) : BodyKept q0 (destroyBody f hdr job st0) := by
    unfold destroyBody
    try dsimp only
    repeat' (first | with_reducible assumption | (intro _; try dsimp only) | with_reducible exact bodyKept_error | with_reducible apply bodyKept_need | with_reducible apply bodyKept_have' | with_reducible apply bodyKept_ok | with_reducible apply kept_id | with_reducible apply withPart_kept | with_reducible apply modPart_kept | simp only [↓kept_mk_iff])

theorem jobSetBody_kept {q0 : State} {f : Nat} {hdr : Hdr} {job : W64} {cls : W64} {weight : W64} {slice : W64} {st0 : State} (h_st0 : Kept q0 st0) : BodyKept q0 (jobSetBody f hdr job cls weight slice st0) := by
    unfold jobSetBody
    try dsimp only
    repeat' (first | with_reducible assumption | (intro _; try dsimp only) | with_reducible exact bodyKept_error | with_reducible apply bodyKept_need | with_reducible apply bodyKept_have' | with_reducible apply bodyKept_ok | with_reducible apply kept_id | with_reducible apply withPart_kept | with_reducible apply modJob_kept | simp only [↓kept_mk_iff])

end Sys2Proof.Machine
end

