-- ==== Sys2Proof/Laws/KeptSubmit.lean ====
section
/-!
SUPPORT. What the operations of Machine/Submit.lean leave alone (`Kept`), one lemma each.
-/
namespace Sys2Proof.Machine

theorem reserveAppends_kept {q0 : State} {p : Nat} {e : CheckEnv} {a1 : List AppendDecl} {a2 : State} (h : Kept q0 a2) :
    ∀ y, reserveAppends p e a1 a2 = .ok y → Kept q0 y.2 := by
  induction a1 generalizing a2 with
  | nil => intro y hy; cases hy; exact h
  | cons d r ih =>
    intro y hy
    rw [reserveAppends] at hy
    split at hy
    · cases hy
    split at hy
    · cases hy
    simp only [needSeq, have'_ok_iff, need_ok_iff] at hy
    obtain ⟨_, _, _, hy⟩ := hy
    split at hy
    · cases hy
    split at hy
    · rename_i ht
      have := ih (reserveSeq_kept_some ‹_› h) _ ht
      cases hy
      exact this
    · cases hy

theorem reserveSpills_kept {q0 : State} {p : Nat} {e : CheckEnv} {a1 : List Nat} {a2 : State} (h : Kept q0 a2) :
    ∀ y, reserveSpills p e a1 a2 = .ok y → Kept q0 y.2 := by
  induction a1 generalizing a2 with
  | nil => intro y hy; cases hy; exact h
  | cons d r ih =>
    intro y hy
    rw [reserveSpills] at hy
    split at hy
    · split at hy
      · split at hy
        · cases hy
        dsimp only at hy
        split at hy
        · cases hy
        split at hy
        · rename_i ht
          have := ih (takeSpill_kept_some ‹_› h) _ ht
          cases hy
          exact this
        · cases hy
      · cases hy
    · exact ih h _ hy

theorem prepareStep_kept {q0 : State} {p : Nat} {x : Partition} {o : StepOps} {slot : Option (Nat × Nat)} {s : State} (h : Kept q0 s) :
    ∀ y, prepareStep p x o slot s = .ok y → Kept q0 y.2 := by
  intro y hy
  simp only [prepareStep, needUnified, needPattern, needPlacement, have'_ok_iff, need_ok_iff] at hy
  obtain ⟨_, _, _, _, _, _, hy⟩ := hy
  split at hy
  all_goals
    simp only [need_ok_iff] at hy
    repeat (obtain ⟨_, hy⟩ := hy)
    split at hy
    · cases hy
    split at hy
    · cases hy
    have := reserveSpills_kept (reserveAppends_kept h _ ‹_›) _ ‹_›
    cases hy
    exact this

theorem queueStep_kept {q0 : State} {f : Nat} {hdr : Hdr} {p : Nat} {st : Step} {state : HState} {s : State} (h_s : Kept q0 s) : BodyKept q0 (queueStep f hdr p st state s) := by
    unfold queueStep
    try dsimp only
    repeat' (first | with_reducible assumption | (intro _; try dsimp only) | with_reducible exact bodyKept_error | with_reducible apply bodyKept_need | with_reducible apply bodyKept_ok | with_reducible apply kept_id | with_reducible apply long_kept | with_reducible apply modPart_kept | with_reducible apply modHandle_kept | simp only [↓kept_mk_iff])

theorem submitBody_kept {q0 : State} {f : Nat} {hdr : Hdr} {o : StepOps} {st0 : State} (h_st0 : Kept q0 st0) : BodyKept q0 (submitBody f hdr o st0) := by
    unfold submitBody
    try dsimp only
    repeat' (first | with_reducible assumption | (intro _; try dsimp only) | with_reducible exact bodyKept_error | with_reducible apply bodyKept_need | with_reducible apply bodyKept_ok | with_reducible apply kept_id | with_reducible apply withPart_kept | with_reducible refine prepareStep_kept ?_ _ ‹_› | with_reducible apply queueStep_kept | simp only [↓kept_mk_iff] | (split <;> try dsimp only))

theorem armBody_kept {q0 : State} {f : Nat} {hdr : Hdr} {slot : W64} {o : StepOps} {st0 : State} (h_st0 : Kept q0 st0) : BodyKept q0 (armBody f hdr slot o st0) := by
    unfold armBody
    try dsimp only
    repeat' (first | with_reducible assumption | (intro _; try dsimp only) | with_reducible exact bodyKept_error | with_reducible apply bodyKept_need | with_reducible apply bodyKept_ok | with_reducible apply bodyKept_ite | with_reducible apply kept_id | with_reducible apply withPart_kept | with_reducible refine prepareStep_kept ?_ _ ‹_› | with_reducible apply modFn_kept | with_reducible apply queueStep_kept | with_reducible apply armCores_kept | with_reducible apply markSlot_kept | with_reducible apply takeRegs_kept | with_reducible refine (BodyKept.ok (queueStep_kept ?_) _ ‹_ = Except.ok _›).1 | with_reducible refine (BodyKept.ok (queueStep_kept ?_) _ ‹_ = Except.ok _›).2 _ ?_ | with_reducible apply kept_ite | simp only [↓kept_mk_iff] | (split <;> try dsimp only))

theorem disarmBody_kept {q0 : State} {f : Nat} {slot : W64} {st0 : State} (h_st0 : Kept q0 st0) : BodyKept q0 (disarmBody f slot st0) := by
    unfold disarmBody
    try dsimp only
    repeat' (first | with_reducible assumption | (intro _; try dsimp only) | with_reducible exact bodyKept_error | with_reducible apply bodyKept_need | with_reducible apply bodyKept_ok | with_reducible apply bodyKept_ite | with_reducible apply kept_id | with_reducible apply modFn_kept | with_reducible apply dropQueued_kept | with_reducible apply finish_kept | with_reducible apply kept_ite | simp only [↓kept_mk_iff])

theorem postRefusal_kept {q0 : State} {f : Nat} {status : Nat} {s : State} (h_s : Kept q0 s) : Kept q0 (postRefusal f status s) := by
    unfold postRefusal
    try dsimp only
    repeat' (first | with_reducible assumption | with_reducible apply postEntry_kept)

theorem slotDoorbell_kept {q0 : State} {f : Nat} {i : Nat} {value : W64} {s : State} (h_s : Kept q0 s) : Kept q0 (slotDoorbell f i value s) := by
    unfold slotDoorbell
    try dsimp only
    repeat' (first | with_reducible assumption | (intro _; try dsimp only) | with_reducible apply postRefusal_kept | with_reducible apply devEvent_kept | with_reducible apply modFn_kept | with_reducible apply modHandle_kept | with_reducible apply admitStep_kept | with_reducible apply modStep_kept | with_reducible apply kept_ite | simp only [↓kept_mk_iff])

theorem refuseReplay_kept {q0 : State} {report : DescWord} {bad : List (W32 × W64)} {h : Nat} {s : State} (h_s : Kept q0 s) : Kept q0 (refuseReplay report bad h s) := by
    unfold refuseReplay
    try dsimp only
    repeat' (first | with_reducible assumption | (intro _; try dsimp only) | with_reducible apply State.write_kept | with_reducible apply finish_kept)

theorem replayBody_kept {q0 : State} {f : Nat} {hdr : Hdr} {epoch : W64} {subs : List (W32 × DescWord)} {outs : List DescWord} {report : DescWord} {st0 : State} (h_st0 : Kept q0 st0) : BodyKept q0 (replayBody f hdr epoch subs outs report st0) := by
    unfold replayBody
    try dsimp only
    repeat' (first | with_reducible assumption | (intro _; try dsimp only) | with_reducible exact bodyKept_error | with_reducible apply bodyKept_need | with_reducible apply bodyKept_ok | with_reducible apply bodyKept_ite | with_reducible apply kept_id | with_reducible apply withPart_kept | with_reducible apply long_kept | with_reducible apply refuseReplay_kept | with_reducible refine reserveSpills_kept ?_ _ ‹_› | with_reducible apply modPart_kept | with_reducible apply modHandle_kept | with_reducible apply kept_ite | simp only [↓kept_mk_iff] | (split <;> try dsimp only))

end Sys2Proof.Machine
end

