-- ==== Sys2Proof/Laws/KeptEndWork.lean ====
section
/-!
SUPPORT. What the operations of Machine/EndWork.lean leave alone (`Kept`), one lemma each.
-/
namespace Sys2Proof.Machine

theorem endStep_kept {q0 : State} {silent : Bool} {h : Nat} {s : State} (h_s : Kept q0 s) : Kept q0 (endStep silent h s) := by
    unfold endStep
    try dsimp only
    repeat' (first | with_reducible assumption | (intro _; try dsimp only) | with_reducible apply endSilently_kept | with_reducible apply finish_kept | with_reducible apply dropQueued_kept | with_reducible apply frogStep_kept | with_reducible apply finishFrog_kept | with_reducible apply releaseQuads_kept | with_reducible apply cutStitches_kept | with_reducible apply discardStep_kept | with_reducible apply kept_ite | with_reducible apply kept_foldl | simp only [↓kept_mk_iff] | (split <;> try dsimp only))

theorem truncateAlloc_kept {q0 : State} {p : Nat} {obj : Nat} {s : State} (h_s : Kept q0 s) : Kept q0 (truncateAlloc p obj s) := by
    unfold truncateAlloc
    try dsimp only
    repeat' (first | with_reducible assumption | (intro _; try dsimp only) | with_reducible apply cancelMoves_kept | with_reducible apply unreserve_kept | with_reducible apply modPart_kept | with_reducible apply kept_foldl | simp only [↓kept_mk_iff] | (split <;> try dsimp only))

theorem endOp_kept {q0 : State} {p : Nat} {h : Nat} {op : LongOp} {s : State} (h_s : Kept q0 s) : Kept q0 (endOp p h op s) := by
    unfold endOp
    try dsimp only
    repeat' (first | with_reducible assumption | (intro _; try dsimp only) | with_reducible apply truncateAlloc_kept | with_reducible apply cancelMoves_kept | with_reducible apply releaseVcs_kept | with_reducible apply modPart_kept | with_reducible apply modPel_kept | with_reducible apply closeSession_kept | with_reducible apply dropAct_kept | with_reducible apply setPhase_kept | with_reducible apply takeNext_kept | with_reducible apply modPair_kept | with_reducible apply kept_ite | simp only [↓kept_mk_iff] | (split <;> try dsimp only))

theorem endLong_kept {q0 : State} {silent : Bool} {p : Nat} {h : Nat} {s : State} (h_s : Kept q0 s) : Kept q0 (endLong silent p h s) := by
    unfold endLong
    try dsimp only
    repeat' (first | with_reducible assumption | with_reducible apply endSilently_kept | with_reducible apply finish_kept | with_reducible apply endOp_kept | with_reducible apply kept_ite | simp only [↓kept_mk_iff] | (split <;> try dsimp only))

theorem endPartition_kept {q0 : State} {silent : Bool} {p : Nat} {s : State} (h_s : Kept q0 s) : Kept q0 (endPartition silent p s) := by
    unfold endPartition
    try dsimp only
    repeat' (first | with_reducible assumption | (intro _; try dsimp only) | with_reducible apply endStep_kept | with_reducible apply endLong_kept | with_reducible apply kept_foldl | simp only [↓kept_mk_iff] | (split <;> try dsimp only))

theorem resetVf_kept {q0 : State} {p : Nat} {s : State} (h_s : Kept q0 s) : Kept q0 (resetVf p s) := by
    unfold resetVf
    try dsimp only
    repeat' (first | with_reducible assumption | with_reducible apply serveAllocs_kept | with_reducible apply freshFn_kept | with_reducible apply endPartition_kept)

theorem clearT0_kept {q0 : State} {x : Partition} {s : State} (h_s : Kept q0 s) : Kept q0 (clearT0 x s) := by
    unfold clearT0
    try dsimp only
    repeat' (first | with_reducible assumption | (intro _; try dsimp only) | with_reducible apply State.clear_kept | with_reducible apply State.clearBank_kept | with_reducible apply kept_foldl)

theorem clearCounters_kept {q0 : State} {x : Partition} {s : State} (h_s : Kept q0 s) : Kept q0 (clearCounters x s) := by
    unfold clearCounters
    try dsimp only
    repeat' (first | with_reducible assumption | (intro _; try dsimp only) | simp only [↓kept_mk_iff])

theorem idleCores_kept {q0 : State} {x : Partition} {s : State} (h_s : Kept q0 s) : Kept q0 (idleCores x s) := by
    unfold idleCores
    try dsimp only
    repeat' (first | with_reducible assumption | (intro _; try dsimp only) | with_reducible apply modCore_kept | with_reducible apply kept_foldl)

theorem bindOff_kept {q0 : State} {p : Nat} {s : State} (h_s : Kept q0 s) : Kept q0 (bindOff p s) := by
    unfold bindOff
    try dsimp only
    repeat' (first | with_reducible assumption | (intro _; try dsimp only) | with_reducible apply endPartition_kept | with_reducible apply closeSession_kept | with_reducible apply dropSpace_kept | with_reducible apply releaseVcs_kept | with_reducible apply freeObject_kept | with_reducible apply idleCores_kept | with_reducible apply clearCounters_kept | with_reducible apply clearT0_kept | with_reducible apply modFn_kept | with_reducible apply serveAllocs_kept | with_reducible apply kept_foldl | simp only [↓kept_mk_iff] | (split <;> try dsimp only))

end Sys2Proof.Machine
end

