-- ==== Sys2Proof/Laws/KeptPower.lean ====
section
/-!
SUPPORT. What the operations of Machine/Power.lean leave alone (`Kept`), one lemma each.
-/
namespace Sys2Proof.Machine

theorem powerBody_kept {q0 : State} {fn : Nat} {hdr : Hdr} {word : W64} {st0 : State} (h_st0 : Kept q0 st0) : BodyKept q0 (powerBody fn hdr word st0) := by
    unfold powerBody
    try dsimp only
    repeat' (first | with_reducible assumption | (intro _; try dsimp only) | with_reducible exact bodyKept_error | with_reducible apply bodyKept_need | with_reducible apply bodyKept_ok | with_reducible apply kept_id | with_reducible apply long_kept | with_reducible apply settingsTrigger_kept | simp only [↓kept_mk_iff])

theorem gearEvent_kept {q0 : State} {d : Nat} {old : Nat} {new : Nat} {cause : Nat} {s : State} (h_s : Kept q0 s) : Kept q0 (gearEvent d old new cause s) := by
    unfold gearEvent
    try dsimp only
    repeat' (first | with_reducible assumption | with_reducible apply recEvent_kept)

theorem setTarget_kept {q0 : State} {d : Nat} {g : Nat} {cause : Nat} {s : State} (h_s : Kept q0 s) : Kept q0 (setTarget d g cause s) := by
    unfold setTarget
    try dsimp only
    repeat' (first | with_reducible assumption | (intro _; try dsimp only) | with_reducible apply gearEvent_kept | with_reducible apply modCd_kept | with_reducible apply emit_kept | with_reducible apply kept_ite | simp only [↓kept_mk_iff])

theorem retarget_kept {q0 : State} {before : Nat} {d : Nat} {cause : Nat} {s : State} (h_s : Kept q0 s) : Kept q0 (retarget before d cause s) := by
    unfold retarget
    try dsimp only
    repeat' (first | with_reducible assumption | with_reducible apply setTarget_kept | with_reducible apply kept_ite)

theorem regear_kept {q0 : State} {dies : List Nat} {cause : Nat} {f : State → State} {s : State} (h_f : ∀ u0 : State, Kept q0 u0 → Kept q0 (f u0)) (h_s : Kept q0 s) : Kept q0 (regear dies cause f s) := by
    unfold regear
    try dsimp only
    repeat' (first | with_reducible assumption | (intro _; try dsimp only) | with_reducible apply retarget_kept | with_reducible apply h_f | with_reducible apply kept_foldl)

theorem gearStep_kept {q0 : State} {d : Nat} {s : State} (h_s : Kept q0 s) : Kept q0 (gearStep d s) := by
    unfold gearStep
    try dsimp only
    repeat' (first | with_reducible assumption | (intro _; try dsimp only) | with_reducible apply modCd_kept | with_reducible apply emit_kept | with_reducible apply kept_ite | simp only [↓kept_mk_iff])

theorem avsAck_kept {q0 : State} {d : Nat} {s : State} (h_s : Kept q0 s) : Kept q0 (avsAck d s) := by
    unfold avsAck
    try dsimp only
    repeat' (first | with_reducible assumption | (intro _; try dsimp only) | with_reducible apply modCd_kept | simp only [↓kept_mk_iff] | (split <;> try dsimp only))

theorem avsTimeout_kept {q0 : State} {d : Nat} {s : State} (h_s : Kept q0 s) : Kept q0 (avsTimeout d s) := by
    unfold avsTimeout
    try dsimp only
    repeat' (first | with_reducible assumption | (intro _; try dsimp only) | with_reducible apply gearEvent_kept | with_reducible apply modCd_kept | simp only [↓kept_mk_iff] | (split <;> try dsimp only))

theorem supplyDip_kept {q0 : State} {rail : Nat} {s : State} (h_s : Kept q0 s) : Kept q0 (supplyDip rail s) := by
    unfold supplyDip
    try dsimp only
    repeat' (first | with_reducible assumption | (intro _; try dsimp only) | with_reducible apply regear_kept | with_reducible apply modCd_kept | with_reducible apply kept_ite | with_reducible apply kept_foldl | simp only [↓kept_mk_iff])

theorem dipRecord_kept {q0 : State} {rail : Nat} {lowest : Nat} {below : Nat} {s : State} (h_s : Kept q0 s) : Kept q0 (dipRecord rail lowest below s) := by
    unfold dipRecord
    try dsimp only
    repeat' (first | with_reducible assumption | with_reducible apply recEvent_kept | simp only [↓kept_mk_iff] | (split <;> try dsimp only))

theorem freewheel_kept {q0 : State} {d : Nat} {s : State} (h_s : Kept q0 s) : Kept q0 (freewheel d s) := by
    unfold freewheel
    try dsimp only
    repeat' (first | with_reducible assumption | with_reducible exact Kept.refl | (intro _; try dsimp only) | with_reducible apply gearEvent_kept | with_reducible apply regear_kept | with_reducible apply kept_ite | with_reducible apply kept_foldl | with_reducible apply kept_ite_by Prod.fst | with_reducible apply kept_ite_by Prod.snd | with_reducible apply kept_foldl_fst | with_reducible apply kept_foldl_snd | simp only [↓kept_mk_iff] | (split <;> try dsimp only))

theorem switchRef_kept {q0 : State} {d : Nat} {s : State} (h_s : Kept q0 s) : Kept q0 (switchRef d s) := by
    unfold switchRef
    try dsimp only
    repeat' (first | with_reducible assumption | with_reducible exact Kept.refl | (intro _; try dsimp only) | with_reducible apply regear_kept | with_reducible apply gearEvent_kept | with_reducible apply kept_ite | with_reducible apply kept_foldl | with_reducible apply kept_ite_by Prod.fst | with_reducible apply kept_ite_by Prod.snd | with_reducible apply kept_foldl_fst | with_reducible apply kept_foldl_snd | simp only [↓kept_mk_iff] | (split <;> try dsimp only))

theorem endDip_kept {q0 : State} {rail : Nat} {s : State} (h_s : Kept q0 s) : Kept q0 (endDip rail s) := by
    unfold endDip
    try dsimp only
    repeat' (first | with_reducible assumption | (intro _; try dsimp only) | with_reducible apply regear_kept | with_reducible apply modCd_kept | with_reducible apply kept_ite | with_reducible apply kept_foldl | simp only [↓kept_mk_iff])

theorem powerTick_kept {q0 : State} {env : TickEnv} {s : State} (h_s : Kept q0 s) : Kept q0 (powerTick env s) := by
    unfold powerTick
    try dsimp only
    repeat' (first | with_reducible assumption | (intro _; try dsimp only) | with_reducible apply regear_kept | with_reducible apply endDip_kept | with_reducible apply switchRef_kept | with_reducible apply modCd_kept | with_reducible apply kept_foldl | simp only [↓kept_mk_iff] | (split <;> try dsimp only))

end Sys2Proof.Machine
end

