-- ==== Sys2Proof/Laws/KeptHostPort.lean ====
section
/-!
SUPPORT. What the operations of Machine/HostPort.lean leave alone (`Kept`), one lemma each.
-/
namespace Sys2Proof.Machine

theorem statusWrite_kept {q0 : State} {f : Nat} {v : W64} {s : State} (h_s : Kept q0 s) : Kept q0 (statusWrite f v s) := by
    unfold statusWrite
    try dsimp only
    repeat' (first | with_reducible assumption | (intro _; try dsimp only) | with_reducible apply modFn_kept | with_reducible apply kept_ite | simp only [↓kept_mk_iff])

theorem headWrite_kept {q0 : State} {f : Nat} {v : W64} {s : State} (h_s : Kept q0 s) : Kept q0 (headWrite f v s) := by
    unfold headWrite
    try dsimp only
    repeat' (first | with_reducible assumption | (intro _; try dsimp only) | with_reducible apply modFn_kept | with_reducible apply drain_kept | with_reducible apply hostMistake_kept | with_reducible apply kept_ite | simp only [↓kept_mk_iff])

theorem barStore_kept {q0 : State} {f : Nat} {bar : Nat} {offset : Nat} {bs : List Byte} {s : State} (h_s : Kept q0 s) : Kept q0 (barStore f bar offset bs s) := by
    unfold barStore
    try dsimp only
    repeat' (first | with_reducible assumption | with_reducible apply hostMistake_kept | with_reducible apply State.write_kept | with_reducible apply headWrite_kept | with_reducible apply statusWrite_kept | with_reducible apply kept_ite)

theorem coalesce_kept {q0 : State} {f : Nat} {v : Nat} {s : State} (h_s : Kept q0 s) : Kept q0 (coalesce f v s) := by
    unfold coalesce
    try dsimp only
    repeat' (first | with_reducible assumption | with_reducible apply msix_kept | with_reducible apply setFn_kept | with_reducible apply kept_ite | simp only [↓kept_mk_iff])

theorem dmaReadError_kept {q0 : State} {h : Nat} {addr : W64} {s : State} (h_s : Kept q0 s) : Kept q0 (dmaReadError h addr s) := by
    unfold dmaReadError
    try dsimp only
    repeat' (first | with_reducible assumption | with_reducible apply raiseFault_kept | with_reducible apply stopFaulty_kept | with_reducible apply stopSession_kept | with_reducible apply finish_kept | with_reducible apply endOp_kept | with_reducible apply kept_ite | simp only [↓kept_mk_iff] | (split <;> try dsimp only))

theorem flrVf_kept {q0 : State} {p : Nat} {s : State} (h_s : Kept q0 s) : Kept q0 (flrVf p s) := by
    unfold flrVf
    try dsimp only
    repeat' (first | with_reducible assumption | with_reducible apply resetVf_kept | with_reducible apply freshFn_kept | with_reducible apply kept_ite)

theorem clearVfEnable_kept {q0 : State} {s : State} (h_s : Kept q0 s) : Kept q0 (clearVfEnable s) := by
    unfold clearVfEnable
    try dsimp only
    repeat' (first | with_reducible assumption | (intro _; try dsimp only) | with_reducible apply flrVf_kept | with_reducible apply kept_ite | with_reducible apply kept_foldl | simp only [↓kept_mk_iff])

theorem dropPfSlots_kept {q0 : State} {s : State} (h_s : Kept q0 s) : Kept q0 (dropPfSlots s) := by
    unfold dropPfSlots
    try dsimp only
    repeat' (first | with_reducible assumption | (intro _; try dsimp only) | with_reducible apply dropQueued_kept | with_reducible apply endSilently_kept | with_reducible apply kept_ite | with_reducible apply kept_foldl)

theorem flrPf_kept {q0 : State} {s : State} (h_s : Kept q0 s) : Kept q0 (flrPf s) := by
    unfold flrPf
    try dsimp only
    repeat' (first | with_reducible assumption | with_reducible apply freshFn_kept | with_reducible apply dropPfSlots_kept | with_reducible apply clearVfEnable_kept | with_reducible apply kept_ite)

theorem hotReset_kept {q0 : State} {s : State} (h_s : Kept q0 s) : Kept q0 (hotReset s) := by
    unfold hotReset
    try dsimp only
    repeat' (first | with_reducible assumption | with_reducible apply takeFree_kept | with_reducible apply takeFree_kept_at | with_reducible apply flrPf_kept | simp only [↓kept_mk_iff])

theorem h0Down_kept {q0 : State} {s : State} (h_s : Kept q0 s) : Kept q0 (h0Down s) := by
    unfold h0Down
    try dsimp only
    repeat' (first | with_reducible assumption | with_reducible apply emit_kept | with_reducible apply flrPf_kept | with_reducible apply kept_ite | simp only [↓kept_mk_iff])

theorem referenceLost_kept {q0 : State} {r : PhyRef} {s : State} (h_s : Kept q0 s) : Kept q0 (referenceLost r s) := by
    unfold referenceLost
    try dsimp only
    repeat' (first | with_reducible assumption | (intro _; try dsimp only) | with_reducible apply h0Down_kept | with_reducible apply farLinkDown_kept | with_reducible apply linkDown_kept | with_reducible apply kept_foldl | simp only [↓kept_mk_iff] | (split <;> try dsimp only))

theorem loseCollector_kept {q0 : State} {before : List Output} {s : State} (h_s : Kept q0 s) : Kept q0 (loseCollector before s) := by
    unfold loseCollector
    try dsimp only
    repeat' (first | with_reducible assumption | (intro _; try dsimp only) | with_reducible apply msix_kept | with_reducible apply h0Down_kept | simp only [↓kept_mk_iff] | (split <;> try dsimp only))

theorem supplyCollapse_kept {q0 : State} {rail : Nat} {s : State} (h_s : Kept q0 s) : Kept q0 (supplyCollapse rail s) := by
    unfold supplyCollapse
    try dsimp only
    repeat' (first | with_reducible assumption | with_reducible apply enterSafe_kept | with_reducible apply loseCollector_kept | with_reducible apply kept_ite | simp only [↓kept_mk_iff])

theorem bmcRead_kept {q0 : State} {addr : Nat} {offset : Nat} {count : Nat} {s : State} (h_s : Kept q0 s) : Kept q0 (bmcRead addr offset count s) := by
    unfold bmcRead
    try dsimp only
    repeat' (first | with_reducible assumption | (intro _; try dsimp only) | with_reducible apply emit_kept | with_reducible apply kept_ite)

end Sys2Proof.Machine
end

