-- ==== Sys2Proof/Laws/KeptManagement.lean ====
section
/-!
SUPPORT. What the operations of Machine/Management.lean leave alone (`Kept`), one lemma each.
-/
namespace Sys2Proof.Machine

theorem infoBody_kept {q0 : State} {st0 : State} (h_st0 : Kept q0 st0) : BodyKept q0 (infoBody st0) := by
    unfold infoBody
    try dsimp only
    repeat' (first | with_reducible assumption | (intro _; try dsimp only) | with_reducible exact bodyKept_error | with_reducible apply bodyKept_need | with_reducible apply bodyKept_ok | with_reducible apply kept_id)

theorem listBody_kept {q0 : State} {st0 : State} (h_st0 : Kept q0 st0) : BodyKept q0 (listBody st0) := by
    unfold listBody
    try dsimp only
    repeat' (first | with_reducible assumption | (intro _; try dsimp only) | with_reducible exact bodyKept_error | with_reducible apply bodyKept_need | with_reducible apply bodyKept_ok | with_reducible apply kept_id)

theorem ringBody_kept {q0 : State} {f : Nat} {base : W64} {entries : W64} {writeback : W64} {k : W64} {t : W64} {st0 : State} (h_st0 : Kept q0 st0) : BodyKept q0 (ringBody f base entries writeback k t st0) := by
    unfold ringBody
    try dsimp only
    repeat' (first | with_reducible assumption | (intro _; try dsimp only) | with_reducible exact bodyKept_error | with_reducible apply bodyKept_need | with_reducible apply bodyKept_ok | with_reducible apply kept_id | with_reducible apply setFn_kept | with_reducible apply drain_kept | simp only [↓kept_mk_iff])

theorem handleBody_kept {q0 : State} {f : Nat} {hdr : Hdr} {st0 : State} (h_st0 : Kept q0 st0) : BodyKept q0 (handleBody f hdr st0) := by
    unfold handleBody
    try dsimp only
    repeat' (first | with_reducible assumption | (intro _; try dsimp only) | with_reducible exact bodyKept_error | with_reducible apply bodyKept_need | with_reducible apply bodyKept_have' | with_reducible apply bodyKept_ok | with_reducible apply bodyKept_ite | with_reducible apply kept_id | with_reducible apply kept_ite | simp only [↓kept_mk_iff] | (split <;> try dsimp only))

theorem routeBody_kept {q0 : State} {vector : W64} {st0 : State} (h_st0 : Kept q0 st0) : BodyKept q0 (routeBody vector st0) := by
    unfold routeBody
    try dsimp only
    repeat' (first | with_reducible assumption | (intro _; try dsimp only) | with_reducible exact bodyKept_error | with_reducible apply bodyKept_need | with_reducible apply bodyKept_ok | with_reducible apply kept_id | simp only [↓kept_mk_iff])

theorem tickBody_kept {q0 : State} {period : W64} {st0 : State} (h_st0 : Kept q0 st0) : BodyKept q0 (tickBody period st0) := by
    unfold tickBody
    try dsimp only
    repeat' (first | with_reducible assumption | (intro _; try dsimp only) | with_reducible exact bodyKept_error | with_reducible apply bodyKept_need | with_reducible apply bodyKept_ok | with_reducible apply kept_id | simp only [↓kept_mk_iff])

theorem raiseGeneration_kept {q0 : State} {p : Nat} {s : State} (h_s : Kept q0 s) : Kept q0 (raiseGeneration p s) := by
    unfold raiseGeneration
    try dsimp only
    repeat' (first | with_reducible assumption | with_reducible apply settingsTrigger_kept | with_reducible apply kept_ite | simp only [↓kept_mk_iff])

theorem castOn_kept {q0 : State} {d : BitVec 1024} {s : State} (h_s : Kept q0 s) : Kept q0 (castOn d s) := by
    unfold castOn
    try dsimp only
    repeat' (first | with_reducible assumption | with_reducible apply idleCores_kept | with_reducible apply clearCounters_kept | with_reducible apply clearT0_kept | with_reducible apply setPart_kept)

theorem castBody_kept {q0 : State} {fn : Nat} {hdr : Hdr} {d : BitVec 1024} {st0 : State} (h_st0 : Kept q0 st0) : BodyKept q0 (castBody fn hdr d st0) := by
    unfold castBody
    try dsimp only
    repeat' (first | with_reducible assumption | (intro _; try dsimp only) | with_reducible exact bodyKept_error | with_reducible apply bodyKept_need | with_reducible apply bodyKept_ok | with_reducible apply kept_id | with_reducible apply long_kept | with_reducible apply castOn_kept | with_reducible apply raiseGeneration_kept | with_reducible apply finish_kept)

theorem bindOffBody_kept {q0 : State} {fn : Nat} {hdr : Hdr} {partition : W64} {st0 : State} (h_st0 : Kept q0 st0) : BodyKept q0 (bindOffBody fn hdr partition st0) := by
    unfold bindOffBody
    try dsimp only
    repeat' (first | with_reducible assumption | (intro _; try dsimp only) | with_reducible exact bodyKept_error | with_reducible apply bodyKept_need | with_reducible apply bodyKept_ok | with_reducible apply kept_id | with_reducible apply long_kept | with_reducible apply finish_kept | with_reducible apply bindOff_kept | with_reducible apply modHandle_kept | simp only [↓kept_mk_iff])

end Sys2Proof.Machine
end

