-- ==== Sys2Proof/Laws/KeptResets.lean ====
section
/-!
SUPPORT. What the operations of Machine/Resets.lean leave alone (`Kept`), one lemma each.
-/
namespace Sys2Proof.Machine
open Sys2Proof.Safety

theorem applySpares_kept {q0 : State} {l : List (Nat × Nat)} {s : State} (h : Kept q0 s) : Kept q0 (applySpares l s) := by
  induction l generalizing s with
  | nil => exact h
  | cons d l ih =>
    rw [applySpares]
    refine ih (setCore_kept ?_)
    split
    · exact ⟨h.pending, h.tick, h.mem⟩
    · exact h

/-! ## Start-up: the tick begins again -/

/-- The queue and the canonical form, of a start-up or a reset of the device. -/
structure KeptQueue (r s : State) : Prop where
  pending : s.pending = r.pending
  mem : MemOk r → MemOk s

theorem Kept.queue {r s : State} (h : Kept r s) : KeptQueue r s := ⟨h.pending, h.mem⟩

theorem KeptQueue.of_kept {q r s : State} (h : KeptQueue q r) (k : Kept r s) : KeptQueue q s :=
  ⟨k.pending.trans h.pending, k.mem ∘ h.mem⟩

theorem keptQueue_mk_iff {r x : State} {f o h st ti pa pr co li pai col tr b} :
    KeptQueue r { pending := x.pending, free := f, mem := x.mem, outbox := o, host := h, steward := st, tiers := ti, parts := pa, prefixes := pr, cores := co, links := li, pairs := pai, collector := col, trust := tr, board := b } ↔ KeptQueue r x :=
  ⟨fun k => ⟨k.pending, k.mem⟩, fun k => ⟨k.pending, k.mem⟩⟩

theorem bareDevice_keptQueue {env : BootEnv} {s : State} : KeptQueue s (bareDevice env s) := ⟨rfl, fun h => hostMemory_wf h⟩

theorem applySpares_keptQueue {q0 : State} {l : List (Nat × Nat)} {s : State} (h : KeptQueue q0 s) : KeptQueue q0 (applySpares l s) :=
  h.of_kept (applySpares_kept Kept.refl)

theorem startSteward_keptQueue {q0 : State} {slotB : Bool} {s : State} (h : KeptQueue q0 s) : KeptQueue q0 (startSteward slotB s) := by
  have room : ∀ n, Kept s (takeRoom n (if slotB = s.trust.inForce.slotB then blowFuses (stewardSlot s slotB) s else s)) :=
    fun n => takeRoom_kept (kept_ite (blowFuses_kept Kept.refl) Kept.refl)
  have k := fun n => KeptQueue.of_kept h (room n)
  unfold startSteward
  dsimp only
  refine applySpares_keptQueue ?_
  simp only [↓keptQueue_mk_iff]
  exact k _

theorem release_keptQueue {env : BootEnv} {s : State} : KeptQueue s (release env s) := by
  simp only [release, bootRom]
  split
  · exact bareDevice_keptQueue
  split
  · exact startSteward_keptQueue bareDevice_keptQueue
  split
  · exact startSteward_keptQueue bareDevice_keptQueue
  · exact ⟨rfl, fun h => hostMemory_wf h⟩

end Sys2Proof.Machine
end

