-- ==== Sys2Proof/Laws/KeptStitch.lean ====
section
/-!
SUPPORT. What the operations of Machine/Stitch.lean leave alone (`Kept`), one lemma each.
-/
namespace Sys2Proof.Machine

theorem prefetchWaits_kept {q0 : State} {h : Nat} {c : Nat} {n : Nat} {e : Entry} {s : State} (h_s : Kept q0 s) : Kept q0 (prefetchWaits h c n e s) := by
    unfold prefetchWaits
    try dsimp only
    repeat' (first | with_reducible assumption | with_reducible apply takeFree_kept | with_reducible apply takeFree_kept_at | with_reducible apply fenceStall_kept)

theorem modSentinel_kept {q0 : State} {c : Nat} {tensor : W32} {wfmt : Nat} {afmt : Nat} {f : SentinelRec → SentinelRec} {s : State} (h_s : Kept q0 s) : Kept q0 (modSentinel c tensor wfmt afmt f s) := by
    unfold modSentinel
    try dsimp only
    repeat' (first | with_reducible assumption | (intro _; try dsimp only) | with_reducible apply modCore_kept | with_reducible apply kept_ite | simp only [↓kept_mk_iff])

theorem sampleStitch_kept {q0 : State} {h : Nat} {c : Nat} {i : Nat} {e : Entry} {ref : Feed} {rows : List (List W32)} {s : State} (h_s : Kept q0 s) : Kept q0 (sampleStitch h c i e ref rows s) := by
    unfold sampleStitch
    try dsimp only
    repeat' (first | with_reducible assumption | (intro _; try dsimp only) | with_reducible apply modSentinel_kept | with_reducible apply modCore_kept | with_reducible apply kept_ite | simp only [↓kept_mk_iff] | (split <;> try dsimp only))

theorem endSample_kept {q0 : State} {c : Nat} {s : State} (h_s : Kept q0 s) : Kept q0 (endSample c s) := by
    unfold endSample
    try dsimp only
    repeat' (first | with_reducible assumption | (intro _; try dsimp only) | with_reducible apply modSentinel_kept | with_reducible apply modCore_kept | with_reducible apply kept_ite | with_reducible apply kept_foldl | simp only [↓kept_mk_iff] | (split <;> try dsimp only))

theorem convStore_kept {q0 : State} {s : State} {w : WWord} {dst : Tensor} {cvt : Nat} {rs : List Nat} {cols : Nat} {rows : List (List W32)} (h_s : Kept q0 s) : KeptVia (fun x => x.1) q0 (convStore s w dst cvt rs cols rows) := by
    unfold convStore
    try dsimp only
    repeat' (first | with_reducible assumption | (intro _; try dsimp only) | with_reducible apply Tensor.storeRange_kept | with_reducible apply Tensor.storeRange_kept_at | with_reducible apply keptVia_foldl | with_reducible apply kept_foldl | (with_reducible refine keptVia_mk ?_; try dsimp only))

theorem convStore_kept_at {q0 : State} {s : State} {w : WWord} {dst : Tensor} {cvt : Nat} {rs : List Nat} {cols : Nat} {rows : List (List W32)} (h_s : Kept q0 s) : Kept q0 (convStore s w dst cvt rs cols rows).1 := convStore_kept (q0 := q0) (s := s) (w := w) (dst := dst) (cvt := cvt) (rs := rs) (cols := cols) (rows := rows) h_s

theorem convStore_kept_eq {q0 : State} {s : State} {w : WWord} {dst : Tensor} {cvt : Nat} {rs : List Nat} {cols : Nat} {rows : List (List W32)} {v0} {v1} (he : (convStore s w dst cvt rs cols rows) = (v0, v1)) (h_s : Kept q0 s) : Kept q0 v0 := by
    have := convStore_kept_at (q0 := q0) (s := s) (w := w) (dst := dst) (cvt := cvt) (rs := rs) (cols := cols) (rows := rows) h_s
    rw [he] at this; exact this

theorem outStage_kept {q0 : State} {h : Nat} {c : Nat} {l : Nat} {n : Nat} {a : ArrayStitch} {win : Option WWord} {rows : List (List W32)} {s : State} (h_s : Kept q0 s) : Kept q0 (outStage h c l n a win rows s) := by
    unfold outStage
    try dsimp only
    repeat' (first | with_reducible assumption | (intro _; try dsimp only) | with_reducible apply outputStage_kept | with_reducible apply outputStage_kept_at | with_reducible apply convStore_kept | with_reducible apply convStore_kept_at | with_reducible apply writeCounts_kept | with_reducible apply modCore_kept | with_reducible apply stageAmax_kept | with_reducible apply addCounts_kept | with_reducible apply kept_ite | simp only [↓kept_mk_iff] | (split <;> try dsimp only))

theorem emptyOutput_kept {q0 : State} {h : Nat} {s : State} (h_s : Kept q0 s) : Kept q0 (emptyOutput h s) := by
    unfold emptyOutput
    try dsimp only
    repeat' (first | with_reducible assumption | (intro _; try dsimp only) | with_reducible apply modStep_kept | simp only [↓kept_mk_iff])

theorem lateFree_kept {q0 : State} {c : Nat} {id : Nat} {may : Bool} {s : State} (h_s : Kept q0 s) : Kept q0 (lateFree c id may s) := by
    unfold lateFree
    try dsimp only
    repeat' (first | with_reducible assumption | with_reducible apply coreWaitFree_kept | with_reducible apply kept_ite)

theorem seedWait_kept {q0 : State} {c : Nat} {sr : Bool} {s : State} (h_s : Kept q0 s) : Kept q0 (seedWait c sr s) := by
    unfold seedWait
    try dsimp only
    repeat' (first | with_reducible assumption | with_reducible apply coreWaitFree_kept | with_reducible apply kept_ite)

theorem commitArray_kept {q0 : State} {h : Nat} {c : Nat} {l : Nat} {n : Nat} {e : Entry} {a : ArrayStitch} {s : State} (h_s : Kept q0 s) : Kept q0 (commitArray h c l n e a s) := by
    unfold commitArray
    try dsimp only
    repeat' (first | with_reducible assumption | (intro _; try dsimp only) | with_reducible apply emptyOutput_kept | with_reducible apply sampleStitch_kept | with_reducible apply joinRows_kept | with_reducible apply mapRows_kept | with_reducible apply writeRows_kept | with_reducible apply protectRows_kept | with_reducible apply modCore_kept | with_reducible apply outStage_kept | with_reducible apply noteFate_kept | with_reducible apply coreEvent_kept | with_reducible apply lateFree_kept | with_reducible apply seedWait_kept | with_reducible apply kept_ite | simp only [↓kept_mk_iff] | (split <;> try dsimp only))

theorem runVector_kept {q0 : State} {e : VEnv} {h : Nat} {is : List VInstr} {s : State} (h_s : Kept q0 s) : Kept q0 (runVector e h is s).s := by
    unfold runVector
    try dsimp only
    repeat' (first | with_reducible assumption | (intro _; try dsimp only) | with_reducible apply vUpdate_kept | with_reducible apply vInstr_kept | with_reducible apply kept_ite | with_reducible apply kept_foldl | with_reducible refine kept_ite_by VState.s ?_ ?_ | with_reducible refine kept_foldl_by VState.s ?_ ?_)

theorem handSummaries_kept {q0 : State} {h : Nat} {c : Nat} {l : List Summary} {s : State} (h_s : Kept q0 s) : Kept q0 (handSummaries h c l s) := by
    unfold handSummaries
    try dsimp only
    repeat' (first | with_reducible assumption | (intro _; try dsimp only) | with_reducible apply setSreg_kept | with_reducible apply modStep_kept | with_reducible apply kept_foldl | simp only [↓kept_mk_iff] | (split <;> try dsimp only))

theorem bankConflict_kept {q0 : State} {s : State} {h : Nat} {c : Nat} {w : VInstr} {s' : State} (h_s : Kept q0 s) (h_s' : Kept q0 s') : Kept q0 (bankConflict s h c w s') := by
    unfold bankConflict
    try dsimp only
    repeat' (first | with_reducible assumption | (intro _; try dsimp only) | with_reducible apply coreEvent_kept | with_reducible apply coreWaitFree_kept | with_reducible apply kept_ite | simp only [↓kept_mk_iff] | (split <;> try dsimp only))

theorem bankConflicts_kept {q0 : State} {s : State} {h : Nat} {c : Nat} {is : List VInstr} {s' : State} (h_s : Kept q0 s) (h_s' : Kept q0 s') : Kept q0 (bankConflicts s h c is s') := by
    unfold bankConflicts
    try dsimp only
    repeat' (first | with_reducible assumption | (intro _; try dsimp only) | with_reducible apply bankConflict_kept | with_reducible apply kept_foldl)

theorem commitVector_kept {q0 : State} {h : Nat} {c : Nat} {l : Nat} {n : Nat} {e : Entry} {is : List VInstr} {s : State} (h_s : Kept q0 s) : Kept q0 (commitVector h c l n e is s) := by
    unfold commitVector
    try dsimp only
    repeat' (first | with_reducible assumption | (intro _; try dsimp only) | with_reducible apply protectTensor_kept | with_reducible apply runVector_kept | with_reducible apply addCounts_kept | with_reducible apply coreEvent_kept | with_reducible apply modStep_kept | with_reducible apply stageAmax_kept | with_reducible apply handSummaries_kept | with_reducible apply seedWait_kept | with_reducible apply bankConflicts_kept | with_reducible apply noteFate_kept | with_reducible apply kept_foldl | with_reducible refine kept_foldl_by VState.s ?_ ?_ | simp only [↓kept_mk_iff] | (split <;> try dsimp only))

theorem storeWindow_kept {q0 : State} {h : Nat} {c : Nat} {cvt : Nat} {dst : Tensor} {o : WinOut} {s : State} (h_s : Kept q0 s) : Kept q0 (storeWindow h c cvt dst o s) := by
    unfold storeWindow
    try dsimp only
    repeat' (first | with_reducible assumption | with_reducible apply putWindow_kept | with_reducible apply putWindow_kept_at | with_reducible apply stageAmax_kept | with_reducible apply addCounts_kept)

theorem poolStitch_kept {q0 : State} {h : Nat} {c : Nat} {w : WWord} {cvt : Nat} {src : Tensor} {dst : Option Tensor} {halos : Halos} {s : State} (h_s : Kept q0 s) : Kept q0 (poolStitch h c w cvt src dst halos s) := by
    unfold poolStitch
    try dsimp only
    repeat' (first | with_reducible assumption | with_reducible apply emptyOutput_kept | with_reducible apply lateFree_kept | with_reducible apply coreEvent_kept | with_reducible apply storeWindow_kept | with_reducible apply kept_ite | simp only [↓kept_mk_iff] | (split <;> try dsimp only))

theorem cropStitch_kept {q0 : State} {h : Nat} {c : Nat} {w : WWord} {cvt : Nat} {src : Tensor} {dst : Tensor} {boxes : Tensor} {reg : W64} {s : State} (h_s : Kept q0 s) : Kept q0 (cropStitch h c w cvt src dst boxes reg s) := by
    unfold cropStitch
    try dsimp only
    repeat' (first | with_reducible assumption | (intro _; try dsimp only) | with_reducible apply coreEvent_kept | with_reducible apply emptyOutput_kept | with_reducible apply storeWindow_kept | with_reducible apply modStep_kept | with_reducible apply kept_ite | simp only [↓kept_mk_iff])

theorem commitWindow_kept {q0 : State} {h : Nat} {c : Nat} {l : Nat} {x : WindowStitch} {s : State} (h_s : Kept q0 s) : Kept q0 (commitWindow h c l x s) := by
    unfold commitWindow
    try dsimp only
    repeat' (first | with_reducible assumption | with_reducible apply cropStitch_kept | with_reducible apply poolStitch_kept | with_reducible apply kept_ite | simp only [↓kept_mk_iff] | (split <;> try dsimp only))

theorem freeHalos_kept {q0 : State} {c : Nat} {n : Nat} {s : State} (h_s : Kept q0 s) : Kept q0 (freeHalos c n s) := by
    unfold freeHalos
    try dsimp only
    repeat' (first | with_reducible assumption | (intro _; try dsimp only) | with_reducible apply signalSem_kept | with_reducible apply kept_ite | with_reducible apply kept_foldl | simp only [↓kept_mk_iff] | (split <;> try dsimp only))

theorem endStitch_kept {q0 : State} {c : Nat} {l : Nat} {n : Nat} {s : State} (h_s : Kept q0 s) : Kept q0 (endStitch c l n s) := by
    unfold endStitch
    try dsimp only
    repeat' (first | with_reducible assumption | (intro _; try dsimp only) | with_reducible apply coreWaitFree_kept | with_reducible apply coreEvent_kept | with_reducible apply mapWait_kept | with_reducible apply modCore_kept | with_reducible apply freeHalos_kept | with_reducible apply atBoundary_kept | with_reducible apply passEntry_kept | with_reducible apply closeWindow_kept | simp only [↓kept_mk_iff] | (split <;> try dsimp only))

theorem commitStitch_kept {q0 : State} {c : Nat} {l : Nat} {s : State} (h_s : Kept q0 s) : Kept q0 (commitStitch c l s) := by
    unfold commitStitch
    try dsimp only
    repeat' (first | with_reducible assumption | with_reducible apply coreWaitFree_kept | with_reducible apply prefetchWaits_kept | with_reducible apply endStitch_kept | with_reducible apply commitArray_kept | with_reducible apply stopOnPage_kept | with_reducible apply commitVector_kept | with_reducible apply touchPages_kept | with_reducible apply commitWindow_kept | with_reducible apply walkCommit_kept | with_reducible apply kept_ite | simp only [↓kept_mk_iff] | (split <;> try dsimp only))

theorem weightSwap_kept {q0 : State} {c : Nat} {l : Nat} {waited : Nat} {s : State} (h_s : Kept q0 s) : Kept q0 (weightSwap c l waited s) := by
    unfold weightSwap
    try dsimp only
    repeat' (first | with_reducible assumption | with_reducible apply startWeights_kept | with_reducible apply fenceStall_kept | with_reducible apply kept_ite | simp only [↓kept_mk_iff] | (split <;> try dsimp only))

theorem commitStem_kept {q0 : State} {h : Nat} {d : Nat} {c : Nat} {l : Nat} {n : Nat} {e : Entry} {a : ArrayStitch} {s : State} (h_s : Kept q0 s) : Kept q0 (commitStem h d c l n e a s) := by
    unfold commitStem
    try dsimp only
    repeat' (first | with_reducible assumption | (intro _; try dsimp only) | with_reducible apply emptyOutput_kept | with_reducible apply outStage_kept | with_reducible apply writeRows_kept | with_reducible apply noteFate_kept | with_reducible apply coreEvent_kept | with_reducible apply kept_ite | simp only [↓kept_mk_iff] | (split <;> try dsimp only))

theorem stemNext_kept {q0 : State} {d : Nat} {s : State} (h_s : Kept q0 s) : Kept q0 (stemNext d s) := by
    unfold stemNext
    try dsimp only
    repeat' (first | with_reducible assumption | (intro _; try dsimp only) | with_reducible apply stemFault_kept | with_reducible apply modCd_kept | with_reducible apply wakeStem_kept | with_reducible apply coreWaitFree_kept | with_reducible apply prefetchWaits_kept | with_reducible apply mapWait_kept | with_reducible apply coreEvent_kept | with_reducible apply commitStem_kept | with_reducible apply atBoundary_kept | with_reducible apply passEntry_kept | with_reducible apply closeWindow_kept | with_reducible apply freeHalos_kept | with_reducible apply kept_ite | simp only [↓kept_mk_iff] | (split <;> try dsimp only))

end Sys2Proof.Machine
end

