-- ==== Sys2Proof/Laws/KeptTick.lean ====
section
/-!
SUPPORT. What the operations of Machine/Tick.lean leave alone (`Kept`), one lemma each.
-/
namespace Sys2Proof.Machine

theorem snapshotTick_kept {q0 : State} {env : TickEnv} {s : State} (h_s : Kept q0 s) : Kept q0 (snapshotTick env s) := by
    unfold snapshotTick
    try dsimp only
    repeat' (first | with_reducible assumption | with_reducible apply applyWords_kept | with_reducible apply snapCounters_kept | simp only [↓kept_mk_iff])

theorem accountTick_kept {q0 : State} {env : TickEnv} {s : State} (h_s : Kept q0 s) : Kept q0 (accountTick env s) := by
    unfold accountTick
    try dsimp only
    repeat' (first | with_reducible assumption | (intro _; try dsimp only) | simp only [↓kept_mk_iff])

theorem timingTick_kept {q0 : State} {s : State} (h_s : Kept q0 s) : Kept q0 (timingTick s) := by
    unfold timingTick
    try dsimp only
    repeat' (first | with_reducible assumption | simp only [↓kept_mk_iff])

theorem linkTick_kept {q0 : State} {s : State} (h_s : Kept q0 s) : Kept q0 (linkTick s) := by
    unfold linkTick
    try dsimp only
    repeat' (first | with_reducible assumption | (intro _; try dsimp only) | with_reducible apply emit_kept | with_reducible apply sendMarkers_kept | with_reducible apply kept_ite | simp only [↓kept_mk_iff])

theorem eventTick_kept {q0 : State} {s : State} (h_s : Kept q0 s) : Kept q0 (eventTick s) := by
    unfold eventTick
    try dsimp only
    repeat' (first | with_reducible assumption | with_reducible apply msix_kept | with_reducible apply kept_ite | simp only [↓kept_mk_iff])

theorem tickRest_kept {q0 : State} {s : State} (h_s : Kept q0 s) : Kept q0 (tickRest s) := by
    unfold tickRest
    try dsimp only
    repeat' (first | with_reducible assumption | with_reducible apply eventTick_kept | with_reducible apply linkTick_kept | with_reducible apply stewardTick_kept | with_reducible apply stackTick_kept | with_reducible apply codecTick_kept | with_reducible apply lockTick_kept | with_reducible apply useSweep_kept)

end Sys2Proof.Machine
end

