-- ==== Sys2Proof/Laws/KeptTrust.lean ====
section
/-!
SUPPORT. What the operations of Machine/Trust.lean leave alone (`Kept`), one lemma each.
-/
namespace Sys2Proof.Machine
open Sys2Proof.Safety

theorem deliver_kept {q0 : State} {h : Nat} {dst : DescWord} {bytes : List Byte} {result : W64} {s : State} (h_s : Kept q0 s) : Kept q0 (deliver h dst bytes result s) := by
    unfold deliver
    try dsimp only
    repeat' (first | with_reducible assumption | with_reducible apply finish_kept | with_reducible apply touchPages_kept | with_reducible apply Tensor.writeBytes_kept | simp only [↓kept_mk_iff] | (split <;> try dsimp only))

theorem attestBody_kept {q0 : State} {fn : Nat} {hdr : Hdr} {nonce : BitVec 512} {dst : DescWord} {st0 : State} (h_st0 : Kept q0 st0) : BodyKept q0 (attestBody fn hdr nonce dst st0) := by
    unfold attestBody
    try dsimp only
    repeat' (first | with_reducible assumption | (intro _; try dsimp only) | with_reducible exact bodyKept_error | with_reducible apply bodyKept_need | with_reducible apply bodyKept_ok | with_reducible apply kept_id | with_reducible apply needDest_kept | with_reducible apply long_kept | with_reducible apply deliver_kept)

theorem identityBody_kept {q0 : State} {fn : Nat} {hdr : Hdr} {dst : DescWord} {st0 : State} (h_st0 : Kept q0 st0) : BodyKept q0 (identityBody fn hdr dst st0) := by
    unfold identityBody
    try dsimp only
    repeat' (first | with_reducible assumption | (intro _; try dsimp only) | with_reducible exact bodyKept_error | with_reducible apply bodyKept_need | with_reducible apply bodyKept_ok | with_reducible apply kept_id | with_reducible apply needDest_kept | with_reducible apply long_kept | with_reducible apply deliver_kept)

theorem enrol_kept {q0 : State} {slot : Nat} {key : List Byte} {s : State} (h_s : Kept q0 s) : Kept q0 (enrol slot key s) := by
    unfold enrol
    try dsimp only
    repeat' (first | with_reducible assumption | simp only [↓kept_mk_iff])

theorem enrollBody_kept {q0 : State} {fn : Nat} {hdr : Hdr} {key : List Byte} {signature : List Byte} {st0 : State} (h_st0 : Kept q0 st0) : BodyKept q0 (enrollBody fn hdr key signature st0) := by
    unfold enrollBody
    try dsimp only
    repeat' (first | with_reducible assumption | (intro _; try dsimp only) | with_reducible exact bodyKept_error | with_reducible apply bodyKept_need | with_reducible apply bodyKept_ok | with_reducible apply bodyKept_ite | with_reducible apply kept_id | with_reducible apply long_kept | with_reducible apply finish_kept | with_reducible apply enrol_kept | with_reducible apply kept_ite)

theorem saveBody_kept {q0 : State} {fn : Nat} {hdr : Hdr} {st0 : State} (h_st0 : Kept q0 st0) : BodyKept q0 (saveBody fn hdr st0) := by
    unfold saveBody
    try dsimp only
    repeat' (first | with_reducible assumption | (intro _; try dsimp only) | with_reducible exact bodyKept_error | with_reducible apply bodyKept_need | with_reducible apply bodyKept_ok | with_reducible apply kept_id | with_reducible apply long_kept | with_reducible apply settingsTrigger_kept)

theorem settingsQueryBody_kept {q0 : State} {st0 : State} (h_st0 : Kept q0 st0) : BodyKept q0 (settingsQueryBody st0) := by
    unfold settingsQueryBody
    try dsimp only
    repeat' (first | with_reducible assumption | (intro _; try dsimp only) | with_reducible exact bodyKept_error | with_reducible apply bodyKept_need | with_reducible apply bodyKept_ok | with_reducible apply kept_id)

theorem markSlotA_kept {q0 : State} {f : FwImage} {s : State} (h_s : Kept q0 s) : Kept q0 (markSlotA f s) := by
    unfold markSlotA
    try dsimp only
    repeat' (first | with_reducible assumption | with_reducible apply takeRoom_kept | simp only [↓kept_mk_iff])

/-- FW_RECOVER boots the device: the queue and the canonical form stay. -/
theorem recoverBody_keptQueue {q0 : State} {addr length : W64} {key : List Byte} {s : State} {a : Ans} (h : KeptQueue q0 s)
    (e : recoverBody addr length key s = .ok a) : KeptQueue q0 a.st ∧ a.after = id := by
  unfold recoverBody at e
  dsimp only at e
  simp only [need_ok_iff] at e
  obtain ⟨-, -, e⟩ := e
  cases e
  refine ⟨startSteward_keptQueue (h.of_kept (markSlotA_kept (putSteward_kept ?_))), rfl⟩
  split
  · exact Kept.refl
  · exact ⟨rfl, rfl, id⟩

end Sys2Proof.Machine
end

