-- ==== Sys2Proof/Laws/Messages.lean ====
section
/-!
SUPPORT. What the shared message operations do: the framing of a message, its reply, the acceptance of a long command,
the guard of an event, the message that a call or a walk takes.
-/
set_option Elab.async false
namespace Sys2Proof.Machine
open Sys2Proof.Safety

theorem live_eq_true {s : State} : live s = true ↔ Running s := by
  simp [live, Running]

theorem whenLive_running {f : State → State} {s : State} (h : Running s) : whenLive f s = .next (f s) := by
  simp [whenLive, live_eq_true.mpr h]

theorem whenLive_not_live {f : State → State} {s : State} (h : live s = false) : whenLive f s = .next s := by
  simp [whenLive, h]

theorem whenLive_safe {f : State → State} {s : State} (h : s.collector.safe = true) : whenLive f s = .next s := by
  simp [whenLive, live, h]

theorem answers_of_running {s : State} (h : Running s) : answers s = true := by
  simp [answers, h.1, h.2]

theorem modeRefuses_of_running {s : State} {op : Nat} (h : Running s) (ho : op ≠ 0x0710) : modeRefuses op s = false := by
  simp [modeRefuses, h.1, h.2, ho]

/-- A message of a command that any function may send reaches the command's body. -/
theorem message_heard {fn : Fn} {hdr : Hdr} {op : Nat} {body : Body} {s : State} (h : Heard s fn hdr) (ho : op ≠ 0x0710) :
    message fn hdr op false body s = .next (settle fn op hdr (body s) s) := by
  simp [message, answers_of_running h.1, modeRefuses_of_running h.1 ho, h.2.1, h.2.2]

/-- A message of a command of the PF reaches the command's body. -/
theorem message_heard_pf {hdr : Hdr} {op : Nat} {body : Body} {s : State} (h : HeardPf s hdr) (ho : op ≠ 0x0710) :
    message 0 hdr op true body s = .next (settle 0 op hdr (body s) s) := by
  have h1 := h.2.1
  have h2 := h.2.2
  simp only [Fin.val_zero] at h1 h2
  simp [message, answers_of_running h.1, modeRefuses_of_running h.1 ho, h1, h2]

@[simp] theorem settle_ok {f op : Nat} {hdr : Hdr} {a : Ans} {s : State} :
    settle f op hdr (.ok a) s = a.after (reply f op hdr a.status a.result a.handle a.data a.st) := rfl

@[simp] theorem settle_error {f op : Nat} {hdr : Hdr} {c : Nat} {s : State} :
    settle f op hdr (.error c) s = reply f op hdr c 0 0 [] s := rfl

@[simp] theorem need_true {α : Type} {code : Nat} {k : Except Nat α} : need true code k = k := rfl

@[simp] theorem need_false {α : Type} {code : Nat} {k : Except Nat α} : need false code k = .error code := rfl

@[simp] theorem have'_some {α β : Type} {a : α} {code : Nat} {k : α → Except Nat β} : have' (some a) code k = k a := rfl

@[simp] theorem have'_none {α β : Type} {code : Nat} {k : α → Except Nat β} : have' (none : Option α) code k = .error code := rfl

theorem withPart_acts {fn : Fn} {hdr : Hdr} {s : State} {p : Nat} {x : Partition} {k : Nat → Partition → Except Nat Ans}
    (h : Acts s fn hdr p x) : withPart fn hdr s k = k p x := by
  simp [withPart, h.1, h.2]

theorem long_room {f : Nat} {hdr : Hdr} {part : Option Nat} {kind : Nat} {op : LongOp} {t : State} {result : W64}
    {after : Nat → State → State} (h : (fnOf t f).overflow.length < 1024) :
    long f hdr part kind op t result after =
      .ok { st := (issue f hdr part kind op t).2, handle := (issue f hdr part kind op t).1, result := result,
            after := after (issue f hdr part kind op t).1 } := by
  simp [long, needQueue, need, h]

theorem needUnified_ok {α : Type} {s : State} {p : Nat} {x : Partition} {d : DescWord} {k : Except Nat α}
    (h : UnifiedOk s p x d) : needUnified s p x d k = k := by
  obtain ⟨h1, h2, h3, h4⟩ := h
  cases hs : scaled (dFmt d) <;> simp_all [needUnified]

theorem needRecords_ok {α : Type} {s : State} {p : Nat} {x : Partition} {d : DescWord} {n : Nat} {k : Except Nat α}
    (h : RecordsOk s p x d n) : needRecords s p x d n k = k := by
  simp [needRecords, need, h.1, h.2.1, h.2.2.1, h.2.2.2.1, h.2.2.2.2]

theorem withStep_on {fn : Fn} {hdr : Hdr} {s : State} {h : Nat} {x : Partition} {st : Step} {k : Nat → Partition → Step → Except Nat Ans}
    (hs : OnStep s fn hdr h x st) : withStep fn.val hdr s k = k h x st := by
  obtain ⟨h1, h2, h3, h4, h5⟩ := hs
  simp only [withStep, h1, h2]
  simp [h3, h4, h5]

theorem needPattern_ok {α : Type} {s : State} {p : Nat} {e : CheckEnv} {k : Except Nat α} (h : PatternOk s p e) : needPattern s p e k = k := by
  simp [needPattern, h.1, h.2]

theorem needPlacement_ok {α : Type} {s : State} {p : Nat} {x : Partition} {e : CheckEnv} {cores : List Nat} {k : Except Nat α}
    (h : PlacementOk s p x e cores) : needPlacement s p x e cores k = k := by
  simp only [needPlacement, h.1, h.2, need_true]

theorem laneEvent_standing {s : State} {c l h n : Nat} {e : Entry} {f : Nat → Nat → Entry → State → State} (hs : Standing s c l h n e) :
    laneEvent c l f s = f h n e s := by
  obtain ⟨h1, h2, h3, h4, h5⟩ := hs
  simp [laneEvent, h1, h2, h3, h4, h5]

theorem needDesc_ok {α : Type} {s : State} {p : Nat} {x : Partition} {d : DescWord} {k : Except Nat α}
    (h : DescOk s p x d) : needDesc s p x d k = k := by
  simp [needDesc, h.1, h.2]

theorem withSpace_acts {fn : Fn} {hdr : Hdr} {s : State} {p : Nat} {x : Partition} {space : W64} {k : KvSpace}
    {b : Nat → Partition → KvSpace → Except Nat Ans} (h : ActsOn s fn hdr p x space k) : withSpace fn.val hdr s space b = b p x k := by
  simp [withSpace, withPart_acts h.1, h.2]

theorem needSeq_ok {α : Type} {k : KvSpace} {n : Nat} {q : KvSeq} {c : KvSeq → Except Nat α} (h : tget? k.seqs n = some q) (ho : q.state = 1) :
    needSeq k n c = c q := by
  simp [needSeq, h, ho]

theorem needAll_ok {α : Type} {s : State} {p : Nat} {x : Partition} {k : Except Nat α} :
    ∀ {l : List DescWord}, (∀ d ∈ l, UnifiedOk s p x d) → needAll s p x l k = k
  | [], _ => rfl
  | d :: r, h => by
    rw [needAll, needUnified_ok (h d (List.mem_cons_self ..))]
    exact needAll_ok fun e he => h e (List.mem_cons_of_mem _ he)

/-! ## The message that a call's or a walk's command takes -/

/-- A message that comes to a command of a call is the one it takes. -/
theorem takeMessage_comes {s : State} {p n mtype h : Nat} {m : CollMsg} {c : CallRun} {q : Peloton} (hc : Comes s p n mtype m h c q) :
    takeMessage p n mtype s = some (m, readHead m.header, h, c, q, received p n h m s) := by
  obtain ⟨x, pre, post, hx, hq, hi, hpre, hm, hr, hcall, hph, hpass⟩ := hc
  have hcm : callMessage s x n mtype m = some (h, c) := by
    have hp : (mtype != 0x10 && mtype != 0x11 || (readHead m.header).pass == c.pass) = true := by
      by_cases h10 : mtype = 0x10
      · simp [hpass (.inl h10)]
      · by_cases h11 : mtype = 0x11
        · simp [hpass (.inr h11)]
        · simp [h10, h11]
    simp [callMessage, hm, hr, hcall, hph, hp]
  have hfind : (q.inbox.findSome? fun m => (callMessage s x n mtype m).map fun r => (m, r)) = some (m, h, c) := by
    rw [hi, List.findSome?_append]
    have hnone : (pre.findSome? fun m => (callMessage s x n mtype m).map fun r => (m, r)) = none := by
      rw [List.findSome?_eq_none_iff]; intro o ho; rw [hpre o ho]; rfl
    rw [hnone]
    simp [hcm]
  simp [takeMessage, hx, hq, hfind]

/-- A ring message that comes to a walk is the one its command takes. -/
theorem takeRing_comes {s : State} {p n mtype h c l i : Nat} {m : CollMsg} {a : AWord} {x : Walk} {q : Peloton}
    (hc : ComesRing s p n mtype m h c l i a x q) : takeRing p n mtype s = some (m, h, (c, l, i, a, x), q) := by
  obtain ⟨y, pre, post, hy, hq, hi, hpre, hm, hr, hw, hmt⟩ := hc
  have hrm : ringMessage s y n mtype q m = some (h, c, l, i, a, x) := by
    rcases hmt with ⟨ht, hx, hh⟩ | ⟨ht, hg⟩
    · simp [ringMessage, hm, hr, hw, ht, hx, hh]
    · simp [ringMessage, hm, hr, hw, ht, hg]
  have hfind : (q.inbox.findSome? fun m => (ringMessage s y n mtype q m).map fun r => (m, r)) = some (m, h, c, l, i, a, x) := by
    rw [hi, List.findSome?_append]
    have hnone : (pre.findSome? fun m => (ringMessage s y n mtype q m).map fun r => (m, r)) = none := by
      rw [List.findSome?_eq_none_iff]; intro o ho; rw [hpre o ho]; rfl
    rw [hnone]
    simp [hrm]
  simp [takeRing, hy, hq, hfind]

end Sys2Proof.Machine
end

