-- ==== Sys2Proof/Laws/PerInstr.lean ====
section
/-!
SUPPORT. Facts about every command as syntax, one lemma per constructor.
-/
set_option Elab.async false
namespace Sys2Proof.Laws.Opcode
open Sys2Proof Sys2Proof.Machine Sys2Proof.Safety

/-- A message has a 16-bit opcode that is not 0, as its header holds it (Table 8 of ch. 02). -/
def Statement (i : Instr) : Prop := ∀ m, messageOf i = some m → 0 < m.2.2.1 ∧ m.2.2.1 < 2 ^ 16

theorem of_none {i : Instr} (h : messageOf i = none) : Statement i := fun m e => by rw [h] at e; cases e

theorem of_some {i : Instr} {f : Fn} {h : Hdr} {op : Nat} {pf : Bool} (e : messageOf i = some (f, h, op, pf)) (k : (0 < op && op < 2 ^ 16) = true) :
    Statement i := fun n e' => by rw [e] at e'; cases e'; simpa using k

theorem mbxDoorbell (fn : Fn) (value : W64) : Statement (.mbxDoorbell fn value) := of_none rfl
theorem mbxStatusWrite (fn : Fn) (value : W64) : Statement (.mbxStatusWrite fn value) := of_none rfl
theorem ringHeadWrite (fn : Fn) (value : W64) : Statement (.ringHeadWrite fn value) := of_none rfl
theorem slotDb (fn : Fn) (slot : SlotId) (value : W64) : Statement (.slotDb fn slot value) := of_none rfl
theorem barWrite (fn : Fn) (bar : Nat) (offset : Nat) (bytes : List Byte) : Statement (.barWrite fn bar offset bytes) := of_none rfl
theorem poisonedTlp (fn : Fn) (bar : Nat) (offset : Nat) : Statement (.poisonedTlp fn bar offset) := of_none rfl
theorem oversizeBarRead (fn : Fn) (bar : Nat) (offset : Nat) (size : Nat) : Statement (.oversizeBarRead fn bar offset size) := of_none rfl
theorem dmaReadError (handle : W64) (addr : W64) : Statement (.dmaReadError handle addr) := of_none rfl
theorem vfFunctionLevelReset (vf : PartId) : Statement (.vfFunctionLevelReset vf) := of_none rfl
theorem pfFunctionLevelReset : Statement (.pfFunctionLevelReset) := of_none rfl
theorem vfEnableClear : Statement (.vfEnableClear) := of_none rfl
theorem vfEnableSet : Statement (.vfEnableSet) := of_none rfl
theorem hotReset : Statement (.hotReset) := of_none rfl
theorem coalesceTimer (fn : Fn) (vector : W16) : Statement (.coalesceTimer fn vector) := of_none rfl
theorem deviceInfo (fn : Fn) (hdr : Hdr) : Statement (.deviceInfo fn hdr) := of_some rfl rfl
theorem ringSet (fn : Fn) (hdr : Hdr) (base entries writeback k t : W64) : Statement (.ringSet fn hdr base entries writeback k t) := of_some rfl rfl
theorem handleQuery (fn : Fn) (hdr : Hdr) : Statement (.handleQuery fn hdr) := of_some rfl rfl
theorem eventRoute (fn : Fn) (hdr : Hdr) (vector : W64) : Statement (.eventRoute fn hdr vector) := of_some rfl rfl
theorem castOn (fn : Fn) (hdr : Hdr) (desc : BitVec 1024) : Statement (.castOn fn hdr desc) := of_some rfl rfl
theorem bindOff (fn : Fn) (hdr : Hdr) (partition : W64) : Statement (.bindOff fn hdr partition) := of_some rfl rfl
theorem partitionList (fn : Fn) (hdr : Hdr) : Statement (.partitionList fn hdr) := of_some rfl rfl
theorem tickSet (fn : Fn) (hdr : Hdr) (period : W64) : Statement (.tickSet fn hdr period) := of_some rfl rfl
theorem memAlloc (fn : Fn) (hdr : Hdr) (pages cls readOnly : W64) (backing : DescWord) : Statement (.memAlloc fn hdr pages cls readOnly backing) := of_some rfl rfl
theorem memFree (fn : Fn) (hdr : Hdr) (object : W64) : Statement (.memFree fn hdr object) := of_some rfl rfl
theorem memClassSet (fn : Fn) (hdr : Hdr) (object cls : W64) : Statement (.memClassSet fn hdr object cls) := of_some rfl rfl
theorem memMigrate (fn : Fn) (hdr : Hdr) (object first count tier : W64) : Statement (.memMigrate fn hdr object first count tier) := of_some rfl rfl
theorem memCopy (fn : Fn) (hdr : Hdr) (src dst : DescWord) (cvt : W64) : Statement (.memCopy fn hdr src dst cvt) := of_some rfl rfl
theorem memFill (fn : Fn) (hdr : Hdr) (object first count pattern : W64) : Statement (.memFill fn hdr object first count pattern) := of_some rfl rfl
theorem memQuery (fn : Fn) (hdr : Hdr) (object : W64) : Statement (.memQuery fn hdr object) := of_some rfl rfl
theorem poolQuery (fn : Fn) (hdr : Hdr) : Statement (.poolQuery fn hdr) := of_some rfl rfl
theorem memHostRegister (fn : Fn) (hdr : Hdr) (addrs : List W64) : Statement (.memHostRegister fn hdr addrs) := of_some rfl rfl
theorem memHostRelease (fn : Fn) (hdr : Hdr) (count list : W64) : Statement (.memHostRelease fn hdr count list) := of_some rfl rfl
theorem tierMapRead (fn : Fn) (hdr : Hdr) (first count : W64) (dst : DescWord) : Statement (.tierMapRead fn hdr first count dst) := of_some rfl rfl
theorem tierSet (fn : Fn) (hdr : Hdr) (mode : W64) (shares : List W64) (darnLimit : W64) : Statement (.tierSet fn hdr mode shares darnLimit) := of_some rfl rfl
theorem patternLoad (fn : Fn) (hdr : Hdr) (desc : DescWord) (image : PatternImage) : Statement (.patternLoad fn hdr desc image) := of_some rfl rfl
theorem patternUnload (fn : Fn) (hdr : Hdr) (pattern : W64) : Statement (.patternUnload fn hdr pattern) := of_some rfl rfl
theorem jobCreate (fn : Fn) (hdr : Hdr) (pattern cls quads banks weight slice : W64) (context : DescWord) : Statement (.jobCreate fn hdr pattern cls quads banks weight slice context) := of_some rfl rfl
theorem jobDestroy (fn : Fn) (hdr : Hdr) (job : W64) : Statement (.jobDestroy fn hdr job) := of_some rfl rfl
theorem jobSet (fn : Fn) (hdr : Hdr) (job cls weight slice : W64) : Statement (.jobSet fn hdr job cls weight slice) := of_some rfl rfl
theorem stepSubmit (fn : Fn) (hdr : Hdr) (ops : StepOps) : Statement (.stepSubmit fn hdr ops) := of_some rfl rfl
theorem stepStop (fn : Fn) (hdr : Hdr) : Statement (.stepStop fn hdr) := of_some rfl rfl
theorem stepResume (fn : Fn) (hdr : Hdr) : Statement (.stepResume fn hdr) := of_some rfl rfl
theorem schedQuery (fn : Fn) (hdr : Hdr) (job : W64) : Statement (.schedQuery fn hdr job) := of_some rfl rfl
theorem fastpathArm (fn : Fn) (hdr : Hdr) (slot : W64) (ops : StepOps) : Statement (.fastpathArm fn hdr slot ops) := of_some rfl rfl
theorem fastpathDisarm (fn : Fn) (hdr : Hdr) (slot : W64) : Statement (.fastpathDisarm fn hdr slot) := of_some rfl rfl
theorem stepCommit (fn : Fn) (hdr : Hdr) : Statement (.stepCommit fn hdr) := of_some rfl rfl
theorem stepFrog (fn : Fn) (hdr : Hdr) : Statement (.stepFrog fn hdr) := of_some rfl rfl
theorem bankCreate (fn : Fn) (hdr : Hdr) (ops : BankOps) : Statement (.bankCreate fn hdr ops) := of_some rfl rfl
theorem bankExport (fn : Fn) (hdr : Hdr) (bank : W64) (w m v : DescWord) : Statement (.bankExport fn hdr bank w m v) := of_some rfl rfl
theorem bankImport (fn : Fn) (hdr : Hdr) (bank : W64) (w m v : DescWord) (t p1 p2 : W64) : Statement (.bankImport fn hdr bank w m v t p1 p2) := of_some rfl rfl
theorem bankDestroy (fn : Fn) (hdr : Hdr) (bank : W64) : Statement (.bankDestroy fn hdr bank) := of_some rfl rfl
theorem replayLogSet (fn : Fn) (hdr : Hdr) (addr size : W64) : Statement (.replayLogSet fn hdr addr size) := of_some rfl rfl
theorem replay (fn : Fn) (hdr : Hdr) (epoch : W64) (subs : List (W32 × DescWord)) (outs : List DescWord) (report : DescWord) : Statement (.replay fn hdr epoch subs outs report) := of_some rfl rfl
theorem pelotonForm (fn : Fn) (hdr : Hdr) (desc : DescWord) : Statement (.pelotonForm fn hdr desc) := of_some rfl rfl
theorem pelotonDisband (fn : Fn) (hdr : Hdr) (peloton : W64) : Statement (.pelotonDisband fn hdr peloton) := of_some rfl rfl
theorem pelotonReshard (fn : Fn) (hdr : Hdr) (peloton epoch : W64) (shards : DescWord) (pairs : List ReshardPair) : Statement (.pelotonReshard fn hdr peloton epoch shards pairs) := of_some rfl rfl
theorem pelotonFrog (fn : Fn) (hdr : Hdr) (peloton epoch : W64) : Statement (.pelotonFrog fn hdr peloton epoch) := of_some rfl rfl
theorem pelotonSubstitute (fn : Fn) (hdr : Hdr) (peloton rank linkId port : W64) : Statement (.pelotonSubstitute fn hdr peloton rank linkId port) := of_some rfl rfl
theorem pelotonPolicy (fn : Fn) (hdr : Hdr) (peloton window peerLimit latePolicy thin headroom : W64) : Statement (.pelotonPolicy fn hdr peloton window peerLimit latePolicy thin headroom) := of_some rfl rfl
theorem pelotonQuery (fn : Fn) (hdr : Hdr) (peloton : W64) : Statement (.pelotonQuery fn hdr peloton) := of_some rfl rfl
theorem codecSessionOpen (fn : Fn) (hdr : Hdr) (ops : CodecOpenOps) : Statement (.codecSessionOpen fn hdr ops) := of_some rfl rfl
theorem codecSessionClose (fn : Fn) (hdr : Hdr) (session : W64) : Statement (.codecSessionClose fn hdr session) := of_some rfl rfl
theorem codecFeed (fn : Fn) (hdr : Hdr) (session count : W64) : Statement (.codecFeed fn hdr session count) := of_some rfl rfl
theorem codecRelease (fn : Fn) (hdr : Hdr) (session entries area : W64) : Statement (.codecRelease fn hdr session entries area) := of_some rfl rfl
theorem codecEncFrame (fn : Fn) (hdr : Hdr) (session buffer timestamp forceIrap : W64) : Statement (.codecEncFrame fn hdr session buffer timestamp forceIrap) := of_some rfl rfl
theorem codecQuery (fn : Fn) (hdr : Hdr) (session : W64) : Statement (.codecQuery fn hdr session) := of_some rfl rfl
theorem actEncode (fn : Fn) (hdr : Hdr) (call : BitVec 512) (src dst ref bound : DescWord) : Statement (.actEncode fn hdr call src dst ref bound) := of_some rfl rfl
theorem actDecode (fn : Fn) (hdr : Hdr) (call : BitVec 512) (src dst ref bound : DescWord) : Statement (.actDecode fn hdr call src dst ref bound) := of_some rfl rfl
theorem actRelease (fn : Fn) (hdr : Hdr) (session spill : W64) : Statement (.actRelease fn hdr session spill) := of_some rfl rfl
theorem kvSpaceCreate (fn : Fn) (hdr : Hdr) (ops : KvSpaceOps) : Statement (.kvSpaceCreate fn hdr ops) := of_some rfl rfl
theorem kvSpaceDestroy (fn : Fn) (hdr : Hdr) (space : W64) : Statement (.kvSpaceDestroy fn hdr space) := of_some rfl rfl
theorem kvSeqOpen (fn : Fn) (hdr : Hdr) (space : W64) : Statement (.kvSeqOpen fn hdr space) := of_some rfl rfl
theorem kvSeqFork (fn : Fn) (hdr : Hdr) (space parent length : W64) : Statement (.kvSeqFork fn hdr space parent length) := of_some rfl rfl
theorem kvSeqTruncate (fn : Fn) (hdr : Hdr) (space seq length : W64) : Statement (.kvSeqTruncate fn hdr space seq length) := of_some rfl rfl
theorem kvSeqClose (fn : Fn) (hdr : Hdr) (space seq : W64) : Statement (.kvSeqClose fn hdr space seq) := of_some rfl rfl
theorem kvAttach (fn : Fn) (hdr : Hdr) (space seq : W64) (tags : DescWord) (blocks : W64) : Statement (.kvAttach fn hdr space seq tags blocks) := of_some rfl rfl
theorem kvAppend (fn : Fn) (hdr : Hdr) (space seq n : W64) (k v tags : DescWord) (permit : W64) : Statement (.kvAppend fn hdr space seq n k v tags permit) := of_some rfl rfl
theorem kvSeqQuery (fn : Fn) (hdr : Hdr) (space seq : W64) : Statement (.kvSeqQuery fn hdr space seq) := of_some rfl rfl
theorem prefixRead (fn : Fn) (hdr : Hdr) (space : W64) (dst : DescWord) (first : W64) : Statement (.prefixRead fn hdr space dst first) := of_some rfl rfl
theorem prefixFlush (fn : Fn) (hdr : Hdr) (space : W64) : Statement (.prefixFlush fn hdr space) := of_some rfl rfl
theorem counterSet (fn : Fn) (hdr : Hdr) (scope counter word : W64) : Statement (.counterSet fn hdr scope counter word) := of_some rfl rfl
theorem eventRead (fn : Fn) (hdr : Hdr) (first count : W64) (dst : DescWord) : Statement (.eventRead fn hdr first count dst) := of_some rfl rfl
theorem faultClear (fn : Fn) (hdr : Hdr) (tick code : W64) : Statement (.faultClear fn hdr tick code) := of_some rfl rfl
theorem telemetryRead (fn : Fn) (hdr : Hdr) : Statement (.telemetryRead fn hdr) := of_some rfl rfl
theorem serviceSet (fn : Fn) (hdr : Hdr) (limit : W64) : Statement (.serviceSet fn hdr limit) := of_some rfl rfl
theorem coreSpare (fn : Fn) (hdr : Hdr) (core spare : W64) : Statement (.coreSpare fn hdr core spare) := of_some rfl rfl
theorem fwUpdate (fn : Fn) (hdr : Hdr) (image : FwImage) : Statement (.fwUpdate fn hdr image) := of_some rfl rfl
theorem fwCommit (fn : Fn) (hdr : Hdr) : Statement (.fwCommit fn hdr) := of_some rfl rfl
theorem fwRevert (fn : Fn) (hdr : Hdr) : Statement (.fwRevert fn hdr) := of_some rfl rfl
theorem ucodeLoad (fn : Fn) (hdr : Hdr) (pair : W64) (image : FwImage) : Statement (.ucodeLoad fn hdr pair image) := of_some rfl rfl
theorem stewardSwitch (fn : Fn) (hdr : Hdr) : Statement (.stewardSwitch fn hdr) := of_some rfl rfl
theorem linkGroupSet (fn : Fn) (hdr : Hdr) (desc : BitVec 128) : Statement (.linkGroupSet fn hdr desc) := of_some rfl rfl
theorem linkRecal (fn : Fn) (hdr : Hdr) (port : W64) : Statement (.linkRecal fn hdr port) := of_some rfl rfl
theorem linkTrain (fn : Fn) (hdr : Hdr) (port : W64) : Statement (.linkTrain fn hdr port) := of_some rfl rfl
theorem stackRecal (fn : Fn) (hdr : Hdr) (stack : W64) : Statement (.stackRecal fn hdr stack) := of_some rfl rfl
theorem farPortRestart (fn : Fn) (hdr : Hdr) (port : W64) : Statement (.farPortRestart fn hdr port) := of_some rfl rfl
theorem attest (fn : Fn) (hdr : Hdr) (nonce : BitVec 512) (dst : DescWord) : Statement (.attest fn hdr nonce dst) := of_some rfl rfl
theorem identityRead (fn : Fn) (hdr : Hdr) (dst : DescWord) : Statement (.identityRead fn hdr dst) := of_some rfl rfl
theorem ownerEnroll (fn : Fn) (hdr : Hdr) (key signature : List Byte) : Statement (.ownerEnroll fn hdr key signature) := of_some rfl rfl
theorem powerSet (fn : Fn) (hdr : Hdr) (word : W64) : Statement (.powerSet fn hdr word) := of_some rfl rfl
theorem settingsSave (fn : Fn) (hdr : Hdr) : Statement (.settingsSave fn hdr) := of_some rfl rfl
theorem settingsQuery (fn : Fn) (hdr : Hdr) : Statement (.settingsQuery fn hdr) := of_some rfl rfl
theorem fwRecover (fn : Fn) (hdr : Hdr) (addr length : W64) (ownerKey : List Byte) : Statement (.fwRecover fn hdr addr length ownerKey) := of_some rfl rfl
theorem settingsRecordWrite (readBackOk : Bool) : Statement (.settingsRecordWrite readBackOk) := of_none rfl
theorem tickEdge (env : TickEnv) : Statement (.tickEdge env) := of_none rfl
theorem stepAdmission (handle : W64) : Statement (.stepAdmission handle) := of_none rfl
theorem classZeroStart (handle : W64) : Statement (.classZeroStart handle) := of_none rfl
theorem stateSave (core : CoreId) : Statement (.stateSave core) := of_none rfl
theorem restore (core : CoreId) : Statement (.restore core) := of_none rfl
theorem stitchCommit (core : CoreId) (lane : LaneId) : Statement (.stitchCommit core lane) := of_none rfl
theorem weightReadyFence (core : CoreId) (lane : LaneId) (waited : Nat) : Statement (.weightReadyFence core lane waited) := of_none rfl
theorem sentinelRecompute (core : CoreId) : Statement (.sentinelRecompute core) := of_none rfl
theorem stepHeld (handle : W64) : Statement (.stepHeld handle) := of_none rfl
theorem frogComplete (handle : W64) : Statement (.frogComplete handle) := of_none rfl
theorem branchingFence (core : CoreId) (lane : LaneId) : Statement (.branchingFence core lane) := of_none rfl
theorem stewardMerge (handle : W64) (merge : Nat) : Statement (.stewardMerge handle merge) := of_none rfl
theorem amaxFence (handle : W64) (index : Nat) : Statement (.amaxFence handle index) := of_none rfl
theorem signal (core : CoreId) (lane : LaneId) : Statement (.signal core lane) := of_none rfl
theorem wait (core : CoreId) (lane : LaneId) : Statement (.wait core lane) := of_none rfl
theorem acquire (core : CoreId) (lane : LaneId) : Statement (.acquire core lane) := of_none rfl
theorem release (core : CoreId) (lane : LaneId) : Statement (.release core lane) := of_none rfl
theorem csOverrun (part : PartId) (lock : Nat) : Statement (.csOverrun part lock) := of_none rfl
theorem coreMoverTransfer (core : CoreId) (index : Nat) : Statement (.coreMoverTransfer core index) := of_none rfl
theorem prefetchDeadline (core : CoreId) (layer : Nat) (waited : Nat) : Statement (.prefetchDeadline core layer waited) := of_none rfl
theorem haloPut (core : CoreId) (lane : LaneId) : Statement (.haloPut core lane) := of_none rfl
theorem haloFence (core : CoreId) (lane : LaneId) : Statement (.haloFence core lane) := of_none rfl
theorem stemStitch (die : CdId) : Statement (.stemStitch die) := of_none rfl
theorem appendEntry (core : CoreId) (lane : LaneId) : Statement (.appendEntry core lane) := of_none rfl
theorem collectiveCall (core : CoreId) (lane : LaneId) : Statement (.collectiveCall core lane) := of_none rfl
theorem collectiveFence (core : CoreId) (lane : LaneId) : Statement (.collectiveFence core lane) := of_none rfl
theorem redScatter (part : PartId) (peloton : Nat) : Statement (.redScatter part peloton) := of_none rfl
theorem redGather (part : PartId) (peloton : Nat) : Statement (.redGather part peloton) := of_none rfl
theorem paramGather (part : PartId) (peloton : Nat) : Statement (.paramGather part peloton) := of_none rfl
theorem exchange (part : PartId) (peloton : Nat) : Statement (.exchange part peloton) := of_none rfl
theorem exchangeReturn (part : PartId) (peloton : Nat) : Statement (.exchangeReturn part peloton) := of_none rfl
theorem ringKv (part : PartId) (peloton : Nat) : Statement (.ringKv part peloton) := of_none rfl
theorem ringGrad (part : PartId) (peloton : Nat) : Statement (.ringGrad part peloton) := of_none rfl
theorem ringLate (core : CoreId) (lane : LaneId) : Statement (.ringLate core lane) := of_none rfl
theorem reshardData (part : PartId) (peloton : Nat) : Statement (.reshardData part peloton) := of_none rfl
theorem reshardToken (part : PartId) (peloton : Nat) : Statement (.reshardToken part peloton) := of_none rfl
theorem substToken (part : PartId) (peloton : Nat) : Statement (.substToken part peloton) := of_none rfl
theorem groupFrog (part : PartId) (peloton : Nat) : Statement (.groupFrog part peloton) := of_none rfl
theorem abort (part : PartId) (peloton : Nat) : Statement (.abort part peloton) := of_none rfl
theorem lateExclusion (part : PartId) (peloton : Nat) (call : Nat) : Statement (.lateExclusion part peloton call) := of_none rfl
theorem lateContribution (part : PartId) (peloton : Nat) (call : Nat) : Statement (.lateContribution part peloton call) := of_none rfl
theorem peerTimeout (part : PartId) (peloton : Nat) (call : Nat) : Statement (.peerTimeout part peloton call) := of_none rfl
theorem lapTimeout (part : PartId) (peloton : Nat) : Statement (.lapTimeout part peloton) := of_none rfl
theorem pelotonFormed (part : PartId) (peloton : Nat) : Statement (.pelotonFormed part peloton) := of_none rfl
theorem migrationComplete (page : Nat) : Statement (.migrationComplete page) := of_none rfl
theorem darnLimit (page : Nat) (row : BitVec 64) (spareLeft : Bool) : Statement (.darnLimit page row spareLeft) := of_none rfl
theorem hbmUncorrectable (page : Nat) (row : BitVec 64) (spareLeft : Bool) : Statement (.hbmUncorrectable page row spareLeft) := of_none rfl
theorem pageRestore (page : Nat) : Statement (.pageRestore page) := of_none rfl
theorem farPoison (page : Nat) (handle : W64) : Statement (.farPoison page handle) := of_none rfl
theorem farLinkDown (port : FPortId) : Statement (.farLinkDown port) := of_none rfl
theorem farMedia (port : FPortId) (code : W32) : Statement (.farMedia port code) := of_none rfl
theorem scrub (target : Nat) (corrected : List (Nat × Nat)) : Statement (.scrub target corrected) := of_none rfl
theorem coreDegraded (core : CoreId) : Statement (.coreDegraded core) := of_none rfl
theorem stackDrift (stack : StackId) : Statement (.stackDrift stack) := of_none rfl
theorem coreSwap (core : CoreId) : Statement (.coreSwap core) := of_none rfl
theorem faultCollected : Statement (.faultCollected) := of_none rfl
theorem coreSramUe (core : CoreId) (addr : Nat) : Statement (.coreSramUe core addr) := of_none rfl
theorem coreParity (core : CoreId) (block : Nat) : Statement (.coreParity core block) := of_none rfl
theorem mapbufUe (die : CdId) (bank : Fin 16) (addr : Nat) : Statement (.mapbufUe die bank addr) := of_none rfl
theorem stemFault (die : CdId) : Statement (.stemFault die) := of_none rfl
theorem codecPairUe (pair : PairId) : Statement (.codecPairUe pair) := of_none rfl
theorem linkBufferUe (port : PortId) : Statement (.linkBufferUe port) := of_none rfl
theorem slotStoreError (fn : Fn) (slot : SlotId) : Statement (.slotStoreError fn slot) := of_none rfl
theorem collectorSelfFault (mask : W64) : Statement (.collectorSelfFault mask) := of_none rfl
theorem overTemperature (die : DieId) (temp : Int) : Statement (.overTemperature die temp) := of_none rfl
theorem stewardCoreFault (core : Fin 4) : Statement (.stewardCoreFault core) := of_none rfl
theorem stewardDoubleFault (core : Fin 4) : Statement (.stewardDoubleFault core) := of_none rfl
theorem clusterSelfTest (pass : Bool) : Statement (.clusterSelfTest pass) := of_none rfl
theorem handover : Statement (.handover) := of_none rfl
theorem dataFlit (port : PortId) (codewordOk : Bool) (flit : Flit) : Statement (.dataFlit port codewordOk flit) := of_none rfl
theorem idleFlit (port : PortId) (codewordOk : Bool) (flit : Flit) : Statement (.idleFlit port codewordOk flit) := of_none rfl
theorem nak (port : PortId) (codewordOk : Bool) (flit : Flit) : Statement (.nak port codewordOk flit) := of_none rfl
theorem fenceIdle (port : PortId) : Statement (.fenceIdle port) := of_none rfl
theorem replayTimeout (port : PortId) : Statement (.replayTimeout port) := of_none rfl
theorem fastRetrain (port : PortId) (lanes : BitVec 4) (advanced : Bool) : Statement (.fastRetrain port lanes advanced) := of_none rfl
theorem fullTraining (port : PortId) (lanes : BitVec 4) : Statement (.fullTraining port lanes) := of_none rfl
theorem codewordLockLost (port : PortId) : Statement (.codewordLockLost port) := of_none rfl
theorem laneDegrade (port : PortId) (lane : Fin 4) : Statement (.laneDegrade port lane) := of_none rfl
theorem laneRecalDone (port : PortId) (lane : Fin 4) (pass : Bool) : Statement (.laneRecalDone port lane pass) := of_none rfl
theorem config (port : PortId) (linkId : W16) (partnerPort : W16) (lanes : BitVec 4) (baud : Bool) (ackSeq : BitVec 12) (isSwitch : Bool) : Statement (.config port linkId partnerPort lanes baud ackSeq isSwitch) := of_none rfl
theorem echoReq (port : PortId) (time : W64) : Statement (.echoReq port time) := of_none rfl
theorem echoResp (port : PortId) (time turnaround now : W64) : Statement (.echoResp port time turnaround now) := of_none rfl
theorem vcReset (port : PortId) (vc : Fin 8) : Statement (.vcReset port vc) := of_none rfl
theorem answer (port : PortId) (src : W16) (payload : BitVec 256) : Statement (.answer port src payload) := of_none rfl
theorem tickMarker (port : PortId) (accum : BitVec 12) (tickLo : BitVec 6) (phase : Int) : Statement (.tickMarker port accum tickLo phase) := of_none rfl
theorem markerMissed : Statement (.markerMissed) := of_none rfl
theorem syncIn (sinceLast : Nat) : Statement (.syncIn sinceLast) := of_none rfl
theorem linkReferenceLost (ref : PhyRef) : Statement (.linkReferenceLost ref) := of_none rfl
theorem unitBoundary (pair : PairId) : Statement (.unitBoundary pair) := of_none rfl
theorem unitRecord (part : PartId) (session : Nat) : Statement (.unitRecord part session) := of_none rfl
theorem starveLimit (part : PartId) (session : Nat) : Statement (.starveLimit part session) := of_none rfl
theorem pictureOutput (part : PartId) (session : Nat) (entry : Nat) : Statement (.pictureOutput part session entry) := of_none rfl
theorem activationCallComplete (part : PartId) (call : Nat) : Statement (.activationCallComplete part call) := of_none rfl
theorem ucodeLoadDone (pair : PairId) : Statement (.ucodeLoadDone pair) := of_none rfl
theorem supplyDip (rail : RailId) (lowest : Nat) : Statement (.supplyDip rail lowest) := of_none rfl
theorem supplyDipRecord (rail : RailId) (lowest below : Nat) : Statement (.supplyDipRecord rail lowest below) := of_none rfl
theorem supplyCollapse (rail : RailId) : Statement (.supplyCollapse rail) := of_none rfl
theorem gearStep (die : CdId) : Statement (.gearStep die) := of_none rfl
theorem avsAck (die : CdId) : Statement (.avsAck die) := of_none rfl
theorem avsTimeout (die : CdId) : Statement (.avsTimeout die) := of_none rfl
theorem freewheel (die : DieId) : Statement (.freewheel die) := of_none rfl
theorem powerOn (env : BootEnv) : Statement (.powerOn env) := of_none rfl
theorem resetN (lowNs : Nat) (env : BootEnv) : Statement (.resetN lowNs env) := of_none rfl
theorem perstN (lowNs : Nat) (env : BootEnv) : Statement (.perstN lowNs env) := of_none rfl
theorem trstN : Statement (.trstN) := of_none rfl
theorem bmcRead (address : BitVec 7) (offset : Nat) (count : Nat) : Statement (.bmcRead address offset count) := of_none rfl
theorem standbyStewardFault : Statement (.standbyStewardFault) := of_none rfl
theorem farPortEnumerated (port : FPortId) (frames : Nat) (same : Bool) : Statement (.farPortEnumerated port frames same) := of_none rfl
theorem farLinkBackUp (port : FPortId) : Statement (.farLinkBackUp port) := of_none rfl
theorem testAccessPortInstruction (code : Nat) : Statement (.testAccessPortInstruction code) := of_none rfl

end Sys2Proof.Laws.Opcode
end

