-- ==== Sys2Proof/Laws/State.lean ====
section
/-!
SUPPORT. The updates of the state: what each leaves, field by field, and what a table gives back after one.
-/
namespace Sys2Proof.Machine

/-! ## Tables -/

@[simp] theorem tget?_tset_same {α : Type} {t : Table α} {i : Nat} {v : α} : tget? (tset t i v) i = some v := by
  induction t with
  | nil => simp [tset, tget?]
  | cons c t ih =>
    obtain ⟨k, w⟩ := c
    simp only [tset]
    split
    · simp [tget?]
    · split
      · simp [tget?]
      · have : k ≠ i := by omega
        simp [tget?, this, ih]

theorem tget?_tset_other {α : Type} {t : Table α} {i j : Nat} {v : α} (h : j ≠ i) : tget? (tset t i v) j = tget? t j := by
  have h' : i ≠ j := Ne.symm h
  induction t with
  | nil => simp [tset, tget?, h']
  | cons c t ih =>
    obtain ⟨k, w⟩ := c
    simp only [tset]
    split
    · simp [tget?, h']
    · split
      · rename_i e
        subst e
        simp [tget?, h']
      · simp only [tget?, ih]

@[simp] theorem tget_tset_same {α : Type} {t : Table α} {i : Nat} {v d : α} : tget (tset t i v) i d = v := by simp [tget]

theorem tget_tset_other {α : Type} {t : Table α} {i j : Nat} {v d : α} (h : j ≠ i) : tget (tset t i v) j d = tget t j d := by
  simp [tget, tget?_tset_other h]

theorem tget?_tdel_same {α : Type} {t : Table α} {i : Nat} : tget? (tdel t i) i = none := by
  induction t with
  | nil => rfl
  | cons c t ih =>
    obtain ⟨k, w⟩ := c
    simp only [tdel, List.filter_cons]
    split
    · rename_i h
      have : k ≠ i := by simpa using h
      simpa [tget?, this, tdel] using ih
    · exact ih

theorem tget?_tdel_other {α : Type} {t : Table α} {i j : Nat} (h : j ≠ i) : tget? (tdel t i) j = tget? t j := by
  induction t with
  | nil => rfl
  | cons c t ih =>
    obtain ⟨k, w⟩ := c
    simp only [tdel, List.filter_cons]
    split
    · simp only [tget?]
      split
      · rfl
      · exact ih
    · rename_i hk
      have : k ≠ j := by rintro rfl; simp at hk; exact h hk
      simpa [tget?, this, tdel] using ih

theorem tget?_tupd_same {α : Type} {t : Table α} {i : Nat} {f : α → α} : tget? (tupd t i f) i = (tget? t i).map f := by
  unfold tupd
  split
  · rename_i v h; simp [h]
  · rename_i h; simp [h]

theorem tget?_tupd_other {α : Type} {t : Table α} {i j : Nat} {f : α → α} (h : j ≠ i) : tget? (tupd t i f) j = tget? t j := by
  unfold tupd
  split
  · exact tget?_tset_other h
  · rfl

theorem tget?_tmap {α : Type} {t : Table α} {f : Nat → α → α} {i : Nat} : tget? (tmap t f) i = (tget? t i).map (f i) := by
  induction t with
  | nil => rfl
  | cons c t ih =>
    obtain ⟨k, w⟩ := c
    simp only [tmap, List.map_cons, tget?]
    split
    · rename_i e; subst e; rfl
    · exact ih

/-! ## The parts of the state that an update names -/

@[simp] theorem fnOf_setFn_same {f : Nat} {x : FnState} {s : State} : fnOf (setFn f x s) f = x := tget_tset_same
theorem fnOf_setFn_other {f g : Nat} {x : FnState} {s : State} (h : g ≠ f) : fnOf (setFn f x s) g = fnOf s g := tget_tset_other h
@[simp] theorem fnOf_modFn_same {f : Nat} {k : FnState → FnState} {s : State} : fnOf (modFn f k s) f = k (fnOf s f) := tget_tset_same
theorem fnOf_modFn_other {f g : Nat} {k : FnState → FnState} {s : State} (h : g ≠ f) : fnOf (modFn f k s) g = fnOf s g := tget_tset_other h
@[simp] theorem getHandle_setHandle_same {h : Nat} {r : HandleRec} {s : State} : getHandle (setHandle h r s) h = some r := tget?_tset_same
theorem getHandle_setHandle_other {h k : Nat} {r : HandleRec} {s : State} (e : k ≠ h) : getHandle (setHandle h r s) k = getHandle s k := tget?_tset_other e
theorem getHandle_modHandle_same {h : Nat} {f : HandleRec → HandleRec} {s : State} : getHandle (modHandle h f s) h = (getHandle s h).map f := tget?_tupd_same
theorem getHandle_modHandle_other {h k : Nat} {f : HandleRec → HandleRec} {s : State} (e : k ≠ h) : getHandle (modHandle h f s) k = getHandle s k := tget?_tupd_other e
@[simp] theorem getPart_setPart_same {p : Nat} {x : Partition} {s : State} : getPart (setPart p x s) p = some x := tget?_tset_same
theorem getPart_setPart_other {p q : Nat} {x : Partition} {s : State} (h : q ≠ p) : getPart (setPart p x s) q = getPart s q := tget?_tset_other h
theorem getPart_modPart_same {p : Nat} {f : Partition → Partition} {s : State} : getPart (modPart p f s) p = (getPart s p).map f := tget?_tupd_same
theorem getPart_modPart_other {p q : Nat} {f : Partition → Partition} {s : State} (h : q ≠ p) : getPart (modPart p f s) q = getPart s q := tget?_tupd_other h
@[simp] theorem coreOf_setCore_same {c : Nat} {x : Core} {s : State} : coreOf (setCore c x s) c = x := tget_tset_same
theorem coreOf_setCore_other {c d : Nat} {x : Core} {s : State} (h : d ≠ c) : coreOf (setCore c x s) d = coreOf s d := tget_tset_other h
@[simp] theorem coreOf_modCore_same {c : Nat} {f : Core → Core} {s : State} : coreOf (modCore c f s) c = f (coreOf s c) := tget_tset_same
theorem coreOf_modCore_other {c d : Nat} {f : Core → Core} {s : State} (h : d ≠ c) : coreOf (modCore c f s) d = coreOf s d := tget_tset_other h
@[simp] theorem portOf_modPort_same {i : Nat} {f : Port → Port} {s : State} : portOf (modPort i f s) i = f (portOf s i) := tget_tset_same
theorem portOf_modPort_other {i j : Nat} {f : Port → Port} {s : State} (h : j ≠ i) : portOf (modPort i f s) j = portOf s j := tget_tset_other h
@[simp] theorem cdOf_modCd_same {d : Nat} {f : Cd → Cd} {s : State} : cdOf (modCd d f s) d = f (cdOf s d) := tget_tset_same
theorem cdOf_modCd_other {d e : Nat} {f : Cd → Cd} {s : State} (h : e ≠ d) : cdOf (modCd d f s) e = cdOf s e := tget_tset_other h
@[simp] theorem pairOf_modPair_same {i : Nat} {f : Pair → Pair} {s : State} : pairOf (modPair i f s) i = f (pairOf s i) := tget_tset_same
theorem pairOf_modPair_other {i j : Nat} {f : Pair → Pair} {s : State} (h : j ≠ i) : pairOf (modPair i f s) j = pairOf s j := tget_tset_other h

/-! ## Field by field -/

@[simp] theorem setFn_pending (f : Nat) (x : FnState) (s : State) : (setFn f x s).pending = s.pending := rfl
@[simp] theorem setFn_free (f : Nat) (x : FnState) (s : State) : (setFn f x s).free = s.free := rfl
@[simp] theorem setFn_mem (f : Nat) (x : FnState) (s : State) : (setFn f x s).mem = s.mem := rfl
@[simp] theorem setFn_outbox (f : Nat) (x : FnState) (s : State) : (setFn f x s).outbox = s.outbox := rfl
@[simp] theorem setFn_steward (f : Nat) (x : FnState) (s : State) : (setFn f x s).steward = s.steward := rfl
@[simp] theorem setFn_tiers (f : Nat) (x : FnState) (s : State) : (setFn f x s).tiers = s.tiers := rfl
@[simp] theorem setFn_parts (f : Nat) (x : FnState) (s : State) : (setFn f x s).parts = s.parts := rfl
@[simp] theorem setFn_prefixes (f : Nat) (x : FnState) (s : State) : (setFn f x s).prefixes = s.prefixes := rfl
@[simp] theorem setFn_cores (f : Nat) (x : FnState) (s : State) : (setFn f x s).cores = s.cores := rfl
@[simp] theorem setFn_links (f : Nat) (x : FnState) (s : State) : (setFn f x s).links = s.links := rfl
@[simp] theorem setFn_pairs (f : Nat) (x : FnState) (s : State) : (setFn f x s).pairs = s.pairs := rfl
@[simp] theorem setFn_collector (f : Nat) (x : FnState) (s : State) : (setFn f x s).collector = s.collector := rfl
@[simp] theorem setFn_trust (f : Nat) (x : FnState) (s : State) : (setFn f x s).trust = s.trust := rfl
@[simp] theorem setFn_board (f : Nat) (x : FnState) (s : State) : (setFn f x s).board = s.board := rfl
@[simp] theorem modFn_pending (f : Nat) (g : FnState → FnState) (s : State) : (modFn f g s).pending = s.pending := rfl
@[simp] theorem modFn_free (f : Nat) (g : FnState → FnState) (s : State) : (modFn f g s).free = s.free := rfl
@[simp] theorem modFn_mem (f : Nat) (g : FnState → FnState) (s : State) : (modFn f g s).mem = s.mem := rfl
@[simp] theorem modFn_outbox (f : Nat) (g : FnState → FnState) (s : State) : (modFn f g s).outbox = s.outbox := rfl
@[simp] theorem modFn_steward (f : Nat) (g : FnState → FnState) (s : State) : (modFn f g s).steward = s.steward := rfl
@[simp] theorem modFn_tiers (f : Nat) (g : FnState → FnState) (s : State) : (modFn f g s).tiers = s.tiers := rfl
@[simp] theorem modFn_parts (f : Nat) (g : FnState → FnState) (s : State) : (modFn f g s).parts = s.parts := rfl
@[simp] theorem modFn_prefixes (f : Nat) (g : FnState → FnState) (s : State) : (modFn f g s).prefixes = s.prefixes := rfl
@[simp] theorem modFn_cores (f : Nat) (g : FnState → FnState) (s : State) : (modFn f g s).cores = s.cores := rfl
@[simp] theorem modFn_links (f : Nat) (g : FnState → FnState) (s : State) : (modFn f g s).links = s.links := rfl
@[simp] theorem modFn_pairs (f : Nat) (g : FnState → FnState) (s : State) : (modFn f g s).pairs = s.pairs := rfl
@[simp] theorem modFn_collector (f : Nat) (g : FnState → FnState) (s : State) : (modFn f g s).collector = s.collector := rfl
@[simp] theorem modFn_trust (f : Nat) (g : FnState → FnState) (s : State) : (modFn f g s).trust = s.trust := rfl
@[simp] theorem modFn_board (f : Nat) (g : FnState → FnState) (s : State) : (modFn f g s).board = s.board := rfl
@[simp] theorem freshFn_pending (f : Nat) (s : State) : (freshFn f s).pending = s.pending := rfl
@[simp] theorem freshFn_free (f : Nat) (s : State) : (freshFn f s).free = s.free := rfl
@[simp] theorem freshFn_outbox (f : Nat) (s : State) : (freshFn f s).outbox = s.outbox := rfl
@[simp] theorem freshFn_steward (f : Nat) (s : State) : (freshFn f s).steward = s.steward := rfl
@[simp] theorem freshFn_tiers (f : Nat) (s : State) : (freshFn f s).tiers = s.tiers := rfl
@[simp] theorem freshFn_parts (f : Nat) (s : State) : (freshFn f s).parts = s.parts := rfl
@[simp] theorem freshFn_prefixes (f : Nat) (s : State) : (freshFn f s).prefixes = s.prefixes := rfl
@[simp] theorem freshFn_cores (f : Nat) (s : State) : (freshFn f s).cores = s.cores := rfl
@[simp] theorem freshFn_links (f : Nat) (s : State) : (freshFn f s).links = s.links := rfl
@[simp] theorem freshFn_pairs (f : Nat) (s : State) : (freshFn f s).pairs = s.pairs := rfl
@[simp] theorem freshFn_collector (f : Nat) (s : State) : (freshFn f s).collector = s.collector := rfl
@[simp] theorem freshFn_trust (f : Nat) (s : State) : (freshFn f s).trust = s.trust := rfl
@[simp] theorem freshFn_board (f : Nat) (s : State) : (freshFn f s).board = s.board := rfl
@[simp] theorem setHandle_pending (h : Nat) (r : HandleRec) (s : State) : (setHandle h r s).pending = s.pending := rfl
@[simp] theorem setHandle_free (h : Nat) (r : HandleRec) (s : State) : (setHandle h r s).free = s.free := rfl
@[simp] theorem setHandle_mem (h : Nat) (r : HandleRec) (s : State) : (setHandle h r s).mem = s.mem := rfl
@[simp] theorem setHandle_outbox (h : Nat) (r : HandleRec) (s : State) : (setHandle h r s).outbox = s.outbox := rfl
@[simp] theorem setHandle_host (h : Nat) (r : HandleRec) (s : State) : (setHandle h r s).host = s.host := rfl
@[simp] theorem setHandle_tiers (h : Nat) (r : HandleRec) (s : State) : (setHandle h r s).tiers = s.tiers := rfl
@[simp] theorem setHandle_parts (h : Nat) (r : HandleRec) (s : State) : (setHandle h r s).parts = s.parts := rfl
@[simp] theorem setHandle_prefixes (h : Nat) (r : HandleRec) (s : State) : (setHandle h r s).prefixes = s.prefixes := rfl
@[simp] theorem setHandle_cores (h : Nat) (r : HandleRec) (s : State) : (setHandle h r s).cores = s.cores := rfl
@[simp] theorem setHandle_links (h : Nat) (r : HandleRec) (s : State) : (setHandle h r s).links = s.links := rfl
@[simp] theorem setHandle_pairs (h : Nat) (r : HandleRec) (s : State) : (setHandle h r s).pairs = s.pairs := rfl
@[simp] theorem setHandle_collector (h : Nat) (r : HandleRec) (s : State) : (setHandle h r s).collector = s.collector := rfl
@[simp] theorem setHandle_trust (h : Nat) (r : HandleRec) (s : State) : (setHandle h r s).trust = s.trust := rfl
@[simp] theorem setHandle_board (h : Nat) (r : HandleRec) (s : State) : (setHandle h r s).board = s.board := rfl
@[simp] theorem modHandle_pending (h : Nat) (f : HandleRec → HandleRec) (s : State) : (modHandle h f s).pending = s.pending := rfl
@[simp] theorem modHandle_free (h : Nat) (f : HandleRec → HandleRec) (s : State) : (modHandle h f s).free = s.free := rfl
@[simp] theorem modHandle_mem (h : Nat) (f : HandleRec → HandleRec) (s : State) : (modHandle h f s).mem = s.mem := rfl
@[simp] theorem modHandle_outbox (h : Nat) (f : HandleRec → HandleRec) (s : State) : (modHandle h f s).outbox = s.outbox := rfl
@[simp] theorem modHandle_host (h : Nat) (f : HandleRec → HandleRec) (s : State) : (modHandle h f s).host = s.host := rfl
@[simp] theorem modHandle_tiers (h : Nat) (f : HandleRec → HandleRec) (s : State) : (modHandle h f s).tiers = s.tiers := rfl
@[simp] theorem modHandle_parts (h : Nat) (f : HandleRec → HandleRec) (s : State) : (modHandle h f s).parts = s.parts := rfl
@[simp] theorem modHandle_prefixes (h : Nat) (f : HandleRec → HandleRec) (s : State) : (modHandle h f s).prefixes = s.prefixes := rfl
@[simp] theorem modHandle_cores (h : Nat) (f : HandleRec → HandleRec) (s : State) : (modHandle h f s).cores = s.cores := rfl
@[simp] theorem modHandle_links (h : Nat) (f : HandleRec → HandleRec) (s : State) : (modHandle h f s).links = s.links := rfl
@[simp] theorem modHandle_pairs (h : Nat) (f : HandleRec → HandleRec) (s : State) : (modHandle h f s).pairs = s.pairs := rfl
@[simp] theorem modHandle_collector (h : Nat) (f : HandleRec → HandleRec) (s : State) : (modHandle h f s).collector = s.collector := rfl
@[simp] theorem modHandle_trust (h : Nat) (f : HandleRec → HandleRec) (s : State) : (modHandle h f s).trust = s.trust := rfl
@[simp] theorem modHandle_board (h : Nat) (f : HandleRec → HandleRec) (s : State) : (modHandle h f s).board = s.board := rfl
@[simp] theorem setPart_pending (p : Nat) (x : Partition) (s : State) : (setPart p x s).pending = s.pending := rfl
@[simp] theorem setPart_free (p : Nat) (x : Partition) (s : State) : (setPart p x s).free = s.free := rfl
@[simp] theorem setPart_mem (p : Nat) (x : Partition) (s : State) : (setPart p x s).mem = s.mem := rfl
@[simp] theorem setPart_outbox (p : Nat) (x : Partition) (s : State) : (setPart p x s).outbox = s.outbox := rfl
@[simp] theorem setPart_host (p : Nat) (x : Partition) (s : State) : (setPart p x s).host = s.host := rfl
@[simp] theorem setPart_steward (p : Nat) (x : Partition) (s : State) : (setPart p x s).steward = s.steward := rfl
@[simp] theorem setPart_tiers (p : Nat) (x : Partition) (s : State) : (setPart p x s).tiers = s.tiers := rfl
@[simp] theorem setPart_prefixes (p : Nat) (x : Partition) (s : State) : (setPart p x s).prefixes = s.prefixes := rfl
@[simp] theorem setPart_cores (p : Nat) (x : Partition) (s : State) : (setPart p x s).cores = s.cores := rfl
@[simp] theorem setPart_links (p : Nat) (x : Partition) (s : State) : (setPart p x s).links = s.links := rfl
@[simp] theorem setPart_pairs (p : Nat) (x : Partition) (s : State) : (setPart p x s).pairs = s.pairs := rfl
@[simp] theorem setPart_collector (p : Nat) (x : Partition) (s : State) : (setPart p x s).collector = s.collector := rfl
@[simp] theorem setPart_trust (p : Nat) (x : Partition) (s : State) : (setPart p x s).trust = s.trust := rfl
@[simp] theorem setPart_board (p : Nat) (x : Partition) (s : State) : (setPart p x s).board = s.board := rfl
@[simp] theorem modPart_pending (p : Nat) (f : Partition → Partition) (s : State) : (modPart p f s).pending = s.pending := rfl
@[simp] theorem modPart_free (p : Nat) (f : Partition → Partition) (s : State) : (modPart p f s).free = s.free := rfl
@[simp] theorem modPart_mem (p : Nat) (f : Partition → Partition) (s : State) : (modPart p f s).mem = s.mem := rfl
@[simp] theorem modPart_outbox (p : Nat) (f : Partition → Partition) (s : State) : (modPart p f s).outbox = s.outbox := rfl
@[simp] theorem modPart_host (p : Nat) (f : Partition → Partition) (s : State) : (modPart p f s).host = s.host := rfl
@[simp] theorem modPart_steward (p : Nat) (f : Partition → Partition) (s : State) : (modPart p f s).steward = s.steward := rfl
@[simp] theorem modPart_tiers (p : Nat) (f : Partition → Partition) (s : State) : (modPart p f s).tiers = s.tiers := rfl
@[simp] theorem modPart_prefixes (p : Nat) (f : Partition → Partition) (s : State) : (modPart p f s).prefixes = s.prefixes := rfl
@[simp] theorem modPart_cores (p : Nat) (f : Partition → Partition) (s : State) : (modPart p f s).cores = s.cores := rfl
@[simp] theorem modPart_links (p : Nat) (f : Partition → Partition) (s : State) : (modPart p f s).links = s.links := rfl
@[simp] theorem modPart_pairs (p : Nat) (f : Partition → Partition) (s : State) : (modPart p f s).pairs = s.pairs := rfl
@[simp] theorem modPart_collector (p : Nat) (f : Partition → Partition) (s : State) : (modPart p f s).collector = s.collector := rfl
@[simp] theorem modPart_trust (p : Nat) (f : Partition → Partition) (s : State) : (modPart p f s).trust = s.trust := rfl
@[simp] theorem modPart_board (p : Nat) (f : Partition → Partition) (s : State) : (modPart p f s).board = s.board := rfl
@[simp] theorem setCore_pending (c : Nat) (x : Core) (s : State) : (setCore c x s).pending = s.pending := rfl
@[simp] theorem setCore_free (c : Nat) (x : Core) (s : State) : (setCore c x s).free = s.free := rfl
@[simp] theorem setCore_mem (c : Nat) (x : Core) (s : State) : (setCore c x s).mem = s.mem := rfl
@[simp] theorem setCore_outbox (c : Nat) (x : Core) (s : State) : (setCore c x s).outbox = s.outbox := rfl
@[simp] theorem setCore_host (c : Nat) (x : Core) (s : State) : (setCore c x s).host = s.host := rfl
@[simp] theorem setCore_steward (c : Nat) (x : Core) (s : State) : (setCore c x s).steward = s.steward := rfl
@[simp] theorem setCore_tiers (c : Nat) (x : Core) (s : State) : (setCore c x s).tiers = s.tiers := rfl
@[simp] theorem setCore_parts (c : Nat) (x : Core) (s : State) : (setCore c x s).parts = s.parts := rfl
@[simp] theorem setCore_prefixes (c : Nat) (x : Core) (s : State) : (setCore c x s).prefixes = s.prefixes := rfl
@[simp] theorem setCore_links (c : Nat) (x : Core) (s : State) : (setCore c x s).links = s.links := rfl
@[simp] theorem setCore_pairs (c : Nat) (x : Core) (s : State) : (setCore c x s).pairs = s.pairs := rfl
@[simp] theorem setCore_collector (c : Nat) (x : Core) (s : State) : (setCore c x s).collector = s.collector := rfl
@[simp] theorem setCore_trust (c : Nat) (x : Core) (s : State) : (setCore c x s).trust = s.trust := rfl
@[simp] theorem setCore_board (c : Nat) (x : Core) (s : State) : (setCore c x s).board = s.board := rfl
@[simp] theorem modCore_pending (c : Nat) (f : Core → Core) (s : State) : (modCore c f s).pending = s.pending := rfl
@[simp] theorem modCore_free (c : Nat) (f : Core → Core) (s : State) : (modCore c f s).free = s.free := rfl
@[simp] theorem modCore_mem (c : Nat) (f : Core → Core) (s : State) : (modCore c f s).mem = s.mem := rfl
@[simp] theorem modCore_outbox (c : Nat) (f : Core → Core) (s : State) : (modCore c f s).outbox = s.outbox := rfl
@[simp] theorem modCore_host (c : Nat) (f : Core → Core) (s : State) : (modCore c f s).host = s.host := rfl
@[simp] theorem modCore_steward (c : Nat) (f : Core → Core) (s : State) : (modCore c f s).steward = s.steward := rfl
@[simp] theorem modCore_tiers (c : Nat) (f : Core → Core) (s : State) : (modCore c f s).tiers = s.tiers := rfl
@[simp] theorem modCore_parts (c : Nat) (f : Core → Core) (s : State) : (modCore c f s).parts = s.parts := rfl
@[simp] theorem modCore_prefixes (c : Nat) (f : Core → Core) (s : State) : (modCore c f s).prefixes = s.prefixes := rfl
@[simp] theorem modCore_links (c : Nat) (f : Core → Core) (s : State) : (modCore c f s).links = s.links := rfl
@[simp] theorem modCore_pairs (c : Nat) (f : Core → Core) (s : State) : (modCore c f s).pairs = s.pairs := rfl
@[simp] theorem modCore_collector (c : Nat) (f : Core → Core) (s : State) : (modCore c f s).collector = s.collector := rfl
@[simp] theorem modCore_trust (c : Nat) (f : Core → Core) (s : State) : (modCore c f s).trust = s.trust := rfl
@[simp] theorem modCore_board (c : Nat) (f : Core → Core) (s : State) : (modCore c f s).board = s.board := rfl
@[simp] theorem modCd_pending (d : Nat) (f : Cd → Cd) (s : State) : (modCd d f s).pending = s.pending := rfl
@[simp] theorem modCd_free (d : Nat) (f : Cd → Cd) (s : State) : (modCd d f s).free = s.free := rfl
@[simp] theorem modCd_mem (d : Nat) (f : Cd → Cd) (s : State) : (modCd d f s).mem = s.mem := rfl
@[simp] theorem modCd_outbox (d : Nat) (f : Cd → Cd) (s : State) : (modCd d f s).outbox = s.outbox := rfl
@[simp] theorem modCd_host (d : Nat) (f : Cd → Cd) (s : State) : (modCd d f s).host = s.host := rfl
@[simp] theorem modCd_steward (d : Nat) (f : Cd → Cd) (s : State) : (modCd d f s).steward = s.steward := rfl
@[simp] theorem modCd_tiers (d : Nat) (f : Cd → Cd) (s : State) : (modCd d f s).tiers = s.tiers := rfl
@[simp] theorem modCd_parts (d : Nat) (f : Cd → Cd) (s : State) : (modCd d f s).parts = s.parts := rfl
@[simp] theorem modCd_prefixes (d : Nat) (f : Cd → Cd) (s : State) : (modCd d f s).prefixes = s.prefixes := rfl
@[simp] theorem modCd_links (d : Nat) (f : Cd → Cd) (s : State) : (modCd d f s).links = s.links := rfl
@[simp] theorem modCd_pairs (d : Nat) (f : Cd → Cd) (s : State) : (modCd d f s).pairs = s.pairs := rfl
@[simp] theorem modCd_collector (d : Nat) (f : Cd → Cd) (s : State) : (modCd d f s).collector = s.collector := rfl
@[simp] theorem modCd_trust (d : Nat) (f : Cd → Cd) (s : State) : (modCd d f s).trust = s.trust := rfl
@[simp] theorem modCd_board (d : Nat) (f : Cd → Cd) (s : State) : (modCd d f s).board = s.board := rfl
@[simp] theorem modStack_pending (i : Nat) (f : Stack → Stack) (s : State) : (modStack i f s).pending = s.pending := rfl
@[simp] theorem modStack_free (i : Nat) (f : Stack → Stack) (s : State) : (modStack i f s).free = s.free := rfl
@[simp] theorem modStack_mem (i : Nat) (f : Stack → Stack) (s : State) : (modStack i f s).mem = s.mem := rfl
@[simp] theorem modStack_outbox (i : Nat) (f : Stack → Stack) (s : State) : (modStack i f s).outbox = s.outbox := rfl
@[simp] theorem modStack_host (i : Nat) (f : Stack → Stack) (s : State) : (modStack i f s).host = s.host := rfl
@[simp] theorem modStack_steward (i : Nat) (f : Stack → Stack) (s : State) : (modStack i f s).steward = s.steward := rfl
@[simp] theorem modStack_parts (i : Nat) (f : Stack → Stack) (s : State) : (modStack i f s).parts = s.parts := rfl
@[simp] theorem modStack_prefixes (i : Nat) (f : Stack → Stack) (s : State) : (modStack i f s).prefixes = s.prefixes := rfl
@[simp] theorem modStack_cores (i : Nat) (f : Stack → Stack) (s : State) : (modStack i f s).cores = s.cores := rfl
@[simp] theorem modStack_links (i : Nat) (f : Stack → Stack) (s : State) : (modStack i f s).links = s.links := rfl
@[simp] theorem modStack_pairs (i : Nat) (f : Stack → Stack) (s : State) : (modStack i f s).pairs = s.pairs := rfl
@[simp] theorem modStack_collector (i : Nat) (f : Stack → Stack) (s : State) : (modStack i f s).collector = s.collector := rfl
@[simp] theorem modStack_trust (i : Nat) (f : Stack → Stack) (s : State) : (modStack i f s).trust = s.trust := rfl
@[simp] theorem modStack_board (i : Nat) (f : Stack → Stack) (s : State) : (modStack i f s).board = s.board := rfl
@[simp] theorem modFar_pending (i : Nat) (f : FarPort → FarPort) (s : State) : (modFar i f s).pending = s.pending := rfl
@[simp] theorem modFar_free (i : Nat) (f : FarPort → FarPort) (s : State) : (modFar i f s).free = s.free := rfl
@[simp] theorem modFar_mem (i : Nat) (f : FarPort → FarPort) (s : State) : (modFar i f s).mem = s.mem := rfl
@[simp] theorem modFar_outbox (i : Nat) (f : FarPort → FarPort) (s : State) : (modFar i f s).outbox = s.outbox := rfl
@[simp] theorem modFar_host (i : Nat) (f : FarPort → FarPort) (s : State) : (modFar i f s).host = s.host := rfl
@[simp] theorem modFar_steward (i : Nat) (f : FarPort → FarPort) (s : State) : (modFar i f s).steward = s.steward := rfl
@[simp] theorem modFar_parts (i : Nat) (f : FarPort → FarPort) (s : State) : (modFar i f s).parts = s.parts := rfl
@[simp] theorem modFar_prefixes (i : Nat) (f : FarPort → FarPort) (s : State) : (modFar i f s).prefixes = s.prefixes := rfl
@[simp] theorem modFar_cores (i : Nat) (f : FarPort → FarPort) (s : State) : (modFar i f s).cores = s.cores := rfl
@[simp] theorem modFar_links (i : Nat) (f : FarPort → FarPort) (s : State) : (modFar i f s).links = s.links := rfl
@[simp] theorem modFar_pairs (i : Nat) (f : FarPort → FarPort) (s : State) : (modFar i f s).pairs = s.pairs := rfl
@[simp] theorem modFar_collector (i : Nat) (f : FarPort → FarPort) (s : State) : (modFar i f s).collector = s.collector := rfl
@[simp] theorem modFar_trust (i : Nat) (f : FarPort → FarPort) (s : State) : (modFar i f s).trust = s.trust := rfl
@[simp] theorem modFar_board (i : Nat) (f : FarPort → FarPort) (s : State) : (modFar i f s).board = s.board := rfl
@[simp] theorem setPort_pending (i : Nat) (x : Port) (s : State) : (setPort i x s).pending = s.pending := rfl
@[simp] theorem setPort_free (i : Nat) (x : Port) (s : State) : (setPort i x s).free = s.free := rfl
@[simp] theorem setPort_mem (i : Nat) (x : Port) (s : State) : (setPort i x s).mem = s.mem := rfl
@[simp] theorem setPort_outbox (i : Nat) (x : Port) (s : State) : (setPort i x s).outbox = s.outbox := rfl
@[simp] theorem setPort_host (i : Nat) (x : Port) (s : State) : (setPort i x s).host = s.host := rfl
@[simp] theorem setPort_steward (i : Nat) (x : Port) (s : State) : (setPort i x s).steward = s.steward := rfl
@[simp] theorem setPort_tiers (i : Nat) (x : Port) (s : State) : (setPort i x s).tiers = s.tiers := rfl
@[simp] theorem setPort_parts (i : Nat) (x : Port) (s : State) : (setPort i x s).parts = s.parts := rfl
@[simp] theorem setPort_prefixes (i : Nat) (x : Port) (s : State) : (setPort i x s).prefixes = s.prefixes := rfl
@[simp] theorem setPort_cores (i : Nat) (x : Port) (s : State) : (setPort i x s).cores = s.cores := rfl
@[simp] theorem setPort_pairs (i : Nat) (x : Port) (s : State) : (setPort i x s).pairs = s.pairs := rfl
@[simp] theorem setPort_collector (i : Nat) (x : Port) (s : State) : (setPort i x s).collector = s.collector := rfl
@[simp] theorem setPort_trust (i : Nat) (x : Port) (s : State) : (setPort i x s).trust = s.trust := rfl
@[simp] theorem setPort_board (i : Nat) (x : Port) (s : State) : (setPort i x s).board = s.board := rfl
@[simp] theorem modPort_pending (i : Nat) (f : Port → Port) (s : State) : (modPort i f s).pending = s.pending := rfl
@[simp] theorem modPort_free (i : Nat) (f : Port → Port) (s : State) : (modPort i f s).free = s.free := rfl
@[simp] theorem modPort_mem (i : Nat) (f : Port → Port) (s : State) : (modPort i f s).mem = s.mem := rfl
@[simp] theorem modPort_outbox (i : Nat) (f : Port → Port) (s : State) : (modPort i f s).outbox = s.outbox := rfl
@[simp] theorem modPort_host (i : Nat) (f : Port → Port) (s : State) : (modPort i f s).host = s.host := rfl
@[simp] theorem modPort_steward (i : Nat) (f : Port → Port) (s : State) : (modPort i f s).steward = s.steward := rfl
@[simp] theorem modPort_tiers (i : Nat) (f : Port → Port) (s : State) : (modPort i f s).tiers = s.tiers := rfl
@[simp] theorem modPort_parts (i : Nat) (f : Port → Port) (s : State) : (modPort i f s).parts = s.parts := rfl
@[simp] theorem modPort_prefixes (i : Nat) (f : Port → Port) (s : State) : (modPort i f s).prefixes = s.prefixes := rfl
@[simp] theorem modPort_cores (i : Nat) (f : Port → Port) (s : State) : (modPort i f s).cores = s.cores := rfl
@[simp] theorem modPort_pairs (i : Nat) (f : Port → Port) (s : State) : (modPort i f s).pairs = s.pairs := rfl
@[simp] theorem modPort_collector (i : Nat) (f : Port → Port) (s : State) : (modPort i f s).collector = s.collector := rfl
@[simp] theorem modPort_trust (i : Nat) (f : Port → Port) (s : State) : (modPort i f s).trust = s.trust := rfl
@[simp] theorem modPort_board (i : Nat) (f : Port → Port) (s : State) : (modPort i f s).board = s.board := rfl
@[simp] theorem modPair_pending (i : Nat) (f : Pair → Pair) (s : State) : (modPair i f s).pending = s.pending := rfl
@[simp] theorem modPair_free (i : Nat) (f : Pair → Pair) (s : State) : (modPair i f s).free = s.free := rfl
@[simp] theorem modPair_mem (i : Nat) (f : Pair → Pair) (s : State) : (modPair i f s).mem = s.mem := rfl
@[simp] theorem modPair_outbox (i : Nat) (f : Pair → Pair) (s : State) : (modPair i f s).outbox = s.outbox := rfl
@[simp] theorem modPair_host (i : Nat) (f : Pair → Pair) (s : State) : (modPair i f s).host = s.host := rfl
@[simp] theorem modPair_steward (i : Nat) (f : Pair → Pair) (s : State) : (modPair i f s).steward = s.steward := rfl
@[simp] theorem modPair_tiers (i : Nat) (f : Pair → Pair) (s : State) : (modPair i f s).tiers = s.tiers := rfl
@[simp] theorem modPair_parts (i : Nat) (f : Pair → Pair) (s : State) : (modPair i f s).parts = s.parts := rfl
@[simp] theorem modPair_prefixes (i : Nat) (f : Pair → Pair) (s : State) : (modPair i f s).prefixes = s.prefixes := rfl
@[simp] theorem modPair_cores (i : Nat) (f : Pair → Pair) (s : State) : (modPair i f s).cores = s.cores := rfl
@[simp] theorem modPair_links (i : Nat) (f : Pair → Pair) (s : State) : (modPair i f s).links = s.links := rfl
@[simp] theorem modPair_collector (i : Nat) (f : Pair → Pair) (s : State) : (modPair i f s).collector = s.collector := rfl
@[simp] theorem modPair_trust (i : Nat) (f : Pair → Pair) (s : State) : (modPair i f s).trust = s.trust := rfl
@[simp] theorem modPair_board (i : Nat) (f : Pair → Pair) (s : State) : (modPair i f s).board = s.board := rfl
@[simp] theorem emit_pending (o : Output) (s : State) : (emit o s).pending = s.pending := rfl
@[simp] theorem emit_free (o : Output) (s : State) : (emit o s).free = s.free := rfl
@[simp] theorem emit_mem (o : Output) (s : State) : (emit o s).mem = s.mem := rfl
@[simp] theorem emit_host (o : Output) (s : State) : (emit o s).host = s.host := rfl
@[simp] theorem emit_steward (o : Output) (s : State) : (emit o s).steward = s.steward := rfl
@[simp] theorem emit_tiers (o : Output) (s : State) : (emit o s).tiers = s.tiers := rfl
@[simp] theorem emit_parts (o : Output) (s : State) : (emit o s).parts = s.parts := rfl
@[simp] theorem emit_prefixes (o : Output) (s : State) : (emit o s).prefixes = s.prefixes := rfl
@[simp] theorem emit_cores (o : Output) (s : State) : (emit o s).cores = s.cores := rfl
@[simp] theorem emit_links (o : Output) (s : State) : (emit o s).links = s.links := rfl
@[simp] theorem emit_pairs (o : Output) (s : State) : (emit o s).pairs = s.pairs := rfl
@[simp] theorem emit_collector (o : Output) (s : State) : (emit o s).collector = s.collector := rfl
@[simp] theorem emit_trust (o : Output) (s : State) : (emit o s).trust = s.trust := rfl
@[simp] theorem emit_board (o : Output) (s : State) : (emit o s).board = s.board := rfl
@[simp] theorem msix_pending (f v : Nat) (s : State) : (msix f v s).pending = s.pending := rfl
@[simp] theorem msix_free (f v : Nat) (s : State) : (msix f v s).free = s.free := rfl
@[simp] theorem msix_mem (f v : Nat) (s : State) : (msix f v s).mem = s.mem := rfl
@[simp] theorem msix_host (f v : Nat) (s : State) : (msix f v s).host = s.host := rfl
@[simp] theorem msix_steward (f v : Nat) (s : State) : (msix f v s).steward = s.steward := rfl
@[simp] theorem msix_tiers (f v : Nat) (s : State) : (msix f v s).tiers = s.tiers := rfl
@[simp] theorem msix_parts (f v : Nat) (s : State) : (msix f v s).parts = s.parts := rfl
@[simp] theorem msix_prefixes (f v : Nat) (s : State) : (msix f v s).prefixes = s.prefixes := rfl
@[simp] theorem msix_cores (f v : Nat) (s : State) : (msix f v s).cores = s.cores := rfl
@[simp] theorem msix_links (f v : Nat) (s : State) : (msix f v s).links = s.links := rfl
@[simp] theorem msix_pairs (f v : Nat) (s : State) : (msix f v s).pairs = s.pairs := rfl
@[simp] theorem msix_collector (f v : Nat) (s : State) : (msix f v s).collector = s.collector := rfl
@[simp] theorem msix_trust (f v : Nat) (s : State) : (msix f v s).trust = s.trust := rfl
@[simp] theorem msix_board (f v : Nat) (s : State) : (msix f v s).board = s.board := rfl
@[simp] theorem State.write_pending (s : State) (sp : Space) (a : Nat) (bs : List Byte) : (s.write sp a bs).pending = s.pending := rfl
@[simp] theorem State.copyPlace_pending (s : State) (src dst n : Nat) : (s.copyPlace src dst n).pending = s.pending := rfl
@[simp] theorem takeFree_pending (s : State) : (takeFree s).2.pending = s.pending := rfl
@[simp] theorem State.write_free (s : State) (sp : Space) (a : Nat) (bs : List Byte) : (s.write sp a bs).free = s.free := rfl
@[simp] theorem State.copyPlace_free (s : State) (src dst n : Nat) : (s.copyPlace src dst n).free = s.free := rfl
@[simp] theorem takeFree_mem (s : State) : (takeFree s).2.mem = s.mem := rfl
@[simp] theorem State.write_outbox (s : State) (sp : Space) (a : Nat) (bs : List Byte) : (s.write sp a bs).outbox = s.outbox := rfl
@[simp] theorem State.copyPlace_outbox (s : State) (src dst n : Nat) : (s.copyPlace src dst n).outbox = s.outbox := rfl
@[simp] theorem takeFree_outbox (s : State) : (takeFree s).2.outbox = s.outbox := rfl
@[simp] theorem State.write_host (s : State) (sp : Space) (a : Nat) (bs : List Byte) : (s.write sp a bs).host = s.host := rfl
@[simp] theorem State.copyPlace_host (s : State) (src dst n : Nat) : (s.copyPlace src dst n).host = s.host := rfl
@[simp] theorem takeFree_host (s : State) : (takeFree s).2.host = s.host := rfl
@[simp] theorem State.write_steward (s : State) (sp : Space) (a : Nat) (bs : List Byte) : (s.write sp a bs).steward = s.steward := rfl
@[simp] theorem State.copyPlace_steward (s : State) (src dst n : Nat) : (s.copyPlace src dst n).steward = s.steward := rfl
@[simp] theorem takeFree_steward (s : State) : (takeFree s).2.steward = s.steward := rfl
@[simp] theorem State.write_tiers (s : State) (sp : Space) (a : Nat) (bs : List Byte) : (s.write sp a bs).tiers = s.tiers := rfl
@[simp] theorem State.copyPlace_tiers (s : State) (src dst n : Nat) : (s.copyPlace src dst n).tiers = s.tiers := rfl
@[simp] theorem takeFree_tiers (s : State) : (takeFree s).2.tiers = s.tiers := rfl
@[simp] theorem State.write_parts (s : State) (sp : Space) (a : Nat) (bs : List Byte) : (s.write sp a bs).parts = s.parts := rfl
@[simp] theorem State.copyPlace_parts (s : State) (src dst n : Nat) : (s.copyPlace src dst n).parts = s.parts := rfl
@[simp] theorem takeFree_parts (s : State) : (takeFree s).2.parts = s.parts := rfl
@[simp] theorem State.write_prefixes (s : State) (sp : Space) (a : Nat) (bs : List Byte) : (s.write sp a bs).prefixes = s.prefixes := rfl
@[simp] theorem State.copyPlace_prefixes (s : State) (src dst n : Nat) : (s.copyPlace src dst n).prefixes = s.prefixes := rfl
@[simp] theorem takeFree_prefixes (s : State) : (takeFree s).2.prefixes = s.prefixes := rfl
@[simp] theorem State.write_cores (s : State) (sp : Space) (a : Nat) (bs : List Byte) : (s.write sp a bs).cores = s.cores := rfl
@[simp] theorem State.copyPlace_cores (s : State) (src dst n : Nat) : (s.copyPlace src dst n).cores = s.cores := rfl
@[simp] theorem takeFree_cores (s : State) : (takeFree s).2.cores = s.cores := rfl
@[simp] theorem State.write_links (s : State) (sp : Space) (a : Nat) (bs : List Byte) : (s.write sp a bs).links = s.links := rfl
@[simp] theorem State.copyPlace_links (s : State) (src dst n : Nat) : (s.copyPlace src dst n).links = s.links := rfl
@[simp] theorem takeFree_links (s : State) : (takeFree s).2.links = s.links := rfl
@[simp] theorem State.write_pairs (s : State) (sp : Space) (a : Nat) (bs : List Byte) : (s.write sp a bs).pairs = s.pairs := rfl
@[simp] theorem State.copyPlace_pairs (s : State) (src dst n : Nat) : (s.copyPlace src dst n).pairs = s.pairs := rfl
@[simp] theorem takeFree_pairs (s : State) : (takeFree s).2.pairs = s.pairs := rfl
@[simp] theorem State.write_collector (s : State) (sp : Space) (a : Nat) (bs : List Byte) : (s.write sp a bs).collector = s.collector := rfl
@[simp] theorem State.copyPlace_collector (s : State) (src dst n : Nat) : (s.copyPlace src dst n).collector = s.collector := rfl
@[simp] theorem takeFree_collector (s : State) : (takeFree s).2.collector = s.collector := rfl
@[simp] theorem State.write_trust (s : State) (sp : Space) (a : Nat) (bs : List Byte) : (s.write sp a bs).trust = s.trust := rfl
@[simp] theorem State.copyPlace_trust (s : State) (src dst n : Nat) : (s.copyPlace src dst n).trust = s.trust := rfl
@[simp] theorem takeFree_trust (s : State) : (takeFree s).2.trust = s.trust := rfl
@[simp] theorem State.write_board (s : State) (sp : Space) (a : Nat) (bs : List Byte) : (s.write sp a bs).board = s.board := rfl
@[simp] theorem State.copyPlace_board (s : State) (src dst n : Nat) : (s.copyPlace src dst n).board = s.board := rfl
@[simp] theorem takeFree_board (s : State) : (takeFree s).2.board = s.board := rfl

end Sys2Proof.Machine
end

