-- ==== Sys2Proof/WellFormed.lean ====
section
/-!
DEFINITION. Which terms of `Instr` spell a command or event that the block can meet: the ranges that a rule or a pin
gives an operand and that its type does not already give.
-/
namespace Sys2Proof

/-- A binding set has at most eight words (Table 9 of ch. 13). -/
def StepOps.wf (o : StepOps) : Bool := o.words.length ≤ 8

/-- A flit carries a header of 24 bytes, 608 bytes of payload and an 8-byte CRC (R423). -/
def Flit.wf (f : Flit) : Bool := f.payload.length == 608

/-- A measurement per part: twenty dies, twenty-four rails, five migration routes (Table 12 of ch. 14, R350). -/
def TickEnv.wf (e : TickEnv) : Bool :=
  e.temps.length ≤ 20 && e.rails.length ≤ 24 && e.hot.all (· < 20) && e.cool.all (· < 20) && e.calmRails.all (· < 24)

/-- Four F ports (R620). -/
def BootEnv.wf (b : BootEnv) : Bool := b.farFrames.length == 4

/-- A BAR access names BAR0 or BAR2 and lies inside the aperture: BAR0 and a VF's BAR2 are 64 KiB, the PF's BAR2 is
1 MiB (R65, R67, Table 7 of ch. 02). -/
def barSize (fn : Fn) (bar : Nat) : Nat :=
  if bar = 0 then 0x10000 else if bar = 2 then (if fn = 0 then 0x100000 else 0x10000) else 0

/-- Well-formed commands. -/
def Instr.wf : Instr → Bool
  | .barWrite fn bar off bytes => 0 < bytes.length && off + bytes.length ≤ barSize fn bar
  | .poisonedTlp fn bar off => off < barSize fn bar
  | .oversizeBarRead fn bar off size => off + size ≤ barSize fn bar && (8 < size || off % 8 + size > 8)
  | .memHostRegister _ _ addrs => addrs.length ≤ 500
  | .tierSet _ _ _ shares _ => shares.length == 5
  | .stepSubmit _ _ o => o.wf
  | .fastpathArm _ _ _ o => o.wf
  | .kvSpaceCreate _ _ o => o.regions.length ≤ 3
  | .ownerEnroll _ _ key sig => key.length == 133 && (sig.length == 0 || sig.length == 132)
  | .fwRecover _ _ _ _ key => key.length == 0 || key.length == 133
  | .tickEdge env => env.wf
  | .dataFlit _ _ f => f.wf
  | .idleFlit _ _ f => f.wf
  | .nak _ _ f => f.wf
  | .farPortEnumerated _ frames _ => frames ≤ 524288
  | .powerOn env => env.wf
  | .resetN _ env => env.wf
  | .perstN _ env => env.wf
  | .bmcRead _ off count => off < 2 ^ 24 && 0 < count && count ≤ 255
  | _ => true

end Sys2Proof
end

