-- ==== Sys2Proof/Tests/Slice0.lean ====
section
/-!
SUPPORT. Tests: terms that WellFormed refuses, one step of some commands against the spec's figures, and for each
statement with hypotheses a theorem witness_<Name> that shows states and operands which meet the hypotheses of each clause.
-/
set_option Elab.async false
namespace Sys2Proof.Tests
open Sys2Proof.Machine Sys2Proof.Safety

/-! ## Answers that exist -/

def okD {α : Type} (e : Except Nat α) (d : α) : α := match e with | .ok a => a | .error _ => d
def isOk {α : Type} (e : Except Nat α) : Bool := match e with | .ok _ => true | .error _ => false
theorem ok_okD {α : Type} (e : Except Nat α) (d : α) (h : isOk e = true) : e = .ok (okD e d) := by
  cases e with
  | ok a => rfl
  | error c => cases h
theorem some_getD {α : Type} (o : Option α) (d : α) (h : o.isSome = true) : o = some (o.getD d) := by
  cases o with
  | some a => rfl
  | none => cases h

theorem all_of {α : Type} {p : α → Prop} [DecidablePred p] (l : List α) (h : (l.all fun a => decide (p a)) = true) : ∀ a ∈ l, p a := by
  intro a ha
  exact of_decide_eq_true (List.all_eq_true.mp h a ha)

/-! ## Small states -/

/-- A descriptor of `n` elements of format `f` in the unified range. -/
def desc (addr f n : Nat) : DescWord :=
  BitVec.ofNat 512 (addr ||| f <<< 54 ||| 1 <<< 59 ||| n <<< 192 ||| 1 <<< 216 ||| 1 <<< 240 ||| 1 <<< 264 ||| 1 <<< 288 ||| 1 <<< 312)

/-- A partition descriptor: quad CD0.Q0, four banks, all stacks, all codec pairs, port 0, 4,096 frames of T1 and T2. -/
def pdesc : BitVec 1024 :=
  BitVec.ofNat 1024 (4096 <<< 604 ||| 4096 <<< 622 ||| 0xFFFF <<< 644 ||| 0xFFF <<< 660 ||| 1 <<< 720 ||| 0xF <<< 832 ||| 0xFF <<< 896)

/-- A page of T1 of partition 0. -/
def page (obj g : Nat) : Nat × TierEntry := (g, { tier := 1, part := 0, object := obj, cls := 3, frame := g, use := 0 })

/-- An object of eight pages, normal class. -/
def o0 : MemObject := { first := 0, pages := 8, cls := 3 }

/-- Partition 0 with that object. -/
def x0 : Partition := { desc := pdesc, objects := [(0, o0)], t1Quota := 4096, t2Quota := 4096 }

/-- The state after reset with partition 0 cast on as `x`, and VF Enable set. -/
def at0 (x : Partition) : State :=
  { State.reset with host.vfEnable := true, parts := [(0, x)], tiers.map := (List.range 8).map (page 0) }

def st0 : State := at0 x0

/-- A message through the PF on partition 0. -/
def hdr0 : Hdr := { part := some 0 }

/-- Function f with these registers. -/
def withFn (f : Nat) (y : FnState) : State := { st0 with host.fns := [(f, y)] }

def ring0 : Ring := { base := 0, entries := 64, writeback := 0, k := 1, t := 0 }

/-- A handle of partition 0, kind k. -/
def h0 (k seq : Nat) : Nat := handleWord 0 k seq 1

def rec0 (k : Nat) (op : LongOp) (state : HState := .pending) : HandleRec :=
  { fn := 0, cookie := 0, cvec := 0xFFFF, part := some 0, kind := k, op := op, state := state }

/-- A state with one handle. -/
def withHandle (h : Nat) (r : HandleRec) (s : State := st0) : State := { s with steward.handles := [(h, r)] }

/-- A message of one operand word in the window of function f, with tag 7. -/
def winState (f w arg : Nat) : State :=
  st0.write (.window f) 0 (leBytes 8 (w ||| 7 <<< 32 ||| 1 <<< 48) ++ leBytes 8 0 ++ leBytes 8 0xFFFF ++ leBytes 8 0 ++ leBytes 8 arg)

def grp (source : Nat) : State := { st0 with links.group := BitVec.ofNat 128 (source <<< 50) }

/-- A latched first fault. -/
def flt : State := { st0 with collector.first := { valid := true, code := 0x0801, tick := 1 } }

def run0 : Step := { job := 0, state := .running, epoch := 1 }

def held0 : Partition := { x0 with steps := [(h0 1 1, { run0 with holds := [0] })] }
def xpin : Partition := { x0 with objects := [(0, { first := 0, pages := 8, cls := 0 })] }
def xro : Partition :=
  { x0 with objects := [(0, { first := 0, pages := 1, cls := 3, readOnly := true, backing := some (desc 0x400000 0 8) })] }
def rest0 : State := { at0 xro with tiers.map := [(0, { (page 0 0).2 with restoring := true })] }
def t2st : State := { st0 with tiers.map := [(0, { (page 0 0).2 with tier := 2 })] }
def mv0 : Move := { page := 0, tier := 2, kind := .demotion, started := true }

def fault0 (sev : Nat) (parts : List Nat) : FaultIn := { code := 0x0801, cls := 0, sev := sev, parts := parts }

/-- A state with core c, port i, pair i, compute die d or a steward of this kind. -/
def withCore (c : Nat) (y : Core) (s : State := st0) : State := { s with cores.cores := [(c, y)] }
def withPort (i : Nat) (y : Port) (s : State := st0) : State := { s with links.ports := [(i, y)] }
def withPair (i : Nat) (y : Pair) (s : State := st0) : State := { s with pairs := [(i, y)] }
def withCd (d : Nat) (y : Cd) (s : State := st0) : State := { s with cores.cds := [(d, y)] }
def withSteward (f : Steward → Steward) (s : State := st0) : State := { s with steward := f s.steward }
def withTrust (f : Trust → Trust) (s : State := st0) : State := { s with trust := f s.trust }

def safe0 : State := { st0 with collector.safe := true }
def up0 : Port := { state := .up4, lanes := 0xF }

/-- A flit whose CRC is right. -/
def flitOf (h : BitVec 192) (p : List Byte) : Flit := { header := h, payload := p, crc := flitCrc { header := h, payload := p, crc := 0 } }
theorem flitOf_crc (h : BitVec 192) (p : List Byte) : flitCrc (flitOf h p) = (flitOf h p).crc := rfl
def flit (h : BitVec 192) : Flit := flitOf h (List.replicate 608 0)
theorem flit_crc (h : BitVec 192) : flitCrc (flit h) = (flit h).crc := flitOf_crc h _

def sess0 (kind : Nat) : Session := { kind := kind, cls := 1, pairs := [0], handle := h0 4 1 }
def noImage : FwImage := ⟨[], []⟩
def key0 : List Byte := 4 :: List.replicate 132 0
def recovery0 : State := withSteward fun z => { z with life := .recovery }

/-- A pattern for one core that signals a semaphore, a job of class c on it, and partition 0 with both. -/
def pat0 : PatternImage := { cores := 1, lanes := 1, accFoot := 0, spFoot := 1, sems := [(0, 0)], lists := [[{ op := .signal 0 }]] }
def job0 (c : Nat) : Job := { pattern := 0, cls := c, quads := 1, banks := 0, weight := 1, slice := 1, ctx := desc 0 0 8 }
def xj (j : Job) : Partition := { xpin with patterns := [(0, pat0)], jobs := [(0, j)] }

/-- That job's step, with its handle. -/
def xs (st : Step) (j : Job := job0 1) : Partition := { xj j with steps := [(h0 1 1, st)] }
def stepIn (st : Step) (j : Job := job0 1) : State := withHandle (h0 1 1) (rec0 1 .step) (at0 (xs st j))
def busy0 : State := withCore 0 { step := some (h0 1 9) } (at0 (xj (job0 1)))
def hdrS : Hdr := { hdr0 with target := w64 (h0 1 1) }
def saved0 : Saved := { step := h0 1 1, part := 0, slot := 0, lanes := [], inSlot := true }

def m48 : DescWord := desc 0x400000 0x0C 16
def f32d : DescWord := desc 0x401000 0 16
def bankOps0 : BankOps :=
  { header := 0, elements := 16, opt := 0, work := 0, wfmt := 0, w0 := m48, w1 := m48, m0 := f32d, m1 := f32d, v0 := f32d, v1 := f32d, init := f32d }
def bank0 : Bank :=
  { header := 0, elements := 16, opt := 0, work := false, wfmt := 0, w := (m48, m48), m := (f32d, f32d), v := (f32d, f32d), k := (0, 0) }
def xb : Partition := { x0 with banks := [(0, bank0)] }
def xbh : Partition := { xb with steps := [(h0 1 1, { run0 with banks := [{ bank := 0 }] })] }

/-- A step with a record at offset 64 of the log. -/
def logged0 : Step := { run0 with state := .committed, record := some 64, log := some 0 }
def xlog : Partition := { xs logged0 with log := some { addr := 0, size := 2 ^ 20 }, logs := [(0, { addr := 0, size := 2 ^ 20 })] }
/-- A finished step whose log stands in a lost page. -/
def logRun : Step := { run0 with log := some 0 }
def lostLog : State :=
  { withCore 0 { step := some (h0 1 1), lanes := [(0, { finished := true })] } (withHandle (h0 1 1) (rec0 1 .step)
      (at0 { xs logRun with logs := [(0, { addr := 0, size := 2 ^ 20 })] })) with tiers.map := [(0, { (page 0 0).2 with lost := true })] }
def logst : State := (at0 xlog).write .unified 72 (leBytes 8 (h0 1 1))

/-- A peloton of two members: rank 0, VC 0 for reductions, substitution by ring order, 16 credits. -/
def hp : BitVec 512 :=
  BitVec.ofNat 512 (1 <<< 484 ||| 1 <<< 448 ||| 2 <<< 444 ||| 1 <<< 442 ||| 0xFFF <<< 392 ||| 16 <<< 382)
def pel0 : Peloton :=
  { header := hp, members := [5 <<< 48, 6 <<< 48], shards := [0, 0], layout := 0, desc16 := 0, window := 1, peerLimit := 2, latePolicy := 0,
    thin := 0, headroom := 0 }
def xp (q : Peloton) : Partition := { x0 with pelotons := [(0, q)] }

/-- LINK_ID 5, port 0 enabled. -/
def linked (s : State) : State := { s with links.group := BitVec.ofNat 128 (5 <<< 112 ||| 1 <<< 96) }
def pelMem : State := (linked st0).write .unified 0 (leBytes 64 hp.toNat ++ leBytes 8 (5 <<< 48) ++ leBytes 8 (6 <<< 48))
def xpBusy : Partition := { xs run0 with pelotons := [(0, pel0)], patterns := [(0, { pat0 with bindings := [.call 0] })] }
def msg (t : Nat) (h : BitVec 512) : CollMsg := { mtype := t, header := h }
def lapped (l : Lap) (m : CollMsg) : Peloton := { pel0 with lap := some l, inbox := [m] }
def chunks2 : DescWord := desc 0x402000 0x0E 2
def pair0 : ReshardPair := { oldShard := f32d, newShard := f32d, oldChunks := chunks2, newChunks := chunks2 }

/-- An FP8 tensor of rank 4: one plane of 16 channels, one frame of 8 by 8. -/
def act4 : DescWord :=
  BitVec.ofNat 512 (0x400000 ||| 2 <<< 54 ||| 4 <<< 59 ||| 16 <<< 192 ||| 8 <<< 216 ||| 8 <<< 240 ||| 1 <<< 264 ||| 1 <<< 288 ||| 1 <<< 312 |||
    32 <<< 336 ||| 256 <<< 371 ||| 2048 <<< 406)
def actWord (decode : Nat) : BitVec 512 := BitVec.ofNat 512 (4096 <<< 448 ||| 8 <<< 384 ||| decode <<< 377 ||| 0x1FF <<< 368)
def actSess : Session := { sess0 3 with spillSize := 1 <<< 20 }
def xc (e : Session) : Partition := { x0 with sessions := [(0, e)] }
def words (addr n : Nat) : DescWord := desc addr 0x0E n
def act0 (decode : Nat) : ActCall :=
  { word := actWord decode, src := act4, dst := words 0 1024, ref := words 0x10000 512, bound := words 0x20000 1, session := 0, dry := true }
def xact : Partition := { xc actSess with calls := [(0, act0 1)] }
def actSpill : Nat × State := ((takeSpill 0 (awSession (actWord 0)) (spillBytes actSess false (actWord 0) act4) (at0 (xc actSess))).getD (0, st0))
theorem actSpill_taken :
    takeSpill 0 (awSession (actWord 0)) (spillBytes actSess false (actWord 0) act4) (at0 (xc actSess)) = some actSpill :=
  some_getD (takeSpill 0 (awSession (actWord 0)) (spillBytes actSess false (actWord 0) act4) (at0 (xc actSess))) (0, st0) (by decide +kernel)
def openSpill : CodecOpenOps := { kind := 3, cls := 3, pairs := 0x8000 }

/-- Partition 0 whose pages are pinned in T1, a KV space in it, and that space with one open sequence. -/
def pinned0 (x : Partition) : State := { at0 x with tiers.map := (List.range 8).map fun g => (g, { (page 0 g).2 with cls := 0 }) }
def kv0 : KvSpace :=
  { control := 0, layers := 1, kvHeads := 1, dh := 1, format := 1, regions := [{ tier := 1, base := 0x400000, pages := 4 }], maxSeq := 2, maxPages := 2,
    prefixOn := true, prefixMax := 4, salt := 0 }
def seq0 : KvSeq := { runHash := runStart 0, tailHash := 0 }
def kv1 (q : KvSeq) : KvSpace := { kv0 with seqs := [(0, q)] }
def xk (k : KvSpace) : Partition := { xpin with spaces := [(0, k)] }
def kvOps0 : KvSpaceOps :=
  { control := words 0 0x100000, layers := 1, kvHeads := 64, dh := 128, format := 3, regions := [{ tier := 1, desc := words 0x400000 0x100000, pages := 1 }],
    maxSeq := 1, maxPages := 1, prefixOn := 1, prefixMax := 4, salt := 0 }
def pfx0 : PrefixEntry := { hash := blockHash 0 [] 0, page := 0, part := 0, space := 0, parent := 0, root := true, committed := true }

/-- A step at an entry that does `op`, on lane 0 of core 0. -/
def patOf (op : EntryOp) : PatternImage :=
  { pat0 with locks := 1, bindings := [.desc f32d], merges := [{ num := 0, kind := .sum, slots := [0] }], lists := [[{ op := op }]] }
def xop (op : EntryOp) (st : Step := run0) : Partition := { xs st with patterns := [(0, patOf op)] }
def standing (op : EntryOp) (x : Partition) : State :=
  withCore 0 { step := some (h0 1 1), lanes := [(0, {})] } (withHandle (h0 1 1) (rec0 1 .step) (at0 { x with patterns := [(0, patOf op)] }))
def sop (op : EntryOp) : State := standing op (xop op)
def xlock (op : EntryOp) (k : Lock) : Partition := { xop op with locks := [(448, k)] }


/-- The entry of `op` in progress on lane 0 of core 0, in the step `st`. -/
def startedOp (op : EntryOp) (y : Core) (x : Partition) : State :=
  withCore 0 { y with step := some (h0 1 1), lanes := [(0, { started := true })] } (standing op x)
def arr0 : ArrayStitch := { mode := 0, act := 0, wt := 0, tokens := 0, passes := 0, firstRow := 0 }
def sample0 : Sample := { tensor := 0, wfmt := 0, afmt := 0, captured := [], reference := [] }
def pre0 : EntryOp := .mover 0 0 0 none (some { layer := 0, need := 0, slack := 0 })
def stage0 : SeqStage := { space := 0, seq := 0, tokens := 0, pages := [], table := [] }
def tens0 : Tensor := { d := f32d }
def tab (b : List Binding) : Step := { run0 with table := b }

/-- A call of peloton 0 in the scatter of its pass 1, and the step that does it. -/
def scat0 : CallRun := { call := 0, word := 0, core := 0, issued := true, phase := .scatter }
def mark0 : PelMark := { num := 0, layout := 0, sync := 0, window := 1, peerLimit := 2, latePolicy := 1, thin := 0, headroom := 0 }
def xcall (c : CallRun) (q : Peloton) (k : PelMark := mark0) : Partition :=
  { xs { run0 with calls := [c], table := [.desc f32d], pelotons := [k] } with pelotons := [(0, q)] }
def inboxed (m : CollMsg) (q : Peloton := pel0) : Peloton := { q with inbox := [m] }
def substMode : Peloton := { pel0 with header := hp ^^^ (3 <<< 442) }
def smsg (t : Nat) (h : BitVec 512) : CollMsg := { msg t h with stepEpoch := 1 }
def came (m : CollMsg) (c : CallRun := scat0) : State := at0 (xcall c (inboxed m))
def took (t : Nat) (s : State) : CollMsg × CollHead × Nat × CallRun × Peloton × State :=
  (takeMessage 0 0 t s).getD (msg 0 0, {}, 0, scat0, pel0, s)
theorem took_eq (p t : Nat) (s : State) (hp : p = 0) (h : (takeMessage 0 0 t s).isSome = true) :
    takeMessage p 0 t s = some ((took t s).1, (took t s).2.1, (took t s).2.2.1, (took t s).2.2.2.1, (took t s).2.2.2.2.1, (took t s).2.2.2.2.2) := by
  subst hp; exact some_getD _ _ h

/-- A forward walk of an attention word that waits for its ring message. -/
def ringCore (w : Walk) : Core := { step := some (h0 1 1), lanes := [(0, { started := true, waitOn := some .ring })], walk := [(0, w)] }
def ringState (t : Nat) (w : Walk) : State :=
  withCore 0 (ringCore w) (at0 { xop (.walk 0) (tab [.attn (1 <<< 448), .desc f32d]) with patterns := [(0, patOf (.walk 0))], pelotons := [(0, inboxed (smsg t 0))] })
/-- The message of `came` is the one its call takes. -/
theorem came_comes (m : CollMsg) (c : CallRun) (mtype : Nat) (hm : m.mtype = mtype)
    (hr : runningStepOf (xcall c (inboxed m)) m.stepEpoch (readHead m.header).attempt = some (h0 1 1))
    (hc : callOf (came m c) (h0 1 1) 0 (readHead m.header).call = some c) (hp : c.phase = .scatter)
    (hs : mtype = 0x10 ∨ mtype = 0x11 → (readHead m.header).pass = c.pass) :
    Comes (came m c) 0 0 mtype m (h0 1 1) c (inboxed m) :=
  ⟨xcall c (inboxed m), [], [], rfl, rfl, rfl, by simp, hm, hr, hc, hp, hs⟩

def m10 : CollMsg := smsg 0x10 (1 <<< 228 ||| 2 <<< 200)
def c10 : CallRun := { scat0 with pass := 2 }
def m11 : CollMsg := smsg 0x11 (1 <<< 200)
def m15 : CollMsg := smsg 0x15 0
def m16 : CollMsg := smsg 0x16 0
def ringA : AWord := 1 <<< 448
def pel4 : Peloton := { pel0 with header := hp ||| (2 <<< 484) }

def isNext (o : Host.Outcome State Fault Refusal) : Bool := match o with | .next _ => true | _ => false
def nextD (o : Host.Outcome State Fault Refusal) (d : State) : State := match o with | .next t => t | _ => d
theorem next_nextD (o : Host.Outcome State Fault Refusal) (d : State) (h : isNext o = true) : o = .next (nextD o d) := by
  cases o with
  | next t => rfl
  | fault r => cases h
  | refused r => cases h

/-! ## Terms that WellFormed refuses, one for each check -/

theorem test_wf_bar_write_empty : (Instr.barWrite 0 0 0 []).wf = false := by decide
theorem test_wf_bar_write_past_aperture : (Instr.barWrite 0 0 0xFFF9 (List.replicate 8 0)).wf = false := by decide
theorem test_wf_bar_write_no_bar : (Instr.barWrite 0 4 0 [0]).wf = false := by decide
theorem test_wf_poisoned_tlp : (Instr.poisonedTlp 1 2 0x10000).wf = false := by decide
theorem test_wf_oversize_read : (Instr.oversizeBarRead 0 0 0 8).wf = false := by decide
theorem test_wf_oversize_read_straddles : (Instr.oversizeBarRead 0 0 4 8).wf = true := by decide
theorem test_wf_host_register : (Instr.memHostRegister 0 hdr0 (List.replicate 501 0)).wf = false := by decide +kernel
theorem test_wf_tier_set : (Instr.tierSet 0 hdr0 0 [0, 0, 0, 0] 0).wf = false := by decide
theorem test_wf_step_submit : (Instr.stepSubmit 0 hdr0 { job := 0, words := List.replicate 9 0 }).wf = false := by decide
theorem test_wf_fastpath_arm : (Instr.fastpathArm 0 hdr0 0 { job := 0, words := List.replicate 9 0 }).wf = false := by decide
theorem test_wf_kv_space_create :
    (Instr.kvSpaceCreate 0 hdr0 { kvOps0 with regions := List.replicate 4 { tier := 1, desc := 0, pages := 1 } }).wf = false := by decide +kernel
theorem test_wf_owner_enroll_key : (Instr.ownerEnroll 0 hdr0 (List.replicate 132 0) []).wf = false := by decide +kernel
theorem test_wf_owner_enroll_signature : (Instr.ownerEnroll 0 hdr0 key0 (List.replicate 64 0)).wf = false := by decide +kernel
theorem test_wf_fw_recover : (Instr.fwRecover 0 hdr0 0 0 [4]).wf = false := by decide
theorem test_wf_tick_edge : (Instr.tickEdge { hot := [20] }).wf = false := by decide
theorem test_wf_data_flit : (Instr.dataFlit 0 true { header := 0, payload := [], crc := 0 }).wf = false := by decide
theorem test_wf_idle_flit : (Instr.idleFlit 0 true { header := 0, payload := [], crc := 0 }).wf = false := by decide
theorem test_wf_nak : (Instr.nak 0 true { header := 0, payload := [], crc := 0 }).wf = false := by decide
theorem test_wf_far_port : (Instr.farPortEnumerated 0 524289 true).wf = false := by decide
theorem test_wf_power_on : (Instr.powerOn { farFrames := [0] }).wf = false := by decide
theorem test_wf_reset_n : (Instr.resetN 0 { farFrames := [0] }).wf = false := by decide
theorem test_wf_perst_n : (Instr.perstN 0 { farFrames := [0] }).wf = false := by decide
theorem test_wf_bmc_read : (Instr.bmcRead 0 0 256).wf = false := by decide

/-! ## The spec's own figures -/

/-- The check value of R216 over the ASCII string "123456789". -/
theorem test_crc64_check_value : crc64 [0x31, 0x32, 0x33, 0x34, 0x35, 0x36, 0x37, 0x38, 0x39] = 0x6C40DF5F0B497347 := by decide +kernel

/-- The handle 0x3100_0000_2A41_0007 of ch. 02: partition 3, kind 1, sequence 10,817, generation 7. -/
theorem test_handle_of_chapter_02 : handleWord 3 1 10817 7 = 0x310000002A410007 := by decide +kernel

/-- The block of ch. 03 narrowed to MXFP4: 5.3, -1.2, 0.3, 2.5, 0.75, 5.0, -0.2, 1.75 and 24 of 0.1. -/
def block03 : BlockOut :=
  narrowBlock 0x08 0 0 none
    (([0x40A9999A, 0xBF99999A, 0x3E99999A, 0x40200000, 0x3F400000, 0x40A00000, 0xBE4CCCCD, 0x3FE00000] ++ List.replicate 24 0x3DCCCCCD : List W32).map f32) []

theorem test_mxfp4_codes : block03.codes = [0x7, 0xA, 0x1, 0x4, 0x2, 0x6, 0x8, 0x4] ++ List.replicate 24 0 := by decide +kernel
theorem test_mxfp4_scale : block03.scale = 0x7F := by decide +kernel
theorem test_mxfp4_underflows : block03.cnt.und = 25 ∧ block03.cnt.sat = 0 ∧ block03.cnt.nonfin = 0 := by decide +kernel

/-- 0.75 + 3.0e-9 in M48 (ch. 03): the FP32 word stays 0x3F40_0000 and the tail becomes 0x0CE3. -/
theorem test_m48_keeps_small_update :
    (narrow 0x0C 0 0 (Val.add (codeVal 0x0C 0x3F4000000000) (f32 0x314E288F))).1 = 0x3F4000000CE3 := by decide +kernel

/-- The same sum in FP32 rounds back to 0.75. -/
theorem test_fp32_loses_small_update : (narrow 0x00 0 0 (Val.add (f32 0x3F400000) (f32 0x314E288F))).1 = 0x3F400000 := by decide +kernel

/-- R401's ordering and three samples at k = 2 (ch. 10). -/
theorem test_ordered_codes : ordv 0x4E = 78 ∧ ordv 0x47 = 71 ∧ ordv 0xCC = -77 ∧ unord 76 = 0x4C ∧ unord (-79) = 0xCE := by decide
theorem test_three_samples : quantise 2 7 = 1 ∧ quantise 2 5 = 1 ∧ quantise 2 (-3) = -1 := by decide

/-- Ch. 16: a ceiling of 0x0140 boots as GENERATION 0x0141, and 0x0180 as 0x0181. -/
theorem test_boot_generation :
    bootGeneration { genCeil := [(3, 0x0140)] } 3 = 0x0141 ∧ bootGeneration { genCeil := [(3, 0x0180)] } 3 = 0x0181 := by decide +kernel

/-! ## One step -/

def after (c : Instr) (s : State) : State := nextD (step { s with pending := [c] }) s

/-- An empty queue idles. -/
theorem test_idle : step State.reset = .next State.reset := rfl
/-- A tag written to MBX_DOORBELL with no message in the window is answered in the window's status (R71). -/
theorem test_doorbell_takes_the_command : (after (.mbxDoorbell 0 7) st0).pending = [] := by decide +kernel
theorem test_vf_enable : (after .vfEnableSet State.reset).host.vfEnable = true := by decide +kernel
theorem test_tick_counts : (after (.tickEdge {}) st0).steward.tick = 1 := by decide +kernel

/-- The dip of ch. 15: rail 1 falls, so die 1 alone heads for gear 7 and its first step is 15 to 14. -/
theorem test_dip_gears_one_die :
    (cdOf (after (.supplyDip 1 741) st0) 1).target = 7 ∧ (cdOf (after (.supplyDip 1 741) st0) 0).target = 15 := by decide +kernel
theorem test_first_gear_step : (cdOf (after (.gearStep 1) (after (.supplyDip 1 741) st0)) 1).gear = 14 := by decide +kernel

/-- MEM_ALLOC of zero pages answers REFUSED_BAD_MESSAGE (0x0201) in the window's reply. -/
theorem test_alloc_of_no_pages : (after (.memAlloc 0 hdr0 0 3 0 0) st0).read (.window 0) 6 2 = [0x01, 0x02] := by decide +kernel

/-! ## Witnesses of the statements' hypotheses -/

theorem witness_StepRunsTheFrontCommand :
    ∃ (s : State) (c : Instr) (rest : List Instr), s.pending = c :: rest := by
  refine ⟨{ State.reset with pending := [.vfEnableSet] }, .vfEnableSet, [], ?_⟩
  all_goals (repeat' (first | assumption | apply And.intro | exact all_of _ (by decide +kernel) | (unfold UnifiedOk; exact all_of _ (by decide +kernel)) | decide +kernel | (unfold Room; decide +kernel) | (unfold UnifiedOk; decide +kernel) | exact Or.inl (by decide +kernel) | exact ok_okD _ _ (by decide +kernel) | exact some_getD _ _ (by decide +kernel) | rfl | exact ⟨_, rfl⟩ | exact ⟨_, _, _, rfl⟩ | exact ⟨_, _, _, _, rfl⟩ | exact Or.inl ⟨_, _, _, rfl⟩ | (intro e; exact absurd e (by decide +kernel))))

theorem witness_EmptyQueueIdles :
    ∃ s : State, s.pending = [] := by
  refine ⟨State.reset, ?_⟩
  all_goals (repeat' (first | assumption | apply And.intro | exact all_of _ (by decide +kernel) | (unfold UnifiedOk; exact all_of _ (by decide +kernel)) | decide +kernel | (unfold Room; decide +kernel) | (unfold UnifiedOk; decide +kernel) | exact Or.inl (by decide +kernel) | exact ok_okD _ _ (by decide +kernel) | exact some_getD _ _ (by decide +kernel) | rfl | exact ⟨_, rfl⟩ | exact ⟨_, _, _, rfl⟩ | exact ⟨_, _, _, _, rfl⟩ | exact Or.inl ⟨_, _, _, rfl⟩ | (intro e; exact absurd e (by decide +kernel))))

theorem witness_StepKeepsMemoryCanonical :
    ∃ s t : State, MemOk s ∧ step s = .next t := by
  refine ⟨{ State.reset with pending := [.vfEnableSet] }, { State.reset with host.vfEnable := true }, ?_⟩
  all_goals (repeat' (first | assumption | apply And.intro | exact all_of _ (by decide +kernel) | (unfold UnifiedOk; exact all_of _ (by decide +kernel)) | decide +kernel | (unfold Room; decide +kernel) | (unfold UnifiedOk; decide +kernel) | exact Or.inl (by decide +kernel) | exact ok_okD _ _ (by decide +kernel) | exact some_getD _ _ (by decide +kernel) | rfl | exact ⟨_, rfl⟩ | exact ⟨_, _, _, rfl⟩ | exact ⟨_, _, _, _, rfl⟩ | exact Or.inl ⟨_, _, _, rfl⟩ | (intro e; exact absurd e (by decide +kernel))))

theorem witness_HostRegistersAndBars :
    (∃ (fn : Fn) (v : W64) (s : State), reaches s fn = true ∧ bitAt v 1 = true) ∧
    (∃ (fn : Fn) (v : W64) (s : State), reaches s fn = true ∧ bitAt v 1 = false) ∧
    (∃ (fn : Fn) (v : W64) (s : State) (r : Ring), reaches s fn = true ∧ (fnOf s fn).ring = some r ∧ s.collector.safe = false ∧ v.toNat < r.entries ∧ v.toNat < 2 ^ 16 ∧ (v.toNat + r.entries - (fnOf s fn).head) % r.entries ≤ ((fnOf s fn).tail + r.entries - (fnOf s fn).head) % r.entries) ∧
    (∃ (fn : Fn) (v : W64) (s : State), reaches s fn = true ∧ (fnOf s fn).ring = none) ∧
    (∃ (fn : Fn) (offset : Nat) (bs : List Byte) (s : State), reaches s fn = true ∧ (fnOf s fn).busy = false ∧ offset + bs.length ≤ 0x1000) ∧
    (∃ (fn : Fn) (offset : Nat) (bs : List Byte) (s : State), reaches s fn = true ∧ (fnOf s fn).busy = true ∧ offset + bs.length ≤ 0x1000) ∧
    (∃ (fn : Fn) (offset : Nat) (bs : List Byte) (s : State), reaches s fn = true ∧ offset + bs.length ≤ 0x10000) ∧
    (∃ (fn : Fn) (bar offset : Nat) (bs : List Byte) (s : State), reaches s fn = true ∧ barSize fn bar < offset + bs.length) ∧
    (∃ (fn : Fn) (bar offset size : Nat) (s : State), reaches s fn = true ∧ offset + size ≤ barSize fn bar ∧ (8 < size ∨ 8 < offset % 8 + size)) ∧
    (∃ (fn : Fn) (bar offset : Nat) (s : State), reaches s fn = true ∧ offset < barSize fn bar) ∧
    (∃ (fn : Fn) (v : W16) (s : State), Running s ∧ tget (fnOf s fn).waiting v.toNat 0 ≠ 0) := by
  refine ⟨⟨0, 2, st0, ?_⟩,
    ⟨16, 0, st0, ?_⟩,
    ⟨0, 63, withFn 0 { ring := some ring0, head := 0, tail := 63 }, ring0, ?_⟩,
    ⟨1, 0, st0, ?_⟩,
    ⟨0, 0xFF8, List.replicate 8 0, st0, ?_⟩,
    ⟨0, 0xFF8, List.replicate 8 0, withFn 0 { busy := true }, ?_⟩,
    ⟨0, 0xFFF8, List.replicate 8 0, st0, ?_⟩,
    ⟨1, 2, 0xFFF9, List.replicate 8 0, st0, ?_⟩,
    ⟨0, 2, 0xFFFF0, 16, st0, ?_⟩,
    ⟨0, 2, 0xFFFFF, st0, ?_⟩,
    ⟨0, 5, withFn 0 { waiting := [(5, 1)] }, ?_⟩⟩
  all_goals (repeat' (first | assumption | apply And.intro | exact all_of _ (by decide +kernel) | (unfold UnifiedOk; exact all_of _ (by decide +kernel)) | decide +kernel | (unfold Room; decide +kernel) | (unfold UnifiedOk; decide +kernel) | exact Or.inl (by decide +kernel) | exact ok_okD _ _ (by decide +kernel) | exact some_getD _ _ (by decide +kernel) | rfl | exact ⟨_, rfl⟩ | exact ⟨_, _, _, rfl⟩ | exact ⟨_, _, _, _, rfl⟩ | exact Or.inl ⟨_, _, _, rfl⟩ | (intro e; exact absurd e (by decide +kernel))))

theorem witness_DoorbellRunsTheWindow :
    (∃ (fn : Fn) (v : W64) (s : State), Running s ∧ fnExists s fn = true ∧ (fnOf s fn).busy = false ∧ requestOk (s.readNat (.window fn) 0 32) v = true ∧ s.readNat (.window fn) 0 32 % 2 ^ 32 = 0x00200001 ∧ cvecOk fn (windowHdr fn (s.readNat (.window fn) 0 32) (s.read (.window fn) 0 32)) = true) ∧
    (∃ (v : W64) (s : State), Running s ∧ fnExists s 0 = true ∧ (fnOf s 0).busy = false ∧ requestOk (s.readNat (.window 0) 0 32) v = true ∧ s.readNat (.window 0) 0 32 % 2 ^ 32 = 0x00280020 ∧ cvecOk 0 (windowHdr 0 (s.readNat (.window 0) 0 32) (s.read (.window 0) 0 40)) = true ∧ 100 ≤ s.readNat (.window 0) 32 8 ∧ s.readNat (.window 0) 32 8 ≤ 2000 ∧ lgSource s.links.group = 0) ∧
    (∃ (fn : Fn) (v : W64) (s : State), Running s ∧ fnExists s fn = true ∧ (fnOf s fn).busy = true) ∧
    (∃ (fn : Fn) (v : W64) (s : State), Running s ∧ fnExists s fn = true ∧ (fnOf s fn).busy = false ∧ requestOk (s.readNat (.window fn) 0 32) v = false ∧ s.readNat (.window fn) 0 32 % 65536 ≠ 0x0710) := by
  refine ⟨⟨1, 7, winState 1 0x00200001 0, ?_⟩,
    ⟨7, winState 0 0x00280020 100, ?_⟩,
    ⟨0, 0, withFn 0 { busy := true }, ?_⟩,
    ⟨0, 0, st0, ?_⟩⟩
  all_goals (repeat' (first | assumption | apply And.intro | exact all_of _ (by decide +kernel) | (unfold UnifiedOk; exact all_of _ (by decide +kernel)) | decide +kernel | (unfold Room; decide +kernel) | (unfold UnifiedOk; decide +kernel) | exact Or.inl (by decide +kernel) | exact ok_okD _ _ (by decide +kernel) | exact some_getD _ _ (by decide +kernel) | rfl | exact ⟨_, rfl⟩ | exact ⟨_, _, _, rfl⟩ | exact ⟨_, _, _, _, rfl⟩ | exact Or.inl ⟨_, _, _, rfl⟩ | (intro e; exact absurd e (by decide +kernel))))

theorem witness_FunctionResets :
    (∃ (vf : PartId) (s : State), Running s ∧ reaches s (vf + 1) = true) ∧
    (∃ (vf : PartId) (s : State), live s = false ∧ reaches s (vf + 1) = true) ∧
    (∃ s : State, reaches s 0 = true ∧ s.host.vfEnable = true) ∧
    (∃ s : State, reaches s 0 = true) ∧
    (∃ s : State, Running s ∧ reaches s 0 = true) ∧
    (∃ s : State, Running s ∧ reaches s 0 = true) ∧
    (∃ s : State, Running s) ∧
    (∃ s : State, Running s ∧ reaches s 0 = true) ∧
    (∃ s : State, Running s) ∧
    (∃ (h : Nat) (s : State) (r : HandleRec), getHandle s h = some r) := by
  refine ⟨⟨15, st0, ?_⟩,
    ⟨15, { st0 with collector.safe := true }, ?_⟩,
    ⟨st0, ?_⟩,
    ⟨st0, ?_⟩,
    ⟨st0, ?_⟩,
    ⟨st0, ?_⟩,
    ⟨st0, ?_⟩,
    ⟨st0, ?_⟩,
    ⟨st0, ?_⟩,
    ⟨h0 1 1, withHandle (h0 1 1) (rec0 1 .step), rec0 1 .step, ?_⟩⟩
  all_goals (repeat' (first | assumption | apply And.intro | exact all_of _ (by decide +kernel) | (unfold UnifiedOk; exact all_of _ (by decide +kernel)) | decide +kernel | (unfold Room; decide +kernel) | (unfold UnifiedOk; decide +kernel) | exact Or.inl (by decide +kernel) | exact ok_okD _ _ (by decide +kernel) | exact some_getD _ _ (by decide +kernel) | rfl | exact ⟨_, rfl⟩ | exact ⟨_, _, _, rfl⟩ | exact ⟨_, _, _, _, rfl⟩ | exact Or.inl ⟨_, _, _, rfl⟩ | (intro e; exact absurd e (by decide +kernel))))

theorem witness_SlotDoorbellsAndDmaErrors :
    (∃ (fn : Fn) (i : SlotId) (v : W64) (s : State), Running s ∧ fnExists s fn = true ∧ fld v 63 32 = 0 ∧ (slotOf (fnOf s fn) i.val).state = 1) ∧
    (∃ (fn : Fn) (i : SlotId) (v : W64) (s : State), Running s ∧ fnExists s fn = true ∧ fld v 63 32 ≠ 0) ∧
    (∃ (fn : Fn) (i : SlotId) (v : W64) (s : State), Running s ∧ fnExists s fn = true ∧ fld v 63 32 = 0 ∧ (slotOf (fnOf s fn) i.val).state ≠ 1) ∧
    (∃ (h addr : W64) (s : State) (r : HandleRec), Running s ∧ getHandle s h.toNat = some r ∧ r.op = .none ∧ r.owed = true) := by
  refine ⟨⟨1, 15, 5, withFn 1 { slots := [(15, { state := 1, handle := h0 1 1 })] }, ?_⟩,
    ⟨1, 0, 1 <<< 32, st0, ?_⟩,
    ⟨1, 0, 0, withFn 1 { slots := [(0, { state := 2 })] }, ?_⟩,
    ⟨w64 (h0 2 1), 0, withHandle (h0 2 1) (rec0 2 .none), rec0 2 .none, ?_⟩⟩
  all_goals (repeat' (first | assumption | apply And.intro | exact all_of _ (by decide +kernel) | (unfold UnifiedOk; exact all_of _ (by decide +kernel)) | decide +kernel | (unfold Room; decide +kernel) | (unfold UnifiedOk; decide +kernel) | exact Or.inl (by decide +kernel) | exact ok_okD _ _ (by decide +kernel) | exact some_getD _ _ (by decide +kernel) | rfl | exact ⟨_, rfl⟩ | exact ⟨_, _, _, rfl⟩ | exact ⟨_, _, _, _, rfl⟩ | exact Or.inl ⟨_, _, _, rfl⟩ | (intro e; exact absurd e (by decide +kernel))))

theorem witness_InformationAndSettings :
    (∃ (fn : Fn) (hdr : Hdr) (s : State), answers s = true ∧ Reached s fn hdr) ∧
    (∃ (hdr : Hdr) (s : State), HeardPf s hdr) ∧
    (∃ (hdr : Hdr) (s : State) (r : HandleRec), HeardPf s hdr ∧ getHandle s hdr.target.toNat = some r ∧ handleGen hdr.target.toNat = genOf s (scopeOf (handlePart hdr.target.toNat) (handleKind hdr.target.toNat))) ∧
    (∃ (vf : PartId) (hdr : Hdr) (s : State) (r : HandleRec), Heard s (vfOf vf) hdr ∧ getHandle s hdr.target.toNat = some r ∧ handlePart hdr.target.toNat = vf.val ∧ handleKind hdr.target.toNat < 9 ∧ handleGen hdr.target.toNat = genOf s vf.val) ∧
    (∃ (fn : Fn) (hdr : Hdr) (base entries writeback k t : W64) (s : State), Heard s fn hdr ∧ (∃ i : Fin 11, entries.toNat = 64 * 2 ^ i.val) ∧ base.toNat % 4096 = 0 ∧ writeback.toNat % 8 = 0 ∧ 1 ≤ k.toNat ∧ k.toNat ≤ 64 ∧ t.toNat ≤ 1000 ∧ ((fnOf s fn).ring = none ∨ (openHandles s (fun r => r.fn == fn.val) = [] ∧ (fnOf s fn).overflow = []))) ∧
    (∃ (hdr : Hdr) (v : W64) (s : State), HeardPf s hdr ∧ v.toNat < 64) ∧
    (∃ (hdr : Hdr) (v : W64) (s : State), HeardPf s hdr ∧ 64 ≤ v.toNat) ∧
    (∃ (hdr : Hdr) (period : W64) (s : State), HeardPf s hdr ∧ 100 ≤ period.toNat ∧ period.toNat ≤ 2000 ∧ lgSource s.links.group = 0) ∧
    (∃ (hdr : Hdr) (period : W64) (s : State), HeardPf s hdr ∧ (period.toNat < 100 ∨ 2000 < period.toNat)) ∧
    (∃ (hdr : Hdr) (period : W64) (s : State), HeardPf s hdr ∧ 100 ≤ period.toNat ∧ period.toNat ≤ 2000 ∧ lgSource s.links.group ≠ 0) := by
  refine ⟨⟨16, {}, st0, ?_⟩,
    ⟨{}, st0, ?_⟩,
    ⟨{ target := w64 (h0 1 1) }, withHandle (h0 1 1) (rec0 1 .step), rec0 1 .step, ?_⟩,
    ⟨0, { target := w64 (h0 8 1) }, withHandle (h0 8 1) (rec0 8 .none), rec0 8 .none, ?_⟩,
    ⟨0, {}, 4096, 65536, 8, 64, 1000, st0, ?_⟩,
    ⟨{}, 63, st0, ?_⟩,
    ⟨{}, 64, st0, ?_⟩,
    ⟨{}, 100, st0, ?_⟩,
    ⟨{}, 99, st0, ?_⟩,
    ⟨{}, 2000, grp 1, ?_⟩⟩
  all_goals (repeat' (first | assumption | apply And.intro | exact all_of _ (by decide +kernel) | (unfold UnifiedOk; exact all_of _ (by decide +kernel)) | decide +kernel | (unfold Room; decide +kernel) | (unfold UnifiedOk; decide +kernel) | exact Or.inl (by decide +kernel) | exact ok_okD _ _ (by decide +kernel) | exact some_getD _ _ (by decide +kernel) | rfl | exact ⟨_, rfl⟩ | exact ⟨_, _, _, rfl⟩ | exact ⟨_, _, _, _, rfl⟩ | exact Or.inl ⟨_, _, _, rfl⟩ | (intro e; exact absurd e (by decide +kernel))))

theorem witness_CastOnAndBindOff :
    (∃ (hdr : Hdr) (d : BitVec 1024) (s : State), HeardPf s hdr ∧ Room s 0 ∧ partitionFormOk s d = true ∧ getPart s (fld d 603 600) = none ∧ partitionFits s d = true ∧ genOf s (fld d 603 600) ≠ tget s.trust.inForce.genCeil (fld d 603 600) 64) ∧
    (∃ (hdr : Hdr) (d : BitVec 1024) (s : State), HeardPf s hdr ∧ partitionFormOk s d = true ∧ (getPart s (fld d 603 600)).isSome = true) ∧
    (∃ (hdr : Hdr) (p : PartId) (s : State) (x : Partition), HeardPf s hdr ∧ Room s 0 ∧ getPart s p.val = some x) ∧
    (∃ (p : Nat) (s : State) (x : Partition), getPart s p = some x ∧ (∃ y, getPart (endPartition false p s) p = some y)) := by
  refine ⟨⟨{}, pdesc, State.reset, ?_⟩,
    ⟨{}, pdesc, st0, ?_⟩,
    ⟨{}, 0, st0, x0, ?_⟩,
    ⟨0, st0, x0, ?_⟩⟩
  all_goals (repeat' (first | assumption | apply And.intro | exact all_of _ (by decide +kernel) | (unfold UnifiedOk; exact all_of _ (by decide +kernel)) | decide +kernel | (unfold Room; decide +kernel) | (unfold UnifiedOk; decide +kernel) | exact Or.inl (by decide +kernel) | exact ok_okD _ _ (by decide +kernel) | exact some_getD _ _ (by decide +kernel) | rfl | exact ⟨_, rfl⟩ | exact ⟨_, _, _, rfl⟩ | exact ⟨_, _, _, _, rfl⟩ | exact Or.inl ⟨_, _, _, rfl⟩ | (intro e; exact absurd e (by decide +kernel))))

theorem witness_CounterWordsAndSnapshots :
    (∃ (hdr : Hdr) (counter word : W64) (s : State), HeardPf s hdr ∧ counter.toNat < 128 ∧ ctrWordOk false word = true) ∧
    (∃ (hdr : Hdr) (scope counter word : W64) (s : State), HeardPf s hdr ∧ scope.toNat < 208 ∧ counter.toNat < 16 ∧ ctrWordOk true word = true) ∧
    (∃ (vf : PartId) (hdr : Hdr) (scope counter word : W64) (s : State) (x : Partition), Heard s (vfOf vf) hdr ∧ getPart s vf.val = some x ∧ (partCores s x).contains scope.toNat = true ∧ scope.toNat < 208 ∧ counter.toNat < 16 ∧ ctrWordOk true word = true) ∧
    (∃ c : Counter, fld c.word 3 2 = 1) ∧
    (∃ c : Counter, fld c.word 3 2 = 2) ∧
    (∃ c : Counter, fld c.word 3 2 = 0) := by
  refine ⟨⟨{}, 127, 0xFFFF000000000001 ||| 2 <<< 16, st0, ?_⟩,
    ⟨{}, 207, 15, 1 ||| 0x2001 <<< 16, st0, ?_⟩,
    ⟨0, {}, 3, 0, 1 ||| 0x2001 <<< 16, st0, x0, ?_⟩,
    ⟨{ word := 4 }, ?_⟩,
    ⟨{ word := 8 }, ?_⟩,
    ⟨{ word := 0 }, ?_⟩⟩
  all_goals (repeat' (first | assumption | apply And.intro | exact all_of _ (by decide +kernel) | (unfold UnifiedOk; exact all_of _ (by decide +kernel)) | decide +kernel | (unfold Room; decide +kernel) | (unfold UnifiedOk; decide +kernel) | exact Or.inl (by decide +kernel) | exact ok_okD _ _ (by decide +kernel) | exact some_getD _ _ (by decide +kernel) | rfl | exact ⟨_, rfl⟩ | exact ⟨_, _, _, rfl⟩ | exact ⟨_, _, _, _, rfl⟩ | exact Or.inl ⟨_, _, _, rfl⟩ | (intro e; exact absurd e (by decide +kernel))))

theorem witness_LogsSparesAndRestarts :
    (∃ (hdr : Hdr) (first count : W64) (dst : DescWord) (p : Nat) (x : Partition) (s : State), HeardPf s hdr ∧ first.toNat < 2 ^ 32 ∧ destPart s 0 hdr dst = some p ∧ getPart s p = some x ∧ RecordsOk s p x dst 64 ∧ accessTrouble s (descPages dst) = none) ∧
    (∃ (hdr : Hdr) (code : W64) (s : State), HeardPf s hdr ∧ s.collector.first.valid = true ∧ code.toNat < 2 ^ 16 ∧ s.collector.first.code = code.toNat) ∧
    (∃ (hdr : Hdr) (tick code : W64) (s : State), HeardPf s hdr ∧ code.toNat < 2 ^ 16 ∧ (s.collector.first.valid = false ∨ s.collector.first.tick ≠ tick ∨ s.collector.first.code ≠ code.toNat)) ∧
    (∃ (hdr : Hdr) (s : State), HeardPf s hdr) ∧
    (∃ (hdr : Hdr) (limit : W64) (s : State), HeardPf s hdr ∧ 8 ≤ limit.toNat ∧ limit.toNat ≤ 1024) ∧
    (∃ (hdr : Hdr) (core : W64) (sp : Nat) (rest : List Nat) (s : State), HeardPf s hdr ∧ Room s 0 ∧ core.toNat < 208 ∧ (coreOf s core.toNat).inService = true ∧ (posOf s core.toNat).isSome = true ∧ pendingSwap s core.toNat = none ∧ openSpares s (dieOfCore core.toNat) = sp :: rest) ∧
    (∃ (core : CoreId) (s : State) (h sp : Nat), Running s ∧ pendingSwap s core.val = some (h, sp) ∧ coreIdle (coreOf s core.val) = true) ∧
    (∃ (hdr : Hdr) (stack : W64) (s : State), HeardPf s hdr ∧ Room s 0 ∧ stack.toNat < 12 ∧ (stackOf s stack.toNat).inService = true ∧ (∀ i : Fin 12, (stackOf s i.val).recal = none)) ∧
    (∃ (hdr : Hdr) (port : W64) (s : State), HeardPf s hdr ∧ Room s 0 ∧ port.toNat < 4 ∧ (farOf s port.toNat).restarting = false) := by
  refine ⟨⟨{}, 0, 1, desc 0 0 64, 0, x0, st0, ?_⟩,
    ⟨{}, 0x0801, flt, ?_⟩,
    ⟨{}, 2, 0x0801, flt, ?_⟩,
    ⟨{}, st0, ?_⟩,
    ⟨{}, 1024, st0, ?_⟩,
    ⟨{}, 0, 48, [49, 50, 51], st0, ?_⟩,
    ⟨0, withHandle (h0 9 1) (rec0 9 (.spare 0 48)), h0 9 1, 48, ?_⟩,
    ⟨{}, 11, st0, ?_⟩,
    ⟨{}, 3, st0, ?_⟩⟩
  all_goals (repeat' (first | assumption | apply And.intro | exact all_of _ (by decide +kernel) | (unfold UnifiedOk; exact all_of _ (by decide +kernel)) | decide +kernel | (unfold Room; decide +kernel) | (unfold UnifiedOk; decide +kernel) | exact Or.inl (by decide +kernel) | exact ok_okD _ _ (by decide +kernel) | exact some_getD _ _ (by decide +kernel) | rfl | exact ⟨_, rfl⟩ | exact ⟨_, _, _, rfl⟩ | exact ⟨_, _, _, _, rfl⟩ | exact Or.inl ⟨_, _, _, rfl⟩ | (intro e; exact absurd e (by decide +kernel))))

theorem witness_AllocateAndFree :
    (∃ (fn : Fn) (hdr : Hdr) (pages cls : W64) (backing : DescWord) (p : Nat) (x : Partition) (obj first : Nat) (r : List Nat × State) (s : State), Heard s fn hdr ∧ Acts s fn hdr p x ∧ 0 < pages.toNat ∧ cls.toNat ≤ 5 ∧ tfree x.objects 4096 = some obj ∧ freeRun s pages.toNat = some first ∧ takeFrames p x (floorTier cls.toNat) 4 (homeTier cls.toNat) pages.toNat s = some r ∧ Room r.2 fn) ∧
    (∃ (fn : Fn) (hdr : Hdr) (pages cls : W64) (backing : DescWord) (p : Nat) (x : Partition) (obj first : Nat) (r : List Nat × State) (s : State), Heard s fn hdr ∧ Acts s fn hdr p x ∧ UnifiedOk s p x backing ∧ 0 < pages.toNat ∧ cls.toNat ≤ 5 ∧ tfree x.objects 4096 = some obj ∧ freeRun s pages.toNat = some first ∧ takeFrames p x (floorTier cls.toNat) 4 (homeTier cls.toNat) pages.toNat s = some r ∧ Room r.2 fn) ∧
    (∃ (fn : Fn) (hdr : Hdr) (pages cls ro : W64) (backing : DescWord) (p : Nat) (x : Partition) (s : State), Heard s fn hdr ∧ Acts s fn hdr p x ∧ 5 < cls.toNat) ∧
    (∃ (fn : Fn) (hdr : Hdr) (object : W64) (p : Nat) (x : Partition) (o : MemObject) (s : State), Heard s fn hdr ∧ Acts s fn hdr p x ∧ tget? x.objects object.toNat = some o ∧ objHeld x object.toNat = false) ∧
    (∃ (fn : Fn) (hdr : Hdr) (object : W64) (p : Nat) (x : Partition) (o : MemObject) (s : State), Heard s fn hdr ∧ Acts s fn hdr p x ∧ tget? x.objects object.toNat = some o ∧ objHeld x object.toNat = true) := by
  refine ⟨⟨0, hdr0, 1, 0, 0, 0, x0, 1, 8, ?r, st0, ?_⟩,
    ⟨0, hdr0, 1, 0, desc 0 0 8, 0, x0, 1, 8, ?r, st0, ?_⟩,
    ⟨0, hdr0, 1, 6, 0, 0, 0, x0, st0, ?_⟩,
    ⟨0, hdr0, 0, 0, x0, o0, st0, ?_⟩,
    ⟨0, hdr0, 0, 0, held0, o0, at0 held0, ?_⟩⟩
  all_goals (repeat' (first | assumption | apply And.intro | exact all_of _ (by decide +kernel) | (unfold UnifiedOk; exact all_of _ (by decide +kernel)) | decide +kernel | (unfold Room; decide +kernel) | (unfold UnifiedOk; decide +kernel) | exact Or.inl (by decide +kernel) | exact ok_okD _ _ (by decide +kernel) | exact some_getD _ _ (by decide +kernel) | rfl | exact ⟨_, rfl⟩ | exact ⟨_, _, _, rfl⟩ | exact ⟨_, _, _, _, rfl⟩ | exact Or.inl ⟨_, _, _, rfl⟩ | (intro e; exact absurd e (by decide +kernel))))

theorem witness_ClassAndMigration :
    (∃ (fn : Fn) (hdr : Hdr) (object cls : W64) (p : Nat) (x : Partition) (o : MemObject) (s : State) (a : Ans), Heard s fn hdr ∧ Acts s fn hdr p x ∧ cls.toNat ≤ 5 ∧ tget? x.objects object.toNat = some o ∧ moveBody fn hdr p x object.toNat o (floorTier cls.toNat) (homeTier cls.toNat) (((List.range o.pages).map (o.first + ·)).filter fun g => !liesIn s o g (fun t => decide (homeTier cls.toNat ≤ t) && decide (t ≤ floorTier cls.toNat))) (modPart p (fun x => { x with objects := tset x.objects object.toNat { o with cls := cls.toNat } }) { s with tiers.map := tmap s.tiers.map fun g e => if o.first ≤ g && g < o.first + o.pages then { e with cls := cls.toNat } else e }) = .ok a) ∧
    (∃ (fn : Fn) (hdr : Hdr) (object first count tier : W64) (p : Nat) (x : Partition) (o : MemObject) (s : State) (r : List Nat × State), Heard s fn hdr ∧ Acts s fn hdr p x ∧ tget? x.objects object.toNat = some o ∧ 0 < count.toNat ∧ first.toNat + count.toNat ≤ o.pages ∧ 1 ≤ tier.toNat ∧ tier.toNat ≤ 3 ∧ pinned o.cls = false ∧ homeTier o.cls ≤ tier.toNat ∧ tier.toNat ≤ floorTier o.cls ∧ takeFrames p x (floorTier o.cls) 4 tier.toNat (((List.range count.toNat).map (o.first + first.toNat + ·)).filter fun g => !liesIn s o g (· == tier.toNat)).length s = some r ∧ Room r.2 fn) ∧
    (∃ (fn : Fn) (hdr : Hdr) (object first count tier : W64) (p : Nat) (x : Partition) (o : MemObject) (s : State), Heard s fn hdr ∧ Acts s fn hdr p x ∧ tget? x.objects object.toNat = some o ∧ 0 < count.toNat ∧ first.toNat + count.toNat ≤ o.pages ∧ 1 ≤ tier.toNat ∧ tier.toNat ≤ 3 ∧ pinned o.cls = true) ∧
    (∃ (fn : Fn) (hdr : Hdr) (p : Nat) (x : Partition) (obj floor tier : Nat) (o : MemObject) (pages : List Nat) (s : State) (r : List Nat × State), takeFrames p x floor 4 tier pages.length s = some r ∧ Room r.2 fn) := by
  refine ⟨⟨0, hdr0, 0, 0, 0, x0, o0, st0, ?a, ?_⟩,
    ⟨0, hdr0, 0, 7, 1, 2, 0, x0, o0, st0, ?r, ?_⟩,
    ⟨0, hdr0, 0, 0, 8, 3, 0, xpin, { first := 0, pages := 8, cls := 0 }, at0 xpin, ?_⟩,
    ⟨0, hdr0, 0, x0, 0, 3, 2, o0, [0], st0, ?q, ?_⟩⟩
  all_goals (repeat' (first | assumption | apply And.intro | exact all_of _ (by decide +kernel) | (unfold UnifiedOk; exact all_of _ (by decide +kernel)) | decide +kernel | (unfold Room; decide +kernel) | (unfold UnifiedOk; decide +kernel) | exact Or.inl (by decide +kernel) | exact ok_okD _ _ (by decide +kernel) | exact some_getD _ _ (by decide +kernel) | rfl | exact ⟨_, rfl⟩ | exact ⟨_, _, _, rfl⟩ | exact ⟨_, _, _, _, rfl⟩ | exact Or.inl ⟨_, _, _, rfl⟩ | (intro e; exact absurd e (by decide +kernel))))

theorem witness_CopiesFillsAndQueries :
    (∃ (fn : Fn) (hdr : Hdr) (src dst : DescWord) (cvt : W64) (p : Nat) (x : Partition) (s : State), Heard s fn hdr ∧ Acts s fn hdr p x ∧ Room s fn ∧ cvtOk cvt.toNat = true ∧ UnifiedOk s p x src ∧ UnifiedOk s p x dst ∧ dCount src = dCount dst ∧ readOnlyDesc s dst = false) ∧
    (∃ (fn : Fn) (hdr : Hdr) (object first count pattern : W64) (p : Nat) (x : Partition) (o : MemObject) (s : State), Heard s fn hdr ∧ Acts s fn hdr p x ∧ Room s fn ∧ tget? x.objects object.toNat = some o ∧ 0 < count.toNat ∧ first.toNat + count.toNat ≤ o.pages ∧ pattern.toNat < 2 ^ 32 ∧ o.readOnly = false) ∧
    (∃ (h p obj first count : Nat) (pattern : W32) (r : HandleRec) (x : Partition) (o : MemObject) (pages : List Nat) (s : State), getHandle s h = some r ∧ r.op = .fill obj first count pattern ∧ r.owed = true ∧ r.part = some p ∧ getPart s p = some x ∧ tget? x.objects obj = some o ∧ pages = (List.range count).map (o.first + first + ·) ∧ (∀ g ∈ pages, (pageEntry s g).isSome) ∧ accessWaits s pages = false) ∧
    (∃ (fn : Fn) (hdr : Hdr) (object : W64) (p : Nat) (x : Partition) (o : MemObject) (s : State), Heard s fn hdr ∧ Acts s fn hdr p x ∧ tget? x.objects object.toNat = some o) ∧
    (∃ (fn : Fn) (hdr : Hdr) (p : Nat) (x : Partition) (s : State), Heard s fn hdr ∧ Acts s fn hdr p x) ∧
    (∃ (fn : Fn) (hdr : Hdr) (first count : W64) (dst : DescWord) (p : Nat) (x : Partition) (s : State), Heard s fn hdr ∧ Room s fn ∧ destPart s fn hdr dst = some p ∧ getPart s p = some x ∧ first.toNat + count.toNat ≤ 2 ^ 21 ∧ RecordsOk s p x dst 8) ∧
    (∃ (p : PartId) (page : Nat) (e : TierEntry) (s : State), pageEntry s page = some e ∧ e.part ≠ p.val) := by
  refine ⟨⟨0, hdr0, desc 0 0 8, desc 32 1 8, 0, 0, x0, st0, ?_⟩,
    ⟨0, hdr0, 0, 7, 1, 0xFFFFFFFF, 0, x0, o0, st0, ?_⟩,
    ⟨h0 2 1, 0, 0, 7, 1, 0xFFFFFFFF, rec0 2 (.fill 0 7 1 0xFFFFFFFF), x0, o0, [7], withHandle (h0 2 1) (rec0 2 (.fill 0 7 1 0xFFFFFFFF)), ?_⟩,
    ⟨0, hdr0, 0, 0, x0, o0, st0, ?_⟩,
    ⟨0, hdr0, 0, x0, st0, ?_⟩,
    ⟨0, hdr0, 0, 2 ^ 21, desc 0 0 64, 0, x0, st0, ?_⟩,
    ⟨1, 0, (page 0 0).2, st0, ?_⟩⟩
  all_goals (repeat' (first | assumption | apply And.intro | exact all_of _ (by decide +kernel) | (unfold UnifiedOk; exact all_of _ (by decide +kernel)) | decide +kernel | (unfold Room; decide +kernel) | (unfold UnifiedOk; decide +kernel) | exact Or.inl (by decide +kernel) | exact ok_okD _ _ (by decide +kernel) | exact some_getD _ _ (by decide +kernel) | rfl | exact ⟨_, rfl⟩ | exact ⟨_, _, _, rfl⟩ | exact ⟨_, _, _, _, rfl⟩ | exact Or.inl ⟨_, _, _, rfl⟩ | (intro e; exact absurd e (by decide +kernel))))

theorem witness_HostFramesAndTierSettings :
    (∃ (fn : Fn) (hdr : Hdr) (addrs : List W64) (p : Nat) (x : Partition) (s : State), Heard s fn hdr ∧ Acts s fn hdr p x ∧ 0 < addrs.length ∧ addrs.length ≤ 500 ∧ (addrs.all fun a => a.toNat % pageSize == 0) = true ∧ (addrs.all fun a => !(s.parts.flatMap fun q => q.2.t3.map Prod.snd).contains a.toNat) = true ∧ (addrs.map (·.toNat)).eraseDups.length = addrs.length ∧ (s.parts.flatMap fun q => q.2.t3.map Prod.snd).length + addrs.length ≤ 2 ^ 21) ∧
    (∃ (fn : Fn) (hdr : Hdr) (count list : W64) (p : Nat) (x0 : Partition) (s : State), Heard s fn hdr ∧ Acts s fn hdr p x0) ∧
    (∃ (hdr : Hdr) (mode : W64) (shares : List W64) (darnLimit : W64) (s : State), HeardPf s hdr ∧ mode.toNat ≤ 1 ∧ shares.length = 5 ∧ (shares.all fun m => decide (10 ≤ m.toNat) && decide (m.toNat ≤ 100)) = true ∧ 2 ≤ darnLimit.toNat ∧ darnLimit.toNat ≤ 64 ∧ (mode.toNat = t1Mode s ∨ s.parts = [])) := by
  refine ⟨⟨0, hdr0, [0, 4194304], 0, x0, st0, ?_⟩,
    ⟨0, hdr0, 1, 0, 0, x0, st0, ?_⟩,
    ⟨{}, 1, [10, 50, 50, 50, 100], 64, State.reset, ?_⟩⟩
  all_goals (repeat' (first | assumption | apply And.intro | exact all_of _ (by decide +kernel) | (unfold UnifiedOk; exact all_of _ (by decide +kernel)) | decide +kernel | (unfold Room; decide +kernel) | (unfold UnifiedOk; decide +kernel) | exact Or.inl (by decide +kernel) | exact ok_okD _ _ (by decide +kernel) | exact some_getD _ _ (by decide +kernel) | rfl | exact ⟨_, rfl⟩ | exact ⟨_, _, _, rfl⟩ | exact ⟨_, _, _, _, rfl⟩ | exact Or.inl ⟨_, _, _, rfl⟩ | (intro e; exact absurd e (by decide +kernel))))

theorem witness_MigrationSwitchesTheEntry :
    ∃ (page : Nat) (s : State) (m : Move) (e : TierEntry), Running s ∧ (s.tiers.moves.find? fun m => m.page == page && m.started) = some m ∧ pageEntry s page = some e ∧ m.kind ≠ .command ∧ (openHandles s fun r => match r.op with | .alloc _ => true | _ => false) = [] := by
  refine ⟨0, { st0 with tiers.moves := [mv0] }, mv0, (page 0 0).2, ?_⟩
  all_goals (repeat' (first | assumption | apply And.intro | exact all_of _ (by decide +kernel) | (unfold UnifiedOk; exact all_of _ (by decide +kernel)) | decide +kernel | (unfold Room; decide +kernel) | (unfold UnifiedOk; decide +kernel) | exact Or.inl (by decide +kernel) | exact ok_okD _ _ (by decide +kernel) | exact some_getD _ _ (by decide +kernel) | rfl | exact ⟨_, rfl⟩ | exact ⟨_, _, _, rfl⟩ | exact ⟨_, _, _, _, rfl⟩ | exact Or.inl ⟨_, _, _, rfl⟩ | (intro e; exact absurd e (by decide +kernel))))

theorem witness_BytesCopiedWrittenCleared :
    (∃ (m : Memory) (src dst n : Nat), Memory.wf m ∧ (src + n ≤ dst ∨ dst + n ≤ src)) ∧
    (∃ (m : Memory) (f : Nat → Nat) (a : Nat) (bs : List Byte), Memory.wf m ∧ (∀ i j, i < bs.length → j < bs.length → f (a + i) = f (a + j) → i = j)) := by
  refine ⟨⟨[], 0, 4, 4, ?_⟩,
    ⟨[], fun k => k, 0, [1, 2], ?_⟩⟩
  · exact ⟨by decide, Or.inl (by decide)⟩
  · exact ⟨by decide, fun i j _ _ h => by simpa using h⟩

theorem witness_FailingRowsAndFarMemory :
    (∃ (page : Nat) (row row' : BitVec 64) (s : State), Running s ∧ canDarn s row true = true ∧ row' = w64 (fld row 36 0 ||| bankDarns s row <<< 37)) ∧
    (∃ (page : Nat) (row : BitVec 64) (spare : Bool) (s : State), Running s ∧ canDarn s row spare = false) ∧
    (∃ (page : Nat) (row : BitVec 64) (s : State) (e : TierEntry), Running s ∧ pageEntry s page = some e ∧ e.tier = 1 ∧ knownCopy s e = none ∧ canDarn s row true = true) ∧
    (∃ (page : Nat) (row : BitVec 64) (s : State) (e : TierEntry) (d : DescWord), Running s ∧ pageEntry s page = some e ∧ e.tier = 1 ∧ knownCopy s e = some d ∧ canDarn s row true = true) ∧
    (∃ (page : Nat) (s : State) (e : TierEntry) (d : DescWord) (x : Partition) (o : MemObject), Running s ∧ pageEntry s page = some e ∧ e.restoring = true ∧ s.tiers.withdrawnHolding.contains page = false ∧ getPart s e.part = some x ∧ tget? x.objects e.object = some o ∧ o.readOnly = true ∧ o.backing = some d ∧ accessWaits s (descPages d) = false ∧ readTrouble s (descPages d) [] = none) ∧
    (∃ (page : Nat) (h : W64) (s : State) (e : TierEntry), Running s ∧ pageEntry s page = some e ∧ e.tier = 2) ∧
    (∃ (f : FPortId) (s : State), Running s ∧ (farOf s f.val).inService = true ∧ s.tiers.moves = []) ∧
    (∃ (f : FPortId) (s : State), Running s) ∧
    (∃ (f : FPortId) (code : W32) (s : State), Running s) ∧
    (∃ (f : FPortId) (frames : Nat) (s : State), Running s ∧ (farOf s f.val).restarting = true) := by
  refine ⟨⟨0, 0, w64 (fld (0 : W64) 36 0 ||| bankDarns st0 0 <<< 37), st0, ?_⟩,
    ⟨0, 0, false, st0, ?_⟩,
    ⟨0, 0, st0, (page 0 0).2, ?_⟩,
    ⟨0, 0, at0 xro, (page 0 0).2, desc 0x400000 0 8, ?_⟩,
    ⟨0, rest0, { (page 0 0).2 with restoring := true }, desc 0x400000 0 8, xro, { first := 0, pages := 1, cls := 3, readOnly := true, backing := some (desc 0x400000 0 8) }, ?_⟩,
    ⟨0, 0, t2st, { (page 0 0).2 with tier := 2 }, ?_⟩,
    ⟨3, st0, ?_⟩,
    ⟨0, st0, ?_⟩,
    ⟨0, 0, st0, ?_⟩,
    ⟨3, 524288, { st0 with tiers.far := [(3, { restarting := true })] }, ?_⟩⟩
  all_goals (repeat' (first | assumption | apply And.intro | exact all_of _ (by decide +kernel) | (unfold UnifiedOk; exact all_of _ (by decide +kernel)) | decide +kernel | (unfold Room; decide +kernel) | (unfold UnifiedOk; decide +kernel) | exact Or.inl (by decide +kernel) | exact ok_okD _ _ (by decide +kernel) | exact some_getD _ _ (by decide +kernel) | rfl | exact ⟨_, rfl⟩ | exact ⟨_, _, _, rfl⟩ | exact ⟨_, _, _, _, rfl⟩ | exact Or.inl ⟨_, _, _, rfl⟩ | (intro e; exact absurd e (by decide +kernel))))

theorem witness_FaultsAreLatchedAndContained :
    (∃ (f : FaultIn) (s : State), f.sev = 0) ∧
    (∃ (f : FaultIn) (s : State), f.sev ≠ 0 ∧ s.collector.first.valid = false) ∧
    (∃ (f : FaultIn) (s : State), f.sev ≠ 0 ∧ s.collector.first.valid = true) ∧
    (∃ (f : FaultIn) (s : State), f.sev ≠ 0) ∧
    (∃ (f : FaultIn) (s : State) (p : Nat), f.sev ≠ 0 ∧ p < 16 ∧ (f.parts = [] ∨ p ∈ f.parts)) ∧
    (∃ s : State, Running s) ∧
    (∃ (c : CoreId) (addr : Nat) (s : State) (h : Nat), Running s ∧ (coreOf s c.val).step = some h) ∧
    (∃ (c : CoreId) (block : Nat) (s : State), Running s ∧ (coreOf s c.val).step = none) ∧
    (∃ (d : CdId) (b : Fin 16) (addr : Nat) (s : State), Running s) ∧
    (∃ (d : CdId) (s : State), Running s ∧ (cdOf s d.val).stem = []) ∧
    (∃ (i : PairId) (s : State), Running s ∧ (pairOf s i.val).running = none) ∧
    (∃ (i : PairId) (s : State) (p n : Nat) (e : Session), Running s ∧ (pairOf s i.val).running = some (p, n) ∧ getSession s p n = some e ∧ e.kind ≠ 3) ∧
    (∃ (i : PortId) (s : State), Running s) ∧
    (∃ (fn : Fn) (k : SlotId) (s : State), Running s ∧ (slotOf (fnOf s fn) k.val).state = 1) := by
  refine ⟨⟨fault0 0 [], st0, ?_⟩,
    ⟨fault0 1 [], st0, ?_⟩,
    ⟨fault0 2 [], flt, ?_⟩,
    ⟨fault0 1 [3], st0, ?_⟩,
    ⟨fault0 1 [15], st0, 15, ?_⟩,
    ⟨st0, ?_⟩,
    ⟨0, 0, withCore 0 { step := some (h0 1 1) }, h0 1 1, ?_⟩,
    ⟨207, 0, st0, ?_⟩,
    ⟨3, 15, 0, st0, ?_⟩,
    ⟨3, st0, ?_⟩,
    ⟨15, st0, ?_⟩,
    ⟨0, withPair 0 { running := some (0, 0) } (at0 { x0 with sessions := [(0, sess0 0)] }), 0, 0, sess0 0, ?_⟩,
    ⟨15, st0, ?_⟩,
    ⟨0, 15, withFn 0 { slots := [(15, { state := 1 })] }, ?_⟩⟩
  all_goals (repeat' (first | assumption | apply And.intro | exact all_of _ (by decide +kernel) | (unfold UnifiedOk; exact all_of _ (by decide +kernel)) | decide +kernel | (unfold Room; decide +kernel) | (unfold UnifiedOk; decide +kernel) | exact Or.inl (by decide +kernel) | exact ok_okD _ _ (by decide +kernel) | exact some_getD _ _ (by decide +kernel) | rfl | exact ⟨_, rfl⟩ | exact ⟨_, _, _, rfl⟩ | exact ⟨_, _, _, _, rfl⟩ | exact Or.inl ⟨_, _, _, rfl⟩ | (intro e; exact absurd e (by decide +kernel))))

theorem witness_DegradationEvents :
    (∃ (c : CoreId) (s : State) (p : Nat), Running s ∧ (coreOf s c.val).ceRaised = false ∧ partsOfCore s c.val = [p]) ∧
    (∃ (c : CoreId) (s : State), Running s ∧ (coreOf s c.val).ceRaised = true) ∧
    (∃ (k : StackId) (s : State), Running s) ∧
    (∃ (k : StackId) (row n : Nat) (s : State), Running s) ∧
    (∃ (d : CdId) (c : Fin 52) (n : Nat) (s : State), Running s) ∧
    (∃ (t : Nat) (es : List (Nat × Nat)) (s u : State), Running s ∧ exec (.scrub t es) s = .next u) := by
  refine ⟨⟨0, st0, 0, ?_⟩,
    ⟨0, withCore 0 { ceRaised := true }, ?_⟩,
    ⟨11, st0, ?_⟩,
    ⟨11, 0, 0, st0, ?_⟩,
    ⟨3, 51, 1, st0, ?_⟩,
    ⟨99, [], st0, ?u, ?_⟩⟩
  all_goals (repeat' (first | assumption | apply And.intro | exact all_of _ (by decide +kernel) | (unfold UnifiedOk; exact all_of _ (by decide +kernel)) | decide +kernel | (unfold Room; decide +kernel) | (unfold UnifiedOk; decide +kernel) | exact Or.inl (by decide +kernel) | exact ok_okD _ _ (by decide +kernel) | exact some_getD _ _ (by decide +kernel) | rfl | exact ⟨_, rfl⟩ | exact ⟨_, _, _, rfl⟩ | exact ⟨_, _, _, _, rfl⟩ | exact Or.inl ⟨_, _, _, rfl⟩ | (intro e; exact absurd e (by decide +kernel))))

theorem witness_SafeStateIsEnteredAndSilent :
    (∃ (d : DieId) (temp : Int) (s : State), Running s ∧ tripPoint d.val ≤ temp) ∧
    (∃ (d : DieId) (temp : Int) (s : State), Running s ∧ temp < tripPoint d.val) ∧
    (∃ (c : Fin 4) (s : State), Running s ∧ s.steward.standby ≠ .healthy) ∧
    (∃ (mask : W64) (s : State), Running s) ∧
    (∃ (r : RailId) (s : State), Running s ∧ collectorRail r.val = false ∧ s.board.collapsed = []) ∧
    (∃ (fn : Fn) (hdr : Hdr) (op : Nat) (pf : Bool) (body : Body) (s : State), InSafe s ∧ s.steward.life = .ready ∧ s.collector.stewardLost = false ∧ fnExists s fn = true ∧ op ≠ 0x0001) ∧
    (∃ (fn : Fn) (hdr : Hdr) (op : Nat) (pf : Bool) (body : Body) (s : State), InSafe s ∧ s.steward.life = .ready ∧ s.collector.stewardLost = true) := by
  refine ⟨⟨0, 1840, st0, ?_⟩,
    ⟨8, 1679, st0, ?_⟩,
    ⟨1, withSteward fun z => { z with standby := .testing }, ?_⟩,
    ⟨1, st0, ?_⟩,
    ⟨0, st0, ?_⟩,
    ⟨0, {}, 2, false, fun _ => .error 0x0201, safe0, ?_⟩,
    ⟨0, {}, 2, false, fun _ => .error 0x0201, { safe0 with collector.stewardLost := true }, ?_⟩⟩
  all_goals (repeat' (first | assumption | apply And.intro | exact all_of _ (by decide +kernel) | (unfold UnifiedOk; exact all_of _ (by decide +kernel)) | decide +kernel | (unfold Room; decide +kernel) | (unfold UnifiedOk; decide +kernel) | exact Or.inl (by decide +kernel) | exact ok_okD _ _ (by decide +kernel) | exact some_getD _ _ (by decide +kernel) | rfl | exact ⟨_, rfl⟩ | exact ⟨_, _, _, rfl⟩ | exact ⟨_, _, _, _, rfl⟩ | exact Or.inl ⟨_, _, _, rfl⟩ | (intro e; exact absurd e (by decide +kernel))))

theorem witness_SafeStateHolds :
    ∃ (s t : State) (c : Instr) (rest : List Instr), InSafe s ∧ s.steward.life = .ready ∧ s.pending = c :: rest ∧ isReset c = false ∧ step s = .next t := by
  refine ⟨{ safe0 with pending := [.tickEdge {}] }, safe0, .tickEdge {}, [], ?_⟩
  all_goals (repeat' (first | assumption | apply And.intro | exact all_of _ (by decide +kernel) | (unfold UnifiedOk; exact all_of _ (by decide +kernel)) | decide +kernel | (unfold Room; decide +kernel) | (unfold UnifiedOk; decide +kernel) | exact Or.inl (by decide +kernel) | exact ok_okD _ _ (by decide +kernel) | exact some_getD _ _ (by decide +kernel) | rfl | exact ⟨_, rfl⟩ | exact ⟨_, _, _, rfl⟩ | exact ⟨_, _, _, _, rfl⟩ | exact Or.inl ⟨_, _, _, rfl⟩ | (intro e; exact absurd e (by decide +kernel))))

theorem witness_GearSteps :
    (∃ (d : CdId) (s : State), Running s ∧ (cdOf s d.val).gear < (cdOf s d.val).target ∧ (cdOf s d.val).avs = none ∧ (cdOf s d.val).gear < (cdOf s d.val).setpoint) ∧
    (∃ (d : CdId) (s : State), Running s ∧ (cdOf s d.val).target < (cdOf s d.val).gear) ∧
    (∃ (d : CdId) (s : State), Running s ∧ (cdOf s d.val).gear < (cdOf s d.val).target ∧ (cdOf s d.val).setpoint ≤ (cdOf s d.val).gear) ∧
    (∃ (d : CdId) (s : State) (g : Nat), Running s ∧ (cdOf s d.val).avs = some g) ∧
    (∃ (d : CdId) (s : State) (g : Nat), Running s ∧ (cdOf s d.val).avs = some g) := by
  refine ⟨⟨3, withCd 3 { gear := 3, target := 5, setpoint := 4 }, ?_⟩,
    ⟨0, withCd 0 { gear := 3, target := 2 }, ?_⟩,
    ⟨0, withCd 0 { gear := 3, target := 5, setpoint := 3 }, ?_⟩,
    ⟨0, withCd 0 { avs := some 4 }, 4, ?_⟩,
    ⟨0, withCd 0 { avs := some 4 }, 4, ?_⟩⟩
  all_goals (repeat' (first | assumption | apply And.intro | exact all_of _ (by decide +kernel) | (unfold UnifiedOk; exact all_of _ (by decide +kernel)) | decide +kernel | (unfold Room; decide +kernel) | (unfold UnifiedOk; decide +kernel) | exact Or.inl (by decide +kernel) | exact ok_okD _ _ (by decide +kernel) | exact some_getD _ _ (by decide +kernel) | rfl | exact ⟨_, rfl⟩ | exact ⟨_, _, _, rfl⟩ | exact ⟨_, _, _, _, rfl⟩ | exact Or.inl ⟨_, _, _, rfl⟩ | (intro e; exact absurd e (by decide +kernel))))

theorem witness_DipsReferencesAndPowerWords :
    (∃ (r : RailId) (lowest : Nat) (s : State), Running s) ∧
    (∃ (r : RailId) (lowest below : Nat) (s : State), Running s ∧ tget? s.board.dips r.val = some false) ∧
    (∃ (r : RailId) (lowest below : Nat) (s : State), Running s ∧ tget? s.board.dips r.val = some true) ∧
    (∃ (d : CdId) (s : State), Running s ∧ freewheels s d.val = false) ∧
    (∃ (hdr : Hdr) (w : W64) (s : State), HeardPf s hdr ∧ Room s 0 ∧ powerOk w = true) ∧
    (∃ (hdr : Hdr) (w : W64) (s : State), HeardPf s hdr ∧ powerOk w = false) := by
  refine ⟨⟨23, 0, st0, ?_⟩,
    ⟨0, 0, 0, { st0 with board.dips := [(0, false)] }, ?_⟩,
    ⟨0, 0, 0, { st0 with board.dips := [(0, true)] }, ?_⟩,
    ⟨3, st0, ?_⟩,
    ⟨{}, 0xBB8C96BDC00000, st0, ?_⟩,
    ⟨{}, 0, st0, ?_⟩⟩
  all_goals (repeat' (first | assumption | apply And.intro | exact all_of _ (by decide +kernel) | (unfold UnifiedOk; exact all_of _ (by decide +kernel)) | decide +kernel | (unfold Room; decide +kernel) | (unfold UnifiedOk; decide +kernel) | exact Or.inl (by decide +kernel) | exact ok_okD _ _ (by decide +kernel) | exact some_getD _ _ (by decide +kernel) | rfl | exact ⟨_, rfl⟩ | exact ⟨_, _, _, rfl⟩ | exact ⟨_, _, _, _, rfl⟩ | exact Or.inl ⟨_, _, _, rfl⟩ | (intro e; exact absurd e (by decide +kernel))))

theorem witness_TickEdgeActions :
    (∃ (env : TickEnv) (s : State), Running s ∧ env.late = false) ∧
    (∃ (env : TickEnv) (s : State), Running s ∧ env.late = true) := by
  refine ⟨⟨{}, st0, ?_⟩,
    ⟨{ late := true }, st0, ?_⟩⟩
  all_goals (repeat' (first | assumption | apply And.intro | exact all_of _ (by decide +kernel) | (unfold UnifiedOk; exact all_of _ (by decide +kernel)) | decide +kernel | (unfold Room; decide +kernel) | (unfold UnifiedOk; decide +kernel) | exact Or.inl (by decide +kernel) | exact ok_okD _ _ (by decide +kernel) | exact some_getD _ _ (by decide +kernel) | rfl | exact ⟨_, rfl⟩ | exact ⟨_, _, _, rfl⟩ | exact ⟨_, _, _, _, rfl⟩ | exact Or.inl ⟨_, _, _, rfl⟩ | (intro e; exact absurd e (by decide +kernel))))

theorem witness_TickAdvancesByOne :
    ∃ (env : TickEnv) (s t : State), Running s ∧ exec (.tickEdge env) s = .next t := by
  refine ⟨{}, st0, ?t, ?_⟩
  all_goals (repeat' (first | assumption | apply And.intro | exact all_of _ (by decide +kernel) | (unfold UnifiedOk; exact all_of _ (by decide +kernel)) | decide +kernel | (unfold Room; decide +kernel) | (unfold UnifiedOk; decide +kernel) | exact Or.inl (by decide +kernel) | exact ok_okD _ _ (by decide +kernel) | exact some_getD _ _ (by decide +kernel) | rfl | exact ⟨_, rfl⟩ | exact ⟨_, _, _, rfl⟩ | exact ⟨_, _, _, _, rfl⟩ | exact Or.inl ⟨_, _, _, rfl⟩ | (intro e; exact absurd e (by decide +kernel))))

theorem witness_StewardTakeovers :
    (∃ (c : Fin 4) (s : State), Running s ∧ s.steward.standby = .healthy) ∧
    (∃ (c : Nat) (s : State), s.steward.phase = .idle ∧ updateHandles s isRevert = [] ∧ updateHandles s isSwitch = []) ∧
    (∃ s : State, Running s ∧ s.steward.standby = .testing) ∧
    (∃ s : State, Running s ∧ s.steward.standby = .testing) ∧
    (∃ s : State, Running s ∧ s.steward.standby = .healthy ∧ s.steward.phase ≠ .follow) ∧
    (∃ s : State, Running s ∧ s.steward.phase = .follow ∧ s.steward.standby = .healthy ∧ updateHandles s isUpdate = []) ∧
    (∃ (hdr : Hdr) (s : State), HeardPf s hdr ∧ Room s 0 ∧ s.steward.standby = .healthy ∧ s.steward.phase = .idle ∧ s.steward.switchPending = false) := by
  refine ⟨⟨3, st0, ?_⟩,
    ⟨0, st0, ?_⟩,
    ⟨withSteward fun z => { z with standby := .testing }, ?_⟩,
    ⟨withSteward fun z => { z with standby := .testing }, ?_⟩,
    ⟨st0, ?_⟩,
    ⟨withSteward fun z => { z with phase := .follow }, ?_⟩,
    ⟨{}, st0, ?_⟩⟩
  all_goals (repeat' (first | assumption | apply And.intro | exact all_of _ (by decide +kernel) | (unfold UnifiedOk; exact all_of _ (by decide +kernel)) | decide +kernel | (unfold Room; decide +kernel) | (unfold UnifiedOk; decide +kernel) | exact Or.inl (by decide +kernel) | exact ok_okD _ _ (by decide +kernel) | exact some_getD _ _ (by decide +kernel) | rfl | exact ⟨_, rfl⟩ | exact ⟨_, _, _, rfl⟩ | exact ⟨_, _, _, _, rfl⟩ | exact Or.inl ⟨_, _, _, rfl⟩ | (intro e; exact absurd e (by decide +kernel))))

theorem witness_LiveUpdatesAndMicrocode :
    (Config.readsJournal st0.steward.image.header (imgJournal noImage) = true → ∃ (hdr : Hdr) (image : FwImage) (s : State), HeardPf s hdr ∧ Room s 0 ∧ s.steward.standby = .healthy ∧ s.steward.phase = .idle ∧ s.steward.switchPending = false ∧ s.trust.commitHandle = none ∧ Config.readsJournal s.steward.image.header (imgJournal image) = true) ∧
    (∃ (hdr : Hdr) (s : State), HeardPf s hdr ∧ Room s 0 ∧ s.steward.phase = .handedOver ∧ s.trust.commitHandle = none ∧ s.steward.revertPending = false) ∧
    (∃ (hdr : Hdr) (s : State), HeardPf s hdr ∧ Room s 0 ∧ s.steward.phase = .handedOver ∧ s.trust.commitHandle = none ∧ s.steward.revertPending = false ∧ s.steward.standby = .healthy) ∧
    (∃ (hdr : Hdr) (pair : W64) (image : FwImage) (s : State), HeardPf s hdr ∧ Room s 0 ∧ pair.toNat < 16 ∧ (s.pairs.any fun e => e.2.loading.isSome) = false) ∧
    (∃ (i : PairId) (s : State) (f : FwImage) (h : Nat), Running s ∧ (pairOf s i.val).loading = some (f, h) ∧ (pairOf s i.val).running = none) := by
  refine ⟨fun h => ⟨{}, noImage, st0, ?_⟩,
    ⟨{}, withSteward fun z => { z with phase := .handedOver }, ?_⟩,
    ⟨{}, withSteward fun z => { z with phase := .handedOver }, ?_⟩,
    ⟨{}, 15, noImage, st0, ?_⟩,
    ⟨15, withPair 15 { loading := some (noImage, 1) }, noImage, 1, ?_⟩⟩
  all_goals (repeat' (first | assumption | apply And.intro | exact all_of _ (by decide +kernel) | (unfold UnifiedOk; exact all_of _ (by decide +kernel)) | decide +kernel | (unfold Room; decide +kernel) | (unfold UnifiedOk; decide +kernel) | exact Or.inl (by decide +kernel) | exact ok_okD _ _ (by decide +kernel) | exact some_getD _ _ (by decide +kernel) | rfl | exact ⟨_, rfl⟩ | exact ⟨_, _, _, rfl⟩ | exact ⟨_, _, _, _, rfl⟩ | exact Or.inl ⟨_, _, _, rfl⟩ | (intro e; exact absurd e (by decide +kernel))))

theorem witness_AttestationAndOwners :
    (∃ (fn : Fn) (hdr : Hdr) (nonce : BitVec 512) (dst : DescWord) (p : Nat) (x : Partition) (s : State), Heard s fn hdr ∧ Room s fn ∧ destPart s fn hdr dst = some p ∧ getPart s p = some x ∧ RecordsOk s p x dst 644) ∧
    ((identityBytes st0).1.length ≤ 256 → ∃ (fn : Fn) (hdr : Hdr) (dst : DescWord) (p : Nat) (x : Partition) (s : State), Heard s fn hdr ∧ Room s fn ∧ destPart s fn hdr dst = some p ∧ getPart s p = some x ∧ RecordsOk s p x dst (identityBytes s).1.length) ∧
    (∃ (hdr : Hdr) (key sig : List Byte) (s : State), HeardPf s hdr ∧ Room s 0 ∧ keyFormOk key = true ∧ s.trust.uncommitted = false ∧ ownerSlot s < 4 ∧ sig.length = (if ownerSlot s = 0 then 0 else 132)) ∧
    (∃ (hdr : Hdr) (key sig : List Byte) (s : State), HeardPf s hdr ∧ keyFormOk key = true ∧ s.trust.uncommitted = false ∧ 4 ≤ ownerSlot s) := by
  refine ⟨⟨0, {}, 0, desc 0 0 161, 0, x0, st0, ?_⟩,
    fun h => ⟨0, {}, desc 0 0 64, 0, x0, st0, ?_⟩,
    ⟨{}, key0, [], st0, ?_⟩,
    ⟨{}, key0, [], withTrust fun z => { z with ownerDigests := [(4, 0)] }, ?_⟩⟩
  · exact ⟨⟨⟨rfl, rfl⟩, rfl, rfl⟩, by unfold Room; decide, by decide +kernel, rfl, by decide +kernel, by decide +kernel, by decide +kernel, by decide +kernel, by decide +kernel⟩
  · exact ⟨⟨⟨rfl, rfl⟩, rfl, rfl⟩, by unfold Room; decide, by decide +kernel, rfl, by decide +kernel, by decide +kernel, by decide +kernel, Nat.le_trans h (by decide +kernel), by decide +kernel⟩
  all_goals (repeat' (first | apply And.intro | decide +kernel | rfl | (unfold Room; decide +kernel)))

theorem witness_SettingsRecordsAndRecovery :
    (∃ (hdr : Hdr) (s : State), HeardPf s hdr ∧ Room s 0) ∧
    (∃ (hdr : Hdr) (s : State), HeardPf s hdr) ∧
    (∃ (s : State) (x : Settings), Running s ∧ s.trust.writing = some (x, [{}]) ∧ s.trust.commitHandle = none) ∧
    (∃ (s : State) (x : Settings) (ts : List Trigger), Running s ∧ s.trust.writing = some (x, ts) ∧ s.trust.retried = false) ∧
    (∃ (s : State) (x : Settings), Running s ∧ s.trust.writing = some (x, [{}]) ∧ s.trust.retried = true ∧ s.trust.commitHandle = none) ∧
    (imgGood recovery0 0 (hostImage recovery0 0 0) = true → ∃ (hdr : Hdr) (addr length : W64) (key : List Byte) (s : State), s.steward.life = .recovery ∧ Reached s 0 hdr ∧ ownerSlot s = 0 ∧ imgGood s 0 (hostImage s addr.toNat length.toNat) = true) := by
  refine ⟨⟨{}, st0, ?_⟩,
    ⟨{}, st0, ?_⟩,
    ⟨withTrust fun z => { z with writing := some ({}, [{}]) }, {}, ?_⟩,
    ⟨withTrust fun z => { z with writing := some ({}, []) }, {}, [], ?_⟩,
    ⟨withTrust fun z => { z with writing := some ({}, [{}]), retried := true }, {}, ?_⟩,
    fun h => ⟨{}, 0, 0, [], recovery0, ?_⟩⟩
  all_goals (repeat' (first | assumption | apply And.intro | exact all_of _ (by decide +kernel) | (unfold UnifiedOk; exact all_of _ (by decide +kernel)) | decide +kernel | (unfold Room; decide +kernel) | (unfold UnifiedOk; decide +kernel) | exact Or.inl (by decide +kernel) | exact ok_okD _ _ (by decide +kernel) | exact some_getD _ _ (by decide +kernel) | rfl | exact ⟨_, rfl⟩ | exact ⟨_, _, _, rfl⟩ | exact ⟨_, _, _, _, rfl⟩ | exact Or.inl ⟨_, _, _, rfl⟩ | (intro e; exact absurd e (by decide +kernel))))

theorem witness_ResetsAndPins :
    (∃ (n : Nat) (env : BootEnv) (s : State), 10000 ≤ n) ∧
    (∃ (n : Nat) (env : BootEnv) (s : State), n < 10000) ∧
    (∃ (n : Nat) (env : BootEnv) (s : State), 100000 ≤ n) ∧
    (∃ (n : Nat) (env : BootEnv) (s : State), n < 100000) ∧
    (∃ (env : BootEnv) (s : State), env.straps.testEn = true) ∧
    (∃ (offset count : Nat) (s : State), s.steward.life = .ready ∧ s.board.collapsed = [] ∧ s.board.straps.strap0 = false ∧ s.board.straps.strap1 = false ∧ offset < 2 ^ 24 ∧ count ≤ 255) ∧
    (∃ (a : BitVec 7) (offset count : Nat) (s : State), a.toNat ≠ 0x4C + (b2n s.board.straps.strap0 + 2 * b2n s.board.straps.strap1)) := by
  refine ⟨⟨10000, {}, st0, ?_⟩,
    ⟨9999, {}, st0, ?_⟩,
    ⟨100000, {}, st0, ?_⟩,
    ⟨99999, {}, st0, ?_⟩,
    ⟨{ straps := { testEn := true } }, st0, ?_⟩,
    ⟨0xFFFFFF, 255, st0, ?_⟩,
    ⟨0x4D, 0, 0, st0, ?_⟩⟩
  all_goals (repeat' (first | assumption | apply And.intro | exact all_of _ (by decide +kernel) | (unfold UnifiedOk; exact all_of _ (by decide +kernel)) | decide +kernel | (unfold Room; decide +kernel) | (unfold UnifiedOk; decide +kernel) | exact Or.inl (by decide +kernel) | exact ok_okD _ _ (by decide +kernel) | exact some_getD _ _ (by decide +kernel) | rfl | exact ⟨_, rfl⟩ | exact ⟨_, _, _, rfl⟩ | exact ⟨_, _, _, _, rfl⟩ | exact Or.inl ⟨_, _, _, rfl⟩ | (intro e; exact absurd e (by decide +kernel))))

theorem witness_FlitsThatArrive :
    (∃ (i : PortId) (f : Flit) (w : FlitHead) (s : State), Running s ∧ portUp (portOf s i.val) = true ∧ flitCrc f = f.crc ∧ w = ownHead f.header ∧ reservedSet w = false ∧ (hType w = 1 ∨ hType w = 2) ∧ 1 ≤ hChunks w ∧ hChunks w ≤ 19 ∧ hSeq w = (portOf s i.val).expectSeq) ∧
    (∃ (i : PortId) (ok : Bool) (f : Flit) (s : State), Running s ∧ portUp (portOf s i.val) = true ∧ (portOf s i.val).nakSent = false ∧ (ok = false ∨ flitCrc f ≠ f.crc)) ∧
    (∃ (i : PortId) (f : Flit) (w : FlitHead) (s : State), Running s ∧ portUp (portOf s i.val) = true ∧ flitCrc f = f.crc ∧ w = ownHead f.header ∧ reservedSet w = false ∧ (hType w = 1 ∨ hType w = 2) ∧ hSeq w ≠ (portOf s i.val).expectSeq ∧ ((portOf s i.val).expectSeq + 4095 - hSeq w) % 4096 < 2048) ∧
    (∃ (i : PortId) (f : Flit) (w : FlitHead) (s : State), Running s ∧ portUp (portOf s i.val) = true ∧ flitCrc f = f.crc ∧ w = ownHead f.header ∧ hType w = 0 ∧ hChunks w = 0) ∧
    (∃ (i : PortId) (f : Flit) (w : FlitHead) (s : State), Running s ∧ portUp (portOf s i.val) = true ∧ flitCrc f = f.crc ∧ w = ownHead f.header ∧ hType w = 3 ∧ hChunks w = 0 ∧ (hAck w + 1) % 4096 = (portOf s i.val).nextSeq) ∧
    (∃ (i : PortId) (ok : Bool) (f : Flit) (s : State), Running s ∧ portUp (portOf s i.val) = false) := by
  refine ⟨⟨15, flit (1 ||| 19 <<< 35), ownHead (flit (1 ||| 19 <<< 35)).header, withPort 15 up0, ?_⟩,
    ⟨15, false, flit 0, withPort 15 up0, ?_⟩,
    ⟨15, flit (2 ||| 4095 <<< 8 ||| 1 <<< 35), ownHead (flit (2 ||| 4095 <<< 8 ||| 1 <<< 35)).header, withPort 15 up0, ?_⟩,
    ⟨15, flit 0, ownHead (flit 0).header, withPort 15 up0, ?_⟩,
    ⟨15, flit (3 ||| 4095 <<< 20), ownHead (flit (3 ||| 4095 <<< 20)).header, withPort 15 up0, ?_⟩,
    ⟨15, true, flit 0, st0, ?_⟩⟩
  · exact ⟨⟨rfl, rfl⟩, rfl, flit_crc _, rfl, by decide, Or.inl (by decide), by decide, by decide, by decide⟩
  · exact ⟨⟨rfl, rfl⟩, rfl, rfl, Or.inl rfl⟩
  · exact ⟨⟨rfl, rfl⟩, rfl, flit_crc _, rfl, by decide, Or.inr (by decide), by decide, by decide⟩
  · exact ⟨⟨rfl, rfl⟩, rfl, flit_crc _, rfl, by decide, by decide⟩
  · exact ⟨⟨rfl, rfl⟩, rfl, flit_crc _, rfl, by decide, by decide, by decide⟩
  · exact ⟨⟨rfl, rfl⟩, rfl⟩

theorem witness_RetryFenceAndCredits :
    (∃ (i : PortId) (s : State), Running s ∧ portUp (portOf s i.val) = true ∧ (portOf s i.val).replay ≠ []) ∧
    (∃ (i : PortId) (s : State), Running s ∧ portUp (portOf s i.val) = true ∧ (portOf s i.val).fencedByPeer = false) ∧
    (∃ (i : PortId) (v : Fin 8) (s : State), Running s ∧ portUp (portOf s i.val) = true) ∧
    (∃ (ack : Nat) (p : Port) (f : TxFlit), f ∈ (ackTo ack p).replay) ∧
    (∃ (ack : Nat) (p : Port) (f : TxFlit), f ∈ p.replay ∧ 2048 ≤ (ack + 4096 - hSeq f.header) % 4096) := by
  refine ⟨⟨15, withPort 15 { up0 with replay := [{ header := 0 }] }, ?_⟩,
    ⟨15, withPort 15 up0, ?_⟩,
    ⟨15, 7, withPort 15 up0, ?_⟩,
    ⟨0, { up0 with replay := [{ header := 5 <<< 8 }] }, { header := 5 <<< 8 }, ?_⟩,
    ⟨0, { up0 with replay := [{ header := 5 <<< 8 }] }, { header := 5 <<< 8 }, ?_⟩⟩
  all_goals (repeat' (first | assumption | apply And.intro | exact all_of _ (by decide +kernel) | (unfold UnifiedOk; exact all_of _ (by decide +kernel)) | decide +kernel | (unfold Room; decide +kernel) | (unfold UnifiedOk; decide +kernel) | exact Or.inl (by decide +kernel) | exact ok_okD _ _ (by decide +kernel) | exact some_getD _ _ (by decide +kernel) | rfl | exact ⟨_, rfl⟩ | exact ⟨_, _, _, rfl⟩ | exact ⟨_, _, _, _, rfl⟩ | exact Or.inl ⟨_, _, _, rfl⟩ | (intro e; exact absurd e (by decide +kernel))))

theorem witness_PortStates :
    (∃ (i : PortId) (s : State), Running s ∧ (portOf s i.val).state = .up4) ∧
    (∃ (i : PortId) (m : BitVec 4) (s : State), Running s ∧ (portOf s i.val).state = .up4 ∧ (portOf s i.val).fastRetrains = 2) ∧
    (∃ (i : PortId) (s : State), Running s ∧ (portOf s i.val).state = .training ∧ (portOf s i.val).trainHandle = 0) ∧
    (∃ (i : PortId) (m : BitVec 4) (s : State), Running s ∧ (portOf s i.val).state = .training ∧ laneCount m < 3) ∧
    (∃ (i : PortId) (s : State), Running s ∧ portUp (portOf s i.val) = true) ∧
    (∃ (i : PortId) (l : Fin 4) (s : State), Running s ∧ (portOf s i.val).state = .up4 ∧ (portOf s i.val).lanes.getLsbD l.val = true) ∧
    (∃ (i : PortId) (l : Fin 4) (s : State), Running s ∧ (portOf s i.val).state = .up3 ∧ (portOf s i.val).lanes.getLsbD l.val = true) ∧
    (∃ (i : Nat) (s : State), (portOf s i).state ≠ .down ∧ (portOf s i).recalHandle = 0 ∧ (portOf s i).trainHandle = 0) := by
  refine ⟨⟨15, withPort 15 up0, ?_⟩,
    ⟨15, 7, withPort 15 { up0 with fastRetrains := 2 }, ?_⟩,
    ⟨15, withPort 15 { state := .training }, ?_⟩,
    ⟨15, 3, withPort 15 { state := .training }, ?_⟩,
    ⟨15, withPort 15 up0, ?_⟩,
    ⟨15, 3, withPort 15 up0, ?_⟩,
    ⟨15, 3, withPort 15 { state := .up3, lanes := 0xE }, ?_⟩,
    ⟨15, withPort 15 up0, ?_⟩⟩
  all_goals (repeat' (first | assumption | apply And.intro | exact all_of _ (by decide +kernel) | (unfold UnifiedOk; exact all_of _ (by decide +kernel)) | decide +kernel | (unfold Room; decide +kernel) | (unfold UnifiedOk; decide +kernel) | exact Or.inl (by decide +kernel) | exact ok_okD _ _ (by decide +kernel) | exact some_getD _ _ (by decide +kernel) | rfl | exact ⟨_, rfl⟩ | exact ⟨_, _, _, rfl⟩ | exact ⟨_, _, _, _, rfl⟩ | exact Or.inl ⟨_, _, _, rfl⟩ | (intro e; exact absurd e (by decide +kernel))))

theorem witness_LinkControlMessages :
    (∃ (i : PortId) (id : W16) (pp : W16) (m : BitVec 4) (b sw : Bool) (ack : BitVec 12) (s : State), Running s ∧ portLit (portOf s i.val) = true ∧ (portOf s i.val).peerId = none) ∧
    (∃ (i : PortId) (id k : W16) (pp : W16) (m : BitVec 4) (b sw : Bool) (ack : BitVec 12) (s : State), Running s ∧ portLit (portOf s i.val) = true ∧ (portOf s i.val).peerId = some k ∧ k ≠ id) ∧
    (∃ (i : PortId) (t : W64) (s : State), Running s ∧ portUp (portOf s i.val) = true) ∧
    (∃ (i : PortId) (t u n : W64) (s : State), Running s ∧ portUp (portOf s i.val) = true ∧ (portOf s i.val).echoes.length = 63) ∧
    (∃ (i : PortId) (src : W16) (payload : BitVec 256) (s : State), Running s ∧ portUp (portOf s i.val) = true) := by
  refine ⟨⟨15, 1, 0, 0, false, false, 0, withPort 15 up0, ?_⟩,
    ⟨15, 1, 2, 0, 0, false, false, 0, withPort 15 { up0 with peerId := some 2 }, ?_⟩,
    ⟨15, 0, withPort 15 up0, ?_⟩,
    ⟨15, 0, 0, 0, withPort 15 { up0 with echoes := List.replicate 63 0 }, ?_⟩,
    ⟨15, 0, 0, withPort 15 up0, ?_⟩⟩
  all_goals (repeat' (first | assumption | apply And.intro | exact all_of _ (by decide +kernel) | (unfold UnifiedOk; exact all_of _ (by decide +kernel)) | decide +kernel | (unfold Room; decide +kernel) | (unfold UnifiedOk; decide +kernel) | exact Or.inl (by decide +kernel) | exact ok_okD _ _ (by decide +kernel) | exact some_getD _ _ (by decide +kernel) | rfl | exact ⟨_, rfl⟩ | exact ⟨_, _, _, rfl⟩ | exact ⟨_, _, _, _, rfl⟩ | exact Or.inl ⟨_, _, _, rfl⟩ | (intro e; exact absurd e (by decide +kernel))))

theorem witness_LinkCommandsAndAlignment :
    (∃ (hdr : Hdr) (g : BitVec 128) (s : State), HeardPf s hdr ∧ groupOk g = true) ∧
    (∃ (hdr : Hdr) (g : BitVec 128) (s : State), HeardPf s hdr ∧ groupOk g = false) ∧
    (∃ (hdr : Hdr) (port : W64) (s : State), HeardPf s hdr ∧ Room s 0 ∧ port.toNat < 16 ∧ (portOf s port.toNat).state = .up4 ∧ dieRecals s port.toNat = false) ∧
    (∃ (hdr : Hdr) (port : W64) (s : State), HeardPf s hdr ∧ Room s 0 ∧ port.toNat < 16 ∧ (portOf s port.toNat).state = .down ∧ (lgPortEn s.links.group).testBit port.toNat = true) ∧
    (∃ (i : PortId) (s : State), Running s ∧ (portOf s i.val).state = .recal ∧ (portOf s i.val).recalLane = some 3) ∧
    (∃ (i : PortId) (a : BitVec 12) (lo : BitVec 6) (phase : Int) (s : State), Running s ∧ lgSource s.links.group = 3 ∧ lgUpPort s.links.group = i.val ∧ portUp (portOf s i.val) = true) ∧
    (∃ s : State, Running s ∧ 2 ≤ lgSource s.links.group) ∧
    (∃ (n : Nat) (s : State), Running s ∧ lgSource s.links.group = 2 ∧ lgPeriod s.links.group * 1000 ≤ n + 1000) ∧
    (∃ (n : Nat) (s : State), Running s ∧ lgSource s.links.group = 2 ∧ n + 1000 < lgPeriod s.links.group * 1000) ∧
    (∃ s : State, Running s ∧ s.host.linkUp = true) ∧
    (∃ (f : FPortId) (s : State), Running s) ∧
    (∃ (xd : Fin 4) (s : State), Running s) := by
  refine ⟨⟨{}, 0xFFFF000000000001F400000000000000 ||| 0x64 <<< 68, st0, ?_⟩,
    ⟨{}, 0, st0, ?_⟩,
    ⟨{}, 15, withPort 15 up0, ?_⟩,
    ⟨{}, 15, { st0 with links.group := 0xFFFF <<< 96 }, ?_⟩,
    ⟨15, withPort 15 { state := .recal, recalLane := some 3 }, ?_⟩,
    ⟨15, 0, 63, 0, withPort 15 up0 (grp (3 ||| 15 <<< 2)), ?_⟩,
    ⟨grp 2, ?_⟩,
    ⟨99000, { st0 with links.group := 2 <<< 50 ||| 100 <<< 57 }, ?_⟩,
    ⟨98999, { st0 with links.group := 2 <<< 50 ||| 100 <<< 57 }, ?_⟩,
    ⟨st0, ?_⟩,
    ⟨3, st0, ?_⟩,
    ⟨3, st0, ?_⟩⟩
  all_goals (repeat' (first | assumption | apply And.intro | exact all_of _ (by decide +kernel) | (unfold UnifiedOk; exact all_of _ (by decide +kernel)) | decide +kernel | (unfold Room; decide +kernel) | (unfold UnifiedOk; decide +kernel) | exact Or.inl (by decide +kernel) | exact ok_okD _ _ (by decide +kernel) | exact some_getD _ _ (by decide +kernel) | rfl | exact ⟨_, rfl⟩ | exact ⟨_, _, _, rfl⟩ | exact ⟨_, _, _, _, rfl⟩ | exact Or.inl ⟨_, _, _, rfl⟩ | (intro e; exact absurd e (by decide +kernel))))

theorem witness_PatternsLoadAndUnload :
    (∃ (fn : Fn) (hdr : Hdr) (desc : DescWord) (image : PatternImage) (p n : Nat) (x : Partition) (s : State), Heard s fn hdr ∧ Acts s fn hdr p x ∧ Room s fn ∧ UnifiedOk s p x desc ∧ PatternOk s p { pat := image, table := image.bindings, spaces := spacesOf x, banks := x.banks, load := true } ∧ tfree x.patterns 256 = some n) ∧
    (∃ (fn : Fn) (hdr : Hdr) (pattern : W64) (p : Nat) (x : Partition) (img : PatternImage) (s : State), Heard s fn hdr ∧ Acts s fn hdr p x ∧ tget? x.patterns pattern.toNat = some img ∧ (∀ j ∈ x.jobs, j.2.pattern ≠ pattern.toNat)) ∧
    (∃ (fn : Fn) (hdr : Hdr) (pattern : W64) (p : Nat) (x : Partition) (img : PatternImage) (s : State), Heard s fn hdr ∧ Acts s fn hdr p x ∧ tget? x.patterns pattern.toNat = some img ∧ (∃ j ∈ x.jobs, j.2.pattern = pattern.toNat)) ∧
    (∃ (fn : Fn) (hdr : Hdr) (pattern : W64) (p : Nat) (x : Partition) (s : State), Heard s fn hdr ∧ Acts s fn hdr p x ∧ tget? x.patterns pattern.toNat = none) := by
  refine ⟨⟨0, hdr0, desc 0 0 8, pat0, 0, 0, x0, st0, ?_⟩,
    ⟨0, hdr0, 0, 0, { x0 with patterns := [(0, pat0)] }, pat0, at0 { x0 with patterns := [(0, pat0)] }, ?_⟩,
    ⟨0, hdr0, 0, 0, xj (job0 1), pat0, at0 (xj (job0 1)), ?_⟩,
    ⟨0, hdr0, 255, 0, x0, st0, ?_⟩⟩
  all_goals (repeat' (first | assumption | apply And.intro | exact all_of _ (by decide +kernel) | (unfold UnifiedOk; exact all_of _ (by decide +kernel)) | decide +kernel | (unfold Room; decide +kernel) | (unfold UnifiedOk; decide +kernel) | exact Or.inl (by decide +kernel) | exact ok_okD _ _ (by decide +kernel) | exact some_getD _ _ (by decide +kernel) | rfl | exact ⟨_, rfl⟩ | exact ⟨_, _, _, rfl⟩ | exact ⟨_, _, _, _, rfl⟩ | exact Or.inl ⟨_, _, _, rfl⟩ | (intro e; exact absurd e (by decide +kernel))))

theorem witness_JobsAndTheirShares :
    (∃ (fn : Fn) (hdr : Hdr) (pattern cls quads banks weight slice : W64) (context : DescWord) (p n : Nat) (x : Partition) (pat : PatternImage) (s : State), Heard s fn hdr ∧ Acts s fn hdr p x ∧ tget? x.patterns pattern.toNat = some pat ∧ jobFormOk x pat cls quads banks weight slice = true ∧ UnifiedOk s p x context ∧ contextOk s x pat context = true ∧ readOnlyDesc s context = false ∧ PlacementOk s p x { pat := pat, table := pat.bindings, spaces := spacesOf x, banks := x.banks } (jobCores s { pattern := pattern.toNat, cls := cls.toNat, quads := quads, banks := banks, weight := weight.toNat, slice := slice.toNat, ctx := context }) ∧ jobRoom x pat cls banks = true ∧ tfree x.jobs 64 = some n) ∧
    (∃ (fn : Fn) (hdr : Hdr) (job : W64) (p : Nat) (x : Partition) (j : Job) (s : State), Heard s fn hdr ∧ Acts s fn hdr p x ∧ tget? x.jobs job.toNat = some j ∧ jobHasStep x job.toNat = false) ∧
    (∃ (fn : Fn) (hdr : Hdr) (job : W64) (p : Nat) (x : Partition) (j : Job) (s : State), Heard s fn hdr ∧ Acts s fn hdr p x ∧ tget? x.jobs job.toNat = some j ∧ jobHasStep x job.toNat = true) ∧
    (∃ (fn : Fn) (hdr : Hdr) (job cls weight slice : W64) (p : Nat) (x : Partition) (j : Job) (s : State), Heard s fn hdr ∧ Acts s fn hdr p x ∧ tget? x.jobs job.toNat = some j ∧ 1 ≤ weight.toNat ∧ weight.toNat ≤ 255 ∧ 1 ≤ slice.toNat ∧ slice.toNat ≤ 64 ∧ cls.toNat ≤ 3) ∧
    (∃ (fn : Fn) (hdr : Hdr) (job : W64) (p : Nat) (x : Partition) (j : Job) (s : State), Heard s fn hdr ∧ Acts s fn hdr p x ∧ tget? x.jobs job.toNat = some j ∧ x.locks = []) := by
  refine ⟨⟨0, hdr0, 0, 3, 1, 0, 255, 64, desc 0 0 8, 0, 0, { xpin with patterns := [(0, pat0)] }, pat0, at0 { xpin with patterns := [(0, pat0)] }, ?_⟩,
    ⟨0, hdr0, 0, 0, xj (job0 1), job0 1, at0 (xj (job0 1)), ?_⟩,
    ⟨0, hdr0, 0, 0, xs run0, job0 1, at0 (xs run0), ?_⟩,
    ⟨0, hdr0, 0, 3, 255, 64, 0, xj (job0 1), job0 1, at0 (xj (job0 1)), ?_⟩,
    ⟨0, hdr0, 0, 0, xj (job0 1), job0 1, at0 (xj (job0 1)), ?_⟩⟩
  all_goals (repeat' (first | assumption | apply And.intro | exact all_of _ (by decide +kernel) | (unfold UnifiedOk; exact all_of _ (by decide +kernel)) | decide +kernel | (unfold Room; decide +kernel) | (unfold UnifiedOk; decide +kernel) | exact Or.inl (by decide +kernel) | exact ok_okD _ _ (by decide +kernel) | exact some_getD _ _ (by decide +kernel) | rfl | exact ⟨_, rfl⟩ | exact ⟨_, _, _, rfl⟩ | exact ⟨_, _, _, _, rfl⟩ | exact Or.inl ⟨_, _, _, rfl⟩ | (intro e; exact absurd e (by decide +kernel))))

theorem witness_SubmissionsAndSlots :
    (∃ (fn : Fn) (hdr : Hdr) (ops : StepOps) (p : Nat) (x : Partition) (r : Step × State) (s : State), Heard s fn hdr ∧ Acts s fn hdr p x ∧ prepareStep p x ops none s = .ok r ∧ Room r.2 fn) ∧
    (∃ (p : Nat) (x : Partition) (ops : StepOps) (slot : Option (Nat × Nat)) (r : Step × State) (s : State), prepareStep p x ops slot s = .ok r) ∧
    (∃ (fn : Fn) (hdr : Hdr) (ops : StepOps) (p : Nat) (x : Partition) (j : Job) (pat : PatternImage) (s : State), Heard s fn hdr ∧ Acts s fn hdr p x ∧ tget? x.jobs ops.job.toNat = some j ∧ tget? x.patterns j.pattern = some pat ∧ (ops.words.all fun w => decide (w.toNat < 2 ^ 32)) = true ∧ ops.words.length ≤ 8 ∧ flagOk ops.det = true ∧ ops.retry ≠ 0 ∧ (∀ d ∈ x.discardedEpochs, d.1 = ops.job.toNat → d.2.1 ≠ ops.retry.toNat)) ∧
    (∃ (fn : Fn) (hdr : Hdr) (slot : W64) (ops : StepOps) (p : Nat) (x : Partition) (j : Job) (r : Step × State) (s : State), Heard s fn hdr ∧ Acts s fn hdr p x ∧ slot.toNat < 16 ∧ (slotOf (fnOf s fn) slot.toNat).state = 0 ∧ prepareStep p x ops (some (fn.val, slot.toNat)) s = .ok r ∧ Room r.2 fn ∧ tget? x.jobs r.1.job = some j ∧ coresIdle r.2 j = false) ∧
    (∃ (fn : Fn) (hdr : Hdr) (slot : W64) (ops : StepOps) (p : Nat) (x : Partition) (s : State), Heard s fn hdr ∧ Acts s fn hdr p x ∧ slot.toNat < 16 ∧ (slotOf (fnOf s fn) slot.toNat).state ≠ 0) ∧
    (∃ (fn : Fn) (hdr : Hdr) (slot : W64) (s : State), Heard s fn hdr ∧ slot.toNat < 16 ∧ (slotOf (fnOf s fn) slot.toNat).state = 1) ∧
    (∃ (fn : Fn) (hdr : Hdr) (slot : W64) (s : State), Heard s fn hdr ∧ slot.toNat < 16 ∧ (slotOf (fnOf s fn) slot.toNat).state ≠ 1) := by
  refine ⟨⟨0, hdr0, { job := 0 }, 0, xj (job0 1), okD (prepareStep 0 (xj (job0 1)) { job := 0 } none (at0 (xj (job0 1)))) (run0, st0), at0 (xj (job0 1)), ?_⟩,
    ⟨0, xj (job0 1), { job := 0 }, none, okD (prepareStep 0 (xj (job0 1)) { job := 0 } none (at0 (xj (job0 1)))) (run0, st0), at0 (xj (job0 1)), ?_⟩,
    ⟨0, hdr0, { job := 0, retry := 1 }, 0, xj (job0 1), job0 1, pat0, at0 (xj (job0 1)), ?_⟩,
    ⟨0, hdr0, 15, { job := 0 }, 0, xj (job0 1), job0 1, okD (prepareStep 0 (xj (job0 1)) { job := 0 } (some (0, 15)) busy0) (run0, st0), busy0, ?_⟩,
    ⟨0, hdr0, 15, { job := 0 }, 0, x0, withFn 0 { slots := [(15, { state := 1 })] }, ?_⟩,
    ⟨0, hdr0, 15, withFn 0 { slots := [(15, { state := 1 })] }, ?_⟩,
    ⟨0, hdr0, 15, st0, ?_⟩⟩
  all_goals (repeat' (first | assumption | apply And.intro | exact all_of _ (by decide +kernel) | (unfold UnifiedOk; exact all_of _ (by decide +kernel)) | decide +kernel | (unfold Room; decide +kernel) | (unfold UnifiedOk; decide +kernel) | exact Or.inl (by decide +kernel) | exact ok_okD _ _ (by decide +kernel) | exact some_getD _ _ (by decide +kernel) | rfl | exact ⟨_, rfl⟩ | exact ⟨_, _, _, rfl⟩ | exact ⟨_, _, _, _, rfl⟩ | exact Or.inl ⟨_, _, _, rfl⟩ | (intro e; exact absurd e (by decide +kernel))))

theorem witness_StopResumeCommitFrog :
    (∃ (fn : Fn) (hdr : Hdr) (h : Nat) (x : Partition) (st : Step) (s : State), Heard s fn hdr ∧ OnStep s fn hdr h x st ∧ st.state = .running ∧ st.suspended = false ∧ st.frogging = false) ∧
    (∃ (fn : Fn) (hdr : Hdr) (h : Nat) (x : Partition) (st : Step) (s : State), Heard s fn hdr ∧ OnStep s fn hdr h x st ∧ st.state ≠ .running) ∧
    (∃ (fn : Fn) (hdr : Hdr) (h : Nat) (x : Partition) (st : Step) (s : State), Heard s fn hdr ∧ OnStep s fn hdr h x st ∧ st.state = .running ∧ st.suspended = true ∧ stepClass (modStep h (fun st => { st with suspended := false }) s) h ≠ 0) ∧
    (∃ (fn : Fn) (hdr : Hdr) (h : Nat) (x : Partition) (st : Step) (s : State), Heard s fn hdr ∧ OnStep s fn hdr h x st ∧ st.state = .held) ∧
    (∃ (fn : Fn) (hdr : Hdr) (h : Nat) (x : Partition) (st : Step) (s : State), Heard s fn hdr ∧ OnStep s fn hdr h x st ∧ (st.state = .queued ∨ st.state = .running ∨ st.state = .stopped)) ∧
    (∃ (fn : Fn) (hdr : Hdr) (h : Nat) (x : Partition) (st : Step) (s : State), Heard s fn hdr ∧ OnStep s fn hdr h x st ∧ (st.state = .committed ∨ st.state = .discarded)) ∧
    (∃ (fn : Fn) (hdr : Hdr) (h : Nat) (x : Partition) (st : Step) (s : State), Heard s fn hdr ∧ OnStep s fn hdr h x st ∧ st.state = .held) ∧
    (∃ (fn : Fn) (hdr : Hdr) (h : Nat) (x : Partition) (st : Step) (s : State), Heard s fn hdr ∧ OnStep s fn hdr h x st ∧ st.state = .stopped) ∧
    (∃ (fn : Fn) (hdr : Hdr) (h : Nat) (x : Partition) (st : Step) (s : State), Heard s fn hdr ∧ OnStep s fn hdr h x st ∧ st.state = .running) ∧
    (∃ (fn : Fn) (hdr : Hdr) (h : Nat) (x : Partition) (st : Step) (s : State), Heard s fn hdr ∧ OnStep s fn hdr h x st ∧ st.state = .queued) ∧
    (∃ (fn : Fn) (hdr : Hdr) (s : State), Heard s fn hdr ∧ targetError s (if fn.val = 0 then none else some (fn.val - 1)) hdr.target.toNat = none ∧ handleKind hdr.target.toNat ≠ 1) := by
  refine ⟨⟨0, hdrS, h0 1 1, xs (run0), run0, stepIn (run0), ?_⟩,
    ⟨0, hdrS, h0 1 1, xs ({ run0 with state := .held }), { run0 with state := .held }, stepIn ({ run0 with state := .held }), ?_⟩,
    ⟨0, hdrS, h0 1 1, xs ({ run0 with suspended := true }), { run0 with suspended := true }, stepIn ({ run0 with suspended := true }), ?_⟩,
    ⟨0, hdrS, h0 1 1, xs ({ run0 with state := .held }), { run0 with state := .held }, stepIn ({ run0 with state := .held }), ?_⟩,
    ⟨0, hdrS, h0 1 1, xs ({ run0 with state := .stopped }), { run0 with state := .stopped }, stepIn ({ run0 with state := .stopped }), ?_⟩,
    ⟨0, hdrS, h0 1 1, xs ({ run0 with state := .committed }), { run0 with state := .committed }, stepIn ({ run0 with state := .committed }), ?_⟩,
    ⟨0, hdrS, h0 1 1, xs ({ run0 with state := .held }), { run0 with state := .held }, stepIn ({ run0 with state := .held }), ?_⟩,
    ⟨0, hdrS, h0 1 1, xs ({ run0 with state := .stopped }), { run0 with state := .stopped }, stepIn ({ run0 with state := .stopped }), ?_⟩,
    ⟨0, hdrS, h0 1 1, xs (run0), run0, stepIn (run0), ?_⟩,
    ⟨0, hdrS, h0 1 1, xs ({ run0 with state := .queued }), { run0 with state := .queued }, stepIn ({ run0 with state := .queued }), ?_⟩,
    ⟨0, { target := w64 (h0 2 1) }, withHandle (h0 2 1) (rec0 2 .none), ?_⟩⟩
  all_goals (repeat' (first | assumption | apply And.intro | exact all_of _ (by decide +kernel) | (unfold UnifiedOk; exact all_of _ (by decide +kernel)) | decide +kernel | (unfold Room; decide +kernel) | (unfold UnifiedOk; decide +kernel) | exact Or.inl (by decide +kernel) | exact ok_okD _ _ (by decide +kernel) | exact some_getD _ _ (by decide +kernel) | rfl | exact ⟨_, rfl⟩ | exact ⟨_, _, _, rfl⟩ | exact ⟨_, _, _, _, rfl⟩ | exact Or.inl ⟨_, _, _, rfl⟩ | (intro e; exact absurd e (by decide +kernel))))

theorem witness_StepsAdvance :
    (∃ (handle : W64) (s : State) (j : Job) (st : Step), Running s ∧ stepJob s handle.toNat = some j ∧ getStep s handle.toNat = some st ∧ turnComes s handle.toNat false = true ∧ j.cls ≠ 0 ∧ j.holdsQuads = true ∧ coresIdle s j = true) ∧
    (∃ (handle : W64) (s : State) (j : Job) (st : Step), Running s ∧ stepJob s handle.toNat = some j ∧ getStep s handle.toNat = some st ∧ st.state = .running ∧ st.suspended = false ∧ j.cls = 0 ∧ coresIdle s j = true ∧ unissued s handle.toNat = true) ∧
    (∃ (core : CoreId) (s : State), Running s ∧ (coreOf s core.val).saving = true ∧ (coreOf s core.val).sample = none) ∧
    (∃ (core : CoreId) (s : State) (v : Saved), Running s ∧ restorable s core.val = some v) ∧
    (∃ (handle : W64) (s : State) (st : Step), Running s ∧ getStep s handle.toNat = some st ∧ st.state = .running ∧ st.frogging = false ∧ st.suspended = false ∧ allFinished s handle.toNat = true ∧ accessTrouble s (holdPages s handle.toNat st) = none ∧ st.replayOf = none) ∧
    (∃ (handle : W64) (t : Nat × Nat) (s : State) (st : Step), Running s ∧ getStep s handle.toNat = some st ∧ st.state = .running ∧ st.frogging = false ∧ st.suspended = false ∧ allFinished s handle.toNat = true ∧ accessTrouble s (holdPages s handle.toNat st) = some t) ∧
    (∃ (handle : W64) (s : State) (st : Step), Running s ∧ getStep s handle.toNat = some st ∧ st.state = .running ∧ st.frogging = true ∧ runningOn s handle.toNat = []) := by
  refine ⟨⟨w64 (h0 1 1), stepIn ({ run0 with state := .queued }) ({ job0 1 with holdsQuads := true }), { job0 1 with holdsQuads := true }, { run0 with state := .queued }, ?_⟩,
    ⟨w64 (h0 1 1), stepIn run0 (job0 0), job0 0, run0, ?_⟩,
    ⟨207, withCore 207 { saving := true }, ?_⟩,
    ⟨0, withCore 0 { saved := [saved0] } (stepIn run0), saved0, ?_⟩,
    ⟨w64 (h0 1 1), withCore 0 { step := some (h0 1 1), lanes := [(0, { finished := true })] } (stepIn run0), run0, ?_⟩,
    ⟨w64 (h0 1 1), (0x0402, 0), lostLog, logRun, ?_⟩,
    ⟨w64 (h0 1 1), stepIn { run0 with frogging := true }, { run0 with frogging := true }, ?_⟩⟩
  all_goals (repeat' (first | assumption | apply And.intro | exact all_of _ (by decide +kernel) | (unfold UnifiedOk; exact all_of _ (by decide +kernel)) | decide +kernel | (unfold Room; decide +kernel) | (unfold UnifiedOk; decide +kernel) | exact Or.inl (by decide +kernel) | exact ok_okD _ _ (by decide +kernel) | exact some_getD _ _ (by decide +kernel) | rfl | exact ⟨_, rfl⟩ | exact ⟨_, _, _, rfl⟩ | exact ⟨_, _, _, _, rfl⟩ | exact Or.inl ⟨_, _, _, rfl⟩ | (intro e; exact absurd e (by decide +kernel))))

theorem witness_BankCommands :
    (∃ (fn : Fn) (hdr : Hdr) (o : BankOps) (p i : Nat) (x : Partition) (s : State), Heard s fn hdr ∧ Acts s fn hdr p x ∧ Room s fn ∧ flagOk o.opt = true ∧ flagOk o.work = true ∧ o.wfmt.toNat < 32 ∧ 0 < o.elements.toNat ∧ o.elements.toNat ≤ 2 ^ 39 ∧ o.header.toNat + 64 ≤ 2 ^ 43 ∧ (∀ d ∈ o.init :: bankDescs o, UnifiedOk s p x d) ∧ bankFormOk o = true ∧ descReservedOk o.k0 = true ∧ descReservedOk o.k1 = true ∧ pagesOwned s p o.header.toNat 64 = true ∧ ((pagesOf o.header.toNat 64).any fun g => readOnlyPage s g || controlPage s g) = false ∧ (∀ d ∈ bankDescs o, readOnlyDesc s d = false) ∧ tfree x.banks 64 = some i) ∧
    (∃ (fn : Fn) (hdr : Hdr) (bank : W64) (w m v : DescWord) (p : Nat) (x : Partition) (b : Bank) (s : State), Heard s fn hdr ∧ Acts s fn hdr p x ∧ Room s fn ∧ tget? x.banks bank.toNat = some b ∧ (∀ d ∈ [w, m, v], UnifiedOk s p x d ∧ dCount d = b.elements ∧ readOnlyDesc s d = false)) ∧
    (∃ (fn : Fn) (hdr : Hdr) (bank : W64) (w m v : DescWord) (tt p1 p2 : W64) (p : Nat) (x : Partition) (b : Bank) (s : State), Heard s fn hdr ∧ Acts s fn hdr p x ∧ Room s fn ∧ tget? x.banks bank.toNat = some b ∧ tt.toNat < 2 ^ 32 ∧ p1.toNat < 2 ^ 32 ∧ p2.toNat < 2 ^ 32 ∧ (∀ d ∈ [w, m, v], UnifiedOk s p x d ∧ dCount d = b.elements) ∧ bankHeld x bank.toNat = false) ∧
    (∃ (fn : Fn) (hdr : Hdr) (bank : W64) (p : Nat) (x : Partition) (b : Bank) (s : State), Heard s fn hdr ∧ Acts s fn hdr p x ∧ tget? x.banks bank.toNat = some b ∧ bankHeld x bank.toNat = false) ∧
    (∃ (fn : Fn) (hdr : Hdr) (bank : W64) (p : Nat) (x : Partition) (b : Bank) (s : State), Heard s fn hdr ∧ Acts s fn hdr p x ∧ tget? x.banks bank.toNat = some b ∧ bankHeld x bank.toNat = true) := by
  refine ⟨⟨0, hdr0, bankOps0, 0, 0, x0, st0, ?_⟩,
    ⟨0, hdr0, 0, m48, f32d, f32d, 0, xb, bank0, at0 xb, ?_⟩,
    ⟨0, hdr0, 0, m48, f32d, f32d, 0xFFFFFFFF, 0, 0, 0, xb, bank0, at0 xb, ?_⟩,
    ⟨0, hdr0, 0, 0, xb, bank0, at0 xb, ?_⟩,
    ⟨0, hdr0, 0, 0, xbh, bank0, at0 xbh, ?_⟩⟩
  all_goals (repeat' (first | assumption | apply And.intro | exact all_of _ (by decide +kernel) | (unfold UnifiedOk; exact all_of _ (by decide +kernel)) | decide +kernel | (unfold Room; decide +kernel) | (unfold UnifiedOk; decide +kernel) | exact Or.inl (by decide +kernel) | exact ok_okD _ _ (by decide +kernel) | exact some_getD _ _ (by decide +kernel) | rfl | exact ⟨_, rfl⟩ | exact ⟨_, _, _, rfl⟩ | exact ⟨_, _, _, _, rfl⟩ | exact Or.inl ⟨_, _, _, rfl⟩ | (intro e; exact absurd e (by decide +kernel))))

theorem witness_ReplayCommands :
    (∃ (fn : Fn) (hdr : Hdr) (addr size : W64) (p : Nat) (x : Partition) (s : State), Heard s fn hdr ∧ Acts s fn hdr p x ∧ 2 ^ 20 ≤ size.toNat ∧ size.toNat ≤ 2 ^ 32 ∧ size.toNat % 65536 = 0 ∧ addr.toNat + size.toNat ≤ 2 ^ 43 ∧ pagesOwned s p addr.toNat size.toNat = true ∧ ((pagesOf addr.toNat size.toNat).any fun g => readOnlyPage s g || controlPage s g) = false) ∧
    (∃ (fn : Fn) (hdr : Hdr) (addr : W64) (p : Nat) (x : Partition) (s : State), Heard s fn hdr ∧ Acts s fn hdr p x ∧ addr.toNat ≤ 2 ^ 43) ∧
    (∃ (fn : Fn) (hdr : Hdr) (epoch : W64) (subs : List (W32 × DescWord)) (outs : List DescWord) (report : DescWord) (p : Nat) (x : Partition) (s : State), Heard s fn hdr ∧ Acts s fn hdr p x ∧ Room s fn ∧ (∀ d ∈ subs.map (·.2) ++ outs ++ [report], unifiedOk d = true ∧ descPermitted s p x x.mapbuf cmdCore d = true) ∧ (∀ d ∈ report :: outs, readOnlyDesc s d = false) ∧ loggedStep s x epoch.toNat = none) ∧
    (∃ (fn : Fn) (hdr : Hdr) (epoch : W64) (subs : List (W32 × DescWord)) (outs : List DescWord) (report : DescWord) (p : Nat) (x : Partition) (l : Nat × Step × Nat) (pat : PatternImage) (r : List (Nat × Nat × Nat) × State) (s : State), Heard s fn hdr ∧ Acts s fn hdr p x ∧ Room r.2 fn ∧ (∀ d ∈ subs.map (·.2) ++ outs ++ [report], unifiedOk d = true ∧ descPermitted s p x x.mapbuf cmdCore d = true) ∧ (∀ d ∈ report :: outs, readOnlyDesc s d = false) ∧ loggedStep s x epoch.toNat = some l ∧ stepPattern s l.1 = some pat ∧ (∀ d ∈ replayInputs s l.1 pat subs, d ∈ ((replayStep s l.2.1 pat l.2.2 subs outs report).replayOf.map (·.ins)).getD []) ∧ reserveSpills p { pat := pat, table := (replayStep s l.2.1 pat l.2.2 subs outs report).table } (encodeCalls (replayStep s l.2.1 pat l.2.2 subs outs report).table) s = .ok r) := by
  refine ⟨⟨0, hdr0, 0, 2 ^ 20, 0, x0, st0, ?_⟩,
    ⟨0, hdr0, 2 ^ 43, 0, x0, st0, ?_⟩,
    ⟨0, hdr0, 1, [], [], desc 0 0 8, 0, x0, st0, ?_⟩,
    ⟨0, hdr0, 1, [(7, desc 0 0 8)], [f32d], desc 0 0 8, 0, xlog, (h0 1 1, logged0, 64), pat0, ([], logst), logst, ?_⟩⟩
  all_goals (repeat' (first | assumption | apply And.intro | exact all_of _ (by decide +kernel) | (unfold UnifiedOk; exact all_of _ (by decide +kernel)) | decide +kernel | (unfold Room; decide +kernel) | (unfold UnifiedOk; decide +kernel) | exact Or.inl (by decide +kernel) | exact ok_okD _ _ (by decide +kernel) | exact some_getD _ _ (by decide +kernel) | rfl | exact ⟨_, rfl⟩ | exact ⟨_, _, _, rfl⟩ | exact ⟨_, _, _, _, rfl⟩ | exact Or.inl ⟨_, _, _, rfl⟩ | (intro e; exact absurd e (by decide +kernel))))

theorem witness_PelotonsFormAndEnd :
    (∃ (part : PartId) (n : Nat) (q : Peloton) (s : State), Running s ∧ getPel s part.val n = some q ∧ q.formed = false ∧ (∀ i ∈ pelPorts q.header q.members, ∀ v ∈ pelVcs q.header, (vcOf (portOf s i) v).first = true)) ∧
    (∃ (fn : Fn) (hdr : Hdr) (peloton : W64) (p : Nat) (x : Partition) (q : Peloton) (s : State), Heard s fn hdr ∧ Acts s fn hdr p x ∧ tget? x.pelotons peloton.toNat = some q ∧ pelotonBusy s x peloton.toNat = false ∧ q.lap = none ∧ q.frog = none ∧ q.handle = 0) ∧
    (∃ (fn : Fn) (hdr : Hdr) (peloton : W64) (p : Nat) (x : Partition) (q : Peloton) (s : State), Heard s fn hdr ∧ Acts s fn hdr p x ∧ tget? x.pelotons peloton.toNat = some q ∧ pelotonBusy s x peloton.toNat = true) ∧
    (∃ (fn : Fn) (hdr : Hdr) (peloton window peerLimit latePolicy thin headroom : W64) (p : Nat) (x : Partition) (q : Peloton) (s : State), Heard s fn hdr ∧ Acts s fn hdr p x ∧ tget? x.pelotons peloton.toNat = some q ∧ 1 ≤ window.toNat ∧ window.toNat ≤ 255 ∧ 2 ≤ peerLimit.toNat ∧ peerLimit.toNat ≤ 15 ∧ latePolicy.toNat ≤ 1 ∧ thin.toNat ≤ 63 ∧ headroom.toNat ≤ 7) ∧
    (∃ (fn : Fn) (hdr : Hdr) (peloton window peerLimit latePolicy thin headroom : W64) (p : Nat) (x : Partition) (q : Peloton) (s : State), Heard s fn hdr ∧ Acts s fn hdr p x ∧ tget? x.pelotons peloton.toNat = some q ∧ (window.toNat = 0 ∨ 255 < window.toNat ∨ peerLimit.toNat < 2 ∨ 15 < peerLimit.toNat ∨ 1 < latePolicy.toNat)) ∧
    (∃ (fn : Fn) (hdr : Hdr) (peloton : W64) (p : Nat) (x : Partition) (q : Peloton) (s : State), Heard s fn hdr ∧ Acts s fn hdr p x ∧ tget? x.pelotons peloton.toNat = some q) ∧
    (∃ (fn : Fn) (hdr : Hdr) (desc : DescWord) (p : Nat) (x : Partition) (s : State) (h : BitVec 512) (members : List W64) (shards : List (BitVec 256)), Heard s fn hdr ∧ Acts s fn hdr p x ∧ UnifiedOk s p x desc ∧ h = BitVec.ofNat 512 (s.readNat .unified (dAddr desc) 64) ∧ members = (List.range (fld h 495 484 + 1)).map (fun r => w64 (s.readNat .unified (dAddr desc + 64 + 8 * r) 8)) ∧ shards = (List.range (fld h 495 484 + 1)).map (fun r => BitVec.ofNat 256 (s.readNat .unified ((dAddr desc + 64 + 8 * (fld h 495 484 + 1) + 31) / 32 * 32 + 32 * r) 32)) ∧ pelotonFormOk (lgLinkId s.links.group) h members shards = true ∧ tget? x.pelotons (fld h 511 496) = none ∧ (∀ i ∈ pelPorts h members, (lgPortEn s.links.group).testBit i = true) ∧ x.pelotons.length < 16 ∧ (s.parts.map fun e => e.2.pelotons.length).foldl (· + ·) 0 < 64 ∧ vcsTaken s p (fld h 511 496) (pelPorts h members) (pelVcs h) = false ∧ portsFull s p (fld h 511 496) (fld h 391 382) (pelPorts h members) (pelVcs h) = false) := by
  refine ⟨⟨0, 0, pel0, withPort 0 { vcs := [(0, { first := true })] } (at0 (xp pel0)), ?_⟩,
    ⟨0, hdr0, 0, 0, xp pel0, pel0, at0 (xp (pel0)), ?_⟩,
    ⟨0, hdr0, 0, 0, xpBusy, pel0, at0 xpBusy, ?_⟩,
    ⟨0, hdr0, 0, 255, 15, 1, 63, 7, 0, xp pel0, pel0, at0 (xp (pel0)), ?_⟩,
    ⟨0, hdr0, 0, 256, 2, 0, 0, 0, 0, xp pel0, pel0, at0 (xp (pel0)), ?_⟩,
    ⟨0, hdr0, 0, 0, xp pel0, pel0, at0 (xp (pel0)), ?_⟩,
    ⟨0, hdr0, words 0 64, 0, x0, pelMem, hp, [5 <<< 48, 6 <<< 48], [0, 0], ?_⟩⟩
  all_goals (repeat' (first | assumption | apply And.intro | exact all_of _ (by decide +kernel) | (unfold UnifiedOk; exact all_of _ (by decide +kernel)) | decide +kernel | (unfold Room; decide +kernel) | (unfold UnifiedOk; decide +kernel) | exact Or.inl (by decide +kernel) | exact ok_okD _ _ (by decide +kernel) | exact some_getD _ _ (by decide +kernel) | rfl | exact ⟨_, rfl⟩ | exact ⟨_, _, _, rfl⟩ | exact ⟨_, _, _, _, rfl⟩ | exact Or.inl ⟨_, _, _, rfl⟩ | (intro e; exact absurd e (by decide +kernel))))

theorem witness_PelotonLaps :
    (∃ (fn : Fn) (hdr : Hdr) (peloton rank linkId port : W64) (p : Nat) (x : Partition) (q : Peloton) (s : State), Heard s fn hdr ∧ Acts s fn hdr p x ∧ tget? x.pelotons peloton.toNat = some q ∧ rank.toNat < pelN q ∧ rank.toNat ≠ pelRank q ∧ linkId.toNat ≤ 0xFFFE ∧ port.toNat < 16 ∧ pelMode q = 1 ∧ pelotonBusy s x peloton.toNat = false ∧ q.lap = none ∧ q.frog = none ∧ q.handle = 0 ∧ (lgPortEn s.links.group).testBit port.toNat = true ∧ vcsTaken s p peloton.toNat [port.toNat] (pelVcs q.header) = false ∧ portsFull s p peloton.toNat (fld q.header 391 382) [port.toNat] (pelVcs q.header) = false) ∧
    (∃ (fn : Fn) (hdr : Hdr) (peloton epoch : W64) (p : Nat) (x : Partition) (q : Peloton) (s : State), Heard s fn hdr ∧ Acts s fn hdr p x ∧ Room s fn ∧ tget? x.pelotons peloton.toNat = some q ∧ epoch.toNat < 2 ^ 32 ∧ isSubst q.lap = false ∧ q.frog = none ∧ q.handle = 0) ∧
    (∃ (fn : Fn) (hdr : Hdr) (peloton epoch : W64) (shards : DescWord) (pairs : List ReshardPair) (p : Nat) (x : Partition) (q : Peloton) (sh : List (BitVec 256)) (s : State), Heard s fn hdr ∧ Acts s fn hdr p x ∧ Room s fn ∧ tget? x.pelotons peloton.toNat = some q ∧ epoch.toNat = (q.layout + 1) % 65536 ∧ q.lap = none ∧ q.frog = none ∧ q.handle = 0 ∧ UnifiedOk s p x shards ∧ pairs.length ≤ 64 ∧ pairs.all (reshardPairOk q) = true ∧ pairs.all (pairOwned s p x) = true ∧ sh = (List.range (pelN q)).map (fun r => BitVec.ofNat 256 (s.readNat .unified (dAddr shards + 32 * r) 32)) ∧ (∀ e ∈ sh, fld e 95 0 = 0)) ∧
    (∃ (part : PartId) (n : Nat) (q : Peloton) (m : CollMsg) (s : State), Running s ∧ getPel s part.val n = some q ∧ heldOf q 0x23 = some m ∧ (readHead m.header).chunk = pelRank q ∧ (∃ hd ms l d, q.lap = some (.subst hd ms l d))) ∧
    (∃ (part : PartId) (n : Nat) (q : Peloton) (m : CollMsg) (s : State), Running s ∧ getPel s part.val n = some q ∧ heldOf q 0x23 = some m ∧ (readHead m.header).chunk ≠ pelRank q) ∧
    (∃ (part : PartId) (n : Nat) (q : Peloton) (m : CollMsg) (s : State), Running s ∧ getPel s part.val n = some q ∧ heldOf q 0x21 = some m ∧ (readHead m.header).chunk = pelRank q ∧ q.frog = some m.stepEpoch) ∧
    (∃ (part : PartId) (n : Nat) (q : Peloton) (m : CollMsg) (s : State), Running s ∧ getPel s part.val n = some q ∧ heldOf q 0x21 = some m ∧ (readHead m.header).chunk ≠ pelRank q) ∧
    (∃ (part : PartId) (n e got : Nat) (q : Peloton) (x : Partition) (m : CollMsg) (sh : List (BitVec 256)) (pairs : List ReshardPair) (s : State), Running s ∧ getPel s part.val n = some q ∧ getPart s part.val = some x ∧ heldOf q 0x22 = some m ∧ q.lap = some (.reshard e sh pairs 1 got) ∧ (readHead m.header).count = 1 ∧ pelRank q = 0) ∧
    (∃ (p n e lap got : Nat) (q : Peloton) (sh : List (BitVec 256)) (pairs : List ReshardPair) (s : State), getPel s p n = some q ∧ q.lap = some (.reshard e sh pairs lap got)) ∧
    (∃ (part : PartId) (n e lap got : Nat) (q : Peloton) (m : CollMsg) (sh : List (BitVec 256)) (pairs : List ReshardPair) (pr : ReshardPair) (s : State), Running s ∧ getPel s part.val n = some q ∧ heldOf q 0x17 = some m ∧ q.lap = some (.reshard e sh pairs lap got) ∧ pairs[(readHead m.header).call]? = some pr) ∧
    (∃ (part : PartId) (n : Nat) (q : Peloton) (s : State), Running s ∧ getPel s part.val n = some q ∧ q.peerLimit * q.window ≤ q.lapWaited ∧ q.handle = 0 ∧ q.frog = none ∧ (∃ hd ms l d, q.lap = some (.subst hd ms l d))) ∧
    (∃ (part : PartId) (n e : Nat) (q : Peloton) (s : State), Running s ∧ getPel s part.val n = some q ∧ q.peerLimit * q.window ≤ q.frogWaited ∧ q.frog = some e ∧ q.lapWaited < q.peerLimit * q.window) ∧
    (∃ (part : PartId) (n : Nat) (q : Peloton) (s : State), Running s ∧ getPel s part.val n = some q ∧ q.lapWaited < q.peerLimit * q.window ∧ (q.frog = none ∨ q.frogWaited < q.peerLimit * q.window)) := by
  refine ⟨⟨0, hdr0, 0, 1, 0xFFFE, 0, 0, xp pel0, pel0, linked (at0 (xp pel0)), ?_⟩,
    ⟨0, hdr0, 0, 0xFFFFFFFF, 0, xp pel0, pel0, at0 (xp (pel0)), ?_⟩,
    ⟨0, hdr0, 0, 1, words 0 16, [pair0], 0, xp pel0, pel0, [0, 0], at0 (xp (pel0)), ?_⟩,
    ⟨0, 0, lapped (.subst 0 [] 0 0) (msg 0x23 0), msg 0x23 0, at0 (xp (lapped (.subst 0 [] 0 0) (msg 0x23 0))), ?_⟩,
    ⟨0, 0, lapped (.subst 0 [] 0 0) (msg 0x23 (1 <<< 228)), msg 0x23 (1 <<< 228), at0 (xp (lapped (.subst 0 [] 0 0) (msg 0x23 (1 <<< 228)))), ?_⟩,
    ⟨0, 0, { inboxed (msg 0x21 0) with frog := some 0 }, msg 0x21 0, at0 (xp ({ inboxed (msg 0x21 0) with frog := some 0 })), ?_⟩,
    ⟨0, 0, { inboxed (msg 0x21 (1 <<< 228)) with frog := some 0 }, msg 0x21 (1 <<< 228), at0 (xp ({ inboxed (msg 0x21 (1 <<< 228)) with frog := some 0 })), ?_⟩,
    ⟨0, 0, 1, 0, lapped (.reshard 1 [] [] 1 0) (msg 0x22 (1 <<< 288)), xp (lapped (.reshard 1 [] [] 1 0) (msg 0x22 (1 <<< 288))), msg 0x22 (1 <<< 288), [], [], at0 (xp (lapped (.reshard 1 [] [] 1 0) (msg 0x22 (1 <<< 288)))), ?_⟩,
    ⟨0, 0, 1, 1, 0, lapped (.reshard 1 [] [] 1 0) (msg 0x22 (1 <<< 288)), [], [], at0 (xp (lapped (.reshard 1 [] [] 1 0) (msg 0x22 (1 <<< 288)))), ?_⟩,
    ⟨0, 0, 1, 2, 0, lapped (.reshard 1 [] [pair0] 2 0) (msg 0x17 0), msg 0x17 0, [], [pair0], pair0, at0 (xp (lapped (.reshard 1 [] [pair0] 2 0) (msg 0x17 0))), ?_⟩,
    ⟨0, 0, { lapped (.subst 0 [] 0 0) (msg 0x23 0) with lapWaited := 2 }, at0 (xp ({ lapped (.subst 0 [] 0 0) (msg 0x23 0) with lapWaited := 2 })), ?_⟩,
    ⟨0, 0, 0, { pel0 with frog := some 0, frogWaited := 2 }, at0 (xp ({ pel0 with frog := some 0, frogWaited := 2 })), ?_⟩,
    ⟨0, 0, pel0, at0 (xp (pel0)), ?_⟩⟩
  all_goals (repeat' (first | assumption | apply And.intro | exact all_of _ (by decide +kernel) | (unfold UnifiedOk; exact all_of _ (by decide +kernel)) | decide +kernel | (unfold Room; decide +kernel) | (unfold UnifiedOk; decide +kernel) | exact Or.inl (by decide +kernel) | exact ok_okD _ _ (by decide +kernel) | exact some_getD _ _ (by decide +kernel) | rfl | exact ⟨_, rfl⟩ | exact ⟨_, _, _, rfl⟩ | exact ⟨_, _, _, _, rfl⟩ | exact Or.inl ⟨_, _, _, rfl⟩ | (intro e; exact absurd e (by decide +kernel))))

theorem witness_CodecSessions :
    (∃ (fn : Fn) (hdr : Hdr) (o : CodecOpenOps) (p n : Nat) (x : Partition) (s : State), Heard s fn hdr ∧ Acts s fn hdr p x ∧ openFormOk o = true ∧ openUnused o = true ∧ (∀ d ∈ openDescs o o.kind.toNat, unifiedOk d.1 = true ∧ d.2 = true) ∧ openPermitted s p x o = true ∧ (∀ i ∈ pairsNamed o.kind.toNat o.pairs, pairRoom (pairOf s i) o.entries.toNat = true) ∧ freeSession s = some n ∧ Room (enterSession p n (nextHandle s p 4) o s) fn) ∧
    (∃ (fn : Fn) (hdr : Hdr) (session : W64) (p : Nat) (x : Partition) (e : Session) (s : State), Heard s fn hdr ∧ Acts s fn hdr p x ∧ tget? x.sessions session.toNat = some e ∧ actsOf s p x session.toNat = false) ∧
    (∃ (fn : Fn) (hdr : Hdr) (session : W64) (p : Nat) (x : Partition) (e : Session) (s : State), Heard s fn hdr ∧ Acts s fn hdr p x ∧ tget? x.sessions session.toNat = some e ∧ actsOf s p x session.toNat = true) ∧
    (∃ (fn : Fn) (hdr : Hdr) (session count : W64) (p : Nat) (x : Partition) (e : Session) (s : State), Heard s fn hdr ∧ Acts s fn hdr p x ∧ tget? x.sessions session.toNat = some e ∧ e.kind < 2 ∧ e.write ≤ count.toNat ∧ count.toNat ≤ e.consumed + e.ringSize ∧ e.starving = false ∧ e.abandoned = false ∧ (∀ i ∈ e.pairs, (pairOf s i).running ≠ some (p, session.toNat))) ∧
    (∃ (fn : Fn) (hdr : Hdr) (session count : W64) (p : Nat) (x : Partition) (e : Session) (s : State), Heard s fn hdr ∧ Acts s fn hdr p x ∧ tget? x.sessions session.toNat = some e ∧ (2 ≤ e.kind ∨ count.toNat < e.write ∨ e.consumed + e.ringSize < count.toNat)) ∧
    (∃ (fn : Fn) (hdr : Hdr) (session entries area : W64) (p : Nat) (x : Partition) (e : Session) (s : State), Heard s fn hdr ∧ Acts s fn hdr p x ∧ tget? x.sessions session.toNat = some e ∧ entries.toNat ≤ e.posted.length ∧ e.areaFree ≤ area.toNat ∧ area.toNat ≤ e.areaWrite) ∧
    (∃ (fn : Fn) (hdr : Hdr) (session buffer timestamp forceIrap : W64) (p : Nat) (x : Partition) (e : Session) (s : State), Heard s fn hdr ∧ Acts s fn hdr p x ∧ tget? x.sessions session.toNat = some e ∧ e.kind = 2 ∧ flagOk forceIrap = true ∧ pagesOwned s p buffer.toNat (frameSize e) = true ∧ e.frames.length < 16) ∧
    (∃ (fn : Fn) (hdr : Hdr) (session buffer timestamp forceIrap : W64) (p : Nat) (x : Partition) (e : Session) (s : State), Heard s fn hdr ∧ Acts s fn hdr p x ∧ tget? x.sessions session.toNat = some e ∧ e.kind = 2 ∧ flagOk forceIrap = true ∧ pagesOwned s p buffer.toNat (frameSize e) = true ∧ 16 ≤ e.frames.length) ∧
    (∃ (fn : Fn) (hdr : Hdr) (session : W64) (p : Nat) (x : Partition) (e : Session) (s : State), Heard s fn hdr ∧ Acts s fn hdr p x ∧ tget? x.sessions session.toNat = some e ∧ e.kind = 2) ∧
    (∃ (fn : Fn) (hdr : Hdr) (session : W64) (p : Nat) (x : Partition) (e : Session) (s : State), Heard s fn hdr ∧ Acts s fn hdr p x ∧ tget? x.sessions session.toNat = some e ∧ e.kind ≠ 2) ∧
    (∃ (fn : Fn) (hdr : Hdr) (session : W64) (p o : Nat) (x y : Partition) (e : Session) (s : State), Heard s fn hdr ∧ Acts s fn hdr p x ∧ tget? x.sessions session.toNat = none ∧ tget? s.parts o = some y ∧ tget? y.sessions session.toNat = some e) := by
  refine ⟨⟨0, hdr0, openSpill, 0, 0, x0, st0, ?_⟩,
    ⟨0, hdr0, 0, 0, xc (sess0 0), sess0 0, at0 (xc (sess0 0)), ?_⟩,
    ⟨0, hdr0, 0, 0, xact, actSess, at0 xact, ?_⟩,
    ⟨0, hdr0, 0, 65536, 0, xc ({ sess0 0 with ringSize := 65536 }), { sess0 0 with ringSize := 65536 }, at0 (xc ({ sess0 0 with ringSize := 65536 })), ?_⟩,
    ⟨0, hdr0, 0, 65537, 0, xc ({ sess0 0 with ringSize := 65536 }), { sess0 0 with ringSize := 65536 }, at0 (xc ({ sess0 0 with ringSize := 65536 })), ?_⟩,
    ⟨0, hdr0, 0, 1, 64, 0, xc ({ sess0 2 with posted := [0], areaWrite := 64 }), { sess0 2 with posted := [0], areaWrite := 64 }, at0 (xc ({ sess0 2 with posted := [0], areaWrite := 64 })), ?_⟩,
    ⟨0, hdr0, 0, 0, 0, 1, 0, xc ({ sess0 2 with frames := List.replicate 15 (0, 0, false) }), { sess0 2 with frames := List.replicate 15 (0, 0, false) }, at0 (xc ({ sess0 2 with frames := List.replicate 15 (0, 0, false) })), ?_⟩,
    ⟨0, hdr0, 0, 0, 0, 1, 0, xc ({ sess0 2 with frames := List.replicate 16 (0, 0, false) }), { sess0 2 with frames := List.replicate 16 (0, 0, false) }, at0 (xc ({ sess0 2 with frames := List.replicate 16 (0, 0, false) })), ?_⟩,
    ⟨0, hdr0, 0, 0, xc (sess0 2), sess0 2, at0 (xc (sess0 2)), ?_⟩,
    ⟨0, hdr0, 0, 0, xc (sess0 0), sess0 0, at0 (xc (sess0 0)), ?_⟩,
    ⟨0, hdr0, 0, 0, 1, x0, xc (sess0 0), sess0 0, { st0 with parts := [(0, x0), (1, xc (sess0 0))] }, ?_⟩⟩
  all_goals (repeat' (first | assumption | apply And.intro | exact all_of _ (by decide +kernel) | (unfold UnifiedOk; exact all_of _ (by decide +kernel)) | decide +kernel | (unfold Room; decide +kernel) | (unfold UnifiedOk; decide +kernel) | exact Or.inl (by decide +kernel) | exact ok_okD _ _ (by decide +kernel) | exact some_getD _ _ (by decide +kernel) | rfl | exact ⟨_, rfl⟩ | exact ⟨_, _, _, rfl⟩ | exact ⟨_, _, _, _, rfl⟩ | exact Or.inl ⟨_, _, _, rfl⟩ | (intro e; exact absurd e (by decide +kernel))))

theorem witness_ActivationCallsAndUnits :
    (∃ (fn : Fn) (hdr : Hdr) (call : BitVec 512) (src dst ref bound : DescWord) (p : Nat) (x : Partition) (e : Session) (r : Nat × State) (s : State), Heard s fn hdr ∧ Acts s fn hdr p x ∧ tget? x.sessions (awSession call) = some e ∧ e.kind = 3 ∧ e.pairs ≠ [] ∧ awDecode call = false ∧ UnifiedOk s p x src ∧ UnifiedOk s p x dst ∧ UnifiedOk s p x ref ∧ DescOk s p x bound ∧ actWordOk call src dst ref bound (fun _ => false) = true ∧ ((boundsOf s bound).all (· ≤ 15)) = true ∧ readOnlyDesc s dst = false ∧ readOnlyDesc s ref = false ∧ takeSpill p (awSession call) (spillBytes e false call src) s = some r ∧ Room (startWait p (awSession call) (modPart p (fun y => { y with calls := tset y.calls (nextAct x) (newCall e call src dst ref bound (spillBytes e false call src) r.1 (nextHandle s p 4)) }) r.2)) fn) ∧
    (∃ (fn : Fn) (hdr : Hdr) (call : BitVec 512) (src dst ref bound : DescWord) (p : Nat) (x : Partition) (e : Session) (s : State), Heard s fn hdr ∧ Acts s fn hdr p x ∧ tget? x.sessions (awSession call) = some e ∧ getSession s p (awSession call) = some e ∧ e.kind = 3 ∧ e.pairs ≠ [] ∧ awDecode call = true ∧ UnifiedOk s p x src ∧ UnifiedOk s p x dst ∧ UnifiedOk s p x ref ∧ descReservedOk bound = true ∧ actWordOk call src dst ref bound (fun _ => false) = true ∧ readOnlyDesc s dst = false ∧ readOnlyDesc s ref = false ∧ Room (startWait p (awSession call) (modPart p (fun y => { y with calls := tset y.calls (nextAct x) (newCall e call src dst ref bound 0 0 (nextHandle s p 4)) }) s)) fn) ∧
    (∃ (fn : Fn) (hdr : Hdr) (session spill : W64) (p : Nat) (x : Partition) (e : Session) (w : Nat × Nat) (s : State), Heard s fn hdr ∧ Acts s fn hdr p x ∧ tget? x.sessions session.toNat = some e ∧ (e.spills.find? fun w => e.spillBase + w.1 == spill.toNat && !spillHeld x session.toNat w.1) = some w) ∧
    (∃ (part : PartId) (call : Nat) (a : ActCall) (e : Session) (s : State), Running s ∧ ((getPart s part.val).bind fun x => tget? x.calls call) = some a ∧ getSession s part.val a.session = some e ∧ actLive s a = true ∧ actDone s a e.pairs.length = true ∧ awDecode a.word = true ∧ a.step = none) ∧
    (∃ (pair : PairId) (s : State), Running s ∧ (pairOf s pair.val).running = none) ∧
    (∃ (pair : PairId) (p n : Nat) (e : Session) (u : W64 × List Byte × Bool) (s : State), Running s ∧ (pairOf s pair.val).running = some (p, n) ∧ getSession s p n = some e ∧ e.kind < 2 ∧ e.parsed = some u) ∧
    (∃ (part : PartId) (n i : Nat) (rest : List Nat) (e : Session) (h : BitVec 256) (s : State), Running s ∧ getSession s part.val n = some e ∧ e.pairs = i :: rest ∧ recordHead s e = some h ∧ e.kind < 2 ∧ (pairOf s i).running = some (part.val, n) ∧ e.parsed = none ∧ recordReady s e = true) ∧
    (∃ (part : PartId) (n i : Nat) (rest : List Nat) (e : Session) (s : State), Running s ∧ getSession s part.val n = some e ∧ e.pairs = i :: rest ∧ e.starving = true ∧ (pairOf s i).running = some (part.val, n) ∧ e.starve ≤ e.starveTicks) ∧
    (∃ (part : PartId) (n entry i : Nat) (prs : List Nat) (c : Picture) (rest : List Picture) (e : Session) (s : State), Running s ∧ getSession s part.val n = some e ∧ e.due = c :: rest ∧ e.pairs = i :: prs ∧ c.pool = entry ∧ e.posted.length < e.outEntries ∧ e.kind = 2) := by
  refine ⟨⟨0, hdr0, actWord 0, act4, words 0 1024, words 0x10000 512, words 0x20000 1, 0, xc actSess, actSess, actSpill, at0 (xc actSess), ?_⟩,
    ⟨0, hdr0, actWord 1, words 0 1024, act4, words 0x10000 512, 0, 0, xc actSess, actSess, at0 (xc actSess), ?_⟩,
    ⟨0, hdr0, 0, 0, 0, xc { actSess with spills := [(0, 32)] }, { actSess with spills := [(0, 32)] }, (0, 32), at0 (xc { actSess with spills := [(0, 32)] }), ?_⟩,
    ⟨0, 0, act0 1, actSess, at0 xact, ?_⟩,
    ⟨15, st0, ?_⟩,
    ⟨0, 0, 0, { sess0 0 with parsed := some (0, [], false) }, (0, [], false), withPair 0 { running := some (0, 0) } (at0 (xc { sess0 0 with parsed := some (0, [], false) })), ?_⟩,
    ⟨0, 0, 0, [], { sess0 0 with write := 32, ringSize := 65536 }, 0, withPair 0 { running := some (0, 0) } (at0 (xc { sess0 0 with write := 32, ringSize := 65536 })), ?_⟩,
    ⟨0, 0, 0, [], { sess0 0 with starving := true, starveTicks := 4 }, withPair 0 { running := some (0, 0) } (at0 (xc { sess0 0 with starving := true, starveTicks := 4 })), ?_⟩,
    ⟨0, 0, 3, 0, [], { pool := 3, time := 0 }, [], { sess0 2 with outEntries := 16, due := [{ pool := 3, time := 0 }] }, at0 (xc { sess0 2 with outEntries := 16, due := [{ pool := 3, time := 0 }] }), ?_⟩⟩
  all_goals (repeat' (first | assumption | apply And.intro | exact all_of _ (by decide +kernel) | (unfold UnifiedOk; exact all_of _ (by decide +kernel)) | decide +kernel | (unfold Room; decide +kernel) | exact actSpill_taken | exact ⟨_, rfl⟩))

theorem witness_KvSpacesAndSequences :
    (∃ (fn : Fn) (hdr : Hdr) (o : KvSpaceOps) (p n : Nat) (x : Partition) (s : State), Heard s fn hdr ∧ Acts s fn hdr p x ∧ Room s fn ∧ spaceFormOk o = true ∧ UnifiedOk s p x o.control ∧ controlOk s o = true ∧ readOnlyDesc s o.control = false ∧ (∀ r ∈ o.regions, UnifiedOk s p x r.desc ∧ regionOk s (kvPageBytes (spaceOf o)) r = true ∧ readOnlyDesc s r.desc = false) ∧ tfree x.spaces 16 = some n) ∧
    (∃ (fn : Fn) (hdr : Hdr) (space : W64) (p : Nat) (x : Partition) (k : KvSpace) (s : State), Heard s fn hdr ∧ ActsOn s fn hdr p x space k ∧ k.seqs = [] ∧ pagesHeld k = false) ∧
    (∃ (fn : Fn) (hdr : Hdr) (space : W64) (p : Nat) (x : Partition) (k : KvSpace) (s : State), Heard s fn hdr ∧ ActsOn s fn hdr p x space k ∧ (k.seqs ≠ [] ∨ pagesHeld k = true)) ∧
    (∃ (fn : Fn) (hdr : Hdr) (space : W64) (p i : Nat) (x : Partition) (k : KvSpace) (s : State), Heard s fn hdr ∧ ActsOn s fn hdr p x space k ∧ tfree k.seqs k.maxSeq = some i) ∧
    (∃ (fn : Fn) (hdr : Hdr) (space parent length : W64) (p i : Nat) (x : Partition) (k : KvSpace) (q : KvSeq) (s : State), Heard s fn hdr ∧ ActsOn s fn hdr p x space k ∧ tget? k.seqs parent.toNat = some q ∧ length.toNat ≤ q.length ∧ tfree k.seqs k.maxSeq = some i ∧ (∀ id ∈ q.table.take (blocksOf length.toNat), (kvPage k id).refs < 65535)) ∧
    (∃ (fn : Fn) (hdr : Hdr) (space seq length : W64) (p : Nat) (x : Partition) (k : KvSpace) (q : KvSeq) (s : State), Heard s fn hdr ∧ ActsOn s fn hdr p x space k ∧ tget? k.seqs seq.toNat = some q ∧ q.state = 1 ∧ length.toNat ≤ q.length) ∧
    (∃ (fn : Fn) (hdr : Hdr) (space seq : W64) (p : Nat) (x : Partition) (k : KvSpace) (q : KvSeq) (s : State), Heard s fn hdr ∧ ActsOn s fn hdr p x space k ∧ tget? k.seqs seq.toNat = some q ∧ q.state = 1) ∧
    (∃ (fn : Fn) (hdr : Hdr) (space seq : W64) (p : Nat) (x : Partition) (k : KvSpace) (q : KvSeq) (s : State), Heard s fn hdr ∧ ActsOn s fn hdr p x space k ∧ tget? k.seqs seq.toNat = some q) ∧
    (∃ (fn : Fn) (hdr : Hdr) (space seq length : W64) (p : Nat) (x : Partition) (k : KvSpace) (s : State), Heard s fn hdr ∧ ActsOn s fn hdr p x space k) := by
  refine ⟨⟨0, hdr0, kvOps0, 0, 0, xpin, pinned0 xpin, ?_⟩,
    ⟨0, hdr0, 0, 0, xk (kv0), kv0, at0 (xk (kv0)), ?_⟩,
    ⟨0, hdr0, 0, 0, xk (kv1 seq0), kv1 seq0, at0 (xk (kv1 seq0)), ?_⟩,
    ⟨0, hdr0, 0, 0, 0, xk kv0, kv0, at0 (xk kv0), ?_⟩,
    ⟨0, hdr0, 0, 0, 10, 0, 1, xk (kv1 ({ seq0 with length := 10, table := [1] })), kv1 ({ seq0 with length := 10, table := [1] }), { seq0 with length := 10, table := [1] }, at0 (xk (kv1 ({ seq0 with length := 10, table := [1] }))), ?_⟩,
    ⟨0, hdr0, 0, 0, 10, 0, xk (kv1 ({ seq0 with length := 10, table := [1] })), kv1 ({ seq0 with length := 10, table := [1] }), { seq0 with length := 10, table := [1] }, at0 (xk (kv1 ({ seq0 with length := 10, table := [1] }))), ?_⟩,
    ⟨0, hdr0, 0, 0, 0, xk (kv1 ({ seq0 with length := 10, table := [1] })), kv1 ({ seq0 with length := 10, table := [1] }), { seq0 with length := 10, table := [1] }, at0 (xk (kv1 ({ seq0 with length := 10, table := [1] }))), ?_⟩,
    ⟨0, hdr0, 0, 0, 0, xk (kv1 ({ seq0 with length := 10, table := [1] })), kv1 ({ seq0 with length := 10, table := [1] }), { seq0 with length := 10, table := [1] }, at0 (xk (kv1 ({ seq0 with length := 10, table := [1] }))), ?_⟩,
    ⟨0, hdr0, 0, 0, 10, 0, xk (kv0), kv0, at0 (xk (kv0)), ?_⟩⟩
  all_goals (repeat' (first | assumption | apply And.intro | exact all_of _ (by decide +kernel) | (unfold UnifiedOk; exact all_of _ (by decide +kernel)) | decide +kernel | (unfold Room; decide +kernel) | (unfold UnifiedOk; decide +kernel) | exact Or.inl (by decide +kernel) | exact ok_okD _ _ (by decide +kernel) | exact some_getD _ _ (by decide +kernel) | rfl | exact ⟨_, rfl⟩ | exact ⟨_, _, _, rfl⟩ | exact ⟨_, _, _, _, rfl⟩ | exact Or.inl ⟨_, _, _, rfl⟩ | (intro e; exact absurd e (by decide +kernel))))

theorem witness_KvAttachAppendPrefix :
    (∃ (fn : Fn) (hdr : Hdr) (space seq : W64) (tags : DescWord) (blocks : W64) (p : Nat) (x : Partition) (k : KvSpace) (q : KvSeq) (s : State), Heard s fn hdr ∧ ActsOn s fn hdr p x space k ∧ Room s fn ∧ tget? k.seqs seq.toNat = some q ∧ q.state = 1 ∧ q.length = 0 ∧ blocks.toNat ≤ k.maxPages ∧ DescOk s p x tags ∧ dFmt tags = 0x0E ∧ 512 * blocks.toNat ≤ dCount tags) ∧
    (∃ (fn : Fn) (hdr : Hdr) (space seq : W64) (tags : DescWord) (blocks : W64) (p : Nat) (x : Partition) (k : KvSpace) (q : KvSeq) (s : State), Heard s fn hdr ∧ ActsOn s fn hdr p x space k ∧ tget? k.seqs seq.toNat = some q ∧ q.state = 1 ∧ q.length ≠ 0) ∧
    (∃ (s : State) (p sp : Nat) (salt : W64) (tags : List W64) (n b : Nat) (up : Option Nat) (j : Nat) (e : Nat × PrefixEntry), (attachWalk s p sp salt tags n b up)[j]? = some e) ∧
    (∃ (fn : Fn) (hdr : Hdr) (space seq n : W64) (kd vd tags : DescWord) (permit : W64) (p : Nat) (x : Partition) (k : KvSpace) (q : KvSeq) (r : SeqStage × State) (s : State), Heard s fn hdr ∧ ActsOn s fn hdr p x space k ∧ tget? k.seqs seq.toNat = some q ∧ q.state = 1 ∧ 0 < n.toNat ∧ permit.toNat < 8 ∧ blocksOf (q.length + n.toNat) ≤ k.maxPages ∧ DescOk s p x kd ∧ DescOk s p x vd ∧ DescOk s p x tags ∧ rowsOk k kd vd tags n.toNat = true ∧ reserveSeq p space.toNat seq.toNat n.toNat (permit.setWidth 3) s = some r ∧ Room r.2 fn) ∧
    (∃ (fn : Fn) (hdr : Hdr) (space seq n : W64) (kd vd tags : DescWord) (permit : W64) (p : Nat) (x : Partition) (k : KvSpace) (q : KvSeq) (s : State), Heard s fn hdr ∧ ActsOn s fn hdr p x space k ∧ tget? k.seqs seq.toNat = some q ∧ q.state = 1 ∧ 0 < n.toNat ∧ permit.toNat < 8 ∧ blocksOf (q.length + n.toNat) ≤ k.maxPages ∧ DescOk s p x kd ∧ DescOk s p x vd ∧ DescOk s p x tags ∧ rowsOk k kd vd tags n.toNat = true ∧ reserveSeq p space.toNat seq.toNat n.toNat (permit.setWidth 3) s = none) ∧
    (∃ (fn : Fn) (hdr : Hdr) (space : W64) (dst : DescWord) (first : W64) (p : Nat) (x : Partition) (k : KvSpace) (s : State), Heard s fn hdr ∧ ActsOn s fn hdr p x space k ∧ Room s fn ∧ first.toNat < 2 ^ 20 ∧ RecordsOk s p x dst 16) ∧
    (∃ (fn : Fn) (hdr : Hdr) (space : W64) (p : Nat) (x : Partition) (k : KvSpace) (s : State), Heard s fn hdr ∧ ActsOn s fn hdr p x space k) := by
  refine ⟨⟨0, hdr0, 0, 0, words 0 1024, 2, 0, xk (kv1 (seq0)), kv1 (seq0), seq0, at0 (xk (kv1 (seq0))), ?_⟩,
    ⟨0, hdr0, 0, 0, words 0 1024, 2, 0, xk (kv1 ({ seq0 with length := 10, table := [1] })), kv1 ({ seq0 with length := 10, table := [1] }), { seq0 with length := 10, table := [1] }, at0 (xk (kv1 ({ seq0 with length := 10, table := [1] }))), ?_⟩,
    ⟨{ st0 with prefixes := [(0, pfx0)] }, 0, 0, 0, [], 1, 0, none, 0, (0, pfx0), ?_⟩,
    ⟨0, hdr0, 0, 0, 1, desc 0x400000 1 1, desc 0x400000 1 1, words 0 2, 7, 0, xk (kv1 ({ seq0 with length := 10, table := [1] })), kv1 ({ seq0 with length := 10, table := [1] }), { seq0 with length := 10, table := [1] }, (reserveSeq 0 0 0 1 7 (at0 (xk (kv1 ({ seq0 with length := 10, table := [1] }))))).getD ({ space := 0, seq := 0, tokens := 0, pages := [], table := [] }, st0), at0 (xk (kv1 ({ seq0 with length := 10, table := [1] }))), ?_⟩,
    ⟨0, hdr0, 0, 0, 1, desc 0x400000 1 1, desc 0x400000 1 1, words 0 2, 0, 0, xk (kv1 seq0), kv1 seq0, seq0, at0 (xk (kv1 seq0)), ?_⟩,
    ⟨0, hdr0, 0, words 0x400000 4, 0xFFFFF, 0, xk (kv0), kv0, at0 (xk (kv0)), ?_⟩,
    ⟨0, hdr0, 0, 0, xk (kv0), kv0, at0 (xk (kv0)), ?_⟩⟩
  all_goals (repeat' (first | assumption | apply And.intro | exact all_of _ (by decide +kernel) | (unfold UnifiedOk; exact all_of _ (by decide +kernel)) | decide +kernel | (unfold Room; decide +kernel) | (unfold UnifiedOk; decide +kernel) | exact Or.inl (by decide +kernel) | exact ok_okD _ _ (by decide +kernel) | exact some_getD _ _ (by decide +kernel) | rfl | exact ⟨_, rfl⟩ | exact ⟨_, _, _, rfl⟩ | exact ⟨_, _, _, _, rfl⟩ | exact Or.inl ⟨_, _, _, rfl⟩ | (intro e; exact absurd e (by decide +kernel))))

theorem witness_SemaphoresLocksAndFences :
    (∃ (core : CoreId) (lane : LaneId) (h n m : Nat) (e : Entry) (s : State), Running s ∧ Standing s core.val lane.val h n e ∧ e.op = .signal m) ∧
    (∃ (p m : Nat) (x : Partition) (s : State), getPart s p = some x ∧ (semOf s p m).waiters = []) ∧
    (∃ (core : CoreId) (lane : LaneId) (h n m : Nat) (e : Entry) (s : State), Running s ∧ Standing s core.val lane.val h n e ∧ e.op = .wait m ∧ (semOf s (handlePart h) m).waiters = []) ∧
    (∃ (core : CoreId) (lane : LaneId) (h n m b : Nat) (e : Entry) (x : Partition) (s : State), Running s ∧ Standing s core.val lane.val h n e ∧ e.op = .acquire m b ∧ getPart s (handlePart h) = some x ∧ (lockOf x m).holder = none) ∧
    (∃ (core : CoreId) (lane : LaneId) (h n m b k : Nat) (e : Entry) (x : Partition) (s : State), Running s ∧ Standing s core.val lane.val h n e ∧ e.op = .acquire m b ∧ getPart s (handlePart h) = some x ∧ (lockOf x m).holder = some k ∧ (h, core.val, lane.val) ∉ (lockOf x m).waiters) ∧
    (∃ (core : CoreId) (lane : LaneId) (h n m : Nat) (e : Entry) (x : Partition) (st : Step) (s : State), Running s ∧ Standing s core.val lane.val h n e ∧ e.op = .release m ∧ getPart s (handlePart h) = some x ∧ getStep s h = some st) ∧
    (∃ (part : PartId) (n h : Nat) (x : Partition) (st : Step) (s : State), Running s ∧ getPart s part.val = some x ∧ (lockOf x n).holder = some h ∧ (lockOf x n).loan = true ∧ getStep s h = some st ∧ (lockOf x n).waiters = []) ∧
    (∃ (core : CoreId) (lane : LaneId) (h n : Nat) (cond : W64) (e : Entry) (s : State), Running s ∧ Standing s core.val lane.val h n e ∧ e.op = .fence cond) ∧
    (∃ (handle : W64) (m : Nat) (st : Step) (pat : PatternImage) (d : MergeDecl) (ins : List (Nat × Nat × Nat × W64)) (s : State), Running s ∧ getStep s handle.toNat = some st ∧ stepPattern s handle.toNat = some pat ∧ (pat.merges.find? fun d => d.num == m) = some d ∧ st.state = .running ∧ st.frogging = false ∧ ((List.range 192).filter d.slots.contains) ≠ [] ∧ (∀ i ∈ (List.range 192).filter d.slots.contains, (st.merges.find? fun e => e.1 == m && e.2.1 == i).isSome = true) ∧ ins = ((List.range 192).filter d.slots.contains).filterMap (fun i => st.merges.find? fun e => e.1 == m && e.2.1 == i)) ∧
    (∃ (handle : W64) (m : Nat) (pat : PatternImage) (s : State), Running s ∧ amaxStanding s handle.toNat none = [] ∧ stepPattern s handle.toNat = some pat ∧ (pat.merges.find? fun d => d.num == m) = none) ∧
    (∃ (handle : W64) (m c l b : Nat) (ls : List (Nat × Nat × Nat)) (pat : PatternImage) (d : MergeDecl) (t : Tensor) (s : State), Running s ∧ amaxStanding s handle.toNat none = [] ∧ stepPattern s handle.toNat = some pat ∧ (pat.merges.find? fun d => d.num == m) = some d ∧ d.slots ≠ [] ∧ amaxStanding s handle.toNat (some m) = (c, l, b) :: ls ∧ (∀ i ∈ d.slots, ∃ q ∈ (c, l, b) :: ls, q.1 = (stepCores s handle.toNat).getD i 208) ∧ stepTensor s handle.toNat b = some t) := by
  refine ⟨⟨0, 0, h0 1 1, 0, 0, { op := .signal 0 }, sop (.signal 0), ?_⟩,
    ⟨0, 447, x0, st0, ?_⟩,
    ⟨0, 0, h0 1 1, 0, 0, { op := .wait 0 }, sop (.wait 0), ?_⟩,
    ⟨0, 0, h0 1 1, 0, 448, 1, { op := .acquire 448 1 }, xop (.acquire 448 1), sop (.acquire 448 1), ?_⟩,
    ⟨0, 0, h0 1 1, 0, 448, 1, 7, { op := .acquire 448 1 }, xlock (.acquire 448 1) { holder := some 7 }, standing (.acquire 448 1) (xlock (.acquire 448 1) { holder := some 7 }), ?_⟩,
    ⟨0, 0, h0 1 1, 0, 448, { op := .release 448 }, xop (.release 448), run0, sop (.release 448), ?_⟩,
    ⟨0, 448, h0 1 1, xlock (.signal 0) { holder := some (h0 1 1), loan := true }, run0, standing (.signal 0) (xlock (.signal 0) { holder := some (h0 1 1), loan := true }), ?_⟩,
    ⟨0, 0, h0 1 1, 0, 0, { op := .fence 0 }, sop (.fence 0), ?_⟩,
    ⟨w64 (h0 1 1), 0, { run0 with merges := [(0, 0, 0, 5)] }, patOf (.signal 0), { num := 0, kind := .sum, slots := [0] }, [(0, 0, 0, 5)], at0 (xop (.signal 0) { run0 with merges := [(0, 0, 0, 5)] }), ?_⟩,
    ⟨w64 (h0 1 1), 63, patOf (.signal 0), sop (.signal 0), ?_⟩,
    ⟨w64 (h0 1 1), 0, 0, 0, 0, [], patOf (.amaxFence 0 (some 0)), { num := 0, kind := .sum, slots := [0] }, { d := f32d, core := 0, score := 0 }, sop (.amaxFence 0 (some 0)), ?_⟩⟩
  all_goals (repeat' (first | assumption | apply And.intro | exact all_of _ (by decide +kernel) | (unfold UnifiedOk; exact all_of _ (by decide +kernel)) | decide +kernel | (unfold Room; decide +kernel) | (unfold UnifiedOk; decide +kernel) | exact Or.inl (by decide +kernel) | exact ok_okD _ _ (by decide +kernel) | exact some_getD _ _ (by decide +kernel) | rfl | exact ⟨_, rfl⟩ | exact ⟨_, _, _, rfl⟩ | exact ⟨_, _, _, _, rfl⟩ | exact Or.inl ⟨_, _, _, rfl⟩ | (intro e; exact absurd e (by decide +kernel))))

theorem witness_StitchesTransfersAndAppends :
    (∃ (core : CoreId) (lane : LaneId) (h n : Nat) (e : Entry) (st : Step) (s : State), Running s ∧ (coreOf s core.val).step = some h ∧ laneEntry s core.val lane.val = some (n, e) ∧ (coreOf s core.val).saving = false ∧ (coreOf s core.val).restoring = false ∧ getStep s h = some st ∧ st.state = .running ∧ (laneOf s core.val lane.val).started = true ∧ sentinelHolds s h core.val e = false ∧ prefetchHolds s h core.val n e = false) ∧
    (∃ (core : CoreId) (lane : LaneId) (waited h n : Nat) (e : Entry) (a : ArrayStitch) (s : State), Running s ∧ (coreOf s core.val).step = some h ∧ laneEntry s core.val lane.val = some (n, e) ∧ e.op = .array a ∧ (laneOf s core.val lane.val).started = true) ∧
    (∃ (core : CoreId) (m : Sample) (s : State), Running s ∧ (coreOf s core.val).sample = some m) ∧
    (∃ (core : CoreId) (n h a b : Nat) (cvt : BitVec 5) (sem : Option Nat) (pf : Option Prefetch) (e : Entry) (src dst : Tensor) (s : State), Running s ∧ (coreOf s core.val).step = some h ∧ (coreList s core.val)[n]? = some e ∧ n ∈ (coreOf s core.val).movers ∧ e.op = .mover a b cvt sem pf ∧ stepTensor s h a = some src ∧ stepTensor s h b = some dst ∧ accessWaits s (descPages src.d ++ descPages dst.d) = false ∧ earlierMover s h core.val n dst = false) ∧
    (∃ (core : CoreId) (layer waited : Nat) (s : State), Running s ∧ (coreOf s core.val).step = none) ∧
    (∃ (core : CoreId) (layer waited h n a b need slack : Nat) (rest : List Nat) (cvt : BitVec 5) (sem : Option Nat) (e : Entry) (s : State), Running s ∧ (coreOf s core.val).step = some h ∧ (coreOf s core.val).movers = n :: rest ∧ (coreList s core.val)[n]? = some e ∧ e.op = .mover a b cvt sem (some { layer := layer, need := need, slack := slack }) ∧ waited ≤ slack) ∧
    (∃ (core : CoreId) (lane : LaneId) (h n a b layer ready : Nat) (e : Entry) (src dst : Tensor) (s : State), Running s ∧ Standing s core.val lane.val h n e ∧ e.op = .haloPut a b layer ready ∧ stepTensor s h a = some src ∧ stepTensor s h b = some dst ∧ earlierMover s h core.val (laneOf s core.val lane.val).next dst = false) ∧
    (∃ (core : CoreId) (lane : LaneId) (h n b layer ready : Nat) (e : Entry) (t : Tensor) (s : State), Running s ∧ Standing s core.val lane.val h n e ∧ e.op = .haloFence b layer ready ∧ stepTensor s h b = some t ∧ (semOf s (handlePart h) ready).value ≠ 0) ∧
    (∃ (die : CdId) (c l h n : Nat) (rest : List (Nat × Nat)) (e : Entry) (a : ArrayStitch) (st : Step) (s : State), Running s ∧ (cdOf s die.val).stem = (c, l) :: rest ∧ (cdOf s die.val).stemFault = false ∧ (coreOf s c).step = some h ∧ laneEntry s c l = some (n, e) ∧ getStep s h = some st ∧ st.state = .running ∧ e.op = .stem a ∧ sentinelHolds s h c e = false ∧ prefetchHolds s h c n e = false) ∧
    (∃ (core : CoreId) (lane : LaneId) (h n sb layer a b sp sq : Nat) (e : Entry) (st : Step) (k v : Tensor) (g : SeqStage) (kv : KvSpace) (q : KvSeq) (s : State), Running s ∧ Standing s core.val lane.val h n e ∧ e.op = .append sb layer a b ∧ getStep s h = some st ∧ st.replayOf = none ∧ seqBinding (stepBinding s h sb) = some (sp, sq) ∧ stepTensor s h a = some k ∧ stepTensor s h b = some v ∧ stageOf st sp sq = some g ∧ getSpace s (handlePart h) sp = some kv ∧ tget? kv.seqs sq = some q) := by
  refine ⟨⟨0, 0, h0 1 1, 0, { op := .array arr0 }, run0, startedOp (.array arr0) {} (xop (.array arr0)), ?_⟩,
    ⟨0, 0, 0, h0 1 1, 0, { op := .array arr0 }, arr0, startedOp (.array arr0) {} (xop (.array arr0)), ?_⟩,
    ⟨127, sample0, withCore 127 { sample := some sample0 }, ?_⟩,
    ⟨0, 0, h0 1 1, 0, 0, 0, none, none, { op := .mover 0 0 0 none none }, (stepTensor (startedOp (.mover 0 0 0 none none) { movers := [0] } (xop (.mover 0 0 0 none none))) (h0 1 1) 0).getD tens0, (stepTensor (startedOp (.mover 0 0 0 none none) { movers := [0] } (xop (.mover 0 0 0 none none))) (h0 1 1) 0).getD tens0, startedOp (.mover 0 0 0 none none) { movers := [0] } (xop (.mover 0 0 0 none none)), ?_⟩,
    ⟨127, 0, 0, st0, ?_⟩,
    ⟨0, 0, 0, h0 1 1, 0, 0, 0, 0, 0, [], 0, none, { op := pre0 }, startedOp (pre0) { movers := [0] } (xop (pre0)), ?_⟩,
    ⟨0, 0, h0 1 1, 0, 0, 0, 65535, 447, { op := .haloPut 0 0 65535 447 }, (stepTensor (sop (.haloPut 0 0 65535 447)) (h0 1 1) 0).getD tens0, (stepTensor (sop (.haloPut 0 0 65535 447)) (h0 1 1) 0).getD tens0, sop (.haloPut 0 0 65535 447), ?_⟩,
    ⟨0, 0, h0 1 1, 0, 0, 0, 447, { op := .haloFence 0 0 447 }, (stepTensor (standing (.haloFence 0 0 447) { xop (.haloFence 0 0 447) with sems := [(447, { value := 1 })] }) (h0 1 1) 0).getD tens0, standing (.haloFence 0 0 447) { xop (.haloFence 0 0 447) with sems := [(447, { value := 1 })] }, ?_⟩,
    ⟨0, 0, 0, h0 1 1, 0, [], { op := .stem arr0 }, arr0, run0, withCd 0 { stem := [(0, 0)] } (startedOp (.stem arr0) {} (xop (.stem arr0))), ?_⟩,
    ⟨0, 0, h0 1 1, 0, 0, 0, 1, 1, 0, 0, { op := .append 0 0 1 1 }, { tab [.words [0], .desc f32d] with seqs := [stage0] }, (stepTensor (standing (.append 0 0 1 1) { xop (.append 0 0 1 1) { tab [.words [0], .desc f32d] with seqs := [stage0] } with spaces := [(0, kv1 seq0)] }) (h0 1 1) 1).getD tens0, (stepTensor (standing (.append 0 0 1 1) { xop (.append 0 0 1 1) { tab [.words [0], .desc f32d] with seqs := [stage0] } with spaces := [(0, kv1 seq0)] }) (h0 1 1) 1).getD tens0, stage0, kv1 seq0, seq0, standing (.append 0 0 1 1) { xop (.append 0 0 1 1) { tab [.words [0], .desc f32d] with seqs := [stage0] } with spaces := [(0, kv1 seq0)] }, ?_⟩⟩
  all_goals (repeat' (first | assumption | apply And.intro | exact all_of _ (by decide +kernel) | (unfold UnifiedOk; exact all_of _ (by decide +kernel)) | decide +kernel | (unfold Room; decide +kernel) | (unfold UnifiedOk; decide +kernel) | exact Or.inl (by decide +kernel) | exact ok_okD _ _ (by decide +kernel) | exact some_getD _ _ (by decide +kernel) | rfl | exact ⟨_, rfl⟩ | exact ⟨_, _, _, rfl⟩ | exact ⟨_, _, _, _, rfl⟩ | exact Or.inl ⟨_, _, _, rfl⟩ | (intro e; exact absurd e (by decide +kernel))))

theorem witness_CallsAndLateMembers :
    (∃ (core : CoreId) (lane : LaneId) (h n b : Nat) (w : CallWord) (r : CallRun) (e : Entry) (s : State), Running s ∧ Standing s core.val lane.val h n e ∧ e.op = .call b ∧ stepBinding s h b = some (.call w) ∧ callOf s h (cwPel w) (cwCall w) = some r ∧ r.issued = false) ∧
    (∃ (core : CoreId) (lane : LaneId) (h n call : Nat) (r : CallRun) (st : Step) (e : Entry) (s : State), Running s ∧ Standing s core.val lane.val h n e ∧ e.op = .callFence call ∧ getStep s h = some st ∧ fencedCall st call = some r) ∧
    (∃ (part : PartId) (n call h : Nat) (c : CallRun) (q : Peloton) (m : PelMark) (st : Step) (s : State), Running s ∧ callingStep s part.val n call = some (h, c) ∧ getPel s part.val n = some q ∧ getStep s h = some st ∧ st.det = false ∧ markOf s h n = some m ∧ m.window ≤ c.waited ∧ pelMode q ≠ 1 ∧ cwKind c.word ≤ 1 ∧ c.issued = false ∧ c.excluded = false ∧ c.phase = .waiting ∧ scatterHeld q st call = true) ∧
    (∃ (part : PartId) (n call h : Nat) (c : CallRun) (q : Peloton) (m : PelMark) (st : Step) (s : State), Running s ∧ callingStep s part.val n call = some (h, c) ∧ getPel s part.val n = some q ∧ getStep s h = some st ∧ st.det = false ∧ markOf s h n = some m ∧ c.waited < m.window) ∧
    (∃ (part : PartId) (n call h : Nat) (c : CallRun) (q : Peloton) (x : Partition) (m : PelMark) (st : Step) (src : Tensor) (s : State), Running s ∧ callingStep s part.val n call = some (h, c) ∧ getPel s part.val n = some q ∧ getPart s part.val = some x ∧ getStep s h = some st ∧ stepTensor s h (cwSrc c.word) = some src ∧ c.excluded = true ∧ c.issued = true ∧ (∀ e ∈ st.lateLog, e.1 = n → e.2.1 ≠ call) ∧ markOf s h n = some m ∧ (match st.replayOf with | none => m.latePolicy ≠ 0 | some r => r.late.contains (n, call, pelRank q, 0) = false)) ∧
    (∃ (part : PartId) (n call h : Nat) (c : CallRun) (q : Peloton) (m : PelMark) (s : State), Running s ∧ callingStep s part.val n call = some (h, c) ∧ getPel s part.val n = some q ∧ markOf s h n = some m ∧ c.phase = .scatter ∧ (if unjoined s h n && !c.joined then m.window else m.peerLimit * m.window) ≤ c.quiet) ∧
    (∃ (part : PartId) (n call h : Nat) (c : CallRun) (q : Peloton) (m : PelMark) (s : State), Running s ∧ callingStep s part.val n call = some (h, c) ∧ getPel s part.val n = some q ∧ markOf s h n = some m ∧ c.quiet < (if unjoined s h n && !c.joined then m.window else m.peerLimit * m.window)) ∧
    (∃ (code h n call detail awaited : Nat) (s : State), unjoined (sendAbort h n call awaited s) h n = true) ∧
    (∃ (part : PartId) (n h : Nat) (x : Partition) (q : Peloton) (m : CollMsg) (s : State), Running s ∧ getPart s part.val = some x ∧ getPel s part.val n = some q ∧ (q.inbox.find? fun m => m.mtype == 0x20) = some m ∧ runningStepOf x m.stepEpoch (readHead m.header).attempt = some h) := by
  refine ⟨⟨0, 0, h0 1 1, 0, 0, 0, { call := 0, word := 0, core := 0 }, { op := .call 0 }, standing (.call 0) (xop (.call 0) ({ tab [.call 0] with calls := [{ call := 0, word := 0, core := 0 }] })), ?_⟩,
    ⟨0, 0, h0 1 1, 0, 65535, { call := 65535, word := 0, core := 0, issued := true }, { run0 with calls := [{ call := 65535, word := 0, core := 0, issued := true }] }, { op := .callFence 65535 }, standing (.callFence 65535) (xop (.callFence 65535) ({ run0 with calls := [{ call := 65535, word := 0, core := 0, issued := true }] })), ?_⟩,
    ⟨0, 0, 0, h0 1 1, { call := 0, word := 0, core := 0 }, inboxed (smsg 0x10 0) substMode, { mark0 with window := 0 }, { run0 with calls := [{ call := 0, word := 0, core := 0 }], table := [.desc f32d], pelotons := [{ mark0 with window := 0 }] }, at0 (xcall ({ call := 0, word := 0, core := 0 }) (inboxed (smsg 0x10 0) substMode) ({ mark0 with window := 0 })), ?_⟩,
    ⟨0, 0, 0, h0 1 1, { call := 0, word := 0, core := 0 }, pel0, mark0, { run0 with calls := [{ call := 0, word := 0, core := 0 }], table := [.desc f32d], pelotons := [mark0] }, at0 (xcall ({ call := 0, word := 0, core := 0 }) (pel0) (mark0)), ?_⟩,
    ⟨0, 0, 0, h0 1 1, { scat0 with excluded := true }, pel0, xcall ({ scat0 with excluded := true }) pel0, mark0, { run0 with calls := [{ scat0 with excluded := true }], table := [.desc f32d], pelotons := [mark0] }, (stepTensor (at0 (xcall ({ scat0 with excluded := true }) (pel0) (mark0))) (h0 1 1) 0).getD tens0, at0 (xcall ({ scat0 with excluded := true }) (pel0) (mark0)), ?_⟩,
    ⟨0, 0, 0, h0 1 1, { scat0 with quiet := 2 }, pel0, mark0, at0 (xcall ({ scat0 with quiet := 2 }) (pel0) (mark0)), ?_⟩,
    ⟨0, 0, 0, h0 1 1, { scat0 with quiet := 1 }, pel0, mark0, at0 (xcall ({ scat0 with quiet := 1 }) (pel0) (mark0)), ?_⟩,
    ⟨0x3811, h0 1 1, 0, 0, 0, 0, at0 (xs { run0 with replayOf := some { outs := [], report := 0, logged := [] } }), ?_⟩,
    ⟨0, 0, h0 1 1, xcall scat0 (inboxed (smsg 0x20 0)), inboxed (smsg 0x20 0), smsg 0x20 0, came (smsg 0x20 0), ?_⟩⟩
  all_goals (repeat' (first | assumption | apply And.intro | exact all_of _ (by decide +kernel) | (unfold UnifiedOk; exact all_of _ (by decide +kernel)) | decide +kernel | (unfold Room; decide +kernel) | (unfold UnifiedOk; decide +kernel) | exact Or.inl (by decide +kernel) | exact ok_okD _ _ (by decide +kernel) | exact some_getD _ _ (by decide +kernel) | rfl | exact ⟨_, rfl⟩ | exact ⟨_, _, _, rfl⟩ | exact ⟨_, _, _, _, rfl⟩ | exact Or.inl ⟨_, _, _, rfl⟩ | (intro e; exact absurd e (by decide +kernel))))

theorem witness_MessagesOfCalls :
    (∃ (p n mtype : Nat) (m : CollMsg) (hd : CollHead) (h : Nat) (c : CallRun) (q : Peloton) (s t : State), takeMessage p n mtype s = some (m, hd, h, c, q, t)) ∧
    (∃ (part : PartId) (n : Nat) (m : CollMsg) (h : Nat) (c : CallRun) (q : Peloton) (src : Tensor) (s : State), Running s ∧ Comes s part.val n 0x10 m h c q ∧ stepTensor (received part.val n h m s) h (cwSrc c.word) = some src) ∧
    (∃ (h n : Nat) (q : Peloton) (c : CallRun) (src : Tensor) (m : CollMsg) (hd : CollHead) (s t : State), t = noteScale h n q c src hd s) ∧
    (∃ (part : PartId) (n : Nat) (m : CollMsg) (h : Nat) (c : CallRun) (q : Peloton) (s : State), Running s ∧ Comes s part.val n 0x11 m h c q) ∧
    (∃ (h n : Nat) (q : Peloton) (c : CallRun) (m : CollMsg) (hd : CollHead) (bs : List WireBlock) (s : State), cwKind c.word = 0 ∧ bs = readBlocks hd ((chunkLens s h c.word).getD hd.chunk 0) m.body ∧ pelN q ≤ hd.hop + 2) ∧
    (∃ (h n : Nat) (q : Peloton) (c : CallRun) (m : CollMsg) (hd : CollHead) (s : State), hd.hop + 2 < pelN q) ∧
    (∃ (part : PartId) (n : Nat) (m : CollMsg) (h : Nat) (c : CallRun) (q : Peloton) (s : State), Running s ∧ Comes s part.val n 0x12 m h c q) ∧
    (∃ (h n : Nat) (q : Peloton) (c : CallRun) (m : CollMsg) (hd : CollHead) (s : State), pelN q ≤ hd.hop + 2) ∧
    (∃ (part : PartId) (n : Nat) (m : CollMsg) (h : Nat) (c : CallRun) (q : Peloton) (dst : Tensor) (s : State), Running s ∧ Comes s part.val n 0x13 m h c q ∧ stepTensor (received part.val n h m s) h (cwDst c.word) = some dst) ∧
    (∃ (part : PartId) (n : Nat) (m : CollMsg) (h : Nat) (c : CallRun) (q : Peloton) (dst : Tensor) (s : State), Running s ∧ Comes s part.val n 0x14 m h c q ∧ stepTensor (received part.val n h m s) h (cwDst c.word) = some dst) ∧
    (∃ (part : PartId) (n : Nat) (m : CollMsg) (h c l i : Nat) (a : AWord) (x : Walk) (q : Peloton) (s : State), Running s ∧ ComesRing s part.val n 0x15 m h c l i a x q) ∧
    (∃ (part : PartId) (n : Nat) (m : CollMsg) (h c l i : Nat) (a : AWord) (x : Walk) (q : Peloton) (s t : State), Running s ∧ ComesRing s part.val n 0x16 m h c l i a x q ∧ t = dropMsg part.val n m s) ∧
    (∃ (core : CoreId) (lane : LaneId) (h n b : Nat) (a : AWord) (e : Entry) (s : State), Running s ∧ (coreOf s core.val).step = some h ∧ laneEntry s core.val lane.val = some (n, e) ∧ e.op = .walk b ∧ stepAttn s h b = some a) := by
  refine ⟨⟨0, 0, 0x10, (took 0x10 (came m10 c10)).1, (took 0x10 (came m10 c10)).2.1, (took 0x10 (came m10 c10)).2.2.1, (took 0x10 (came m10 c10)).2.2.2.1, (took 0x10 (came m10 c10)).2.2.2.2.1, came m10 c10, (took 0x10 (came m10 c10)).2.2.2.2.2, ?_⟩,
    ⟨0, 0, m10, h0 1 1, c10, inboxed (m10), (stepTensor (received 0 0 (h0 1 1) (m10) (came (m10) c10)) (h0 1 1) (cwSrc c10.word)).getD tens0, came (m10) c10, ?_⟩,
    ⟨0, 0, pel0, scat0, tens0, m10, {}, st0, noteScale 0 0 pel0 scat0 tens0 {} st0, ?_⟩,
    ⟨0, 0, m11, h0 1 1, scat0, inboxed (m11), came (m11) scat0, ?_⟩,
    ⟨0, 0, pel0, scat0, m10, {}, readBlocks {} ((chunkLens st0 0 scat0.word).getD 0 0) m10.body, st0, ?_⟩,
    ⟨0, 0, pel4, scat0, m10, {}, st0, ?_⟩,
    ⟨0, 0, smsg 0x12 0, h0 1 1, scat0, inboxed (smsg 0x12 0), came (smsg 0x12 0) scat0, ?_⟩,
    ⟨0, 0, pel0, scat0, m10, {}, st0, ?_⟩,
    ⟨0, 0, smsg 0x13 0, h0 1 1, scat0, inboxed (smsg 0x13 0), (stepTensor (received 0 0 (h0 1 1) (smsg 0x13 0) (came (smsg 0x13 0) scat0)) (h0 1 1) (cwDst scat0.word)).getD tens0, came (smsg 0x13 0) scat0, ?_⟩,
    ⟨0, 0, smsg 0x14 0, h0 1 1, scat0, inboxed (smsg 0x14 0), (stepTensor (received 0 0 (h0 1 1) (smsg 0x14 0) (came (smsg 0x14 0) scat0)) (h0 1 1) (cwDst scat0.word)).getD tens0, came (smsg 0x14 0) scat0, ?_⟩,
    ⟨0, 0, m15, h0 1 1, 0, 0, 0, ringA, { hop := 1 }, inboxed m15, ringState 0x15 { hop := 1 }, ?_⟩,
    ⟨0, 0, m16, h0 1 1, 0, 0, 0, ringA, { hop := 1 }, inboxed m16, ringState 0x16 { hop := 1 }, dropMsg 0 0 m16 (ringState 0x16 { hop := 1 }), ?_⟩,
    ⟨0, 0, h0 1 1, 0, 0, 1 <<< 448, { op := .walk 0 }, ringState 0x15 {}, ?_⟩⟩
  all_goals (repeat' (first | with_reducible rfl | with_reducible exact took_eq _ _ _ (by decide) (by decide +kernel) | with_reducible exact came_comes _ _ _ (by decide +kernel) (by decide +kernel) (by decide +kernel) (by decide +kernel) (by decide +kernel) | exact ⟨_, [], [], rfl, rfl, rfl, by simp, rfl, by decide +kernel, by decide +kernel, by decide +kernel⟩ | exact some_getD _ _ (by decide +kernel) | decide +kernel | apply And.intro | rfl))

theorem witness_RefusalsAndReplies :
    (∃ (c : Instr) (fn : Fn) (hdr : Hdr) (op : Nat) (pf : Bool) (s : State), messageOf c = some (fn, hdr, op, pf)) ∧
    (∃ (f op status handle : Nat) (hdr : Hdr) (result : W64) (data : List Byte) (s : State), op < 2 ^ 16 ∧ status < 2 ^ 16 ∧ handle < 2 ^ 64 ∧ data.length ≤ 4064) := by
  refine ⟨⟨.identityRead 16 hdr0 0, 16, hdr0, 0x0701, false, st0, ?_⟩,
    ⟨16, 65535, 65535, 2 ^ 64 - 1, hdr0, 0, List.replicate 4064 0, st0, ?_⟩⟩
  all_goals (repeat' (first | assumption | apply And.intro | exact all_of _ (by decide +kernel) | (unfold UnifiedOk; exact all_of _ (by decide +kernel)) | decide +kernel | (unfold Room; decide +kernel) | (unfold UnifiedOk; decide +kernel) | exact Or.inl (by decide +kernel) | exact ok_okD _ _ (by decide +kernel) | exact some_getD _ _ (by decide +kernel) | rfl | exact ⟨_, rfl⟩ | exact ⟨_, _, _, rfl⟩ | exact ⟨_, _, _, _, rfl⟩ | exact Or.inl ⟨_, _, _, rfl⟩ | (intro e; exact absurd e (by decide +kernel))))

theorem witness_CompletionEntries :
    (∃ (f : Nat) (c : Completion) (s : State) (r : Ring), (fnOf s f).ring = some r ∧ (fnOf s f).overflow = [] ∧ (fnOf s f).tail < r.entries ∧ ((fnOf s f).tail + 1) % r.entries ≠ (fnOf s f).head ∧ r.base + 32 * r.entries < 2 ^ 64 ∧ c.handle < 2 ^ 64 ∧ c.status < 2 ^ 16 ∧ c.epoch < 2 ^ 32 ∧ (r.writeback = 0 ∨ r.writeback + 8 ≤ r.base ∨ (r.base + 32 * r.entries ≤ r.writeback ∧ r.writeback + 8 ≤ 2 ^ 64))) ∧
    (∃ (f : Nat) (c : Completion) (s : State), (fnOf s f).ring = none) ∧
    (∃ (f : Nat) (c : Completion) (s : State) (r : Ring), (fnOf s f).ring = some r ∧ ((fnOf s f).tail + 1) % r.entries = (fnOf s f).head) ∧
    (∃ (h st : Nat) (result : W64) (r : HandleRec) (s : State), getHandle s h = some r ∧ r.owed = true ∧ r.state ≠ .ended) ∧
    (∃ (h st : Nat) (result : W64) (r : HandleRec) (s : State), getHandle s h = some r ∧ r.owed = false) := by
  refine ⟨⟨16, { handle := 2 ^ 64 - 1, status := 65535, epoch := 0xFFFFFFFF, cvec := some 3 }, withFn 16 { ring := some { ring0 with base := 2 ^ 64 - 4096, writeback := 2 ^ 64 - 8 }, tail := 63, head := 1 }, { ring0 with base := 2 ^ 64 - 4096, writeback := 2 ^ 64 - 8 }, ?_⟩,
    ⟨0, { handle := 2 ^ 64 - 1, status := 65535, epoch := 0xFFFFFFFF, cvec := some 3 }, st0, ?_⟩,
    ⟨0, { handle := 2 ^ 64 - 1, status := 65535, epoch := 0xFFFFFFFF, cvec := some 3 }, withFn 0 { ring := some ring0, tail := 63, head := 0 }, ring0, ?_⟩,
    ⟨h0 1 1, 65535, 0, rec0 1 .step, withHandle (h0 1 1) (rec0 1 .step), ?_⟩,
    ⟨h0 1 1, 65535, 0, { rec0 1 .step with owed := false }, withHandle (h0 1 1) { rec0 1 .step with owed := false }, ?_⟩⟩
  all_goals (repeat' (first | assumption | apply And.intro | exact all_of _ (by decide +kernel) | (unfold UnifiedOk; exact all_of _ (by decide +kernel)) | decide +kernel | (unfold Room; decide +kernel) | (unfold UnifiedOk; decide +kernel) | exact Or.inl (by decide +kernel) | exact ok_okD _ _ (by decide +kernel) | exact some_getD _ _ (by decide +kernel) | rfl | exact ⟨_, rfl⟩ | exact ⟨_, _, _, rfl⟩ | exact ⟨_, _, _, _, rfl⟩ | exact Or.inl ⟨_, _, _, rfl⟩ | (intro e; exact absurd e (by decide +kernel))))

theorem witness_CommitPublishesBanks :
    (∃ (p : Nat) (st : BankStage) (x : Partition) (b : Bank) (s : State), getPart s p = some x ∧ tget? x.banks st.bank = some b ∧ st.applied = some true ∧ b.cur ≤ 1) ∧
    (∃ (p : Nat) (st : BankStage) (x : Partition) (b : Bank) (s : State), getPart s p = some x ∧ tget? x.banks st.bank = some b ∧ st.applied = some false) ∧
    (∃ (h : Nat) (st : Step) (x : Partition) (s : State), getPart s (handlePart h) = some x ∧ getStep s h = some st) := by
  refine ⟨⟨0, { bank := 0, applied := some true }, xb, bank0, at0 xb, ?_⟩,
    ⟨0, { bank := 0, applied := some false }, xb, bank0, at0 xb, ?_⟩,
    ⟨h0 1 1, { run0 with banks := [{ bank := 0 }] }, xbh, at0 xbh, ?_⟩⟩
  all_goals (repeat' (first | assumption | apply And.intro | exact all_of _ (by decide +kernel) | (unfold UnifiedOk; exact all_of _ (by decide +kernel)) | decide +kernel | (unfold Room; decide +kernel) | (unfold UnifiedOk; decide +kernel) | exact Or.inl (by decide +kernel) | exact ok_okD _ _ (by decide +kernel) | exact some_getD _ _ (by decide +kernel) | rfl | exact ⟨_, rfl⟩ | exact ⟨_, _, _, rfl⟩ | exact ⟨_, _, _, _, rfl⟩ | exact Or.inl ⟨_, _, _, rfl⟩ | (intro e; exact absurd e (by decide +kernel))))

theorem witness_StepConsumesOneCommand :
    (∃ (s t : State) (c : Instr) (rest : List Instr), s.pending = c :: rest ∧ step s = .next t) ∧
    (∃ (c : Instr) (s : State), (∀ fn bar offset bytes, c = .barWrite fn bar offset bytes → offset + bytes.length ≤ barSize fn bar) ∧ (∀ fn bar offset size, c = .oversizeBarRead fn bar offset size → offset + size ≤ barSize fn bar) ∧ (∀ fn bar offset, c = .poisonedTlp fn bar offset → offset < barSize fn bar)) ∧
    (∃ (fn : Fn) (bar offset : Nat) (bytes : List Byte) (s : State), reaches s fn = true ∧ barSize fn bar < offset + bytes.length) ∧
    (∃ (fn : Fn) (bar offset size : Nat) (s : State), reaches s fn = true ∧ barSize fn bar < offset + size) ∧
    (∃ (fn : Fn) (bar offset : Nat) (s : State), reaches s fn = true ∧ barSize fn bar ≤ offset) := by
  refine ⟨⟨{ st0 with pending := [.vfEnableSet, .vfEnableClear] }, nextD (step { st0 with pending := [.vfEnableSet, .vfEnableClear] }) st0, .vfEnableSet, [.vfEnableClear], ?_⟩,
    ⟨.barWrite 0 2 0xFFFF8 (List.replicate 8 0), st0, ?_⟩,
    ⟨1, 2, 0xFFF9, List.replicate 8 0, st0, ?_⟩,
    ⟨16, 2, 0xFFFF, 2, st0, ?_⟩,
    ⟨0, 5, 0, st0, ?_⟩⟩
  · exact ⟨rfl, next_nextD _ _ (by decide +kernel)⟩
  · exact ⟨fun _ _ _ _ e => (by cases e; decide), fun _ _ _ _ e => (by cases e), fun _ _ _ e => (by cases e)⟩
  all_goals exact ⟨by decide +kernel, by decide +kernel⟩

theorem witness_NumberFormats :
    (∃ f width bias code sign e m : Nat, (f, width, bias) ∈ [(0x00, 23, 127), (0x01, 7, 127), (0x02, 3, 7), (0x03, 2, 15), (0x04, 3, 7), (0x05, 2, 15), (0x06, 3, 1), (0x07, 2, 3), (0x08, 1, 1), (0x0A, 1, 1), (0x0C, 39, 127)] ∧ m < 2 ^ width ∧ sign < 2 ∧ code = sign * 2 ^ (fmtBits f - 1) + e * 2 ^ width + m ∧ code % 2 ^ (fmtBits f - 1) = e * 2 ^ width + m ∧ (codeVal f code).isFin = true) ∧
    (∃ f width bits code : Nat, (f, width, bits) ∈ [(0x00, 23, 32), (0x01, 7, 16), (0x0C, 39, 48)] ∧ code < 2 ^ bits) ∧
    (∃ code : Nat, code < 256) ∧
    (∃ f nan cvt r : Nat, (f, nan) ∈ [(0x00, 0x7FC00000), (0x01, 0x7FC0), (0x02, 0x7F), (0x03, 0x7E), (0x0C, 0x7FC000000000)]) ∧
    (∃ f code : Nat, f ∈ [0x06, 0x07, 0x08, 0x0A]) ∧
    (∃ f code cvt r : Nat, f ∈ [0x00, 0x01, 0x02, 0x03, 0x0C] ∧ code < 2 ^ fmtBits f ∧ (codeVal f code).isFin = true) := by
  refine ⟨⟨0x0C, 39, 127, 0x7F7FFFFFFFFF, 0, 254, 2 ^ 39 - 1, ?_⟩,
    ⟨0x0C, 39, 48, 2 ^ 48 - 1, ?_⟩,
    ⟨255, ?_⟩,
    ⟨0x03, 0x7E, 0, 0, ?_⟩,
    ⟨0x0A, 0, ?_⟩,
    ⟨0x0C, 0xFF7FFFFFFFFF, 0, 0, ?_⟩⟩
  all_goals (repeat' (first | assumption | apply And.intro | exact all_of _ (by decide +kernel) | (unfold UnifiedOk; exact all_of _ (by decide +kernel)) | decide +kernel | (unfold Room; decide +kernel) | (unfold UnifiedOk; decide +kernel) | exact Or.inl (by decide +kernel) | exact ok_okD _ _ (by decide +kernel) | exact some_getD _ _ (by decide +kernel) | rfl | exact ⟨_, rfl⟩ | exact ⟨_, _, _, rfl⟩ | exact ⟨_, _, _, _, rfl⟩ | exact Or.inl ⟨_, _, _, rfl⟩ | (intro e; exact absurd e (by decide +kernel))))

end Sys2Proof.Tests
end

/-!
PROOFS. Slot doorbells and failed DMA reads (R38, R92, Table 12 of ch. 02), and the commands that stop, resume, commit and
frog a step (R50 to R53, R204, R205, R524).
-/
namespace Sys2Proof.Architecture
open Sys2Proof Sys2Proof.Machine Sys2Proof.Safety

/-! ## SLOT_DB and DMA_READ_ERROR -/

theorem exec_slotDb_running {fn : Fn} {i : SlotId} {v : W64} {s : State} (h : Running s) :
    exec (.slotDb fn i v) s = .next (slotDoorbell fn i.val v s) :=
  whenLive_running h

theorem exec_dmaReadError_running {h addr : W64} {s : State} (hr : Running s) :
    exec (.dmaReadError h addr) s = .next (dmaReadError h.toNat addr s) :=
  whenLive_running hr

/-- R37, R94: the doorbell of an armed slot fires it and starts its step with the argument as binding word 0. -/
theorem slotDoorbell_armed {f i : Nat} {v : W64} {s : State} (hf : fnExists s f = true) (hv : fld v 63 32 = 0)
    (ha : (slotOf (fnOf s f) i).state = 1) :
    slotDoorbell f i v s =
      let y := slotOf (fnOf s f) i
      admitStep y.handle true (modStep y.handle (fun st => { st with slot := none, words := v.setWidth 32 :: st.words.drop 1 })
        (modHandle y.handle (fun r => { r with state := .queued })
          (devEvent 0x0006 (handlePart y.handle) 1 (modFn f (fun z => { z with slots := tset z.slots i { y with state := 2 } }) s)))) := by
  simp [slotDoorbell, hf, hv, ha]

/-- R92: reserved bits are looked at before the slot is. -/
theorem slotDoorbell_reserved {f i : Nat} {v : W64} {s : State} (hf : fnExists s f = true) (hv : fld v 63 32 ≠ 0) :
    slotDoorbell f i v s = postRefusal f 0x0201 s := by
  simp [slotDoorbell, hf, hv]

theorem slotDoorbell_unarmed {f i : Nat} {v : W64} {s : State} (hf : fnExists s f = true) (hv : fld v 63 32 = 0)
    (ha : (slotOf (fnOf s f) i).state ≠ 1) : slotDoorbell f i v s = postRefusal f 0x0205 s := by
  simp [slotDoorbell, hf, hv, ha]

@[simp] theorem getHandle_raiseFault (f : FaultIn) (s : State) (h : Nat) : getHandle (raiseFault f s) h = getHandle s h := rfl

/-- Table 12 of ch. 02: a failed read raises the fault and ends a command that has nothing of its own to undo. -/
theorem dmaReadError_plain {h : Nat} {addr : W64} {s : State} {r : HandleRec} (hr : getHandle s h = some r) (hop : r.op = .none)
    (ho : r.owed = true) :
    dmaReadError h addr s = finish h 0x0401 0
      (raiseFault { code := 0x0801, cls := 0, sev := 1, die := 4, unit := r.fn, detail := addr, handle := h, parts := r.part.toList } s) := by
  simp [dmaReadError, hr, hop, ho, endOp]

/-- Settles O9: a doorbell by its reserved bits and its slot's state, a failed read by its handle's record. -/
theorem slotDoorbellsAndDmaErrors : Obligations.SlotDoorbellsAndDmaErrors := by
  refine ⟨?armed, ?reserved, ?unarmed, ?readError⟩
  case armed => exact fun fn i v s hr hf hv ha => by rw [exec_slotDb_running hr, slotDoorbell_armed hf hv ha]
  case reserved => exact fun fn i v s hr hf hv => by rw [exec_slotDb_running hr, slotDoorbell_reserved hf hv, postRefusal]
  case unarmed => exact fun fn i v s hr hf hv ha => by rw [exec_slotDb_running hr, slotDoorbell_unarmed hf hv ha, postRefusal]
  case readError => exact fun h addr s r hr hh hop ho => by rw [exec_dmaReadError_running hr, dmaReadError_plain hh hop ho]

/-! ## The four commands on a step: each reaches its own test of the step's state -/

section OnStep
variable {fn : Fn} {hdr : Hdr} {h : Nat} {x : Partition} {st : Step} {s : State}

theorem exec_stepStop_on (hh : Heard s fn hdr) (hs : OnStep s fn hdr h x st) :
    exec (.stepStop fn hdr) s = .next (settle fn 0x0221 hdr (need (st.state == .running && !st.suspended && !st.frogging) 0x0205
      (.ok { st := releaseQuads h (stopStep .host h (modStep h (fun st => { st with suspended := true }) s)) })) s) := by
  have hb := message_heard (op := 0x0221) (body := stopBody fn hdr) hh (by decide)
  rwa [stopBody, withStep_on hs] at hb

theorem exec_stepResume_on (hh : Heard s fn hdr) (hs : OnStep s fn hdr h x st) :
    exec (.stepResume fn hdr) s = .next (settle fn 0x0222 hdr (need (st.state == .running && st.suspended) 0x0205
      (let t := modStep h (fun st => { st with suspended := false }) s
       .ok { st := if stepClass t h = 0 then preemptQuads h t else t })) s) := by
  have hb := message_heard (op := 0x0222) (body := resumeBody fn hdr) hh (by decide)
  rwa [resumeBody, withStep_on hs] at hb

theorem exec_stepCommit_on (hh : Heard s fn hdr) (hs : OnStep s fn hdr h x st) :
    exec (.stepCommit fn hdr) s = .next (settle fn 0x0250 hdr
      (needInFlight st (need (st.state == .held) 0x0205 (.ok { st := commitStep h s }))) s) := by
  have hb := message_heard (op := 0x0250) (body := commitBody fn hdr) hh (by decide)
  rwa [commitBody, withStep_on hs] at hb

theorem exec_stepFrog_on (hh : Heard s fn hdr) (hs : OnStep s fn hdr h x st) :
    exec (.stepFrog fn hdr) s = .next (settle fn 0x0251 hdr
      (needInFlight st (need (st.state != .queued) 0x0205 (.ok { st := frogStep h s, result := w64 (stepCode st.state) }))) s) := by
  have hb := message_heard (op := 0x0251) (body := frogBody fn hdr) hh (by decide)
  rwa [frogBody, withStep_on hs] at hb

/-! ## What frogging does, by the state of the step -/

theorem getStep_of_onStep (hs : OnStep s fn hdr h x st) : getStep s h = some st := by
  obtain ⟨_, _, _, _, hg⟩ := hs
  exact hg

theorem frogStep_running (hg : getStep s h = some st) (hr : st.state = .running) :
    frogStep h s = stopStep .frog h (modStep h (fun st => { st with frogging := true }) s) := by
  simp [frogStep, hg, hr]

theorem frogStep_heldOrStopped (hg : getStep s h = some st) (hd : st.state = .held ∨ st.state = .stopped) :
    frogStep h s = discardStep h s := by
  rcases hd with hd | hd <;> simp [frogStep, hg, hd]

/-! ## The answers of the four commands -/

theorem needInFlight_over {α : Type} {k : Except Nat α} (ho : st.state = .committed ∨ st.state = .discarded) :
    needInFlight st k = .error 0x0204 := by
  rcases ho with ho | ho <;> simp [needInFlight, ho]

theorem needInFlight_open {α : Type} {k : Except Nat α} (hc : st.state ≠ .committed) (hd : st.state ≠ .discarded) :
    needInFlight st k = k := by
  simp [needInFlight, bne_iff_ne.mpr hc, bne_iff_ne.mpr hd]

theorem stepStop_running (hh : Heard s fn hdr) (hs : OnStep s fn hdr h x st) (hr : st.state = .running) (hu : st.suspended = false)
    (hf : st.frogging = false) : exec (.stepStop fn hdr) s = answered fn 0x0221 hdr 0 []
      (releaseQuads h (stopStep .host h (modStep h (fun st => { st with suspended := true }) s))) := by
  simp [exec_stepStop_on hh hs, hr, hu, hf, answered]

theorem stepStop_notRunning (hh : Heard s fn hdr) (hs : OnStep s fn hdr h x st) (hr : st.state ≠ .running) :
    exec (.stepStop fn hdr) s = refusedWith fn 0x0221 hdr 0x0205 s := by
  simp [exec_stepStop_on hh hs, beq_eq_false_iff_ne.mpr hr, refusedWith]

/-- Only a step of class 0 preempts others when it resumes; one of class 1 to 3 just stops being suspended. -/
theorem stepResume_suspended (hh : Heard s fn hdr) (hs : OnStep s fn hdr h x st) (hr : st.state = .running) (hu : st.suspended = true)
    (hc : stepClass (modStep h (fun st => { st with suspended := false }) s) h ≠ 0) :
    exec (.stepResume fn hdr) s = answered fn 0x0222 hdr 0 [] (modStep h (fun st => { st with suspended := false }) s) := by
  simp [exec_stepResume_on hh hs, hr, hu, hc, answered]

theorem stepCommit_held (hh : Heard s fn hdr) (hs : OnStep s fn hdr h x st) (hd : st.state = .held) :
    exec (.stepCommit fn hdr) s = answered fn 0x0250 hdr 0 [] (commitStep h s) := by
  rw [exec_stepCommit_on hh hs, needInFlight_open (by simp [hd]) (by simp [hd])]
  simp [hd, answered]

theorem stepCommit_notHeld (hh : Heard s fn hdr) (hs : OnStep s fn hdr h x st)
    (hd : st.state = .queued ∨ st.state = .running ∨ st.state = .stopped) :
    exec (.stepCommit fn hdr) s = refusedWith fn 0x0250 hdr 0x0205 s := by
  have hin : st.state ≠ .held ∧ st.state ≠ .committed ∧ st.state ≠ .discarded := by
    rcases hd with hd | hd | hd <;> simp [hd]
  obtain ⟨hheld, hcommitted, hdiscarded⟩ := hin
  rw [exec_stepCommit_on hh hs, needInFlight_open hcommitted hdiscarded]
  simp [beq_eq_false_iff_ne.mpr hheld, refusedWith]

theorem stepCommit_over (hh : Heard s fn hdr) (hs : OnStep s fn hdr h x st) (ho : st.state = .committed ∨ st.state = .discarded) :
    exec (.stepCommit fn hdr) s = refusedWith fn 0x0250 hdr 0x0204 s := by
  rw [exec_stepCommit_on hh hs, needInFlight_over ho, settle_error, refusedWith]

theorem stepFrog_over (hh : Heard s fn hdr) (hs : OnStep s fn hdr h x st) (ho : st.state = .committed ∨ st.state = .discarded) :
    exec (.stepFrog fn hdr) s = refusedWith fn 0x0251 hdr 0x0204 s := by
  rw [exec_stepFrog_on hh hs, needInFlight_over ho, settle_error, refusedWith]

/-- R205: a held or stopped step is discarded in the command itself, and RESULT is the state before that. -/
theorem stepFrog_heldOrStopped (hh : Heard s fn hdr) (hs : OnStep s fn hdr h x st) (hd : st.state = .held ∨ st.state = .stopped) :
    exec (.stepFrog fn hdr) s = answered fn 0x0251 hdr (w64 (stepCode st.state)) [] (discardStep h s) := by
  have hin : st.state ≠ .queued ∧ st.state ≠ .committed ∧ st.state ≠ .discarded := by
    rcases hd with hd | hd <;> simp [hd]
  obtain ⟨hqueued, hcommitted, hdiscarded⟩ := hin
  rw [exec_stepFrog_on hh hs, frogStep_heldOrStopped (getStep_of_onStep hs) hd, needInFlight_open hcommitted hdiscarded]
  simp [bne_iff_ne.mpr hqueued, answered]

theorem stepFrog_running (hh : Heard s fn hdr) (hs : OnStep s fn hdr h x st) (hr : st.state = .running) :
    exec (.stepFrog fn hdr) s = answered fn 0x0251 hdr (w64 (stepCode st.state)) []
      (stopStep .frog h (modStep h (fun st => { st with frogging := true }) s)) := by
  have hqueued : st.state ≠ .queued := by simp [hr]
  rw [exec_stepFrog_on hh hs, frogStep_running (getStep_of_onStep hs) hr, needInFlight_open (by simp [hr]) (by simp [hr])]
  simp [bne_iff_ne.mpr hqueued, answered]

theorem stepFrog_queued (hh : Heard s fn hdr) (hs : OnStep s fn hdr h x st) (hq : st.state = .queued) :
    exec (.stepFrog fn hdr) s = refusedWith fn 0x0251 hdr 0x0205 s := by
  rw [exec_stepFrog_on hh hs, needInFlight_open (by simp [hq]) (by simp [hq])]
  simp [hq, refusedWith]

/-- R83: TARGET may be used, but it is no step's handle. -/
theorem withStep_otherKind {k : Nat → Partition → Step → Except Nat Ans}
    (ht : targetError s (if fn.val = 0 then none else some (fn.val - 1)) hdr.target.toNat = none) (hk : handleKind hdr.target.toNat ≠ 1) :
    withStep fn hdr s k = .error 0x0201 := by
  simp only [withStep, ht]
  exact if_pos hk

theorem stepCommit_otherKind (hh : Heard s fn hdr)
    (ht : targetError s (if fn.val = 0 then none else some (fn.val - 1)) hdr.target.toNat = none) (hk : handleKind hdr.target.toNat ≠ 1) :
    exec (.stepCommit fn hdr) s = refusedWith fn 0x0250 hdr 0x0201 s := by
  have hb := message_heard (op := 0x0250) (body := commitBody fn hdr) hh (by decide)
  rwa [commitBody, withStep_otherKind ht hk] at hb

end OnStep

/-- Settles O42: each clause is the command's answer in that state of the step. -/
theorem stopResumeCommitFrog : Obligations.StopResumeCommitFrog := by
  refine ⟨?stop, ?stopNotRunning, ?resume, ?commit, ?commitNotHeld, ?stepOver, ?frogHeld, ?frogStopped, ?frogRunning, ?frogQueued, ?otherKind⟩
  case stop => exact fun _ _ _ _ _ _ hh hs hr hu hf => stepStop_running hh hs hr hu hf
  case stopNotRunning => exact fun _ _ _ _ _ _ hh hs hr => stepStop_notRunning hh hs hr
  case resume => exact fun _ _ _ _ _ _ hh hs hr hu hc => stepResume_suspended hh hs hr hu hc
  case commit => exact fun _ _ _ _ _ _ hh hs hd => stepCommit_held hh hs hd
  case commitNotHeld => exact fun _ _ _ _ _ _ hh hs hd => stepCommit_notHeld hh hs hd
  case stepOver => exact fun _ _ _ _ _ _ hh hs ho => ⟨stepCommit_over hh hs ho, stepFrog_over hh hs ho⟩
  case frogHeld =>
    intro _ _ _ _ _ _ hh hs hd
    have hf := stepFrog_heldOrStopped hh hs (.inl hd)
    rwa [hd] at hf
  case frogStopped =>
    intro _ _ _ _ _ _ hh hs hd
    have hf := stepFrog_heldOrStopped hh hs (.inr hd)
    rwa [hd] at hf
  case frogRunning =>
    intro _ _ _ _ _ _ hh hs hr
    have hf := stepFrog_running hh hs hr
    rwa [hr] at hf
  case frogQueued => exact fun _ _ _ _ _ _ hh hs hq => stepFrog_queued hh hs hq
  case otherKind => exact fun _ _ _ hh ht hk => stepCommit_otherKind hh ht hk

end Sys2Proof.Architecture

/-!
PROOFS. The command model (chapter 02): what the host port's registers and BARs take (R65 to R68, R86 to R88), the commands
that answer data or set the ring, the event vector and the tick (R83, R84, R100 to R102), and the framing of messages with
its reply (R61, R74, R77).
-/
namespace Sys2Proof.Architecture
open Sys2Proof Sys2Proof.Machine Sys2Proof.Safety

/-! ## What the host port's registers and BARs take -/

theorem onWrite_reaches {f : Nat} {g : State → State} {s : State} (h : reaches s f = true) : onWrite f g s = .next (g s) := by
  simp [onWrite, h]

theorem statusWrite_set {f : Nat} {v : W64} {s : State} (hv : bitAt v 1 = true) :
    statusWrite f v s = modFn f (fun x => { x with replyReady := false }) s := by
  simp [statusWrite, hv]

theorem statusWrite_unset {f : Nat} {v : W64} {s : State} (hv : bitAt v 1 = false) : statusWrite f v s = s := by
  simp [statusWrite, hv]

theorem fld_eq_zero_of_lt {n : Nat} {w : BitVec n} {hi lo : Nat} (h : w.toNat < 2 ^ lo) : fld w hi lo = 0 := by
  rw [fld, Nat.shiftRight_eq_div_pow, Nat.div_eq_of_lt h, Nat.zero_mod]

theorem headOk_noRing {x : FnState} {v : W64} (h : x.ring = none) : headOk x v = false := by
  simp [headOk, h]

theorem headOk_inSpan {x : FnState} {v : W64} {r : Ring} (hr : x.ring = some r) (hlt : v.toNat < r.entries) (h16 : v.toNat < 2 ^ 16)
    (hs : (v.toNat + r.entries - x.head) % r.entries ≤ (x.tail + r.entries - x.head) % r.entries) : headOk x v = true := by
  simp [headOk, hr, fld_eq_zero_of_lt h16, hlt, hs]

/-- R87, R88: outside the safe state a HEAD that is taken frees room for the waiting entries. -/
theorem headWrite_taken {f : Nat} {v : W64} {s : State} (hv : headOk (fnOf s f) v = true) (hs : s.collector.safe = false) :
    headWrite f v s = drain f (modFn f (fun x => { x with head := v.toNat }) s) := by
  simp [headWrite, hv, hs]

theorem headWrite_dropped {f : Nat} {v : W64} {s : State} (hv : headOk (fnOf s f) v = false) : headWrite f v s = hostMistake f s := by
  simp [headWrite, hv]

theorem le_barSize_zero (f : Nat) : 0x1000 ≤ Machine.barSize f 0 := by
  simp [Machine.barSize]

theorem le_barSize_two (f : Nat) : 0x10000 ≤ Machine.barSize f 2 := by
  by_cases hf : f = 0 <;> simp [Machine.barSize, hf]

theorem barWrite_beyond {f : Fn} {bar offset : Nat} {bs : List Byte} {s : State} (h : reaches s f = true)
    (hb : Machine.barSize f bar < offset + bs.length) : barWrite f bar offset bs s = .fault (.noSuchAddress offset) := by
  simp only [barWrite, h, hb, Bool.not_true, if_true, Bool.false_eq_true, if_false]

theorem slotAddress_none {bar offset n : Nat} (hd : bar ≠ 0 ∨ offset + n ≤ 0x1000) : slotAddress bar offset n = none := by
  rw [slotAddress, if_neg]
  simp only [Bool.and_eq_true, decide_eq_true_eq]
  omega

theorem not_mailboxDoorbell {bar offset n : Nat} (hd : bar ≠ 0 ∨ offset + n ≤ 0x1000) :
    (bar = 0 && offset = 0x1000 && n = 8) = false := by
  simp only [Bool.and_eq_false_iff, decide_eq_false_iff_not]
  omega

/-- A write that reaches no doorbell is one to the window, to another register or to nothing. -/
theorem barWrite_noDoorbell {f : Fn} {bar offset : Nat} {bs : List Byte} {s : State} (h : reaches s f = true)
    (hb : offset + bs.length ≤ Machine.barSize f bar) (hd : bar ≠ 0 ∨ offset + bs.length ≤ 0x1000) :
    barWrite f bar offset bs s = .next (barStore f bar offset bs s) := by
  simp only [barWrite, h, Nat.not_lt.mpr hb, not_mailboxDoorbell hd, slotAddress_none hd, Bool.not_true, Bool.false_eq_true, if_false]

theorem barStore_two {f offset : Nat} {bs : List Byte} {s : State} : barStore f 2 offset bs s = hostMistake f s := by
  simp [barStore]

/-- R73: the window is the host's while BUSY is 0 only. -/
theorem barStore_window {f offset : Nat} {bs : List Byte} {s : State} (ho : offset + bs.length ≤ 0x1000) :
    barStore f 0 offset bs s = if (fnOf s f).busy then hostMistake f s else s.write (.window f) offset bs := by
  simp [barStore, ho]

theorem barRead_misfit {f bar offset size : Nat} {s : State} (h : reaches s f = true) (hb : offset + size ≤ Machine.barSize f bar)
    (hm : 8 < size ∨ 8 < offset % 8 + size) : barRead f bar offset size s = .next (hostMistake f (emit (.completerAbort f) s)) := by
  simp [barRead, h, Nat.not_lt.mpr hb, hm]

theorem execPoisonedTlp_inside {fn : Fn} {bar offset : Nat} {s : State} (h : reaches s fn = true) (hb : offset < Machine.barSize fn bar) :
    execPoisonedTlp fn bar offset s = .next (hostMistake fn (emit (.aerPoisoned fn) s)) := by
  simp [execPoisonedTlp, h, Nat.not_le.mpr hb]

theorem coalesce_waiting {f v : Nat} {s : State} (h : tget (fnOf s f).waiting v 0 ≠ 0) :
    coalesce f v s = msix f v (modFn f (fun x => { x with waiting := tdel x.waiting v }) s) :=
  if_neg h

/-- Settles O6: a register by the value written, a BAR by the offset and BUSY. -/
theorem hostRegistersAndBars : Obligations.HostRegistersAndBars := by
  refine ⟨?ready, ?notReady, ?head, ?noRing, ?window, ?busy, ?bar2, ?beyond, ?oversize, ?poisoned, ?timer⟩
  case ready =>
    intro fn v s h hv
    exact (onWrite_reaches h).trans (congrArg _ (statusWrite_set hv))
  case notReady =>
    intro fn v s h hv
    exact (onWrite_reaches h).trans (congrArg _ (statusWrite_unset hv))
  case head =>
    intro fn v s r h hr hsafe hlt h16 hspan
    exact (onWrite_reaches h).trans (congrArg _ (headWrite_taken (headOk_inSpan hr hlt h16 hspan) hsafe))
  case noRing =>
    intro fn v s h hr
    exact (onWrite_reaches h).trans (congrArg _ (headWrite_dropped (headOk_noRing hr)))
  case window =>
    intro fn offset bs s h hbusy ho
    refine (barWrite_noDoorbell h (Nat.le_trans ho (le_barSize_zero fn)) (.inr ho)).trans (congrArg _ ?_)
    rw [barStore_window ho, hbusy, if_neg Bool.false_ne_true]
  case busy =>
    intro fn offset bs s h hbusy ho
    refine (barWrite_noDoorbell h (Nat.le_trans ho (le_barSize_zero fn)) (.inr ho)).trans (congrArg _ ?_)
    rw [barStore_window ho, hbusy, if_pos rfl]
  case bar2 =>
    intro fn offset bs s h ho
    exact (barWrite_noDoorbell h (Nat.le_trans ho (le_barSize_two fn)) (.inl (by decide))).trans (congrArg _ barStore_two)
  case beyond => exact fun fn bar offset bs s h hb => barWrite_beyond h hb
  case oversize => exact fun fn bar offset size s h hb hm => barRead_misfit h hb hm
  case poisoned => exact fun fn bar offset s h hb => execPoisonedTlp_inside h hb
  case timer => exact fun fn v s hr hw => (whenLive_running hr).trans (congrArg _ (coalesce_waiting hw))

/-! ## DEVICE_INFO, HANDLE_QUERY, PARTITION_LIST, RING_SET, EVENT_ROUTE and TICK_SET -/

/-- R542, R602: DEVICE_INFO is answered wherever anything answers. -/
theorem modeRefuses_deviceInfo {s : State} (h : answers s = true) : modeRefuses 0x0001 s = false := by
  unfold answers at h
  unfold modeRefuses
  split at h <;> simp_all

theorem message_deviceInfo {fn : Fn} {hdr : Hdr} {body : Body} {s : State} (ha : answers s = true) (hr : Reached s fn hdr) :
    message fn hdr 0x0001 false body s = .next (settle fn 0x0001 hdr (body s) s) := by
  obtain ⟨hf, hc⟩ := hr
  simp [message, ha, hf, hc, modeRefuses_deviceInfo ha]

theorem targetError_pf {s : State} {h : Nat} {r : HandleRec} (hr : getHandle s h = some r)
    (hg : handleGen h = genOf s (scopeOf (handlePart h) (handleKind h))) : targetError s none h = none := by
  simp [targetError, hr, hg]

/-- R83: a VF names the handles of its own partition. -/
theorem targetError_vf {s : State} {p : PartId} {h : Nat} {r : HandleRec} (hr : getHandle s h = some r) (hp : handlePart h = p.val)
    (hk : handleKind h < 9) (hg : handleGen h = genOf s p.val) : targetError s (some p.val) h = none := by
  have hscope : scopeOf p.val (handleKind h) = p.val := if_neg (Nat.not_le.mpr hk)
  have hdevice : p.val ≠ 16 := Nat.ne_of_lt p.isLt
  simp [targetError, hr, hp, hg, hscope, hdevice]

theorem handleBody_permitted {f : Nat} {hdr : Hdr} {s : State} {r : HandleRec}
    (ht : targetError s (if f = 0 then none else some (f - 1)) hdr.target.toNat = none) (hr : getHandle s hdr.target.toNat = some r) :
    handleBody f hdr s = .ok { st := s, result := w64 (hstateCode r.state ||| r.status <<< 16) } := by
  simp [handleBody, ht, hr]

theorem handleQuery_permitted {fn : Fn} {hdr : Hdr} {s : State} {r : HandleRec} (hh : Heard s fn hdr)
    (ht : targetError s (if fn.val = 0 then none else some (fn.val - 1)) hdr.target.toNat = none) (hr : getHandle s hdr.target.toNat = some r) :
    exec (.handleQuery fn hdr) s = answered fn 0x0003 hdr (w64 (hstateCode r.state ||| r.status <<< 16)) [] s := by
  have hb := message_heard (op := 0x0003) (body := handleBody fn hdr) hh (by decide)
  rwa [handleBody_permitted ht hr] at hb

theorem ringOk_of {base entries writeback k t : Nat} (he : ∃ i : Fin 11, entries = 64 * 2 ^ i.val) (hb : base % 4096 = 0)
    (hw : writeback % 8 = 0) (hk : 1 ≤ k) (hk' : k ≤ 64) (ht : t ≤ 1000) : ringOk base entries writeback k t = true := by
  obtain ⟨i, rfl⟩ := he
  have hlisted : ((List.range 11).map fun j => 64 * 2 ^ j).contains (64 * 2 ^ i.val) = true :=
    List.contains_iff_mem.mpr (List.mem_map.mpr ⟨i.val, List.mem_range.mpr i.isLt, rfl⟩)
  simp only [ringOk, hlisted, hb, hw, hk, hk', ht, BEq.rfl, decide_true, Bool.and_self]

theorem ringBody_allowed {f : Nat} {base entries writeback k t : W64} {s : State}
    (hok : ringOk base.toNat entries.toNat writeback.toNat k.toNat t.toNat = true)
    (hidle : (fnOf s f).ring = none ∨ (openHandles s (fun r => r.fn == f) = [] ∧ (fnOf s f).overflow = [])) :
    ringBody f base entries writeback k t s = .ok {
      st := setFn f { fnOf s f with ring := some ⟨base.toNat, entries.toNat, writeback.toNat, k.toNat, t.toNat⟩,
                                    head := 0, tail := 0, phase := true, waiting := [] } s
      after := drain f } := by
  have hfree : ((fnOf s f).ring.isNone || ((openHandles s fun r => r.fn == f).isEmpty && (fnOf s f).overflow.isEmpty)) = true := by
    rcases hidle with hn | ⟨ho, hv⟩
    · simp [hn]
    · simp [ho, hv]
  simp only [ringBody, hok, hfree, need_true]

theorem routeBody_vector {v : W64} {s : State} (hv : v.toNat < 64) :
    routeBody v s = .ok { st := { s with host.eventVector := v.toNat } } := by
  simp [routeBody, hv]

theorem routeBody_noVector {v : W64} {s : State} (hv : 64 ≤ v.toNat) : routeBody v s = .error 0x0201 := by
  simp [routeBody, Nat.not_lt.mpr hv]

theorem tickBody_inRange {period : W64} {s : State} (hl : 100 ≤ period.toNat) (hu : period.toNat ≤ 2000) :
    tickBody period s = need (lgSource s.links.group == 0) 0x0205
      (.ok { st := { s with steward.nextPeriod := some period.toNat }, result := s.steward.tick + 1 }) := by
  simp only [tickBody, hl, hu, decide_true, Bool.and_self, need_true]

theorem tickBody_outOfRange {period : W64} {s : State} (hp : period.toNat < 100 ∨ 2000 < period.toNat) : tickBody period s = .error 0x0201 := by
  have hout : (decide (100 ≤ period.toNat) && decide (period.toNat ≤ 2000)) = false := by
    simp only [Bool.and_eq_false_iff, decide_eq_false_iff_not]
    omega
  simp only [tickBody, hout, need_false]

theorem exec_tickSet_heard {hdr : Hdr} {period : W64} {s : State} (hh : HeardPf s hdr) :
    exec (.tickSet 0 hdr period) s = .next (settle 0 0x0020 hdr (tickBody period s) s) :=
  message_heard_pf hh (by decide)

theorem exec_eventRoute_heard {hdr : Hdr} {v : W64} {s : State} (hh : HeardPf s hdr) :
    exec (.eventRoute 0 hdr v) s = .next (settle 0 0x0004 hdr (routeBody v s) s) :=
  message_heard_pf hh (by decide)

/-- Settles O10: each command's body under the statement's conditions. -/
theorem informationAndSettings : Obligations.InformationAndSettings := by
  refine ⟨?info, ?list, ?queryPf, ?queryVf, ?ring, ?route, ?noVector, ?tick, ?tickRange, ?tickGroup⟩
  case info => exact fun fn hdr s ha hr => message_deviceInfo ha hr
  case list => exact fun hdr s hh => message_heard_pf hh (by decide)
  case queryPf => exact fun hdr s r hh hr hg => handleQuery_permitted hh (targetError_pf hr hg) hr
  case queryVf => exact fun vf hdr s r hh hr hp hk hg => handleQuery_permitted hh (targetError_vf hr hp hk hg) hr
  case ring =>
    intro fn hdr base entries writeback k t s hh he hb hw hk hk' ht hidle
    have hm := message_heard (op := 0x0002) (body := ringBody fn base entries writeback k t) hh (by decide)
    rwa [ringBody_allowed (ringOk_of he hb hw hk hk' ht) hidle] at hm
  case route =>
    intro hdr v s hh hv
    rw [exec_eventRoute_heard hh, routeBody_vector hv, settle_ok]
    rfl
  case noVector =>
    intro hdr v s hh hv
    rw [exec_eventRoute_heard hh, routeBody_noVector hv, settle_error]
    rfl
  case tick =>
    intro hdr period s hh hl hu hg
    rw [exec_tickSet_heard hh, tickBody_inRange hl hu, hg]
    rfl
  case tickRange =>
    intro hdr period s hh hp
    rw [exec_tickSet_heard hh, tickBody_outOfRange hp]
    rfl
  case tickGroup =>
    intro hdr period s hh hl hu hg
    rw [exec_tickSet_heard hh, tickBody_inRange hl hu, beq_eq_false_iff_ne.mpr hg]
    rfl

/-! ## The framing of messages and the reply -/

/-- Every message goes through the shared framing with a body of its own. -/
theorem exec_eq_message {c : Instr} {fn : Fn} {hdr : Hdr} {op : Nat} {pf : Bool} {s : State} (h : messageOf c = some (fn, hdr, op, pf)) :
    ∃ body, exec c s = message fn hdr op pf body s := by
  cases c <;> cases h <;> exact ⟨_, rfl⟩

theorem message_absent {fn : Fn} {hdr : Hdr} {op : Nat} {pf : Bool} {body : Body} {s : State} (h : fnExists s fn = false) :
    message fn hdr op pf body s = .next s := by
  simp [message, h]

theorem message_badVector {fn : Fn} {hdr : Hdr} {op : Nat} {pf : Bool} {body : Body} {s : State} (hr : Running s) (ho : op ≠ 0x0710)
    (hf : fnExists s fn = true) (hc : cvecOk fn hdr = false) : message fn hdr op pf body s = refusedWith fn op hdr 0x0201 s := by
  simp [message, answers_of_running hr, modeRefuses_of_running hr ho, hf, hc, refusedWith]

theorem message_pfOnly {fn : Fn} {hdr : Hdr} {op : Nat} {body : Body} {s : State} (hh : Heard s fn hdr) (ho : op ≠ 0x0710) (hf : fn ≠ 0) :
    message fn hdr op true body s = refusedWith fn op hdr 0x0205 s := by
  obtain ⟨hr, he, hc⟩ := hh
  simp [message, answers_of_running hr, modeRefuses_of_running hr ho, he, hc, hf, refusedWith]

/-- The words of a reply's header (Table 9 of ch. 02) as one number. -/
def replyHead (op : Nat) (hdr : Hdr) (status : Nat) (result : W64) (handle length : Nat) : Nat :=
  op ||| (32 + length) <<< 16 ||| hdr.tag.toNat <<< 32 ||| status <<< 48 ||| handle <<< 64 ||| result.toNat <<< 128 ||| hdr.cookie.toNat <<< 192

/-- R77: a reply changes its window, its function's mailbox and what leaves the block. -/
theorem reply_eq {f op status handle : Nat} {hdr : Hdr} {result : W64} {data : List Byte} {s : State} :
    reply f op hdr status result handle data s =
      { s with mem := (s.write (.window f) 0 (leBytes 32 (replyHead op hdr status result handle data.length) ++ data)).mem
               host.fns := tset s.host.fns f { fnOf s f with lastTag := hdr.tag, replyReady := true, busy := false }
               outbox := s.outbox ++ if hdr.replyIrq then [.msix f 0] else [] } := by
  cases hi : hdr.replyIrq
  · simp only [reply, hi, Bool.false_eq_true, if_false, List.append_nil]; rfl
  · simp only [reply, hi, if_true]; rfl

theorem or_shiftLeft_eq_add {a b i : Nat} (h : a < 2 ^ i) : a ||| b <<< i = a + 2 ^ i * b := by
  rw [Nat.or_comm, ← Nat.shiftLeft_add_eq_or_of_lt h, Nat.shiftLeft_eq, Nat.mul_comm, Nat.add_comm]

theorem replyHead_eq {op status handle length : Nat} {hdr : Hdr} {result : W64} (hop : op < 2 ^ 16) (hst : status < 2 ^ 16)
    (hh : handle < 2 ^ 64) (hl : length ≤ 4064) :
    replyHead op hdr status result handle length = op + 2 ^ 16 * (32 + length) + 2 ^ 32 * hdr.tag.toNat + 2 ^ 48 * status + 2 ^ 64 * handle +
      2 ^ 128 * result.toNat + 2 ^ 192 * hdr.cookie.toNat := by
  have htag := hdr.tag.isLt
  have hres := result.isLt
  rw [replyHead, or_shiftLeft_eq_add (i := 16) hop, or_shiftLeft_eq_add (i := 32) (by omega), or_shiftLeft_eq_add (i := 48) (by omega),
    or_shiftLeft_eq_add (i := 64) (by omega), or_shiftLeft_eq_add (i := 128) (by omega), or_shiftLeft_eq_add (i := 192) (by omega)]

theorem leBytes_length (k v : Nat) : (leBytes k v).length = k := by
  induction k generalizing v with
  | zero => rfl
  | succ k ih => rw [leBytes, List.length_cons, ih]

theorem leNat_leBytes (k v : Nat) : leNat (leBytes k v) = v % 256 ^ k := by
  induction k generalizing v with
  | zero => simp [leBytes, leNat, Nat.mod_one]
  | succ k ih =>
    have hbyte : (BitVec.ofNat 8 v).toNat = v % 256 := BitVec.toNat_ofNat ..
    have hshift : v >>> 8 = v / 256 := Nat.shiftRight_eq_div_pow v 8
    have hpow : 256 ^ (k + 1) = 256 * 256 ^ k := Nat.pow_succ'
    rw [leBytes, leNat, ih, hbyte, hshift, hpow, Nat.mod_mul]

/-- A part of what was just written reads back. -/
theorem read_write_part {s : State} {sp : Space} {a : Nat} {pre part post : List Byte} (h : MemOk s) (hs : sp ≠ .unified) :
    (s.write sp a (pre ++ part ++ post)).read sp (a + pre.length) part.length = part := by
  refine List.ext_getElem (by simp [State.read]) fun i hi hi' => ?_
  have hin : pre.length + i < (pre ++ part ++ post).length := by simp only [List.length_append]; omega
  have hb := State.byte_write_same (a := a) h hs hin
  simp only [State.read, List.getElem_map, List.getElem_range, Nat.add_assoc, hb]
  rw [List.getElem_append_left (by simp only [List.length_append]; omega), List.getElem_append_right (by omega)]
  simp

theorem read_reply {f op status handle a n : Nat} {hdr : Hdr} {result : W64} {data : List Byte} {s : State} :
    (reply f op hdr status result handle data s).read (.window f) a n =
      (s.write (.window f) 0 (leBytes 32 (replyHead op hdr status result handle data.length) ++ data)).read (.window f) a n := by
  rw [reply_eq]; rfl

/-- The three rules of a message's framing, for every command of the table. -/
theorem message_framing {c : Instr} {fn : Fn} {hdr : Hdr} {op : Nat} {pf : Bool} {s : State} (hm : messageOf c = some (fn, hdr, op, pf)) :
    (fnExists s fn = false → exec c s = .next s) ∧
    (Running s → op ≠ 0x0710 → fnExists s fn = true → cvecOk fn hdr = false → exec c s = refusedWith fn op hdr 0x0201 s) ∧
    (Heard s fn hdr → op ≠ 0x0710 → pf = true → fn ≠ 0 → exec c s = refusedWith fn op hdr 0x0205 s) := by
  obtain ⟨body, he⟩ := exec_eq_message (s := s) hm
  rw [he]
  refine ⟨message_absent, message_badVector, ?pfOnly⟩
  case pfOnly =>
    rintro hh ho rfl hf
    exact message_pfOnly hh ho hf

/-- In a memory of canonical form a reply's header and its data read back from the window. -/
theorem reply_reads_back {f op status handle : Nat} {hdr : Hdr} {result : W64} {data : List Byte} {s : State} (hm : MemOk s) (hop : op < 2 ^ 16)
    (hst : status < 2 ^ 16) (hh : handle < 2 ^ 64) (hl : data.length ≤ 4064) :
    (reply f op hdr status result handle data s).readNat (.window f) 0 32 =
      op + 2 ^ 16 * (32 + data.length) + 2 ^ 32 * hdr.tag.toNat + 2 ^ 48 * status + 2 ^ 64 * handle + 2 ^ 128 * result.toNat +
        2 ^ 192 * hdr.cookie.toNat ∧
    (reply f op hdr status result handle data s).read (.window f) 32 data.length = data := by
  have hcookie := hdr.cookie.isLt
  have htag := hdr.tag.isLt
  have hres := result.isLt
  have hspace : Space.window f ≠ .unified := nofun
  have hwords := read_write_part (a := 0) (pre := []) (part := leBytes 32 (replyHead op hdr status result handle data.length))
    (post := data) hm hspace
  have hdata := read_write_part (a := 0) (pre := leBytes 32 (replyHead op hdr status result handle data.length)) (part := data)
    (post := []) hm hspace
  rw [leBytes_length] at hwords hdata
  rw [List.append_nil] at hdata
  constructor
  · rw [State.readNat, read_reply]
    refine (congrArg leNat hwords).trans ?_
    rw [leNat_leBytes, replyHead_eq hop hst hh hl, Nat.mod_eq_of_lt (by omega)]
  · rw [read_reply]
    exact hdata

/-- R77: a reply ends BUSY, sets REPLY_READY and changes nothing else but its window and what leaves the block. -/
theorem reply_frame {f op status handle : Nat} {hdr : Hdr} {result : W64} {data : List Byte} {s t : State}
    (ht : reply f op hdr status result handle data s = t) :
    (fnOf t f).busy = false ∧ (fnOf t f).replyReady = true ∧ (fnOf t f).lastTag = hdr.tag ∧ (fnOf t f).ring = (fnOf s f).ring ∧
    (fnOf t f).slots = (fnOf s f).slots ∧ (fnOf t f).overflow = (fnOf s f).overflow ∧ (∀ g : Nat, g ≠ f → fnOf t g = fnOf s g) ∧
    (∀ a : Nat, a < (Space.window f).base ∨ (Space.window f).base + 32 + data.length ≤ a → memRead t.mem a = memRead s.mem a) ∧
    t.outbox = s.outbox ++ (if hdr.replyIrq then [.msix f 0] else []) ∧
    t.steward = s.steward ∧ t.tiers = s.tiers ∧ t.parts = s.parts ∧ t.prefixes = s.prefixes ∧ t.cores = s.cores ∧ t.links = s.links ∧
    t.pairs = s.pairs ∧ t.collector = s.collector ∧ t.trust = s.trust ∧ t.board = s.board ∧ t.free = s.free ∧ t.pending = s.pending := by
  rw [reply_eq] at ht
  have hf : fnOf t f = { fnOf s f with lastTag := hdr.tag, replyReady := true, busy := false } := by
    subst ht; exact tget_tset_same
  have hg : ∀ g : Nat, g ≠ f → fnOf t g = fnOf s g := by
    subst ht; exact fun g hg => tget_tset_other hg
  have hmem : ∀ a : Nat, a < (Space.window f).base ∨ (Space.window f).base + 32 + data.length ≤ a → memRead t.mem a = memRead s.mem a := by
    subst ht
    refine fun a ha => State.memRead_write_other fun i hi => ?_
    rw [List.length_append, leBytes_length] at hi
    rw [State.place_eq (sp := .window f) nofun]
    omega
  rw [hf]
  refine ⟨rfl, rfl, rfl, rfl, rfl, rfl, hg, hmem, ?_⟩
  subst ht
  exact ⟨rfl, rfl, rfl, rfl, rfl, rfl, rfl, rfl, rfl, rfl, rfl, rfl, rfl⟩

/-- A memory out of canonical form: the byte 9 at offset 1 of the PF's window is listed behind that at offset 2. -/
def unsortedWindow : State :=
  { State.reset with mem := [((Space.window 0).base + 2, 1), ((Space.window 0).base + 1, 9)] }

/-- There the 0 of a reply's byte 1 does not replace the 9, so that opcode 0x0001 reads as 0x0901. -/
theorem reply_unsortedWindow :
    (reply 0 0x0001 {} 0 0 0 [] unsortedWindow).readNat (.window 0) 0 32 = 0x0901 + 2 ^ 16 * 32 := by
  decide +kernel

/-- Refutes O56: its clause on the reply's words asks for no canonical memory, and in `unsortedWindow` the header of
DEVICE_INFO's reply does not read back. The rest of O56 holds: `message_framing` and `reply_frame`, and that clause too
where the memory is canonical (`reply_reads_back`), as it is at reset (O4) and as every step is to keep it (O5). -/
theorem not_refusalsAndReplies : ¬ Obligations.RefusalsAndReplies := by
  rintro ⟨-, hwords, -⟩
  obtain ⟨hhead, -⟩ := hwords 0 0x0001 0 0 {} 0 [] unsortedWindow (by decide) (by decide) (by decide) (by decide)
  rw [reply_unsortedWindow] at hhead
  exact absurd hhead (by decide)

end Sys2Proof.Architecture

/-!
PROOFS. Number formats (R108 to R110, R116, Tables 2 and 3 of ch. 03): what the codes of each floating-point format read
as, by their fields, and why a finite value of a format narrows to its own code. The last rests on one fact: a value of a
floating grid lies on that grid, so `floorCode` finds its code and discards nothing.
-/
namespace Sys2Proof.Architecture
open Sys2Proof Sys2Proof.Machine Sys2Proof.Safety

/-! ## Finite values and the sign of a code -/

@[simp] theorem isFin_fin (neg : Bool) (m : Nat) (e : Int) : (Val.fin neg m e).isFin = true := rfl
@[simp] theorem isFin_inf (neg : Bool) : (Val.inf neg).isFin = false := rfl
@[simp] theorem isFin_nan : Val.nan.isFin = false := rfl
@[simp] theorem isNan_fin (neg : Bool) (m : Nat) (e : Int) : (Val.fin neg m e).isNan = false := rfl
@[simp] theorem isNan_inf (neg : Bool) : (Val.inf neg).isNan = false := rfl
@[simp] theorem isNan_nan : Val.nan.isNan = true := rfl

/-- The significand of a magnitude code on a grid with w mantissa bits: the mantissa field, and the hidden bit above it
where the exponent field is not zero. -/
def significand (w c : Nat) : Nat := if c / 2 ^ w = 0 then c % 2 ^ w else 2 ^ w + c % 2 ^ w

/-- The power of two that the significand counts. -/
def ulpExponent (w b c : Nat) : Int := if c / 2 ^ w = 0 then 1 - (b : Int) - w else ((c / 2 ^ w : Nat) : Int) - b - w

theorem floatVal_eq (w b : Nat) (neg : Bool) (c : Nat) :
    floatVal w b neg c = .fin neg (significand w c) (ulpExponent w b c) := by
  simp only [floatVal, significand, ulpExponent]
  split <;> rfl

/-- R108: the value by the exponent field e and the mantissa field m. -/
theorem floatVal_fields {w m : Nat} (b : Nat) (neg : Bool) (e : Nat) (hm : m < 2 ^ w) :
    floatVal w b neg (e * 2 ^ w + m) =
      if e = 0 then .fin neg m (1 - (b : Int) - w) else .fin neg (2 ^ w + m) ((e : Int) - b - w) := by
  have ⟨hdiv, hmod⟩ : (e * 2 ^ w + m) / 2 ^ w = e ∧ (e * 2 ^ w + m) % 2 ^ w = m :=
    (Nat.div_mod_unique (Nat.two_pow_pos w)).mpr ⟨by rw [Nat.mul_comm, Nat.add_comm], hm⟩
  simp only [floatVal, hdiv, hmod]

/-- The sign bit of a code of format f (Table 2); its other bits are `magnitude`. -/
def signBit (f code : Nat) : Bool := code.testBit (fmtBits f - 1)

/-- A code of format f without its sign bit. -/
def magnitude (f code : Nat) : Nat := code % 2 ^ (fmtBits f - 1)

theorem signBit_eq_div {f code : Nat} (h : code / 2 ^ (fmtBits f - 1) < 2) :
    signBit f code = (code / 2 ^ (fmtBits f - 1) == 1) := by
  rw [signBit, Nat.testBit_eq_decide_div_mod_eq, Nat.mod_eq_of_lt h]
  rfl

theorem b2n_beq_one {n : Nat} (h : n < 2) : b2n (n == 1) = n := by
  obtain rfl | rfl : n = 0 ∨ n = 1 := by omega
  · rfl
  · rfl

theorem fmtBits_pos (f : Nat) : 0 < fmtBits f := by
  unfold fmtBits
  split <;> decide

theorem div_signPlace_lt_two {f code : Nat} (hc : code < 2 ^ fmtBits f) : code / 2 ^ (fmtBits f - 1) < 2 := by
  have hpow : 2 ^ fmtBits f = 2 ^ (fmtBits f - 1) * 2 := by
    rw [← Nat.pow_succ, Nat.succ_eq_add_one, Nat.sub_add_cancel (fmtBits_pos f)]
  exact Nat.div_lt_of_lt_mul (hpow ▸ hc)

/-- Sign and magnitude together are the code. -/
theorem signCode_split {f code : Nat} (hc : code < 2 ^ fmtBits f) : signCode f (signBit f code) (magnitude f code) = code := by
  have hsign := div_signPlace_lt_two hc
  rw [signCode, signBit_eq_div hsign, b2n_beq_one hsign, Nat.mul_comm]
  exact Nat.mod_add_div code _

theorem signBit_of_fields {f code sign x : Nat} (hs : sign < 2) (hc : code = sign * 2 ^ (fmtBits f - 1) + x)
    (hx : code % 2 ^ (fmtBits f - 1) = x) : signBit f code = (sign == 1) := by
  have hlt : x < 2 ^ (fmtBits f - 1) := hx ▸ Nat.mod_lt _ (Nat.two_pow_pos _)
  have hdiv : code / 2 ^ (fmtBits f - 1) = sign :=
    ((Nat.div_mod_unique (Nat.two_pow_pos _)).mpr ⟨by rw [hc, Nat.mul_comm, Nat.add_comm], hlt⟩).1
  rw [signBit_eq_div (hdiv ▸ hs), hdiv]

/-! ## What a code reads as

Table 3 has three kinds of floating-point formats. The rows give format, mantissa bits, bias and largest finite magnitude. -/

/-- FP32, BF16, E5M2 with and without a block scale, and M48: above the largest finite magnitude stand infinity, then NaN. -/
def ieeeFormats : List (Nat × Nat × Nat × Nat) :=
  [(0x00, 23, 127, 255 * 2 ^ 23 - 1), (0x01, 7, 127, 255 * 2 ^ 7 - 1), (0x03, 2, 15, 31 * 2 ^ 2 - 1),
    (0x05, 2, 15, 31 * 2 ^ 2 - 1), (0x0C, 39, 127, 255 * 2 ^ 39 - 1)]

/-- E4M3 with and without a block scale: above the largest finite magnitude stands one NaN. -/
def e4m3Formats : List (Nat × Nat × Nat × Nat) := [(0x02, 3, 7, 126), (0x04, 3, 7, 126)]

/-- E2M3, E3M2 and E2M1: every magnitude is finite. -/
def finiteFormats : List (Nat × Nat × Nat × Nat) := [(0x06, 3, 1, 31), (0x07, 2, 3, 31), (0x08, 1, 1, 7), (0x0A, 1, 1, 7)]

def floatFormats : List (Nat × Nat × Nat × Nat) := ieeeFormats ++ e4m3Formats ++ finiteFormats

theorem gridOf_floatFormats {f w b mx : Nat} (h : (f, w, b, mx) ∈ floatFormats) (neg : Bool) : gridOf f neg = .float w b mx :=
  (by decide : ∀ x ∈ floatFormats, ∀ neg, gridOf x.1 neg = .float x.2.1 x.2.2.1 x.2.2.2) _ h neg

/-- The reading of a format with infinities. -/
def ieeeVal (w b mx : Nat) (neg : Bool) (c : Nat) : Val :=
  if c < mx + 1 then floatVal w b neg c else if c = mx + 1 then .inf neg else .nan

theorem codeVal_ieee {f w b mx : Nat} (h : (f, w, b, mx) ∈ ieeeFormats) (code : Nat) :
    codeVal f code = ieeeVal w b mx (signBit f code) (magnitude f code) := by
  simp only [ieeeFormats, List.mem_cons, Prod.mk.injEq, List.not_mem_nil, or_false] at h
  rcases h with ⟨rfl, rfl, rfl, rfl⟩ | ⟨rfl, rfl, rfl, rfl⟩ | ⟨rfl, rfl, rfl, rfl⟩ | ⟨rfl, rfl, rfl, rfl⟩ | ⟨rfl, rfl, rfl, rfl⟩ <;> rfl

theorem codeVal_e4m3 {f w b mx : Nat} (h : (f, w, b, mx) ∈ e4m3Formats) (code : Nat) :
    codeVal f code = if magnitude f code = mx + 1 then .nan else floatVal w b (signBit f code) (magnitude f code) := by
  simp only [e4m3Formats, List.mem_cons, Prod.mk.injEq, List.not_mem_nil, or_false] at h
  rcases h with ⟨rfl, rfl, rfl, rfl⟩ | ⟨rfl, rfl, rfl, rfl⟩ <;> rfl

theorem codeVal_finite {f w b mx : Nat} (h : (f, w, b, mx) ∈ finiteFormats) (code : Nat) :
    codeVal f code = floatVal w b (signBit f code) (magnitude f code) := by
  simp only [finiteFormats, List.mem_cons, Prod.mk.injEq, List.not_mem_nil, or_false] at h
  rcases h with ⟨rfl, rfl, rfl, rfl⟩ | ⟨rfl, rfl, rfl, rfl⟩ | ⟨rfl, rfl, rfl, rfl⟩ | ⟨rfl, rfl, rfl, rfl⟩ <;> rfl

section IeeeVal
variable {w b mx c : Nat} {neg : Bool}

theorem ieeeVal_of_le (h : c ≤ mx) : ieeeVal w b mx neg c = floatVal w b neg c := if_pos (Nat.lt_succ_of_le h)

@[simp] theorem ieeeVal_inf : ieeeVal w b mx neg (mx + 1) = .inf neg := by simp [ieeeVal]

theorem ieeeVal_of_gt (h : mx + 1 < c) : ieeeVal w b mx neg c = .nan := by
  rw [ieeeVal, if_neg (by omega), if_neg (by omega)]

theorem ieeeVal_isFin : (ieeeVal w b mx neg c).isFin = true ↔ c ≤ mx := by
  rcases Nat.lt_trichotomy c (mx + 1) with h | rfl | h
  · simp [ieeeVal_of_le (Nat.le_of_lt_succ h), floatVal_eq, Nat.le_of_lt_succ h]
  · simp
  · simp [ieeeVal_of_gt h]
    omega

theorem ieeeVal_isNan : (ieeeVal w b mx neg c).isNan = true ↔ mx + 1 < c := by
  rcases Nat.lt_trichotomy c (mx + 1) with h | rfl | h
  · simp [ieeeVal_of_le (Nat.le_of_lt_succ h), floatVal_eq]
    omega
  · simp
  · simp [ieeeVal_of_gt h, h]

end IeeeVal

theorem magnitude_lt (f code : Nat) : magnitude f code < 2 ^ (fmtBits f - 1) := Nat.mod_lt _ (Nat.two_pow_pos _)

theorem magnitude_e4m3 {f w b mx : Nat} (h : (f, w, b, mx) ∈ e4m3Formats) (code : Nat) : magnitude f code ≤ mx + 1 :=
  Nat.le_of_lt_succ (Nat.lt_of_lt_of_le (magnitude_lt f code)
    ((by decide : ∀ x ∈ e4m3Formats, 2 ^ (fmtBits x.1 - 1) ≤ x.2.2.2 + 1 + 1) _ h))

theorem magnitude_finite {f w b mx : Nat} (h : (f, w, b, mx) ∈ finiteFormats) (code : Nat) : magnitude f code ≤ mx :=
  Nat.le_of_lt_succ (Nat.lt_of_lt_of_le (magnitude_lt f code)
    ((by decide : ∀ x ∈ finiteFormats, 2 ^ (fmtBits x.1 - 1) ≤ x.2.2.2 + 1) _ h))

theorem isFin_e4m3 {f w b mx : Nat} (h : (f, w, b, mx) ∈ e4m3Formats) (code : Nat) :
    (codeVal f code).isFin = true ↔ magnitude f code ≠ mx + 1 := by
  rw [codeVal_e4m3 h]
  split <;> simp [floatVal_eq, *]

/-- A code that reads as a finite value has a magnitude of the format's grid, and reads as the value there. -/
theorem codeVal_of_isFin {f w b mx code : Nat} (h : (f, w, b, mx) ∈ floatFormats) (hfin : (codeVal f code).isFin = true) :
    magnitude f code ≤ mx ∧ codeVal f code = floatVal w b (signBit f code) (magnitude f code) := by
  rcases List.mem_append.mp h with h | hfinite
  · rcases List.mem_append.mp h with hieee | he4m3
    · rw [codeVal_ieee hieee] at hfin ⊢
      have hle := ieeeVal_isFin.mp hfin
      exact ⟨hle, ieeeVal_of_le hle⟩
    · have hne := (isFin_e4m3 he4m3 code).mp hfin
      exact ⟨Nat.le_of_lt_succ (Nat.lt_of_le_of_ne (magnitude_e4m3 he4m3 code) hne), by rw [codeVal_e4m3 he4m3, if_neg hne]⟩
  · exact ⟨magnitude_finite hfinite code, codeVal_finite hfinite code⟩

/-! ## A value of a floating grid lies on its code -/

theorem fracOf_eq (m : Nat) (e : Int) : fracOf m e = (m * 2 ^ e.toNat, 2 ^ (-e).toNat) := by
  unfold fracOf
  split
  · rw [show (-e).toNat = 0 by omega, Nat.pow_zero]
  · rw [show e.toNat = 0 by omega, Nat.pow_zero, Nat.mul_one]

theorem log2_mul_two_pow {m : Nat} (hm : m ≠ 0) (k : Nat) : Nat.log2 (m * 2 ^ k) = Nat.log2 m + k := by
  refine (Nat.log2_eq_iff (Nat.mul_ne_zero hm (Nat.ne_of_gt (Nat.two_pow_pos k)))).mpr ⟨?_, ?_⟩
  · rw [Nat.pow_add]
    exact Nat.mul_le_mul_right _ (Nat.log2_self_le hm)
  · rw [Nat.add_right_comm, Nat.pow_add]
    exact Nat.mul_lt_mul_of_pos_right Nat.lt_log2_self (Nat.two_pow_pos k)

theorem log2Frac_fracOf {m : Nat} (hm : m ≠ 0) (e : Int) :
    log2Frac (fracOf m e).1 (fracOf m e).2 = (Nat.log2 m : Int) + e := by
  have hk : ((Nat.log2 (m * 2 ^ e.toNat) : Nat) : Int) - (Nat.log2 (2 ^ (-e).toNat) : Nat) = (Nat.log2 m : Int) + e := by
    rw [log2_mul_two_pow hm, Nat.log2_two_pow]
    omega
  have hle : 2 ^ ((Nat.log2 m : Int) + e).toNat * 2 ^ (-e).toNat ≤ m * 2 ^ e.toNat * 2 ^ (-((Nat.log2 m : Int) + e)).toNat :=
    calc 2 ^ ((Nat.log2 m : Int) + e).toNat * 2 ^ (-e).toNat
        = 2 ^ Nat.log2 m * 2 ^ e.toNat * 2 ^ (-((Nat.log2 m : Int) + e)).toNat := by
          simp only [← Nat.pow_add]
          congr 1
          omega
      _ ≤ _ := Nat.mul_le_mul_right _ (Nat.mul_le_mul_right _ (Nat.log2_self_le hm))
  simp only [log2Frac, pow2Frac, fracOf_eq, hk, Nat.one_mul, if_neg (Nat.not_lt.mpr hle)]

/-- A magnitude whose spacing is its own power of two is a whole number of spacings. -/
theorem floorCode_fracOf {w b mx m : Nat} {e : Int} (hm : m ≠ 0) (he : max ((Nat.log2 m : Int) + e) (1 - (b : Int)) = e + w) :
    floorCode (.float w b mx) (fracOf m e).1 (fracOf m e).2 =
      ((e + w + b - 1).toNat * 2 ^ w + m, 0, 2 ^ (-e).toNat * 2 ^ e.toNat) := by
  have hn : (fracOf m e).1 ≠ 0 := by
    rw [fracOf_eq]
    exact Nat.mul_ne_zero hm (Nat.ne_of_gt (Nat.two_pow_pos _))
  have hx : m * 2 ^ e.toNat * 2 ^ (-e).toNat = m * (2 ^ (-e).toNat * 2 ^ e.toNat) := by
    rw [Nat.mul_assoc, Nat.mul_comm (2 ^ e.toNat)]
  have hy : 0 < 2 ^ (-e).toNat * 2 ^ e.toNat := Nat.mul_pos (Nat.two_pow_pos _) (Nat.two_pow_pos _)
  simp only [floorCode, if_neg hn, log2Frac_fracOf hm, he, Int.add_sub_cancel]
  simp only [pow2Frac, fracOf_eq, Nat.one_mul, hx, Nat.mul_div_cancel _ hy, Nat.mul_mod_left]

/-- A fraction is the value of the magnitude code c: rounding down finds c and discards nothing. -/
def LiesOn (g : Grid) (q : Nat × Nat) (c : Nat) : Prop := ∃ y, 0 < y ∧ floorCode g q.1 q.2 = (c, 0, y)

theorem liesOn_of_exponent {w b mx m c : Nat} {e : Int} (hm : m ≠ 0)
    (he : max ((Nat.log2 m : Int) + e) (1 - (b : Int)) = e + w) (hc : (e + w + b - 1).toNat * 2 ^ w + m = c) :
    LiesOn (.float w b mx) (fracOf m e) c :=
  ⟨_, Nat.mul_pos (Nat.two_pow_pos _) (Nat.two_pow_pos _), by rw [floorCode_fracOf hm he, hc]⟩

theorem liesOn_zero (w b mx : Nat) (e : Int) : LiesOn (.float w b mx) (fracOf 0 e) 0 :=
  ⟨1, Nat.one_pos, by simp [floorCode, fracOf_eq]⟩

theorem liesOn_subnormal {w b mx c : Nat} (hc : c < 2 ^ w) :
    LiesOn (.float w b mx) (fracOf c (1 - (b : Int) - w)) c := by
  rcases Nat.eq_zero_or_pos c with rfl | hpos
  · exact liesOn_zero w b mx _
  · have hne : c ≠ 0 := Nat.ne_of_gt hpos
    have hlog : Nat.log2 c < w := (Nat.log2_lt hne).mpr hc
    refine liesOn_of_exponent hne (by omega) ?_
    rw [show ((1 : Int) - b - w + w + b - 1).toNat = 0 by omega, Nat.zero_mul, Nat.zero_add]

theorem liesOn_normal {w b mx e m : Nat} (he : 1 ≤ e) (hm : m < 2 ^ w) :
    LiesOn (.float w b mx) (fracOf (2 ^ w + m) ((e : Int) - b - w)) (e * 2 ^ w + m) := by
  have hne : 2 ^ w + m ≠ 0 := by omega
  have hlog : Nat.log2 (2 ^ w + m) = w := (Nat.log2_eq_iff hne).mpr ⟨by omega, by rw [Nat.pow_succ]; omega⟩
  obtain ⟨k, rfl⟩ := Nat.exists_eq_add_of_le' he
  refine liesOn_of_exponent hne (by omega) ?_
  rw [show (((k + 1 : Nat) : Int) - b - w + w + b - 1).toNat = k by omega, Nat.succ_mul, Nat.add_assoc]

/-- R110: every value of a floating grid, subnormal or not, lies on its code. -/
theorem liesOn_floatVal (w b mx c : Nat) :
    LiesOn (.float w b mx) (fracOf (significand w c) (ulpExponent w b c)) c := by
  have hmod : c % 2 ^ w < 2 ^ w := Nat.mod_lt _ (Nat.two_pow_pos w)
  have hsplit : c / 2 ^ w * 2 ^ w + c % 2 ^ w = c := Nat.div_add_mod' c (2 ^ w)
  unfold significand ulpExponent
  split
  next hz =>
    rw [hz, Nat.zero_mul, Nat.zero_add] at hsplit
    rw [hsplit] at hmod ⊢
    exact liesOn_subnormal hmod
  next hz => simpa only [hsplit] using liesOn_normal (mx := mx) (b := b) (Nat.one_le_iff_ne_zero.mpr hz) hmod

/-! ## Writing a value that lies on its code -/

section LiesOn
variable {g : Grid} {q : Nat × Nat} {c : Nat}

theorem roundCode_of_liesOn (h : LiesOn g q c) (rd : Round) (r : Nat) : roundCode g rd r q.1 q.2 = c := by
  obtain ⟨y, hy, hq⟩ := h
  cases rd <;> simp [roundCode, hq, Nat.ne_of_lt hy]

theorem overflows_of_liesOn (h : LiesOn g q c) (hc : c ≤ gridMax g) (rd : Round) : overflows g rd q.1 q.2 = false := by
  obtain ⟨y, hy, hq⟩ := h
  cases rd <;> simp [overflows, hq, Nat.not_lt.mpr hc, Nat.ne_of_gt hy]

theorem satCode_of_liesOn (h : LiesOn g q c) (hc : c ≤ gridMax g) (rd : Round) (r : Nat) :
    satCode g rd r q.1 q.2 = (c, false) := by
  simp [satCode, overflows_of_liesOn h hc, roundCode_of_liesOn h, hc]

end LiesOn

/-- No value but zero has magnitude code 0, so the code itself never counts an underflow. -/
theorem underflow_significand (w c : Nat) : (c == 0 && significand w c != 0) = false := by
  rcases Decidable.em (c = 0) with rfl | hne
  · simp [significand]
  · simp [hne]

/-- The value of a code that the format's grid has is written back as that code under any rounding, and nothing counts. -/
theorem narrow_floatVal {f w b mx c : Nat} (hg : ∀ neg, gridOf f neg = .float w b mx) (hc : c ≤ mx)
    (cvt r : Nat) (neg : Bool) : narrow f cvt r (floatVal w b neg c) = (signCode f neg c, {}) := by
  have hint : ¬ (f = 0x0D ∨ f = 0x0E) := by
    rintro (rfl | rfl) <;> simpa [gridOf] using hg true
  have hlies := liesOn_floatVal w b mx c
  simp [narrow, floatVal_eq, hint, hg, overflows_of_liesOn hlies hc, satCode_of_liesOn hlies hc,
    underflow_significand, b2n]

/-! ## The statement, clause by clause -/

theorem codeVal_fields {f w b mx code sign e m : Nat} (h : (f, w, b, mx) ∈ floatFormats) (hm : m < 2 ^ w) (hs : sign < 2)
    (hc : code = sign * 2 ^ (fmtBits f - 1) + e * 2 ^ w + m) (hmag : code % 2 ^ (fmtBits f - 1) = e * 2 ^ w + m)
    (hfin : (codeVal f code).isFin = true) :
    codeVal f code =
      if e = 0 then .fin (sign == 1) m (1 - (b : Int) - w) else .fin (sign == 1) (2 ^ w + m) ((e : Int) - b - w) := by
  obtain ⟨-, hval⟩ := codeVal_of_isFin h hfin
  rw [hval, signBit_of_fields hs (by rw [hc, Nat.add_assoc]) hmag, magnitude, hmag, floatVal_fields b _ e hm]

/-- R110: a finite value of a floating-point format narrows to its own code under any rounding, and nothing counts. -/
theorem narrow_codeVal {f w b mx code : Nat} (h : (f, w, b, mx) ∈ floatFormats) (hc : code < 2 ^ fmtBits f)
    (hfin : (codeVal f code).isFin = true) (cvt r : Nat) : narrow f cvt r (codeVal f code) = (code, {}) := by
  obtain ⟨hle, hval⟩ := codeVal_of_isFin h hfin
  rw [hval, narrow_floatVal (gridOf_floatFormats h) hle, signCode_split hc]

/-- A magnitude with an 8-bit exponent field above w mantissa bits, by its two fields. -/
theorem mod_exponent_mantissa (w code : Nat) : code % 2 ^ (w + 8) = code % 2 ^ w + 2 ^ w * (code / 2 ^ w % 256) := by
  rw [Nat.pow_add, Nat.mod_mul, show (2 : Nat) ^ 8 = 256 from rfl]

/-- Table 3 for FP32, BF16 and M48, whose exponent field has 8 bits. -/
theorem codeVal_exponent8 {f w code : Nat} (h : (f, w, 127, 255 * 2 ^ w - 1) ∈ ieeeFormats) (hbits : fmtBits f = w + 9)
    (hc : code < 2 ^ fmtBits f) :
    ((codeVal f code).isFin = true ↔ code / 2 ^ w % 256 ≠ 255) ∧
    ((codeVal f code).isNan = true ↔ code / 2 ^ w % 256 = 255 ∧ code % 2 ^ w ≠ 0) ∧
    (code / 2 ^ w % 256 = 255 → code % 2 ^ w = 0 → codeVal f code = .inf (code / 2 ^ (fmtBits f - 1) == 1)) := by
  have hmag : magnitude f code = code % 2 ^ w + 2 ^ w * (code / 2 ^ w % 256) := by
    rw [magnitude, hbits, ← mod_exponent_mantissa]
    rfl
  have hm : code % 2 ^ w < 2 ^ w := Nat.mod_lt _ (Nat.two_pow_pos w)
  have htop : 255 * 2 ^ w - 1 + 1 = 255 * 2 ^ w := Nat.sub_add_cancel (by omega)
  rw [← signBit_eq_div (div_signPlace_lt_two hc), codeVal_ieee h, ieeeVal_isFin, ieeeVal_isNan, htop, hmag]
  rcases Decidable.em (code / 2 ^ w % 256 = 255) with he | he
  · rw [he]
    refine ⟨by omega, by omega, fun _ hz => ?_⟩
    rw [hz, Nat.zero_add, Nat.mul_comm (2 ^ w) 255, ← htop, Nat.add_sub_cancel, ieeeVal_inf]
  · have hlow : 2 ^ w * (code / 2 ^ w % 256) ≤ 2 ^ w * 254 := Nat.mul_le_mul_left _ (by omega)
    exact ⟨by omega, by omega, fun h255 => absurd h255 he⟩

theorem codeVal_e4m3_reserved (code : Nat) :
    ((codeVal 0x02 code).isFin = false ↔ code % 128 = 127) ∧ ((codeVal 0x02 code).isNan = true ↔ code % 128 = 127) := by
  rw [codeVal_e4m3 (f := 0x02) (by decide : (0x02, 3, 7, 126) ∈ e4m3Formats), show magnitude 0x02 code = code % 128 from rfl]
  split <;> simp [floatVal_eq, *]

theorem codeVal_e5m2_reserved {code : Nat} (hc : code < 256) :
    ((codeVal 0x03 code).isFin = false ↔ 124 ≤ code % 128) ∧ ((codeVal 0x03 code).isNan = true ↔ 125 ≤ code % 128) ∧
    (code % 128 = 124 → codeVal 0x03 code = .inf (code / 128 == 1)) := by
  rw [codeVal_ieee (by decide : (0x03, 2, 15, 123) ∈ ieeeFormats), show magnitude 0x03 code = code % 128 from rfl,
    signBit_eq_div (div_signPlace_lt_two hc), ← Bool.not_eq_true, ieeeVal_isFin, ieeeVal_isNan]
  refine ⟨by omega, by omega, fun hinf => ?_⟩
  rw [hinf]
  exact ieeeVal_inf

/-- An entry of a list that names rows of a table stands for a row. -/
theorem exists_row {α β : Type} {rows : List α} {g : α → β} {l : List β} {x : β} (hsub : l ⊆ rows.map g) (h : x ∈ l) :
    ∃ y ∈ rows, g y = x :=
  List.mem_map.mp (hsub h)

/-- Settles O60: each row of the statement's lists is a row of `floatFormats`, whose finite values lie on their codes. -/
theorem numberFormats : Obligations.NumberFormats := by
  refine ⟨?fields, ?exponent8, ?eightBits, ?nan, ?finite, ?roundTrip⟩
  case fields =>
    intro f w b code sign e m h
    obtain ⟨⟨f', w', b', mx⟩, hmem, heq⟩ := exists_row (rows := floatFormats) (g := fun x => (x.1, x.2.1, x.2.2.1)) (by decide) h
    cases heq
    exact codeVal_fields hmem
  case exponent8 =>
    intro f w bits code h hc
    simp only [List.mem_cons, Prod.mk.injEq, List.not_mem_nil, or_false] at h
    rcases h with ⟨rfl, rfl, rfl⟩ | ⟨rfl, rfl, rfl⟩ | ⟨rfl, rfl, rfl⟩ <;> exact codeVal_exponent8 (by decide) rfl hc
  case eightBits =>
    intro code hc
    obtain ⟨hfin, hnan⟩ := codeVal_e4m3_reserved code
    exact ⟨hfin, hnan, codeVal_e5m2_reserved hc⟩
  case nan =>
    intro f nan cvt r h
    simp only [List.mem_cons, Prod.mk.injEq, List.not_mem_nil, or_false] at h
    rcases h with ⟨rfl, rfl⟩ | ⟨rfl, rfl⟩ | ⟨rfl, rfl⟩ | ⟨rfl, rfl⟩ | ⟨rfl, rfl⟩ <;> rfl
  case finite =>
    intro f code h
    obtain ⟨⟨f', w, b, mx⟩, hmem, rfl⟩ := exists_row (rows := finiteFormats) (g := Prod.fst) (by decide) h
    rw [codeVal_finite hmem, floatVal_eq, isFin_fin]
  case roundTrip =>
    intro f code cvt r h hc hfin
    obtain ⟨⟨f', w, b, mx⟩, hmem, rfl⟩ := exists_row (rows := floatFormats) (g := Prod.fst) (by decide) h
    exact narrow_codeVal hmem hc hfin cvt r

end Sys2Proof.Architecture

/-!
PROOFS. Codec sessions (R380 to R382, R389, R390, R416, R417): what CODEC_SESSION_OPEN and CODEC_SESSION_CLOSE, CODEC_FEED,
CODEC_RELEASE, CODEC_ENC_FRAME and CODEC_QUERY answer. All but the first go through the session that they name.
-/
namespace Sys2Proof.Architecture
open Sys2Proof Sys2Proof.Machine Sys2Proof.Safety

/-! ## The sessions of a partition after an update of one -/

@[simp] theorem pairOf_modSession (p n i : Nat) (f : Session → Session) (s : State) : pairOf (modSession p n f s) i = pairOf s i := rfl

theorem getSession_modSession_same {p n : Nat} {f : Session → Session} {s : State} :
    getSession (modSession p n f s) p n = (getSession s p n).map f := by
  simp only [getSession, modSession, getPart_modPart_same, Option.bind_map, Option.map_bind]
  exact congrArg _ (funext fun _ => tget?_tupd_same)

theorem getSession_modSession_other {p n m : Nat} {f : Session → Session} {s : State} (h : m ≠ n) :
    getSession (modSession p n f s) p m = getSession s p m := by
  simp only [getSession, modSession, getPart_modPart_same, Option.bind_map]
  exact congrArg _ (funext fun _ => tget?_tupd_other h)

/-! ## The session that a command names -/

theorem getSession_acts {fn : Fn} {hdr : Hdr} {p n : Nat} {x : Partition} {s : State} (ha : Acts s fn hdr p x) :
    getSession s p n = tget? x.sessions n := by
  obtain ⟨-, hx⟩ := ha
  rw [getSession, hx, Option.bind_some]

/-- An index that a table holds is the index of one of its entries. -/
theorem mem_of_tget? {α : Type} {t : Table α} {i : Nat} {v : α} (h : tget? t i = some v) : (i, v) ∈ t := by
  induction t with
  | nil => cases h
  | cons c t ih =>
    obtain ⟨k, w⟩ := c
    rw [tget?] at h
    split at h
    next hk => cases h; cases hk; exact List.mem_cons_self
    next => exact List.mem_cons_of_mem _ (ih h)

/-- R417: a session number that only another partition uses is outside the function's rights. -/
theorem withSession_foreign {α : Type} {p n o : Nat} {y : Partition} {e : Session} {s : State} {k : Session → Except Nat α}
    (hn : getSession s p n = none) (ho : tget? s.parts o = some y) (he : tget? y.sessions n = some e) :
    withSession s p n k = .error 0x0205 := by
  have hsome : (s.parts.any fun q => (tget? q.2.sessions n).isSome) = true :=
    List.any_eq_true.mpr ⟨(o, y), mem_of_tget? ho, by simp [he]⟩
  simp [withSession, hn, hsome]

section OnSession
variable {fn : Fn} {hdr : Hdr} {session : W64} {p : Nat} {x : Partition} {e : Session} {s : State}

/-- A body that names a session of its partition is what its command does with that session. -/
theorem onSession_acts {n : Nat} {k : Nat → Partition → Session → Except Nat Ans} (ha : Acts s fn hdr p x)
    (he : tget? x.sessions n = some e) : (withPart fn hdr s fun p x => withSession s p n (k p x)) = k p x e := by
  rw [withPart_acts ha, withSession, getSession_acts ha, he]

/-! ## Opening and closing -/

/-- R389: a CODEC_SESSION_OPEN that passes its checks is a long command on the session that it enters. -/
theorem openBody_passes {o : CodecOpenOps} {n : Nat} (ha : Acts s fn hdr p x) (hform : openFormOk o = true)
    (hunused : openUnused o = true) (hdescs : ∀ d ∈ openDescs o o.kind.toNat, unifiedOk d.1 = true ∧ d.2 = true)
    (hpermitted : openPermitted s p x o = true)
    (hroom : ∀ i ∈ pairsNamed o.kind.toNat o.pairs, pairRoom (pairOf s i) o.entries.toNat = true)
    (hfree : freeSession s = some n) :
    openBody fn hdr o s = long fn hdr (some p) 4 (.session n) (enterSession p n (nextHandle s p 4) o s) (w64 n) := by
  have hshape : ((openDescs o o.kind.toNat).all fun d => unifiedOk d.1 && d.2) = true := by
    simpa only [List.all_eq_true, Bool.and_eq_true] using hdescs
  have hpairs : ((pairsNamed o.kind.toNat o.pairs).all fun i => pairRoom (pairOf s i) o.entries.toNat) = true :=
    List.all_eq_true.mpr hroom
  rw [openBody, withPart_acts ha]
  simp only [hform, hunused, hshape, hpermitted, hpairs, hfree, Bool.and_self, need_true, have'_some]

theorem exec_codecSessionClose_acts (hh : Heard s fn hdr) (ha : Acts s fn hdr p x) (he : tget? x.sessions session.toNat = some e) :
    exec (.codecSessionClose fn hdr session) s = .next (settle fn 0x0401 hdr (need (!actsOf s p x session.toNat) 0x0205
      (.ok { st := s, after := closeSession p session.toNat (if decide (e.kind < 2) && recordPartial s e then 0x0303 else 0) })) s) :=
  (message_heard hh (by decide)).trans (by rw [codecCloseBody, onSession_acts ha he])

/-! ## CODEC_FEED -/

/-- What CODEC_FEED makes of the session's counts and flags, before the session begins to wait on its pairs. -/
def fedState (p n count : Nat) (s : State) : State :=
  let t := modSession p n (fun e => { e with write := count, abandoned := e.abandoned && count == e.write }) s
  modSession p n (fun e => { e with
    starving := recordPartial t e && e.parsed.isNone && e.pairs.any fun i => (pairOf t i).running == some (p, n) }) t

theorem exec_codecFeed_acts {count : W64} (hh : Heard s fn hdr) (ha : Acts s fn hdr p x) (he : tget? x.sessions session.toNat = some e) :
    exec (.codecFeed fn hdr session count) s = .next (settle fn 0x0402 hdr
      (need (decide (e.kind < 2) && decide (e.write ≤ count.toNat) && decide (count.toNat ≤ e.consumed + e.ringSize)) 0x0201
        (.ok { st := startWait p session.toNat (fedState p session.toNat count.toNat s), result := w64 e.consumed })) s) :=
  (message_heard hh (by decide)).trans (by rw [feedBody, onSession_acts ha he]; rfl)

theorem getSession_fedState_other {n m count : Nat} (h : m ≠ n) : getSession (fedState p n count s) p m = getSession s p m := by
  rw [fedState, getSession_modSession_other h, getSession_modSession_other h]

/-- R382, R383: where no pair runs the session and no unit starves or is abandoned, a feed only moves the write count. -/
theorem getSession_fedState_idle {n count : Nat} (hg : getSession s p n = some e) (hstarving : e.starving = false)
    (habandoned : e.abandoned = false) (hidle : ∀ i ∈ e.pairs, (pairOf s i).running ≠ some (p, n)) :
    getSession (fedState p n count s) p n = some { e with write := count } := by
  have hany : (e.pairs.any fun i => (pairOf s i).running == some (p, n)) = false :=
    List.any_eq_false.mpr fun i hi => by simpa using hidle i hi
  simp only [fedState, getSession_modSession_same, hg, Option.map_some, pairOf_modSession, hany, hstarving, habandoned,
    Bool.and_false, Bool.false_and]

theorem codecFeed_idle {count : W64} (hh : Heard s fn hdr) (ha : Acts s fn hdr p x) (he : tget? x.sessions session.toNat = some e)
    (hkind : e.kind < 2) (hlow : e.write ≤ count.toNat) (hhigh : count.toNat ≤ e.consumed + e.ringSize) :
    exec (.codecFeed fn hdr session count) s =
      answered fn 0x0402 hdr (w64 e.consumed) [] (startWait p session.toNat (fedState p session.toNat count.toNat s)) := by
  rw [exec_codecFeed_acts hh ha he]
  simp only [hkind, hlow, hhigh, decide_true, Bool.and_self, need_true, settle_ok, answered, id_eq]

theorem codecFeed_outOfRange {count : W64} (hh : Heard s fn hdr) (ha : Acts s fn hdr p x) (he : tget? x.sessions session.toNat = some e)
    (hout : 2 ≤ e.kind ∨ count.toNat < e.write ∨ e.consumed + e.ringSize < count.toNat) :
    exec (.codecFeed fn hdr session count) s = refusedWith fn 0x0402 hdr 0x0201 s := by
  have hcounts : (decide (e.kind < 2) && decide (e.write ≤ count.toNat) && decide (count.toNat ≤ e.consumed + e.ringSize)) = false := by
    simp only [Bool.and_eq_false_iff, decide_eq_false_iff_not]
    omega
  rw [exec_codecFeed_acts hh ha he, hcounts, need_false, settle_error, refusedWith]

/-! ## CODEC_RELEASE -/

/-- R390, R416: the first posted entries go back on each of the session's pairs, and the output area is free up to area. -/
def releaseOutput (p n entries area : Nat) (e : Session) (s : State) : State :=
  modSession p n (fun e => { e with posted := e.posted.drop entries, areaFree := area })
    (e.pairs.foldl (fun s i => (e.posted.take entries).foldl (fun s k => modEntryPool i k (fun q => { q with output := false }) s) s) s)

theorem exec_codecRelease_acts {entries area : W64} (hh : Heard s fn hdr) (ha : Acts s fn hdr p x)
    (he : tget? x.sessions session.toNat = some e) :
    exec (.codecRelease fn hdr session entries area) s = .next (settle fn 0x0403 hdr
      (need (decide (entries.toNat ≤ e.posted.length) && decide (e.areaFree ≤ area.toNat) && decide (area.toNat ≤ e.areaWrite)) 0x0201
        (.ok { st := releaseOutput p session.toNat entries.toNat area.toNat e s })) s) :=
  (message_heard hh (by decide)).trans (by rw [releaseBody, onSession_acts ha he]; rfl)

/-! ## CODEC_ENC_FRAME -/

theorem exec_codecEncFrame_acts {buffer timestamp forceIrap : W64} (hh : Heard s fn hdr) (ha : Acts s fn hdr p x)
    (he : tget? x.sessions session.toNat = some e) :
    exec (.codecEncFrame fn hdr session buffer timestamp forceIrap) s = .next (settle fn 0x0404 hdr
      (need (e.kind == 2 && flagOk forceIrap && pagesOwned s p buffer.toNat (frameSize e)) 0x0201
        (need (decide (e.frames.length < 16)) 0x0206
          (.ok { st := queueFrame p session.toNat buffer.toNat timestamp (forceIrap == 1) s, result := w64 (e.frames.length + 1) }))) s) :=
  (message_heard hh (by decide)).trans (by rw [encFrameBody, onSession_acts ha he])

/-- R417: a picture of an encode session that the partition may hand over has only the length of the queue left to pass. -/
theorem exec_codecEncFrame_encode {buffer timestamp forceIrap : W64} (hh : Heard s fn hdr) (ha : Acts s fn hdr p x)
    (he : tget? x.sessions session.toNat = some e) (hkind : e.kind = 2) (hflag : flagOk forceIrap = true)
    (howned : pagesOwned s p buffer.toNat (frameSize e) = true) :
    exec (.codecEncFrame fn hdr session buffer timestamp forceIrap) s = .next (settle fn 0x0404 hdr
      (need (decide (e.frames.length < 16)) 0x0206
        (.ok { st := queueFrame p session.toNat buffer.toNat timestamp (forceIrap == 1) s, result := w64 (e.frames.length + 1) })) s) := by
  simp only [exec_codecEncFrame_acts hh ha he, hkind, hflag, howned, BEq.rfl, Bool.and_self, need_true]

/-! ## CODEC_QUERY -/

/-- The shape whose cropping window CODEC_QUERY answers: an activation session has none (log 43). -/
def queriedShape (e : Session) : Config.StreamShape :=
  if e.kind = 2 then encShape e else if e.kind = 3 then {} else Config.streamShape e.kind e.stream

theorem exec_codecQuery_acts (hh : Heard s fn hdr) (ha : Acts s fn hdr p x) (he : tget? x.sessions session.toNat = some e) :
    exec (.codecQuery fn hdr session) s = answered fn 0x0405 hdr 0
      (wordsData [sessionCode s p session.toNat e, e.pictures, e.starves, e.bitErrors, e.blocked,
        (queriedShape e).cropX ||| (queriedShape e).cropY <<< 32, (queriedShape e).cropW ||| (queriedShape e).cropH <<< 32]) s :=
  (message_heard hh (by decide)).trans (by rw [codecQueryBody, onSession_acts ha he]; rfl)

theorem codecQuery_foreign {o : Nat} {y : Partition} (hh : Heard s fn hdr) (ha : Acts s fn hdr p x)
    (hn : tget? x.sessions session.toNat = none) (ho : tget? s.parts o = some y) (he : tget? y.sessions session.toNat = some e) :
    exec (.codecQuery fn hdr session) s = refusedWith fn 0x0405 hdr 0x0205 s := by
  have hb := message_heard (op := 0x0405) (body := codecQueryBody fn hdr session) hh (by decide)
  rwa [codecQueryBody, withPart_acts ha, withSession_foreign ((getSession_acts ha).trans hn) ho he, settle_error] at hb

end OnSession

/-- Settles O48: each clause is the command's answer on the session that it names, or its refusal. -/
theorem codecSessions : Obligations.CodecSessions := by
  refine ⟨?openSession, ?close, ?closeBusy, ?feed, ?feedRange, ?release, ?encFrame, ?encFull, ?queryEncode, ?query, ?foreign⟩
  case openSession =>
    intro fn hdr o p n x s hh ha hform hunused hdescs hpermitted hpairs hfree hroom
    have hm := message_heard (op := 0x0400) (body := openBody fn hdr o) hh (by decide)
    rwa [openBody_passes ha hform hunused hdescs hpermitted hpairs hfree, long_room hroom] at hm
  case close =>
    intro fn hdr session p x e s hh ha he hacts
    simp only [exec_codecSessionClose_acts hh ha he, hacts, Bool.and_eq_true, decide_eq_true_eq]
    rfl
  case closeBusy =>
    intro fn hdr session p x e s hh ha he hacts
    rw [exec_codecSessionClose_acts hh ha he, hacts]
    rfl
  case feed =>
    intro fn hdr session count p x e s hh ha he hkind hlow hhigh hstarving habandoned hidle
    exact ⟨fedState p session.toNat count.toNat s, codecFeed_idle hh ha he hkind hlow hhigh,
      getSession_fedState_idle ((getSession_acts ha).trans he) hstarving habandoned hidle, rfl, rfl, fun _ hm => getSession_fedState_other hm⟩
  case feedRange => exact fun _ _ _ _ _ _ _ _ hh ha he hout => codecFeed_outOfRange hh ha he hout
  case release =>
    intro fn hdr session entries area p x e s hh ha he hentries hlow hhigh
    rw [exec_codecRelease_acts hh ha he, decide_eq_true hentries, decide_eq_true hlow, decide_eq_true hhigh]
    rfl
  case encFrame =>
    intro fn hdr session buffer timestamp forceIrap p x e s hh ha he hkind hflag howned hlen
    rw [exec_codecEncFrame_encode hh ha he hkind hflag howned, decide_eq_true hlen]
    rfl
  case encFull =>
    intro fn hdr session buffer timestamp forceIrap p x e s hh ha he hkind hflag howned hlen
    rw [exec_codecEncFrame_encode hh ha he hkind hflag howned, decide_eq_false (Nat.not_lt.mpr hlen)]
    rfl
  case queryEncode =>
    intro fn hdr session p x e s hh ha he hkind
    simp only [exec_codecQuery_acts hh ha he, queriedShape, if_pos hkind, encShape, Nat.zero_shiftLeft, Nat.or_zero]
  case query =>
    intro fn hdr session p x e s hh ha he hkind
    exact ⟨queriedShape e, if_neg hkind, exec_codecQuery_acts hh ha he⟩
  case foreign => exact fun _ _ _ _ _ _ _ _ _ hh ha hn ho he => codecQuery_foreign hh ha hn ho he

end Sys2Proof.Architecture

/-!
PROOFS. The queue of commands, the canonical memory and the tick at every step. Each command of the table is a message with a
body (Table 10 of ch. 02), an event that a running device alone undergoes (R541, R592), or one of a few accesses and pins;
that is said once (`command_kinds`), and what every step keeps follows from it.
-/
namespace Sys2Proof.Architecture
open Sys2Proof Sys2Proof.Machine Sys2Proof.Safety

theorem keptQueue_refl {s : State} : KeptQueue s s := Kept.refl.queue

/-! ## The kinds of command -/

/-- A message of the table: it goes through the shared framing, and its body's answer keeps the queue and the memory's form. -/
def IsMessage (c : Instr) : Prop :=
  ∃ fn hdr op pf body, messageOf c = some (fn, hdr, op, pf) ∧ (∀ s, exec c s = message fn hdr op pf body s) ∧
    ∀ s, KeptQueue s (settle fn op hdr (body s) s)

/-- An event that changes a running device only. -/
def IsEvent (c : Instr) : Prop :=
  ∃ f : State → State, (∀ s, exec c s = whenLive f s) ∧ ∀ s, KeptQueue s (f s)

/-- The accesses of the host and the pins: neither a message with typed operands nor an event of a running device. -/
def isAccessOrPin : Instr → Bool
  | .mbxDoorbell .. | .mbxStatusWrite .. | .ringHeadWrite .. | .barWrite .. | .poisonedTlp .. | .oversizeBarRead .. => true
  | .vfFunctionLevelReset .. | .pfFunctionLevelReset | .vfEnableClear | .vfEnableSet | .hotReset => true
  | .collectorSelfFault .. | .supplyCollapse .. => true
  | .powerOn .. | .resetN .. | .perstN .. | .trstN | .bmcRead .. | .testAccessPortInstruction .. => true
  | _ => false

theorem isMessage_of {c : Instr} {fn : Fn} {hdr : Hdr} {op : Nat} {pf : Bool} {body : Body} (hm : messageOf c = some (fn, hdr, op, pf))
    (hb : ∀ s, BodyKept s (body s)) (he : ∀ s, exec c s = message fn hdr op pf body s := by exact fun _ => rfl) : IsMessage c :=
  ⟨fn, hdr, op, pf, body, hm, he, fun s => (settle_kept Kept.refl (hb s)).queue⟩

/-- FW_RECOVER starts the steward, and with it the tick: only the queue and the memory's form are kept. -/
theorem recover_isMessage {fn : Fn} {hdr : Hdr} {addr length : W64} {key : List Byte} : IsMessage (.fwRecover fn hdr addr length key) := by
  refine ⟨fn, hdr, 0x0710, true, recoverBody addr length key, rfl, fun _ => rfl, fun s => ?_⟩
  cases hb : recoverBody addr length key s with
  | error code => exact (reply_kept Kept.refl).queue
  | ok a =>
    obtain ⟨hst, hafter⟩ := recoverBody_keptQueue keptQueue_refl hb
    rw [settle_ok, hafter]
    exact hst.of_kept (reply_kept Kept.refl)

theorem isEvent_of {c : Instr} {f : State → State} (hk : ∀ s, Kept s (f s)) (he : ∀ s, exec c s = whenLive f s := by exact fun _ => rfl) :
    IsEvent c :=
  ⟨f, he, fun s => (hk s).queue⟩

/-- An event of one lane keeps what its entry's command keeps. -/
theorem isEvent_lane {c : Instr} {core lane : Nat} {f : Nat → Nat → Entry → State → State}
    (hk : ∀ r h n e u, Kept r u → Kept r (f h n e u)) (he : ∀ s, exec c s = whenLive (laneEvent core lane f) s := by exact fun _ => rfl) :
    IsEvent c :=
  isEvent_of (fun _ => laneEvent_kept (fun h n e u => hk _ h n e u) Kept.refl) he

/-! ## The tick edge -/

/-- R39: action 1 counts, and the others leave the count, the queue and the memory's form. -/
theorem tickEdge_kept_countTick {env : TickEnv} {s : State} :
    Kept (countTick (if env.late then devEvent 0x0002 0xFFFE 1 s else s)) (tickEdge env s) :=
  tickRest_kept (migrationBatch_kept (scheduleTick_kept (powerTick_kept (pelotonTick_kept (timingTick_kept
    (accountTick_kept (snapshotTick_kept Kept.refl)))))))

theorem late_kept {env : TickEnv} {s : State} : Kept s (if env.late then devEvent 0x0002 0xFFFE 1 s else s) :=
  kept_ite (devEvent_kept Kept.refl) Kept.refl

theorem tickEdge_tick {env : TickEnv} {s : State} : (tickEdge env s).steward.tick = s.steward.tick + 1 :=
  tickEdge_kept_countTick.tick.trans (congrArg (· + 1) late_kept.tick)

theorem keptQueue_countTick {r s : State} (h : KeptQueue r s) : KeptQueue r (countTick s) := ⟨h.pending, h.mem⟩

theorem tickEdge_isEvent {env : TickEnv} : IsEvent (.tickEdge env) :=
  ⟨tickEdge env, fun _ => rfl, fun _ => (keptQueue_countTick late_kept.queue).of_kept tickEdge_kept_countTick⟩

/-! ## Events of a lane and of a core, each by what its entry's command does -/

section Events
variable {core : CoreId} {lane : LaneId}

theorem stateSave_isEvent : IsEvent (.stateSave core) :=
  isEvent_of fun _ => kept_ite (landSave_kept Kept.refl) Kept.refl

theorem restore_isEvent : IsEvent (.restore core) := by
  refine isEvent_of (f := fun s => match restorable s core.val with | some v => landRestore core.val v s | none => s) fun s => ?_
  split
  · exact landRestore_kept Kept.refl
  · exact Kept.refl

theorem answer_isEvent {port : PortId} {src : W16} {payload : BitVec 256} : IsEvent (.answer port src payload) :=
  isEvent_of fun _ => kept_ite (answerMsg_kept Kept.refl) Kept.refl

theorem branchingFence_isEvent : IsEvent (.branchingFence core lane) := by
  refine isEvent_lane (fun r h _ e u k => ?_)
  split
  · exact kept_ite k (kept_ite (jumpEntry_kept k) (passEntry_kept k))
  · exact k

theorem signal_isEvent : IsEvent (.signal core lane) := by
  refine isEvent_lane (fun r h _ e u k => ?_)
  split
  · exact passEntry_kept (signalSem_kept k)
  · exact k

theorem wait_isEvent : IsEvent (.wait core lane) := by
  refine isEvent_lane (fun r h _ e u k => ?_)
  split
  · exact waitSem_kept k
  · exact k

theorem acquire_isEvent : IsEvent (.acquire core lane) := by
  refine isEvent_lane (fun r h _ e u k => ?_)
  split
  · exact acquireLock_kept k
  · exact k

theorem release_isEvent : IsEvent (.release core lane) := by
  refine isEvent_lane (fun r h _ e u k => ?_)
  split
  · exact passEntry_kept (releaseLock_kept k)
  · exact k

theorem haloPut_isEvent : IsEvent (.haloPut core lane) := by
  refine isEvent_lane (fun r h _ e u k => ?_)
  split
  · split
    · exact kept_ite k (passEntry_kept (signalSem_kept (State.write_kept (moveTensor_kept k))))
    · exact k
  · exact k

theorem haloFence_isEvent : IsEvent (.haloFence core lane) := by
  refine isEvent_lane (fun r h _ e u k => ?_)
  split
  · refine kept_ite (coreWaitFree_kept k) ?_
    split
    · exact k
    · exact kept_ite (passEntry_kept (setSem_kept k)) (haloMismatch_kept (setSem_kept k))
  · exact k

theorem appendEntry_isEvent : IsEvent (.appendEntry core lane) := by
  refine isEvent_lane (fun r h _ e u k => ?_)
  split
  · refine kept_ite (passEntry_kept k) ?_
    split
    · split
      · exact appendLayer_kept k
      · exact k
    · exact k
  · exact k

theorem collectiveCall_isEvent : IsEvent (.collectiveCall core lane) := by
  refine isEvent_lane (fun r h _ e u k => ?_)
  split
  · split
    · exact issueCall_kept k
    · exact k
  · exact k

theorem collectiveFence_isEvent : IsEvent (.collectiveFence core lane) := by
  refine isEvent_lane (fun r h _ e u k => ?_)
  split
  · exact fenceCall_kept k
  · exact k

end Events

/-- Every command of the table is a message, an event of a running device, or one of the accesses and pins. -/
theorem command_kinds (c : Instr) : IsMessage c ∨ (messageOf c = none ∧ (IsEvent c ∨ isAccessOrPin c = true)) := by
  cases c with
  | mbxDoorbell _ _ => exact .inr ⟨rfl, .inr rfl⟩
  | mbxStatusWrite _ _ => exact .inr ⟨rfl, .inr rfl⟩
  | ringHeadWrite _ _ => exact .inr ⟨rfl, .inr rfl⟩
  | slotDb _ _ _ => exact .inr ⟨rfl, .inl (isEvent_of fun _ => slotDoorbell_kept Kept.refl)⟩
  | barWrite _ _ _ _ => exact .inr ⟨rfl, .inr rfl⟩
  | poisonedTlp _ _ _ => exact .inr ⟨rfl, .inr rfl⟩
  | oversizeBarRead _ _ _ _ => exact .inr ⟨rfl, .inr rfl⟩
  | dmaReadError _ _ => exact .inr ⟨rfl, .inl (isEvent_of fun _ => dmaReadError_kept Kept.refl)⟩
  | vfFunctionLevelReset _ => exact .inr ⟨rfl, .inr rfl⟩
  | pfFunctionLevelReset => exact .inr ⟨rfl, .inr rfl⟩
  | vfEnableClear => exact .inr ⟨rfl, .inr rfl⟩
  | vfEnableSet => exact .inr ⟨rfl, .inr rfl⟩
  | hotReset => exact .inr ⟨rfl, .inr rfl⟩
  | coalesceTimer _ _ => exact .inr ⟨rfl, .inl (isEvent_of fun _ => coalesce_kept Kept.refl)⟩
  | deviceInfo _ _ => exact .inl (isMessage_of rfl fun _ => infoBody_kept Kept.refl)
  | ringSet _ _ _ _ _ _ _ => exact .inl (isMessage_of rfl fun _ => ringBody_kept Kept.refl)
  | handleQuery _ _ => exact .inl (isMessage_of rfl fun _ => handleBody_kept Kept.refl)
  | eventRoute _ _ _ => exact .inl (isMessage_of rfl fun _ => routeBody_kept Kept.refl)
  | castOn _ _ _ => exact .inl (isMessage_of rfl fun _ => castBody_kept Kept.refl)
  | bindOff _ _ _ => exact .inl (isMessage_of rfl fun _ => bindOffBody_kept Kept.refl)
  | partitionList _ _ => exact .inl (isMessage_of rfl fun _ => listBody_kept Kept.refl)
  | tickSet _ _ _ => exact .inl (isMessage_of rfl fun _ => tickBody_kept Kept.refl)
  | memAlloc _ _ _ _ _ _ => exact .inl (isMessage_of rfl fun _ => allocBody_kept Kept.refl)
  | memFree _ _ _ => exact .inl (isMessage_of rfl fun _ => freeBody_kept Kept.refl)
  | memClassSet _ _ _ _ => exact .inl (isMessage_of rfl fun _ => classSetBody_kept Kept.refl)
  | memMigrate _ _ _ _ _ _ => exact .inl (isMessage_of rfl fun _ => migrateBody_kept Kept.refl)
  | memCopy _ _ _ _ _ => exact .inl (isMessage_of rfl fun _ => copyBody_kept Kept.refl)
  | memFill _ _ _ _ _ _ => exact .inl (isMessage_of rfl fun _ => fillBody_kept Kept.refl)
  | memQuery _ _ _ => exact .inl (isMessage_of rfl fun _ => queryBody_kept Kept.refl)
  | poolQuery _ _ => exact .inl (isMessage_of rfl fun _ => poolBody_kept Kept.refl)
  | memHostRegister _ _ _ => exact .inl (isMessage_of rfl fun _ => hostRegisterBody_kept Kept.refl)
  | memHostRelease _ _ _ _ => exact .inl (isMessage_of rfl fun _ => hostReleaseBody_kept Kept.refl)
  | tierMapRead _ _ _ _ _ => exact .inl (isMessage_of rfl fun _ => tierMapBody_kept Kept.refl)
  | tierSet _ _ _ _ _ => exact .inl (isMessage_of rfl fun _ => tierSetBody_kept Kept.refl)
  | patternLoad _ _ _ _ => exact .inl (isMessage_of rfl fun _ => loadBody_kept Kept.refl)
  | patternUnload _ _ _ => exact .inl (isMessage_of rfl fun _ => unloadBody_kept Kept.refl)
  | jobCreate _ _ _ _ _ _ _ _ _ => exact .inl (isMessage_of rfl fun _ => createBody_kept Kept.refl)
  | jobDestroy _ _ _ => exact .inl (isMessage_of rfl fun _ => destroyBody_kept Kept.refl)
  | jobSet _ _ _ _ _ _ => exact .inl (isMessage_of rfl fun _ => jobSetBody_kept Kept.refl)
  | stepSubmit _ _ _ => exact .inl (isMessage_of rfl fun _ => submitBody_kept Kept.refl)
  | stepStop _ _ => exact .inl (isMessage_of rfl fun _ => stopBody_kept Kept.refl)
  | stepResume _ _ => exact .inl (isMessage_of rfl fun _ => resumeBody_kept Kept.refl)
  | schedQuery _ _ _ => exact .inl (isMessage_of rfl fun _ => queryJobBody_kept Kept.refl)
  | fastpathArm _ _ _ _ => exact .inl (isMessage_of rfl fun _ => armBody_kept Kept.refl)
  | fastpathDisarm _ _ _ => exact .inl (isMessage_of rfl fun _ => disarmBody_kept Kept.refl)
  | stepCommit _ _ => exact .inl (isMessage_of rfl fun _ => commitBody_kept Kept.refl)
  | stepFrog _ _ => exact .inl (isMessage_of rfl fun _ => frogBody_kept Kept.refl)
  | bankCreate _ _ _ => exact .inl (isMessage_of rfl fun _ => bankCreateBody_kept Kept.refl)
  | bankExport _ _ _ _ _ _ => exact .inl (isMessage_of rfl fun _ => exportBody_kept Kept.refl)
  | bankImport _ _ _ _ _ _ _ _ _ => exact .inl (isMessage_of rfl fun _ => importBody_kept Kept.refl)
  | bankDestroy _ _ _ => exact .inl (isMessage_of rfl fun _ => bankDestroyBody_kept Kept.refl)
  | replayLogSet _ _ _ _ => exact .inl (isMessage_of rfl fun _ => logSetBody_kept Kept.refl)
  | replay _ _ _ _ _ _ => exact .inl (isMessage_of rfl fun _ => replayBody_kept Kept.refl)
  | pelotonForm _ _ _ => exact .inl (isMessage_of rfl fun _ => formBody_kept Kept.refl)
  | pelotonDisband _ _ _ => exact .inl (isMessage_of rfl fun _ => disbandBody_kept Kept.refl)
  | pelotonReshard _ _ _ _ _ _ => exact .inl (isMessage_of rfl fun _ => reshardBody_kept Kept.refl)
  | pelotonFrog _ _ _ _ => exact .inl (isMessage_of rfl fun _ => pelFrogBody_kept Kept.refl)
  | pelotonSubstitute _ _ _ _ _ _ => exact .inl (isMessage_of rfl fun _ => substBody_kept Kept.refl)
  | pelotonPolicy _ _ _ _ _ _ _ _ => exact .inl (isMessage_of rfl fun _ => policyBody_kept Kept.refl)
  | pelotonQuery _ _ _ => exact .inl (isMessage_of rfl fun _ => pelQueryBody_kept Kept.refl)
  | codecSessionOpen _ _ _ => exact .inl (isMessage_of rfl fun _ => openBody_kept Kept.refl)
  | codecSessionClose _ _ _ => exact .inl (isMessage_of rfl fun _ => codecCloseBody_kept Kept.refl)
  | codecFeed _ _ _ _ => exact .inl (isMessage_of rfl fun _ => feedBody_kept Kept.refl)
  | codecRelease _ _ _ _ _ => exact .inl (isMessage_of rfl fun _ => releaseBody_kept Kept.refl)
  | codecEncFrame _ _ _ _ _ _ => exact .inl (isMessage_of rfl fun _ => encFrameBody_kept Kept.refl)
  | codecQuery _ _ _ => exact .inl (isMessage_of rfl fun _ => codecQueryBody_kept Kept.refl)
  | actEncode _ _ _ _ _ _ _ => exact .inl (isMessage_of rfl fun _ => actBody_kept Kept.refl)
  | actDecode _ _ _ _ _ _ _ => exact .inl (isMessage_of rfl fun _ => actBody_kept Kept.refl)
  | actRelease _ _ _ _ => exact .inl (isMessage_of rfl fun _ => actReleaseBody_kept Kept.refl)
  | kvSpaceCreate _ _ _ => exact .inl (isMessage_of rfl fun _ => spaceBody_kept Kept.refl)
  | kvSpaceDestroy _ _ _ => exact .inl (isMessage_of rfl fun _ => spaceDestroyBody_kept Kept.refl)
  | kvSeqOpen _ _ _ => exact .inl (isMessage_of rfl fun _ => seqOpenBody_kept Kept.refl)
  | kvSeqFork _ _ _ _ _ => exact .inl (isMessage_of rfl fun _ => forkBody_kept Kept.refl)
  | kvSeqTruncate _ _ _ _ _ => exact .inl (isMessage_of rfl fun _ => truncateBody_kept Kept.refl)
  | kvSeqClose _ _ _ _ => exact .inl (isMessage_of rfl fun _ => closeBody_kept Kept.refl)
  | kvAttach _ _ _ _ _ _ => exact .inl (isMessage_of rfl fun _ => attachBody_kept Kept.refl)
  | kvAppend _ _ _ _ _ _ _ _ _ => exact .inl (isMessage_of rfl fun _ => kvAppendBody_kept Kept.refl)
  | kvSeqQuery _ _ _ _ => exact .inl (isMessage_of rfl fun _ => seqQueryBody_kept Kept.refl)
  | prefixRead _ _ _ _ _ => exact .inl (isMessage_of rfl fun _ => prefixReadBody_kept Kept.refl)
  | prefixFlush _ _ _ => exact .inl (isMessage_of rfl fun _ => flushBody_kept Kept.refl)
  | counterSet _ _ _ _ _ => exact .inl (isMessage_of rfl fun _ => counterBody_kept Kept.refl)
  | eventRead _ _ _ _ _ => exact .inl (isMessage_of rfl fun _ => eventReadBody_kept Kept.refl)
  | faultClear _ _ _ _ => exact .inl (isMessage_of rfl fun _ => faultClearBody_kept Kept.refl)
  | telemetryRead _ _ => exact .inl (isMessage_of rfl fun _ => telemetryBody_kept Kept.refl)
  | serviceSet _ _ _ => exact .inl (isMessage_of rfl fun _ => serviceBody_kept Kept.refl)
  | coreSpare _ _ _ _ => exact .inl (isMessage_of rfl fun _ => spareBody_kept Kept.refl)
  | fwUpdate _ _ _ => exact .inl (isMessage_of rfl fun _ => updateBody_kept Kept.refl)
  | fwCommit _ _ => exact .inl (isMessage_of rfl fun _ => commitUpdateBody_kept Kept.refl)
  | fwRevert _ _ => exact .inl (isMessage_of rfl fun _ => revertBody_kept Kept.refl)
  | ucodeLoad _ _ _ _ => exact .inl (isMessage_of rfl fun _ => ucodeBody_kept Kept.refl)
  | stewardSwitch _ _ => exact .inl (isMessage_of rfl fun _ => switchBody_kept Kept.refl)
  | linkGroupSet _ _ _ => exact .inl (isMessage_of rfl fun _ => groupBody_kept Kept.refl)
  | linkRecal _ _ _ => exact .inl (isMessage_of rfl fun _ => recalBody_kept Kept.refl)
  | linkTrain _ _ _ => exact .inl (isMessage_of rfl fun _ => trainBody_kept Kept.refl)
  | stackRecal _ _ _ => exact .inl (isMessage_of rfl fun _ => stackBody_kept Kept.refl)
  | farPortRestart _ _ _ => exact .inl (isMessage_of rfl fun _ => farRestartBody_kept Kept.refl)
  | attest _ _ _ _ => exact .inl (isMessage_of rfl fun _ => attestBody_kept Kept.refl)
  | identityRead _ _ _ => exact .inl (isMessage_of rfl fun _ => identityBody_kept Kept.refl)
  | ownerEnroll _ _ _ _ => exact .inl (isMessage_of rfl fun _ => enrollBody_kept Kept.refl)
  | powerSet _ _ _ => exact .inl (isMessage_of rfl fun _ => powerBody_kept Kept.refl)
  | settingsSave _ _ => exact .inl (isMessage_of rfl fun _ => saveBody_kept Kept.refl)
  | settingsQuery _ _ => exact .inl (isMessage_of rfl fun _ => settingsQueryBody_kept Kept.refl)
  | fwRecover _ _ _ _ _ => exact .inl recover_isMessage
  | settingsRecordWrite _ => exact .inr ⟨rfl, .inl (isEvent_of fun _ => recordWrite_kept Kept.refl)⟩
  | tickEdge _ => exact .inr ⟨rfl, .inl tickEdge_isEvent⟩
  | stepAdmission _ => exact .inr ⟨rfl, .inl (isEvent_of fun _ => admitStep_kept Kept.refl)⟩
  | classZeroStart _ => exact .inr ⟨rfl, .inl (isEvent_of fun _ => startClass0_kept Kept.refl)⟩
  | stateSave _ => exact .inr ⟨rfl, .inl stateSave_isEvent⟩
  | restore _ => exact .inr ⟨rfl, .inl restore_isEvent⟩
  | stitchCommit _ _ => exact .inr ⟨rfl, .inl (isEvent_of fun _ => commitStitch_kept Kept.refl)⟩
  | weightReadyFence _ _ _ => exact .inr ⟨rfl, .inl (isEvent_of fun _ => weightSwap_kept Kept.refl)⟩
  | sentinelRecompute _ => exact .inr ⟨rfl, .inl (isEvent_of fun _ => endSample_kept Kept.refl)⟩
  | stepHeld _ => exact .inr ⟨rfl, .inl (isEvent_of fun _ => holdStep_kept Kept.refl)⟩
  | frogComplete _ => exact .inr ⟨rfl, .inl (isEvent_of fun _ => frogLanded_kept Kept.refl)⟩
  | branchingFence _ _ => exact .inr ⟨rfl, .inl branchingFence_isEvent⟩
  | stewardMerge _ _ => exact .inr ⟨rfl, .inl (isEvent_of fun _ => mergeStep_kept Kept.refl)⟩
  | amaxFence _ _ => exact .inr ⟨rfl, .inl (isEvent_of fun _ => amaxStep_kept Kept.refl)⟩
  | signal _ _ => exact .inr ⟨rfl, .inl signal_isEvent⟩
  | wait _ _ => exact .inr ⟨rfl, .inl wait_isEvent⟩
  | acquire _ _ => exact .inr ⟨rfl, .inl acquire_isEvent⟩
  | release _ _ => exact .inr ⟨rfl, .inl release_isEvent⟩
  | csOverrun _ _ => exact .inr ⟨rfl, .inl (isEvent_of fun _ => csOver_kept Kept.refl)⟩
  | coreMoverTransfer _ _ => exact .inr ⟨rfl, .inl (isEvent_of fun _ => landMover_kept Kept.refl)⟩
  | prefetchDeadline _ _ _ => exact .inr ⟨rfl, .inl (isEvent_of fun _ => prefetchLate_kept Kept.refl)⟩
  | haloPut _ _ => exact .inr ⟨rfl, .inl haloPut_isEvent⟩
  | haloFence _ _ => exact .inr ⟨rfl, .inl haloFence_isEvent⟩
  | stemStitch _ => exact .inr ⟨rfl, .inl (isEvent_of fun _ => stemNext_kept Kept.refl)⟩
  | appendEntry _ _ => exact .inr ⟨rfl, .inl appendEntry_isEvent⟩
  | collectiveCall _ _ => exact .inr ⟨rfl, .inl collectiveCall_isEvent⟩
  | collectiveFence _ _ => exact .inr ⟨rfl, .inl collectiveFence_isEvent⟩
  | redScatter _ _ => exact .inr ⟨rfl, .inl (isEvent_of fun _ => redScatter_kept Kept.refl)⟩
  | redGather _ _ => exact .inr ⟨rfl, .inl (isEvent_of fun _ => redGather_kept Kept.refl)⟩
  | paramGather _ _ => exact .inr ⟨rfl, .inl (isEvent_of fun _ => paramGather_kept Kept.refl)⟩
  | exchange _ _ => exact .inr ⟨rfl, .inl (isEvent_of fun _ => exchange_kept Kept.refl)⟩
  | exchangeReturn _ _ => exact .inr ⟨rfl, .inl (isEvent_of fun _ => exchangeReturn_kept Kept.refl)⟩
  | ringKv _ _ => exact .inr ⟨rfl, .inl (isEvent_of fun _ => ringKv_kept Kept.refl)⟩
  | ringGrad _ _ => exact .inr ⟨rfl, .inl (isEvent_of fun _ => ringGrad_kept Kept.refl)⟩
  | ringLate _ _ => exact .inr ⟨rfl, .inl (isEvent_of fun _ => ringLate_kept Kept.refl)⟩
  | reshardData _ _ => exact .inr ⟨rfl, .inl (isEvent_of fun _ => reshardData_kept Kept.refl)⟩
  | reshardToken _ _ => exact .inr ⟨rfl, .inl (isEvent_of fun _ => reshardToken_kept Kept.refl)⟩
  | substToken _ _ => exact .inr ⟨rfl, .inl (isEvent_of fun _ => substToken_kept Kept.refl)⟩
  | groupFrog _ _ => exact .inr ⟨rfl, .inl (isEvent_of fun _ => groupFrog_kept Kept.refl)⟩
  | abort _ _ => exact .inr ⟨rfl, .inl (isEvent_of fun _ => takeAbort_kept Kept.refl)⟩
  | lateExclusion _ _ _ => exact .inr ⟨rfl, .inl (isEvent_of fun _ => lateExclude_kept Kept.refl)⟩
  | lateContribution _ _ _ => exact .inr ⟨rfl, .inl (isEvent_of fun _ => lateContribution_kept Kept.refl)⟩
  | peerTimeout _ _ _ => exact .inr ⟨rfl, .inl (isEvent_of fun _ => peerTimeout_kept Kept.refl)⟩
  | lapTimeout _ _ => exact .inr ⟨rfl, .inl (isEvent_of fun _ => lapTimeout_kept Kept.refl)⟩
  | pelotonFormed _ _ => exact .inr ⟨rfl, .inl (isEvent_of fun _ => pelotonFormed_kept Kept.refl)⟩
  | migrationComplete _ => exact .inr ⟨rfl, .inl (isEvent_of fun _ => completeMove_kept Kept.refl)⟩
  | darnLimit _ _ _ => exact .inr ⟨rfl, .inl (isEvent_of fun _ => darnLimit_kept Kept.refl)⟩
  | hbmUncorrectable _ _ _ => exact .inr ⟨rfl, .inl (isEvent_of fun _ => hbmUncorrectable_kept Kept.refl)⟩
  | pageRestore _ => exact .inr ⟨rfl, .inl (isEvent_of fun _ => pageRestore_kept Kept.refl)⟩
  | farPoison _ _ => exact .inr ⟨rfl, .inl (isEvent_of fun _ => farPoison_kept Kept.refl)⟩
  | farLinkDown _ => exact .inr ⟨rfl, .inl (isEvent_of fun _ => farLinkDown_kept Kept.refl)⟩
  | farMedia _ _ => exact .inr ⟨rfl, .inl (isEvent_of fun _ => farMedia_kept Kept.refl)⟩
  | scrub _ _ => exact .inr ⟨rfl, .inl (isEvent_of fun _ => scrub_kept Kept.refl)⟩
  | coreDegraded _ => exact .inr ⟨rfl, .inl (isEvent_of fun _ => coreDegraded_kept Kept.refl)⟩
  | stackDrift _ => exact .inr ⟨rfl, .inl (isEvent_of fun _ => recEvent_kept Kept.refl)⟩
  | coreSwap _ => exact .inr ⟨rfl, .inl (isEvent_of fun _ => coreSwap_kept Kept.refl)⟩
  | faultCollected => exact .inr ⟨rfl, .inl (isEvent_of fun _ => collectAll_kept Kept.refl)⟩
  | coreSramUe _ _ => exact .inr ⟨rfl, .inl (isEvent_of fun _ => coreFault_kept Kept.refl)⟩
  | coreParity _ _ => exact .inr ⟨rfl, .inl (isEvent_of fun _ => coreFault_kept Kept.refl)⟩
  | mapbufUe _ _ _ => exact .inr ⟨rfl, .inl (isEvent_of fun _ => mapbufFault_kept Kept.refl)⟩
  | stemFault _ => exact .inr ⟨rfl, .inl (isEvent_of fun _ => stemFault_kept Kept.refl)⟩
  | codecPairUe _ => exact .inr ⟨rfl, .inl (isEvent_of fun _ => pairError_kept Kept.refl)⟩
  | linkBufferUe _ => exact .inr ⟨rfl, .inl (isEvent_of fun _ => portDown_kept Kept.refl)⟩
  | slotStoreError _ _ => exact .inr ⟨rfl, .inl (isEvent_of fun _ => slotStoreError_kept Kept.refl)⟩
  | collectorSelfFault _ => exact .inr ⟨rfl, .inr rfl⟩
  | overTemperature _ _ => exact .inr ⟨rfl, .inl (isEvent_of fun _ => overTemperature_kept Kept.refl)⟩
  | stewardCoreFault _ => exact .inr ⟨rfl, .inl (isEvent_of fun _ => actingFault_kept Kept.refl)⟩
  | stewardDoubleFault _ => exact .inr ⟨rfl, .inl (isEvent_of fun _ => doubleFault_kept Kept.refl)⟩
  | clusterSelfTest _ => exact .inr ⟨rfl, .inl (isEvent_of fun _ => selfTest_kept Kept.refl)⟩
  | handover => exact .inr ⟨rfl, .inl (isEvent_of fun _ => handOver_kept Kept.refl)⟩
  | dataFlit _ _ _ => exact .inr ⟨rfl, .inl (isEvent_of fun _ => dataFlit_kept Kept.refl)⟩
  | idleFlit _ _ _ => exact .inr ⟨rfl, .inl (isEvent_of fun _ => idleFlit_kept Kept.refl)⟩
  | nak _ _ _ => exact .inr ⟨rfl, .inl (isEvent_of fun _ => nakFlit_kept Kept.refl)⟩
  | fenceIdle _ => exact .inr ⟨rfl, .inl (isEvent_of fun _ => partnerFenced_kept Kept.refl)⟩
  | replayTimeout _ => exact .inr ⟨rfl, .inl (isEvent_of fun _ => replayTimeout_kept Kept.refl)⟩
  | fastRetrain _ _ _ => exact .inr ⟨rfl, .inl (isEvent_of fun _ => fastRetrain_kept Kept.refl)⟩
  | fullTraining _ _ => exact .inr ⟨rfl, .inl (isEvent_of fun _ => fullTraining_kept Kept.refl)⟩
  | codewordLockLost _ => exact .inr ⟨rfl, .inl (isEvent_of fun _ => lockLost_kept Kept.refl)⟩
  | laneDegrade _ _ => exact .inr ⟨rfl, .inl (isEvent_of fun _ => laneDegrade_kept Kept.refl)⟩
  | laneRecalDone _ _ _ => exact .inr ⟨rfl, .inl (isEvent_of fun _ => laneRecalDone_kept Kept.refl)⟩
  | config _ _ _ _ _ _ _ => exact .inr ⟨rfl, .inl (isEvent_of fun _ => configMsg_kept Kept.refl)⟩
  | echoReq _ _ => exact .inr ⟨rfl, .inl (isEvent_of fun _ => echoReq_kept Kept.refl)⟩
  | echoResp _ _ _ _ => exact .inr ⟨rfl, .inl (isEvent_of fun _ => echoResp_kept Kept.refl)⟩
  | vcReset _ _ => exact .inr ⟨rfl, .inl (isEvent_of fun _ => vcReset_kept Kept.refl)⟩
  | answer _ _ _ => exact .inr ⟨rfl, .inl answer_isEvent⟩
  | tickMarker _ _ _ _ => exact .inr ⟨rfl, .inl (isEvent_of fun _ => tickMarker_kept Kept.refl)⟩
  | markerMissed => exact .inr ⟨rfl, .inl (isEvent_of fun _ => markerMissed_kept Kept.refl)⟩
  | syncIn _ => exact .inr ⟨rfl, .inl (isEvent_of fun _ => syncIn_kept Kept.refl)⟩
  | linkReferenceLost _ => exact .inr ⟨rfl, .inl (isEvent_of fun _ => referenceLost_kept Kept.refl)⟩
  | unitBoundary _ => exact .inr ⟨rfl, .inl (isEvent_of fun _ => unitBoundary_kept Kept.refl)⟩
  | unitRecord _ _ => exact .inr ⟨rfl, .inl (isEvent_of fun _ => unitRecord_kept Kept.refl)⟩
  | starveLimit _ _ => exact .inr ⟨rfl, .inl (isEvent_of fun _ => starveLimit_kept Kept.refl)⟩
  | pictureOutput _ _ _ => exact .inr ⟨rfl, .inl (isEvent_of fun _ => pictureOutput_kept Kept.refl)⟩
  | activationCallComplete _ _ => exact .inr ⟨rfl, .inl (isEvent_of fun _ => actComplete_kept Kept.refl)⟩
  | ucodeLoadDone _ => exact .inr ⟨rfl, .inl (isEvent_of fun _ => ucodeDone_kept Kept.refl)⟩
  | supplyDip _ _ => exact .inr ⟨rfl, .inl (isEvent_of fun _ => supplyDip_kept Kept.refl)⟩
  | supplyDipRecord _ _ _ => exact .inr ⟨rfl, .inl (isEvent_of fun _ => dipRecord_kept Kept.refl)⟩
  | supplyCollapse _ => exact .inr ⟨rfl, .inr rfl⟩
  | gearStep _ => exact .inr ⟨rfl, .inl (isEvent_of fun _ => gearStep_kept Kept.refl)⟩
  | avsAck _ => exact .inr ⟨rfl, .inl (isEvent_of fun _ => avsAck_kept Kept.refl)⟩
  | avsTimeout _ => exact .inr ⟨rfl, .inl (isEvent_of fun _ => avsTimeout_kept Kept.refl)⟩
  | freewheel _ => exact .inr ⟨rfl, .inl (isEvent_of fun _ => freewheel_kept Kept.refl)⟩
  | powerOn _ => exact .inr ⟨rfl, .inr rfl⟩
  | resetN _ _ => exact .inr ⟨rfl, .inr rfl⟩
  | perstN _ _ => exact .inr ⟨rfl, .inr rfl⟩
  | trstN => exact .inr ⟨rfl, .inr rfl⟩
  | bmcRead _ _ _ => exact .inr ⟨rfl, .inr rfl⟩
  | standbyStewardFault => exact .inr ⟨rfl, .inl (isEvent_of fun _ => standbyFault_kept Kept.refl)⟩
  | farPortEnumerated _ _ _ => exact .inr ⟨rfl, .inl (isEvent_of fun _ => farEnumerated_kept Kept.refl)⟩
  | farLinkBackUp _ => exact .inr ⟨rfl, .inl (isEvent_of fun _ => modFar_kept Kept.refl)⟩
  | testAccessPortInstruction _ => exact .inr ⟨rfl, .inr rfl⟩

/-! ## The message in the window -/

/-- What a row does is what a message of the table does. -/
def CarriesMessage (a : Act) : Prop := ∃ c, (messageOf c).isSome = true ∧ ∀ s, a s = exec c s

/-- Every answer that an opcode's operands give is a message of the table. -/
def OnlyMessages (r : Except Nat Act) : Prop := ∀ a, r = .ok a → CarriesMessage a

theorem onlyMessages_error {code : Nat} : OnlyMessages (.error code) := fun _ h => by cases h

theorem onlyMessages_need {c : Bool} {code : Nat} {r : Except Nat Act} (h : OnlyMessages r) : OnlyMessages (need c code r) := by
  cases c
  · exact onlyMessages_error
  · exact h

theorem onlyMessages_ok (c : Instr) (hm : (messageOf c).isSome = true) {a : Act} (ha : ∀ s, a s = exec c s := by exact fun _ => rfl) :
    OnlyMessages (.ok a) :=
  fun _ h => by cases h; exact ⟨c, hm, ha⟩

theorem onlyMessages_exact (c : Instr) (hm : (messageOf c).isSome = true) {b : List Byte} {n : Nat} {a : Act}
    (ha : ∀ s, a s = exec c s := by exact fun _ => rfl) : OnlyMessages (exact b n a) :=
  onlyMessages_need (onlyMessages_ok c hm ha)

section Operands
variable {s : State} {f : Fn} {hdr : Hdr} {b : List Byte}

theorem onlyMessages_operandData {d : DescWord} {k : List Byte → Except Nat Act} (h : ∀ bs, OnlyMessages (k bs)) :
    OnlyMessages (operandData s f hdr d k) := by
  unfold operandData
  split
  · exact onlyMessages_error
  · exact onlyMessages_need (onlyMessages_need (h _))

theorem onlyMessages_operandList {o size : Nat} {k : List (List Byte) → Except Nat Act} (h : ∀ is, OnlyMessages (k is)) :
    OnlyMessages (operandList s f hdr b o size k) := by
  unfold operandList
  dsimp only
  split
  · exact h _
  · exact onlyMessages_operandData fun _ => onlyMessages_need (h _)

theorem onlyMessages_runAlloc : OnlyMessages (runAlloc f hdr b) :=
  onlyMessages_exact (.memAlloc f hdr _ _ _ _) rfl

theorem onlyMessages_runReplay : OnlyMessages (runReplay s f hdr b) :=
  onlyMessages_need (onlyMessages_operandList fun _ => onlyMessages_operandList fun _ => onlyMessages_ok (.replay f hdr _ _ _ _) rfl)

theorem onlyMessages_runReshard : OnlyMessages (runReshard s f hdr b) :=
  onlyMessages_need (onlyMessages_need (onlyMessages_operandList fun _ => onlyMessages_ok (.pelotonReshard f hdr _ _ _ _) rfl))

theorem onlyMessages_runSpaceCreate : OnlyMessages (runSpaceCreate s f hdr b) :=
  onlyMessages_need (onlyMessages_need (onlyMessages_operandList fun _ => onlyMessages_ok (.kvSpaceCreate f hdr _) rfl))

theorem onlyMessages_runEnroll : OnlyMessages (runEnroll f hdr b) :=
  onlyMessages_need (onlyMessages_ok (.ownerEnroll f hdr _ _) rfl)

theorem onlyMessages_run00 {o : Nat} : OnlyMessages (run00 f hdr b o) := by
  unfold run00
  split
  · exact onlyMessages_exact (.deviceInfo f hdr) rfl
  · exact onlyMessages_exact (.ringSet f hdr _ _ _ _ _) rfl
  · exact onlyMessages_exact (.handleQuery f hdr) rfl
  · exact onlyMessages_exact (.eventRoute f hdr _) rfl
  · exact onlyMessages_exact (.castOn f hdr _) rfl
  · exact onlyMessages_exact (.bindOff f hdr _) rfl
  · exact onlyMessages_exact (.partitionList f hdr) rfl
  · exact onlyMessages_exact (.tickSet f hdr _) rfl
  · exact onlyMessages_error

theorem onlyMessages_run01 {o : Nat} : OnlyMessages (run01 f hdr b o) := by
  unfold run01
  split
  · exact onlyMessages_runAlloc
  · exact onlyMessages_exact (.memFree f hdr _) rfl
  · exact onlyMessages_exact (.memClassSet f hdr _ _) rfl
  · exact onlyMessages_exact (.memMigrate f hdr _ _ _ _) rfl
  · exact onlyMessages_exact (.memCopy f hdr _ _ _) rfl
  · exact onlyMessages_exact (.memFill f hdr _ _ _ _) rfl
  · exact onlyMessages_exact (.memQuery f hdr _) rfl
  · exact onlyMessages_exact (.poolQuery f hdr) rfl
  · exact onlyMessages_exact (.memHostRegister f hdr _) rfl
  · exact onlyMessages_exact (.memHostRelease f hdr _ _) rfl
  · exact onlyMessages_exact (.tierMapRead f hdr _ _ _) rfl
  · exact onlyMessages_exact (.tierSet f hdr _ _ _) rfl
  · exact onlyMessages_error

theorem onlyMessages_run02 {o : Nat} : OnlyMessages (run02 s f hdr b o) := by
  unfold run02
  split
  · exact onlyMessages_exact (.patternLoad f hdr _ _) rfl
  · exact onlyMessages_exact (.patternUnload f hdr _) rfl
  · exact onlyMessages_exact (.jobCreate f hdr _ _ _ _ _ _ _) rfl
  · exact onlyMessages_exact (.jobDestroy f hdr _) rfl
  · exact onlyMessages_exact (.jobSet f hdr _ _ _ _) rfl
  · exact onlyMessages_exact (.stepSubmit f hdr _) rfl
  · exact onlyMessages_exact (.stepStop f hdr) rfl
  · exact onlyMessages_exact (.stepResume f hdr) rfl
  · exact onlyMessages_exact (.schedQuery f hdr _) rfl
  · exact onlyMessages_exact (.fastpathArm f hdr _ _) rfl
  · exact onlyMessages_exact (.fastpathDisarm f hdr _) rfl
  · exact onlyMessages_exact (.stepCommit f hdr) rfl
  · exact onlyMessages_exact (.stepFrog f hdr) rfl
  · exact onlyMessages_exact (.bankCreate f hdr _) rfl
  · exact onlyMessages_exact (.bankExport f hdr _ _ _ _) rfl
  · exact onlyMessages_exact (.bankImport f hdr _ _ _ _ _ _ _) rfl
  · exact onlyMessages_exact (.bankDestroy f hdr _) rfl
  · exact onlyMessages_exact (.replayLogSet f hdr _ _) rfl
  · exact onlyMessages_runReplay
  · exact onlyMessages_error

theorem onlyMessages_run03 {o : Nat} : OnlyMessages (run03 s f hdr b o) := by
  unfold run03
  split
  · exact onlyMessages_exact (.pelotonForm f hdr _) rfl
  · exact onlyMessages_exact (.pelotonDisband f hdr _) rfl
  · exact onlyMessages_runReshard
  · exact onlyMessages_exact (.pelotonFrog f hdr _ _) rfl
  · exact onlyMessages_exact (.pelotonSubstitute f hdr _ _ _ _) rfl
  · exact onlyMessages_exact (.pelotonPolicy f hdr _ _ _ _ _ _) rfl
  · exact onlyMessages_exact (.pelotonQuery f hdr _) rfl
  · exact onlyMessages_error

theorem onlyMessages_run04 {o : Nat} : OnlyMessages (run04 f hdr b o) := by
  unfold run04
  split
  · exact onlyMessages_exact (.codecSessionOpen f hdr _) rfl
  · exact onlyMessages_exact (.codecSessionClose f hdr _) rfl
  · exact onlyMessages_exact (.codecFeed f hdr _ _) rfl
  · exact onlyMessages_exact (.codecRelease f hdr _ _ _) rfl
  · exact onlyMessages_exact (.codecEncFrame f hdr _ _ _ _) rfl
  · exact onlyMessages_exact (.codecQuery f hdr _) rfl
  · exact onlyMessages_exact (.actEncode f hdr _ _ _ _ _) rfl
  · exact onlyMessages_exact (.actDecode f hdr _ _ _ _ _) rfl
  · exact onlyMessages_exact (.actRelease f hdr _ _) rfl
  · exact onlyMessages_error

theorem onlyMessages_run05 {o : Nat} : OnlyMessages (run05 s f hdr b o) := by
  unfold run05
  split
  · exact onlyMessages_runSpaceCreate
  · exact onlyMessages_exact (.kvSpaceDestroy f hdr _) rfl
  · exact onlyMessages_exact (.kvSeqOpen f hdr _) rfl
  · exact onlyMessages_exact (.kvSeqFork f hdr _ _ _) rfl
  · exact onlyMessages_exact (.kvSeqTruncate f hdr _ _ _) rfl
  · exact onlyMessages_exact (.kvSeqClose f hdr _ _) rfl
  · exact onlyMessages_exact (.kvAttach f hdr _ _ _ _) rfl
  · exact onlyMessages_exact (.kvAppend f hdr _ _ _ _ _ _ _) rfl
  · exact onlyMessages_exact (.kvSeqQuery f hdr _ _) rfl
  · exact onlyMessages_exact (.prefixRead f hdr _ _ _) rfl
  · exact onlyMessages_exact (.prefixFlush f hdr _) rfl
  · exact onlyMessages_error

theorem onlyMessages_run06 {o : Nat} : OnlyMessages (run06 s f hdr b o) := by
  unfold run06
  split
  · exact onlyMessages_exact (.counterSet f hdr _ _ _) rfl
  · exact onlyMessages_exact (.eventRead f hdr _ _ _) rfl
  · exact onlyMessages_exact (.faultClear f hdr _ _) rfl
  · exact onlyMessages_exact (.telemetryRead f hdr) rfl
  · exact onlyMessages_exact (.serviceSet f hdr _) rfl
  · exact onlyMessages_exact (.coreSpare f hdr _ _) rfl
  · exact onlyMessages_need (onlyMessages_operandData fun _ => onlyMessages_ok (.fwUpdate f hdr _) rfl)
  · exact onlyMessages_exact (.fwCommit f hdr) rfl
  · exact onlyMessages_exact (.fwRevert f hdr) rfl
  · exact onlyMessages_need (onlyMessages_operandData fun _ => onlyMessages_ok (.ucodeLoad f hdr _ _) rfl)
  · exact onlyMessages_exact (.stewardSwitch f hdr) rfl
  · exact onlyMessages_exact (.linkGroupSet f hdr _) rfl
  · exact onlyMessages_exact (.linkRecal f hdr _) rfl
  · exact onlyMessages_exact (.linkTrain f hdr _) rfl
  · exact onlyMessages_exact (.stackRecal f hdr _) rfl
  · exact onlyMessages_exact (.farPortRestart f hdr _) rfl
  · exact onlyMessages_error

theorem onlyMessages_run07 {o : Nat} : OnlyMessages (run07 f hdr b o) := by
  unfold run07
  split
  · exact onlyMessages_exact (.attest f hdr _ _) rfl
  · exact onlyMessages_exact (.identityRead f hdr _) rfl
  · exact onlyMessages_runEnroll
  · exact onlyMessages_exact (.powerSet f hdr _) rfl
  · exact onlyMessages_exact (.settingsSave f hdr) rfl
  · exact onlyMessages_exact (.settingsQuery f hdr) rfl
  · exact onlyMessages_need (onlyMessages_exact (.fwRecover f hdr _ _ _) rfl)
  · exact onlyMessages_error

theorem onlyMessages_runOpcode {op : Nat} : OnlyMessages (runOpcode s f hdr b op) := by
  unfold runOpcode
  split
  · exact onlyMessages_run00
  · exact onlyMessages_run01
  · exact onlyMessages_run02
  · exact onlyMessages_run03
  · exact onlyMessages_run04
  · exact onlyMessages_run05
  · exact onlyMessages_run06
  · exact onlyMessages_run07
  · exact onlyMessages_error

end Operands

/-! ## What every command keeps -/

theorem message_next {fn : Fn} {hdr : Hdr} {op : Nat} {pf : Bool} {body : Body} {s : State}
    (h : KeptQueue s (settle fn op hdr (body s) s)) : ∃ t, message fn hdr op pf body s = .next t ∧ KeptQueue s t := by
  refine ⟨_, rfl, ?_⟩
  have hreply : ∀ code, KeptQueue s (reply fn op hdr code 0 0 [] s) := fun _ => (reply_kept Kept.refl).queue
  split
  · exact keptQueue_refl
  split
  · exact hreply _
  split
  · exact hreply _
  split
  · exact hreply _
  · exact h

theorem isMessage_next {c : Instr} (h : IsMessage c) (s : State) : ∃ t, exec c s = .next t ∧ KeptQueue s t := by
  obtain ⟨fn, hdr, op, pf, body, -, he, hb⟩ := h
  rw [he]
  exact message_next (hb s)

theorem keptQueue_ite {r x y : State} {c : Prop} [Decidable c] (h : KeptQueue r x) (g : KeptQueue r y) : KeptQueue r (if c then x else y) := by
  split <;> assumption

theorem isEvent_next {c : Instr} (h : IsEvent c) (s : State) : ∃ t, exec c s = .next t ∧ KeptQueue s t := by
  obtain ⟨f, he, hk⟩ := h
  exact ⟨_, he s, keptQueue_ite (hk s) keptQueue_refl⟩

theorem isMessage_of_messageOf {c : Instr} (hm : (messageOf c).isSome = true) : IsMessage c := by
  obtain h | ⟨hn, -⟩ := command_kinds c
  · exact h
  · rw [hn] at hm
    cases hm

theorem doorbell_next {f : Fn} {v : W64} {s : State} : ∃ t, doorbell f v s = .next t ∧ KeptQueue s t := by
  have hreply : ∀ op hdr code, KeptQueue s (reply f op hdr code 0 0 [] s) := fun _ _ _ => (reply_kept Kept.refl).queue
  unfold doorbell
  dsimp only
  split
  · exact ⟨_, rfl, keptQueue_refl⟩
  split
  · exact ⟨_, rfl, (hostMistake_kept Kept.refl).queue⟩
  split
  · exact ⟨_, rfl, hreply _ _ _⟩
  split
  · exact ⟨_, rfl, hreply _ _ _⟩
  split
  next => exact ⟨_, rfl, hreply _ _ _⟩
  next a ha =>
    obtain ⟨c, hm, hc⟩ := onlyMessages_runOpcode a ha
    rw [hc]
    exact isMessage_next (isMessage_of_messageOf hm) s

/-- An access outside its BAR, which no address of the block answers (log 2). -/
def beyondBar : Instr → Prop
  | .barWrite fn bar offset bytes => Machine.barSize fn bar < offset + bytes.length
  | .oversizeBarRead fn bar offset size => Machine.barSize fn bar < offset + size
  | .poisonedTlp fn bar offset => Machine.barSize fn bar ≤ offset
  | _ => False

theorem onWrite_next {f : Nat} {g : State → State} {s : State} (h : Kept s (g s)) : ∃ t, onWrite f g s = .next t ∧ KeptQueue s t :=
  ⟨_, rfl, (kept_ite h Kept.refl).queue⟩

theorem barWrite_next {fn : Fn} {bar offset : Nat} {bytes : List Byte} {s : State} (h : offset + bytes.length ≤ Machine.barSize fn bar) :
    ∃ t, barWrite fn bar offset bytes s = .next t ∧ KeptQueue s t := by
  unfold barWrite
  split
  · exact ⟨_, rfl, keptQueue_refl⟩
  rw [if_neg (Nat.not_lt.mpr h)]
  split
  · exact doorbell_next
  split
  · exact ⟨_, rfl, (kept_ite (slotDoorbell_kept Kept.refl) Kept.refl).queue⟩
  · exact ⟨_, rfl, (barStore_kept Kept.refl).queue⟩

theorem barRead_next {fn : Fn} {bar offset size : Nat} {s : State} (h : offset + size ≤ Machine.barSize fn bar) :
    ∃ t, barRead fn bar offset size s = .next t ∧ KeptQueue s t := by
  unfold barRead
  split
  · exact ⟨_, rfl, keptQueue_refl⟩
  rw [if_neg (Nat.not_lt.mpr h)]
  split
  · exact ⟨_, rfl, (hostMistake_kept (emit_kept Kept.refl)).queue⟩
  · exact ⟨_, rfl, (emit_kept Kept.refl).queue⟩

theorem poisonedTlp_next {fn : Fn} {bar offset : Nat} {s : State} (h : offset < Machine.barSize fn bar) :
    ∃ t, execPoisonedTlp fn bar offset s = .next t ∧ KeptQueue s t := by
  unfold execPoisonedTlp
  split
  · exact ⟨_, rfl, keptQueue_refl⟩
  rw [if_neg (Nat.not_le.mpr h)]
  exact ⟨_, rfl, (hostMistake_kept (emit_kept Kept.refl)).queue⟩

theorem accessOrPin_next {c : Instr} (h : isAccessOrPin c = true) (hb : ¬ beyondBar c) (s : State) :
    ∃ t, exec c s = .next t ∧ KeptQueue s t := by
  cases c with
  | mbxDoorbell _ _ => exact doorbell_next
  | mbxStatusWrite _ _ => exact onWrite_next (statusWrite_kept Kept.refl)
  | ringHeadWrite _ _ => exact onWrite_next (headWrite_kept Kept.refl)
  | barWrite _ _ _ _ => exact barWrite_next (Nat.not_lt.mp hb)
  | poisonedTlp _ _ _ => exact poisonedTlp_next (Nat.not_le.mp hb)
  | oversizeBarRead _ _ _ _ => exact barRead_next (Nat.not_lt.mp hb)
  | vfFunctionLevelReset _ => exact onWrite_next (flrVf_kept Kept.refl)
  | pfFunctionLevelReset => exact onWrite_next (flrPf_kept Kept.refl)
  | vfEnableClear => exact onWrite_next (clearVfEnable_kept Kept.refl)
  | vfEnableSet => exact onWrite_next (kept_ite ⟨rfl, rfl, id⟩ Kept.refl)
  | hotReset => exact ⟨_, rfl, (kept_ite (hotReset_kept Kept.refl) Kept.refl).queue⟩
  | collectorSelfFault _ => exact ⟨_, rfl, (kept_ite (collectorFault_kept Kept.refl) Kept.refl).queue⟩
  | supplyCollapse _ => exact ⟨_, rfl, (kept_ite (supplyCollapse_kept Kept.refl) Kept.refl).queue⟩
  | powerOn _ => exact ⟨_, rfl, release_keptQueue⟩
  | resetN _ _ => exact ⟨_, rfl, keptQueue_ite release_keptQueue keptQueue_refl⟩
  | perstN _ _ => exact ⟨_, rfl, keptQueue_ite release_keptQueue keptQueue_refl⟩
  | trstN => exact ⟨_, rfl, rfl, id⟩
  | bmcRead _ _ _ => exact ⟨_, rfl, (bmcRead_kept Kept.refl).queue⟩
  | testAccessPortInstruction _ => exact ⟨_, rfl, rfl, id⟩
  | _ => cases h

/-- Every command but an access outside its BAR completes, and leaves the queue and the memory's form. -/
theorem exec_next {c : Instr} (hb : ¬ beyondBar c) (s : State) : ∃ t, exec c s = .next t ∧ KeptQueue s t := by
  obtain h | ⟨-, h | h⟩ := command_kinds c
  · exact isMessage_next h s
  · exact isEvent_next h s
  · exact accessOrPin_next h hb s

theorem barRead_beyond {f : Fn} {bar offset size : Nat} {s : State} (h : reaches s f = true)
    (hb : Machine.barSize f bar < offset + size) : barRead f bar offset size s = .fault (.noSuchAddress offset) := by
  simp only [barRead, h, hb, Bool.not_true, if_true, Bool.false_eq_true, if_false]

theorem poisonedTlp_beyond {f : Fn} {bar offset : Nat} {s : State} (h : reaches s f = true)
    (hb : Machine.barSize f bar ≤ offset) : execPoisonedTlp f bar offset s = .fault (.noSuchAddress offset) := by
  simp only [execPoisonedTlp, h, hb, Bool.not_true, if_true, Bool.false_eq_true, if_false]

/-- An access outside its BAR does nothing where its function is not there, and stops elsewhere. -/
theorem exec_beyondBar {c : Instr} (hb : beyondBar c) (s : State) : exec c s = .next s ∨ ∃ f, exec c s = .fault f := by
  cases c with
  | barWrite fn bar offset bytes =>
    cases hr : reaches s fn
    · exact .inl (by simp only [exec, execBarWrite, barWrite, hr, Bool.not_false, if_true])
    · exact .inr ⟨_, barWrite_beyond hr hb⟩
  | oversizeBarRead fn bar offset size =>
    cases hr : reaches s fn
    · exact .inl (by simp only [exec, execOversizeBarRead, barRead, hr, Bool.not_false, if_true])
    · exact .inr ⟨_, barRead_beyond hr hb⟩
  | poisonedTlp fn bar offset =>
    cases hr : reaches s fn
    · exact .inl (by simp only [exec, execPoisonedTlp, hr, Bool.not_false, if_true])
    · exact .inr ⟨_, poisonedTlp_beyond hr hb⟩
  | _ => cases hb

/-- Whatever the command, a step that goes on leaves the queue and the memory's form. -/
theorem exec_keptQueue {c : Instr} {s t : State} (h : exec c s = .next t) : KeptQueue s t := by
  by_cases hb : beyondBar c
  · obtain he | ⟨f, he⟩ := exec_beyondBar hb s
    · cases he.symm.trans h
      exact keptQueue_refl
    · cases he.symm.trans h
  · obtain ⟨u, he, hk⟩ := exec_next hb s
    cases he.symm.trans h
    exact hk

theorem step_cons {s : State} {c : Instr} {rest : List Instr} (h : s.pending = c :: rest) : step s = exec c { s with pending := rest } := by
  simp only [step, h]

theorem step_nil {s : State} (h : s.pending = []) : step s = .next s := by
  simp only [step, h]

/-- Settles O1: by the definition of a step. -/
theorem stepRunsTheFrontCommand : Obligations.StepRunsTheFrontCommand := fun _ _ _ h => step_cons h

/-- Settles O2: by the definition of a step. -/
theorem emptyQueueIdles : Obligations.EmptyQueueIdles := fun _ h => step_nil h

/-- Settles O4: at reset no byte is listed. -/
theorem resetMemoryCanonical : Obligations.ResetMemoryCanonical := memory_wf_nil

/-- Settles O5: the kept form of the command at the front of the queue. -/
theorem stepKeepsMemoryCanonical : Obligations.StepKeepsMemoryCanonical := by
  intro s t hm hstep
  cases hq : s.pending with
  | nil =>
    cases (step_nil hq).symm.trans hstep
    exact hm
  | cons c rest =>
    rw [step_cons hq] at hstep
    exact (exec_keptQueue hstep).mem hm

/-- Settles O28: action 1 of the edge counts, and every other action keeps the count. -/
theorem tickAdvancesByOne : Obligations.TickAdvancesByOne := by
  intro env s t hr he
  cases (whenLive_running hr).symm.trans he
  exact tickEdge_tick

/-- Settles O59: the kept queue of the command at its front, and the BARs' bounds. -/
theorem stepConsumesOneCommand : Obligations.StepConsumesOneCommand := by
  refine ⟨?consumes, ?completes, ?write, ?read, ?poisoned⟩
  case consumes =>
    intro s t c rest hq hstep
    rw [step_cons hq] at hstep
    exact (exec_keptQueue hstep).pending
  case completes =>
    intro c s hwrite hread hpoisoned
    have hb : ¬ beyondBar c := by
      cases c with
      | barWrite fn bar offset bytes => exact Nat.not_lt.mpr (hwrite _ _ _ _ rfl)
      | oversizeBarRead fn bar offset size => exact Nat.not_lt.mpr (hread _ _ _ _ rfl)
      | poisonedTlp fn bar offset => exact Nat.not_le.mpr (hpoisoned _ _ _ rfl)
      | _ => exact id
    obtain ⟨t, he, hk⟩ := exec_next hb s
    exact ⟨t, he, hk.pending⟩
  case write => exact fun fn bar offset bytes s hr hb => barWrite_beyond hr hb
  case read => exact fun fn bar offset size s hr hb => barRead_beyond hr hb
  case poisoned => exact fun fn bar offset s hr hb => poisonedTlp_beyond hr hb

end Sys2Proof.Architecture

/-!
PROOFS. The safe state (R541 to R543, Table 5 of ch. 14): what it has frozen stays so at every step but a reset, since events
reach a running device only, messages are refused or answered with data, and an access of the host or a pin touches host
registers, counters and outputs alone. And what a start-up gives (chapters 02, 14, 15 and 16).
-/
namespace Sys2Proof.Architecture
open Sys2Proof Sys2Proof.Machine Sys2Proof.Safety

/-- From r to s: the safe state's flag, the steward's life, the queue, and everything that the safe state freezes. -/
structure Frozen (r s : State) : Prop where
  safe : s.collector.safe = r.collector.safe
  life : s.steward.life = r.steward.life
  tiers : s.tiers = r.tiers
  pairs : s.pairs = r.pairs
  links : s.links = r.links
  parts : s.parts = r.parts
  prefixes : s.prefixes = r.prefixes
  trust : s.trust = r.trust
  cores : s.cores = r.cores
  pending : s.pending = r.pending

theorem frozen_refl {s : State} : Frozen s s := ⟨rfl, rfl, rfl, rfl, rfl, rfl, rfl, rfl, rfl, rfl⟩

theorem Frozen.trans {q r s : State} (h : Frozen q r) (g : Frozen r s) : Frozen q s :=
  ⟨g.safe.trans h.safe, g.life.trans h.life, g.tiers.trans h.tiers, g.pairs.trans h.pairs, g.links.trans h.links,
    g.parts.trans h.parts, g.prefixes.trans h.prefixes, g.trust.trans h.trust, g.cores.trans h.cores, g.pending.trans h.pending⟩

/-- A change of the free values, the memory, the outputs, the host port, the board, and of the steward and the collector apart
from life and flag. -/
theorem frozen_mk {r x : State} {free mem outbox host board} {steward : Steward} {collector : Collector}
    (hsafe : collector.safe = x.collector.safe) (hlife : steward.life = x.steward.life) (h : Frozen r x) :
    Frozen r { x with free := free, mem := mem, outbox := outbox, host := host, board := board, steward := steward, collector := collector } :=
  h.trans ⟨hsafe, hlife, rfl, rfl, rfl, rfl, rfl, rfl, rfl, rfl⟩

theorem frozen_ite {r x y : State} {c : Prop} [Decidable c] (h : Frozen r x) (g : Frozen r y) : Frozen r (if c then x else y) := by
  split <;> assumption

theorem frozen_foldl {α : Type} {r s : State} {l : List α} {f : State → α → State} (hf : ∀ u a, Frozen r u → Frozen r (f u a))
    (h : Frozen r s) : Frozen r (l.foldl f s) := by
  induction l generalizing s with
  | nil => exact h
  | cons a l ih => exact ih (hf s a h)

theorem frozen_foldl_fst {α β : Type} {r : State} {s : State × β} {l : List α} {f : State × β → α → State × β}
    (hf : ∀ u a, Frozen r u.1 → Frozen r (f u a).1) (h : Frozen r s.1) : Frozen r (l.foldl f s).1 := by
  induction l generalizing s with
  | nil => exact h
  | cons a l ih => exact ih (hf s a h)

/-! ## What counting, host registers and outputs leave -/

theorem frozen_countDev {r s : State} {id qual n : Nat} (h : Frozen r s) : Frozen r (countDev id qual n s).1 := by
  refine frozen_foldl_fst (fun u k hu => ?_) h
  dsimp only
  split
  · exact frozen_mk rfl rfl hu
  · exact hu

theorem frozen_devEvent {r s : State} {id qual n : Nat} (h : Frozen r s) : Frozen r (devEvent id qual n s) := by
  unfold devEvent
  dsimp only
  exact frozen_ite h (frozen_ite (frozen_countDev h) (frozen_countDev (frozen_countDev h)))

theorem frozen_hostMistake {r s : State} {f : Nat} (h : Frozen r s) : Frozen r (hostMistake f s) := frozen_devEvent h

theorem frozen_setFn {r s : State} {f : Nat} {x : FnState} (h : Frozen r s) : Frozen r (setFn f x s) := frozen_mk rfl rfl h

theorem frozen_takeFree {r s : State} (h : Frozen r s) : Frozen r (takeFree s).2 := frozen_mk rfl rfl h

theorem frozen_modFn {r s : State} {f : Nat} {g : FnState → FnState} (h : Frozen r s) : Frozen r (modFn f g s) :=
  frozen_mk rfl rfl h

theorem frozen_freshFn {r s : State} {f : Nat} (h : Frozen r s) : Frozen r (freshFn f s) :=
  frozen_mk rfl rfl (frozen_setFn h)

theorem frozen_emit {r s : State} {o : Output} (h : Frozen r s) : Frozen r (emit o s) :=
  frozen_mk rfl rfl h

theorem frozen_write {r s : State} {sp : Space} {a : Nat} {bs : List Byte} (h : Frozen r s) : Frozen r (s.write sp a bs) :=
  frozen_mk rfl rfl h

theorem frozen_reply {r s : State} {f op status handle : Nat} {hdr : Hdr} {result : W64} {data : List Byte} (h : Frozen r s) :
    Frozen r (reply f op hdr status result handle data s) := by
  rw [reply_eq]
  exact frozen_mk rfl rfl h

/-! ## Messages in the safe state -/

theorem inSafe_not_live {s : State} (hs : InSafe s) : live s = false := by
  unfold InSafe at hs
  simp [live, hs]

/-- R542: in the safe state every message but DEVICE_INFO is refused, and that one answers data. -/
theorem message_frozen {fn : Fn} {hdr : Hdr} {op : Nat} {pf : Bool} {body : Body} {s t : State} (hs : InSafe s)
    (hl : s.steward.life = .ready) (hb : op = 0x0001 → body = infoBody) (he : message fn hdr op pf body s = .next t) : Frozen s t := by
  have hreply : ∀ code, Frozen s (reply fn op hdr code 0 0 [] s) := fun _ => frozen_reply frozen_refl
  cases he
  refine frozen_ite frozen_refl ?_
  by_cases ho : op = 0x0001
  · rw [hb ho]
    exact frozen_ite (hreply _) (frozen_ite (hreply _) (frozen_ite (hreply _) (frozen_reply frozen_refl)))
  · have hm : modeRefuses op s = true := by
      unfold InSafe at hs
      simp [modeRefuses, hl, hs, ho]
    rw [if_pos hm]
    exact hreply _

theorem exec_opcode_info {c : Instr} {fn : Fn} {hdr : Hdr} {pf : Bool} {s : State} (hm : messageOf c = some (fn, hdr, 0x0001, pf)) :
    exec c s = message fn hdr 0x0001 false infoBody s := by
  cases c with
  | deviceInfo _ _ => cases hm; rfl
  | _ => cases hm

theorem exec_message_frozen {c : Instr} {fn : Fn} {hdr : Hdr} {op : Nat} {pf : Bool} {s t : State}
    (hm : messageOf c = some (fn, hdr, op, pf)) (hs : InSafe s) (hl : s.steward.life = .ready) (he : exec c s = .next t) : Frozen s t := by
  by_cases ho : op = 0x0001
  · subst ho
    rw [exec_opcode_info hm] at he
    exact message_frozen hs hl (fun _ => rfl) he
  · obtain ⟨body, hb⟩ := exec_eq_message (s := s) hm
    rw [hb] at he
    exact message_frozen hs hl (fun h => absurd h ho) he

/-! ## Accesses and pins in the safe state -/

theorem onWrite_frozen {f : Nat} {g : State → State} {s t : State} (h : Frozen s (g s)) (he : onWrite f g s = .next t) : Frozen s t := by
  cases he
  exact frozen_ite h frozen_refl

theorem frozen_statusWrite {f : Nat} {v : W64} {s : State} : Frozen s (statusWrite f v s) :=
  frozen_ite (frozen_modFn frozen_refl) frozen_refl

/-- R542: in the safe state an accepted HEAD frees space and nothing posts into it. -/
theorem frozen_headWrite {f : Nat} {v : W64} {s : State} (hs : InSafe s) : Frozen s (headWrite f v s) := by
  unfold headWrite
  split
  · dsimp only
    rw [if_pos (by exact hs)]
    exact frozen_modFn frozen_refl
  · exact frozen_hostMistake frozen_refl

theorem frozen_barStore {f bar offset : Nat} {bs : List Byte} {s : State} (hs : InSafe s) : Frozen s (barStore f bar offset bs s) := by
  have hmistake : Frozen s (hostMistake f s) := frozen_hostMistake frozen_refl
  unfold barStore
  dsimp only
  exact frozen_ite hmistake (frozen_ite (frozen_ite hmistake (frozen_write frozen_refl))
    (frozen_ite (frozen_ite (frozen_headWrite hs) hmistake) (frozen_ite (frozen_ite frozen_statusWrite frozen_refl) hmistake)))

/-- R542: the message in the window meets the rules of a message in the safe state. -/
theorem doorbell_frozen {f : Fn} {v : W64} {s t : State} (hs : InSafe s) (hl : s.steward.life = .ready)
    (he : doorbell f v s = .next t) : Frozen s t := by
  have hreply : ∀ op hdr code, Frozen s (reply f op hdr code 0 0 [] s) := fun _ _ _ => frozen_reply frozen_refl
  unfold doorbell at he
  dsimp only at he
  split at he
  · cases he; exact frozen_refl
  split at he
  · cases he; exact frozen_hostMistake frozen_refl
  split at he
  · cases he; exact hreply _ _ _
  next hmode =>
  split at he
  · cases he; exact hreply _ _ _
  have ho : s.readNat (.window f) 0 32 % 65536 = 0x0001 := by
    unfold InSafe at hs
    simp [modeRefuses, hl, hs] at hmode
    exact hmode.1
  rw [ho] at he
  split at he
  · cases he; exact hreply _ _ _
  next a ha =>
  cases (need_ok_iff.mp ha).2
  exact message_frozen hs hl (fun _ => rfl) he

theorem barWrite_frozen {f : Fn} {bar offset : Nat} {bs : List Byte} {s t : State} (hs : InSafe s) (hl : s.steward.life = .ready)
    (he : barWrite f bar offset bs s = .next t) : Frozen s t := by
  unfold barWrite at he
  split at he
  · cases he; exact frozen_refl
  split at he
  · cases he
  split at he
  · exact doorbell_frozen hs hl he
  split at he
  · cases (whenLive_safe hs).symm.trans he; exact frozen_refl
  · cases he; exact frozen_barStore hs

theorem barRead_frozen {f bar offset size : Nat} {s t : State} (he : barRead f bar offset size s = .next t) : Frozen s t := by
  unfold barRead at he
  split at he
  · cases he; exact frozen_refl
  split at he
  · cases he
  split at he
  · cases he; exact frozen_hostMistake (frozen_emit frozen_refl)
  · cases he; exact frozen_emit frozen_refl

theorem poisonedTlp_frozen {f : Fn} {bar offset : Nat} {s t : State} (he : execPoisonedTlp f bar offset s = .next t) : Frozen s t := by
  unfold execPoisonedTlp at he
  split at he
  · cases he; exact frozen_refl
  split at he
  · cases he
  · cases he; exact frozen_hostMistake (frozen_emit frozen_refl)

/-! ## Resets of functions in the safe state put back registers only (R63) -/

theorem frozen_live {r s : State} (h : Frozen r s) (hr : live r = false) : live s = false := by
  rw [live, h.life, h.safe]
  exact hr

theorem frozen_flrVf {r s : State} {p : Nat} (hr : live r = false) (h : Frozen r s) : Frozen r (flrVf p s) := by
  rw [flrVf, if_neg (by simp [frozen_live h hr])]
  exact frozen_freshFn h

theorem frozen_clearVfEnable {s : State} (hs : live s = false) : Frozen s (clearVfEnable s) := by
  have hvfs : Frozen s ((List.range 16).foldl (fun s p => flrVf p s) s) := frozen_foldl (fun _ _ hu => frozen_flrVf hs hu) frozen_refl
  exact frozen_ite (frozen_mk rfl rfl hvfs) frozen_refl

theorem frozen_flrPf {s : State} (hs : live s = false) : Frozen s (flrPf s) := by
  rw [flrPf, if_neg (by simp [hs])]
  exact frozen_freshFn (frozen_clearVfEnable hs)

theorem frozen_hotReset {s : State} (hs : live s = false) : Frozen s (hotReset s) :=
  frozen_mk rfl rfl (frozen_takeFree (frozen_flrPf hs))

theorem frozen_h0Down {s : State} (hs : live s = false) : Frozen s (h0Down s) :=
  frozen_ite (frozen_emit (frozen_mk rfl rfl (frozen_flrPf hs))) frozen_refl

/-- R543: the collector's own fault overwrites the record, and nothing else in the safe state. -/
theorem frozen_collectorFault {mask : W64} {s : State} (hs : InSafe s) : Frozen s (collectorFault mask s) := by
  unfold collectorFault
  have hsafe : s.collector.safe = true := hs
  simp only [hsafe, if_true]
  exact frozen_mk hsafe.symm rfl frozen_refl

theorem frozen_loseCollector {r s : State} {before : List Output} (hr : live r = false) (h : Frozen r s) : Frozen r (loseCollector before s) := by
  have hrecord := frozen_mk (free := s.free) (mem := s.mem) (outbox := before ++ (s.outbox.drop before.length).filter fun o => match o with | .msix _ _ => false | _ => true)
    (host := s.host) (board := s.board) (steward := s.steward) (collector := { s.collector with first := {} }) rfl rfl h
  exact hrecord.trans (frozen_h0Down (frozen_live hrecord hr))

/-- R574: in the safe state a further rail may take the steward or the collector, and H0 with it. -/
theorem frozen_supplyCollapse {rail : Nat} {s : State} (hs : InSafe s) : Frozen s (supplyCollapse rail s) := by
  have hlost : ∀ f, Frozen s (if s.collector.safe then { s with
      collector.stewardLost := s.collector.stewardLost || stewardRail s rail
      collector.recordLost := s.collector.recordLost || collectorRail rail } else enterSafe f (stewardRail s rail) (collectorRail rail) s) := by
    intro f
    rw [if_pos (by exact hs)]
    exact frozen_mk rfl rfl frozen_refl
  exact frozen_ite (frozen_loseCollector (inSafe_not_live hs) (frozen_mk rfl rfl (hlost _))) (frozen_mk rfl rfl (hlost _))

theorem accessOrPin_frozen {c : Instr} {s t : State} (ha : isAccessOrPin c = true) (hc : isReset c = false) (hs : InSafe s)
    (hl : s.steward.life = .ready) (he : exec c s = .next t) : Frozen s t := by
  have hlive := inSafe_not_live hs
  cases c with
  | mbxDoorbell _ _ => exact doorbell_frozen hs hl he
  | mbxStatusWrite _ _ => exact onWrite_frozen frozen_statusWrite he
  | ringHeadWrite _ _ => exact onWrite_frozen (frozen_headWrite hs) he
  | barWrite _ _ _ _ => exact barWrite_frozen hs hl he
  | poisonedTlp _ _ _ => exact poisonedTlp_frozen he
  | oversizeBarRead _ _ _ _ => exact barRead_frozen he
  | vfFunctionLevelReset _ => exact onWrite_frozen (frozen_flrVf hlive frozen_refl) he
  | pfFunctionLevelReset => exact onWrite_frozen (frozen_flrPf hlive) he
  | vfEnableClear => exact onWrite_frozen (frozen_clearVfEnable hlive) he
  | vfEnableSet =>
    cases he; exact frozen_ite (frozen_ite (frozen_mk rfl rfl frozen_refl) frozen_refl) frozen_refl
  | hotReset => cases he; exact frozen_ite (frozen_hotReset hlive) frozen_refl
  | collectorSelfFault _ => cases he; exact frozen_ite (frozen_collectorFault hs) frozen_refl
  | supplyCollapse _ => cases he; exact frozen_ite (frozen_supplyCollapse hs) frozen_refl
  | trstN => cases he; exact frozen_mk rfl rfl frozen_refl
  | bmcRead _ _ _ => cases he; exact frozen_emit frozen_refl
  | testAccessPortInstruction _ => cases he; exact frozen_emit (frozen_mk rfl rfl frozen_refl)
  | powerOn _ => cases hc
  | resetN _ _ => cases hc
  | perstN _ _ => cases hc
  | _ => cases ha

theorem exec_frozen {c : Instr} {s t : State} (hc : isReset c = false) (hs : InSafe s) (hl : s.steward.life = .ready)
    (he : exec c s = .next t) : Frozen s t := by
  obtain ⟨fn, hdr, op, pf, body, hm, -, -⟩ | ⟨-, ⟨f, hf, -⟩ | ha⟩ := command_kinds c
  · exact exec_message_frozen hm hs hl he
  · rw [hf, whenLive_safe hs] at he
    cases he
    exact frozen_refl
  · exact accessOrPin_frozen ha hc hs hl he

/-- Settles O24: by the kind of the command at the front of the queue. -/
theorem safeStateHolds : Obligations.SafeStateHolds := by
  intro s t c rest hs hl hq hc hstep
  rw [step_cons hq] at hstep
  have h := exec_frozen (s := { s with pending := rest }) hc hs hl hstep
  exact ⟨h.safe.trans hs, h.life.trans hl, h.tiers, h.pairs, h.links, h.parts, h.prefixes, h.trust, h.cores, h.pending⟩

/-- Settles O3: the values of a start-up, each by evaluation; a table that holds nothing gives its default. -/
theorem resetValues : Obligations.ResetValues := by
  have hfn : ∀ f : Nat, (fnOf State.reset f).ring = none ∧ (fnOf State.reset f).busy = false ∧ (fnOf State.reset f).replyReady = false :=
    fun _ => ⟨rfl, rfl, rfl⟩
  have hcore : ∀ q : Fin 192, coreAt State.reset q.val = 52 * (q.val / 48) + q.val % 48 := fun _ => rfl
  have hscope : ∀ scope : Nat, genOf State.reset scope = 1 ∧ seqOf State.reset scope = 1 := fun _ => ⟨rfl, rfl⟩
  exact ⟨rfl, rfl, rfl, rfl, hfn, fun _ => rfl, rfl, rfl, rfl, rfl, rfl, hcore, hscope⟩

end Sys2Proof.Architecture

/-!
PROOFS. The answers of messages, said once for a body that answers, refuses or begins a long command; then the message in
the window (R71).
-/
namespace Sys2Proof.Architecture
open Sys2Proof Sys2Proof.Machine Sys2Proof.Safety

/-! ## A message by what its body gives -/

section Answers
variable {fn : Fn} {hdr : Hdr} {op : Nat} {body : Body} {s t : State} {result : W64} {data : List Byte} {code : Nat}
  {part : Option Nat} {kind : Nat} {lop : LongOp} {after : Nat → State → State}

theorem heard_answered (hh : Heard s fn hdr) (ho : op ≠ 0x0710) (hb : body s = .ok { st := t, result := result, data := data }) :
    message fn hdr op false body s = answered fn op hdr result data t := by
  rw [message_heard hh ho, hb]; rfl

theorem heard_refused (hh : Heard s fn hdr) (ho : op ≠ 0x0710) (hb : body s = .error code) :
    message fn hdr op false body s = refusedWith fn op hdr code s := by
  rw [message_heard hh ho, hb]; rfl

theorem heard_accepted (hh : Heard s fn hdr) (ho : op ≠ 0x0710) (hb : body s = long fn hdr part kind lop t result after)
    (hroom : Room t fn) : message fn hdr op false body s = accepted fn op hdr part kind lop result after t := by
  rw [message_heard hh ho, hb, long_room hroom]; rfl

theorem heardPf_answered (hh : HeardPf s hdr) (ho : op ≠ 0x0710) (hb : body s = .ok { st := t, result := result, data := data }) :
    message 0 hdr op true body s = answered 0 op hdr result data t := by
  rw [message_heard_pf hh ho, hb]; rfl

theorem heardPf_refused (hh : HeardPf s hdr) (ho : op ≠ 0x0710) (hb : body s = .error code) :
    message 0 hdr op true body s = refusedWith 0 op hdr code s := by
  rw [message_heard_pf hh ho, hb]; rfl

theorem heardPf_accepted (hh : HeardPf s hdr) (ho : op ≠ 0x0710) (hb : body s = long 0 hdr part kind lop t result after)
    (hroom : Room t 0) : message 0 hdr op true body s = accepted 0 op hdr part kind lop result after t := by
  have hroom' : (fnOf t 0).overflow.length < 1024 := hroom
  rw [message_heard_pf hh ho, hb, long_room hroom']; rfl

end Answers

/-- A condition that holds lets a body go on; one that fails refuses. -/
theorem need_of {α : Type} {c : Bool} {code : Nat} {k : Except Nat α} (h : c = true) : need c code k = k := by rw [h]; rfl

theorem need_not {α : Type} {c : Bool} {code : Nat} {k : Except Nat α} (h : c = false) : need c code k = .error code := by rw [h]; rfl

/-! ## The message in the window -/

section Doorbell
variable {f : Fn} {v : W64} {s : State}

theorem doorbell_busy (hr : Running s) (hf : fnExists s f = true) (hb : (fnOf s f).busy = true) :
    doorbell f v s = .next (hostMistake f s) := by
  simp [doorbell, answers_of_running hr, hf, hb]

/-- A header without a mistake: the window's opcode decides. -/
theorem doorbell_runs {a : Act} (hr : Running s) (hf : fnExists s f = true) (hb : (fnOf s f).busy = false)
    (hok : requestOk (s.readNat (.window f) 0 32) v = true) (ho : s.readNat (.window f) 0 32 % 65536 ≠ 0x0710)
    (ha : runOpcode s f (windowHdr f (s.readNat (.window f) 0 32) (s.read (.window f) 0 (s.readNat (.window f) 0 32 / 65536 % 65536)))
      (s.read (.window f) 0 (s.readNat (.window f) 0 32 / 65536 % 65536)) (s.readNat (.window f) 0 32 % 65536) = .ok a) :
    doorbell f v s = a s := by
  simp only [doorbell, answers_of_running hr, hf, hb, hok, modeRefuses_of_running hr ho, ha, Bool.and_self, Bool.not_true,
    Bool.false_eq_true, if_false]

theorem doorbell_malformed (hr : Running s) (hf : fnExists s f = true) (hb : (fnOf s f).busy = false)
    (hok : requestOk (s.readNat (.window f) 0 32) v = false) (ho : s.readNat (.window f) 0 32 % 65536 ≠ 0x0710) :
    doorbell f v s = refusedWith f (s.readNat (.window f) 0 32 % 65536)
      (windowHdr f (s.readNat (.window f) 0 32) (s.read (.window f) 0 (s.readNat (.window f) 0 32 / 65536 % 65536))) 0x0201 s := by
  simp only [doorbell, answers_of_running hr, hf, hb, hok, modeRefuses_of_running hr ho, Bool.and_self, Bool.not_true, Bool.not_false,
    Bool.false_eq_true, if_false, if_true, refusedWith]

end Doorbell

theorem read_length (s : State) (sp : Space) (a n : Nat) : (s.read sp a n).length = n := by
  simp [State.read]

/-- The bytes of a longer read from an offset on are a read at that offset. -/
theorem read_drop_take (s : State) (sp : Space) (a n o k : Nat) (h : o + k ≤ n) :
    ((s.read sp a n).drop o).take k = s.read sp (a + o) k := by
  refine List.ext_getElem (by simp [State.read]; omega) fun i hi hi' => ?_
  simp only [State.read, List.getElem_take, List.getElem_drop, List.getElem_map, List.getElem_range, Nat.add_assoc]

theorem runOpcode_info {s : State} {f : Fn} {hdr : Hdr} {b : List Byte} (h : b.length = 32) :
    runOpcode s f hdr b 0x0001 = .ok (execDeviceInfo f hdr) :=
  need_of (by simp [h])

theorem runOpcode_tickSet {s : State} {f : Fn} {hdr : Hdr} {b : List Byte} (h : b.length = 40) :
    runOpcode s f hdr b 0x0020 = .ok (execTickSet f hdr (opWord b 0)) :=
  need_of (by simp [h])

/-- Settles O7: the header of the window gives the opcode and the length, and they the message. -/
theorem doorbellRunsTheWindow : Obligations.DoorbellRunsTheWindow := by
  refine ⟨?info, ?tick, ?busy, ?malformed⟩
  case info =>
    intro fn v s hr hf hb hok hw hc
    have hop : s.readNat (.window fn) 0 32 % 65536 = 0x0001 := by omega
    have hlen : s.readNat (.window fn) 0 32 / 65536 % 65536 = 32 := by omega
    have hrun := doorbell_runs (a := execDeviceInfo fn _) hr hf hb hok (by omega) (by
      rw [hop, hlen]; exact runOpcode_info (read_length ..))
    exact hrun.trans (message_deviceInfo (answers_of_running hr) ⟨hf, hc⟩)
  case tick =>
    intro v s hr hf hb hok hw hc hl hu hg
    have hop : s.readNat (.window 0) 0 32 % 65536 = 0x0020 := by omega
    have hlen : s.readNat (.window 0) 0 32 / 65536 % 65536 = 40 := by omega
    have hne : s.readNat (.window 0) 0 32 % 65536 ≠ 0x0710 := by omega
    have hperiod : (opWord (s.read (.window 0) 0 40) 0).toNat = s.readNat (.window 0) 32 8 := by
      rw [opWord, opNat, read_drop_take _ _ _ _ _ _ (by omega)]
      exact Nat.mod_eq_of_lt (Nat.lt_of_le_of_lt hu (by decide))
    have hrun := doorbell_runs (f := 0) (a := execTickSet 0 _ _) hr hf hb hok hne (by
      rw [Fin.val_zero, hop, hlen]; exact runOpcode_tickSet (read_length ..))
    refine (hrun.trans (exec_tickSet_heard ⟨hr, hf, hc⟩)).trans ?_
    rw [tickBody_inRange (by rw [hperiod]; exact hl) (by rw [hperiod]; exact hu), hg, hperiod]
    rfl
  case busy => exact fun fn v s hr hf hb => doorbell_busy hr hf hb
  case malformed => exact fun fn v s hr hf hb hok ho => doorbell_malformed hr hf hb hok ho

end Sys2Proof.Architecture

/-!
PROOFS. Resets of functions (R62 to R64).
-/
namespace Sys2Proof.Architecture
open Sys2Proof Sys2Proof.Machine Sys2Proof.Safety

/-- What no step of a fold changes, the fold does not change. -/
theorem foldl_same {σ α γ : Type} (g : σ → γ) {f : σ → α → σ} (h : ∀ s a, g (f s a) = g s) (l : List α) (s : σ) :
    g (l.foldl f s) = g s := by
  induction l generalizing s with
  | nil => rfl
  | cons a l ih => exact (ih (f s a)).trans (h s a)

/-! ## VF Enable, which no end of work changes -/

/-- All of a state but its memory. -/
def withoutMem (s : State) : State := { s with mem := [] }

/-- Making bytes read 0 changes only the memory. -/
theorem withoutMem_clear (s : State) (sp : Space) (a n : Nat) : withoutMem (s.clear sp a n) = withoutMem s := by
  cases sp
  case unified =>
    change withoutMem (clearUnified s a n) = withoutMem s
    exact foldl_same withoutMem (fun s i => by rfl) _ s
  all_goals rfl

@[simp] theorem clear_host (s : State) (sp : Space) (a n : Nat) : (s.clear sp a n).host = s.host := by
  change (withoutMem (s.clear sp a n)).host = (withoutMem s).host
  rw [withoutMem_clear]

@[simp] theorem writeNat_host (s : State) (sp : Space) (a k v : Nat) : (s.writeNat sp a k v).host = s.host := rfl

@[simp] theorem touchPage_host (g : Nat) (s : State) : (touchPage g s).host = s.host := by
  unfold touchPage
  split
  · rfl
  · dsimp only
    split <;> rfl

@[simp] theorem touchPages_host (l : List Nat) (s : State) : (touchPages l s).host = s.host :=
  foldl_same (fun s : State => s.host) (fun s a => touchPage_host a s) l s

@[simp] theorem showControl_host (p sp : Nat) (seqs pages : List Nat) (s : State) : (showControl p sp seqs pages s).host = s.host := by
  unfold showControl
  split
  · rfl
  · refine (foldl_same (fun s : State => s.host) (fun s a => by simp) ..).trans ?_
    exact foldl_same (fun s : State => s.host) (fun s a => by split <;> simp) ..

@[simp] theorem freePage_host (p sp id : Nat) (s : State) : (freePage p sp id s).host = s.host :=
  showControl_host ..

@[simp] theorem discardSeq_host (p : Nat) (st : SeqStage) (s : State) : (discardSeq p st s).host = s.host :=
  (showControl_host ..).trans (foldl_same (fun s : State => s.host) (fun s a => freePage_host _ _ a s) _ _)

@[simp] theorem releaseSpills_host (h : Nat) (s : State) : (releaseSpills h s).host = s.host := by
  unfold releaseSpills
  split <;> rfl

theorem dropQueued_vfEnable (h : Nat) (s : State) : (dropQueued h s).host.vfEnable = s.host.vfEnable := by
  unfold dropQueued
  split
  · rfl
  · rw [modPart_host, releaseSpills_host]
    exact foldl_same (fun s : State => s.host.vfEnable) (fun s q => by rw [discardSeq_host]) _ _

theorem dropPfSlots_vfEnable (s : State) : (dropPfSlots s).host.vfEnable = s.host.vfEnable := by
  refine foldl_same (fun s : State => s.host.vfEnable) (fun s e => ?_) _ _
  split
  · exact dropQueued_vfEnable _ _
  · rfl

theorem clearVfEnable_vfEnable (s : State) : (clearVfEnable s).host.vfEnable = false := by
  unfold clearVfEnable
  split
  · rfl
  · exact Bool.eq_false_iff.mpr ‹_›

/-! ## The registers of a function after its reset -/

theorem fnOf_freshFn (f : Nat) (s : State) : fnOf (freshFn f s) f = { overflow := (fnOf s f).overflow } := fnOf_setFn_same ..

theorem flrVf_running {p : Nat} {s : State} (hr : Running s) : flrVf p s = serveAllocs (freshFn (p + 1) (endPartition true p s)) :=
  if_pos (live_eq_true.mpr hr)

theorem flrVf_not_live {p : Nat} {s : State} (h : live s = false) : flrVf p s = freshFn (p + 1) s := by simp [flrVf, h]

theorem flrPf_running {s : State} (hr : Running s) : flrPf s = freshFn 0 (dropPfSlots (clearVfEnable s)) := by
  simp [flrPf, live_eq_true.mpr hr]

/-- The PF's reset puts the PF's registers back and leaves VF Enable 0. -/
theorem flrPf_registers {s : State} (hr : Running s) :
    (flrPf s).host.vfEnable = false ∧ (fnOf (flrPf s) 0).ring = none ∧ (fnOf (flrPf s) 0).slots = [] ∧ (fnOf (flrPf s) 0).busy = false ∧
      (fnOf (flrPf s) 0).replyReady = false := by
  rw [flrPf_running hr, fnOf_freshFn]
  exact ⟨(dropPfSlots_vfEnable _).trans (clearVfEnable_vfEnable s), rfl, rfl, rfl, rfl⟩

theorem exec_hotReset_running {s : State} (hr : Running s) : exec .hotReset s = .next (hotReset s) :=
  congrArg _ (if_pos (by simp [hr.1]))

/-- The width and the rate of a trained link are of Table 1 of ch. 02. -/
theorem trained_mem (r : W64) : (trained r).1 ∈ [4, 8, 16] ∧ (trained r).2 ∈ [25, 50, 80, 160, 320] := by
  have hw : ∀ i < 3, [16, 8, 4].getD i 16 ∈ [4, 8, 16] := by decide
  have hg : ∀ i < 5, [320, 160, 80, 50, 25].getD i 320 ∈ [25, 50, 80, 160, 320] := by decide
  exact ⟨hw _ (Nat.mod_lt _ (by decide)), hg _ (Nat.mod_lt _ (by decide))⟩

/-- Settles O8: each reset is its meaning on a device that H0 reaches; the registers are those of `freshFn`, and VF Enable
stays 0 because no end of work sets it. -/
theorem functionResets : Obligations.FunctionResets := by
  refine ⟨?vf, ?vfSilent, ?clear, ?cleared, ?set, ?pf, ?hot, ?pfRegisters, ?hotRegisters, trained_mem, ?fresh, ?silent⟩
  case vf => exact fun vf s hr h => (onWrite_reaches h).trans (congrArg _ (flrVf_running hr))
  case vfSilent => exact fun vf s hl h => (onWrite_reaches h).trans (congrArg _ (flrVf_not_live hl))
  case clear => exact fun s h hv => (onWrite_reaches h).trans (congrArg _ (if_pos hv))
  case cleared =>
    intro s h
    refine ⟨clearVfEnable s, onWrite_reaches h, clearVfEnable_vfEnable s, fun vf => ?_⟩
    simp [fnExists, clearVfEnable_vfEnable]
  case set =>
    intro s hr h
    refine (onWrite_reaches h).trans ?_
    simp [hr.1]
  case pf => exact fun s hr h => (onWrite_reaches h).trans (congrArg _ (flrPf_running hr))
  case hot =>
    intro s hr
    rw [exec_hotReset_running hr, hotReset, flrPf_running hr]
  case pfRegisters => exact fun s hr h => ⟨flrPf s, onWrite_reaches h, flrPf_registers hr⟩
  case hotRegisters =>
    intro s hr
    obtain ⟨hv, hring, hslots, hbusy, hready⟩ := flrPf_registers hr
    exact ⟨hotReset s, exec_hotReset_running hr, hv, hring, hslots, hbusy, hready, rfl⟩
  case fresh =>
    intro f s
    rw [fnOf_freshFn]
    exact ⟨rfl, rfl, rfl, rfl⟩
  case silent =>
    intro h s r hg
    refine ⟨{ r with state := .ended, status := 0x0301, owed := false }, ?_, rfl, rfl, rfl, rfl, rfl, rfl, rfl, rfl⟩
    exact getHandle_modHandle_same.trans (by rw [hg]; rfl)

end Sys2Proof.Architecture

/-!
PROOFS. CAST_ON and BIND_OFF (R505 to R507). What posting an entry leaves, said once; and that nothing which serves waiting
allocations casts a partition on.
-/
namespace Sys2Proof.Architecture
open Sys2Proof Sys2Proof.Machine Sys2Proof.Safety

/-! ## What the end of a handle leaves -/

/-- All of a state but what the posting of an entry may change: host memory, interrupts, the functions' registers and the handles. -/
def beyondPosting (s : State) : State := { s with mem := [], outbox := [], host.fns := [], steward.handles := [] }

theorem beyondPosting_setFn (f : Nat) (x : FnState) (s : State) : beyondPosting (setFn f x s) = beyondPosting s := rfl

theorem beyondPosting_write (sp : Space) (a : Nat) (bs : List Byte) (s : State) : beyondPosting (s.write sp a bs) = beyondPosting s := rfl

theorem beyondPosting_setHandle (h : Nat) (r : HandleRec) (s : State) : beyondPosting (setHandle h r s) = beyondPosting s := rfl

theorem beyondPosting_ite {c : Prop} [Decidable c] {r s t : State} (hs : beyondPosting s = beyondPosting r)
    (ht : beyondPosting t = beyondPosting r) : beyondPosting (if c then s else t) = beyondPosting r := by
  split <;> assumption

theorem beyondPosting_ringVector (f v : Nat) (s : State) : beyondPosting (ringVector f v s) = beyondPosting s := by
  unfold ringVector
  dsimp only
  split
  · rfl
  · split <;> rfl

theorem beyondPosting_writeEntry (f : Nat) (r : Ring) (c : Completion) (s : State) : beyondPosting (writeEntry f r c s) = beyondPosting s := by
  have hwritten : ∀ t : State, beyondPosting t = beyondPosting s → beyondPosting (match c.cvec with
      | some v => ringVector f v t
      | none => t) = beyondPosting s := by
    intro t ht
    cases c.cvec with
    | none => exact ht
    | some v => exact (beyondPosting_ringVector f v t).trans ht
  unfold writeEntry
  refine hwritten _ (beyondPosting_ite ?_ ?_)
  · rw [beyondPosting_setFn, beyondPosting_write]
  · rw [beyondPosting_write, beyondPosting_setFn, beyondPosting_write]

theorem beyondPosting_postEntry (f : Nat) (c : Completion) (s : State) : beyondPosting (postEntry f c s) = beyondPosting s := by
  unfold postEntry
  dsimp only
  split
  · rfl
  · split
    · rfl
    · exact beyondPosting_writeEntry ..

theorem beyondPosting_complete (h : Nat) (st : HState) (status : Nat) (result : W64) (epoch : Nat) (s : State) :
    beyondPosting (complete h st status result epoch s) = beyondPosting s := by
  unfold complete
  split
  · rfl
  · dsimp only
    have hrecord : ∀ c : Bool, ∀ r : HandleRec, beyondPosting (if c = true then s else setHandle h r s) = beyondPosting s :=
      fun c r => beyondPosting_ite rfl (beyondPosting_setHandle ..)
    split
    · rw [beyondPosting_postEntry, hrecord]
    · exact hrecord _ _

theorem beyondPosting_finish (h status : Nat) (result : W64) (s : State) :
    beyondPosting (finish h status result s) = beyondPosting s :=
  beyondPosting_complete ..

@[simp] theorem finish_parts (h status : Nat) (result : W64) (s : State) : (finish h status result s).parts = s.parts := by
  change (beyondPosting (finish h status result s)).parts = (beyondPosting s).parts
  rw [beyondPosting_finish]

/-! ## The function's registers in a cast-on -/

@[simp] theorem raiseGeneration_host (p : Nat) (s : State) : (raiseGeneration p s).host = s.host := by
  unfold raiseGeneration settingsTrigger
  dsimp only
  split
  · split <;> rfl
  · rfl

@[simp] theorem clearT0_host (x : Partition) (s : State) : (clearT0 x s).host = s.host := by
  unfold clearT0
  rw [foldl_same (fun s : State => s.host) (fun s b => by rfl)]
  exact foldl_same (fun s : State => s.host) (fun s c => by rw [clear_host, clear_host]) _ _

@[simp] theorem idleCores_host (x : Partition) (s : State) : (idleCores x s).host = s.host :=
  foldl_same (fun s : State => s.host) (fun s c => by rfl) _ _

@[simp] theorem castOn_host (d : BitVec 1024) (s : State) : (castOn d s).host = s.host := by
  rw [castOn, idleCores_host]
  exact (clearT0_host ..).trans (setPart_host ..)

theorem castBody_refused {hdr : Hdr} {d : BitVec 1024} {s : State} (hf : partitionFormOk s d = true)
    (hp : (getPart s (fld d 603 600)).isSome = true) : castBody 0 hdr d s = .error 0x0205 := by
  simp only [castBody, need_of hf]
  exact need_not (by simpa using hp)

theorem castBody_accepted {hdr : Hdr} {d : BitVec 1024} {s : State} (hf : partitionFormOk s d = true)
    (hp : getPart s (fld d 603 600) = none) (hfit : partitionFits s d = true)
    (hg : genOf s (fld d 603 600) ≠ tget s.trust.inForce.genCeil (fld d 603 600) 64) :
    castBody 0 hdr d s = long 0 hdr (some (fld d 603 600)) 8 .none (castOn d (raiseGeneration (fld d 603 600) s)) (after := fun h s => finish h 0 0 s) := by
  simp only [castBody, need_of hf]
  rw [need_of (by rw [hp]; rfl), need_of (by simp [hfit, hg])]

/-! ## No waiting allocation casts a partition on -/

@[simp] theorem clear_parts (s : State) (sp : Space) (a n : Nat) : (s.clear sp a n).parts = s.parts := by
  change (withoutMem (s.clear sp a n)).parts = (withoutMem s).parts
  rw [withoutMem_clear]

@[simp] theorem touchPage_parts (g : Nat) (s : State) : (touchPage g s).parts = s.parts := by
  unfold touchPage
  split
  · rfl
  · dsimp only
    split <;> rfl

@[simp] theorem touchPages_parts (l : List Nat) (s : State) : (touchPages l s).parts = s.parts :=
  foldl_same (fun s : State => s.parts) (fun s a => touchPage_parts a s) l s

@[simp] theorem placePage_parts (p : Nat) (x : Partition) (obj cls t page : Nat) (s : State) :
    (placePage p x obj cls t page s).parts = s.parts := by
  unfold placePage
  dsimp only
  split
  · rfl
  · rw [clear_parts]
    rfl

@[simp] theorem modEntry_parts (g : Nat) (f : TierEntry → TierEntry) (s : State) : (modEntry g f s).parts = s.parts := rfl

@[simp] theorem fillPages_parts (l : List Nat) (w : W32) (s : State) : (fillPages l w s).parts = s.parts := by
  unfold fillPages
  refine foldl_same (fun s : State => s.parts) (fun s g => ?_) l s
  rw [modEntry_parts, State.write_parts]

@[simp] theorem fillFromBacking_parts (d : DescWord) (first pages : Nat) (s : State) : (fillFromBacking d first pages s).parts = s.parts := by
  unfold fillFromBacking
  rw [State.write_parts]

@[simp] theorem failAccess_parts (h : Nat) (t : Nat × Nat) (s : State) : (failAccess h t s).parts = s.parts := by
  unfold failAccess poisonRecord
  rw [finish_parts]
  split
  · split <;> rfl
  · rfl

theorem getPart_of_parts {s t : State} (h : t.parts = s.parts) (p : Nat) : getPart t p = getPart s p := congrArg (tget? · p) h

theorem getPart_modPart_none {p q : Nat} {f : Partition → Partition} {s : State} (h : getPart s p = none) :
    getPart (modPart q f s) p = none := by
  by_cases e : p = q
  · subst e
    rw [getPart_modPart_same, h]
    rfl
  · rw [getPart_modPart_other e, h]

theorem servePages_none {p q obj : Nat} (fuel : Nat) {s : State} (h : getPart s p = none) : getPart (servePages q obj fuel s) p = none := by
  induction fuel generalizing s with
  | zero => exact h
  | succ fuel ih =>
    unfold servePages
    split
    · exact h
    · split
      · exact h
      · split
        · exact h
        · split
          · exact ih (getPart_modPart_none ((getPart_of_parts (placePage_parts ..) p).trans h))
          · exact h

theorem serveAlloc_none {p h : Nat} {s : State} (hp : getPart s p = none) : getPart (serveAlloc h s) p = none := by
  unfold serveAlloc
  split
  · exact hp
  · split
    · rename_i obj q _ _ _
      have hserved : getPart (servePages q obj (2 ^ 21) s) p = none := servePages_none _ hp
      generalize servePages q obj (2 ^ 21) s = t at hserved ⊢
      dsimp only
      split
      · exact hserved
      · split
        · exact hserved
        · split
          · exact (getPart_of_parts (finish_parts ..) p).trans hserved
          · split
            · exact hserved
            · split
              · exact (getPart_of_parts (failAccess_parts ..) p).trans hserved
              · refine (getPart_of_parts ?_ p).trans hserved
                rw [finish_parts, touchPages_parts, fillFromBacking_parts]
    · exact hp

theorem serveFill_none {p h : Nat} {s : State} (hp : getPart s p = none) : getPart (serveFill h s) p = none := by
  have hkept : ∀ {t : State}, t.parts = s.parts → getPart t p = none := fun ht => (getPart_of_parts ht p).trans hp
  unfold serveFill runFill
  split
  · exact hp
  · split
    · split
      · exact hp
      · dsimp only
        split
        · exact hp
        · split <;> exact hkept (by simp)
    · exact hp

theorem foldl_none {α : Type} {p : Nat} {f : State → α → State} (hf : ∀ s a, getPart s p = none → getPart (f s a) p = none) (l : List α)
    {s : State} (h : getPart s p = none) : getPart (l.foldl f s) p = none := by
  induction l generalizing s with
  | nil => exact h
  | cons a l ih => exact ih (hf s a h)

theorem serveAllocs_none {p : Nat} {s : State} (h : getPart s p = none) : getPart (serveAllocs s) p = none :=
  foldl_none (fun _ _ => serveFill_none) _ (foldl_none (fun _ _ => serveAlloc_none) _ h)

/-- BIND_OFF's last action takes the partition away, and nothing after it brings one back (R507). -/
theorem getPart_bindOff {p : Nat} {s : State} {y : Partition} (h : getPart (endPartition false p s) p = some y) :
    getPart (bindOff p s) p = none := by
  unfold bindOff
  simp only [h]
  exact serveAllocs_none tget?_tdel_same

/-- Settles O11: the bodies of CAST_ON and BIND_OFF go through to their long command; a bind-off removes the partition. -/
theorem castOnAndBindOff : Obligations.CastOnAndBindOff := by
  refine ⟨?accepted, ?refused, ?bindOff, ?removed⟩
  case accepted =>
    intro hdr d s hh hroom hf hp hfit hg
    refine heardPf_accepted hh (by decide) (castBody_accepted hf hp hfit hg) ?_
    unfold Room fnOf
    rw [castOn_host, raiseGeneration_host]
    exact hroom
  case refused => exact fun hdr d s hh hf hp => heardPf_refused hh (by decide) (castBody_refused hf hp)
  case bindOff =>
    intro hdr p s x hh hroom hp
    have hw : (w64 p.val).toNat = p.val := Nat.mod_eq_of_lt (Nat.lt_trans p.isLt (by decide))
    refine heardPf_accepted hh (by decide) ?_ hroom
    simp only [bindOffBody, hw]
    rw [need_of (decide_eq_true p.isLt), need_of (by rw [hp]; rfl)]
    rfl
  case removed =>
    intro p s x _ ⟨y, hy⟩
    exact getPart_bindOff hy

end Sys2Proof.Architecture

/-!
PROOFS. Counters (R562, R563), the event log, the first-fault record and the service commands of chapter 14.
-/
namespace Sys2Proof.Architecture
open Sys2Proof Sys2Proof.Machine Sys2Proof.Safety

/-! ## COUNTER_SET -/

@[simp] theorem settingsTrigger_steward (t : Trigger) (s : State) : (settingsTrigger t s).steward = s.steward := by
  unfold settingsTrigger
  split <;> rfl

theorem counterBody_device {counter word : W64} {s : State} (hc : counter.toNat < 128) (hw : ctrWordOk false word = true) :
    counterBody 0 0xFFFF counter word s = .ok
      { st := settingsTrigger {} { s with
          steward.counterWords := (s.steward.counterWords.filter fun k => !(k.core == false && k.index == counter.toNat)) ++
            [⟨false, counter.toNat, word⟩]
          trust.current.counters := tset s.trust.current.counters counter.toNat (word &&& ~~~(2 : W64)) }
        result := s.steward.tick + 1 } := by
  have hs : ((0xFFFF : W64) == 0xFFFF) = true := by decide
  unfold counterBody
  simp only [hs, Bool.true_or, Bool.not_true, if_true, Bool.true_and]
  rw [need_of (by simp [hc, hw]), need_of (by rfl), settingsTrigger_steward]

theorem counterBody_core {f : Nat} {scope counter word : W64} {s : State} (hs : scope.toNat < 208) (hc : counter.toNat < 16)
    (hw : ctrWordOk true word = true)
    (hf : f = 0 ∨ ∃ x, getPart s (f - 1) = some x ∧ (partCores s x).contains scope.toNat = true) :
    counterBody f scope counter word s = .ok
      { st := { s with steward.counterWords :=
          (s.steward.counterWords.filter fun k => !(k.core == true && k.index == 16 * scope.toNat + counter.toNat)) ++
            [⟨true, 16 * scope.toNat + counter.toNat, word⟩] }
        result := s.steward.tick + 1 } := by
  have hdev : (scope == 0xFFFF) = false := by
    refine beq_eq_false_iff_ne.mpr fun e => ?_
    rw [e] at hs
    exact absurd hs (by decide)
  unfold counterBody
  simp only [hdev, Bool.false_or, Bool.not_false, Bool.true_and, Bool.false_eq_true, if_false]
  rw [need_of (by simp [hs, hc, hw]), need_of]
  rcases hf with h0 | ⟨x, hx, hm⟩
  · simp [h0]
  · rw [hx, Bool.or_eq_true]
    exact .inr hm

/-! ## Snapshots -/

theorem snapCounter_copy {c : Counter} (h : fld c.word 3 2 = 1) : snapCounter c = { c with snap := c.live } := by simp [snapCounter, h]

theorem snapCounter_clear {c : Counter} (h : fld c.word 3 2 = 2) : snapCounter c = { c with snap := c.live, live := 0 } := by
  simp [snapCounter, h]

theorem snapCounter_keep {c : Counter} (h : fld c.word 3 2 = 0) : snapCounter c = c := by simp [snapCounter, h]

/-- Settles O12: COUNTER_SET by its scope, and the snapshot by its mode. -/
theorem counterWordsAndSnapshots : Obligations.CounterWordsAndSnapshots := by
  refine ⟨?device, ?core, ?ownCore, fun _ => snapCounter_copy, fun _ => snapCounter_clear, fun _ => snapCounter_keep, fun _ _ => rfl, ?snap⟩
  case device => exact fun hdr counter word s hh hc hw => heard_answered hh (by decide) (counterBody_device hc hw)
  case core => exact fun hdr scope counter word s hh hs hc hw => heard_answered hh (by decide) (counterBody_core hs hc hw (.inl rfl))
  case ownCore =>
    exact fun vf hdr scope counter word s x hh hx hm hs hc hw =>
      heard_answered hh (by decide) (counterBody_core hs hc hw (.inr ⟨x, hx, hm⟩))
  case snap => exact fun k n s => ⟨tget?_tmap (f := fun _ => snapCounter), tget?_tmap (f := fun _ => snapCounter)⟩

/-! ## The log, the record of the first fault and the service limits -/

theorem needDest_records {α : Type} {s : State} {f : Nat} {hdr : Hdr} {d : DescWord} {n p : Nat} {x : Partition} {k : Except Nat α}
    (hd : destPart s f hdr d = some p) (hx : getPart s p = some x) (hr : RecordsOk s p x d n) : needDest s f hdr d n k = k := by
  simp only [needDest, hd, hx]
  exact needRecords_ok hr

theorem eventReadBody_reached {hdr : Hdr} {first count : W64} {dst : DescWord} {p : Nat} {x : Partition} {s : State}
    (hf : first.toNat < 2 ^ 32) (hd : destPart s 0 hdr dst = some p) (hx : getPart s p = some x) (hr : RecordsOk s p x dst 64)
    (ha : accessTrouble s (descPages dst) = none) :
    eventReadBody 0 hdr first count dst s = .ok
      { st := (writeRecords dst 64 (((s.collector.log.drop (seqPlace s first.toNat).1).take count.toNat).map eventBytes) s).2
        result := w64 ((writeRecords dst 64 (((s.collector.log.drop (seqPlace s first.toNat).1).take count.toNat).map eventBytes) s).1 |||
          (seqPlace s first.toNat).2 <<< 32) } := by
  unfold eventReadBody
  rw [need_of (decide_eq_true hf), needDest_records hd hx hr, ha]

theorem faultClearBody_matches {code : W64} {s : State} (hv : s.collector.first.valid = true) (hc : code.toNat < 2 ^ 16)
    (hf : s.collector.first.code = code.toNat) :
    faultClearBody s.collector.first.tick code s = .ok { st := { s with collector.first := {}, collector.partOpen := [] } } := by
  unfold faultClearBody
  rw [need_of (decide_eq_true hc), need_of (by simp [hv, hf])]

theorem faultClearBody_differs {tick code : W64} {s : State} (hc : code.toNat < 2 ^ 16)
    (hd : s.collector.first.valid = false ∨ s.collector.first.tick ≠ tick ∨ s.collector.first.code ≠ code.toNat) :
    faultClearBody tick code s = .error 0x0204 := by
  unfold faultClearBody
  rw [need_of (decide_eq_true hc), need_not]
  rcases hd with hv | ht | hk
  · simp [hv]
  · simp [ht]
  · simp [hk]

/-! ## Core sparing, stacks and far ports -/

theorem spareBody_any {hdr : Hdr} {core : W64} {sp : Nat} {rest : List Nat} {s : State} (hc : core.toNat < 208)
    (hin : (coreOf s core.toNat).inService = true) (hpos : (posOf s core.toNat).isSome = true) (hsw : pendingSwap s core.toNat = none)
    (ho : openSpares s (dieOfCore core.toNat) = sp :: rest) :
    spareBody 0 hdr core 0xFF s = long 0 hdr none 0xB (.spare core.toNat sp) s (after := fun _ s =>
      if coreIdle (coreOf s core.toNat) || (coreOf s core.toNat).stop.isNone then coreSwap core.toNat s else s) := by
  have hany : (0xFF : W64).toNat = 0xFF := by decide
  unfold spareBody
  simp only [hany, ho]
  rw [need_of (by simp [hc]), need_of (by simp [hin, hpos, hsw]), need_of (by rfl), if_pos trivial]

theorem coreSwap_idle {c h sp : Nat} {s : State} (hp : pendingSwap s c = some (h, sp)) (hi : coreIdle (coreOf s c) = true) :
    coreSwap c s = swapIdle c sp h s := by
  simp [coreSwap, hp, hi]

theorem stackBody_free {hdr : Hdr} {stack : W64} {s : State} (hi : stack.toNat < 12) (hin : (stackOf s stack.toNat).inService = true)
    (hr : ∀ i : Fin 12, (stackOf s i.val).recal = none) :
    stackBody 0 hdr stack s = long 0 hdr none 0xB (.stack stack.toNat) (modStack stack.toNat (fun x => { x with recal := some 0 }) s) := by
  have hnone : ((List.range 12).all fun i => (stackOf s i).recal.isNone) = true :=
    List.all_eq_true.mpr fun i hm => by rw [hr ⟨i, List.mem_range.mp hm⟩]; rfl
  unfold stackBody
  rw [need_of (decide_eq_true hi), need_of (by rw [hin, hnone]; rfl)]

theorem farRestartBody_up {hdr : Hdr} {port : W64} {s : State} (hp : port.toNat < 4) (hr : (farOf s port.toNat).restarting = false) :
    farRestartBody 0 hdr port s = long 0 hdr none 0xB (.far port.toNat)
      (modFar port.toNat (fun x => { x with restarting := true, inService := false, linkUp := false }) s) := by
  unfold farRestartBody
  rw [need_of (decide_eq_true hp), need_of (by rw [hr]; rfl)]

/-- Settles O13: each body goes through its conditions to its answer, its refusal or its long command. -/
theorem logsSparesAndRestarts : Obligations.LogsSparesAndRestarts := by
  refine ⟨?read, ?clear, ?stale, ?telemetry, ?service, ?spare, ?swap, ?stack, ?far⟩
  case read =>
    exact fun hdr first count dst p x s hh hf hd hx hr ha => heardPf_answered hh (by decide) (eventReadBody_reached hf hd hx hr ha)
  case clear => exact fun hdr code s hh hv hc hf => heardPf_answered hh (by decide) (faultClearBody_matches hv hc hf)
  case stale => exact fun hdr tick code s hh hc hd => heardPf_refused hh (by decide) (faultClearBody_differs hc hd)
  case telemetry => exact fun hdr s hh => heardPf_answered hh (by decide) rfl
  case service => exact fun hdr limit s hh hl hu => heardPf_answered hh (by decide) (need_of (by simp [hl, hu]))
  case spare =>
    exact fun hdr core sp rest s hh hroom hc hin hpos hsw ho => heardPf_accepted hh (by decide) (spareBody_any hc hin hpos hsw ho) hroom
  case swap => exact fun core s h sp hr hp hi => (whenLive_running hr).trans (congrArg _ (coreSwap_idle hp hi))
  case stack => exact fun hdr stack s hh hroom hi hin hr => heardPf_accepted hh (by decide) (stackBody_free hi hin hr) hroom
  case far => exact fun hdr port s hh hroom hp hr => heardPf_accepted hh (by decide) (farRestartBody_up hp hr) hroom

end Sys2Proof.Architecture

/-!
PROOFS. The memory commands of chapter 09 (R338 to R373): allocation and freeing, classes and migration, copies, fills and
queries, host frames and the tier settings.
-/
namespace Sys2Proof.Architecture
open Sys2Proof Sys2Proof.Machine Sys2Proof.Safety

section MemoryBodies
variable {fn : Fn} {hdr : Hdr} {p : Nat} {x : Partition} {s : State} {o : MemObject}

/-- An object that the partition holds goes on as that object. -/
theorem have'_eq {α β : Type} {a : Option α} {b : α} {code : Nat} {k : α → Except Nat β} (h : a = some b) : have' a code k = k b := by
  rw [h]; rfl

/-! ## MEM_ALLOC and MEM_FREE -/

section Alloc
variable {pages cls : W64} {backing : DescWord} {obj first : Nat} {r : List Nat × State}

theorem allocBody_writable (ha : Acts s fn hdr p x) (hpages : 0 < pages.toNat) (hc : cls.toNat ≤ 5) (ho : tfree x.objects 4096 = some obj)
    (hf : freeRun s pages.toNat = some first) (ht : takeFrames p x (floorTier cls.toNat) 4 (homeTier cls.toNat) pages.toNat s = some r) :
    allocBody fn hdr pages cls 0 backing s = long fn hdr (some p) 2 (.alloc obj)
      (modPart p (fun x => { x with objects := tset x.objects obj { first := first, pages := pages.toNat, cls := cls.toNat, plan := r.1 } }) r.2)
      (w64 (first * pageSize ||| obj <<< 48)) serveAlloc := by
  have hro : ((0 : W64) == 1) = false := by decide
  unfold allocBody
  rw [withPart_acts ha, need_of (by simp [hpages, hc, flagOk]), hro, ho, hf, ht]
  rfl

theorem allocBody_readOnly (ha : Acts s fn hdr p x) (hb : UnifiedOk s p x backing) (hpages : 0 < pages.toNat) (hc : cls.toNat ≤ 5)
    (ho : tfree x.objects 4096 = some obj) (hf : freeRun s pages.toNat = some first)
    (ht : takeFrames p x (floorTier cls.toNat) 4 (homeTier cls.toNat) pages.toNat s = some r) :
    allocBody fn hdr pages cls 1 backing s = long fn hdr (some p) 2 (.alloc obj)
      (modPart p (fun x => { x with objects := tset x.objects obj { first := first, pages := pages.toNat, cls := cls.toNat, plan := r.1, readOnly := true, backing := some backing } }) r.2)
      (w64 (first * pageSize ||| obj <<< 48)) serveAlloc := by
  have hro : ((1 : W64) == 1) = true := by decide
  unfold allocBody
  rw [withPart_acts ha, need_of (by simp [hpages, hc, flagOk]), hro, if_pos rfl, needUnified_ok hb, ho, hf, ht]
  rfl

theorem allocBody_badClass {ro : W64} (ha : Acts s fn hdr p x) (hc : 5 < cls.toNat) : allocBody fn hdr pages cls ro backing s = .error 0x0201 := by
  unfold allocBody
  rw [withPart_acts ha, need_not (by simp [Nat.not_le.mpr hc])]

end Alloc

theorem freeBody_free {object : W64} (ha : Acts s fn hdr p x) (ho : tget? x.objects object.toNat = some o)
    (hh : objHeld x object.toNat = false) :
    freeBody fn hdr object s = .ok { st := s, result := w64 o.pages, after := fun s => serveAllocs (freeObject p object.toNat o s) } := by
  unfold freeBody
  rw [withPart_acts ha, have'_eq ho, need_of (by rw [hh]; rfl)]

theorem freeBody_held {object : W64} (ha : Acts s fn hdr p x) (ho : tget? x.objects object.toNat = some o)
    (hh : objHeld x object.toNat = true) : freeBody fn hdr object s = .error 0x0205 := by
  unfold freeBody
  rw [withPart_acts ha, have'_eq ho, need_not (by rw [hh]; rfl)]

/-- Settles O14: MEM_ALLOC finds its number, its pages and its frames; MEM_FREE frees after its reply. -/
theorem allocateAndFree : Obligations.AllocateAndFree := by
  refine ⟨?writable, ?readOnly, ?badClass, ?free, ?held⟩
  case writable =>
    exact fun fn hdr pages cls backing p x obj first r s hh ha hpages hc ho hf ht hroom =>
      heard_accepted hh (by decide) (allocBody_writable ha hpages hc ho hf ht) hroom
  case readOnly =>
    exact fun fn hdr pages cls backing p x obj first r s hh ha hb hpages hc ho hf ht hroom =>
      heard_accepted hh (by decide) (allocBody_readOnly ha hb hpages hc ho hf ht) hroom
  case badClass => exact fun fn hdr pages cls ro backing p x s hh ha hc => heard_refused hh (by decide) (allocBody_badClass ha hc)
  case free =>
    intro fn hdr object p x o s hh ha ho hheld
    refine (message_heard hh (by decide)).trans ?_
    rw [freeBody_free ha ho hheld]
    rfl
  case held => exact fun fn hdr object p x o s hh ha ho hheld => heard_refused hh (by decide) (freeBody_held ha ho hheld)

/-! ## Classes and migration -/

section Moves
variable {obj floor tier : Nat} {pages : List Nat} {r : List Nat × State}

/-- The moves that a command orders: pages with the tiers of the frames found for them, but those that stay where they lie. -/
def staysPut (o : MemObject) (s : State) (q : Nat × Nat) : Bool := !moving s q.1 && tierAhead s o q.1 == some q.2

/-- The frames found for pages that stay return to their pools. -/
def returnFrames (p : Nat) (qs : List (Nat × Nat)) (s : State) : State := qs.foldl (fun s q => unreserve p q.2 1 s) s

theorem returnFrames_host (qs : List (Nat × Nat)) : (returnFrames p qs s).host = s.host :=
  foldl_same (fun s : State => s.host) (fun s q => by rfl) _ _

theorem returnFrames_steward (qs : List (Nat × Nat)) : (returnFrames p qs s).steward = s.steward :=
  foldl_same (fun s : State => s.steward) (fun s q => by rfl) _ _

/-- What a command's moves do once the reply is written: the pages that move are looked at for trouble. -/
def afterMoves (pages : List Nat) (h : Nat) (s : State) : State :=
  match accessTrouble s pages with
  | some t => finish h t.1 (w64 t.2) (cancelMoves (fun m => m.handle == h && m.kind == .command) s)
  | none => settleHandle h s

/-- The ordered moves are queued under the command's handle, behind those that were queued before. -/
def queueMoves (p : Nat) (o : MemObject) (pages : List Nat) (r : List Nat × State) : State :=
  let s := returnFrames p ((pages.zip r.1).filter (staysPut o r.2)) r.2
  { s with tiers.moves := s.tiers.moves ++ ((pages.zip r.1).filter fun q => !staysPut o r.2 q).map fun q =>
      { page := q.1, tier := q.2, kind := .command, handle := nextHandle r.2 p 2 } }

theorem queueMoves_host : (queueMoves p o pages r).host = r.2.host := returnFrames_host ..

theorem queueMoves_steward : (queueMoves p o pages r).steward = r.2.steward := returnFrames_steward ..

theorem moveBody_found (ht : takeFrames p x floor 4 tier pages.length s = some r) :
    moveBody fn hdr p x obj o floor tier pages s = long fn hdr (some p) 2 (.move obj) (queueMoves p o pages r) 0
      (afterMoves (((pages.zip r.1).filter fun q => !staysPut o r.2 q).map (·.1))) := by
  unfold moveBody
  rw [have'_eq ht]
  dsimp only
  rw [List.map_map]
  rfl

theorem room_of_host {t u : State} (h : t.host = u.host) (hr : Room u fn) : Room t fn := by
  unfold Room fnOf at *
  rwa [h]

/-- A long command's answer carries the handle that was next. -/
theorem long_handle {kind : Nat} {op : LongOp} {t : State} {result : W64} {after : Nat → State → State} (hroom : Room t fn) :
    ∃ a, long fn hdr (some p) kind op t result after = .ok a ∧ a.handle = nextHandle t p kind ∧ a.status = 0 :=
  ⟨_, long_room hroom, rfl, rfl⟩

theorem nextHandle_of_steward {t u : State} {kind : Nat} (h : t.steward = u.steward) : nextHandle t p kind = nextHandle u p kind := by
  simp only [nextHandle, seqOf, genOf, h]

/-- Once frames are found, the command has the handle that was next. -/
theorem moveBody_ok (ht : takeFrames p x floor 4 tier pages.length s = some r) (hroom : Room r.2 fn) :
    ∃ a, moveBody fn hdr p x obj o floor tier pages s = .ok a ∧ a.handle = nextHandle r.2 p 2 ∧ a.status = 0 := by
  rw [moveBody_found ht]
  obtain ⟨a, ha, hh, hst⟩ := long_handle (room_of_host queueMoves_host hroom)
  exact ⟨a, ha, hh.trans (nextHandle_of_steward queueMoves_steward), hst⟩

end Moves

section Migrate
variable {object first count tier : W64} {r : List Nat × State}

theorem migrateBody_moves (ha : Acts s fn hdr p x) (ho : tget? x.objects object.toNat = some o) (hc : 0 < count.toNat)
    (hin : first.toNat + count.toNat ≤ o.pages) (hl : 1 ≤ tier.toNat) (hu : tier.toNat ≤ 3) (hp : pinned o.cls = false)
    (hh : homeTier o.cls ≤ tier.toNat) (hf : tier.toNat ≤ floorTier o.cls) :
    migrateBody fn hdr object first count tier s = moveBody fn hdr p x object.toNat o (floorTier o.cls) tier.toNat
      (((List.range count.toNat).map (o.first + first.toNat + ·)).filter fun g => !liesIn s o g (· == tier.toNat)) s := by
  unfold migrateBody
  rw [withPart_acts ha, have'_eq ho, need_of (by simp [hc, hin, hl, hu]), need_of (by simp [hp, hh, hf])]

theorem migrateBody_pinned (ha : Acts s fn hdr p x) (ho : tget? x.objects object.toNat = some o) (hc : 0 < count.toNat)
    (hin : first.toNat + count.toNat ≤ o.pages) (hl : 1 ≤ tier.toNat) (hu : tier.toNat ≤ 3) (hp : pinned o.cls = true) :
    migrateBody fn hdr object first count tier s = .error 0x0205 := by
  unfold migrateBody
  rw [withPart_acts ha, have'_eq ho, need_of (by simp [hc, hin, hl, hu]), need_not (by simp [hp])]

end Migrate

theorem classSetBody_moves {object cls : W64} (ha : Acts s fn hdr p x) (hc : cls.toNat ≤ 5) (ho : tget? x.objects object.toNat = some o) :
    classSetBody fn hdr object cls s = moveBody fn hdr p x object.toNat o (floorTier cls.toNat) (homeTier cls.toNat)
      (((List.range o.pages).map (o.first + ·)).filter fun g =>
        !liesIn s o g (fun t => decide (homeTier cls.toNat ≤ t) && decide (t ≤ floorTier cls.toNat)))
      (modPart p (fun x => { x with objects := tset x.objects object.toNat { o with cls := cls.toNat } })
        { s with tiers.map := tmap s.tiers.map fun g e =>
          if o.first ≤ g && g < o.first + o.pages then { e with cls := cls.toNat } else e }) := by
  unfold classSetBody
  rw [withPart_acts ha, need_of (decide_eq_true hc), have'_eq ho]

/-- Settles O15: both commands order the moves of `moveBody`. -/
theorem classAndMigration : Obligations.ClassAndMigration := by
  refine ⟨?classSet, ?migrate, ?pinned, ?handle⟩
  case classSet =>
    intro fn hdr object cls p x o s a hh ha hc ho hb
    refine (message_heard hh (by decide)).trans ?_
    rw [classSetBody_moves ha hc ho, hb]
    rfl
  case migrate =>
    intro fn hdr object first count tier p x o s r hh ha ho hc hin hl hu hp hhome hfloor ht hroom
    refine ⟨_, _, rfl, rfl, ?_⟩
    have hbody := (migrateBody_moves ha ho hc hin hl hu hp hhome hfloor).trans (moveBody_found (fn := fn) (hdr := hdr) ht)
    exact heard_accepted hh (by decide) hbody (room_of_host queueMoves_host hroom)
  case pinned =>
    exact fun fn hdr object first count tier p x o s hh ha ho hc hin hl hu hp =>
      heard_refused hh (by decide) (migrateBody_pinned ha ho hc hin hl hu hp)
  case handle => exact fun fn hdr p x obj floor tier o pages s r ht hroom => moveBody_ok ht hroom

end MemoryBodies

end Sys2Proof.Architecture

/-!
PROOFS. Copies, fills and queries of chapter 09, host frames and the tier settings (R339, R342, R350, R355, R364, R365, R369, R373).
-/
namespace Sys2Proof.Architecture
open Sys2Proof Sys2Proof.Machine Sys2Proof.Safety

section MemoryCommands
variable {fn : Fn} {hdr : Hdr} {p : Nat} {x : Partition} {s : State} {o : MemObject}

theorem copyBody_ok {src dst : DescWord} {cvt : W64} (ha : Acts s fn hdr p x) (hc : cvtOk cvt.toNat = true) (hs : UnifiedOk s p x src)
    (hd : UnifiedOk s p x dst) (hn : dCount src = dCount dst) (hw : readOnlyDesc s dst = false) :
    copyBody fn hdr src dst cvt s = long fn hdr (some p) 2 (.copy src dst cvt.toNat) s 0 (runCopy src dst cvt.toNat) := by
  unfold copyBody
  rw [withPart_acts ha, need_of hc, needUnified_ok hs, needUnified_ok hd, need_of (by simp [hn]), need_of (by rw [hw]; rfl)]

theorem fillBody_ok {object first count pattern : W64} (ha : Acts s fn hdr p x) (ho : tget? x.objects object.toNat = some o)
    (hc : 0 < count.toNat) (hin : first.toNat + count.toNat ≤ o.pages) (hp : pattern.toNat < 2 ^ 32) (hw : o.readOnly = false) :
    fillBody fn hdr object first count pattern s =
      long fn hdr (some p) 2 (.fill object.toNat first.toNat count.toNat (pattern.setWidth 32)) s 0 serveFill := by
  have hp' : decide (pattern.toNat < 2 ^ 32) = true := decide_eq_true hp
  unfold fillBody
  rw [withPart_acts ha, have'_eq ho, need_of (by rw [hp']; simp [hc, hin]), need_of (by rw [hw]; rfl)]

/-- A fill whose pages all have frames, none of them waiting for its restore, ends at a lost page or fills them all. -/
theorem serveFill_runs {h obj first count : Nat} {pattern : W32} {r : HandleRec} {pages : List Nat} (hr : getHandle s h = some r)
    (hop : r.op = .fill obj first count pattern) (howed : r.owed = true) (hpart : r.part = some p) (hx : getPart s p = some x)
    (ho : tget? x.objects obj = some o) (hpages : pages = (List.range count).map (o.first + first + ·))
    (hframes : ∀ g ∈ pages, (pageEntry s g).isSome) (hw : accessWaits s pages = false) :
    serveFill h s = match (pages.filter fun g => pageTrouble s g == some 0x0403).head? with
      | some g => finish h 0x0403 (w64 g) s
      | none => finish h 0 0 (touchPages pages (fillPages pages pattern s)) := by
  have hplaced : (pages.any fun g => (pageEntry s g).isNone) = false :=
    List.any_eq_false.mpr fun g hg => by simpa using Option.isSome_iff_ne_none.mp (hframes g hg)
  have hobj : (((getHandle s h).bind (·.part)).bind fun p => (getPart s p).bind fun x => tget? x.objects obj) = some o := by
    rw [hr, Option.bind_some, hpart, Option.bind_some, hx, Option.bind_some, ho]
  have hrun : serveFill h s = runFill h obj first count pattern s := by
    unfold serveFill
    simp only [hr, hop, howed]
  rw [hrun]
  unfold runFill
  simp only [hobj, ← hpages, hplaced, hw, Bool.or_self, Bool.false_eq_true, if_false] <;> rfl

theorem queryBody_ok {object : W64} (ha : Acts s fn hdr p x) (ho : tget? x.objects object.toNat = some o) :
    queryBody fn hdr object s = .ok { st := s, data :=
      (let es := s.tiers.map.filter fun e => decide (o.first ≤ e.1) && decide (e.1 < o.first + o.pages)
       wordsData [o.cls, (es.filter fun e => e.2.tier == 1).length, (es.filter fun e => e.2.tier == 2).length,
         (es.filter fun e => e.2.tier == 3).length, (es.filter fun e => e.2.mig).length, (es.filter fun e => e.2.lost).length,
         b2n (objHeld x object.toNat)]) } := by
  unfold queryBody
  rw [withPart_acts ha, have'_eq ho]

theorem poolBody_ok (ha : Acts s fn hdr p x) :
    poolBody fn hdr s = .ok { st := s, data := wordsData (([1, 2, 3].flatMap fun t =>
      [quotaOf x t, usedFrames s p t, reservedFrames s p t, freeFrames s p x t]) ++ [s.tiers.withdrawn.length, s.tiers.reserve]) } := by
  unfold poolBody
  rw [withPart_acts ha]

/-- TIER_MAP_READ once its reply is written: whole entries as far as the destination holds them, or the trouble of its pages. -/
def copyEntries (fn first count : Nat) (dst : DescWord) (h : Nat) (s : State) : State :=
  match accessTrouble s (descPages dst) with
  | some t => finish h t.1 (w64 t.2) s
  | none =>
    let r := writeRecords dst 8 ((List.range (min count (dCapacity dst / 8))).map fun i => leBytes 8 (seenEntry s fn (first + i))) s
    finish h 0 (w64 r.1) r.2

theorem tierMapBody_ok {first count : W64} {dst : DescWord} (hd : destPart s fn hdr dst = some p) (hx : getPart s p = some x)
    (hin : first.toNat + count.toNat ≤ 2 ^ 21) (hr : RecordsOk s p x dst 8) :
    tierMapBody fn hdr first count dst s = long fn hdr (some p) 2 .none s 0 (copyEntries fn first.toNat count.toNat dst) := by
  unfold tierMapBody
  rw [hd, Option.map_some, hx]
  dsimp only
  rw [need_of (decide_eq_true hin), needRecords_ok hr]
  rfl

/-- A VF sees nothing of another partition's page (R339). -/
theorem seenEntry_other {q : PartId} {page : Nat} {e : TierEntry} (he : pageEntry s page = some e) (hp : e.part ≠ q.val) :
    seenEntry s (vfOf q) page = 0 := by
  simp [seenEntry, he, vfOf, hp]

/-! ## Host frames and the tier settings -/

theorem hostRegisterBody_ok {addrs : List W64} (ha : Acts s fn hdr p x) (hl : 0 < addrs.length) (hu : addrs.length ≤ 500)
    (hal : (addrs.all fun a => a.toNat % pageSize == 0) = true)
    (hnew : (addrs.all fun a => !(s.parts.flatMap fun q => q.2.t3.map Prod.snd).contains a.toNat) = true)
    (hd : (addrs.map (·.toNat)).eraseDups.length = addrs.length)
    (hroom : (s.parts.flatMap fun q => q.2.t3.map Prod.snd).length + addrs.length ≤ 2 ^ 21) :
    hostRegisterBody fn hdr addrs s = .ok
      { st := modPart p (fun x' => { x' with t3 := registerFrames (addrs.map (·.toNat)) x.t3 }) s
        result := w64 (registerFrames (addrs.map (·.toNat)) x.t3).length } := by
  have hform : (decide (0 < (addrs.map (·.toNat)).length) && decide ((addrs.map (·.toNat)).length ≤ 500) &&
      (addrs.map (·.toNat)).all (· % pageSize == 0)) = true := by
    rw [List.length_map, List.all_map, decide_eq_true hl, decide_eq_true hu]
    exact hal
  have hfree : ((addrs.map (·.toNat)).all (fun a => !(s.parts.flatMap fun q => q.2.t3.map Prod.snd).contains a) &&
      (addrs.map (·.toNat)).eraseDups.length == (addrs.map (·.toNat)).length) = true := by
    rw [List.all_map, hd, List.length_map, beq_self_eq_true, Bool.and_true]
    exact hnew
  have hfit : decide ((s.parts.flatMap fun q => q.2.t3.map Prod.snd).length + (addrs.map (·.toNat)).length ≤ 2 ^ 21) = true := by
    rw [List.length_map]
    exact decide_eq_true hroom
  unfold hostRegisterBody
  rw [withPart_acts ha]
  dsimp only
  rw [need_of hform, need_of hfree, need_of hfit]

theorem hostReleaseBody_ok {count list : W64} (ha : Acts s fn hdr p x) :
    hostReleaseBody fn hdr count list s = .ok
      { st := modPart p (fun x' => { x' with t3 := x'.t3.filter fun e => !((releasable s p x count.toNat).map Prod.fst).contains e.1 })
          (s.write .host list.toNat (wordsData ((releasable s p x count.toNat).map Prod.snd)))
        result := w64 (releasable s p x count.toNat).length } := by
  unfold hostReleaseBody
  rw [withPart_acts ha]

theorem tierSetBody_ok {mode darnLimit : W64} {shares : List W64} (hm : mode.toNat ≤ 1) (hl : shares.length = 5)
    (hs : (shares.all fun m => decide (10 ≤ m.toNat) && decide (m.toNat ≤ 100)) = true) (hd : 2 ≤ darnLimit.toNat)
    (hu : darnLimit.toNat ≤ 64) (ht : mode.toNat = t1Mode s ∨ s.parts = []) :
    tierSetBody mode shares darnLimit s = .ok { st := settingsTrigger {} { s with
      trust.current.mode := mode.toNat, trust.current.migShare := shares.map (·.toNat), trust.current.darnLimit := darnLimit.toNat } } := by
  have hmode : (mode.toNat == t1Mode s || s.parts.isEmpty) = true := by
    rcases ht with h | h
    · simp [h]
    · simp [h]
  unfold tierSetBody
  rw [need_of (by rw [hs]; simp [flagOk, hm, hl, hd, hu]), need_of hmode]

end MemoryCommands

/-- Settles O16: the copy, the fill and the copying of entries are the long commands' work after their reply; the queries answer
their words. -/
theorem copiesFillsAndQueries : Obligations.CopiesFillsAndQueries := by
  refine ⟨?copy, ?fill, ?serve, ?query, ?pool, ?tierMap, fun _ _ _ _ => seenEntry_other⟩
  case copy =>
    exact fun fn hdr src dst cvt p x s hh ha hroom hc hs hd hn hw =>
      heard_accepted hh (by decide) (copyBody_ok ha hc hs hd hn hw) hroom
  case fill =>
    exact fun fn hdr object first count pattern p x o s hh ha hroom ho hc hin hp hw =>
      heard_accepted hh (by decide) (fillBody_ok ha ho hc hin hp hw) hroom
  case serve =>
    exact fun h p obj first count pattern r x o pages s hr hop howed hpart hx ho hpages hframes hw =>
      serveFill_runs hr hop howed hpart hx ho hpages hframes hw
  case query => exact fun fn hdr object p x o s hh ha ho => heard_answered hh (by decide) (queryBody_ok ha ho)
  case pool => exact fun fn hdr p x s hh ha => heard_answered hh (by decide) (poolBody_ok ha)
  case tierMap =>
    exact fun fn hdr first count dst p x s hh hroom hd hx hin hr =>
      heard_accepted hh (by decide) (tierMapBody_ok hd hx hin hr) hroom

/-- Settles O17: each body goes through its conditions to its answer. -/
theorem hostFramesAndTierSettings : Obligations.HostFramesAndTierSettings := by
  refine ⟨?register, ?release, ?tierSet⟩
  case register =>
    exact fun fn hdr addrs p x s hh ha hl hu hal hnew hd hroom =>
      heard_answered hh (by decide) (hostRegisterBody_ok ha hl hu hal hnew hd hroom)
  case release => exact fun fn hdr count list p x s hh ha => heard_answered hh (by decide) (hostReleaseBody_ok ha)
  case tierSet =>
    exact fun hdr mode shares darnLimit s hh hm hl hs hd hu ht => heardPf_answered hh (by decide) (tierSetBody_ok hm hl hs hd hu ht)

end Sys2Proof.Architecture

/-!
PROOFS. The end of a page move (step 5 of R351), and the bytes that copies, writes and clears leave (R11, R351).
-/
namespace Sys2Proof.Architecture
open Sys2Proof Sys2Proof.Machine Sys2Proof.Safety

/-! ## The end of a page move -/

/-- The demotion of page 0 to T2, which is under way. -/
def runningDemotion : Move := { page := 0, tier := 2, kind := .demotion, started := true, frame := 7 }

/-- The entry of page 0 while it moves. -/
def movingEntry : TierEntry := { tier := 1, part := 0, object := 0, cls := 2, mig := true, frame := 0, use := 0 }

/-- Page 0 is on its way to T2, and a MEM_MIGRATE of it to T2 has been accepted meanwhile (R349): its move waits behind the
demotion, and its handle owes an entry to the PF's ring. -/
def twiceOrdered : State :=
  { State.reset with
    parts := [(0, { desc := 0, objects := [(0, { first := 0, pages := 1, cls := 2 })], t1Quota := 1, t2Quota := 2 })]
    host.fns := [(0, { ring := some { base := 0, entries := 64, writeback := 0, k := 1, t := 0 } })]
    steward.handles := [(handleWord 0 2 1 1, { fn := 0, cookie := 0, cvec := 0xFFFF, part := some 0, kind := 2, op := .move 0 })]
    tiers.map := [(0, movingEntry)]
    tiers.moves := [runningDemotion, { page := 0, tier := 2, kind := .command, handle := handleWord 0 2 1 1 }] }

/-- The commanded move has nowhere new to go when the demotion ends, so its command completes, and host memory gets its entry. -/
theorem completeMove_twiceOrdered : (completeMove 0 twiceOrdered).mem ≠ twiceOrdered.mem := by decide +kernel

/-- Refutes O18: in `twiceOrdered` the end of the page's demotion also ends the command whose move waits behind it, and the
command's completion entry changes the memory, though the page's bytes stay at their place. -/
theorem not_migrationSwitchesTheEntry : ¬ Obligations.MigrationSwitchesTheEntry := by
  intro h
  have hrun : Running twiceOrdered := ⟨by decide +kernel, by decide +kernel⟩
  obtain ⟨t, ht, -, -, -, -, hmem⟩ :=
    h 0 twiceOrdered runningDemotion movingEntry hrun (by decide +kernel) (by decide +kernel) (by decide) (by decide +kernel)
  obtain rfl : completeMove 0 twiceOrdered = t := Host.Outcome.next.inj ((whenLive_running hrun).symm.trans ht)
  exact completeMove_twiceOrdered (hmem (by decide +kernel))

/-! ## Copies of bytes -/

/-- In canonical form a listed byte is what its address reads. -/
theorem memRead_of_mem {m : Memory} {c : Nat × Byte} (hm : Memory.wf m) (hc : c ∈ m) : memRead m c.1 = c.2 := by
  induction m with
  | nil => exact absurd hc (List.not_mem_nil)
  | cons d m ih =>
    obtain ⟨hlt, hpw⟩ := List.pairwise_cons.mp hm.1
    rcases List.mem_cons.mp hc with rfl | hc
    · exact if_pos rfl
    · have hne : d.1 ≠ c.1 := Nat.ne_of_lt (hlt c hc)
      rw [memRead, if_neg hne]
      exact ih ⟨hpw, fun e he => hm.2 e (List.mem_cons_of_mem _ he)⟩ hc

/-- An address that no listed byte has reads 0. -/
theorem memRead_of_not_mem {m : Memory} {a : Nat} (h : ∀ c ∈ m, c.1 ≠ a) : memRead m a = 0 := by
  induction m with
  | nil => rfl
  | cons d m ih =>
    rw [memRead, if_neg (h d (List.mem_cons_self ..))]
    exact ih fun c hc => h c (List.mem_cons_of_mem _ hc)

/-- The writes of a copy, one listed byte after another. -/
def copyInto (src dst : Nat) (l : Memory) (m : Memory) : Memory := l.foldl (fun m c => memSet m (dst + (c.1 - src)) c.2) m

theorem memCopy_eq (m : Memory) (src dst n : Nat) :
    memCopy m src dst n = copyInto src dst (m.filter fun c => decide (src ≤ c.1) && decide (c.1 < src + n)) (memClear m dst (dst + n)) :=
  rfl

/-- The writes of a copy leave every place that none of them goes to. -/
theorem memRead_copyInto_other {src dst a : Nat} {l m : Memory} (h : ∀ c ∈ l, dst + (c.1 - src) ≠ a) :
    memRead (copyInto src dst l m) a = memRead m a := by
  induction l generalizing m with
  | nil => rfl
  | cons c l ih =>
    have hc : a ≠ dst + (c.1 - src) := (h c (List.mem_cons_self ..)).symm
    exact (ih fun e he => h e (List.mem_cons_of_mem _ he)).trans (memRead_memSet_other hc)

/-- Each of the writes of a copy reads back: no later one goes to its place. -/
theorem memRead_copyInto_same {src dst : Nat} {c : Nat × Byte} {l m : Memory} (hm : Memory.wf m) (hl : l.Pairwise fun x y => x.1 < y.1)
    (hs : ∀ e ∈ l, src ≤ e.1) (hc : c ∈ l) : memRead (copyInto src dst l m) (dst + (c.1 - src)) = c.2 := by
  induction l generalizing m with
  | nil => exact absurd hc (List.not_mem_nil)
  | cons d l ih =>
    obtain ⟨hlt, hpw⟩ := List.pairwise_cons.mp hl
    have hs' : ∀ e ∈ l, src ≤ e.1 := fun e he => hs e (List.mem_cons_of_mem _ he)
    rcases List.mem_cons.mp hc with rfl | hc
    · have hrest : ∀ e ∈ l, dst + (e.1 - src) ≠ dst + (c.1 - src) := by
        intro e he
        have := hlt e he
        have := hs c (List.mem_cons_self ..)
        omega
      exact (memRead_copyInto_other hrest).trans (memRead_memSet_same hm)
    · exact ih (memSet_wf hm) hpw hs' hc

theorem memRead_memCopy_in {m : Memory} {src dst n i : Nat} (hm : Memory.wf m) (hi : i < n) :
    memRead (memCopy m src dst n) (dst + i) = memRead m (src + i) := by
  have hsrc : ∀ c ∈ m.filter fun c => decide (src ≤ c.1) && decide (c.1 < src + n), src ≤ c.1 := fun c hc => by
    simpa using (List.mem_filter.mp hc).2 |> fun h => (Bool.and_eq_true_iff.mp h).1
  rw [memCopy_eq]
  by_cases h : ∃ b, (src + i, b) ∈ m
  · obtain ⟨b, hb⟩ := h
    have hin : (src + i, b) ∈ m.filter fun c => decide (src ≤ c.1) && decide (c.1 < src + n) :=
      List.mem_filter.mpr ⟨hb, by simp [hi]⟩
    have hread := memRead_copyInto_same (dst := dst) (memClear_wf (lo := dst) (hi := dst + n) hm) (hm.1.filter _) hsrc hin
    rw [Nat.add_sub_cancel_left] at hread
    rw [hread, memRead_of_mem hm hb]
  · have hno : ∀ c ∈ m, c.1 ≠ src + i := fun c hc e => h ⟨c.2, e ▸ hc⟩
    rw [memRead_copyInto_other, memRead_memClear_in (by omega) (by omega), memRead_of_not_mem hno]
    intro c hc
    have := hsrc c hc
    have := hno c (List.mem_filter.mp hc).1
    omega

theorem memRead_memCopy_out {m : Memory} {src dst n a : Nat} (ha : a < dst ∨ dst + n ≤ a) :
    memRead (memCopy m src dst n) a = memRead m a := by
  rw [memCopy_eq, memRead_copyInto_other, memRead_memClear_out ha]
  intro c hc
  have hin := (List.mem_filter.mp hc).2
  simp only [Bool.and_eq_true, decide_eq_true_eq] at hin
  omega

/-- Settles O19: the three memory operations, byte by byte. -/
theorem bytesCopiedWrittenCleared : Obligations.BytesCopiedWrittenCleared := by
  refine ⟨?copied, ?written, ?cleared⟩
  case copied => exact fun m src dst n hm _ => ⟨fun i hi => memRead_memCopy_in hm hi, fun a ha => memRead_memCopy_out ha⟩
  case written =>
    exact fun m f a bs hm inj => ⟨fun i hi => memRead_memWriteAt_same hm hi inj, fun k hk => memRead_memWriteAt_other hk⟩
  case cleared =>
    intro m lo hi k
    split
    · rename_i h
      exact memRead_memClear_in h.1 h.2
    · exact memRead_memClear_out (by omega)

end Sys2Proof.Architecture

/-!
PROOFS. Failing rows, restores and far memory (R333, R364, R365, R367 to R370).
-/
namespace Sys2Proof.Architecture
open Sys2Proof Sys2Proof.Machine Sys2Proof.Safety

section Rows
variable {page : Nat} {row : BitVec 64} {s : State} {e : TierEntry} {d : DescWord}

theorem handleRow_darned {spare : Bool} (h : canDarn s row spare = true) : handleRow page row spare s = darnRow page row s := if_pos h

theorem handleRow_retired {spare : Bool} (h : canDarn s row spare = false) :
    handleRow page row spare s = rowEvent 0x1012 row page (withdrawFrame page row (interruptMove page false s)) :=
  if_neg (by simp [h])

theorem darnLimit_darned (h : canDarn s row true = true) : darnLimit page row true s = darnRow page row s :=
  (if_pos h).trans (handleRow_darned h)

theorem darnLimit_retired {spare : Bool} (h : canDarn s row spare = false) :
    darnLimit page row spare s =
      replaceAllLost (loseKvPages page (rowEvent 0x1012 row page (withdrawFrame page row (interruptMove page false s)))) := by
  unfold darnLimit
  rw [handleRow_retired h]
  exact if_neg (by simp [h])

/-- An uncorrectable error of a page without a copy: the page is left LOST (R369). -/
theorem hbmUncorrectable_lost (he : pageEntry s page = some e) (ht : e.tier = 1) (hk : knownCopy s e = none)
    (hd : canDarn s row true = true) :
    hbmUncorrectable page row true s = replaceAllLost (loseKvPages page (failMoves page 0x0402 (raiseFault
      { code := 0x1802, cls := 5, sev := 1, die := 8 + rowStack row, unit := rowStack row, detail := w64 page, parts := [e.part] }
      (modEntry page (fun e => { e with lost := true })
        (rowEvent 0x1012 row page (handleRow page row true (interruptMove page true s))))))) := by
  unfold hbmUncorrectable
  simp only [he, ht, hk, hd, Option.isSome_none, Bool.not_false, ne_eq, not_true_eq_false, if_false, if_true, Bool.false_eq_true]

/-- One of a page with a copy: the page waits for its restore (R370). -/
theorem hbmUncorrectable_restoring (he : pageEntry s page = some e) (ht : e.tier = 1) (hk : knownCopy s e = some d)
    (hd : canDarn s row true = true) :
    hbmUncorrectable page row true s = replaceAllLost (loseKvPages page (raiseFault
      { code := 0x1801, cls := 5, sev := 0, die := 8 + rowStack row, unit := rowStack row, detail := w64 page, parts := [e.part] }
      (modEntry page (fun e => { e with restoring := true })
        (rowEvent 0x1012 row page (handleRow page row true (interruptMove page false s)))))) := by
  unfold hbmUncorrectable
  simp only [he, ht, hk, hd, Option.isSome_some, Bool.not_true, ne_eq, not_true_eq_false, if_false, if_true]

theorem knownCopy_backing {x : Partition} {o : MemObject} (hx : getPart s e.part = some x) (ho : tget? x.objects e.object = some o)
    (hr : o.readOnly = true) (hb : o.backing = some d) : knownCopy s e = some d := by
  simp [knownCopy, hx, ho, hr, hb]

theorem pageRestore_fills {x : Partition} {o : MemObject} (he : pageEntry s page = some e) (hr : e.restoring = true)
    (hw : s.tiers.withdrawnHolding.contains page = false) (hx : getPart s e.part = some x) (ho : tget? x.objects e.object = some o)
    (hro : o.readOnly = true) (hb : o.backing = some d) (ha : accessWaits s (descPages d) = false)
    (ht : readTrouble s (descPages d) [] = none) :
    pageRestore page s = serveAllocs (serveCopies (touchPages (descPages d)
      ((setEntry page { e with restoring := false } s).write .unified (page * pageSize)
        ((((cmdTensor d).bytes s).drop ((page - o.first) * pageSize)).take pageSize)))) := by
  have hobj : ((getPart s e.part).bind fun x => tget? x.objects e.object) = some o := by rw [hx]; exact ho
  unfold pageRestore
  simp only [he, hr, hw, knownCopy_backing hx ho hro hb, hobj, ha, ht]
  rfl

/-! ## Far memory -/

theorem farPoison_raised {h : Nat} (he : pageEntry s page = some e) (ht : e.tier = 2) :
    farPoison page h s = endOnPoison page h (raiseFault
      { code := 0x1803, cls := 6, sev := 1, die := 4 + e.frame / 2 ^ 19, unit := e.frame / 2 ^ 19, detail := w64 page, handle := h, parts := [e.part] }
      { s with tiers.poisoned := (s.tiers.poisoned ++ [page]).eraseDups }) := by
  have he' : pageEntry { s with tiers.poisoned := (s.tiers.poisoned ++ [page]).eraseDups } page = some e := he
  unfold farPoison
  simp only [he, ht, poisonRecord, he']
  rfl

theorem farLinkDown_idle {f : Nat} (hin : (farOf s f).inService = true) (hm : s.tiers.moves = []) :
    farLinkDown f s = raiseFault { code := 0x1804, cls := 6, sev := 1, die := 4 + f, unit := f, detail := w64 f, parts := farParts s f }
      (modFar f (fun x => { x with linkUp := false, inService := false }) s) := by
  have hm' : (raiseFault { code := 0x1804, cls := 6, sev := 1, die := 4 + f, unit := f, detail := w64 f, parts := farParts s f }
      (modFar f (fun x => { x with linkUp := false, inService := false }) s)).tiers.moves = [] := hm
  unfold farLinkDown
  simp only [hin, Bool.not_true, Bool.false_eq_true, if_false]
  refine Eq.trans ?_ (List.foldl_nil (f := fun s (m : Move) => endMove m.page 0x0403 s))
  rw [show farParts (modFar f (fun x => { x with linkUp := false, inService := false }) s) f = farParts s f from rfl, hm']
  rfl

theorem farEnumerated_same {f frames : Nat} (hr : (farOf s f).restarting = true) :
    farEnumerated f frames true s = serveAllocs
      ((openHandles s fun r => match r.op with | .far k => k == f | _ => false).foldl (fun s h => finish h 0 0 s)
        (modFar f (fun x => { x with restarting := false, linkUp := true, inService := true, frames := min 524288 frames,
                                     width := (trained (takeFree s).1).1, rate := (trained (takeFree s).1).2 }) (takeFree s).2)) := by
  unfold farEnumerated
  simp only [hr]
  rfl

end Rows

/-- Settles O20: each event is its meaning in the case that the clause names. -/
theorem failingRowsAndFarMemory : Obligations.FailingRowsAndFarMemory := by
  refine ⟨?darned, ?retired, ?lost, ?restoring, ?restore, ?poison, ?down, ?up, ?media, ?enumerated⟩
  case darned =>
    rintro page row row' s hr hd rfl
    exact (whenLive_running hr).trans (congrArg _ (darnLimit_darned hd))
  case retired => exact fun page row spare s hr hd => (whenLive_running hr).trans (congrArg _ (darnLimit_retired hd))
  case lost => exact fun page row s e hr he ht hk hd => (whenLive_running hr).trans (congrArg _ (hbmUncorrectable_lost he ht hk hd))
  case restoring =>
    exact fun page row s e d hr he ht hk hd => (whenLive_running hr).trans (congrArg _ (hbmUncorrectable_restoring he ht hk hd))
  case restore =>
    exact fun page s e d x o hr he hre hw hx ho hro hb ha ht =>
      (whenLive_running hr).trans (congrArg _ (pageRestore_fills he hre hw hx ho hro hb ha ht))
  case poison => exact fun page h s e hr he ht => (whenLive_running hr).trans (congrArg _ (farPoison_raised he ht))
  case down => exact fun f s hr hin hm => (whenLive_running hr).trans (congrArg _ (farLinkDown_idle hin hm))
  case up => exact fun f s hr => whenLive_running hr
  case media => exact fun f code s hr => whenLive_running hr
  case enumerated => exact fun f frames s hr hre => (whenLive_running hr).trans (congrArg _ (farEnumerated_same hre))

end Sys2Proof.Architecture

/-!
PROOFS. The fault collector (R534 to R537, R546), contained faults (R35, R533), degradation (R547, R548, R559), and the way into the
safe state (R540 to R543, R574, R580).
-/
namespace Sys2Proof.Architecture
open Sys2Proof Sys2Proof.Machine Sys2Proof.Safety

/-! ## What counting and recording leave -/

/-- All of a state but its counters. -/
def beyondCounts (s : State) : State := { s with collector.devCtrs := [], collector.coreCtrs := [] }

/-- All of a state but what an event record may change: counters, the log, its SEQ, and the free values. -/
def beyondRecord (s : State) : State :=
  { beyondCounts s with free := 0, steward.eventDue := false, collector.log := [], collector.nextSeq := 0, collector.overruns := 0 }

/-- All of a state but what a fault may change when the collector takes it. -/
def beyondFault (s : State) : State :=
  { beyondRecord s with outbox := [], collector.first := {}, collector.partOpen := [], collector.lines := [] }

theorem foldl_same_fst {σ α β γ : Type} (g : σ → γ) {f : σ × β → α → σ × β} (h : ∀ p a, g (f p a).1 = g p.1) (l : List α) (p : σ × β) :
    g (l.foldl f p).1 = g p.1 :=
  foldl_same (fun p : σ × β => g p.1) h l p

theorem beyondCounts_countDev (id qual n : Nat) (s : State) : beyondCounts (countDev id qual n s).1 = beyondCounts s := by
  refine foldl_same_fst beyondCounts (fun p k => ?_) _ (s, 0)
  dsimp only
  split <;> rfl

theorem beyondCounts_devEvent (id qual n : Nat) (s : State) : beyondCounts (devEvent id qual n s) = beyondCounts s := by
  unfold devEvent
  dsimp only
  split
  · rfl
  · split
    · exact beyondCounts_countDev ..
    · exact (beyondCounts_countDev ..).trans (beyondCounts_countDev ..)

theorem beyondCounts_coreEvent (core id n : Nat) (s : State) : beyondCounts (coreEvent core id n s) = beyondCounts s := by
  unfold coreEvent
  dsimp only
  split
  · rfl
  · refine (beyondCounts_devEvent ..).trans (foldl_same_fst beyondCounts (fun p k => ?_) _ (s, 0))
    split <;> rfl

theorem beyondRecord_of_counts {s t : State} (h : beyondCounts s = beyondCounts t) : beyondRecord s = beyondRecord t := by
  unfold beyondRecord
  rw [h]

theorem beyondFault_of_record {s t : State} (h : beyondRecord s = beyondRecord t) : beyondFault s = beyondFault t := by
  unfold beyondFault
  rw [h]

theorem beyondRecord_logRecord (r : EventRec) (s : State) : beyondRecord (logRecord r s) = beyondRecord s := by
  unfold logRecord
  dsimp only
  split
  · exact (beyondRecord_of_counts (beyondCounts_devEvent ..)).trans rfl
  · rfl

theorem beyondRecord_recEvent (id qual : Nat) (part : Option Nat) (die unit handle : Nat) (data : List (Nat × Nat)) (s : State) :
    beyondRecord (recEvent id qual part die unit handle data s) = beyondRecord s :=
  (beyondRecord_logRecord ..).trans (beyondRecord_of_counts (beyondCounts_devEvent ..))

/-! ## The collector takes a fault -/

/-- The fault's count and its record in the log. -/
def faultRecorded (f : FaultIn) (s : State) : State :=
  logRecord { id := f.code, seq := 0, cls := f.cls, sev := f.sev, die := f.die, unit := f.unit,
              pvalid := (onePart f).isSome, part := (onePart f).getD 0, tick := 0, handle := f.handle,
              data := BitVec.ofNat 256 f.detail.toNat } (devEvent f.code f.unit 1 s)

theorem beyondRecord_faultRecorded (f : FaultIn) (s : State) : beyondRecord (faultRecorded f s) = beyondRecord s :=
  (beyondRecord_logRecord ..).trans (beyondRecord_of_counts (beyondCounts_devEvent ..))

section Fields
variable {s t : State} (h : beyondRecord t = beyondRecord s)
include h

theorem first_of_beyondRecord : t.collector.first = s.collector.first := (congrArg (fun u : State => u.collector.first) h :)

theorem partOpen_of_beyondRecord : t.collector.partOpen = s.collector.partOpen := (congrArg (fun u : State => u.collector.partOpen) h :)

theorem tick_of_beyondRecord : t.steward.tick = s.steward.tick := (congrArg (fun u : State => u.steward.tick) h :)

theorem host_of_beyondRecord : t.host = s.host := (congrArg State.host h :)

end Fields

/-- A corrected fault is counted and recorded only. -/
theorem collect_corrected {f : FaultIn} {s : State} (h : f.sev = 0) : collect f s = faultRecorded f s := by
  unfold collect
  exact if_pos h

/-- The first-fault record once the fault is taken (R535). -/
def latched (f : FaultIn) (s : State) : FirstFault :=
  if s.collector.first.valid then { s.collector.first with overflow := true, later := min 0xFFFF (s.collector.first.later + 1) }
  else { valid := true, code := f.code, cls := f.cls, sev := f.sev, die := f.die, unit := f.unit,
         pvalid := (onePart f).isSome, part := (onePart f).getD 0, detail := f.detail, tick := s.steward.tick,
         offsetNs := (s.collector.log.getLast?.map (·.offsetNs)).getD 0, handle := f.handle }

/-- A fault of severity 1 or 2 latches, opens its partitions and raises the event vector. -/
theorem collect_raised {f : FaultIn} {s : State} (h : f.sev ≠ 0) :
    collect f s = msix 0 (faultRecorded f s).host.eventVector
      { faultRecorded f s with
        steward.eventDue := s.steward.eventDue
        collector.first := latched f (faultRecorded f s)
        collector.partOpen := (List.range 16).filter fun p => (faultRecorded f s).collector.partOpen.contains p ||
          (if f.parts.isEmpty then List.range 16 else f.parts).contains p } := by
  unfold collect latched faultRecorded
  dsimp only
  rw [if_neg h]

theorem collect_first_new {f : FaultIn} {s : State} (h : f.sev ≠ 0) (hv : s.collector.first.valid = false) :
    (collect f s).collector.first =
      { valid := true, code := f.code, cls := f.cls, sev := f.sev, die := f.die, unit := f.unit,
        pvalid := (onePart f).isSome, part := (onePart f).getD 0, detail := f.detail, tick := s.steward.tick,
        offsetNs := ((faultRecorded f s).collector.log.getLast?.map (·.offsetNs)).getD 0, handle := f.handle } := by
  rw [collect_raised h]
  change latched f (faultRecorded f s) = _
  rw [latched, first_of_beyondRecord (beyondRecord_faultRecorded f s), hv, tick_of_beyondRecord (beyondRecord_faultRecorded f s)]
  rfl

theorem collect_first_later {f : FaultIn} {s : State} (h : f.sev ≠ 0) (hv : s.collector.first.valid = true) :
    (collect f s).collector.first = { s.collector.first with overflow := true, later := min 0xFFFF (s.collector.first.later + 1) } := by
  rw [collect_raised h]
  change latched f (faultRecorded f s) = _
  rw [latched, first_of_beyondRecord (beyondRecord_faultRecorded f s), if_pos hv]

theorem collect_opens {f : FaultIn} {s : State} {p : Nat} (h : f.sev ≠ 0) (hp : p < 16) (hf : f.parts = [] ∨ p ∈ f.parts) :
    p ∈ (collect f s).collector.partOpen := by
  rw [collect_raised h]
  refine List.mem_filter.mpr ⟨List.mem_range.mpr hp, ?_⟩
  rcases hf with he | hm
  · simp [he, hp]
  · have hne : f.parts.isEmpty = false := List.isEmpty_eq_false_iff.mpr (List.ne_nil_of_mem hm)
    simp [hne, hm]

theorem beyondFault_latch (v : Nat) (due : Bool) (first : FirstFault) (opened : List Nat) (s : State) :
    beyondFault (msix 0 v { s with steward.eventDue := due, collector.first := first, collector.partOpen := opened }) = beyondFault s := rfl

theorem beyondFault_collect (f : FaultIn) (s : State) : beyondFault (collect f s) = beyondFault s := by
  by_cases h : f.sev = 0
  · rw [collect_corrected h]
    exact beyondFault_of_record (beyondRecord_faultRecorded f s)
  · rw [collect_raised h]
    exact (beyondFault_latch ..).trans (beyondFault_of_record (beyondRecord_faultRecorded f s))

theorem beyondFault_collectAll (s : State) : beyondFault (collectAll s) = beyondFault s :=
  foldl_same beyondFault (fun s f => beyondFault_collect f s) _ _

/-! ## Contained faults -/

theorem coreFault_running {code c h : Nat} {detail : W64} {s : State} (hc : (coreOf s c).step = some h) :
    coreFault code c detail s = stopFaulty h 0x0401 0
      (raiseFault { code := code, cls := 4, sev := 1, die := dieOfCore c, unit := c, detail := detail, handle := h, parts := partsOfCore s c } s) := by
  simp [coreFault, hc]

theorem coreFault_idle {code c : Nat} {detail : W64} {s : State} (hc : (coreOf s c).step = none) :
    coreFault code c detail s =
      raiseFault { code := code, cls := 4, sev := 1, die := dieOfCore c, unit := c, detail := detail, handle := 0, parts := partsOfCore s c } s := by
  simp [coreFault, hc]

theorem stemFault_idle {d : Nat} {s : State} (h : (cdOf s d).stem = []) :
    stemFault d s = raiseFault { code := 0x2805, cls := 4, sev := 1, die := d, detail := w64 d } (modCd d (fun k => { k with stemFault := true }) s) := by
  simp [stemFault, h]

theorem pairError_idle {i : Nat} {s : State} (h : (pairOf s i).running = none) :
    pairError i s = raiseFault { code := 0x4803, cls := 9, sev := 1, die := dieOfPair i, unit := i, detail := w64 i } s := by
  simp [pairError, h]

theorem pairError_session {i p n : Nat} {e : Session} {s : State} (h : (pairOf s i).running = some (p, n)) (he : getSession s p n = some e)
    (hk : e.kind ≠ 3) :
    pairError i s = stopSession p n (modPair i (fun r => { r with running := none }) (raiseFault
      { code := 0x4803, cls := 9, sev := 1, die := dieOfPair i, unit := i, detail := w64 i, handle := e.handle, parts := [p] } s)) := by
  simp [pairError, h, he, hk]

theorem slotStoreError_armed {f k : Nat} {s : State} (h : (slotOf (fnOf s f) k).state = 1) :
    slotStoreError f k s =
      finish (slotOf (fnOf s f) k).handle 0x0401 0 (dropQueued (slotOf (fnOf s f) k).handle
        (modFn f (fun z => { z with slots := tdel z.slots k }) (raiseFault
          { code := 0x0807, cls := 0, sev := 1, die := 4, unit := f, detail := w64 (f ||| k <<< 16), handle := (slotOf (fnOf s f) k).handle,
            parts := if f = 0 then [] else [f - 1] } s))) := by
  simp [slotStoreError, h]

/-- Settles O21: what `collect` does by severity and by the record it finds; each contained fault is its meaning. -/
theorem faultsAreLatchedAndContained : Obligations.FaultsAreLatchedAndContained := by
  refine ⟨?corrected, ?first, ?later, ?vector, fun f s p h hp hf => collect_opens h hp hf, ?collected, ?sram, ?parity, ?mapbuf, ?stem,
    ?pairIdle, ?pair, ?link, ?slot⟩
  case corrected =>
    intro f s h
    rw [collect_corrected h]
    exact ⟨first_of_beyondRecord (beyondRecord_faultRecorded f s), partOpen_of_beyondRecord (beyondRecord_faultRecorded f s)⟩
  case first =>
    intro f s h hv
    rw [collect_first_new h hv]
    exact ⟨rfl, rfl, rfl, rfl, rfl, rfl, rfl, rfl⟩
  case later => exact fun f s h hv => collect_first_later h hv
  case vector =>
    intro f s h
    rw [collect_raised h, host_of_beyondRecord (beyondRecord_faultRecorded f s)]
    exact List.mem_append_right _ (List.mem_singleton_self _)
  case collected => exact fun s hr => whenLive_running hr
  case sram => exact fun c addr s h hr hc => (whenLive_running hr).trans (congrArg _ (coreFault_running hc))
  case parity => exact fun c block s hr hc => (whenLive_running hr).trans (congrArg _ (coreFault_idle hc))
  case mapbuf => exact fun d b addr s hr => whenLive_running hr
  case stem => exact fun d s hr h => (whenLive_running hr).trans (congrArg _ (stemFault_idle h))
  case pairIdle => exact fun i s hr h => (whenLive_running hr).trans (congrArg _ (pairError_idle h))
  case pair => exact fun i s p n e hr h he hk => (whenLive_running hr).trans (congrArg _ (pairError_session h he hk))
  case link => exact fun i s hr => whenLive_running hr
  case slot => exact fun fn k s hr h => (whenLive_running hr).trans (congrArg _ (slotStoreError_armed h))

/-! ## Degradation -/

/-- What corrected errors of a patrol change: counters, and the errors noted by row. -/
def beyondScrub (s : State) : State := { beyondCounts s with tiers.rowErrors := [] }

theorem beyondScrub_of_counts {s t : State} (h : beyondCounts s = beyondCounts t) : beyondScrub s = beyondScrub t := by
  unfold beyondScrub
  rw [h]

theorem beyondScrub_scrub (t : Nat) (es : List (Nat × Nat)) (s : State) : beyondScrub (scrub t es s) = beyondScrub s := by
  refine foldl_same beyondScrub (fun s e => ?_) es s
  split
  · exact (beyondScrub_of_counts (beyondCounts_devEvent ..)).trans rfl
  · split
    · exact beyondScrub_of_counts (beyondCounts_coreEvent ..)
    · rfl

theorem scrub_stack {k row n : Nat} {s : State} (hk : k < 12) : scrub k [(row, n)] s = devEvent 0x1010 k n (noteRowErrors k row n s) :=
  if_pos hk

theorem scrub_die {d c n : Nat} {s : State} (hd : d < 4) (hc : c < 52) : scrub (12 + d) [(c, n)] s = coreEvent (52 * d + c) 0x2018 n s := by
  have hstack : ¬ 12 + d < 12 := by omega
  have hdie : (decide (12 + d < 16) && decide (c < 52)) = true := by
    rw [decide_eq_true hc, decide_eq_true (by omega : 12 + d < 16)]
    rfl
  refine (if_neg hstack).trans ((if_pos hdie).trans ?_)
  rw [Nat.add_sub_cancel_left]

/-- Settles O22: each event is its meaning; a patrol changes counters and the errors noted by row alone. -/
theorem degradationEvents : Obligations.DegradationEvents := by
  refine ⟨?once, ?again, fun k s hr => whenLive_running hr, ?stack, ?die, ?data⟩
  case once =>
    intro c s p hr hc hp
    refine (whenLive_running hr).trans (congrArg _ ?_)
    simp [coreDegraded, hc, hp]
  case again =>
    intro c s hr hc
    exact (whenLive_running hr).trans (congrArg _ (if_pos hc))
  case stack => exact fun k row n s hr => (whenLive_running hr).trans (congrArg _ (scrub_stack k.isLt))
  case die => exact fun d c n s hr => (whenLive_running hr).trans (congrArg _ (scrub_die d.isLt c.isLt))
  case data =>
    intro t es s u hr he
    obtain rfl : scrub t es s = u := Host.Outcome.next.inj ((whenLive_running hr).symm.trans he)
    have h := beyondScrub_scrub t es s
    have htiers : { (scrub t es s).tiers with rowErrors := [] } = { s.tiers with rowErrors := [] } :=
      congrArg (fun t : State => t.tiers) h
    refine ⟨(congrArg State.mem h :), ?_, (congrArg State.parts h :)⟩
    exact congrArg (fun q : Tiers => { q with rowErrors := (scrub t es s).tiers.rowErrors }) htiers

end Sys2Proof.Architecture

/-!
PROOFS. The way into the safe state and the steward's silence there (R540 to R543, R574, R580).
-/
namespace Sys2Proof.Architecture
open Sys2Proof Sys2Proof.Machine Sys2Proof.Safety

/-! ## Every port is fenced -/

/-- Port i sends FENCE_IDLE and carries nothing any more. -/
def fencePort (s : State) (i : Nat) : State :=
  emit (.fence i) (modPort i (fun p => { p with state := .fenced, retraining := false }) s)

theorem portOf_fencePort_same {s : State} {i : Nat} :
    portOf (fencePort s i) i = { portOf s i with state := .fenced, retraining := false } :=
  portOf_modPort_same (f := fun p => { p with state := .fenced, retraining := false })

theorem portOf_fencePort_other {s : State} {i j : Nat} (h : i ≠ j) : portOf (fencePort s j) i = portOf s i :=
  portOf_modPort_other (f := fun p => { p with state := .fenced, retraining := false }) h

theorem fencePort_dark {s : State} {i : Nat} : portLit (portOf (fencePort s i) i) = false := by
  rw [portOf_fencePort_same]
  rfl

theorem fencePort_keeps_dark {s : State} {i j : Nat} (h : portLit (portOf s i) = false) : portLit (portOf (fencePort s j) i) = false := by
  by_cases e : i = j
  · subst e
    exact fencePort_dark
  · rw [portOf_fencePort_other e, h]

theorem fencePorts_keep_dark {i : Nat} (l : List Nat) {s : State} (h : portLit (portOf s i) = false) :
    portLit (portOf (l.foldl fencePort s) i) = false := by
  induction l generalizing s with
  | nil => exact h
  | cons j l ih => exact ih (fencePort_keeps_dark h)

theorem fencePorts_dark {i : Nat} {l : List Nat} {s : State} (h : i ∈ l) : portLit (portOf (l.foldl fencePort s) i) = false := by
  induction l generalizing s with
  | nil => exact absurd h List.not_mem_nil
  | cons j l ih =>
    rcases List.mem_cons.mp h with rfl | h
    · exact fencePorts_keep_dark l fencePort_dark
    · exact ih h

/-- The ports that are up send FENCE_IDLE. -/
def fenceLit (s : State) : State := ((List.range 16).filter fun i => portLit (portOf s i)).foldl fencePort s

theorem fenceLit_dark {s : State} {i : Nat} (hi : i < 16) : portLit (portOf (fenceLit s) i) = false := by
  by_cases h : portLit (portOf s i) = true
  · exact fencePorts_dark (List.mem_filter.mpr ⟨List.mem_range.mpr hi, h⟩)
  · exact fencePorts_keep_dark _ (Bool.eq_false_iff.mpr h)

/-- All of a state but its links and outputs. -/
def beyondFence (s : State) : State := { s with links := {}, outbox := [] }

theorem beyondFence_fenceLit (s : State) : beyondFence (fenceLit s) = beyondFence s :=
  foldl_same beyondFence (fun s i => by rfl) _ _

/-! ## What enters with the fault -/

/-- The collector has taken the fault with every other on its lines, and the ports are fenced. -/
def faultTaken (f : FaultIn) (s : State) : State := fenceLit (collectAll (raiseFault f s))

/-- What the safe state stops at once. -/
def stopAll (stewardLost recordLost : Bool) (s : State) : State :=
  { s with
    collector.safe := true
    collector.stewardLost := s.collector.stewardLost || stewardLost
    collector.recordLost := s.collector.recordLost || recordLost
    collector.alert := true
    cores.cores := tmap s.cores.cores fun _ c => { c with movers := [], saving := false, restoring := false, sample := none }
    tiers.moves := []
    pairs := tmap s.pairs fun _ p => { p with running := none, loading := none }
    trust.writing := none
    trust.next := [] }

theorem enterSafe_eq (f : FaultIn) (a b : Bool) (s : State) : enterSafe f a b s = stopAll a b (faultTaken f s) := rfl

/-- All of a state but what a fault and the fencing may change. -/
def beyondTaken (s : State) : State := beyondFence (beyondFault s)

theorem beyondTaken_faultTaken (f : FaultIn) (s : State) : beyondTaken (faultTaken f s) = beyondTaken s := by
  have hfence : beyondTaken (faultTaken f s) = beyondTaken (collectAll (raiseFault f s)) :=
    (congrArg beyondFault (beyondFence_fenceLit (collectAll (raiseFault f s))) :)
  have hfault : beyondFault (collectAll (raiseFault f s)) = beyondFault s := (beyondFault_collectAll _).trans rfl
  rw [hfence, beyondTaken, hfault]
  rfl

section Taken
variable {s t : State} (h : beyondTaken t = beyondTaken s)
include h

theorem mem_of_beyondTaken : t.mem = s.mem := (congrArg State.mem h :)

theorem stewardLost_of_beyondTaken : t.collector.stewardLost = s.collector.stewardLost :=
  (congrArg (fun u : State => u.collector.stewardLost) h :)

theorem board_of_beyondTaken : t.board = s.board := (congrArg State.board h :)

end Taken

theorem pairOf_stopAll (a b : Bool) (s : State) (i : Nat) : (pairOf (stopAll a b s) i).running = none := by
  change (tget (tmap s.pairs fun _ p => { p with running := none, loading := none }) i {}).running = none
  rw [tget, tget?_tmap]
  cases tget? s.pairs i <;> rfl

theorem enterSafe_effects (f : FaultIn) (a b : Bool) (s : State) :
    (enterSafe f a b s).collector.safe = true ∧ (enterSafe f a b s).tiers.moves = [] ∧ (enterSafe f a b s).trust.writing = none ∧
      (∀ i : Nat, (pairOf (enterSafe f a b s) i).running = none) ∧
      (∀ i : Fin 16, portUp (portOf (enterSafe f a b s) i.val) = false) ∧ (enterSafe f a b s).mem = s.mem := by
  rw [enterSafe_eq]
  refine ⟨rfl, rfl, rfl, pairOf_stopAll a b _, fun i => ?_, (mem_of_beyondTaken (beyondTaken_faultTaken f s) :)⟩
  have hdark : portLit (portOf (faultTaken f s) i.val) = false := fenceLit_dark i.isLt
  change portUp (portOf (faultTaken f s) i.val) = false
  rw [portUp, hdark, Bool.false_and]

/-! ## What puts the device there -/

theorem doubleFault_alone {c : Nat} {s : State} (h : s.steward.standby ≠ .healthy) :
    doubleFault c s = enterSafe { code := 0x0803, cls := 3, sev := 2, die := actingDie s, detail := w64 c } true false s := by
  unfold doubleFault actingFault
  exact if_neg (by simp [h])

theorem exec_collectorSelfFault_running {mask : W64} {s : State} (hr : Running s) :
    exec (.collectorSelfFault mask) s = .next (collectorFault mask s) :=
  congrArg _ (if_pos (by simp [hr.1]))

theorem collectorFault_running {mask : W64} {s : State} (hr : Running s) :
    (collectorFault mask s).collector.safe = true ∧ (collectorFault mask s).collector.first.valid = true ∧
      (collectorFault mask s).collector.first.code = 0x0804 ∧ (collectorFault mask s).collector.first.detail = mask := by
  refine ⟨?_, rfl, rfl, rfl⟩
  unfold collectorFault
  rw [hr.2]
  rfl

theorem exec_supplyCollapse_running {r : RailId} {s : State} (hr : Running s) :
    exec (.supplyCollapse r) s = .next (supplyCollapse r.val s) :=
  congrArg _ (if_pos (by simp [hr.1]))

/-- The first rail that fails, on a rail that does not feed the collector. -/
theorem supplyCollapse_first {r : Nat} {s : State} (hr : Running s) (hc : collectorRail r = false) (hb : s.board.collapsed = []) :
    (supplyCollapse r s).collector.safe = true ∧ (supplyCollapse r s).board.collapsed = [r] ∧
      (supplyCollapse r s).collector.stewardLost = (s.collector.stewardLost || stewardRail s r) := by
  unfold supplyCollapse
  simp only [hr.2, hc, Bool.false_eq_true, if_false, enterSafe_eq]
  generalize hf : ({ code := 0x0806, cls := 3, sev := 2, die := railDie r, unit := r, detail := w64 r } : FaultIn) = f
  have hkept := beyondTaken_faultTaken f s
  have hboard : (stopAll (stewardRail s r) false (faultTaken f s)).board.collapsed = [] :=
    (congrArg Board.collapsed (board_of_beyondTaken hkept)).trans hb
  refine ⟨rfl, ?_, congrArg (· || stewardRail s r) (stewardLost_of_beyondTaken hkept)⟩
  rw [hboard]
  rfl

/-! ## Messages in the safe state -/

theorem message_inSafe {fn : Fn} {hdr : Hdr} {op : Nat} {pf : Bool} {body : Body} {s : State} (hs : InSafe s)
    (hl : s.steward.life = .ready) (hlost : s.collector.stewardLost = false) (hf : fnExists s fn = true) (ho : op ≠ 0x0001) :
    message fn hdr op pf body s = refusedWith fn op hdr 0x0205 s := by
  unfold InSafe at hs
  have ha : answers s = true := by simp [answers, hl, hlost]
  have hm : modeRefuses op s = true := by simp [modeRefuses, hl, hs, ho]
  simp [message, refusedWith, ha, hf, hm]

theorem message_stewardLost {fn : Fn} {hdr : Hdr} {op : Nat} {pf : Bool} {body : Body} {s : State} (hs : InSafe s)
    (hl : s.steward.life = .ready) (hlost : s.collector.stewardLost = true) : message fn hdr op pf body s = .next s := by
  unfold InSafe at hs
  have ha : answers s = false := by simp [answers, hl, hs, hlost]
  simp [message, ha]

/-- Settles O23: the causes all go through `enterSafe`, whose effects are `enterSafe_effects`; messages there are refused, or
dropped where the steward is lost. -/
theorem safeStateIsEnteredAndSilent : Obligations.SafeStateIsEnteredAndSilent := by
  refine ⟨?hot, ?cool, ?steward, ?collector, ?collapse, enterSafe_effects, ?refused, ?silent⟩
  case hot => exact fun d temp s hr h => (whenLive_running hr).trans (congrArg _ (if_neg (Int.not_lt.mpr h)))
  case cool => exact fun d temp s hr h => (whenLive_running hr).trans (congrArg _ (if_pos h))
  case steward => exact fun c s hr h => (whenLive_running hr).trans (congrArg _ (doubleFault_alone h))
  case collector => exact fun mask s hr => ⟨_, exec_collectorSelfFault_running hr, collectorFault_running hr⟩
  case collapse => exact fun r s hr hc hb => ⟨_, exec_supplyCollapse_running hr, supplyCollapse_first hr hc hb⟩
  case refused => exact fun fn hdr op pf body s hs hl hlost hf ho => message_inSafe hs hl hlost hf ho
  case silent => exact fun fn hdr op pf body s hs hl hlost => message_stewardLost hs hl hlost

end Sys2Proof.Architecture

/-!
PROOFS. Gears, dips and references (R571 to R582), the power word (R587), and the actions of a tick edge (R39 to R42).
-/
namespace Sys2Proof.Architecture
open Sys2Proof Sys2Proof.Machine Sys2Proof.Safety

/-! ## Gears -/

section Gears
variable {d : Nat} {s : State}

theorem gearStep_up (h : (cdOf s d).gear < (cdOf s d).target) (ha : (cdOf s d).avs = none) (hs : (cdOf s d).gear < (cdOf s d).setpoint) :
    gearStep d s = modCd d (fun c => { c with gear := c.gear + 1 }) s := by
  simp [gearStep, Nat.lt_asymm h, h, ha, hs]

theorem gearStep_waits (h : (cdOf s d).gear < (cdOf s d).target) (hs : (cdOf s d).setpoint ≤ (cdOf s d).gear) : gearStep d s = s := by
  simp [gearStep, Nat.lt_asymm h, Nat.not_lt.mpr hs]

/-- A step down, with the setpoint that falls after the last one, changes that die's gear and setpoint only. -/
theorem gearStep_down (h : (cdOf s d).target < (cdOf s d).gear) :
    (cdOf (gearStep d s) d).gear = (cdOf s d).gear - 1 ∧ (cdOf (gearStep d s) d).target = (cdOf s d).target ∧
      (∀ e : Nat, e ≠ d → cdOf (gearStep d s) e = cdOf s e) ∧ (gearStep d s).mem = s.mem := by
  have hother : ∀ (f : Cd → Cd) (t : State) (e : Nat), e ≠ d → cdOf (modCd d f t) e = cdOf t e := fun _ _ _ he => cdOf_modCd_other he
  have hemit : ∀ (o : Output) (t : State) (e : Nat), cdOf (emit o t) e = cdOf t e := fun _ _ _ => rfl
  unfold gearStep
  simp only [h, if_true]
  split
  · refine ⟨?_, ?_, fun e he => ?_, rfl⟩
    · simp only [hemit, cdOf_modCd_same]
    · simp only [hemit, cdOf_modCd_same]
    · rw [hemit, hother _ _ _ he, hother _ _ _ he]
  · refine ⟨?_, ?_, fun e he => hother _ _ _ he, rfl⟩
    · simp only [cdOf_modCd_same]
    · simp only [cdOf_modCd_same]

theorem avsAck_waiting {g : Nat} (h : (cdOf s d).avs = some g) : avsAck d s = modCd d (fun c => { c with avs := none, setpoint := g }) s := by
  simp [avsAck, h]

theorem avsTimeout_waiting {g : Nat} (h : (cdOf s d).avs = some g) :
    avsTimeout d s = gearEvent d (cdOf s d).gear (cdOf s d).gear 6 (modCd d (fun c => { c with avs := none, target := (cdOf s d).gear }) s) := by
  simp [avsTimeout, h, modCd]

end Gears

/-- Settles O25: a step of the divider by the target and the setpoint, and the two ends of a setpoint's request. -/
theorem gearSteps : Obligations.GearSteps := by
  refine ⟨?up, ?down, ?waits, ?ack, ?timeout⟩
  case up => exact fun d s hr h ha hs => (whenLive_running hr).trans (congrArg _ (gearStep_up h ha hs))
  case down => exact fun d s hr h => ⟨_, whenLive_running hr, gearStep_down h⟩
  case waits => exact fun d s hr h hs => (whenLive_running hr).trans (congrArg _ (gearStep_waits h hs))
  case ack => exact fun d s g hr h => (whenLive_running hr).trans (congrArg _ (avsAck_waiting h))
  case timeout => exact fun d s g hr h => (whenLive_running hr).trans (congrArg _ (avsTimeout_waiting h))

/-! ## What a new target leaves -/

theorem cores_of_beyondRecord {s t : State} (h : beyondRecord t = beyondRecord s) : t.cores = s.cores := (congrArg State.cores h :)

theorem gearEvent_cores (d old new cause : Nat) (s : State) : (gearEvent d old new cause s).cores = s.cores :=
  cores_of_beyondRecord (beyondRecord_recEvent ..)

theorem cdOf_of_cores {s t : State} (h : t.cores = s.cores) (e : Nat) : cdOf t e = cdOf s e := congrArg (fun c : Cores => tget c.cds e {}) h

/-- All of a state but what a new target of a die may change. -/
def beyondTarget (s : State) : State := { beyondRecord s with outbox := [], cores.cds := [] }

theorem beyondTarget_gearEvent (d old new cause : Nat) (s : State) : beyondTarget (gearEvent d old new cause s) = beyondTarget s := by
  unfold beyondTarget gearEvent
  rw [beyondRecord_recEvent]

theorem beyondTarget_emit (o : Output) (s : State) : beyondTarget (emit o s) = beyondTarget s := rfl

theorem beyondTarget_modCd (d : Nat) (f : Cd → Cd) (s : State) : beyondTarget (modCd d f s) = beyondTarget s := rfl

theorem beyondTarget_retarget (before d cause : Nat) (s : State) : beyondTarget (retarget before d cause s) = beyondTarget s := by
  have hevent : ∀ old new (f : Cd → Cd), beyondTarget (gearEvent d old new cause (modCd d f s)) = beyondTarget s :=
    fun old new f => (beyondTarget_gearEvent ..).trans (beyondTarget_modCd ..)
  unfold retarget setTarget
  dsimp only
  split
  · rfl
  · split
    · rfl
    · split
      · rw [beyondTarget_emit, beyondTarget_modCd]
        exact hevent _ _ _
      · exact hevent _ _ _

section Target
variable {s t : State} (h : beyondTarget t = beyondTarget s)
include h

theorem board_of_beyondTarget : t.board = s.board := (congrArg State.board h :)

theorem freewheel_of_beyondTarget : t.cores.freewheel = s.cores.freewheel := (congrArg (fun u : State => u.cores.freewheel) h :)

theorem refsLost_of_beyondTarget : t.cores.refsLost = s.cores.refsLost := (congrArg (fun u : State => u.cores.refsLost) h :)

end Target

theorem cdOf_emit (o : Output) (s : State) (e : Nat) : cdOf (emit o s) e = cdOf s e := rfl

/-- A change of a die that leaves its dips. -/
theorem dips_modCd {d e : Nat} {f : Cd → Cd} {s : State} (hf : ∀ c, (f c).dips = c.dips) : (cdOf (modCd d f s) e).dips = (cdOf s e).dips := by
  by_cases h : e = d
  · subst h
    rw [cdOf_modCd_same, hf]
  · rw [cdOf_modCd_other h]

theorem dips_retarget (before d cause e : Nat) (s : State) : (cdOf (retarget before d cause s) e).dips = (cdOf s e).dips := by
  have hevent : ∀ old new g, (cdOf (gearEvent d old new cause (modCd d (fun c => { c with target := g }) s)) e).dips = (cdOf s e).dips :=
    fun old new g => (congrArg Cd.dips (cdOf_of_cores (gearEvent_cores ..) e)).trans (dips_modCd fun _ => rfl)
  unfold retarget setTarget
  dsimp only
  split
  · rfl
  · split
    · rfl
    · split
      · rw [cdOf_emit, dips_modCd (f := fun c => { c with avs := some (gearWant s d) }) fun _ => rfl]
        exact hevent _ _ _
      · exact hevent _ _ _

theorem beyondTarget_regear (dies : List Nat) (cause : Nat) (f : State → State) (s : State) :
    beyondTarget (regear dies cause f s) = beyondTarget (f s) :=
  foldl_same beyondTarget (fun t d => beyondTarget_retarget _ d cause t) dies (f s)

theorem dips_regear (dies : List Nat) (cause e : Nat) (f : State → State) (s : State) :
    (cdOf (regear dies cause f s) e).dips = (cdOf (f s) e).dips :=
  foldl_same (fun t : State => (cdOf t e).dips) (fun t d => dips_retarget _ d cause e t) dies (f s)

/-! ## Supply dips -/

/-- The rail joins the dips of a die. -/
def addDip (rail : Nat) (s : State) (d : Nat) : State :=
  modCd d (fun c => { c with dips := if c.dips.contains rail then c.dips else c.dips ++ [rail] }) s

theorem addDip_same (rail d : Nat) (s : State) : rail ∈ (cdOf (addDip rail s d) d).dips := by
  rw [addDip, cdOf_modCd_same]
  dsimp only
  split
  · exact List.contains_iff_mem.mp ‹_›
  · exact List.mem_append_right _ (List.mem_singleton_self _)

theorem addDip_other {rail d e : Nat} {s : State} (h : e ≠ d) : cdOf (addDip rail s d) e = cdOf s e := cdOf_modCd_other h

theorem addDip_keeps {rail d e : Nat} {s : State} (h : rail ∈ (cdOf s e).dips) : rail ∈ (cdOf (addDip rail s d) e).dips := by
  by_cases he : e = d
  · exact he ▸ addDip_same rail d s
  · rwa [addDip_other he]

theorem addDips_keep {rail e : Nat} (l : List Nat) {s : State} (h : rail ∈ (cdOf s e).dips) : rail ∈ (cdOf (l.foldl (addDip rail) s) e).dips := by
  induction l generalizing s with
  | nil => exact h
  | cons d l ih => exact ih (addDip_keeps h)

theorem addDips_mem {rail e : Nat} {l : List Nat} {s : State} (h : e ∈ l) : rail ∈ (cdOf (l.foldl (addDip rail) s) e).dips := by
  induction l generalizing s with
  | nil => exact absurd h List.not_mem_nil
  | cons d l ih =>
    rcases List.mem_cons.mp h with rfl | h
    · exact addDips_keep l (addDip_same rail e s)
    · exact ih h

theorem addDips_not_mem {rail e : Nat} {l : List Nat} {s : State} (h : e ∉ l) : cdOf (l.foldl (addDip rail) s) e = cdOf s e := by
  induction l generalizing s with
  | nil => rfl
  | cons d l ih =>
    obtain ⟨hd, hl⟩ := not_or.mp fun e => h (List.mem_cons.mpr e)
    exact (ih hl).trans (addDip_other hd)

theorem addDips_board (rail : Nat) (l : List Nat) (s : State) : (l.foldl (addDip rail) s).board = s.board :=
  foldl_same State.board (fun s d => by rfl) l s

theorem supplyDip_eq (rail : Nat) (s : State) :
    supplyDip rail s = regear (dipDies rail) 1 (fun s => (dipDies rail).foldl (addDip rail) { s with board.dips := tset s.board.dips rail false }) s :=
  rfl

theorem supplyDip_effects (rail : Nat) (s : State) :
    tget? (supplyDip rail s).board.dips rail = some false ∧ (∀ d, d ∈ dipDies rail → rail ∈ (cdOf (supplyDip rail s) d).dips) ∧
      (∀ d : Nat, d < 4 → d ∉ dipDies rail → (cdOf (supplyDip rail s) d).dips = (cdOf s d).dips) := by
  rw [supplyDip_eq]
  refine ⟨?_, fun d hd => ?_, fun d _ hd => ?_⟩
  · rw [board_of_beyondTarget (beyondTarget_regear ..), addDips_board]
    exact tget?_tset_same
  · rw [dips_regear]
    exact addDips_mem hd
  · rw [dips_regear, addDips_not_mem hd]
    rfl

/-! ## Freewheel -/

/-- A die's reference is lost. -/
def loseReference (d : Nat) (s : State) : State :=
  { s with cores.refsLost := if s.cores.refsLost.contains (mainRef s d) then s.cores.refsLost else s.cores.refsLost ++ [mainRef s d] }

/-- The die freewheels. -/
def setFreewheel (d : Nat) (s : State) : State := { s with cores.freewheel := s.cores.freewheel ++ [d] }

theorem freewheel_eq {d : Nat} {s : State} (hd : d < 4) (h : freewheels s d = false) :
    freewheel d s = if gearWant (loseReference d s) d = 0 then
        gearEvent d (cdOf (loseReference d s) d).target 0 4 (setFreewheel d (loseReference d s))
      else regear [d] 4 (setFreewheel d) (loseReference d s) := by
  unfold freewheel
  rw [h, if_neg Bool.false_ne_true]
  exact if_pos hd

/-- A compute die that freewheels has its new state but for a target, an event and a request. -/
theorem beyondTarget_freewheel {d : Nat} {s : State} (hd : d < 4) (h : freewheels s d = false) :
    beyondTarget (freewheel d s) = beyondTarget (setFreewheel d (loseReference d s)) := by
  rw [freewheel_eq hd h]
  split
  · exact beyondTarget_gearEvent ..
  · exact beyondTarget_regear ..

theorem freewheel_effects {d : Nat} {s : State} (hd : d < 4) (h : freewheels s d = false) :
    freewheels (freewheel d s) d = true ∧ gearWant (freewheel d s) d = 0 ∧ mainRef s d ∈ (freewheel d s).cores.refsLost := by
  have hkept := beyondTarget_freewheel hd h
  have hfree : freewheels (freewheel d s) d = true := by
    rw [freewheels, freewheel_of_beyondTarget hkept]
    exact List.contains_iff_mem.mpr (List.mem_append_right _ (List.mem_singleton_self _))
  refine ⟨hfree, ?_, ?_⟩
  · rw [gearWant, hfree]
    rfl
  · rw [refsLost_of_beyondTarget hkept]
    change mainRef s d ∈ if s.cores.refsLost.contains (mainRef s d) then s.cores.refsLost else s.cores.refsLost ++ [mainRef s d]
    split
    · exact List.contains_iff_mem.mp ‹_›
    · exact List.mem_append_right _ (List.mem_singleton_self _)

/-- Settles O26: a dip's dies and its one record, a lost reference, and the power word. -/
theorem dipsReferencesAndPowerWords : Obligations.DipsReferencesAndPowerWords := by
  refine ⟨?dip, ?record, ?recorded, ?freewheel, ?power, ?badPower⟩
  case dip => exact fun r lowest s hr => ⟨_, whenLive_running hr, supplyDip_effects r.val s⟩
  case record =>
    intro r lowest below s hr h
    refine (whenLive_running hr).trans (congrArg _ ?_)
    simp [dipRecord, h]
  case recorded =>
    intro r lowest below s hr h
    refine (whenLive_running hr).trans (congrArg _ ?_)
    simp [dipRecord, h]
  case freewheel => exact fun d s hr h => ⟨_, whenLive_running hr, freewheel_effects d.isLt h⟩
  case power => exact fun hdr w s hh hroom hw => heardPf_accepted hh (by decide) (need_of hw) hroom
  case badPower => exact fun hdr w s hh hw => heardPf_refused hh (by decide) (need_not hw)

/-! ## The tick edge -/

theorem tickEdge_onTime {env : TickEnv} {s : State} (h : env.late = false) : tickEdge env s = tickRest (tickActions env s) := by
  simp [tickEdge, h]

theorem tickEdge_late {env : TickEnv} {s : State} (h : env.late = true) :
    tickEdge env s = tickRest (tickActions env (devEvent 0x0002 0xFFFE 1 s)) := by
  simp [tickEdge, h]

/-- Settles O27: the seven actions are `tickActions`. -/
theorem tickEdgeActions : Obligations.TickEdgeActions := by
  refine ⟨?onTime, ?late, fun s => ⟨rfl, rfl, rfl, rfl⟩⟩
  case onTime => exact fun env s hr h => (whenLive_running hr).trans (congrArg _ (tickEdge_onTime h))
  case late => exact fun env s hr h => (whenLive_running hr).trans (congrArg _ (tickEdge_late h))

end Sys2Proof.Architecture

/-!
PROOFS. Takeovers of the steward clusters (R553 to R557), live updates and microcode (R556, R558, R600, R603).
-/
namespace Sys2Proof.Architecture
open Sys2Proof Sys2Proof.Machine Sys2Proof.Safety

/-! ## Takeovers -/

theorem steward_of_beyondRecord {s t : State} (h : beyondRecord t = beyondRecord s) :
    { t.steward with eventDue := false } = { s.steward with eventDue := false } :=
  (congrArg State.steward h :)

theorem parts_of_beyondRecord {s t : State} (h : beyondRecord t = beyondRecord s) : t.parts = s.parts := (congrArg State.parts h :)

theorem trust_of_beyondRecord {s t : State} (h : beyondRecord t = beyondRecord s) : t.trust = s.trust := (congrArg State.trust h :)

theorem actingFault_standby {c : Nat} {s : State} (h : s.steward.standby = .healthy) : actingFault c s = takeover c s := by
  simp [actingFault, h]

/-- The standby takes the mailboxes, and the failed cluster is to test itself. -/
def standbyTakes (s : State) : State :=
  takeMailboxes { s with steward.standby := .testing, steward.standbyImage := s.steward.image, steward.switchPending := false,
                         steward.revertPending := false }

/-- A takeover with no update under way and no command that it ends. -/
theorem takeover_idle {c : Nat} {s : State} (hp : s.steward.phase = .idle) (hr : updateHandles s isRevert = [])
    (hs : updateHandles s isSwitch = []) :
    takeover c s = recEvent 0x0005 0xFFFE none 31 0xFFFF 0 []
      (standbyTakes (raiseFault { code := 0x0802, cls := 1, sev := 0, die := actingDie s, detail := w64 c } s)) := by
  generalize hf : ({ code := 0x0802, cls := 1, sev := 0, die := actingDie s, detail := w64 c } : FaultIn) = f
  have hp' : (raiseFault f s).steward.phase = .idle := hp
  have hr' : updateHandles (raiseFault f s) isRevert = [] := hr
  have hs' : updateHandles (raiseFault f s) isSwitch = [] := hs
  unfold takeover
  simp only [hf, hp', hr', finishAll, List.foldl_nil, hs', standbyTakes]

theorem takeover_effects {c : Nat} {s : State} (hp : s.steward.phase = .idle) (hr : updateHandles s isRevert = [])
    (hs : updateHandles s isSwitch = []) :
    (takeover c s).steward.onXd1 = !s.steward.onXd1 ∧ (takeover c s).steward.standby = .testing ∧
      (takeover c s).steward.image = s.steward.image ∧ (takeover c s).parts = s.parts := by
  rw [takeover_idle hp hr hs]
  generalize hf : raiseFault { code := 0x0802, cls := 1, sev := 0, die := actingDie s, detail := w64 c } s = u
  have hsteward : u.steward = s.steward := by rw [← hf]; rfl
  have hparts : u.parts = s.parts := by rw [← hf]; rfl
  have hrec := beyondRecord_recEvent 0x0005 0xFFFE none 31 0xFFFF 0 [] (standbyTakes u)
  have hst := steward_of_beyondRecord hrec
  exact ⟨(congrArg Steward.onXd1 hst :).trans (congrArg (fun x : Steward => !x.onXd1) hsteward :), (congrArg Steward.standby hst :),
    (congrArg Steward.image hst :).trans (congrArg Steward.image hsteward :), (parts_of_beyondRecord hrec).trans hparts⟩

theorem selfTest_passed {s : State} (h : s.steward.standby = .testing) :
    selfTest true s = { s with steward.standby := .healthy, steward.standbyImage := s.steward.image } := by
  simp [selfTest, h]

theorem selfTest_failed {s : State} (h : s.steward.standby = .testing) : selfTest false s = { s with steward.standby := .none } := by
  simp [selfTest, h]

theorem standbyFault_quiet {s : State} (h : s.steward.standby = .healthy) (hp : s.steward.phase ≠ .follow) :
    standbyFault s = { s with steward.standby := .testing } := by
  simp [standbyFault, h, hp]

/-- The clusters' images and mailboxes at a handover. -/
def handedOver (s : State) : State :=
  takeMailboxes (setPhase .handedOver { s with
    steward.image := s.steward.standbyImage
    steward.standbyImage := s.steward.image
    steward.oldImage := some s.steward.image
    trust.uncommitted := true })

theorem handedOver_effects (s : State) :
    (handedOver s).steward.image = s.steward.standbyImage ∧ (handedOver s).steward.standbyImage = s.steward.image ∧
      (handedOver s).steward.oldImage = some s.steward.image ∧ (handedOver s).steward.phase = .handedOver ∧
      (handedOver s).trust.uncommitted = true ∧ (handedOver s).steward.onXd1 = !s.steward.onXd1 ∧
      (handedOver s).steward.handles = s.steward.handles := by
  have hrec := beyondRecord_recEvent 0x6003 0xFFFE none 31 0xFFFF 0 []
    { s with steward.image := s.steward.standbyImage, steward.standbyImage := s.steward.image, steward.oldImage := some s.steward.image,
             trust.uncommitted := true, steward.phase := .handedOver }
  have hst := steward_of_beyondRecord hrec
  exact ⟨(congrArg Steward.image hst :), (congrArg Steward.standbyImage hst :), (congrArg Steward.oldImage hst :),
    (congrArg Steward.phase hst :), (congrArg Trust.uncommitted (trust_of_beyondRecord hrec) :),
    (congrArg (fun x : Steward => !x.onXd1) hst :), (congrArg Steward.handles hst :)⟩

theorem updateHandles_of_handles {s t : State} (h : t.steward.handles = s.steward.handles) (p : LongOp → Bool) :
    updateHandles t p = updateHandles s p := by
  simp only [updateHandles, openHandles, h]

theorem handOver_alone {s : State} (hp : s.steward.phase = .follow) (hh : s.steward.standby = .healthy) (hu : updateHandles s isUpdate = []) :
    handOver s = handedOver s := by
  obtain ⟨-, -, -, -, -, -, hhandles⟩ := handedOver_effects s
  have hnone : updateHandles (handedOver s) isUpdate = [] := (updateHandles_of_handles hhandles isUpdate).trans hu
  unfold handOver
  rw [hp, hh]
  change (updateHandles (handedOver s) isUpdate).foldl _ (handedOver s) = handedOver s
  rw [hnone]
  rfl

/-- Settles O29: takeover, self-test and handover, each with its images and mailboxes. -/
theorem stewardTakeovers : Obligations.StewardTakeovers := by
  refine ⟨?acting, fun c s hp hr hs => takeover_effects hp hr hs, ?passed, ?failed, ?standby, ?handover, ?switch⟩
  case acting => exact fun c s hr h => (whenLive_running hr).trans (congrArg _ (actingFault_standby h))
  case passed => exact fun s hr h => (whenLive_running hr).trans (congrArg _ (selfTest_passed h))
  case failed => exact fun s hr h => (whenLive_running hr).trans (congrArg _ (selfTest_failed h))
  case standby => exact fun s hr h hp => (whenLive_running hr).trans (congrArg _ (standbyFault_quiet h hp))
  case handover =>
    intro s hr hp hh hu
    obtain ⟨himage, hstandby, hold, hphase, hunc, hxd, -⟩ := handedOver_effects s
    exact ⟨_, (whenLive_running hr).trans (congrArg _ (handOver_alone hp hh hu)), himage, hstandby, hold, hphase, hunc, hxd⟩
  case switch =>
    intro hdr s hh hroom hs hp hw
    exact heardPf_accepted hh (by decide) (need_of (by simp [hs, hp, hw])) hroom

/-! ## Live updates and microcode -/

theorem ucodeBody_free {hdr : Hdr} {pair : W64} {image : FwImage} {s : State} (hp : pair.toNat < 16)
    (hl : (s.pairs.any fun e => e.2.loading.isSome) = false) :
    ucodeBody 0 hdr pair image s = long 0 hdr none 9 (.ucode pair.toNat) s (after := fun h s =>
      if imgGood s 1 image then modPair pair.toNat (fun r => { r with loading := some (image, h) }) s else finish h 0x0207 0 s) := by
  unfold ucodeBody
  rw [need_of (decide_eq_true hp), need_of (by rw [hl]; rfl)]

theorem ucodeDone_idle {i h : Nat} {f : FwImage} {s : State} (hl : (pairOf s i).loading = some (f, h)) (hr : (pairOf s i).running = none) :
    ucodeDone i s = takeNext i (commitUcode f (finish h 0 0 (modPair i (fun r => { r with ucode := f, loading := none }) s))) := by
  simp [ucodeDone, hl, hr]

/-- Settles O30: each body goes through its one condition; a load ends at the pair's boundary. -/
theorem liveUpdatesAndMicrocode : Obligations.LiveUpdatesAndMicrocode := by
  refine ⟨?update, ?commit, ?revert, ?ucode, ?loaded⟩
  case update =>
    intro hdr image s hh hroom hs hp hw hc hj
    exact heardPf_accepted hh (by decide) (need_of (by simp [hs, hp, hw, hc, hj])) hroom
  case commit =>
    intro hdr s hh hroom hp hc hr
    exact heardPf_accepted hh (by decide) (need_of (by simp [hp, hc, hr])) hroom
  case revert =>
    intro hdr s hh hroom hp hc hr hs
    exact heardPf_accepted hh (by decide) (need_of (by simp [hp, hc, hr, hs])) hroom
  case ucode => exact fun hdr pair image s hh hroom hp hl => heardPf_accepted hh (by decide) (ucodeBody_free hp hl) hroom
  case loaded => exact fun i s f h hr hl hi => (whenLive_running hr).trans (congrArg _ (ucodeDone_idle hl hi))

end Sys2Proof.Architecture

/-!
PROOFS. Attestation, identity and owners (R608, R609, R611), settings records and recovery (R602, R604 to R606).
-/
namespace Sys2Proof.Architecture
open Sys2Proof Sys2Proof.Machine Sys2Proof.Safety

/-! ## Attestation and owners -/

section Owners
variable {hdr : Hdr} {key sig : List Byte} {s : State}

theorem enrollBody_open (hk : keyFormOk key = true) (hu : s.trust.uncommitted = false) (ho : ownerSlot s < 4)
    (hsig : sig.length = if ownerSlot s = 0 then 0 else 132) :
    enrollBody 0 hdr key sig s = long 0 hdr none 0xA .none s (after := fun h s' =>
      if enrolSigned s' key sig then finish h 0 (w64 (ownerSlot s + 1)) (enrol (ownerSlot s + 1) key s') else finish h 0x0207 0 s') := by
  have hlen : (sig.length == if ownerSlot s + 1 = 1 then 0 else 132) = true := by simpa using hsig
  unfold enrollBody
  rw [need_of (by rw [hk, hlen]; rfl), need_of (by rw [hu]; rfl), need_of (decide_eq_true (Nat.succ_le_of_lt ho))]

theorem enrollBody_full (hk : keyFormOk key = true) (hu : s.trust.uncommitted = false) (ho : 4 ≤ ownerSlot s) :
    enrollBody 0 hdr key sig s = .error 0x0206 := by
  have hfull : decide (4 < ownerSlot s + 1) = true := decide_eq_true (Nat.lt_succ_of_le ho)
  unfold enrollBody
  rw [need_of (by rw [hk, hfull, Bool.or_true]; rfl), need_of (by rw [hu]; rfl), need_not (decide_eq_false (Nat.not_le_of_lt (Nat.lt_succ_of_le ho)))]

end Owners

/-- Settles O31: the destination is looked at, then the report or certificate is a long command's work; a key needs an unblown slot. -/
theorem attestationAndOwners : Obligations.AttestationAndOwners := by
  refine ⟨?attest, ?identity, ?enroll, ?full⟩
  case attest =>
    exact fun fn hdr nonce dst p x s hh hroom hd hx hr => heard_accepted hh (by decide) (needDest_records hd hx hr) hroom
  case identity =>
    exact fun fn hdr dst p x s hh hroom hd hx hr => heard_accepted hh (by decide) (needDest_records hd hx hr) hroom
  case enroll =>
    exact fun hdr key sig s hh hroom hk hu ho hsig => heardPf_accepted hh (by decide) (enrollBody_open hk hu ho hsig) hroom
  case full => exact fun hdr key sig s hh hk hu ho => heardPf_refused hh (by decide) (enrollBody_full hk hu ho)

/-! ## Settings records -/

section Records
variable {s : State} {x : Settings}

/-- Room for a record changes the half of the flash and what is used of it. -/
theorem takeRoom_eq (n : Nat) (s : State) : ∃ half used, takeRoom n s = { s with trust.half := half, trust.used := used } := by
  unfold takeRoom
  split
  · exact ⟨_, _, rfl⟩
  · exact ⟨_, _, rfl⟩

/-- The next record leaves the one in force and the counts of failures. -/
theorem beginNext_trust (s : State) : (beginNext s).trust.inForce = s.trust.inForce ∧ (beginNext s).trust.inForceSeq = s.trust.inForceSeq ∧
    (beginNext s).trust.stale = s.trust.stale ∧ (beginNext s).trust.failed = s.trust.failed := by
  unfold beginNext
  split
  · exact ⟨rfl, rfl, rfl, rfl⟩
  · exact ⟨rfl, rfl, rfl, rfl⟩

/-- A record takes force, with the power word and the fuses that wait for it. -/
def recordTaken (x : Settings) (s : State) : State :=
  let t := { s with trust.inForce := x, trust.inForceSeq := s.trust.inForceSeq + 1, trust.inForceFw := imageVersion s.steward.image,
                    trust.stale := false }
  let t := if x.power = s.trust.inForce.power then t else { t with board.nextPower := some x.power }
  if x.ucodeB = s.trust.inForce.ucodeB then t else blowFuses (ucodeSlot t x.ucodeB) t

theorem recordTaken_trust (x : Settings) (s : State) :
    (recordTaken x s).trust.inForce = x ∧ (recordTaken x s).trust.inForceSeq = s.trust.inForceSeq + 1 ∧
      (recordTaken x s).trust.stale = false ∧ (recordTaken x s).trust.commitHandle = s.trust.commitHandle := by
  unfold recordTaken
  dsimp only
  split <;> split <;> exact ⟨rfl, rfl, rfl, rfl⟩

/-- Without a commit that waits, that is all. -/
theorem recordCommitted_alone (hc : s.trust.commitHandle = none) : recordCommitted x s = recordTaken x s := by
  obtain ⟨-, -, -, hkept⟩ := recordTaken_trust x s
  unfold recordCommitted
  dsimp only
  split
  · rfl
  · rename_i h e
    have hsome : (recordTaken x s).trust.commitHandle = some h := e
    rw [hkept, hc] at hsome
    exact absurd hsome nofun

theorem recordCommitted_trust (hc : s.trust.commitHandle = none) :
    (recordCommitted x s).trust.inForce = x ∧ (recordCommitted x s).trust.inForceSeq = s.trust.inForceSeq + 1 ∧
      (recordCommitted x s).trust.stale = false := by
  rw [recordCommitted_alone hc]
  obtain ⟨hf, hq, hs, -⟩ := recordTaken_trust x s
  exact ⟨hf, hq, hs⟩

theorem recordWrite_inForce (hw : s.trust.writing = some (x, [{}])) (hc : s.trust.commitHandle = none) :
    (recordWrite true s).trust.inForce = x ∧ (recordWrite true s).trust.inForceSeq = s.trust.inForceSeq + 1 ∧
      (recordWrite true s).trust.stale = false := by
  obtain ⟨half, used, hroom⟩ := takeRoom_eq (settingsSize x) s
  have hrec : recordWrite true s = beginNext (recordCommitted x { s with trust.half := half, trust.used := used }) := by
    simp [recordWrite, hw, hroom]
  obtain ⟨hf, hq, hs⟩ := recordCommitted_trust (x := x) (s := { s with trust.half := half, trust.used := used }) hc
  obtain ⟨hf', hq', hs', -⟩ := beginNext_trust (recordCommitted x { s with trust.half := half, trust.used := used })
  rw [hrec]
  exact ⟨hf'.trans hf, hq'.trans hq, hs'.trans hs⟩

theorem recordWrite_retries {ts : List Trigger} (hw : s.trust.writing = some (x, ts)) (hr : s.trust.retried = false) :
    recordWrite false s = { takeRoom (settingsSize x) s with trust.retried := true } := by
  obtain ⟨half, used, hroom⟩ := takeRoom_eq (settingsSize x) s
  simp [recordWrite, hw, hroom, hr]

theorem recordFailed_trust (hc : s.trust.commitHandle = none) :
    (recordFailed [{}] s).trust.inForce = s.trust.inForce ∧ (recordFailed [{}] s).trust.stale = true ∧
      (recordFailed [{}] s).trust.failed = s.trust.failed + 1 := by
  simp [recordFailed, hc]

theorem recordWrite_fails (hw : s.trust.writing = some (x, [{}])) (hr : s.trust.retried = true) (hc : s.trust.commitHandle = none) :
    (recordWrite false s).trust.inForce = s.trust.inForce ∧ (recordWrite false s).trust.stale = true ∧
      (recordWrite false s).trust.failed = s.trust.failed + 1 := by
  obtain ⟨half, used, hroom⟩ := takeRoom_eq (settingsSize x) s
  have hrec : recordWrite false s = beginNext (recordFailed [{}] { s with trust.half := half, trust.used := used }) := by
    simp [recordWrite, hw, hroom, hr]
  obtain ⟨hf, hs, hn⟩ := recordFailed_trust (s := { s with trust.half := half, trust.used := used }) hc
  obtain ⟨hf', -, hs', hn'⟩ := beginNext_trust (recordFailed [{}] { s with trust.half := half, trust.used := used })
  rw [hrec]
  exact ⟨hf'.trans hf, hs'.trans hs, hn'.trans hn⟩

theorem recoverBody_good {addr length : W64} {key : List Byte} (ho : ownerSlot s = 0)
    (hg : imgGood s 0 (hostImage s addr.toNat length.toNat) = true) :
    recoverBody addr length key s = .ok { st := startSteward false (markSlotA (hostImage s addr.toNat length.toNat)
      (putSteward false (hostImage s addr.toNat length.toNat) s)) } := by
  unfold recoverBody
  simp only [ho, if_true]
  rw [need_of (by rfl), need_of hg]

/-- In recovery mode FW_RECOVER reaches its body. -/
theorem message_recovery {hdr : Hdr} {body : Body} (hl : s.steward.life = .recovery) (hh : Reached s 0 hdr) :
    message 0 hdr 0x0710 true body s = .next (settle 0 0x0710 hdr (body s) s) := by
  obtain ⟨hf, hc⟩ := hh
  have ha : answers s = true := by simp [answers, hl]
  have hm : modeRefuses 0x0710 s = false := by simp [modeRefuses, hl]
  have hf' : fnExists s ((0 : Fn) : Nat) = true := hf
  simp only [message, ha, hf', hm, hc]
  rfl

end Records

/-- Settles O32: a record that reads back takes force, the first failure only takes more room, the second leaves the settings stale. -/
theorem settingsRecordsAndRecovery : Obligations.SettingsRecordsAndRecovery := by
  refine ⟨?save, ?query, ?written, ?retry, ?failed, ?recover⟩
  case save => exact fun hdr s hh hroom => heardPf_accepted hh (by decide) rfl hroom
  case query => exact fun hdr s hh => heardPf_answered hh (by decide) rfl
  case written => exact fun s x hr hw hc => ⟨_, whenLive_running hr, recordWrite_inForce hw hc⟩
  case retry => exact fun s x ts hr hw hre => (whenLive_running hr).trans (congrArg _ (recordWrite_retries hw hre))
  case failed => exact fun s x hr hw hre hc => ⟨_, whenLive_running hr, recordWrite_fails hw hre hc⟩
  case recover =>
    intro hdr addr length key s hl hh ho hg
    refine (message_recovery hl hh).trans ?_
    rw [recoverBody_good ho hg]
    rfl

/-! ## Resets and pins -/

/-- What a start-up leaves as the bare device has it: no boot path changes it. -/
def unbooted (s : State) : Table Partition × Bool × Bool × FirstFault × Table (BitVec 512) :=
  (s.parts, s.collector.safe, s.host.vfEnable, s.collector.first, s.trust.ownerDigests)

theorem unbooted_of {s t : State} (hparts : t.parts = s.parts) (hsafe : t.collector.safe = s.collector.safe)
    (hvf : t.host.vfEnable = s.host.vfEnable) (hfirst : t.collector.first = s.collector.first)
    (howner : t.trust.ownerDigests = s.trust.ownerDigests) : unbooted t = unbooted s := by
  simp only [unbooted, hparts, hsafe, hvf, hfirst, howner]

theorem unbooted_applySpares (l : List (Nat × Nat)) (s : State) : unbooted (applySpares l s) = unbooted s := by
  induction l generalizing s with
  | nil => rfl
  | cons e l ih =>
    unfold applySpares
    rw [ih]
    dsimp only
    split <;> rfl

theorem unbooted_takeRoom (n : Nat) (s : State) : unbooted (takeRoom n s) = unbooted s := by
  obtain ⟨half, used, hroom⟩ := takeRoom_eq n s
  rw [hroom]
  rfl

theorem unbooted_startSteward (b : Bool) (s : State) : unbooted (startSteward b s) = unbooted s := by
  have hfuses : unbooted (if b = s.trust.inForce.slotB then blowFuses (stewardSlot s b) s else s) = unbooted s := by
    split <;> rfl
  unfold startSteward
  rw [unbooted_applySpares]
  dsimp only
  generalize (if b = s.trust.inForce.slotB then blowFuses (stewardSlot s b) s else s) = u at hfuses ⊢
  generalize settingsSize _ = n
  obtain ⟨half, used, hroom⟩ := takeRoom_eq n u
  rw [hroom]
  exact (unbooted_of (s := u) rfl rfl rfl rfl rfl).trans hfuses

theorem unbooted_bootRom (s : State) : unbooted (bootRom s) = unbooted s := by
  unfold bootRom
  dsimp only
  split
  · exact unbooted_startSteward ..
  · split
    · exact unbooted_startSteward ..
    · rfl

theorem unbooted_release (env : BootEnv) (s : State) : unbooted (release env s) = unbooted (bareDevice env s) := by
  unfold release
  dsimp only
  split
  · rfl
  · exact unbooted_bootRom _

theorem bmcRead_own {offset count : Nat} {s : State} (hl : s.steward.life = .ready) (hb : s.board.collapsed = [])
    (h0 : s.board.straps.strap0 = false) (h1 : s.board.straps.strap1 = false) (ho : offset < 2 ^ 24) (hc : count ≤ 255) :
    bmcRead 0x4C offset count s = emit (.bus (some ((List.range count).map fun i => mirrorByte s (offset + i)))) s := by
  have hin : (decide (count ≤ 255) && decide (offset < 2 ^ 24)) = true := by rw [decide_eq_true hc, decide_eq_true ho]; rfl
  unfold bmcRead
  simp only [hl, hb, h0, h1]
  rw [if_pos]
  rw [Bool.and_assoc, hin]
  rfl

theorem bmcRead_other {a offset count : Nat} {s : State} (h : a ≠ 0x4C + (b2n s.board.straps.strap0 + 2 * b2n s.board.straps.strap1)) :
    bmcRead a offset count s = emit (.bus none) s := by
  have hmine : (a == 0x4C + (b2n s.board.straps.strap0 + 2 * b2n s.board.straps.strap1)) = false := beq_eq_false_iff_ne.mpr h
  unfold bmcRead
  simp only [hmine, Bool.and_false, Bool.false_and, Bool.false_eq_true, if_false]

/-- Settles O33: the three resets are `release`, from which every boot path keeps what the bare device has. -/
theorem resetsAndPins : Obligations.ResetsAndPins := by
  refine ⟨fun env s => rfl, ?resetN, ?shortResetN, ?perstN, ?shortPerstN, ?testEn, ?started, fun s => rfl, fun code s => rfl, ?own, ?other⟩
  case resetN => exact fun n env s h => congrArg _ (if_pos h)
  case shortResetN => exact fun n env s h => congrArg _ (if_neg (Nat.not_le.mpr h))
  case perstN => exact fun n env s h => congrArg _ (if_pos h)
  case shortPerstN => exact fun n env s h => congrArg _ (if_neg (Nat.not_le.mpr h))
  case testEn =>
    intro env s h
    unfold release
    rw [h]
    rfl
  case started =>
    intro env s
    have h := unbooted_release env s
    exact ⟨(congrArg (·.1) h :), (congrArg (·.2.1) h :), (congrArg (·.2.2.1) h :), (congrArg (·.2.2.2.1.valid) h :),
      (congrArg (·.2.2.2.2) h :)⟩
  case own => exact fun offset count s hl hb h0 h1 ho hc => congrArg _ (bmcRead_own hl hb h0 h1 ho hc)
  case other => exact fun a offset count s h => congrArg _ (bmcRead_other h)

end Sys2Proof.Architecture

/-!
PROOFS. Flits that arrive, and retry, fencing and credits (R423 to R431, R437, R438, R446).
-/
namespace Sys2Proof.Architecture
open Sys2Proof Sys2Proof.Machine Sys2Proof.Safety

/-! ## Flits that arrive -/

section Flits
variable {i : Nat} {f : Flit} {w : FlitHead} {s : State}

theorem dataFlit_inOrder (hup : portUp (portOf s i) = true) (hcrc : flitCrc f = f.crc) (hw : w = ownHead f.header)
    (hrsv : reservedSet w = false) (ht : hType w = 1 ∨ hType w = 2) (hl : 1 ≤ hChunks w) (hu : hChunks w ≤ 19)
    (hseq : hSeq w = (portOf s i).expectSeq) :
    dataFlit i true f s = returnCredits i (oweCredit i (hVc w) (takeFlit i f (takeReturns i w
      (modPort i (fun p => { p with expectSeq := (p.expectSeq + 1) % 4096, nakSent := false, fencedByPeer := false }) s)))) := by
  have htype : ¬ 5 ≤ hType w := by omega
  have hknown : ¬ (hType w ≠ 1 ∧ hType w ≠ 2) := by omega
  have hchunks : ¬ (hChunks w = 0 ∨ 19 < hChunks w) := by omega
  subst hw
  simp [dataFlit, hup, hcrc, hrsv, htype, hknown, hchunks, hseq, modPort]

theorem dataFlit_bad {ok : Bool} (hup : portUp (portOf s i) = true) (hbad : ok = false ∨ flitCrc f ≠ f.crc) :
    dataFlit i ok f s = badFlit i (ownHead f.header) s := by
  have hcond : (!ok || flitCrc f != f.crc) = true := by
    rcases hbad with h | h
    · simp [h]
    · simp [h]
  simp [dataFlit, hup, hcond]

theorem dataFlit_duplicate (hup : portUp (portOf s i) = true) (hcrc : flitCrc f = f.crc) (hw : w = ownHead f.header)
    (hrsv : reservedSet w = false) (ht : hType w = 1 ∨ hType w = 2) (hseq : hSeq w ≠ (portOf s i).expectSeq)
    (hold : ((portOf s i).expectSeq + 4095 - hSeq w) % 4096 < 2048) : dataFlit i true f s = s := by
  have htype : ¬ 5 ≤ hType w := by omega
  have hknown : ¬ (hType w ≠ 1 ∧ hType w ≠ 2) := by omega
  subst hw
  simp [dataFlit, hup, hcrc, hrsv, htype, hseq, hold]

theorem idleFlit_good (hup : portUp (portOf s i) = true) (hcrc : flitCrc f = f.crc) (hw : w = ownHead f.header)
    (ht : hType w = 0) (hc : hChunks w = 0) :
    idleFlit i true f s = takeReturns i w (modPort i (fun p => { p with fencedByPeer := false }) s) := by
  subst hw
  simp [idleFlit, hup, hcrc, ht, hc]

/-- A NAK that names the flit to come next. -/
theorem nakFlit_next (hup : portUp (portOf s i) = true) (hcrc : flitCrc f = f.crc) (hw : w = ownHead f.header)
    (ht : hType w = 3) (hc : hChunks w = 0) (hnext : (hAck w + 1) % 4096 = (portOf s i).nextSeq) :
    nakFlit i true f s = pump i (replayOnce i (takeReturns i w (modPort i (fun p => ackTo (hAck w) { p with fencedByPeer := false }) s))) := by
  subst hw
  simp [nakFlit, hup, hcrc, ht, hc, hnext]

theorem flits_notUp {ok : Bool} (hup : portUp (portOf s i) = false) :
    dataFlit i ok f s = s ∧ idleFlit i ok f s = s ∧ nakFlit i ok f s = s := by
  simp [dataFlit, idleFlit, nakFlit, hup]

end Flits

/-- Settles O34: a flit by its CRC, its type and its SEQ. -/
theorem flitsThatArrive : Obligations.FlitsThatArrive := by
  refine ⟨?inOrder, ?bad, ?duplicate, ?idle, ?nak, ?notUp⟩
  case inOrder =>
    exact fun i f w s hr hup hcrc hw hrsv ht hl hu hseq =>
      (whenLive_running hr).trans (congrArg _ (dataFlit_inOrder hup hcrc hw hrsv ht hl hu hseq))
  case bad => exact fun i ok f s hr hup _ hbad => (whenLive_running hr).trans (congrArg _ (dataFlit_bad hup hbad))
  case duplicate =>
    exact fun i f w s hr hup hcrc hw hrsv ht hseq hold =>
      (whenLive_running hr).trans (congrArg _ (dataFlit_duplicate hup hcrc hw hrsv ht hseq hold))
  case idle =>
    exact fun i f w s hr hup hcrc hw ht hc => (whenLive_running hr).trans (congrArg _ (idleFlit_good hup hcrc hw ht hc))
  case nak =>
    exact fun i f w s hr hup hcrc hw ht hc hnext => (whenLive_running hr).trans (congrArg _ (nakFlit_next hup hcrc hw ht hc hnext))
  case notUp =>
    intro i ok f s hr hup
    obtain ⟨hdata, hidle, hnak⟩ := flits_notUp (f := f) (ok := ok) hup
    exact ⟨(whenLive_running hr).trans (congrArg _ hdata), (whenLive_running hr).trans (congrArg _ hidle),
      (whenLive_running hr).trans (congrArg _ hnak)⟩

/-! ## Retry and fencing -/

section Retry
variable {i : Nat} {s : State}

theorem replayTimeout_waiting (hup : portUp (portOf s i) = true) (hr : (portOf s i).replay ≠ []) : replayTimeout i s = replayOnce i s := by
  simp [replayTimeout, hup, hr]

theorem replayOnce_again (h : (portOf s i).replays < 7) :
    replayOnce i s = replayAll i (modPort i (fun p => { p with replays := p.replays + 1 }) s) := by
  have hfew : ¬ 8 ≤ (portOf (modPort i (fun p => { p with replays := p.replays + 1 }) s) i).replays := by
    rw [portOf_modPort_same]
    exact fun h8 => by have : 8 ≤ (portOf s i).replays + 1 := h8; omega
  exact if_neg hfew

theorem replayOnce_retrains (h : 7 ≤ (portOf s i).replays) :
    replayOnce i s = modPort i (fun p => { p with retraining := true, nakSent := false }) (modPort i (fun p => { p with replays := p.replays + 1 }) s) := by
  have hmany : 8 ≤ (portOf (modPort i (fun p => { p with replays := p.replays + 1 }) s) i).replays := by
    rw [portOf_modPort_same]
    exact Nat.succ_le_succ h
  exact if_pos hmany

theorem partnerFenced_new (hup : portUp (portOf s i) = true) (hf : (portOf s i).fencedByPeer = false) :
    partnerFenced i s = recEvent 0x3006 i none (4 + i / 4) i 0 [(16, i)] (modPort i (fun p => { p with fencedByPeer := true }) s) := by
  simp [partnerFenced, hup, hf, modPort]

end Retry

/-! ## Credits and acknowledgements -/

@[simp] theorem vcOf_setVc_same (v : Nat) (c : Vc) (p : Port) : vcOf (setVc v c p) v = c := tget_tset_same

theorem vcOf_setVc_other {v u : Nat} (h : u ≠ v) (c : Vc) (p : Port) : vcOf (setVc v c p) u = vcOf p u := tget_tset_other h

theorem vcReset_up {i v : Nat} {s : State} (hup : portUp (portOf s i) = true) :
    vcReset i v s = modPort i (fun p => setVc v { vcOf p v with credits := 0, first := false } p) s := by
  simp [vcReset, hup]

/-- An acknowledgement releases the flits that it names and no others. -/
theorem mem_ackTo {ack : Nat} {p : Port} {f : TxFlit} :
    f ∈ (ackTo ack p).replay ↔ f ∈ p.replay ∧ 2048 ≤ (ack + 4096 - hSeq f.header) % 4096 := by
  unfold ackTo
  dsimp only
  split
  · simp [List.mem_filter]
  · rename_i hnone
    have hall : p.replay.filter (fun f => decide (2048 ≤ (ack + 4096 - hSeq f.header) % 4096)) = p.replay :=
      List.filter_sublist.eq_of_length_le (Nat.not_lt.mp hnone)
    exact ⟨fun h => ⟨h, by simpa using List.filter_eq_self.mp hall f h⟩, fun h => h.1⟩

/-- A port after it has sent flit f on VC v. -/
def afterSend (v : Nat) (f : TxFlit) (p : Port) : Port :=
  setVc v { vcOf p v with credits := (vcOf p v).credits - 1 }
    { noteSent f p with
      txq := p.txq.erase f
      replay := p.replay ++ [stamped p.nextSeq ((p.expectSeq + 4095) % 4096) f]
      nextSeq := (p.nextSeq + 1) % 4096
      lastVc := if v < 8 then v else p.lastVc }

/-- One round of a port's sending: nothing, or one flit of the VC whose turn it is. -/
theorem pumpPort_succ (i fuel : Nat) (s : State) :
    pumpPort i (fuel + 1) s = s ∨ ∃ v f, (portOf s i).replay.length < 512 ∧
      pumpPort i (fuel + 1) s = pumpPort i fuel (emit (.flit i (stamped (portOf s i).nextSeq (((portOf s i).expectSeq + 4095) % 4096) f))
        (setPort i (afterSend v f (portOf s i)) s)) := by
  rw [pumpPort]
  dsimp only
  split
  · exact .inl rfl
  · rename_i hcond
    split
    · exact .inl rfl
    · split
      · exact .inl rfl
      · rename_i v _ _ f _
        refine .inr ⟨v, f, ?_, rfl⟩
        simp only [Bool.or_eq_true, decide_eq_true_eq, not_or] at hcond
        exact Nat.not_le.mp hcond.2

theorem portOf_emit (o : Output) (s : State) (i : Nat) : portOf (emit o s) i = portOf s i := rfl

theorem portOf_setPort_same (i : Nat) (x : Port) (s : State) : portOf (setPort i x s) i = x := tget_tset_same

theorem noteSent_vcs (f : TxFlit) (p : Port) : (noteSent f p).vcs = p.vcs := by
  unfold noteSent
  split <;> rfl

/-- Sending takes a credit of its VC and leaves the others. -/
theorem credits_afterSend (v u : Nat) (f : TxFlit) (p : Port) : (vcOf (afterSend v f p) u).credits ≤ (vcOf p u).credits := by
  by_cases h : u = v
  · subst h
    rw [afterSend, vcOf_setVc_same]
    exact Nat.sub_le ..
  · have hvcs : vcOf (afterSend v f p) u = vcOf p u := by
      rw [afterSend, vcOf_setVc_other h]
      exact congrArg (fun t => tget t u _) (noteSent_vcs f p)
    exact Nat.le_of_eq (by rw [hvcs])

theorem replay_afterSend (v : Nat) (f : TxFlit) (p : Port) : (afterSend v f p).replay.length = p.replay.length + 1 := by
  change (p.replay ++ [_]).length = _
  rw [List.length_append, List.length_singleton]

theorem credits_pumpPort (i v fuel : Nat) (s : State) : (vcOf (portOf (pumpPort i fuel s) i) v).credits ≤ (vcOf (portOf s i) v).credits := by
  induction fuel generalizing s with
  | zero => exact Nat.le_refl _
  | succ fuel ih =>
    rcases pumpPort_succ i fuel s with h | ⟨u, f, _, h⟩
    · exact Nat.le_of_eq (by rw [h])
    · rw [h]
      refine Nat.le_trans (ih _) ?_
      rw [portOf_emit, portOf_setPort_same]
      exact credits_afterSend u v f _

theorem replay_pumpPort (i fuel : Nat) {s : State} (hs : (portOf s i).replay.length ≤ 512) :
    (portOf (pumpPort i fuel s) i).replay.length ≤ 512 := by
  induction fuel generalizing s with
  | zero => exact hs
  | succ fuel ih =>
    rcases pumpPort_succ i fuel s with h | ⟨u, f, hroom, h⟩
    · rwa [h]
    · rw [h]
      refine ih ?_
      rw [portOf_emit, portOf_setPort_same, replay_afterSend]
      exact hroom

/-- Settles O35: a timeout by the replays so far, a fence once, credits that only go down while a port sends, and the flits that an
acknowledgement leaves. -/
theorem retryFenceAndCredits : Obligations.RetryFenceAndCredits := by
  refine ⟨?timeout, ?fence, ?reset, fun ack p f h => mem_ackTo.mp h, fun ack p f h hs => mem_ackTo.mpr ⟨h, hs⟩,
    fun i s fuel => ⟨fun v => credits_pumpPort i v fuel s, fun h => replay_pumpPort i fuel h⟩⟩
  case timeout =>
    intro i s hr hup hne
    have hrun : exec (.replayTimeout i) s = .next (replayOnce i.val s) :=
      (whenLive_running hr).trans (congrArg _ (replayTimeout_waiting hup hne))
    exact ⟨fun h => hrun.trans (congrArg _ (replayOnce_again h)), fun h => hrun.trans (congrArg _ (replayOnce_retrains h))⟩
  case fence => exact fun i s hr hup hf => (whenLive_running hr).trans (congrArg _ (partnerFenced_new hup hf))
  case reset =>
    intro i v s hr hup
    refine ⟨_, (whenLive_running hr).trans (congrArg _ (vcReset_up hup)), ?_, fun u hu => ?_, fun j hj => portOf_modPort_other hj⟩
    · rw [portOf_modPort_same, vcOf_setVc_same]
    · rw [portOf_modPort_same, vcOf_setVc_other hu]

end Sys2Proof.Architecture

/-!
PROOFS. Port states, control messages of a link, link commands and tick alignment (R422, R433, R439 to R455, R560).
-/
namespace Sys2Proof.Architecture
open Sys2Proof Sys2Proof.Machine Sys2Proof.Safety

/-! ## What sending leaves of a port: its state and its lanes -/

/-- The state of a port and the lanes that carry. -/
def carries (p : Port) : PortState × BitVec 4 := (p.state, p.lanes)

theorem carries_modPort {f : Port → Port} (hf : ∀ p, carries (f p) = carries p) (i j : Nat) (s : State) :
    carries (portOf (modPort j f s) i) = carries (portOf s i) := by
  by_cases h : i = j
  · subst h
    rw [portOf_modPort_same, hf]
  · rw [portOf_modPort_other h]

theorem carries_afterSend (v : Nat) (f : TxFlit) (p : Port) : carries (afterSend v f p) = carries p := by
  unfold afterSend noteSent
  split <;> rfl

theorem carries_pumpPort (i fuel : Nat) (s : State) : carries (portOf (pumpPort i fuel s) i) = carries (portOf s i) := by
  induction fuel generalizing s with
  | zero => rfl
  | succ fuel ih =>
    rcases pumpPort_succ i fuel s with h | ⟨v, f, _, h⟩
    · rw [h]
    · rw [h, ih, portOf_emit, portOf_setPort_same, carries_afterSend]

theorem carries_sendMsg (i type vc : Nat) (m : MsgHead) (body : List Byte) (s : State) :
    carries (portOf (sendMsg i type vc m body s) i) = carries (portOf s i) :=
  (carries_pumpPort i _ _).trans (carries_modPort (by exact fun _ => rfl) i i s)

theorem carries_sendControl (i mtype dst : Nat) (body : List Byte) (s : State) :
    carries (portOf (sendControl i mtype dst body s) i) = carries (portOf s i) := carries_sendMsg ..

theorem carries_sendConfig (i : Nat) (s : State) : carries (portOf (sendConfig i s) i) = carries (portOf s i) := carries_sendControl ..

theorem carries_returnCredits (i : Nat) (s : State) : carries (portOf (returnCredits i s) i) = carries (portOf s i) := by
  unfold returnCredits
  dsimp only
  split
  · rfl
  · split
    · rfl
    · refine foldl_same (fun t => carries (portOf t i)) (fun t v => ?_) _ s
      refine (congrArg carries (portOf_emit ..)).trans ?_
      exact carries_modPort (by exact fun _ => rfl) i i t

theorem carries_replayAll (i : Nat) (s : State) : carries (portOf (replayAll i s) i) = carries (portOf s i) := by
  unfold replayAll
  split
  · rfl
  · exact foldl_same (fun t => carries (portOf t i)) (by exact fun _ _ => rfl) _ s

theorem carries_echoes (i : Nat) (l : List Nat) (s : State) :
    carries (portOf (l.foldl (fun s _ => let t := takeFree s; sendControl i 2 0xFFFF (leBytes 8 t.1.toNat) t.2) s) i) =
      carries (portOf s i) := by
  refine foldl_same (fun t => carries (portOf t i)) (fun t _ => ?_) l s
  exact carries_sendControl ..

/-! ## Port states -/

section States
variable {i : Nat} {s : State}

theorem stateOfLanes_all : stateOfLanes 15#4 = .up4 := by decide

theorem stateOfLanes_few {m : BitVec 4} (h : laneCount m < 3) : stateOfLanes m = .down := by
  unfold stateOfLanes
  rw [if_neg (by omega), if_neg (by omega)]

theorem missingLane_all : missingLane 15#4 = none := by decide

theorem fastRetrain_good (hs : (portOf s i).state = .up4) :
    fastRetrain i 0xF true s = replayAll i (sendConfig i (modPort i (fun p =>
      { p with state := .up4, lanes := 0xF, fastRetrains := 0, replays := 0, retraining := false, faultyLane := none }) s)) := by
  simp [fastRetrain, portLit, hs, stateOfLanes_all, missingLane_all, modPort]

theorem fastRetrain_third {m : BitVec 4} (hs : (portOf s i).state = .up4) (hn : (portOf s i).fastRetrains = 2) :
    fastRetrain i m false s = modPort i (fun p => { p with state := .training, fastRetrains := 0, replays := 0, retraining := false }) s := by
  simp [fastRetrain, portLit, hs, hn, modPort]

theorem fullTraining_few {m : BitVec 4} (hs : (portOf s i).state = .training) (hm : laneCount m < 3) :
    fullTraining i m s = linkDown i s := by
  simp [fullTraining, hs, stateOfLanes_few hm]

/-- A training that no command waits for comes up on all lanes. -/
theorem fullTraining_carries {m : BitVec 4} (hm : stateOfLanes m = .up4) (hs : (portOf s i).state = .training)
    (hh : (portOf s i).trainHandle = 0) : carries (portOf (fullTraining i m s) i) = (.up4, m) := by
  have hstate : ((portOf s i).state != .training) = false := by rw [hs]; rfl
  have hhandle : (setVc 8 { vcOf (portOf s i) 8 with owed := 16 - (vcOf (portOf s i) 8).partner }
    { portOf s i with
      state := .up4, lanes := m, replays := 0, fastRetrains := 0, retraining := false, echoes := [], peerId := none
      faultyLane := missingLane m }).trainHandle = 0 := hh
  unfold fullTraining
  dsimp only
  rw [hstate, if_neg Bool.false_ne_true, hm]
  dsimp only
  rw [if_pos hhandle, carries_replayAll, carries_sendConfig, carries_returnCredits, carries_echoes, portOf_setPort_same]
  rfl

theorem lockLost_up (hup : portUp (portOf s i) = true) :
    lockLost i s = modPort i (fun p => { p with retraining := true, nakSent := false }) s := if_pos hup

theorem laneDegrade_first {l : Fin 4} (hs : (portOf s i).state = .up4) (hl : (portOf s i).lanes.getLsbD l.val = true) :
    laneDegrade i l s = replayAll i (sendConfig i (raiseFault
      { code := 0x3802, cls := 7, sev := 0, die := 4 + i / 4, unit := i, detail := w64 (i ||| l.val <<< 16) }
      (devEvent 0x3005 i 1 (modPort i (fun p => { p with state := .up3, lanes := p.lanes &&& ~~~(BitVec.ofNat 4 (2 ^ l.val)),
                                                         faultyLane := some l.val, retraining := false }) s)))) := by
  have hlit : portLit (portOf s i) = true := by simp [portLit, hs]
  have hstate : ((portOf s i).state == .up4) = true := by rw [hs]; rfl
  unfold laneDegrade
  dsimp only
  rw [hlit, hl, hstate, if_neg (by decide), if_pos rfl]
  rfl

theorem laneDegrade_second {l : Fin 4} (hs : (portOf s i).state = .up3) (hl : (portOf s i).lanes.getLsbD l.val = true) :
    laneDegrade i l s = linkDown i s := by
  have hlit : portLit (portOf s i) = true := by simp [portLit, hs]
  have hstate : ((portOf s i).state == .up4) = false := by rw [hs]; rfl
  unfold laneDegrade
  dsimp only
  rw [hlit, hl, hstate, if_neg (by decide), if_neg Bool.false_ne_true]

theorem endPortWork_idle {status : Nat} (hr : (portOf s i).recalHandle = 0) (ht : (portOf s i).trainHandle = 0) :
    endPortWork i status s = modPort i (fun p => { p with recalHandle := 0, trainHandle := 0, recalLane := none }) s := by
  unfold endPortWork
  dsimp only
  rw [if_pos hr, if_pos ht]
  rfl

/-- The fault of a port that goes DOWN (R441). -/
def portFault (code extra i : Nat) (s : State) : FaultIn :=
  { code := code, cls := 7, sev := 1, die := 4 + i / 4, unit := i, detail := w64 (i ||| extra <<< 16), parts := portParts (portOf s i) }

theorem portOf_raiseFault (f : FaultIn) : portOf (raiseFault f s) i = portOf s i := rfl

/-- A port that no command waits for goes DOWN with its fault. -/
theorem portDown_idle {code extra : Nat} (hs : (portOf s i).state ≠ .down) (hr : (portOf s i).recalHandle = 0)
    (ht : (portOf s i).trainHandle = 0) :
    portDown code extra i s = modPort i (fun p => { p with recalHandle := 0, trainHandle := 0, recalLane := none })
      (raiseFault (portFault code extra i s) (modPort i (fun p => { p with state := .down, lanes := 0 }) s)) := by
  unfold portDown
  dsimp only
  rw [if_neg (by simpa using hs)]
  refine endPortWork_idle ?_ ?_
  · rw [portOf_raiseFault, portOf_setPort_same]
    exact hr
  · rw [portOf_raiseFault, portOf_setPort_same]
    exact ht

end States

/-- Settles O36: retrains and trainings by the lanes that come back, faulty lanes, and the fault of a port that goes DOWN. -/
theorem portStates : Obligations.PortStates := by
  refine ⟨?retrain, ?third, ?training, ?few, ?lock, ?first, ?second, ?down⟩
  case retrain => exact fun i s hr hs => (whenLive_running hr).trans (congrArg _ (fastRetrain_good hs))
  case third => exact fun i m s hr hs hn => (whenLive_running hr).trans (congrArg _ (fastRetrain_third hs hn))
  case training =>
    intro i s hr hs hh
    have hc := fullTraining_carries stateOfLanes_all hs hh
    exact ⟨_, whenLive_running hr, congrArg Prod.fst hc, congrArg Prod.snd hc⟩
  case few => exact fun i m s hr hs hm => (whenLive_running hr).trans (congrArg _ (fullTraining_few hs hm))
  case lock => exact fun i s hr hup => (whenLive_running hr).trans (congrArg _ (lockLost_up hup))
  case first => exact fun i l s hr hs hl => (whenLive_running hr).trans (congrArg _ (laneDegrade_first hs hl))
  case second => exact fun i l s hr hs hl => (whenLive_running hr).trans (congrArg _ (laneDegrade_second hs hl))
  case down =>
    intro i s hs hr ht
    have hdown : linkDown i s = _ := portDown_idle hs hr ht
    refine ⟨portFault 0x3801 (portCode (portOf s i).state) i s, rfl, rfl, ?_⟩
    rw [hdown, portOf_modPort_same, portOf_raiseFault, portOf_modPort_same]
    exact ⟨rfl, rfl, rfl⟩

/-! ## Control messages -/

section Control
variable {i : Nat} {s : State}

theorem configMsg_new {id : W16} {b : Bool} {ack : BitVec 12} (hlit : portLit (portOf s i) = true) (hp : (portOf s i).peerId = none) :
    configMsg i id b ack s = pump i (modPort i (fun p => ackTo ack.toNat { p with peerId := some id, slow := b }) s) := by
  simp [configMsg, hlit, hp]

theorem configMsg_other {id k : W16} {b : Bool} {ack : BitVec 12} (hlit : portLit (portOf s i) = true)
    (hp : (portOf s i).peerId = some k) (hk : k ≠ id) : configMsg i id b ack s = portDown 0x3803 id.toNat i s := by
  simp [configMsg, hlit, hp, hk]

theorem echoReq_up {t : W64} (hup : portUp (portOf s i) = true) :
    echoReq i t s = sendControl i 3 0xFFFF (leBytes 8 t.toNat ++ leBytes 8 (takeFree s).1.toNat) (takeFree s).2 := by
  simp [echoReq, hup]

/-- The last of the 64 round trips gives the latency. -/
theorem echoResp_last {t u n : W64} (hup : portUp (portOf s i) = true) (he : (portOf s i).echoes.length = 63) :
    echoResp i t u n s = modPort i (fun p =>
      { p with echoes := p.echoes ++ [n.toNat - t.toNat - u.toNat],
               latency := (p.echoes ++ [n.toNat - t.toNat - u.toNat]).foldl (· + ·) 0 / 128 }) s := by
  have hcond : (!portUp (portOf s i) || decide (64 ≤ (portOf s i).echoes.length)) = false := by simp [hup, he]
  have hlen : ((portOf s i).echoes ++ [n.toNat - t.toNat - u.toNat]).length = 64 := by simp [he]
  unfold echoResp
  dsimp only
  rw [hcond, if_neg Bool.false_ne_true, if_pos hlen]
  rfl

end Control

/-- Settles O37: CONFIG by the partner known so far, the echoes, and answers. -/
theorem linkControlMessages : Obligations.LinkControlMessages := by
  refine ⟨?learnt, ?other, ?request, ?response, ?answer⟩
  case learnt => exact fun i id pp m b sw ack s hr hlit hp => (whenLive_running hr).trans (congrArg _ (configMsg_new hlit hp))
  case other => exact fun i id k pp m b sw ack s hr hlit hp hk => (whenLive_running hr).trans (congrArg _ (configMsg_other hlit hp hk))
  case request => exact fun i t s hr hup => (whenLive_running hr).trans (congrArg _ (echoReq_up hup))
  case response => exact fun i t u n s hr hup he => (whenLive_running hr).trans (congrArg _ (echoResp_last hup he))
  case answer => exact fun i src payload s hr hup => (whenLive_running hr).trans (congrArg _ (if_pos hup))

/-! ## Link commands -/

theorem links_issue (fn : Nat) (hdr : Hdr) (part : Option Nat) (kind : Nat) (op : LongOp) (s : State) :
    (issue fn hdr part kind op s).2.links = s.links := rfl

theorem links_reply (f op : Nat) (hdr : Hdr) (status : Nat) (result : W64) (handle : Nat) (data : List Byte) (s : State) :
    (reply f op hdr status result handle data s).links = s.links := by
  rw [reply_eq]

/-- Two states with the same links have the same ports. -/
theorem portOf_of_links {s t : State} (h : t.links = s.links) (i : Nat) : portOf t i = portOf s i :=
  congrArg (fun l : Links => tget l.ports i {}) h

/-- What follows the reply of an accepted command may rest on the ports as they were before it. -/
theorem accepted_congr_ports {fn : Fn} {op kind : Nat} {hdr : Hdr} {part : Option Nat} {lop : LongOp} {result : W64}
    {after after' : Nat → State → State} {s : State} {i : Nat}
    (h : ∀ n t, portOf t i = portOf s i → after n t = after' n t) :
    accepted fn op hdr part kind lop result after s = accepted fn op hdr part kind lop result after' s :=
  congrArg Host.Outcome.next (h _ _ (portOf_of_links (links_reply ..) i))

section Commands
variable {s : State} {hdr : Hdr}

theorem groupBody_ok {g : BitVec 128} (h : groupOk g = true) :
    groupBody g s = .ok { st := applyGroup g s, result := s.steward.tick + 1 } := need_of h

theorem groupBody_bad {g : BitVec 128} (h : groupOk g = false) : groupBody g s = .error 0x0201 := need_not h

/-- What a recalibration does once its handle is issued (R444). -/
def recalAfter (i : Nat) (p : Port) (h : Nat) (s : State) : State :=
  retuneLane i (if p.state == .up3 then p.faultyLane.getD 0 else 0)
    (modPort i (fun p => { p with recalHandle := h, faultyLane := if p.state == .up3 then p.faultyLane else none }) s)

theorem recalBody_idle {port : W64} (hp : port.toNat < 16) (hs : (portOf s port.toNat).state = .up4)
    (hd : dieRecals s port.toNat = false) :
    recalBody 0 hdr port s = long 0 hdr none 0xB (.recal port.toNat) s (after := recalAfter port.toNat (portOf s port.toNat)) := by
  unfold recalBody
  rw [need_of (by simp [hp]), need_of (by simp [hs, hd])]
  rfl

/-- A port in UP4 retunes its first lane and has no faulty one. -/
theorem recalAfter_up4 {t : State} {i h : Nat} (hs : (portOf s i).state = .up4) (ht : portOf t i = portOf s i) :
    recalAfter i (portOf s i) h t = retuneLane i 0 (modPort i (fun p => { p with recalHandle := h, faultyLane := none }) t) := by
  have hs' : (portOf t i).state = .up4 := by rw [ht, hs]
  simp [recalAfter, modPort, hs, hs']

theorem trainBody_down {port : W64} (hp : port.toNat < 16) (hs : (portOf s port.toNat).state = .down)
    (he : (lgPortEn s.links.group).testBit port.toNat = true) :
    trainBody 0 hdr port s = long 0 hdr none 0xB (.train port.toNat) s (after := fun h s =>
      modPort port.toNat (fun p => { p with state := .training, trainHandle := h }) s) := by
  unfold trainBody
  rw [need_of (by simp [hp]), need_of (by simp [hs, he])]

theorem laneRecalDone_last {i : Nat} (hs : (portOf s i).state = .recal) (hl : (portOf s i).recalLane = some 3) :
    laneRecalDone i 3 true s = endRecal i 0xF none 0 s := by
  simp [laneRecalDone, hs, hl]

end Commands

/-! ## Tick alignment -/

section Alignment
variable {s : State}

theorem links_of_beyondRecord {s t : State} (h : beyondRecord t = beyondRecord s) : t.links = s.links := (congrArg State.links h :)

theorem links_devEvent (id qual n : Nat) (s : State) : (devEvent id qual n s).links = s.links :=
  links_of_beyondRecord (beyondRecord_of_counts (beyondCounts_devEvent ..))

theorem links_sendMarkers (base lo : Nat) (s : State) : (sendMarkers base lo s).links = s.links := by
  unfold sendMarkers
  exact foldl_same State.links (by exact fun _ _ => rfl) _ s

/-- A marker that a follower takes starts its misses again. -/
theorem links_tickMarker {i accum lo : Nat} {phase : Int} (hsrc : lgSource s.links.group = 3) (hport : lgUpPort s.links.group = i)
    (hup : portUp (portOf s i) = true) :
    (tickMarker i accum lo phase s).links =
      { s.links with lastTickLo := some lo, misses := 0, syncLost := false, phaseErr := phase - max (-1000) (min 1000 phase) } := by
  have hcond : ¬ (lgSource s.links.group ≠ 3 || lgUpPort s.links.group ≠ i || !portUp (portOf s i)) = true := by
    simp [hsrc, hport, hup]
  unfold tickMarker
  dsimp only
  rw [if_neg hcond, links_sendMarkers]
  refine congrArg (fun l : Links =>
    { l with lastTickLo := some lo, misses := 0, syncLost := false, phaseErr := phase - max (-1000) (min 1000 phase) }) ?_
  exact (apply_ite State.links ..).trans (by rw [links_devEvent, ite_self, links_devEvent])

/-- A miss is counted, whether or not the event of a lost alignment follows. -/
theorem links_missOne (s : State) :
    (missOne s).links.misses = s.links.misses + 1 ∧ (missOne s).links.group = s.links.group := by
  have hlinks := links_devEvent 0x3007 0xFFFE 1 s
  have hcount : (devEvent 0x3007 0xFFFE 1 s).links.misses + 1 = s.links.misses + 1 := by rw [hlinks]
  have hgroup : (devEvent 0x3007 0xFFFE 1 s).links.group = s.links.group := by rw [hlinks]
  unfold missOne
  dsimp only
  split
  · rw [links_of_beyondRecord (beyondRecord_recEvent ..)]
    exact ⟨hcount, hgroup⟩
  · exact ⟨hcount, hgroup⟩

theorem markerMissed_aligned (h : 2 ≤ lgSource s.links.group) :
    markerMissed s = sendMarkers (1000 * lgLg s.links.group) (missedLo (missOne s)) (missOne s) := by
  unfold markerMissed
  dsimp only
  rw [if_neg (Nat.not_lt.mpr h), (links_missOne s).2]

theorem syncIn_edge {n : Nat} (hsrc : lgSource s.links.group = 2) (hn : lgPeriod s.links.group * 1000 ≤ n + 1000) :
    syncIn n s = sendMarkers 0 s.steward.tick.toNat { s with links.misses := 0, links.syncLost := false } := by
  simp [syncIn, hsrc, Nat.not_lt.mpr hn]

theorem syncIn_early {n : Nat} (hsrc : lgSource s.links.group = 2) (hn : n + 1000 < lgPeriod s.links.group * 1000) :
    syncIn n s = devEvent 0x300A 0xFFFE 1 s := by
  simp [syncIn, hsrc, hn]

end Alignment

/-- Settles O38: link commands by their checks, recalibrations, markers and edges by the group's SOURCE, and lost references. -/
theorem linkCommandsAndAlignment : Obligations.LinkCommandsAndAlignment := by
  refine ⟨?group, ?badGroup, ?recal, ?train, ?recalDone, ?marker, ?missed, fun s => (links_missOne s).1, ?edge, ?early, ?h0, ?far, ?links⟩
  case group => exact fun hdr g s hh hg => heardPf_answered hh (by decide) (groupBody_ok hg)
  case badGroup => exact fun hdr g s hh hg => heardPf_refused hh (by decide) (groupBody_bad hg)
  case recal =>
    intro hdr port s hh hroom hp hs hd
    exact (heardPf_accepted hh (by decide) (recalBody_idle hp hs hd) hroom).trans
      (accepted_congr_ports fun n t ht => recalAfter_up4 hs ht)
  case train => exact fun hdr port s hh hroom hp hs he => heardPf_accepted hh (by decide) (trainBody_down hp hs he) hroom
  case recalDone => exact fun i s hr hs hl => (whenLive_running hr).trans (congrArg _ (laneRecalDone_last hs hl))
  case marker =>
    intro i a lo phase s hr hsrc hport hup
    have hl := links_tickMarker (accum := a.toNat) (lo := lo.toNat) (phase := phase) hsrc hport hup
    exact ⟨_, whenLive_running hr, congrArg Links.misses hl, congrArg Links.lastTickLo hl, congrArg Links.syncLost hl⟩
  case missed => exact fun s hr h => (whenLive_running hr).trans (congrArg _ (markerMissed_aligned h))
  case edge => exact fun n s hr hsrc hn => (whenLive_running hr).trans (congrArg _ (syncIn_edge hsrc hn))
  case early => exact fun n s hr hsrc hn => (whenLive_running hr).trans (congrArg _ (syncIn_early hsrc hn))
  case h0 => exact fun s hr hl => (whenLive_running hr).trans (congrArg _ (if_pos hl))
  case far => exact fun f s hr => whenLive_running (f := referenceLost (.far f)) hr
  case links => exact fun xd s hr => whenLive_running (f := referenceLost (.links xd)) hr

end Sys2Proof.Architecture

/-!
PROOFS. Patterns, jobs, submissions and fast-path slots (R37, R49, R54, R84, R90 to R92, R508 to R515, R627).
-/
namespace Sys2Proof.Architecture
open Sys2Proof Sys2Proof.Machine Sys2Proof.Safety

section Bodies
variable {fn : Fn} {hdr : Hdr} {p : Nat} {x : Partition} {s : State}

/-! ## Patterns -/

theorem loadBody_ok {desc : DescWord} {image : PatternImage} {n : Nat} (ha : Acts s fn hdr p x) (hd : UnifiedOk s p x desc)
    (hp : PatternOk s p { pat := image, table := image.bindings, spaces := spacesOf x, banks := x.banks, load := true })
    (hn : tfree x.patterns 256 = some n) :
    loadBody fn hdr desc image s = long fn hdr (some p) 2 .none
      (modPart p (fun x => { x with patterns := tset x.patterns n image }) s) (w64 n) (fun h s => finish h 0 0 s) := by
  unfold loadBody
  rw [withPart_acts ha, needUnified_ok hd, needPattern_ok hp, have'_eq hn]

section Unload
variable {pattern : W64} {img : PatternImage}

theorem unloadBody_unused (ha : Acts s fn hdr p x) (hi : tget? x.patterns pattern.toNat = some img)
    (hu : ∀ j ∈ x.jobs, j.2.pattern ≠ pattern.toNat) :
    unloadBody fn hdr pattern s = .ok { st := modPart p (fun x => { x with patterns := tdel x.patterns pattern.toNat }) s } := by
  have hnone : (x.jobs.any fun j => j.2.pattern == pattern.toNat) = false := by simpa using hu
  unfold unloadBody
  rw [withPart_acts ha, have'_eq hi, need_of (by rw [hnone]; rfl)]

theorem unloadBody_used (ha : Acts s fn hdr p x) (hi : tget? x.patterns pattern.toNat = some img)
    (hu : ∃ j ∈ x.jobs, j.2.pattern = pattern.toNat) : unloadBody fn hdr pattern s = .error 0x0205 := by
  have hsome : (x.jobs.any fun j => j.2.pattern == pattern.toNat) = true := by simpa using hu
  unfold unloadBody
  rw [withPart_acts ha, have'_eq hi, need_not (by rw [hsome]; rfl)]

theorem unloadBody_unknown (ha : Acts s fn hdr p x) (hi : tget? x.patterns pattern.toNat = none) :
    unloadBody fn hdr pattern s = .error 0x0201 := by
  unfold unloadBody
  rw [withPart_acts ha, hi, have'_none]

end Unload

/-! ## Jobs -/

theorem createBody_ok {pattern cls quads banks weight slice : W64} {context : DescWord} {n : Nat} {pat : PatternImage} {j : Job}
    (hj : j = { pattern := pattern.toNat, cls := cls.toNat, quads := quads, banks := banks, weight := weight.toNat, slice := slice.toNat, ctx := context })
    (ha : Acts s fn hdr p x) (hp : tget? x.patterns pattern.toNat = some pat)
    (hform : jobFormOk x pat cls quads banks weight slice = true) (hc : UnifiedOk s p x context) (hctx : contextOk s x pat context = true)
    (hro : readOnlyDesc s context = false)
    (hpl : PlacementOk s p x { pat := pat, table := pat.bindings, spaces := spacesOf x, banks := x.banks } (jobCores s j))
    (hroom : jobRoom x pat cls banks = true) (hn : tfree x.jobs 64 = some n) :
    createBody fn hdr pattern cls quads banks weight slice context s =
      .ok { st := modPart p (fun x => { x with jobs := tset x.jobs n j }) s, result := w64 n } := by
  subst hj
  unfold createBody
  dsimp only
  rw [withPart_acts ha, have'_eq hp, need_of hform, needUnified_ok hc, need_of hctx, need_of (by rw [hro]; rfl), needPlacement_ok hpl,
    need_of hroom, have'_eq hn]

section Jobs
variable {job : W64} {j : Job}

theorem destroyBody_idle (ha : Acts s fn hdr p x) (hj : tget? x.jobs job.toNat = some j) (hs : jobHasStep x job.toNat = false) :
    destroyBody fn hdr job s = .ok { st := modPart p (fun x => { x with
      jobs := tdel x.jobs job.toNat, discardedEpochs := x.discardedEpochs.filter fun d => d.1 != job.toNat }) s } := by
  unfold destroyBody
  rw [withPart_acts ha, have'_eq hj, need_of (by rw [hs]; rfl)]

theorem destroyBody_busy (ha : Acts s fn hdr p x) (hj : tget? x.jobs job.toNat = some j) (hs : jobHasStep x job.toNat = true) :
    destroyBody fn hdr job s = .error 0x0205 := by
  unfold destroyBody
  rw [withPart_acts ha, have'_eq hj, need_not (by rw [hs]; rfl)]

theorem jobSetBody_inRange {cls weight slice : W64} (ha : Acts s fn hdr p x) (hj : tget? x.jobs job.toNat = some j)
    (hw : 1 ≤ weight.toNat) (hw' : weight.toNat ≤ 255) (hs : 1 ≤ slice.toNat) (hs' : slice.toNat ≤ 64) (hc : cls.toNat ≤ 3) :
    jobSetBody fn hdr job cls weight slice s = need ((cls == 0) == (j.cls == 0)) 0x0205
      (.ok { st := modJob p job.toNat (fun j => { j with nextSet := some (cls.toNat, weight.toNat, slice.toNat) }) s,
             result := s.steward.tick + 1 }) := by
  unfold jobSetBody
  rw [withPart_acts ha, have'_eq hj, need_of (by simp [weightsOk, hw, hw', hs, hs', hc])]

/-- No job moves into or out of class 0 where both classes are 0 or neither is. -/
theorem sameZeroClass_iff {cls : W64} : ((cls == 0) == (j.cls == 0)) = true ↔ ((cls.toNat = 0) = (j.cls = 0)) := by
  have hcls : cls = 0 ↔ cls.toNat = 0 := ⟨fun h => by rw [h]; rfl, fun h => BitVec.eq_of_toNat_eq h⟩
  rw [beq_iff_eq, Bool.eq_iff_iff, beq_iff_eq, beq_iff_eq, hcls, eq_iff_iff]

theorem queryJobBody_unlocked (ha : Acts s fn hdr p x) (hj : tget? x.jobs job.toNat = some j) (hl : x.locks = []) :
    queryJobBody fn hdr job s = .ok { st := s, data := wordsData [j.cls, (j.balance % (2 ^ 64 : Nat)).toNat, j.sliceLeft,
      if j.holdsQuads then j.quads.toNat else 0, b2n (x.steps.any fun e => e.2.job == job.toNat && e.2.suspended), 0, 0, j.overrun] } := by
  unfold queryJobBody
  rw [withPart_acts ha, have'_eq hj, hl]
  rfl

end Jobs
end Bodies

/-- Settles O39: a load that passes its checks, and an unload by the jobs that use the pattern. -/
theorem patternsLoadAndUnload : Obligations.PatternsLoadAndUnload := by
  refine ⟨?load, ?unused, ?used, ?unknown⟩
  case load => exact fun fn hdr desc image p n x s hh ha hroom hd hp hn => heard_accepted hh (by decide) (loadBody_ok ha hd hp hn) hroom
  case unused => exact fun fn hdr pattern p x img s hh ha hi hu => heard_answered hh (by decide) (unloadBody_unused ha hi hu)
  case used => exact fun fn hdr pattern p x img s hh ha hi hu => heard_refused hh (by decide) (unloadBody_used ha hi hu)
  case unknown => exact fun fn hdr pattern p x s hh ha hi => heard_refused hh (by decide) (unloadBody_unknown ha hi)

/-- Settles O40: each job command by what its job holds. -/
theorem jobsAndTheirShares : Obligations.JobsAndTheirShares := by
  refine ⟨?create, ?idle, ?busy, ?set, ?query⟩
  case create =>
    exact fun fn hdr pattern cls quads banks weight slice context p n x pat s hh ha hp hform hc hctx hro hpl hroom hn =>
      heard_answered hh (by decide) (createBody_ok rfl ha hp hform hc hctx hro hpl hroom hn)
  case idle => exact fun fn hdr job p x j s hh ha hj hs => heard_answered hh (by decide) (destroyBody_idle ha hj hs)
  case busy => exact fun fn hdr job p x j s hh ha hj hs => heard_refused hh (by decide) (destroyBody_busy ha hj hs)
  case set =>
    intro fn hdr job cls weight slice p x j s hh ha hj hw hw' hs hs' hc
    have hbody := jobSetBody_inRange (cls := cls) (weight := weight) (slice := slice) ha hj hw hw' hs hs' hc
    split
    case isTrue h => exact heard_answered hh (by decide) (hbody.trans (need_of (sameZeroClass_iff.mpr h)))
    case isFalse h => exact heard_refused hh (by decide) (hbody.trans (need_not (Bool.eq_false_iff.mpr (mt sameZeroClass_iff.mp h))))
  case query => exact fun fn hdr job p x j s hh ha hj hl => heard_answered hh (by decide) (queryJobBody_unlocked ha hj hl)

/-! ## Submissions -/

section Prepared
variable {p : Nat} {x : Partition} {o : StepOps} {slot : Option (Nat × Nat)} {r : Step × State} {s : State}

theorem need_ok {α : Type} {c : Bool} {code : Nat} {k : Except Nat α} {a : α} : need c code k = .ok a ↔ c = true ∧ k = .ok a := by
  cases c <;> simp

theorem have'_ok {α β : Type} {v : Option α} {code : Nat} {k : α → Except Nat β} {b : β} :
    have' v code k = .ok b ↔ ∃ a, v = some a ∧ k a = .ok b := by
  cases v <;> simp

/-- The step that a submission makes of its words, with the sequences and spills that it reserves. -/
def preparedStep (o : StepOps) (slot : Option (Nat × Nat)) (seqs : List SeqStage) (spills : List (Nat × Nat × Nat)) : Step :=
  { job := o.job.toNat, retry := if o.retry = 0 then none else some o.retry.toNat, words := o.words.map (·.setWidth 32),
    seed := o.seed, det := o.det == 1, table := o.table, seqs := seqs, spills := spills, slot := slot }

/-- What is checked and reserved once the words of a submission are in form (R319, R409, R627). -/
def reservedStep (p : Nat) (x : Partition) (o : StepOps) (slot : Option (Nat × Nat)) (s : State) (j : Job) (pat : PatternImage) :
    Except Nat (Step × State) :=
  let e := submitEnv x pat o.table
  needPattern s p e (needPlacement s p x e (jobCores s j)
    (need (namesKnown s p x e && (slot.isNone || pat.appends.isEmpty)) 0x0205
      (need (submitFormOk s x e) 0x0202
        (match reserveAppends p e pat.appends s with
         | .error c => .error c
         | .ok a => match reserveSpills p e (encodeCalls e.table) a.2 with
           | .error c => .error c
           | .ok b => .ok (preparedStep o slot a.1 b.1, b.2)))))

theorem prepareStep_eq :
    prepareStep p x o slot s = have' (tget? x.jobs o.job.toNat) 0x0201 fun j => have' (tget? x.patterns j.pattern) 0x0201 fun pat =>
      need (o.words.all (fun w => decide (w.toNat < 2 ^ 32)) && decide (o.words.length ≤ 8) && flagOk o.det) 0x0201
        (need (retryOk x o.job.toNat o.retry) 0x0204
          (if o.bindDesc = 0 then reservedStep p x o slot s j pat
           else needUnified s p x o.bindDesc (reservedStep p x o slot s j pat))) := rfl

theorem reservedStep_ok {j : Job} {pat : PatternImage} (h : reservedStep p x o slot s j pat = .ok r) :
    ∃ seqs spills, r.1 = preparedStep o slot seqs spills := by
  simp only [reservedStep, needPattern, needPlacement, need_ok] at h
  obtain ⟨_, _, _, _, _, _, h⟩ := h
  cases ha : reserveAppends p (submitEnv x pat o.table) pat.appends s with
  | error c => rw [ha] at h; cases h
  | ok a =>
    rw [ha] at h
    dsimp only at h
    cases hb : reserveSpills p (submitEnv x pat o.table) (encodeCalls (submitEnv x pat o.table).table) a.2 with
    | error c => rw [hb] at h; cases h
    | ok b =>
      rw [hb] at h
      cases h
      exact ⟨a.1, b.1, rfl⟩

/-- A submission that passes its checks names a retry of its job, or none, and becomes the step of its words. -/
theorem prepareStep_ok (h : prepareStep p x o slot s = .ok r) :
    retryOk x o.job.toNat o.retry = true ∧ ∃ seqs spills, r.1 = preparedStep o slot seqs spills := by
  rw [prepareStep_eq] at h
  obtain ⟨j, _, h⟩ := have'_ok.mp h
  obtain ⟨pat, _, h⟩ := have'_ok.mp h
  obtain ⟨_, h⟩ := need_ok.mp h
  obtain ⟨hretry, h⟩ := need_ok.mp h
  refine ⟨hretry, ?_⟩
  split at h
  · exact reservedStep_ok h
  · exact reservedStep_ok (need_ok.mp (need_ok.mp h).2).2

theorem prepareStep_staleRetry {j : Job} {pat : PatternImage} (hj : tget? x.jobs o.job.toNat = some j)
    (hpat : tget? x.patterns j.pattern = some pat) (hw : (o.words.all fun w => decide (w.toNat < 2 ^ 32)) = true)
    (hl : o.words.length ≤ 8) (hd : flagOk o.det = true) (hr : o.retry ≠ 0)
    (hdis : ∀ d ∈ x.discardedEpochs, d.1 = o.job.toNat → d.2.1 ≠ o.retry.toNat) :
    prepareStep p x o slot s = .error 0x0204 := by
  have hretry : retryOk x o.job.toNat o.retry = false := by
    have hne : ¬ o.retry = 0#64 := hr
    simpa [retryOk, hne] using hdis
  rw [prepareStep_eq, have'_eq hj, have'_eq hpat, need_of (by rw [hw, hd]; simp [hl]), need_not hretry]

end Prepared

section Slots
variable {fn : Fn} {hdr : Hdr} {p : Nat} {x : Partition} {s : State} {r : Step × State}

theorem submitBody_prepared {ops : StepOps} (ha : Acts s fn hdr p x) (hr : prepareStep p x ops none s = .ok r) :
    submitBody fn hdr ops s = long fn hdr (some p) 1 .step
      (modPart p (fun x => { x with steps := tset x.steps (nextHandle r.2 p 1) r.1 }) r.2) 0
      (fun h s => modHandle h (fun r => { r with state := .queued }) s) := by
  unfold submitBody
  rw [withPart_acts ha, hr]
  rfl

theorem submitBody_refused {ops : StepOps} {c : Nat} (ha : Acts s fn hdr p x) (hr : prepareStep p x ops none s = .error c) :
    submitBody fn hdr ops s = .error c := by
  unfold submitBody
  rw [withPart_acts ha, hr]

section Arm
variable {slot : W64} {ops : StepOps}

/-- A slot armed for the step that a submission prepared. -/
def withArmedSlot (f slot : Nat) (r : Step × State) (p : Nat) : State :=
  modFn f (fun y => { y with slots := tset y.slots slot { state := 1, handle := nextHandle r.2 p 1, weights := false } }) r.2

/-- The state in which the handle of an armed step is issued. -/
def withArmedStep (f slot p : Nat) (r : Step × State) : State :=
  modPart p (fun x => { x with steps := tset x.steps (nextHandle r.2 p 1) r.1 }) (withArmedSlot f slot r p)

/-- Arming leaves the room behind the ring. -/
theorem room_withArmedStep {slot : Nat} (hroom : Room r.2 fn) : Room (withArmedStep fn slot p r) fn := by
  have hfn : fnOf (withArmedStep fn slot p r) fn =
      { fnOf r.2 fn with slots := tset (fnOf r.2 fn).slots slot { state := 1, handle := nextHandle r.2 p 1, weights := false } } := tget_tset_same
  unfold Room
  rw [hfn]
  exact hroom

/-- A slot of a job whose cores are busy is armed without weights. -/
theorem armBody_busy {j : Job} (ha : Acts s fn hdr p x) (hs : slot.toNat < 16) (hempty : (slotOf (fnOf s fn) slot.toNat).state = 0)
    (hr : prepareStep p x ops (some (fn.val, slot.toNat)) s = .ok r) (hroom : Room r.2 fn) (hj : tget? x.jobs r.1.job = some j)
    (hidle : coresIdle r.2 j = false) :
    armBody fn hdr slot ops s = long fn hdr (some p) 1 .step (withArmedStep fn slot.toNat p r) 0
      (fun h s => modHandle h (fun r => { r with state := .pending }) s) := by
  obtain ⟨a, hlong, _⟩ := long_handle (hdr := hdr) (p := p) (kind := 1) (op := .step) (result := 0)
    (after := fun h s => modHandle h (fun r => { r with state := .pending }) s) (room_withArmedStep (slot := slot.toNat) hroom)
  have hqueue : queueStep fn hdr p r.1 .pending (withArmedSlot fn slot.toNat r p) = .ok a := hlong
  rw [hlong]
  unfold armBody
  rw [withPart_acts ha, need_of (decide_eq_true hs), need_of (by rw [hempty]; rfl), hr]
  dsimp only
  rw [show modFn fn _ r.2 = withArmedSlot fn slot.toNat r p from rfl, hqueue, hj]
  exact congrArg Except.ok (if_neg (Bool.eq_false_iff.mp hidle))

theorem armBody_taken (ha : Acts s fn hdr p x) (hs : slot.toNat < 16) (htaken : (slotOf (fnOf s fn) slot.toNat).state ≠ 0) :
    armBody fn hdr slot ops s = .error 0x0205 := by
  unfold armBody
  rw [withPart_acts ha, need_of (decide_eq_true hs), need_not (by simpa using htaken)]

theorem disarmBody_armed (hs : slot.toNat < 16) (harmed : (slotOf (fnOf s fn) slot.toNat).state = 1) :
    disarmBody fn slot s = .ok
      { st := modFn fn (fun z => { z with slots := tdel z.slots slot.toNat }) (dropQueued (slotOf (fnOf s fn) slot.toNat).handle s),
        after := finish (slotOf (fnOf s fn) slot.toNat).handle 0x0301 0 } := by
  unfold disarmBody
  dsimp only
  rw [need_of (decide_eq_true hs), if_pos harmed]

theorem disarmBody_notArmed (hs : slot.toNat < 16) (h : (slotOf (fnOf s fn) slot.toNat).state ≠ 1) :
    disarmBody fn slot s = .ok { st := s, result := if (slotOf (fnOf s fn) slot.toNat).state = 2 then 1 else 0 } := by
  unfold disarmBody
  dsimp only
  rw [need_of (decide_eq_true hs), if_neg h]

end Arm
end Slots

/-- Settles O41: a submission by what its checks prepare, and each slot command by the slot's state. -/
theorem submissionsAndSlots : Obligations.SubmissionsAndSlots := by
  refine ⟨?submit, ?prepared, ?stale, ?arm, ?taken, ?disarm, ?notArmed⟩
  case submit => exact fun fn hdr ops p x r s hh ha hr hroom => heard_accepted hh (by decide) (submitBody_prepared ha hr) hroom
  case prepared =>
    intro p x ops slot r s h
    obtain ⟨hretry, seqs, spills, hr⟩ := prepareStep_ok h
    rw [hr]
    exact ⟨rfl, rfl, rfl, rfl, rfl, rfl, rfl, hretry⟩
  case stale =>
    exact fun fn hdr ops p x j pat s hh ha hj hpat hw hl hd hr hdis =>
      heard_refused hh (by decide) (submitBody_refused ha (prepareStep_staleRetry hj hpat hw hl hd hr hdis))
  case arm =>
    exact fun fn hdr slot ops p x j r s hh ha hs hempty hr hroom hj hidle =>
      heard_accepted hh (by decide) (armBody_busy ha hs hempty hr hroom hj hidle) (room_withArmedStep hroom)
  case taken => exact fun fn hdr slot ops p x s hh ha hs ht => heard_refused hh (by decide) (armBody_taken ha hs ht)
  case disarm =>
    intro fn hdr slot s hh hs harmed
    refine (message_heard hh (by decide)).trans ?_
    rw [disarmBody_armed hs harmed]
    rfl
  case notArmed => exact fun fn hdr slot s hh hs h => heard_answered hh (by decide) (disarmBody_notArmed hs h)

end Sys2Proof.Architecture

/-!
PROOFS. Steps that advance (R45, R46, R50, R512, R520, R521), banks (R189, R191) and replays (R214 to R220).
-/
namespace Sys2Proof.Architecture
open Sys2Proof Sys2Proof.Machine Sys2Proof.Safety

/-! ## Admission, saves and restores, and the held state -/

section Steps
variable {s : State} {h : Nat} {j : Job} {st : Step}

theorem isQueued_of_turnComes {fast : Bool} (ht : turnComes s h fast = true) (hst : getStep s h = some st) : isQueued st = true := by
  unfold turnComes at ht
  rw [hst] at ht
  split at ht
  case h_1 x st' _ hsome =>
    cases hsome
    exact (Bool.and_eq_true_iff.mp (Bool.and_eq_true_iff.mp ht).1).1
  case h_2 => cases ht

theorem not_running_of_isQueued (hq : isQueued st = true) : (st.state == .running) = false := by
  have hstate : (st.state == .queued) = true := (Bool.and_eq_true_iff.mp hq).1
  rw [beq_iff_eq.mp hstate]
  rfl

theorem admitStep_turn (hj : stepJob s h = some j) (hst : getStep s h = some st) (ht : turnComes s h false = true) (hc : j.cls ≠ 0)
    (hq : j.holdsQuads = true) (hi : coresIdle s j = true) :
    admitStep h false s = issueStep h (takeEpoch h
      (modJob (handlePart h) st.job (fun j => { j with holdsQuads := true, sliceLeft := if j.holdsQuads then j.sliceLeft else j.slice }) s)) := by
  have hstate := not_running_of_isQueued (isQueued_of_turnComes ht hst)
  unfold admitStep
  rw [hj, hst]
  dsimp only
  rw [hstate, if_neg Bool.false_ne_true, ht, if_neg (by decide), if_neg hc, hq, hi, if_pos (by decide)]

theorem startClass0_free (hj : stepJob s h = some j) (hst : getStep s h = some st) (hr : st.state = .running) (hs : st.suspended = false)
    (hc : j.cls = 0) (hi : coresIdle s j = true) (hu : unissued s h = true) :
    startClass0 h s = devEvent 0x0007 (handlePart h) 1 (issueStep h s) := by
  have hclass : stepClass s h = 0 := by simp [stepClass, hj, hc]
  simp [startClass0, class0Go, hst, hr, hs, hclass, hj, hi, hu]

/-- A step whose cores have all passed their last entry is held, unless its records meet a page in trouble. -/
theorem holdStep_finished (hst : getStep s h = some st) (hr : st.state = .running) (hf : st.frogging = false) (hs : st.suspended = false)
    (ha : allFinished s h = true) (hp : accessTrouble s (holdPages s h st) = none) (ho : st.replayOf = none) :
    holdStep h s = complete h .held (condStatus st.conds) (st.conds.setWidth 64) st.epoch
      (releaseCores h (releaseQuads h (writeReplayRecord h 1 (modStep h (fun st => { st with state := .held })
        (modStep h (fun st => { st with status := condStatus st.conds, result := st.conds.setWidth 64 })
          (leakLocks h (fenceRecords h s))))))) := by
  simp [holdStep, hst, hr, hf, hs, ha, hp, ho]

theorem holdStep_trouble {t : Nat × Nat} (hst : getStep s h = some st) (hr : st.state = .running) (hf : st.frogging = false)
    (hs : st.suspended = false) (ha : allFinished s h = true) (hp : accessTrouble s (holdPages s h st) = some t) :
    holdStep h s = stopOnPage h t s := by
  simp [holdStep, hst, hr, hf, hs, ha, hp]

theorem frogLanded_idle (hst : getStep s h = some st) (hr : st.state = .running) (hf : st.frogging = true) (hi : runningOn s h = []) :
    frogLanded h s = finishFrog h (releaseQuads h s) := by
  simp [frogLanded, hst, hr, hf, hi]

end Steps

/-- Settles O43: a step's admission, its class-0 start, its cores' saves and restores, its end and its frog. -/
theorem stepsAdvance : Obligations.StepsAdvance := by
  refine ⟨?admission, ?start, ?save, ?restore, ?held, ?trouble, ?frog⟩
  case admission =>
    exact fun handle s j st hr hj hst ht hc hq hi => (whenLive_running hr).trans (congrArg _ (admitStep_turn hj hst ht hc hq hi))
  case start =>
    exact fun handle s j st hr hj hst hrun hs hc hi hu =>
      (whenLive_running hr).trans (congrArg _ (startClass0_free hj hst hrun hs hc hi hu))
  case save =>
    exact fun core s hr hs hn => (whenLive_running hr).trans (congrArg _ (if_pos (by rw [hs, hn]; rfl)))
  case restore =>
    intro core s v hr hv
    have hland : execRestore core s = _ := whenLive_running hr
    rw [hv] at hland
    exact hland
  case held =>
    exact fun handle s st hr hst hrun hf hs ha hp ho =>
      (whenLive_running hr).trans (congrArg _ (holdStep_finished hst hrun hf hs ha hp ho))
  case trouble =>
    exact fun handle t s st hr hst hrun hf hs ha hp => (whenLive_running hr).trans (congrArg _ (holdStep_trouble hst hrun hf hs ha hp))
  case frog => exact fun handle s st hr hst hrun hf hi => (whenLive_running hr).trans (congrArg _ (frogLanded_idle hst hrun hf hi))

/-! ## Banks -/

section Banks
variable {fn : Fn} {hdr : Hdr} {p : Nat} {x : Partition} {s : State} {b : Bank}

/-- What follows the reply of BANK_CREATE (R189). -/
def createdBank (p i : Nat) (o : BankOps) (h : Nat) (s : State) : State :=
  match readTrouble s (descPages o.init) ((bankDescs o).flatMap descPages) with
  | some t => failAccess h t s
  | none => finish h 0 0 (putBank p i (bankOf o) (fillBank (bankOf o) (dFmt o.init) ((cmdTensor o.init).values s)
      (List.replicate ((cmdTensor o.init).values s).length Val.zero) (List.replicate ((cmdTensor o.init).values s).length Val.zero)
      (touchPages (descPages o.init ++ (bankDescs o).flatMap descPages) s)))

theorem bankCreateBody_ok {o : BankOps} {i : Nat} (ha : Acts s fn hdr p x) (hopt : flagOk o.opt = true) (hwork : flagOk o.work = true)
    (hfmt : o.wfmt.toNat < 32) (hel : 0 < o.elements.toNat) (hel' : o.elements.toNat ≤ 2 ^ 39) (hhead : o.header.toNat + 64 ≤ 2 ^ 43)
    (hd : ∀ d ∈ o.init :: bankDescs o, UnifiedOk s p x d) (hform : bankFormOk o = true) (hk0 : descReservedOk o.k0 = true)
    (hk1 : descReservedOk o.k1 = true) (hown : pagesOwned s p o.header.toNat 64 = true)
    (hpage : ((pagesOf o.header.toNat 64).any fun g => readOnlyPage s g || controlPage s g) = false)
    (hro : ∀ d ∈ bankDescs o, readOnlyDesc s d = false) (hi : tfree x.banks 64 = some i) :
    bankCreateBody fn hdr o s = long fn hdr (some p) 2 .none s (w64 i) (createdBank p i o) := by
  have hwritable : ((bankDescs o).all fun d => !readOnlyDesc s d) = true := by simpa using hro
  have hwords : (flagOk o.opt && flagOk o.work && decide (o.wfmt.toNat < 32) && decide (0 < o.elements.toNat) &&
      decide (o.elements.toNat ≤ 2 ^ 39) && decide (o.header.toNat + 64 ≤ 2 ^ 43)) = true := by
    rw [hopt, hwork, decide_eq_true hfmt, decide_eq_true hel, decide_eq_true hel', decide_eq_true hhead]
    rfl
  unfold bankCreateBody
  rw [withPart_acts ha, need_of hwords, needAll_ok hd,
    need_of (by rw [hform, hk0, hk1]; rfl), need_of (by rw [hown, hpage, hwritable]; rfl), have'_eq hi]
  rfl

/-- The bank that a command names. -/
theorem withBank_acts {bank : W64} {k : Nat → Partition → Bank → Except Nat Ans} (ha : Acts s fn hdr p x)
    (hb : tget? x.banks bank.toNat = some b) : withBank fn hdr s bank k = k p x b := by
  unfold withBank
  rw [withPart_acts ha, have'_eq hb]

theorem needMoments_ok {α : Type} {w m v : DescWord} {k : Except Nat α} (hd : ∀ d ∈ [w, m, v], UnifiedOk s p x d ∧ dCount d = b.elements) :
    needMoments s p x b w m v k = k := by
  unfold needMoments
  rw [needAll_ok fun d h => (hd d h).1, need_of (List.all_eq_true.mpr fun d h => beq_iff_eq.mpr (hd d h).2)]

/-- What follows the reply of BANK_EXPORT (R191). -/
def exportedBank (b : Bank) (w m v : DescWord) (h : Nat) (s : State) : State :=
  let own := [half b.cur b.w, half b.cur b.m, half b.cur b.v].flatMap descPages
  match readTrouble s own ([w, m, v].flatMap descPages) with
  | some t => failAccess h t s
  | none =>
    let s := touchPages (own ++ [w, m, v].flatMap descPages) s
    finish h 0 (w64 (half b.cur b.t)) (putValues (cmdTensor v) 0x00 (({ d := half b.cur b.v } : Tensor).values s)
      (putValues (cmdTensor m) 0x00 (({ d := half b.cur b.m } : Tensor).values s)
        (putValues (cmdTensor w) 0x0C (({ d := half b.cur b.w } : Tensor).values s) s)))

theorem exportBody_ok {bank : W64} {w m v : DescWord} (ha : Acts s fn hdr p x) (hb : tget? x.banks bank.toNat = some b)
    (hd : ∀ d ∈ [w, m, v], UnifiedOk s p x d ∧ dCount d = b.elements ∧ readOnlyDesc s d = false) :
    exportBody fn hdr bank w m v s = long fn hdr (some p) 2 .none s 0 (exportedBank b w m v) := by
  have hwritable : ([w, m, v].all fun d => !readOnlyDesc s d) = true :=
    List.all_eq_true.mpr fun d h => by rw [(hd d h).2.2]; rfl
  unfold exportBody
  rw [withBank_acts ha hb, needMoments_ok fun d h => ⟨(hd d h).1, (hd d h).2.1⟩, need_of hwritable]
  rfl

/-- What follows the reply of BANK_IMPORT (R191). -/
def importedBank (p bank : Nat) (b : Bank) (w m v : DescWord) (t p1 p2 : W64) (h : Nat) (s : State) : State :=
  let own := [b.w, b.m, b.v].flatMap (fun q => [q.1, q.2]) ++ (if b.work then [b.k.1, b.k.2] else [])
  match readTrouble s ([w, m, v].flatMap descPages) (own.flatMap descPages) with
  | some e => failAccess h e s
  | none =>
    let s := touchPages (([w, m, v] ++ own).flatMap descPages) s
    finish h 0 0 (putBank p bank { b with t := setHalf b.cur t.toNat b.t, p1 := setHalf b.cur (p1.setWidth 32) b.p1, p2 := setHalf b.cur (p2.setWidth 32) b.p2 }
      (fillBank b (dFmt w) ((cmdTensor w).values s) ((cmdTensor m).values s) ((cmdTensor v).values s) s))

theorem importBody_ok {bank t p1 p2 : W64} {w m v : DescWord} (ha : Acts s fn hdr p x) (hb : tget? x.banks bank.toNat = some b)
    (ht : t.toNat < 2 ^ 32) (hp1 : p1.toNat < 2 ^ 32) (hp2 : p2.toNat < 2 ^ 32)
    (hd : ∀ d ∈ [w, m, v], UnifiedOk s p x d ∧ dCount d = b.elements) (hh : bankHeld x bank.toNat = false) :
    importBody fn hdr bank w m v t p1 p2 s = long fn hdr (some p) 2 .none s 0 (importedBank p bank.toNat b w m v t p1 p2) := by
  unfold importBody
  rw [withBank_acts ha hb, need_of (by rw [decide_eq_true ht, decide_eq_true hp1, decide_eq_true hp2]; rfl), needMoments_ok hd,
    need_of (by rw [hh]; rfl)]
  rfl

theorem bankDestroyBody_free {bank : W64} (ha : Acts s fn hdr p x) (hb : tget? x.banks bank.toNat = some b)
    (hh : bankHeld x bank.toNat = false) :
    bankDestroyBody fn hdr bank s = .ok { st := modPart p (fun x => { x with banks := tdel x.banks bank.toNat }) s } := by
  unfold bankDestroyBody
  rw [withBank_acts ha hb, need_of (by rw [hh]; rfl)]

theorem bankDestroyBody_held {bank : W64} (ha : Acts s fn hdr p x) (hb : tget? x.banks bank.toNat = some b)
    (hh : bankHeld x bank.toNat = true) : bankDestroyBody fn hdr bank s = .error 0x0205 := by
  unfold bankDestroyBody
  rw [withBank_acts ha hb, need_not (by rw [hh]; rfl)]

end Banks

/-- Settles O44: each bank command that passes its checks, and a destroy by whether a step holds the bank staged. -/
theorem bankCommands : Obligations.BankCommands := by
  refine ⟨?create, ?exported, ?imported, ?free, ?held⟩
  case create =>
    exact fun fn hdr o p i x s hh ha hroom hopt hwork hfmt hel hel' hhead hd hform hk0 hk1 hown hpage hro hi =>
      heard_accepted hh (by decide) (bankCreateBody_ok ha hopt hwork hfmt hel hel' hhead hd hform hk0 hk1 hown hpage hro hi) hroom
  case exported => exact fun fn hdr bank w m v p x b s hh ha hroom hb hd => heard_accepted hh (by decide) (exportBody_ok ha hb hd) hroom
  case imported =>
    exact fun fn hdr bank w m v t p1 p2 p x b s hh ha hroom hb ht hp1 hp2 hd hheld =>
      heard_accepted hh (by decide) (importBody_ok ha hb ht hp1 hp2 hd hheld) hroom
  case free => exact fun fn hdr bank p x b s hh ha hb hheld => heard_answered hh (by decide) (bankDestroyBody_free ha hb hheld)
  case held => exact fun fn hdr bank p x b s hh ha hb hheld => heard_refused hh (by decide) (bankDestroyBody_held ha hb hheld)

/-! ## The replay log and replays -/

section Replays
variable {fn : Fn} {hdr : Hdr} {p : Nat} {x : Partition} {s : State}

theorem logSizeOk_range {n : Nat} (hlo : 2 ^ 20 ≤ n) (hhi : n ≤ 2 ^ 32) (hunit : n % 65536 = 0) : logSizeOk n = true := by
  unfold logSizeOk
  rw [decide_eq_true hlo, decide_eq_true hhi, hunit]
  exact Bool.or_true _

theorem logSetBody_size {addr size : W64} (ha : Acts s fn hdr p x) (hlo : 2 ^ 20 ≤ size.toNat) (hhi : size.toNat ≤ 2 ^ 32)
    (hunit : size.toNat % 65536 = 0) (hend : addr.toNat + size.toNat ≤ 2 ^ 43) (hown : pagesOwned s p addr.toNat size.toNat = true)
    (hpage : ((pagesOf addr.toNat size.toNat).any fun g => readOnlyPage s g || controlPage s g) = false) :
    logSetBody fn hdr addr size s = .ok
      { st := modPart p (fun x => { x with log := some { addr := addr.toNat, size := size.toNat } }) s
        result := w64 ((x.log.map (·.size)).getD 0) } := by
  have hpos : size.toNat ≠ 0 := by omega
  unfold logSetBody
  rw [withPart_acts ha]
  dsimp only
  rw [need_of (by rw [logSizeOk_range hlo hhi hunit, decide_eq_true hend]; rfl),
    need_of (by rw [hown, hpage]; simp), if_neg hpos]

theorem logSetBody_stop {addr : W64} (ha : Acts s fn hdr p x) (hend : addr.toNat ≤ 2 ^ 43) :
    logSetBody fn hdr addr 0 s = .ok
      { st := modPart p (fun x => { x with log := none }) s, result := w64 ((x.log.map (·.size)).getD 0) } := by
  have hzero : (0 : W64).toNat = 0 := rfl
  have hend' : addr.toNat + 0 ≤ 2 ^ 43 := hend
  unfold logSetBody
  rw [withPart_acts ha]
  dsimp only
  rw [hzero, need_of (by rw [decide_eq_true hend']; rfl), beq_self_eq_true, Bool.true_or, need_true, if_pos rfl]

variable {epoch : W64} {subs : List (W32 × DescWord)} {outs : List DescWord} {report : DescWord}

/-- What REPLAY does once its descriptors are in form (R217). -/
def replayChecked (f : Nat) (hdr : Hdr) (epoch : W64) (subs : List (W32 × DescWord)) (outs : List DescWord) (report : DescWord) (p : Nat)
    (x : Partition) (s : State) : Except Nat Ans :=
  match loggedStep s x epoch.toNat with
  | none => long f hdr (some p) 6 .replay s 0 (refuseReplay report [])
  | some l =>
    match stepPattern s l.1 with
    | none => long f hdr (some p) 6 .replay s 0 (refuseReplay report [])
    | some pat =>
      let st := replayStep s l.2.1 pat l.2.2 subs outs report
      let bad := (replayInputs s l.1 pat subs).filter fun d => !((st.replayOf.map (·.ins)).getD []).contains d
      if !bad.isEmpty then long f hdr (some p) 6 .replay s 0 (refuseReplay report bad)
      else
        match reserveSpills p { pat := pat, table := st.table } (encodeCalls st.table) s with
        | .error c => .error c
        | .ok r =>
          long f hdr (some p) 6 .replay
            (modPart p (fun x => { x with steps := tset x.steps (nextHandle r.2 p 6) { st with spills := r.1 } }) r.2) 0
            (fun h s => modHandle h (fun r => { r with state := .queued }) s)

theorem replayBody_checked (ha : Acts s fn hdr p x)
    (hd : ∀ d ∈ subs.map (·.2) ++ outs ++ [report], unifiedOk d = true ∧ descPermitted s p x x.mapbuf cmdCore d = true)
    (hro : ∀ d ∈ report :: outs, readOnlyDesc s d = false) :
    replayBody fn hdr epoch subs outs report s = replayChecked fn hdr epoch subs outs report p x s := by
  have hform : (subs.map (·.2) ++ outs ++ [report]).all unifiedOk = true := List.all_eq_true.mpr fun d h => (hd d h).1
  have hperm : (subs.map (·.2) ++ outs ++ [report]).all (descPermitted s p x x.mapbuf cmdCore) = true :=
    List.all_eq_true.mpr fun d h => (hd d h).2
  have hwritable : ((report :: outs).all fun d => !readOnlyDesc s d) = true := List.all_eq_true.mpr fun d h => by rw [hro d h]; rfl
  unfold replayBody
  rw [withPart_acts ha]
  dsimp only
  rw [need_of hform, need_of (by rw [hperm, hwritable]; rfl)]
  rfl

theorem replayChecked_unlogged (hl : loggedStep s x epoch.toNat = none) :
    replayChecked fn hdr epoch subs outs report p x s = long fn hdr (some p) 6 .replay s 0 (refuseReplay report []) := by
  unfold replayChecked
  rw [hl]

theorem replayChecked_logged {l : Nat × Step × Nat} {pat : PatternImage} {r : List (Nat × Nat × Nat) × State} {st : Step}
    (hst : st = replayStep s l.2.1 pat l.2.2 subs outs report) (hl : loggedStep s x epoch.toNat = some l) (hpat : stepPattern s l.1 = some pat)
    (hins : ∀ d ∈ replayInputs s l.1 pat subs, d ∈ (st.replayOf.map (·.ins)).getD [])
    (hr : reserveSpills p { pat := pat, table := st.table } (encodeCalls st.table) s = .ok r) :
    replayChecked fn hdr epoch subs outs report p x s = long fn hdr (some p) 6 .replay
      (modPart p (fun x => { x with steps := tset x.steps (nextHandle r.2 p 6) { st with spills := r.1 } }) r.2) 0
      (fun h s => modHandle h (fun r => { r with state := .queued }) s) := by
  subst hst
  have hnone : (replayInputs s l.1 pat subs).filter
      (fun d => !(((replayStep s l.2.1 pat l.2.2 subs outs report).replayOf.map (·.ins)).getD []).contains d) = [] := by
    simpa [List.filter_eq_nil_iff] using hins
  unfold replayChecked
  rw [hl]
  dsimp only
  rw [hpat]
  dsimp only
  rw [hnone, if_neg (by decide), hr]

end Replays

/-- Settles O45: the log's sizes, and a replay by the record of its epoch and the inputs that it names. -/
theorem replayCommands : Obligations.ReplayCommands := by
  refine ⟨?size, ?stop, ?unlogged, ?logged⟩
  case size =>
    exact fun fn hdr addr size p x s hh ha hlo hhi hunit hend hown hpage =>
      heard_answered hh (by decide) (logSetBody_size ha hlo hhi hunit hend hown hpage)
  case stop => exact fun fn hdr addr p x s hh ha hend => heard_answered hh (by decide) (logSetBody_stop ha hend)
  case unlogged =>
    exact fun fn hdr epoch subs outs report p x s hh ha hroom hd hro hl =>
      heard_accepted hh (by decide) ((replayBody_checked ha hd hro).trans (replayChecked_unlogged hl)) hroom
  case logged =>
    exact fun fn hdr epoch subs outs report p x l pat r s hh ha hroom hd hro hl hpat hins hr =>
      heard_accepted hh (by decide) ((replayBody_checked ha hd hro).trans (replayChecked_logged rfl hl hpat hins hr)) hroom

end Sys2Proof.Architecture

/-!
PROOFS. Pelotons: forming and disbanding, policy and query, substitution, group frog and re-sharding (R461 to R465, R492 to R497,
R502, R503).
-/
namespace Sys2Proof.Architecture
open Sys2Proof Sys2Proof.Machine Sys2Proof.Safety

section Bodies
variable {fn : Fn} {hdr : Hdr} {p : Nat} {x : Partition} {q : Peloton} {s : State} {peloton : W64}

/-! ## Forming and ending -/

theorem pelotonFormed_credited {n : Nat} (hq : getPel s p n = some q) (hf : q.formed = false)
    (hc : ∀ i ∈ pelPorts q.header q.members, ∀ v ∈ pelVcs q.header, (vcOf (portOf s i) v).first = true) :
    pelotonFormed p n s = finish q.handle 0 0 (modPel p n (fun q => { q with formed := true, handle := 0, lapWaited := 0 }) s) := by
  have hready : ((pelPorts q.header q.members).all fun i => (pelVcs q.header).all fun v => (vcOf (portOf s i) v).first) = true := by
    simpa using hc
  unfold pelotonFormed
  rw [hq]
  dsimp only
  rw [hf, hready, if_neg (by decide)]

/-- A peloton that nothing holds may go or change its members. -/
theorem unheld (hl : q.lap = none) (hf : q.frog = none) (hh : q.handle = 0) :
    (q.lap.isNone && q.frog.isNone && decide (q.handle = 0)) = true := by
  rw [hl, hf, hh]
  rfl

theorem disbandBody_idle (ha : Acts s fn hdr p x) (hq : tget? x.pelotons peloton.toNat = some q)
    (hb : pelotonBusy s x peloton.toNat = false) (hl : q.lap = none) (hf : q.frog = none) (hh : q.handle = 0) :
    disbandBody fn hdr peloton s = .ok
      { st := releaseVcs p peloton.toNat q (modPart p (fun x => { x with
          pelotons := tdel x.pelotons peloton.toNat, parks := x.parks.filter fun k => k.pel != peloton.toNat }) s)
        result := w64 (x.parks.filter fun k => k.pel == peloton.toNat).length } := by
  unfold disbandBody
  rw [withPart_acts ha, have'_eq hq]
  dsimp only
  rw [need_of (by rw [hb, hl, hf, hh]; rfl)]

theorem disbandBody_busy (ha : Acts s fn hdr p x) (hq : tget? x.pelotons peloton.toNat = some q)
    (hb : pelotonBusy s x peloton.toNat = true) : disbandBody fn hdr peloton s = .error 0x0205 := by
  unfold disbandBody
  rw [withPart_acts ha, have'_eq hq]
  dsimp only
  rw [need_not (by rw [hb]; rfl)]

section Policy
variable {window peerLimit latePolicy thin headroom : W64}

theorem policyBody_inRange (ha : Acts s fn hdr p x) (hq : tget? x.pelotons peloton.toNat = some q) (hw : 1 ≤ window.toNat)
    (hw' : window.toNat ≤ 255) (hp : 2 ≤ peerLimit.toNat) (hp' : peerLimit.toNat ≤ 15) (hl : latePolicy.toNat ≤ 1) (ht : thin.toNat ≤ 63)
    (hr : headroom.toNat ≤ 7) :
    policyBody fn hdr peloton window peerLimit latePolicy thin headroom s = .ok
      { st := modPel p peloton.toNat (fun q => { q with window := window.toNat, peerLimit := peerLimit.toNat, latePolicy := latePolicy.toNat,
                                                        thin := thin.toNat, headroom := headroom.toNat }) s
        result := w64 x.epoch } := by
  unfold policyBody
  rw [withPart_acts ha, have'_eq hq, need_of (by simp [hw, hw', hp, hp', hl, ht, hr])]

theorem policyBody_outOfRange (ha : Acts s fn hdr p x) (hq : tget? x.pelotons peloton.toNat = some q)
    (hout : window.toNat = 0 ∨ 255 < window.toNat ∨ peerLimit.toNat < 2 ∨ 15 < peerLimit.toNat ∨ 1 < latePolicy.toNat) :
    policyBody fn hdr peloton window peerLimit latePolicy thin headroom s = .error 0x0201 := by
  have hbad : ¬ (1 ≤ window.toNat ∧ window.toNat ≤ 255 ∧ 2 ≤ peerLimit.toNat ∧ peerLimit.toNat ≤ 15 ∧ latePolicy.toNat ≤ 1) := by omega
  unfold policyBody
  rw [withPart_acts ha, have'_eq hq, need_not]
  refine Bool.eq_false_iff.mpr fun hall => hbad ?_
  simp only [Bool.and_eq_true, decide_eq_true_eq] at hall
  obtain ⟨⟨⟨⟨⟨⟨hw, hw'⟩, hp⟩, hp'⟩, hl⟩, _⟩, _⟩ := hall
  exact ⟨hw, hw', hp, hp', hl⟩

end Policy

theorem pelQueryBody_known (ha : Acts s fn hdr p x) (hq : tget? x.pelotons peloton.toNat = some q) :
    pelQueryBody fn hdr peloton s = .ok { st := s, data := wordsData [q.layout, q.sync, maskOf (pelVcs q.header), fld q.header 391 382,
      (x.parks.filter fun k => k.pel == peloton.toNat).length, parkBytes (x.parks.filter fun k => k.pel == peloton.toNat), q.late, q.repass,
      q.stale, q.disagree] } := by
  unfold pelQueryBody
  rw [withPart_acts ha, have'_eq hq]

/-- The peloton that a descriptor read from memory makes (R461 to R463). -/
def formedPeloton (h : BitVec 512) (members : List W64) (shards : List (BitVec 256)) (handle : Nat) : Peloton :=
  { header := h, members := members, shards := shards, layout := fld h 471 456, desc16 := descDigest h members shards, window := fld h 455 448,
    peerLimit := fld h 447 444, latePolicy := fld h 441 440, thin := fld h 439 434, headroom := fld h 433 431, handle := handle }

theorem formBody_ok {desc : DescWord} {h : BitVec 512} {members : List W64} {shards : List (BitVec 256)} (ha : Acts s fn hdr p x)
    (hd : UnifiedOk s p x desc) (hh : h = BitVec.ofNat 512 (s.readNat .unified (dAddr desc) 64))
    (hm : members = (List.range (fld h 495 484 + 1)).map (fun r => w64 (s.readNat .unified (dAddr desc + 64 + 8 * r) 8)))
    (hs : shards = (List.range (fld h 495 484 + 1)).map (fun r => BitVec.ofNat 256
      (s.readNat .unified ((dAddr desc + 64 + 8 * (fld h 495 484 + 1) + 31) / 32 * 32 + 32 * r) 32)))
    (hform : pelotonFormOk (lgLinkId s.links.group) h members shards = true) (hnew : tget? x.pelotons (fld h 511 496) = none)
    (hen : ∀ i ∈ pelPorts h members, (lgPortEn s.links.group).testBit i = true) (hfew : x.pelotons.length < 16)
    (hall : (s.parts.map fun e => e.2.pelotons.length).foldl (· + ·) 0 < 64)
    (hvcs : vcsTaken s p (fld h 511 496) (pelPorts h members) (pelVcs h) = false)
    (hports : portsFull s p (fld h 511 496) (fld h 391 382) (pelPorts h members) (pelVcs h) = false) :
    formBody fn hdr desc s = long fn hdr (some p) 3 (.pelForm (fld h 511 496))
      (bindVcs p (fld h 511 496) (fld h 391 382) (pelPorts h members) (pelVcs h)
        (modPart p (fun x => { x with pelotons := tset x.pelotons (fld h 511 496) (formedPeloton h members shards (nextHandle s p 3)) }) s)) := by
  have henabled : ((pelPorts h members).all fun i => (lgPortEn s.links.group).testBit i) = true := List.all_eq_true.mpr hen
  subst hs hm hh
  unfold formBody
  rw [withPart_acts ha, needUnified_ok hd]
  dsimp only
  rw [need_of hform, need_of (by rw [hnew, henabled]; rfl),
    need_of (by rw [decide_eq_true hfew, decide_eq_true hall, hvcs, hports]; rfl)]
  rfl

/-! ## Laps -/

theorem substBody_ok {rank linkId port : W64} (ha : Acts s fn hdr p x) (hq : tget? x.pelotons peloton.toNat = some q)
    (hr : rank.toNat < pelN q) (hown : rank.toNat ≠ pelRank q) (hid : linkId.toNat ≤ 0xFFFE) (hport : port.toNat < 16) (hmode : pelMode q = 1)
    (hb : pelotonBusy s x peloton.toNat = false) (hl : q.lap = none) (hf : q.frog = none) (hh : q.handle = 0)
    (hen : (lgPortEn s.links.group).testBit port.toNat = true) (hvcs : vcsTaken s p peloton.toNat [port.toNat] (pelVcs q.header) = false)
    (hfull : portsFull s p peloton.toNat (fld q.header 391 382) [port.toNat] (pelVcs q.header) = false) {q' : Peloton}
    (hq' : q' = substituted q rank.toNat linkId.toNat port.toNat (nextHandle s p 3)) :
    substBody fn hdr peloton rank linkId port s = long fn hdr (some p) 3 (.pelLap peloton.toNat)
      (bindVcs p peloton.toNat (fld q.header 391 382) [port.toNat] (pelVcs q.header) (modPel p peloton.toNat (fun _ => q') s)) 0
      (fun _ s => sendToken peloton.toNat 0x23 0 q'.layout q' { chunk := pelRank q' } [] s) := by
  subst hq'
  unfold substBody
  rw [withPart_acts ha, have'_eq hq]
  dsimp only
  rw [need_of (by rw [decide_eq_true hr, decide_eq_true hid, decide_eq_true hport, bne_iff_ne.mpr hown]; rfl),
    need_of (by rw [hmode, hb, hl, hf, hh, hen]; rfl), need_of (by rw [hvcs, hfull]; rfl)]

/-- What follows the reply of PELOTON_FROG (R497). -/
def frogAfter (p n epoch attempt : Nat) (q : Peloton) (s : State) : State :=
  sendToken n 0x21 epoch q.layout q { attempt := attempt, chunk := pelRank q } (addCount (frogEpoch p epoch attempt s).1 (leBytes 32 0))
    (frogEpoch p epoch attempt s).2

theorem pelFrogBody_ok {epoch : W64} (ha : Acts s fn hdr p x) (hq : tget? x.pelotons peloton.toNat = some q) (he : epoch.toNat < 2 ^ 32)
    (hl : isSubst q.lap = false) (hf : q.frog = none) (hh : q.handle = 0) :
    pelFrogBody fn hdr peloton epoch s = long fn hdr (some p) 3 (.pelFrog peloton.toNat)
      (modPel p peloton.toNat (fun q => { q with frog := some epoch.toNat, frogHandle := nextHandle s p 3, frogWaited := 0 }) s) 0
      (fun _ s => frogAfter p peloton.toNat epoch.toNat (frogAttempt x epoch.toNat) q s) := by
  unfold pelFrogBody
  rw [withPart_acts ha, have'_eq hq]
  dsimp only
  rw [need_of (decide_eq_true he), need_of (by rw [hl, hf, hh]; rfl)]
  rfl

theorem reshardBody_ok {epoch : W64} {shards : DescWord} {pairs : List ReshardPair} {sh : List (BitVec 256)} (ha : Acts s fn hdr p x)
    (hq : tget? x.pelotons peloton.toNat = some q) (he : epoch.toNat = (q.layout + 1) % 65536) (hl : q.lap = none) (hf : q.frog = none)
    (hh : q.handle = 0) (hd : UnifiedOk s p x shards) (hn : pairs.length ≤ 64) (hform : pairs.all (reshardPairOk q) = true)
    (hown : pairs.all (pairOwned s p x) = true)
    (hsh : sh = (List.range (pelN q)).map (fun r => BitVec.ofNat 256 (s.readNat .unified (dAddr shards + 32 * r) 32)))
    (hzero : ∀ e ∈ sh, fld e 95 0 = 0) :
    reshardBody fn hdr peloton epoch shards pairs s = long fn hdr (some p) 3 (.pelLap peloton.toNat)
      (modPel p peloton.toNat (fun q => { q with lap := some (.reshard epoch.toNat sh pairs 0 0), lapHandle := nextHandle s p 3, lapWaited := 0 }) s) 0
      (fun _ s => beginLap p peloton.toNat s) := by
  have hlow : epoch.toNat < 65536 := by omega
  have hreserved : (sh.all fun e => fld e 95 0 == 0) = true := List.all_eq_true.mpr fun e h => beq_iff_eq.mpr (hzero e h)
  subst hsh
  unfold reshardBody
  rw [withPart_acts ha, have'_eq hq]
  dsimp only
  rw [need_of (by rw [decide_eq_true hn, decide_eq_true hlow]; rfl), needUnified_ok hd, need_of hform, need_of hown,
    need_of (by rw [beq_iff_eq.mpr he, hl, hf, hh]; rfl), need_of hreserved]

end Bodies

theorem getPel_modPel_same {p n : Nat} {f : Peloton → Peloton} {s : State} : getPel (modPel p n f s) p n = (getPel s p n).map f := by
  rw [getPel, modPel, getPart_modPart_same, getPel]
  cases getPart s p with
  | none => rfl
  | some x => exact tget?_tupd_same

section Tokens
variable {p n : Nat} {q : Peloton} {m : CollMsg} {s : State}

theorem substToken_own (hq : getPel s p n = some q) (hm : heldOf q 0x23 = some m) (hc : (readHead m.header).chunk = pelRank q)
    (hl : isSubst q.lap = true) : substToken p n s = endLap p n 0 0 (dropMsg p n m s) := by
  simp [substToken, hq, hm, hc, hl]

theorem substToken_other (hq : getPel s p n = some q) (hm : heldOf q 0x23 = some m) (hc : (readHead m.header).chunk ≠ pelRank q) :
    substToken p n s = sendToken n 0x23 0 q.layout q (readHead m.header) m.body (dropMsg p n m s) := by
  simp [substToken, hq, hm, hc]

theorem groupFrog_own (hq : getPel s p n = some q) (hm : heldOf q 0x21 = some m) (hc : (readHead m.header).chunk = pelRank q)
    (hf : q.frog = some m.stepEpoch) : groupFrog p n s = endFrog p n 0 (w64 (leNat (m.body.take 6))) (dropMsg p n m s) := by
  simp [groupFrog, hq, hm, hc, hf]

theorem groupFrog_other (hq : getPel s p n = some q) (hm : heldOf q 0x21 = some m) (hc : (readHead m.header).chunk ≠ pelRank q) :
    groupFrog p n s = sendToken n 0x21 m.stepEpoch q.layout q (readHead m.header)
      (addCount (frogEpoch p m.stepEpoch (readHead m.header).attempt (dropMsg p n m s)).1 m.body)
      (frogEpoch p m.stepEpoch (readHead m.header).attempt (dropMsg p n m s)).2 := by
  simp [groupFrog, hq, hm, hc]

section Reshard
variable {e got lap : Nat} {sh : List (BitVec 256)} {pairs : List ReshardPair}

/-- The first lap comes back to rank 0, which switches and begins the second. -/
theorem reshardToken_lapDone {x : Partition} (hq : getPel s p n = some q) (hx : getPart s p = some x) (hm : heldOf q 0x22 = some m)
    (hl : q.lap = some (.reshard e sh pairs 1 got)) (hc : (readHead m.header).count = 1) (hr : pelRank q = 0) :
    reshardToken p n s = sendToken n 0x22 0 q.layout q { count := 2 } [] (switchLayout p n (dropMsg p n m s)) := by
  simp [reshardToken, hq, hx, hm, hl, hc, hr]

theorem reshardData_pair {pr : ReshardPair} (hq : getPel s p n = some q) (hm : heldOf q 0x17 = some m)
    (hl : q.lap = some (.reshard e sh pairs lap got)) (hp : pairs[(readHead m.header).call]? = some pr) :
    reshardData p n s = checkReshard p n (modPel p n
      (fun q => { q with lap := some (.reshard e sh pairs lap (got + (readHead m.header).count)) })
      ((List.range (readHead m.header).count).foldl (fun s k => putElem s (cmdTensor pr.newShard) ((readHead m.header).first + k) ((m.body.drop (8 * k)).take 8))
        (dropMsg p n m s))) := by
  simp [reshardData, hq, hm, hl, hp]

end Reshard

/-! ## Laps that last too long -/

theorem lapTimeout_subst (hq : getPel s p n = some q) (hw : q.peerLimit * q.window ≤ q.lapWaited) (hh : q.handle = 0) (hf : q.frog = none)
    (hl : ∃ hd ms l d, q.lap = some (.subst hd ms l d)) : lapTimeout p n s = endLap p n 0x0302 0 s := by
  obtain ⟨hd, ms, l, d, hl⟩ := hl
  simp [lapTimeout, hq, hh, hf, hl, Nat.not_lt.mpr hw]

theorem lapTimeout_frog {e : Nat} (hq : getPel s p n = some q) (hw : q.peerLimit * q.window ≤ q.frogWaited) (hf : q.frog = some e)
    (hl : q.lapWaited < q.peerLimit * q.window) : lapTimeout p n s = endFrog p n 0x0302 0 s := by
  simp [lapTimeout, hq, hf, hw, hl]

theorem lapTimeout_early (hq : getPel s p n = some q) (hl : q.lapWaited < q.peerLimit * q.window)
    (hf : q.frog = none ∨ q.frogWaited < q.peerLimit * q.window) : lapTimeout p n s = s := by
  have hfrog : (q.frog.isSome && decide (q.peerLimit * q.window ≤ q.frogWaited)) = false := by
    rcases hf with h | h
    · rw [h]; rfl
    · rw [decide_eq_false (Nat.not_le.mpr h), Bool.and_false]
  unfold lapTimeout
  rw [hq]
  dsimp only
  rw [if_neg (Bool.eq_false_iff.mp hfrog), if_pos hl]

end Tokens

/-- Settles O46: a peloton's forming by its credits and its descriptor, and its end, policy and query. -/
theorem pelotonsFormAndEnd : Obligations.PelotonsFormAndEnd := by
  refine ⟨?formed, ?idle, ?busy, ?inRange, ?outOfRange, ?query, ?form⟩
  case formed => exact fun part n q s hr hq hf hc => (whenLive_running hr).trans (congrArg _ (pelotonFormed_credited hq hf hc))
  case idle => exact fun fn hdr peloton p x q s hh ha hq hb hl hf h0 => heard_answered hh (by decide) (disbandBody_idle ha hq hb hl hf h0)
  case busy => exact fun fn hdr peloton p x q s hh ha hq hb => heard_refused hh (by decide) (disbandBody_busy ha hq hb)
  case inRange =>
    exact fun fn hdr peloton window peerLimit latePolicy thin headroom p x q s hh ha hq hw hw' hp hp' hl ht hr =>
      heard_answered hh (by decide) (policyBody_inRange ha hq hw hw' hp hp' hl ht hr)
  case outOfRange =>
    exact fun fn hdr peloton window peerLimit latePolicy thin headroom p x q s hh ha hq hout =>
      heard_refused hh (by decide) (policyBody_outOfRange ha hq hout)
  case query => exact fun fn hdr peloton p x q s hh ha hq => heard_answered hh (by decide) (pelQueryBody_known ha hq)
  case form =>
    intro fn hdr desc p x s h members shards hh ha hd hhead hm hs hform hnew hen hfew hall hvcs hports t ht hroom
    have hbody := formBody_ok ha hd hhead hm hs hform hnew hen hfew hall hvcs hports
    subst ht
    exact heard_accepted hh (by decide) hbody hroom

/-- Settles O47: laps by what the peloton holds, tokens by whose they are, and laps and frogs that last too long. -/
theorem pelotonLaps : Obligations.PelotonLaps := by
  refine ⟨?subst, ?frog, ?reshard, ?substOwn, ?substOther, ?frogOwn, ?frogOther, ?lapDone, ?switch, ?data, ?substLate, ?frogLate, ?early⟩
  case subst =>
    intro fn hdr peloton rank linkId port p x q s hh ha hq hr hown hid hport hmode hb hl hf h0 hen hvcs hfull q' t hq' ht hroom
    have hbody := substBody_ok ha hq hr hown hid hport hmode hb hl hf h0 hen hvcs hfull hq'
    subst ht
    exact heard_accepted hh (by decide) hbody hroom
  case frog =>
    exact fun fn hdr peloton epoch p x q s hh ha hroom hq he hl hf h0 => heard_accepted hh (by decide) (pelFrogBody_ok ha hq he hl hf h0) hroom
  case reshard =>
    exact fun fn hdr peloton epoch shards pairs p x q sh s hh ha hroom hq he hl hf h0 hd hn hform hown hsh hzero =>
      heard_accepted hh (by decide) (reshardBody_ok ha hq he hl hf h0 hd hn hform hown hsh hzero) hroom
  case substOwn =>
    intro part n q m s hr hq hm hc hl
    have hsubst : isSubst q.lap = true := by obtain ⟨hd, ms, l, d, hl⟩ := hl; rw [hl]; rfl
    exact (whenLive_running hr).trans (congrArg _ (substToken_own hq hm hc hsubst))
  case substOther => exact fun part n q m s hr hq hm hc => (whenLive_running hr).trans (congrArg _ (substToken_other hq hm hc))
  case frogOwn => exact fun part n q m s hr hq hm hc hf => (whenLive_running hr).trans (congrArg _ (groupFrog_own hq hm hc hf))
  case frogOther => exact fun part n q m s hr hq hm hc => (whenLive_running hr).trans (congrArg _ (groupFrog_other hq hm hc))
  case lapDone =>
    exact fun part n e got q x m sh pairs s hr hq hx hm hl hc h0 =>
      (whenLive_running hr).trans (congrArg _ (reshardToken_lapDone hq hx hm hl hc h0))
  case switch =>
    intro p n e lap got q sh pairs s hq hl
    rw [switchLayout, getPel_modPel_same, hq]
    dsimp only [Option.map_some]
    rw [hl]
  case data =>
    exact fun part n e lap got q m sh pairs pr s hr hq hm hl hp => (whenLive_running hr).trans (congrArg _ (reshardData_pair hq hm hl hp))
  case substLate =>
    exact fun part n q s hr hq hw h0 hf hl => (whenLive_running hr).trans (congrArg _ (lapTimeout_subst hq hw h0 hf hl))
  case frogLate => exact fun part n e q s hr hq hw hf hl => (whenLive_running hr).trans (congrArg _ (lapTimeout_frog hq hw hf hl))
  case early => exact fun part n q s hr hq hl hf => (whenLive_running hr).trans (congrArg _ (lapTimeout_early hq hl hf))

end Sys2Proof.Architecture

/-!
PROOFS. Activation calls and the units of a codec pair (R381 to R387, R393, R408 to R413).
-/
namespace Sys2Proof.Architecture
open Sys2Proof Sys2Proof.Machine Sys2Proof.Safety

/-! ## Activation commands -/

section Calls
variable {fn : Fn} {hdr : Hdr} {p : Nat} {x : Partition} {e : Session} {s : State} {call : BitVec 512} {src dst ref bound : DescWord}

theorem descReservedOk_of_check {coreOk : Nat → Bool} {d : DescWord} (h : descCheck coreOk d = true) : descReservedOk d = true := by
  cases hr : descReservedOk d with
  | true => rfl
  | false => simp [descCheck, descFormOk, hr] at h

/-- The state in which an activation command's handle is issued: its call, with its spill window, waits for its pairs. -/
def withCall (p : Nat) (x : Partition) (e : Session) (call : BitVec 512) (src dst ref bound : DescWord) (bytes handle : Nat)
    (r : Nat × State) : State :=
  startWait p (awSession call) (modPart p (fun y => { y with
    calls := tset y.calls (nextAct x) (newCall e call src dst ref bound bytes r.1 handle) }) r.2)

theorem actBody_encode {r : Nat × State} (ha : Acts s fn hdr p x) (he : tget? x.sessions (awSession call) = some e) (hk : e.kind = 3)
    (hp : e.pairs ≠ []) (hdec : awDecode call = false) (hsrc : UnifiedOk s p x src) (hdst : UnifiedOk s p x dst) (href : UnifiedOk s p x ref)
    (hbound : DescOk s p x bound) (hword : actWordOk call src dst ref bound (fun _ => false) = true)
    (hb : (boundsOf s bound).all (· ≤ 15) = true) (hro : readOnlyDesc s dst = false) (hro' : readOnlyDesc s ref = false)
    (hr : takeSpill p (awSession call) (spillBytes e false call src) s = some r) :
    actBody fn hdr false call src dst ref bound s = long fn hdr (some p) 4 (.call (nextAct x))
      (withCall p x e call src dst ref bound (spillBytes e false call src) (nextHandle s p 4) r) := by
  obtain ⟨hcheck, hperm⟩ := hbound
  unfold actBody
  rw [onSession_acts ha he, need_of (by simp [hk, hp, hdec]), needUnified_ok hsrc, needUnified_ok hdst, needUnified_ok href,
    need_of (by rw [descReservedOk_of_check hcheck, hcheck]; rfl), need_of (by rw [hperm]; rfl), need_of (by rw [hword, hb]; rfl),
    need_of (by rw [hro, hro']; rfl), have'_eq hr]
  rfl

/-- A decode reserves no spill. -/
theorem takeSpill_decode (he : getSession s p (awSession call) = some e) :
    takeSpill p (awSession call) (spillBytes e true call src) s = some (0, s) := by
  rw [takeSpill, he]
  rfl

theorem actBody_decode (ha : Acts s fn hdr p x) (he : tget? x.sessions (awSession call) = some e) (hk : e.kind = 3) (hp : e.pairs ≠ [])
    (hdec : awDecode call = true) (hsrc : UnifiedOk s p x src) (hdst : UnifiedOk s p x dst) (href : UnifiedOk s p x ref)
    (hbound : descReservedOk bound = true) (hword : actWordOk call src dst ref bound (fun _ => false) = true)
    (hro : readOnlyDesc s dst = false) (hro' : readOnlyDesc s ref = false) :
    actBody fn hdr true call src dst ref bound s = long fn hdr (some p) 4 (.call (nextAct x))
      (withCall p x e call src dst ref bound 0 (nextHandle s p 4) (0, s)) := by
  unfold actBody
  rw [onSession_acts ha he, need_of (by simp [hk, hp, hdec]), needUnified_ok hsrc, needUnified_ok hdst, needUnified_ok href,
    need_of (by rw [hbound]; rfl), need_of (Bool.true_or _), need_of (by rw [hword]; rfl), need_of (by rw [hro, hro']; rfl),
    have'_eq (takeSpill_decode ((getSession_acts ha).trans he))]
  rfl

theorem actReleaseBody_window {session spill : W64} {w : Nat × Nat} (ha : Acts s fn hdr p x) (he : tget? x.sessions session.toNat = some e)
    (hw : (e.spills.find? fun w => e.spillBase + w.1 == spill.toNat && !spillHeld x session.toNat w.1) = some w) :
    actReleaseBody fn hdr session spill s = .ok
      { st := modSession p session.toNat (fun e => { e with spills := e.spills.filter (· != w) }) s, result := w64 w.2 } := by
  unfold actReleaseBody
  rw [onSession_acts ha he, have'_eq hw]

/-- A decode that a command issued completes with its total. -/
theorem actComplete_decode {k : Nat} {a : ActCall} (hc : ((getPart s p).bind fun x => tget? x.calls k) = some a)
    (he : getSession s p a.session = some e) (hl : actLive s a = true) (hd : actDone s a e.pairs.length = true) (hdec : awDecode a.word = true)
    (hs : a.step = none) : actComplete p k s = finish a.handle 0 (w64 a.total) (dropAct p k s) := by
  simp [actComplete, hc, he, hl, hd, hdec, hs, noteAct]

end Calls

/-! ## The units of a pair -/

section Units
variable {p n i : Nat} {rest : List Nat} {e : Session} {s : State}

theorem unitBoundary_idle (h : (pairOf s i).running = none) : unitBoundary i s = takeNext i (purgeCalls s) := by
  simp [unitBoundary, h]

theorem unitBoundary_decoded {u : W64 × List Byte × Bool} (h : (pairOf s i).running = some (p, n)) (he : getSession s p n = some e)
    (hk : e.kind < 2) (hu : e.parsed = some u) :
    unitBoundary i s = takeNext i (purgeCalls (finishDecode i p n e u.1 u.2.1 u.2.2 s)) := by
  have h3 : e.kind ≠ 3 := by omega
  have h2 : e.kind ≠ 2 := by omega
  simp [unitBoundary, h, he, h3, h2, hu]

/-- A record that stands whole at the front is bad, or is padding, or is decoded. -/
theorem unitRecord_ready {h : BitVec 256} (he : getSession s p n = some e) (hp : e.pairs = i :: rest) (hh : recordHead s e = some h)
    (hk : e.kind < 2) (hr : (pairOf s i).running = some (p, n)) (hu : e.parsed = none) (hready : recordReady s e = true) :
    (recordBad e h = true → unitRecord p n s = inputFormat i p n e s) ∧
    (recordBad e h = false → recType h = 2 → unitRecord p n s = skipPadding p n (recLength h) s) := by
  have hcond : (decide (2 ≤ e.kind) || (pairOf s i).running != some (p, n) || e.parsed.isSome || !recordReady s e) = false := by
    rw [decide_eq_false (Nat.not_le.mpr hk), hr, hu, hready]
    simp
  unfold unitRecord
  rw [he]
  dsimp only
  rw [hp, hh]
  dsimp only
  rw [hcond, if_neg Bool.false_ne_true]
  exact ⟨fun hbad => if_pos hbad, fun hgood hpad => by rw [hgood, if_neg Bool.false_ne_true, if_pos hpad]⟩

theorem starveLimit_reached (he : getSession s p n = some e) (hp : e.pairs = i :: rest) (hs : e.starving = true)
    (hr : (pairOf s i).running = some (p, n)) (hl : e.starve ≤ e.starveTicks) :
    starveLimit p n s = takeNext i (abandonUnit i p n s) := by
  simp [starveLimit, he, hp, hs, hr, hl]

/-- The picture due next of an encode session posts its entry. -/
theorem pictureOutput_encode {c : Picture} {due : List Picture} (he : getSession s p n = some e) (hd : e.due = c :: due)
    (hp : e.pairs = i :: rest) (hroom : e.posted.length < e.outEntries) (hk : e.kind = 2) :
    pictureOutput p n c.pool s = modSession p n (fun e' => { e' with
        due := due, outIndex := (e.outIndex + 1) % max 1 e.outEntries
        outPhase := if (e.outIndex + 1) % max 1 e.outEntries = 0 then !e'.outPhase else e'.outPhase
        outSeq := (e'.outSeq + 1) % 65536, posted := e'.posted ++ [64] })
      (s.write .unified (e.outBase + 32 * e.outIndex) (outputEntry e c c.addr)) := by
  simp [pictureOutput, he, hd, hp, hk, Nat.not_le.mpr hroom]

end Units

/-- Settles O49: activation commands by their checks, and what a pair does at the end of a unit, with a record, a starved unit and a
picture that is due. -/
theorem activationCallsAndUnits : Obligations.ActivationCallsAndUnits := by
  refine ⟨?encode, ?decode, ?release, ?complete, ?idle, ?decoded, ?record, ?starved, ?output⟩
  case encode =>
    exact fun fn hdr call src dst ref bound p x e r s hh ha he hk hp hdec hsrc hdst href hbound hword hb hro hro' hr hroom =>
      heard_accepted hh (by decide) (actBody_encode ha he hk hp hdec hsrc hdst href hbound hword hb hro hro' hr) hroom
  case decode =>
    exact fun fn hdr call src dst ref bound p x e s hh ha he _ hk hp hdec hsrc hdst href hbound hword hro hro' hroom =>
      heard_accepted hh (by decide) (actBody_decode ha he hk hp hdec hsrc hdst href hbound hword hro hro') hroom
  case release => exact fun fn hdr session spill p x e w s hh ha he hw => heard_answered hh (by decide) (actReleaseBody_window ha he hw)
  case complete =>
    exact fun part call a e s hr hc he hl hd hdec hs => (whenLive_running hr).trans (congrArg _ (actComplete_decode hc he hl hd hdec hs))
  case idle => exact fun pair s hr h => (whenLive_running hr).trans (congrArg _ (unitBoundary_idle h))
  case decoded =>
    exact fun pair p n e u s hr h he hk hu => (whenLive_running hr).trans (congrArg _ (unitBoundary_decoded h he hk hu))
  case record =>
    intro part n i rest e h s hr he hp hh hk hrun hu hready
    obtain ⟨hbad, hpad⟩ := unitRecord_ready he hp hh hk hrun hu hready
    exact ⟨fun hb => (whenLive_running hr).trans (congrArg _ (hbad hb)), fun hg h2 => (whenLive_running hr).trans (congrArg _ (hpad hg h2))⟩
  case starved =>
    exact fun part n i rest e s hr he hp hs hrun hl => (whenLive_running hr).trans (congrArg _ (starveLimit_reached he hp hs hrun hl))
  case output =>
    intro part n entry i prs c rest e s hr he hd hp hentry hroom hk
    subst hentry
    exact (whenLive_running hr).trans (congrArg _ (pictureOutput_encode he hd hp hroom hk))

end Sys2Proof.Architecture

/-!
PROOFS. KV spaces and sequences, attaching, appending and the entries of shared blocks (R315 to R334).
-/
namespace Sys2Proof.Architecture
open Sys2Proof Sys2Proof.Machine Sys2Proof.Safety

/-! ## Spaces and sequences -/

theorem needRegions_ok {α : Type} {s : State} {p bytes : Nat} {x : Partition} {k : Except Nat α} :
    ∀ {l : List KvRegionOps}, (∀ r ∈ l, UnifiedOk s p x r.desc ∧ regionOk s bytes r = true ∧ readOnlyDesc s r.desc = false) →
      needRegions s p x bytes l k = k
  | [], _ => rfl
  | r :: l, h => by
    obtain ⟨hdesc, hregion, hro⟩ := h r List.mem_cons_self
    rw [needRegions, needUnified_ok hdesc, need_of hregion, need_of (by rw [hro]; rfl)]
    exact needRegions_ok fun r' hr => h r' (List.mem_cons_of_mem _ hr)

theorem spaceBody_ok {fn : Fn} {hdr : Hdr} {o : KvSpaceOps} {p n : Nat} {x : Partition} {s : State} (ha : Acts s fn hdr p x)
    (hform : spaceFormOk o = true) (hctl : UnifiedOk s p x o.control) (hok : controlOk s o = true) (hro : readOnlyDesc s o.control = false)
    (hregions : ∀ r ∈ o.regions, UnifiedOk s p x r.desc ∧ regionOk s (kvPageBytes (spaceOf o)) r = true ∧ readOnlyDesc s r.desc = false)
    (hn : tfree x.spaces 16 = some n) :
    spaceBody fn hdr o s = long fn hdr (some p) 5 .kv
      (modPart p (fun x => { x with spaces := tset x.spaces n (spaceOf o) }) (s.clear .unified (spaceOf o).control (controlBytes (spaceOf o))))
      (w64 n) (fun h s => finish h 0 0 s) := by
  unfold spaceBody
  dsimp only
  rw [withPart_acts ha, need_of hform, needUnified_ok hctl, need_of hok, need_of (by rw [hro]; rfl), needRegions_ok hregions, have'_eq hn]

/-- Clearing memory leaves the room behind the ring. -/
theorem room_cleared {fn : Fn} {p : Nat} {f : Partition → Partition} {sp : Space} {a n : Nat} {s : State} (hroom : Room s fn) :
    Room (modPart p f (s.clear sp a n)) fn :=
  room_of_host (t := modPart p f (s.clear sp a n)) (clear_host s sp a n) hroom

section Sequences
variable {fn : Fn} {hdr : Hdr} {p i : Nat} {x : Partition} {k : KvSpace} {q : KvSeq} {space seq length : W64} {s : State}

theorem spaceDestroyBody_empty (ha : ActsOn s fn hdr p x space k) (hs : k.seqs = []) (hp : pagesHeld k = false) :
    spaceDestroyBody fn hdr space s = .ok { st := dropSpace p space.toNat s } := by
  unfold spaceDestroyBody
  rw [withSpace_acts ha, need_of (by rw [hs, hp]; rfl)]

theorem spaceDestroyBody_held (ha : ActsOn s fn hdr p x space k) (h : k.seqs ≠ [] ∨ pagesHeld k = true) :
    spaceDestroyBody fn hdr space s = .error 0x0205 := by
  unfold spaceDestroyBody
  rw [withSpace_acts ha, need_not]
  rcases h with h | h
  · simp [h]
  · simp [h]

theorem seqOpenBody_free (ha : ActsOn s fn hdr p x space k) (hi : tfree k.seqs k.maxSeq = some i) :
    seqOpenBody fn hdr space s = .ok { st := putSeq p space.toNat i { runHash := runStart k.salt, tailHash := k.salt } s, result := w64 i } := by
  unfold seqOpenBody
  rw [withSpace_acts ha, have'_eq (show freeSeq k = some i from hi)]

/-- A sequence cut to a length: its pages, its tags and their hashes (R324, R325). -/
def cutSeq (k : KvSpace) (q : KvSeq) (length : Nat) : KvSeq :=
  { q with table := q.table.take (blocksOf length), length := length, tags := q.tags.take length
           runHash := (hashAfter k.salt (q.tags.take length)).1, tailHash := (hashAfter k.salt (q.tags.take length)).2 }

theorem forkBody_ok {parent : W64} (ha : ActsOn s fn hdr p x space k) (hq : tget? k.seqs parent.toNat = some q)
    (hl : length.toNat ≤ q.length) (hi : tfree k.seqs k.maxSeq = some i)
    (hrefs : ∀ id ∈ q.table.take (blocksOf length.toNat), (kvPage k id).refs < 65535) :
    forkBody fn hdr space parent length s = .ok
      { st := putSeq p space.toNat i
          { runHash := (hashAfter k.salt (q.tags.take length.toNat)).1, tailHash := (hashAfter k.salt (q.tags.take length.toNat)).2
            table := q.table.take (blocksOf length.toNat), length := length.toNat, parent := parent.toNat, tags := q.tags.take length.toNat }
          (addRefs p space.toNat (q.table.take (blocksOf length.toNat)) s)
        result := w64 i } := by
  unfold forkBody
  rw [withSpace_acts ha, have'_eq hq, need_of (decide_eq_true hl), have'_eq (show freeSeq k = some i from hi)]
  dsimp only
  rw [need_of (List.all_eq_true.mpr fun id h => decide_eq_true (hrefs id h))]

theorem truncateBody_ok (ha : ActsOn s fn hdr p x space k) (hq : tget? k.seqs seq.toNat = some q) (ho : q.state = 1)
    (hl : length.toNat ≤ q.length) :
    truncateBody fn hdr space seq length s = .ok
      { st := dropRefs p space.toNat (q.table.drop (blocksOf length.toNat))
          (putSeq p space.toNat seq.toNat (cutSeq k q length.toNat) s)
        result := w64 (q.table.drop (blocksOf length.toNat)).length } := by
  unfold truncateBody
  rw [withSpace_acts ha, needSeq_ok hq ho, need_of (decide_eq_true hl)]
  rfl

theorem closeBody_ok (ha : ActsOn s fn hdr p x space k) (hq : tget? k.seqs seq.toNat = some q) (ho : q.state = 1) :
    closeBody fn hdr space seq s = .ok
      { st := dropRefs p space.toNat q.table
          (showControl p space.toNat [seq.toNat] [] (modSpace p space.toNat (fun k => { k with seqs := tdel k.seqs seq.toNat }) s)) } := by
  unfold closeBody
  rw [withSpace_acts ha, needSeq_ok hq ho]

theorem seqQueryBody_known (ha : ActsOn s fn hdr p x space k) (hq : tget? k.seqs seq.toNat = some q) :
    seqQueryBody fn hdr space seq s = .ok { st := s, data := wordsData [q.length, q.table.length,
      (q.table.filter fun id => idTier id == 1).length, (q.table.filter fun id => idTier id == 2).length,
      (q.table.filter fun id => idTier id == 3).length, (q.table.filter fun id => (kvPage k id).state == 3).length] } := by
  unfold seqQueryBody
  rw [withSpace_acts ha, have'_eq hq]

/-- A sequence that does not exist refuses what acts on it. -/
theorem needSeq_none {α : Type} {n : Nat} {c : KvSeq → Except Nat α} (hq : tget? k.seqs n = none) : needSeq k n c = .error 0x0201 := by
  rw [needSeq, hq, have'_none]

/-- A sequence that a step holds refuses what acts on it. -/
theorem needSeq_held {α : Type} {n : Nat} {c : KvSeq → Except Nat α} (hq : tget? k.seqs n = some q) (ho : q.state ≠ 1) :
    needSeq k n c = .error 0x0205 := by
  rw [needSeq, have'_eq hq, need_not (beq_eq_false_iff_ne.mpr ho)]

theorem seqBodies_refused {c : Nat} (ha : ActsOn s fn hdr p x space k)
    (hr : ∀ f : KvSeq → Except Nat Ans, needSeq k seq.toNat f = .error c) :
    closeBody fn hdr space seq s = .error c ∧ truncateBody fn hdr space seq length s = .error c := by
  unfold closeBody truncateBody
  rw [withSpace_acts ha, withSpace_acts ha]
  exact ⟨hr _, hr _⟩

end Sequences

/-- Settles O50: spaces and sequences by what they hold. -/
theorem kvSpacesAndSequences : Obligations.KvSpacesAndSequences := by
  refine ⟨?create, ?empty, ?held, ?opened, ?fork, ?truncate, ?close, ?query, ?refused⟩
  case create =>
    intro fn hdr o p n x s hh ha hroom hform hctl hok hro hregions hn
    exact heard_accepted hh (by decide) (spaceBody_ok ha hform hctl hok hro hregions hn) (room_cleared hroom)
  case empty => exact fun fn hdr space p x k s hh ha hs hp => heard_answered hh (by decide) (spaceDestroyBody_empty ha hs hp)
  case held => exact fun fn hdr space p x k s hh ha h => heard_refused hh (by decide) (spaceDestroyBody_held ha h)
  case opened => exact fun fn hdr space p i x k s hh ha hi => heard_answered hh (by decide) (seqOpenBody_free ha hi)
  case fork =>
    exact fun fn hdr space parent length p i x k q s hh ha hq hl hi hrefs => heard_answered hh (by decide) (forkBody_ok ha hq hl hi hrefs)
  case truncate =>
    exact fun fn hdr space seq length p x k q s hh ha hq ho hl => heard_answered hh (by decide) (truncateBody_ok ha hq ho hl)
  case close => exact fun fn hdr space seq p x k q s hh ha hq ho => heard_answered hh (by decide) (closeBody_ok ha hq ho)
  case query => exact fun fn hdr space seq p x k q s hh ha hq => heard_answered hh (by decide) (seqQueryBody_known ha hq)
  case refused =>
    intro fn hdr space seq length p x k s hh ha
    refine ⟨fun hq => ?_, fun q hq ho => ?_⟩
    · obtain ⟨hclose, htrunc⟩ := seqBodies_refused (length := length) ha fun f => needSeq_none hq
      exact ⟨heard_refused hh (by decide) hclose, heard_refused hh (by decide) htrunc⟩
    · obtain ⟨hclose, htrunc⟩ := seqBodies_refused (length := length) ha fun f => needSeq_held hq ho
      exact ⟨heard_refused hh (by decide) hclose, heard_refused hh (by decide) htrunc⟩

/-! ## Attaching, appending and the entries of shared blocks -/

section Attach
variable {fn : Fn} {hdr : Hdr} {p : Nat} {x : Partition} {k : KvSpace} {q : KvSeq} {space seq : W64} {s : State}

theorem attachBody_empty {tags : DescWord} {blocks : W64} (ha : ActsOn s fn hdr p x space k) (hq : tget? k.seqs seq.toNat = some q)
    (ho : q.state = 1) (hl : q.length = 0) (hb : blocks.toNat ≤ k.maxPages) (ht : DescOk s p x tags) (hf : dFmt tags = 0x0E)
    (hc : 512 * blocks.toNat ≤ dCount tags) :
    attachBody fn hdr space seq tags blocks s =
      long fn hdr (some p) 5 .kv s 0 (attachPages p space.toNat seq.toNat k q tags blocks.toNat) := by
  unfold attachBody
  rw [withSpace_acts ha, needSeq_ok hq ho, need_of (beq_iff_eq.mpr hl), need_of (decide_eq_true hb), needDesc_ok ht,
    need_of (by rw [beq_iff_eq.mpr hf, decide_eq_true hc]; rfl)]

theorem attachBody_filled {tags : DescWord} {blocks : W64} (ha : ActsOn s fn hdr p x space k) (hq : tget? k.seqs seq.toNat = some q)
    (ho : q.state = 1) (hl : q.length ≠ 0) : attachBody fn hdr space seq tags blocks s = .error 0x0205 := by
  unfold attachBody
  rw [withSpace_acts ha, needSeq_ok hq ho, need_not (beq_eq_false_iff_ne.mpr hl)]

theorem matchBlock_some {sp : Nat} {h : W64} {up : Option Nat} {e : Nat × PrefixEntry} (hm : matchBlock s p sp h up = some e) :
    e.2.committed = true ∧ e.2.hash = h ∧ e.2.part = p ∧ e.2.space = sp := by
  have hall := List.find?_some hm
  simp only [Bool.and_eq_true, beq_iff_eq] at hall
  obtain ⟨⟨⟨⟨hcommitted, hhash⟩, hpart⟩, hspace⟩, _⟩ := hall
  exact ⟨hcommitted, hhash, hpart, hspace⟩

/-- Every block that the walk matches is the committed entry of its hash. -/
theorem attachWalk_entries {sp : Nat} {salt : W64} {tags : List W64} {e : Nat × PrefixEntry} :
    ∀ {n b j : Nat} {up : Option Nat}, (attachWalk s p sp salt tags n b up)[j]? = some e →
      e.2.committed = true ∧ e.2.hash = blockHash salt tags (b + j) ∧ e.2.part = p ∧ e.2.space = sp
  | 0, _, _, _, h => by simp [attachWalk] at h
  | n + 1, b, j, up, h => by
    rw [attachWalk] at h
    cases hm : matchBlock s p sp (blockHash salt tags b) up with
    | none => simp [hm] at h
    | some m =>
      rw [hm] at h
      cases j with
      | zero =>
        cases h
        exact matchBlock_some hm
      | succ j =>
        rw [← Nat.succ_add_eq_add_succ b j]
        exact attachWalk_entries h

section Append
variable {n permit : W64} {kd vd tags : DescWord}

theorem kvAppendBody_checked (ha : ActsOn s fn hdr p x space k) (hq : tget? k.seqs seq.toNat = some q) (ho : q.state = 1) (hn : 0 < n.toNat)
    (hp : permit.toNat < 8) (hb : blocksOf (q.length + n.toNat) ≤ k.maxPages) (hk : DescOk s p x kd) (hv : DescOk s p x vd)
    (ht : DescOk s p x tags) (hrows : rowsOk k kd vd tags n.toNat = true) :
    kvAppendBody fn hdr space seq n kd vd tags permit s =
      have' (reserveSeq p space.toNat seq.toNat n.toNat (permit.setWidth 3) s) 0x0203 fun r =>
        long fn hdr (some p) 5 .kv r.2 0 (appendTokens p space.toNat k q kd vd tags n.toNat r.1) := by
  unfold kvAppendBody
  rw [withSpace_acts ha, needSeq_ok hq ho, need_of (by rw [decide_eq_true hn, decide_eq_true hp, decide_eq_true hb]; rfl), needDesc_ok hk,
    needDesc_ok hv, needDesc_ok ht, need_of hrows]

end Append

/-- What follows the reply of PREFIX_READ (R330). -/
def prefixCopied (p sp first : Nat) (dst : DescWord) (h : Nat) (s : State) : State :=
  match accessTrouble s (descPages dst) with
  | some t => finish h t.1 (w64 t.2) s
  | none =>
    let r := writeRecords dst 16 ((List.range (min (2 ^ 20 - first) (dCapacity dst / 16))).map fun i => leBytes 16 (seenPrefix s p sp (first + i))) s
    finish h 0 (w64 r.1) r.2

theorem prefixReadBody_ok {dst : DescWord} {first : W64} (ha : ActsOn s fn hdr p x space k) (hf : first.toNat < 2 ^ 20)
    (hd : RecordsOk s p x dst 16) :
    prefixReadBody fn hdr space dst first s = long fn hdr (some p) 5 .kv s 0 (prefixCopied p space.toNat first.toNat dst) := by
  unfold prefixReadBody
  rw [withSpace_acts ha, need_of (decide_eq_true hf), needRecords_ok hd]
  rfl

theorem flushBody_ok (ha : ActsOn s fn hdr p x space k) :
    flushBody fn hdr space s = .ok { st := (flushSpace p space.toNat s.prefixes.length s).2
                                     result := w64 (flushSpace p space.toNat s.prefixes.length s).1 } := by
  unfold flushBody
  rw [withSpace_acts ha]

end Attach

/-- Settles O51: an attach by the sequence's length and the blocks it matches, an append by its reservation, and the entries of shared blocks
by their reads and flushes. -/
theorem kvAttachAppendPrefix : Obligations.KvAttachAppendPrefix := by
  refine ⟨?attach, ?filled, fun s p sp salt tags n b up j e h => attachWalk_entries h, ?append, ?noRoom, ?read, ?flush⟩
  case attach =>
    exact fun fn hdr space seq tags blocks p x k q s hh ha hroom hq ho hl hb ht hf hc =>
      heard_accepted hh (by decide) (attachBody_empty ha hq ho hl hb ht hf hc) hroom
  case filled => exact fun fn hdr space seq tags blocks p x k q s hh ha hq ho hl => heard_refused hh (by decide) (attachBody_filled ha hq ho hl)
  case append =>
    exact fun fn hdr space seq n kd vd tags permit p x k q r s hh ha hq ho hn hp hb hk hv ht hrows hr hroom =>
      heard_accepted hh (by decide) ((kvAppendBody_checked ha hq ho hn hp hb hk hv ht hrows).trans (have'_eq hr)) hroom
  case noRoom =>
    exact fun fn hdr space seq n kd vd tags permit p x k q s hh ha hq ho hn hp hb hk hv ht hrows hr =>
      heard_refused hh (by decide) ((kvAppendBody_checked ha hq ho hn hp hb hk hv ht hrows).trans (by rw [hr, have'_none]))
  case read =>
    exact fun fn hdr space dst first p x k s hh ha hroom hf hd => heard_accepted hh (by decide) (prefixReadBody_ok ha hf hd) hroom
  case flush => exact fun fn hdr space p x k s hh ha => heard_answered hh (by decide) (flushBody_ok ha)

end Sys2Proof.Architecture

/-!
PROOFS. Semaphores, locks, branching fences, merges and amax fences of the sequencer (R184, R187, R247 to R252, R525 to R528).
-/
namespace Sys2Proof.Architecture
open Sys2Proof Sys2Proof.Machine Sys2Proof.Safety

/-! ## Semaphores -/

section Semaphores
variable {p m c l : Nat} {x : Partition} {s : State}

theorem semOf_setSem_same {v : Sem} (hx : getPart s p = some x) : semOf (setSem p m v s) p m = v := by
  rw [semOf, setSem, getPart_modPart_same, hx]
  exact tget_tset_same

/-- A signal that nobody waits for adds one. -/
theorem signalSem_unawaited (hx : getPart s p = some x) (hw : (semOf s p m).waiters = []) (hv : (semOf s p m).value < 65535) :
    signalSem p m s = setSem p m { value := (semOf s p m).value + 1 } s := by
  unfold signalSem
  dsimp only
  rw [if_neg (Nat.ne_of_lt hv), hw, List.length_nil, serveSem, semOf_setSem_same hx]

theorem signalSem_saturated (hv : (semOf s p m).value = 65535) : signalSem p m s = devEvent 0x2024 p 1 s := if_pos hv

theorem waitSem_takes (hw : (semOf s p m).waiters = []) (hv : 0 < (semOf s p m).value) :
    waitSem p m c l s = passEntry c l (setSem p m { value := (semOf s p m).value - 1 } s) := by
  simp [waitSem, hw, hv]

theorem waitSem_waits (hw : (semOf s p m).waiters = []) (hv : (semOf s p m).value = 0) :
    waitSem p m c l s = modLane c l (fun a => { a with waitOn := some (.sem m) }) (setSem p m { value := 0, waiters := [(c, l)] } s) := by
  simp [waitSem, hw, hv]

end Semaphores

/-! ## Locks -/

section Locks
variable {p m b h c l : Nat} {x : Partition} {s : State}

theorem acquireLock_free (hx : getPart s p = some x) (hf : (lockOf x m).holder = none) :
    acquireLock p m b h c l s = passEntry c l (modPart p (fun x => { x with locks := tset x.locks m { holder := some h, bound := b } }) s) := by
  simp [acquireLock, hx, hf]

/-- A lane that waits for a lock, behind those that wait already. -/
def lockAwaited (p m h c l : Nat) (x : Partition) (s : State) : State :=
  modLane c l (fun a => { a with waitOn := some (.lock m) })
    (modPart p (fun y => { y with locks := tset y.locks m { lockOf x m with waiters := (lockOf x m).waiters ++ [(h, c, l)] } }) s)

theorem acquireLock_held {k : Nat} (hx : getPart s p = some x) (hk : (lockOf x m).holder = some k) (hw : (h, c, l) ∉ (lockOf x m).waiters) :
    acquireLock p m b h c l s =
      lockCycle p h (lendClass p h (stepClass (lockAwaited p m h c l x s) h) 64 m (lockAwaited p m h c l x s)) := by
  have hnew : ¬ (lockOf x m).waiters.contains (h, c, l) = true := by simpa using hw
  unfold acquireLock
  rw [hx]
  dsimp only
  split
  case h_1 hnone => cases hk.symm.trans hnone
  case h_2 => exact if_neg hnew

theorem releaseLock_own {st : Step} (hx : getPart s p = some x) (hst : getStep s h = some st) (hk : (lockOf x m).holder = some h) :
    releaseLock p m h s = freeLock p m (modJob p st.job (fun j => { j with lent := none }) s) := by
  simp [releaseLock, hx, hst, hk]

theorem releaseLock_other {st : Step} (hx : getPart s p = some x) (hst : getStep s h = some st) (hk : (lockOf x m).holder ≠ some h) :
    releaseLock p m h s = s := by
  simp [releaseLock, hx, hst, hk]

/-- A loan that outlasts its bound ends (R527). -/
theorem csOver_lent {st : Step} (hx : getPart s p = some x) (hk : (lockOf x m).holder = some h) (hl : (lockOf x m).loan = true)
    (hst : getStep s h = some st) (hw : (lockOf x m).waiters = []) :
    csOver p m s = recEvent 0x2027 p (some p) 31 0xFFFF h [(8, st.job), (8, 0)]
      (stopStep .schedule h (modJob p st.job (fun j => { j with lent := none, holdsQuads := false })
        (modPart p (fun y => { y with locks := tset y.locks m { lockOf x m with loan := false } }) s))) := by
  simp [csOver, hx, hk, hl, hst, hw]

end Locks

/-! ## Merges and amax fences -/

/-- The participants of a merge, in ascending slot. -/
def mergeSlots (d : MergeDecl) : List Nat := (List.range 192).filter d.slots.contains

/-- The summary that a participant has handed in. -/
def mergeGot (st : Step) (m i : Nat) : Option (Nat × Nat × Nat × W64) := st.merges.find? fun e => e.1 == m && e.2.1 == i

theorem mergeStep_all {h m : Nat} {st : Step} {pat : PatternImage} {d : MergeDecl} {ins : List (Nat × Nat × Nat × W64)} {s : State}
    (hst : getStep s h = some st) (hpat : stepPattern s h = some pat) (hd : (pat.merges.find? fun d => d.num == m) = some d)
    (hr : st.state = .running) (hf : st.frogging = false) (hn : mergeSlots d ≠ [])
    (hall : ∀ i ∈ mergeSlots d, (mergeGot st m i).isSome = true) (hins : ins = (mergeSlots d).filterMap (mergeGot st m)) :
    mergeStep h m s = modStep h (fun st => { st with merges := st.merges.filter fun e => !ins.contains e })
      (coreEvent ((stepCores s h).getD ((mergeSlots d).headD 0) 0) 0x200E
        (b2n (d.kind == .csum && !fFinite ((mergeValues d.kind (ins.map (·.2.2.2))).setWidth 32) && ins.all fun e => fFinite (e.2.2.2.setWidth 32)))
        (ins.foldl (fun s' e => putSummary h ((stepCores s h).getD e.2.1 0) e.2.2.1 (mergeValues d.kind (ins.map (·.2.2.2))) s') s)) := by
  have hready : (st.state != .running || st.frogging || (mergeSlots d).isEmpty || !((mergeSlots d).all fun i => (mergeGot st m i).isSome)) = false := by
    rw [hr, hf, List.all_eq_true.mpr hall]
    simpa using hn
  subst hins
  unfold mergeStep
  rw [hst, hpat]
  dsimp only
  rw [hd]
  exact if_neg (Bool.eq_false_iff.mp hready)

section Amax
variable {h m : Nat} {pat : PatternImage} {s : State}

theorem amaxStep_unmerged (hn : amaxStanding s h none = []) (hpat : stepPattern s h = some pat)
    (hd : (pat.merges.find? fun d => d.num == m) = none) : amaxStep h m s = s := by
  unfold amaxStep
  rw [hn]
  change (match stepPattern s h with | none => s | some pat => _) = s
  rw [hpat]
  dsimp only
  rw [hd]
  rfl

/-- A merge at which every participant stands gives the destination its tensor scale, if it has one, and is passed. -/
theorem amaxStep_merged {c l b : Nat} {ls : List (Nat × Nat × Nat)} {d : MergeDecl} {t : Tensor} (hn : amaxStanding s h none = [])
    (hpat : stepPattern s h = some pat) (hd : (pat.merges.find? fun d => d.num == m) = some d) (hslots : d.slots ≠ [])
    (hls : amaxStanding s h (some m) = (c, l, b) :: ls)
    (hall : ∀ i ∈ d.slots, ∃ q ∈ (c, l, b) :: ls, q.1 = (stepCores s h).getD i 208) (ht : stepTensor s h b = some t) :
    amaxStep h m s = passAmax ((c, l, b) :: ls) (if dFmt t.d = 0x0A && mayWrite s h t.d then
      s.write t.scaleSpace (dScaleAddr t.d)
        (leBytes 4 (f4sTensorScale (maxMag (((c, l, b) :: ls).map fun q => f32 (coreOf s q.1).amax))).toNat ++ List.replicate 28 0) else s) := by
  have hready : (d.slots.isEmpty || !(d.slots.all fun i => ((c, l, b) :: ls).any fun q => q.1 == (stepCores s h).getD i 208)) = false := by
    have hany : (d.slots.all fun i => ((c, l, b) :: ls).any fun q => q.1 == (stepCores s h).getD i 208) = true :=
      List.all_eq_true.mpr fun i hi => by
        obtain ⟨q, hq, he⟩ := hall i hi
        exact List.any_eq_true.mpr ⟨q, hq, beq_iff_eq.mpr he⟩
    rw [hany]
    simpa using hslots
  unfold amaxStep
  rw [hn]
  change (match stepPattern s h with | none => s | some pat => _) = _
  rw [hpat]
  dsimp only
  rw [hd]
  dsimp only
  rw [show passAmax [] s = s from rfl, hls, if_neg (Bool.eq_false_iff.mp hready)]
  change passAmax _ (match stepTensor s h b with | some t => _ | none => s) = _
  rw [ht]

end Amax

/-- Settles O52: semaphores and locks by their values and holders, fences by their conditions, merges by their participants. -/
theorem semaphoresLocksAndFences : Obligations.SemaphoresLocksAndFences := by
  refine ⟨?signal, ?signalSem, ?wait, ?acquireFree, ?acquireHeld, ?release, ?overrun, ?fence, ?merge, ?amaxUnmerged, ?amax⟩
  case signal =>
    intro core lane h n m e s hr hs he
    refine (whenLive_running hr).trans (congrArg _ ((laneEvent_standing hs).trans ?_))
    rw [he]
  case signalSem =>
    intro p m x s hx hw
    refine ⟨fun hv => ?_, fun hv => signalSem_saturated hv⟩
    rw [signalSem_unawaited hx hw hv, semOf_setSem_same hx]
  case wait =>
    intro core lane h n m e s hr hs he hw
    have hrun : exec (.wait core lane) s = .next (waitSem (handlePart h) m core.val lane.val s) := by
      refine (whenLive_running hr).trans (congrArg _ ((laneEvent_standing hs).trans ?_))
      rw [he]
    exact ⟨fun hv => hrun.trans (congrArg _ (waitSem_takes hw hv)), fun hv => hrun.trans (congrArg _ (waitSem_waits hw hv))⟩
  case acquireFree =>
    intro core lane h n m b e x s hr hs he hx hf
    refine (whenLive_running hr).trans (congrArg _ ((laneEvent_standing hs).trans ?_))
    rw [he]
    exact acquireLock_free hx hf
  case acquireHeld =>
    intro core lane h n m b k e x s hr hs he hx hk hw
    refine (whenLive_running hr).trans (congrArg _ ((laneEvent_standing hs).trans ?_))
    rw [he]
    exact acquireLock_held hx hk hw
  case release =>
    intro core lane h n m e x st s hr hs he hx hst
    have hrun : exec (.release core lane) s = .next (passEntry core.val lane.val (releaseLock (handlePart h) m h s)) := by
      refine (whenLive_running hr).trans (congrArg _ ((laneEvent_standing hs).trans ?_))
      rw [he]
    refine ⟨fun hk => ?_, fun hk => ?_⟩
    · rw [hrun, releaseLock_own hx hst hk]
    · rw [hrun, releaseLock_other hx hst hk]
  case overrun =>
    exact fun part n h x st s hr hx hk hl hst hw => (whenLive_running hr).trans (congrArg _ (csOver_lent hx hk hl hst hw))
  case fence =>
    intro core lane h n cond e s hr hs he
    have hrun : exec (.branchingFence core lane) s = .next (if fenceWaits s h core.val (condRegs cond) then s
        else if fenceHolds cond (sreg s core.val (condA cond)) (sreg s core.val (condB cond)) then jumpEntry core.val lane.val (fld cond 15 0) s
        else passEntry core.val lane.val s) := by
      refine (whenLive_running hr).trans (congrArg _ ((laneEvent_standing hs).trans ?_))
      rw [he]
    rw [hrun]
    exact ⟨fun hw => by rw [hw, if_pos rfl], fun hw hh => by rw [hw, hh, if_neg Bool.false_ne_true, if_pos rfl],
      fun hw hh => by rw [hw, hh, if_neg Bool.false_ne_true, if_neg Bool.false_ne_true]⟩
  case merge =>
    exact fun handle m st pat d ins s hr hst hpat hd hrun hf hn hall hins =>
      (whenLive_running hr).trans (congrArg _ (mergeStep_all hst hpat hd hrun hf hn hall hins))
  case amaxUnmerged => exact fun handle m pat s hr hn hpat hd => (whenLive_running hr).trans (congrArg _ (amaxStep_unmerged hn hpat hd))
  case amax =>
    intro handle m c l b ls pat d t s hr hn hpat hd hslots hls hall ht
    have hrun := (whenLive_running hr).trans (congrArg Host.Outcome.next (amaxStep_merged hn hpat hd hslots hls hall ht))
    refine ⟨fun hno => hrun.trans ?_, fun hf hw => hrun.trans ?_⟩
    · rw [if_neg]
      rcases hno with h | h
      · simp [h]
      · simp [h]
    · rw [if_pos (by simp [hf, hw])]

end Sys2Proof.Architecture

/-!
PROOFS. Commit points of stitches, the weight-ready fence, the sentinel, core-mover transfers, halos, the stem engine and appends
(R157, R166 to R178, R251, R275, R278 to R281, R322, R354, R360, R361).
-/
namespace Sys2Proof.Architecture
open Sys2Proof Sys2Proof.Machine Sys2Proof.Safety

/-! ## Commit points -/

section Commit
variable {c l h n : Nat} {e : Entry} {st : Step} {s : State}

/-- What a started stitch that nothing holds does at its commit point. -/
def commitStarted (h c l n : Nat) (e : Entry) (s : State) : State :=
  match e.op with
  | .array a => if (coreOf s c).fenced || (coreOf s c).weights != some n then s else endStitch c l n (commitArray h c l n e a s)
  | .vector is =>
    if accessWaits s (vectorPages s h is) then coreWaitFree c 0x1001 s else match accessTrouble s (vectorPages s h is) with
      | some t => stopOnPage h t s
      | none => endStitch c l n (commitVector h c l n e is (touchPages (vectorPages s h is) s))
  | .window w => endStitch c l n (commitWindow h c l w s)
  | .walk b => walkCommit h c l n b s
  | _ => s

theorem commitStitch_started (hs : (coreOf s c).step = some h) (he : laneEntry s c l = some (n, e)) (hsave : (coreOf s c).saving = false)
    (hrest : (coreOf s c).restoring = false) (hst : getStep s h = some st) (hr : st.state = .running) (hstart : (laneOf s c l).started = true)
    (hsent : sentinelHolds s h c e = false) (hpre : prefetchHolds s h c n e = false) (hop : isStitch e = true) :
    commitStitch c l s = commitStarted h c l n e s := by
  have hcond : ((coreOf s c).saving || (coreOf s c).restoring || !isStitch e || ((getStep s h).map (·.state)) != some .running) = false := by
    rw [hsave, hrest, hop, hst, Option.map_some, hr]
    rfl
  unfold commitStitch
  dsimp only
  rw [hs, he]
  dsimp only
  rw [hcond, if_neg Bool.false_ne_true, hstart, if_neg (by decide), hsent, if_neg Bool.false_ne_true, hpre, if_neg Bool.false_ne_true]
  rfl

end Commit

/-! ## The weight-ready fence and the sentinel -/

section Weights
variable {c l h n waited : Nat} {e : Entry} {a : ArrayStitch} {s : State}

theorem weightSwap_started (hs : (coreOf s c).step = some h) (he : laneEntry s c l = some (n, e)) (hop : e.op = .array a)
    (hstart : (laneOf s c l).started = true) :
    weightSwap c l waited s = startWeights h c n a (fenceStall c 0x2005 waited (prefetchesMet s h c n (weightSpans s h a)) s) := by
  simp [weightSwap, hs, he, hop, hstart]

/-- Loaded weights stand in the registers of their stitch. -/
theorem loadWeights_ready : (coreOf (loadWeights h c n a s) c).weights = some n ∧ (coreOf (loadWeights h c n a s) c).fenced = false := by
  unfold loadWeights
  split
  · rw [coreOf_modCore_same]
    exact ⟨rfl, rfl⟩
  · rw [coreOf_modCore_same]
    exact ⟨rfl, rfl⟩

end Weights

theorem modSentinel_core (c : Nat) (tensor : W32) (wfmt afmt : Nat) (f : SentinelRec → SentinelRec) (s : State) :
    (coreOf (modSentinel c tensor wfmt afmt f s) c).step = (coreOf s c).step ∧
    (coreOf (modSentinel c tensor wfmt afmt f s) c).lanes = (coreOf s c).lanes := by
  unfold modSentinel
  rw [coreOf_modCore_same]
  split
  · exact ⟨rfl, rfl⟩
  · exact ⟨rfl, rfl⟩

/-- The end of a sample releases it; the core's step and lanes, the memory and the partitions stay. -/
theorem endSample_effects {c : Nat} {m : Sample} {s : State} (hm : (coreOf s c).sample = some m) :
    (coreOf (endSample c s) c).sample = none ∧ (coreOf (endSample c s) c).step = (coreOf s c).step ∧
    (coreOf (endSample c s) c).lanes = (coreOf s c).lanes ∧ (endSample c s).mem = s.mem ∧ (endSample c s).parts = s.parts := by
  unfold endSample
  rw [hm]
  dsimp only
  rw [coreOf_modCore_same]
  exact ⟨rfl, (modSentinel_core ..).1, (modSentinel_core ..).2, rfl, rfl⟩

/-! ## Core-mover transfers -/

section Movers
variable {c n h a b : Nat} {cvt : BitVec 5} {sem : Option Nat} {pf : Option Prefetch} {e : Entry} {src dst : Tensor} {s : State}

/-- What a transfer that nothing holds does (R354). -/
def moverLanded (h c n : Nat) (e : Entry) (src dst : Tensor) (cvt : BitVec 5) (s : State) : State :=
  modCore c (fun x => { x with movers := x.movers.erase n })
    (mapWait (if mayWrite s h dst.d then moveTensor h c src dst cvt.toNat s else s) h c e
      (noteFate c e.fate src.d dst.d (touchPages (descPages src.d ++ descPages dst.d)
        (if mayWrite s h dst.d then moveTensor h c src dst cvt.toNat s else s))))

/-- The end of a transfer: its semaphore is signalled, and lanes that wait for room go on. -/
def moverSignals (h c : Nat) (sem : Option Nat) (s : State) : State :=
  wakeMoverLanes c (match sem with | some m => signalSem (handlePart h) m s | none => s)

theorem landMover_due (hs : (coreOf s c).step = some h) (he : (coreList s c)[n]? = some e) (hn : n ∈ (coreOf s c).movers)
    (hop : e.op = .mover a b cvt sem pf) (hsrc : stepTensor s h a = some src) (hdst : stepTensor s h b = some dst)
    (hw : accessWaits s (descPages src.d ++ descPages dst.d) = false) (hearly : earlierMover s h c n dst = false) :
    landMover c n s = match accessTrouble s (descPages src.d ++ descPages dst.d) with
      | some t => stopOnPage h t s
      | none => moverSignals h c sem (moverLanded h c n e src dst cvt s) := by
  have hin : (coreOf s c).movers.contains n = true := by simpa using hn
  unfold landMover
  dsimp only
  rw [hs, he]
  dsimp only
  rw [hin, if_neg (by decide), hop]
  dsimp only
  rw [hsrc, hdst]
  dsimp only
  rw [hearly, if_neg Bool.false_ne_true, hw, if_neg Bool.false_ne_true]
  rfl

theorem prefetchLate_idle {layer waited : Nat} (hs : (coreOf s c).step = none) : prefetchLate c layer waited s = s := by
  simp [prefetchLate, hs]

/-- A prefetch within its slack counts its wait and no more. -/
theorem prefetchLate_inTime {layer waited need slack : Nat} {rest : List Nat} (hs : (coreOf s c).step = some h)
    (hm : (coreOf s c).movers = n :: rest) (he : (coreList s c)[n]? = some e)
    (hop : e.op = .mover a b cvt sem (some { layer := layer, need := need, slack := slack })) (hw : waited ≤ slack) :
    prefetchLate c layer waited s =
      fenceStall c (fenceCounter s h c b) (waited - tget (coreOf s c).layerWaits layer 0) [(layer, e.fate)] s := by
  simp [prefetchLate, hs, hm, he, hop, hw]

end Movers

/-! ## Halos -/

section Halos
variable {h c l b layer ready : Nat} {t : Tensor} {s : State}

/-- The state in which a halo fence has taken its count. -/
def haloTaken (h ready : Nat) (s : State) : State :=
  setSem (handlePart h) ready { semOf s (handlePart h) ready with value := (semOf s (handlePart h) ready).value - 1 } s

/-- What a lane does that stands at a halo fence (R281). -/
def haloFenced (h c l b layer ready : Nat) (s : State) : State :=
  if (semOf s (handlePart h) ready).value = 0 then coreWaitFree c 0x200C s else
    match stepTensor s h b with
    | none => s
    | some t =>
      if s.readNat t.space (dAddr t.d) 2 = layer % 65536 then passEntry c l (haloTaken h ready s)
      else haloMismatch c h b (s.readNat t.space (dAddr t.d) 2) layer (haloTaken h ready s)

theorem haloFenced_ready (ht : stepTensor s h b = some t) (hv : (semOf s (handlePart h) ready).value ≠ 0) :
    haloFenced h c l b layer ready s = if s.readNat t.space (dAddr t.d) 2 = layer % 65536 then passEntry c l (haloTaken h ready s)
      else haloMismatch c h b (s.readNat t.space (dAddr t.d) 2) layer (haloTaken h ready s) := by
  rw [haloFenced, if_neg hv, ht]

end Halos

/-! ## The stem engine -/

/-- The stem engine takes the stitch at the head of its queue. -/
theorem stemNext_head {d c l h n : Nat} {rest : List (Nat × Nat)} {e : Entry} {a : ArrayStitch} {st : Step} {s : State}
    (hq : (cdOf s d).stem = (c, l) :: rest) (hf : (cdOf s d).stemFault = false) (hs : (coreOf s c).step = some h)
    (he : laneEntry s c l = some (n, e)) (hst : getStep s h = some st) (hr : st.state = .running) (hop : e.op = .stem a)
    (hsent : sentinelHolds s h c e = false) (hpre : prefetchHolds s h c n e = false) :
    stemNext d s = wakeStem d (atBoundary c (passEntry c l (closeWindow c n (freeHalos c n (mapWait s h c e
      (coreWaitFree c 0x200B (coreEvent c 0x2003 1 (commitStem h d c l n e a (modCd d (fun k => { k with stem := rest }) s))))))))) := by
  have hrun : (((getStep s h).map (·.state)) != some .running) = false := by rw [hst, Option.map_some, hr]; rfl
  unfold stemNext
  rw [hq]
  dsimp only
  rw [hf, if_neg Bool.false_ne_true, hs, he]
  dsimp only
  rw [hrun, if_neg Bool.false_ne_true, hop]
  dsimp only
  rw [hsent, if_neg Bool.false_ne_true, hpre, if_neg Bool.false_ne_true]

/-- Settles O53: stitches at their commit points, the fences and transfers that carry their data, and appends. -/
theorem stitchesTransfersAndAppends : Obligations.StitchesTransfersAndAppends := by
  refine ⟨?stitch, ?weights, ?sentinel, ?mover, ?deadlineIdle, ?deadline, ?haloPut, ?haloFence, ?stem, ?append⟩
  case stitch =>
    intro core lane h n e st s hr hs he hsave hrest hst hrun hstart hsent hpre
    have hcommit (hop : isStitch e = true) : exec (.stitchCommit core lane) s = .next (commitStarted h core.val lane.val n e s) :=
      (whenLive_running hr).trans (congrArg _ (commitStitch_started hs he hsave hrest hst hrun hstart hsent hpre hop))
    refine ⟨fun a hop hf hw => ?_, fun a hop hfw => ?_, fun w hop => ?_, fun b hop => ?_, fun is hop hw ht => ?_, fun is t hop hw ht => ?_⟩
    · rw [hcommit (by rw [isStitch, hop]), commitStarted, hop]
      dsimp only
      rw [hf, hw, if_neg (by simp)]
    · rw [hcommit (by rw [isStitch, hop]), commitStarted, hop]
      dsimp only
      rw [if_pos]
      rcases hfw with h | h
      · simp [h]
      · simp [h]
    · rw [hcommit (by rw [isStitch, hop]), commitStarted, hop]
    · rw [hcommit (by rw [isStitch, hop]), commitStarted, hop]
    · rw [hcommit (by rw [isStitch, hop]), commitStarted, hop]
      dsimp only
      rw [hw, if_neg Bool.false_ne_true, ht]
    · rw [hcommit (by rw [isStitch, hop]), commitStarted, hop]
      dsimp only
      rw [hw, if_neg Bool.false_ne_true, ht]
  case weights =>
    intro core lane waited h n e a s hr hs he hop hstart
    refine ⟨_, _, rfl, (whenLive_running hr).trans (congrArg _ (weightSwap_started hs he hop hstart)), fun hm => if_pos hm, fun hm => ?_⟩
    rw [startWeights, hm, if_neg Bool.false_ne_true]
    exact ⟨rfl, loadWeights_ready⟩
  case sentinel => exact fun core m s hr hm => ⟨_, whenLive_running hr, endSample_effects hm⟩
  case mover =>
    intro core n h a b cvt sem pf e src dst s hr hs he hn hop hsrc hdst hw hearly
    have hrun := (whenLive_running hr).trans (congrArg Host.Outcome.next (landMover_due hs he hn hop hsrc hdst hw hearly))
    refine ⟨fun t ht => hrun.trans (by rw [ht]), fun u t ht hu hland => ?_⟩
    subst hu hland
    rw [ht] at hrun
    exact ⟨fun hnone => hrun.trans (by rw [hnone]; rfl), fun m hm => hrun.trans (by rw [hm]; rfl)⟩
  case deadlineIdle => exact fun core layer waited s hr hs => (whenLive_running hr).trans (congrArg _ (prefetchLate_idle hs))
  case deadline =>
    exact fun core layer waited h n a b need slack rest cvt sem e s hr hs hm he hop hw =>
      (whenLive_running hr).trans (congrArg _ (prefetchLate_inTime hs hm he hop hw))
  case haloPut =>
    intro core lane h n a b layer ready e src dst s hr hs hop hsrc hdst hearly
    refine ⟨_, _, rfl, rfl, (whenLive_running hr).trans (congrArg _ ((laneEvent_standing hs).trans ?_))⟩
    rw [hop]
    dsimp only
    rw [hsrc, hdst]
    dsimp only
    rw [hearly, if_neg Bool.false_ne_true]
  case haloFence =>
    intro core lane h n b layer ready e t s hr hs hop ht hv
    have hrun : exec (.haloFence core lane) s = .next (haloFenced h core.val lane.val b layer ready s) := by
      refine (whenLive_running hr).trans (congrArg _ ((laneEvent_standing hs).trans ?_))
      rw [hop]
      rfl
    rw [hrun, haloFenced_ready ht hv]
    exact ⟨fun hfound => congrArg _ (if_pos hfound), fun hfound => congrArg _ (if_neg hfound)⟩
  case stem =>
    exact fun die c l h n rest e a st s hr hq hf hs he hst hrun hop hsent hpre =>
      ⟨_, _, rfl, rfl, (whenLive_running hr).trans (congrArg _ (stemNext_head hq hf hs he hst hrun hop hsent hpre))⟩
  case append =>
    intro core lane h n sb layer a b sp sq e st k v g kv q s hr hs hop hst hrep hbind hk hv hg hkv hq
    refine (whenLive_running hr).trans (congrArg _ ((laneEvent_standing hs).trans ?_))
    simp [hop, hst, hrep, hbind, hk, hv, hg, hkv, hq]

end Sys2Proof.Architecture

/-!
PROOFS. Completion entries (R81, R84 to R87, Table 10a of ch. 02): the entry written at TAIL, the entry that waits, and the one
entry of a handle.
-/
namespace Sys2Proof.Architecture
open Sys2Proof Sys2Proof.Machine Sys2Proof.Safety

/-- The fields of Table 10a lie beside each other. -/
theorem entryBytes_eq {c : Completion} {phase : Bool} (hh : c.handle < 2 ^ 64) (hst : c.status < 2 ^ 16) (he : c.epoch < 2 ^ 32) :
    entryBytes c phase = leBytes 32 (c.handle + 2 ^ 64 * c.status + 2 ^ 80 * b2n phase + 2 ^ 96 * c.epoch + 2 ^ 128 * c.cookie.toNat +
      2 ^ 192 * c.result.toNat) := by
  have hphase : b2n phase < 2 := by cases phase <;> decide
  have hcookie := c.cookie.isLt
  rw [entryBytes, or_shiftLeft_eq_add (i := 64) hh, or_shiftLeft_eq_add (i := 80) (by omega), or_shiftLeft_eq_add (i := 96) (by omega),
    or_shiftLeft_eq_add (i := 128) (by omega), or_shiftLeft_eq_add (i := 192) (by omega)]

theorem entryBytes_length {c : Completion} {phase : Bool} : (entryBytes c phase).length = 32 := leBytes_length ..

section HostWrites
variable {s : State} {a x n : Nat} {bs : List Byte}

theorem fnOf_write {f : Nat} {sp : Space} : fnOf (s.write sp a bs) f = fnOf s f := rfl

/-- A write to host memory changes no byte beside its own. -/
theorem memRead_write_host (hx : x < Space.host.base + a ∨ Space.host.base + a + bs.length ≤ x) :
    memRead (s.write .host a bs).mem x = memRead s.mem x := by
  refine State.memRead_write_other fun i hi => ?_
  rw [State.place_eq (sp := .host) nofun]
  omega

/-- Bytes of host memory beside a write read as before. -/
theorem read_write_host_apart (h : a + bs.length ≤ x ∨ x + n ≤ a) : (s.write .host a bs).read .host x n = s.read .host x n := by
  refine List.map_congr_left fun i hi => ?_
  rw [List.mem_range] at hi
  rw [State.byte, State.byte, State.place_eq (sp := .host) nofun, State.place_eq (sp := .host) nofun]
  exact memRead_write_host (by omega)

theorem read_setFn {f : Nat} {y : FnState} {sp : Space} : (setFn f y s).read sp x n = s.read sp x n := rfl

theorem read_of_mem {t : State} (h : t.mem = s.mem) : t.read .host x n = s.read .host x n := by
  simp only [State.read, State.byte, State.place_eq (sp := .host) nofun, h]

end HostWrites

section Vectors
variable {f v : Nat} {s : State}

/-- A vector leaves the memory, and of its function everything but the entries that it waits for. -/
theorem ringVector_frame : (ringVector f v s).mem = s.mem ∧ (ringVector f v s).steward = s.steward ∧
    (fnOf (ringVector f v s) f).tail = (fnOf s f).tail ∧ (fnOf (ringVector f v s) f).phase = (fnOf s f).phase ∧
    (fnOf (ringVector f v s) f).head = (fnOf s f).head ∧ (fnOf (ringVector f v s) f).overflow = (fnOf s f).overflow := by
  unfold ringVector
  dsimp only
  split
  · exact ⟨rfl, rfl, rfl, rfl, rfl, rfl⟩
  · split
    · refine ⟨rfl, rfl, ?_⟩
      change (fnOf (setFn f _ s) f).tail = _ ∧ (fnOf (setFn f _ s) f).phase = _ ∧ (fnOf (setFn f _ s) f).head = _ ∧
        (fnOf (setFn f _ s) f).overflow = _
      rw [fnOf_setFn_same]
      exact ⟨rfl, rfl, rfl, rfl⟩
    · rw [fnOf_setFn_same]
      exact ⟨rfl, rfl, rfl, rfl, rfl, rfl⟩

end Vectors

section Entries
variable {f : Nat} {c : Completion} {r : Ring} {s : State}

/-- The function once an entry stands in its ring (R85, R90). -/
def advanced (r : Ring) (c : Completion) (x : FnState) : FnState :=
  { x with
      tail := (x.tail + 1) % r.entries
      phase := if (x.tail + 1) % r.entries = 0 then !x.phase else x.phase
      slots := tmap x.slots fun _ sl => if sl.state = 2 && sl.handle = c.handle && c.handle ≠ 0 then {} else sl }

/-- The state with the entry written and TAIL advanced, before the write-back. -/
def entryPut (f : Nat) (r : Ring) (c : Completion) (s : State) : State :=
  setFn f (advanced r c (fnOf s f)) (s.write .host (r.base + 32 * (fnOf s f).tail) (entryBytes c (fnOf s f).phase))

/-- The state with the write-back written too (R85). -/
def entryShown (f : Nat) (r : Ring) (c : Completion) (s : State) : State :=
  if r.writeback = 0 then entryPut f r c s
  else (entryPut f r c s).write .host r.writeback (leBytes 8 (tailWord (advanced r c (fnOf s f))))

theorem writeEntry_eq : writeEntry f r c s = match c.cvec with
    | some v => ringVector f v (entryShown f r c s)
    | none => entryShown f r c s := by
  unfold writeEntry
  rfl

theorem fnOf_entryShown : fnOf (entryShown f r c s) f = advanced r c (fnOf s f) := by
  unfold entryShown
  split
  · rw [entryPut, fnOf_setFn_same]
  · rw [fnOf_write, entryPut, fnOf_setFn_same]

theorem steward_entryShown : (entryShown f r c s).steward = s.steward := by
  unfold entryShown
  split
  · rw [entryPut, setFn_steward, State.write_steward]
  · rw [State.write_steward, entryPut, setFn_steward, State.write_steward]

/-- R85: an entry advances TAIL and turns PHASE at the wrap; HEAD, the waiting entries and the handles stay. -/
theorem writeEntry_frame : (writeEntry f r c s).mem = (entryShown f r c s).mem ∧ (writeEntry f r c s).steward = s.steward ∧
    (fnOf (writeEntry f r c s) f).tail = ((fnOf s f).tail + 1) % r.entries ∧
    (fnOf (writeEntry f r c s) f).phase = (if ((fnOf s f).tail + 1) % r.entries = 0 then !(fnOf s f).phase else (fnOf s f).phase) ∧
    (fnOf (writeEntry f r c s) f).head = (fnOf s f).head ∧ (fnOf (writeEntry f r c s) f).overflow = (fnOf s f).overflow := by
  rw [writeEntry_eq]
  cases c.cvec with
  | none =>
    rw [fnOf_entryShown]
    exact ⟨rfl, steward_entryShown, rfl, rfl, rfl, rfl⟩
  | some v =>
    obtain ⟨hmem, hsteward, htail, hphase, hhead, hover⟩ := ringVector_frame (f := f) (v := v) (s := entryShown f r c s)
    rw [fnOf_entryShown] at htail hphase hhead hover
    exact ⟨hmem, hsteward.trans steward_entryShown, htail, hphase, hhead, hover⟩

/-- R85: an entry writes its 32 bytes and its write-back's 8, and no others. -/
theorem memRead_entryShown_other {a : Nat}
    (ha : a < Space.host.base + r.base + 32 * (fnOf s f).tail ∨ Space.host.base + r.base + 32 * (fnOf s f).tail + 32 ≤ a)
    (hw : r.writeback = 0 ∨ a < Space.host.base + r.writeback ∨ Space.host.base + r.writeback + 8 ≤ a) :
    memRead (entryShown f r c s).mem a = memRead s.mem a := by
  have hput : memRead (entryPut f r c s).mem a = memRead s.mem a := by
    rw [entryPut, setFn_mem]
    exact memRead_write_host (by rw [entryBytes_length]; omega)
  unfold entryShown
  split
  case isTrue => exact hput
  case isFalse hback => rw [memRead_write_host (by rw [leBytes_length]; omega), hput]

/-- Table 10a: in a canonical memory an entry whose write-back lies elsewhere reads back as it was written. -/
theorem read_entryShown (hm : MemOk s) (htail : (fnOf s f).tail < r.entries)
    (hback : r.writeback = 0 ∨ r.writeback + 8 ≤ r.base ∨ r.base + 32 * r.entries ≤ r.writeback) :
    (entryShown f r c s).read .host (r.base + 32 * (fnOf s f).tail) 32 = entryBytes c (fnOf s f).phase := by
  have hput : (entryPut f r c s).read .host (r.base + 32 * (fnOf s f).tail) 32 = entryBytes c (fnOf s f).phase := by
    have h := State.read_write_same (a := r.base + 32 * (fnOf s f).tail) (bs := entryBytes c (fnOf s f).phase) hm (sp := .host) nofun
    rw [entryBytes_length] at h
    rw [entryPut, read_setFn, h]
  unfold entryShown
  split
  case isTrue => exact hput
  case isFalse hback0 =>
    rw [read_write_host_apart (by rw [leBytes_length]; omega), hput]

theorem postEntry_room (hr : (fnOf s f).ring = some r) (hempty : (fnOf s f).overflow = [])
    (hroom : ((fnOf s f).tail + 1) % r.entries ≠ (fnOf s f).head) : postEntry f c s = writeEntry f r c s := by
  simp [postEntry, hr, ringFull, hempty, hroom]

/-- R87: without a ring an entry waits, and nothing is written. -/
theorem postEntry_noRing (hr : (fnOf s f).ring = none) :
    (fnOf (postEntry f c s) f).overflow = (fnOf s f).overflow ++ [c] ∧ (postEntry f c s).mem = s.mem := by
  simp [postEntry, hr]

/-- R87: with a full ring an entry waits, and nothing is written. -/
theorem postEntry_full (hr : (fnOf s f).ring = some r) (hfull : ((fnOf s f).tail + 1) % r.entries = (fnOf s f).head) :
    (fnOf (postEntry f c s) f).overflow = (fnOf s f).overflow ++ [c] ∧ (postEntry f c s).mem = s.mem := by
  simp [postEntry, hr, ringFull, hfull]

/-- A posted entry changes nothing of the steward. -/
theorem postEntry_steward : (postEntry f c s).steward = s.steward := by
  unfold postEntry
  dsimp only
  split
  · rfl
  · split
    · rfl
    · exact writeEntry_frame.2.1

/-- Table 10a with R85, for a canonical memory: the entry that is posted reads back at the old TAIL. -/
theorem postEntry_reads_back (hm : MemOk s) (hr : (fnOf s f).ring = some r) (hempty : (fnOf s f).overflow = [])
    (htail : (fnOf s f).tail < r.entries) (hroom : ((fnOf s f).tail + 1) % r.entries ≠ (fnOf s f).head)
    (hh : c.handle < 2 ^ 64) (hst : c.status < 2 ^ 16) (he : c.epoch < 2 ^ 32)
    (hback : r.writeback = 0 ∨ r.writeback + 8 ≤ r.base ∨ r.base + 32 * r.entries ≤ r.writeback) :
    (postEntry f c s).readNat .host (r.base + 32 * (fnOf s f).tail) 32 =
      c.handle + 2 ^ 64 * c.status + 2 ^ 80 * b2n (fnOf s f).phase + 2 ^ 96 * c.epoch + 2 ^ 128 * c.cookie.toNat + 2 ^ 192 * c.result.toNat := by
  have hphase : b2n (fnOf s f).phase < 2 := by cases (fnOf s f).phase <;> decide
  have hcookie := c.cookie.isLt
  have hresult := c.result.isLt
  have hread : (writeEntry f r c s).read .host (r.base + 32 * (fnOf s f).tail) 32 = (entryShown f r c s).read .host (r.base + 32 * (fnOf s f).tail) 32 :=
    read_of_mem writeEntry_frame.1
  rw [postEntry_room hr hempty hroom, State.readNat, hread, read_entryShown hm htail hback, entryBytes_eq hh hst he, leNat_leBytes,
    Nat.mod_eq_of_lt (by omega)]

end Entries

section Handles
variable {h st : Nat} {result : W64} {r : HandleRec} {s : State}

/-- R81: a handle that owes its entry posts one, and owes none then. -/
theorem finish_owed (hr : getHandle s h = some r) (ho : r.owed = true) (he : r.state ≠ .ended) :
    finish h st result s = postEntry r.fn { handle := h, status := st, epoch := 0, cookie := r.cookie, result := result, cvec := if r.cvec = 0xFFFF then none else some r.cvec.toNat }
      (setHandle h { r with state := .complete, status := st, owed := false } s) := by
  simp [finish, complete, hr, ho, he]

/-- R81: a handle that owes no entry posts none. -/
theorem finish_unowed (hr : getHandle s h = some r) (ho : r.owed = false) :
    (finish h st result s).host = s.host ∧ (finish h st result s).mem = s.mem ∧ (finish h st result s).outbox = s.outbox := by
  unfold finish complete
  rw [hr]
  dsimp only
  rw [ho, if_neg Bool.false_ne_true]
  split
  · exact ⟨rfl, rfl, rfl⟩
  · exact ⟨rfl, rfl, rfl⟩

end Handles

/-- A memory out of canonical form: of the ring at address 0 of host memory, byte 1 with a 9 is listed behind byte 2. -/
def unsortedRing : State :=
  { State.reset with
      host.fns := [(0, { ring := some { base := 0, entries := 64, writeback := 0, k := 1, t := 0 } })]
      mem := [(Space.host.base + 2, 1), (Space.host.base + 1, 9)] }

/-- There the 0 of an entry's byte 1 does not replace the 9, so that handle 1 reads as 0x0901. -/
theorem postEntry_unsortedRing : (postEntry 0 { handle := 1 } unsortedRing).readNat .host 0 32 % 2 ^ 16 = 0x0901 := by
  decide +kernel

/-- Refutes O57: its clause on the entry's words asks for no canonical memory, and in `unsortedRing` the entry of handle 1 does
not read back. The rest of O57 holds: `writeEntry_frame`, `memRead_entryShown_other`, `postEntry_noRing`, `postEntry_full`,
`finish_owed` and `finish_unowed`; and that clause too where the memory is canonical (`postEntry_reads_back`), as every step
keeps it (O5). -/
theorem not_completionEntries : ¬ Obligations.CompletionEntries := by
  rintro ⟨hwritten, -⟩
  obtain ⟨hread, -⟩ := hwritten 0 { handle := 1 } unsortedRing { base := 0, entries := 64, writeback := 0, k := 1, t := 0 } rfl rfl
    (by decide) (by decide) (by decide) (by decide) (by decide) (by decide) (.inl rfl)
  have hlow := congrArg (· % 2 ^ 16) hread
  exact absurd (postEntry_unsortedRing.symm.trans hlow) (by decide +kernel)

end Sys2Proof.Architecture

/-!
PROOFS. Commit publishes (R198, R202, R204, Table 6 of ch. 05): the banks, and the step that every action of the commit column
leaves in its partition.
-/
namespace Sys2Proof.Architecture
open Sys2Proof Sys2Proof.Machine Sys2Proof.Safety

theorem writeNat_parts (s : State) (sp : Space) (a n v : Nat) : (s.writeNat sp a n v).parts = s.parts := State.write_parts ..

/-! ## Banks -/

section Banks
variable {p i : Nat} {st : BankStage} {x : Partition} {b : Bank} {s : State}

theorem half_setHalf_same {α : Type} (n : Nat) (v : α) (q : α × α) : half n (setHalf n v q) = v := by
  unfold half setHalf
  split
  · rfl
  · rfl

theorem half_setHalf_other {α : Type} {n : Nat} (hn : n ≤ 1) (v : α) (q : α × α) : half n (setHalf (1 - n) v q) = half n q := by
  obtain rfl | rfl : n = 0 ∨ n = 1 := by omega
  · rfl
  · rfl

theorem getPart_putBank (hx : getPart s p = some x) : getPart (putBank p i b s) p = some { x with banks := tset x.banks i b } := by
  rw [putBank, getPart_of_parts (touchPages_parts ..), getPart_of_parts (writeNat_parts ..), getPart_modPart_same, hx]
  rfl

/-- The bank after the commit of an applied update. -/
def flipped (st : BankStage) (b : Bank) : Bank :=
  { b with cur := 1 - b.cur, t := setHalf (1 - b.cur) st.t b.t, p1 := setHalf (1 - b.cur) st.p1 b.p1,
           p2 := setHalf (1 - b.cur) st.p2 b.p2, nonfinMade := st.nonfinMade }

theorem publishBank_applied (hx : getPart s p = some x) (hb : tget? x.banks st.bank = some b) (ha : st.applied = some true) :
    publishBank p st s = putBank p st.bank (flipped st b) s := by
  simp [publishBank, hx, hb, ha, flipped]

theorem publishBank_skipped (hx : getPart s p = some x) (hb : tget? x.banks st.bank = some b) (ha : st.applied = some false) :
    publishBank p st s = putBank p st.bank { b with skipped := (b.skipped + 1) % 2 ^ 32 } s := by
  simp [publishBank, hx, hb, ha]

end Banks

/-! ## No action of a commit takes a step out of its partition -/

/-- A step stands in its partition. -/
def hasStep (h : Nat) (s : State) : Bool := (getStep s h).isSome

theorem hasStep_of_parts {h : Nat} {s t : State} (e : t.parts = s.parts) : hasStep h t = hasStep h s := by
  rw [hasStep, hasStep, getStep, getStep, getPart_of_parts e]

section Presence
variable {h p sp : Nat} {s : State}

theorem hasStep_modPart {f : Partition → Partition} (hf : ∀ x, (tget? (f x).steps h).isSome = (tget? x.steps h).isSome) :
    hasStep h (modPart p f s) = hasStep h s := by
  unfold hasStep getStep
  by_cases e : handlePart h = p
  · subst e
    rw [getPart_modPart_same]
    cases getPart s (handlePart h) with
    | none => rfl
    | some x => exact hf x
  · rw [getPart_modPart_other e]

theorem hasStep_keeps {f : Partition → Partition} (hf : ∀ x, (f x).steps = x.steps) : hasStep h (modPart p f s) = hasStep h s :=
  hasStep_modPart fun x => congrArg (fun l => (tget? l h).isSome) (hf x)

theorem hasStep_modStep {k : Nat} {f : Step → Step} : hasStep h (modStep k f s) = hasStep h s := by
  refine hasStep_modPart fun x => ?_
  dsimp only
  by_cases e : h = k
  · rw [e, tget?_tupd_same, Option.isSome_map]
  · rw [tget?_tupd_other e]

theorem hasStep_modSpace {f : KvSpace → KvSpace} : hasStep h (modSpace p sp f s) = hasStep h s := hasStep_keeps (by exact fun _ => rfl)

theorem hasStep_foldl {α : Type} {f : State → α → State} (hf : ∀ s a, hasStep h (f s a) = hasStep h s) (l : List α) :
    hasStep h (l.foldl f s) = hasStep h s := foldl_same (hasStep h) hf l s

theorem hasStep_publishBank {st : BankStage} : hasStep h (publishBank p st s) = hasStep h s := by
  have hput (b : Bank) : hasStep h (putBank p st.bank b s) = hasStep h s := by
    rw [putBank, hasStep_of_parts (touchPages_parts ..), hasStep_of_parts (writeNat_parts ..), hasStep_keeps (by exact fun _ => rfl)]
  unfold publishBank
  split
  · rfl
  · split
    · exact hput _
    · exact hput _
    · rfl

theorem hasStep_commitRows {k c : Nat} : hasStep h (commitRows k c s) = hasStep h s := by
  refine hasStep_of_parts ?_
  unfold commitRows
  dsimp only
  split
  · rw [endRows, modCore_parts]
    exact foldl_same State.parts (fun s r => clear_parts ..) _ s
  · rfl

theorem parts_showControl {seqs pages : List Nat} : (showControl p sp seqs pages s).parts = s.parts := by
  unfold showControl
  split
  · rfl
  · refine (foldl_same State.parts (fun s a => by rw [touchPages_parts, writeNat_parts]) ..).trans ?_
    refine foldl_same State.parts (fun s a => ?_) ..
    split
    · rw [touchPages_parts, State.write_parts, writeNat_parts]
    · rw [touchPages_parts, clear_parts]

theorem hasStep_showControl {seqs pages : List Nat} : hasStep h (showControl p sp seqs pages s) = hasStep h s :=
  hasStep_of_parts parts_showControl

theorem hasStep_freePage {id : Nat} : hasStep h (freePage p sp id s) = hasStep h s := by
  rw [freePage, hasStep_showControl, hasStep_modSpace]

theorem hasStep_dropRef {id : Nat} : hasStep h (dropRef p sp id s) = hasStep h s := by
  unfold dropRef
  split
  · rfl
  · dsimp only
    split
    · rw [hasStep_showControl, hasStep_modSpace]
    · split
      · split
        · rw [hasStep_showControl]
          exact hasStep_modSpace
        · rw [hasStep_freePage, hasStep_modSpace]
      · rw [hasStep_freePage, hasStep_modSpace]

theorem hasStep_devEvent {id qual n : Nat} : hasStep h (devEvent id qual n s) = hasStep h s :=
  hasStep_of_parts (parts_of_beyondRecord (beyondRecord_of_counts (beyondCounts_devEvent ..)))

theorem hasStep_commitPrefix {i : Nat} : hasStep h (commitPrefix p sp i s) = hasStep h s := by
  unfold commitPrefix
  split
  · rfl
  · split
    · rw [hasStep_devEvent]
      exact hasStep_modSpace
    · rfl

theorem hasStep_publishSeq {st : SeqStage} : hasStep h (publishSeq p st s) = hasStep h s := by
  unfold publishSeq
  split
  · rfl
  · dsimp only
    rw [hasStep_showControl, hasStep_foldl fun _ _ => hasStep_commitPrefix, hasStep_modSpace]
    have hkeep : hasStep h ((st.pages ++ st.copyPage.toList).foldl (fun s id => keepPage p st.space id s) s) = hasStep h s :=
      hasStep_foldl (fun _ _ => hasStep_modSpace) _
    split
    · rw [hasStep_dropRef, hkeep]
    · exact hkeep

theorem hasStep_dropHeld {epoch attempt : Nat} : hasStep h (dropHeld p epoch attempt s) = hasStep h s := by
  unfold dropHeld
  split
  · rfl
  · refine hasStep_foldl (fun s e => ?_) _
    dsimp only
    split
    · rfl
    · rw [hasStep_devEvent, hasStep_keeps (by exact fun _ => rfl)]

theorem hasStep_releaseSpills {k : Nat} : hasStep h (releaseSpills k s) = hasStep h s := by
  unfold releaseSpills
  split
  · rfl
  · rw [hasStep_modStep, hasStep_keeps (by exact fun _ => rfl)]

theorem hasStep_commitPelotons {k : Nat} : hasStep h (commitPelotons k s) = hasStep h s := by
  unfold commitPelotons
  split
  · rfl
  · exact hasStep_keeps (by exact fun _ => rfl)

theorem hasStep_markRecord {k outcome : Nat} : hasStep h (markRecord k outcome s) = hasStep h s := by
  unfold markRecord
  split
  · split
    · exact hasStep_of_parts (touchPages_parts ..)
    · rfl
  · rfl

/-- The commit column but for the step's own state. -/
def commitActions (h : Nat) (st : Step) (s : State) : State :=
  let p := handlePart h
  let cores := stepCores s h
  let s := st.banks.foldl (fun s b => publishBank p b s) s
  let s := modStep h (fun st => { st with rows := [] }) (cores.foldl (fun s c => commitRows h c s) s)
  let s := publishAmax p st.amax s
  let s := modPart p (fun x => { x with parks := publishParks st x.parks }) s
  let s := st.seqs.foldl (fun s q => publishSeq p q s) s
  let s := dropHeld p st.epoch st.attempt (releaseSpills h (commitPelotons h s))
  markRecord h 2 s

theorem commitStep_eq {st : Step} (hst : getStep s h = some st) :
    commitStep h s = modHandle h (fun r => { r with state := .committed })
      (modStep h (fun st => { st with state := .committed, holds := [] }) (commitActions h st s)) := by
  unfold commitStep
  rw [hst]
  rfl

theorem hasStep_commitActions {k : Nat} {st : Step} : hasStep h (commitActions k st s) = hasStep h s := by
  unfold commitActions
  dsimp only
  rw [hasStep_markRecord, hasStep_dropHeld, hasStep_releaseSpills, hasStep_commitPelotons, hasStep_foldl fun _ _ => hasStep_publishSeq,
    hasStep_keeps (by exact fun _ => rfl), publishAmax, hasStep_keeps (by exact fun _ => rfl), hasStep_modStep, hasStep_foldl fun _ _ => hasStep_commitRows,
    hasStep_foldl fun _ _ => hasStep_publishBank]

theorem getStep_modStep_same {f : Step → Step} : getStep (modStep h f s) h = (getStep s h).map f := by
  unfold getStep modStep
  rw [getPart_modPart_same]
  cases getPart s (handlePart h) with
  | none => rfl
  | some x => exact tget?_tupd_same

/-- R204: the step becomes committed and holds nothing. -/
theorem getStep_commitStep {st : Step} (hst : getStep s h = some st) :
    ∃ st', getStep (commitStep h s) h = some st' ∧ st'.state = .committed ∧ st'.holds = [] := by
  have hstays : hasStep h (commitActions h st s) = true := by rw [hasStep_commitActions, hasStep, hst, Option.isSome_some]
  obtain ⟨st', hst'⟩ := Option.isSome_iff_exists.mp hstays
  refine ⟨{ st' with state := .committed, holds := [] }, ?_, rfl, rfl⟩
  rw [commitStep_eq hst]
  change getStep (modStep h _ _) h = _
  rw [getStep_modStep_same, hst']
  rfl

end Presence

/-- Settles O58: an applied update flips its bank, a skipped one is counted, and the step becomes committed. -/
theorem commitPublishesBanks : Obligations.CommitPublishesBanks := by
  refine ⟨?applied, ?skipped, fun h st x s _ hst => getStep_commitStep hst⟩
  case applied =>
    intro p st x b s hx hb ha hcur
    refine ⟨_, flipped st b, (congrArg (getPart · p) (publishBank_applied hx hb ha)).trans (getPart_putBank hx), tget?_tset_same, rfl,
      half_setHalf_same .., half_setHalf_same .., half_setHalf_same .., half_setHalf_other hcur .., half_setHalf_other hcur ..,
      half_setHalf_other hcur .., rfl, rfl, rfl, rfl, rfl, publishBank_applied hx hb ha⟩
  case skipped => exact fun p st x b s hx hb ha => publishBank_skipped hx hb ha

end Sys2Proof.Architecture

/-!
PROOFS. Collective calls: issue and fence (R466, R469, R493), late members (R487, R488, R491), and calls whose peers are silent
(R218, R490).
-/
namespace Sys2Proof.Architecture
open Sys2Proof Sys2Proof.Machine Sys2Proof.Safety

/-! ## Issue and fence -/

section Issue
variable {c l h n : Nat} {w : CallWord} {r : CallRun} {s : State}

theorem issueCall_thinned (hr : callOf s h (cwPel w) (cwCall w) = some r) (hi : r.issued = false) (ht : thinnedOut s h (cwPel w) w = true) :
    issueCall c l h w s = passEntry c l (startCalls h (cwPel w) (putSregOut h { r with core := c } 0
      (modCall h (cwPel w) (cwCall w) (fun r => { r with issued := true, core := c, phase := .done, thinned := true }) s))) := by
  unfold issueCall
  dsimp only
  rw [hr]
  dsimp only
  rw [hi, if_neg Bool.false_ne_true, if_pos ht]

theorem issueCall_runs (hr : callOf s h (cwPel w) (cwCall w) = some r) (hi : r.issued = false) (ht : thinnedOut s h (cwPel w) w = false) :
    issueCall c l h w s = passEntry c l (startCalls h (cwPel w)
      (modCall h (cwPel w) (cwCall w) (fun r => { r with issued := true, core := c }) (excludeLogged h (cwPel w) (cwCall w) r s))) := by
  unfold issueCall
  dsimp only
  rw [hr]
  dsimp only
  rw [hi, if_neg Bool.false_ne_true, ht, if_neg Bool.false_ne_true]

/-- No call of a step that replays nothing is excluded by a record. -/
theorem excludeLogged_noReplay {call : Nat} (hrep : ((getStep s h).bind (·.replayOf)) = none) : excludeLogged h n call r s = s := by
  unfold excludeLogged
  split
  case h_1 q st _ hst =>
    rw [hst] at hrep
    have hlate : loggedLate st q n call = false := by
      rw [loggedLate, show st.replayOf = none from hrep]
      rfl
    rw [hlate]
    rfl
  case h_2 => rfl

theorem excludeLogged_late {call : Nat} {q : Peloton} {st : Step} (hq : getPel s (handlePart h) n = some q) (hst : getStep s h = some st)
    (hlate : loggedLate st q n call = true) (hex : r.excluded = false) (hph : r.phase = .waiting) :
    excludeLogged h n call r s = excludeCall (handlePart h) h n call s := by
  have hcond : (loggedLate st q n call && !r.excluded && r.phase == .waiting) = true := by rw [hlate, hex, hph]; rfl
  unfold excludeLogged
  rw [hq, hst]
  exact if_pos hcond

theorem fenceCall_done {call : Nat} {st : Step} (hst : getStep s h = some st) (hr : fencedCall st call = some r) (hd : r.phase = .done) :
    fenceCall c l h call s = passEntry c l s := by
  simp [fenceCall, hst, hr, hd]

theorem fenceCall_waits {call : Nat} {st : Step} (hst : getStep s h = some st) (hr : fencedCall st call = some r) (hd : r.phase ≠ .done) :
    fenceCall c l h call s = if othersReady s h c l then s else coreWaitFree c 0x200D s := by
  simp [fenceCall, hst, hr, hd]

end Issue

/-! ## Late members -/

section Late
variable {p n call h : Nat} {c : CallRun} {q : Peloton} {m : PelMark} {st : Step} {s : State}

theorem lateExclude_due (hc : callingStep s p n call = some (h, c)) (hq : getPel s p n = some q) (hst : getStep s h = some st)
    (hdet : st.det = false) (hm : markOf s h n = some m) (hw : m.window ≤ c.waited) (hmode : pelMode q ≠ 1) (hkind : cwKind c.word ≤ 1)
    (hi : c.issued = false) (hex : c.excluded = false) (hph : c.phase = .waiting) (hheld : scatterHeld q st call = true) :
    lateExclude p n call s = startCalls h n (excludeCall p h n call s) := by
  have hkind' : ¬ 2 ≤ cwKind c.word := by omega
  unfold lateExclude
  rw [hc, hq]
  dsimp only
  rw [hst]
  simp [hdet, hm, hw, hmode, hkind', hi, hex, hph, hheld]

theorem lateExclude_early (hc : callingStep s p n call = some (h, c)) (hq : getPel s p n = some q) (hst : getStep s h = some st)
    (hdet : st.det = false) (hm : markOf s h n = some m) (hw : c.waited < m.window) : lateExclude p n call s = s := by
  unfold lateExclude
  rw [hc, hq]
  dsimp only
  rw [hst]
  simp [hdet, hm, hw]

/-- R488, R491: a late contribution is dropped where the policy drops it or the record of a replay has no park of it. -/
theorem lateContribution_dropped {x : Partition} {src : Tensor} (hc : callingStep s p n call = some (h, c)) (hq : getPel s p n = some q)
    (hx : getPart s p = some x) (hst : getStep s h = some st) (hsrc : stepTensor s h (cwSrc c.word) = some src) (hex : c.excluded = true)
    (hi : c.issued = true) (hnew : ∀ e ∈ st.lateLog, e.1 = n → e.2.1 ≠ call) (hm : markOf s h n = some m)
    (hdrop : (st.replayOf.map fun r => r.late.contains (n, call, pelRank q, 0)).getD (m.latePolicy == 0) = false) :
    lateContribution p n call s = modStep h (fun st => { st with lateLog := st.lateLog ++ [(n, call, pelRank q, 1)] })
      (modPel p n (fun q => { q with dropped := q.dropped + 1 }) s) := by
  have hlog : (st.lateLog.any fun e => e.1 == n && e.2.1 == call) = false := by simpa using hnew
  unfold lateContribution
  rw [hc, hq, hx]
  dsimp only
  rw [hst, hsrc]
  dsimp only
  rw [hex, hi, hlog, if_neg (by decide), hm, Option.map_some, Option.getD_some, hdrop]
  rfl

end Late

/-! ## Silent peers -/

section Silent
variable {p n call h : Nat} {c : CallRun} {q : Peloton} {m : PelMark} {s : State}

/-- R490, R218: the edges after which a call that hears nothing ends. -/
def quietLimit (s : State) (h n : Nat) (c : CallRun) (m : PelMark) : Nat :=
  if unjoined s h n && !c.joined then m.window else m.peerLimit * m.window

theorem peerTimeout_eq (hc : callingStep s p n call = some (h, c)) (hq : getPel s p n = some q) (hm : markOf s h n = some m) :
    peerTimeout p n call s = if (c.phase == .scatter && decide (quietLimit s h n c m ≤ c.quiet)) = true
      then abortCall 0x3811 h n call (awaitedRank q c <<< 32) (awaitedRank q c) s else s := by
  unfold peerTimeout
  rw [hc, hq]
  dsimp only
  rw [hm]
  rfl

theorem peerTimeout_quiet (hc : callingStep s p n call = some (h, c)) (hq : getPel s p n = some q) (hm : markOf s h n = some m)
    (hph : c.phase = .scatter) (hl : quietLimit s h n c m ≤ c.quiet) :
    peerTimeout p n call s = abortCall 0x3811 h n call (awaitedRank q c <<< 32) (awaitedRank q c) s :=
  (peerTimeout_eq hc hq hm).trans (if_pos (by rw [hph, decide_eq_true hl]; rfl))

theorem peerTimeout_heard (hc : callingStep s p n call = some (h, c)) (hq : getPel s p n = some q) (hm : markOf s h n = some m)
    (hl : c.quiet < quietLimit s h n c m) : peerTimeout p n call s = s :=
  (peerTimeout_eq hc hq hm).trans (if_neg (by rw [decide_eq_false (Nat.not_le.mpr hl), Bool.and_false]; exact Bool.false_ne_true))

/-- R218: a replay that a member has not joined ends with PARTIAL_PEER_TIMEOUT. -/
theorem abortCall_unjoined {code detail awaited : Nat} (hu : unjoined (sendAbort h n call awaited s) h n = true) :
    abortCall code h n call detail awaited s = stopFaulty h 0x0302 0 (sendAbort h n call awaited s) := if_pos hu

theorem takeAbort_names {x : Partition} {m : CollMsg} (hx : getPart s p = some x) (hq : getPel s p n = some q)
    (hm : (q.inbox.find? fun m => m.mtype == 0x20) = some m) (hh : runningStepOf x m.stepEpoch (readHead m.header).attempt = some h) :
    takeAbort p n s = abortCall 0x3811 h n (readHead m.header).call ((readHead m.header).chunk <<< 32) (readHead m.header).chunk
      (dropMsg p n m s) := by
  unfold takeAbort
  rw [hx, hq]
  dsimp only
  rw [hm]
  dsimp only
  rw [hh]

end Silent

/-- Settles O54: a call's issue and its fence, late members, and calls whose peers are silent. -/
theorem callsAndLateMembers : Obligations.CallsAndLateMembers := by
  refine ⟨?issue, ?fence, ?late, ?early, ?dropped, ?quiet, ?heard, fun code h n call detail awaited s hu => abortCall_unjoined hu, ?aborted⟩
  case issue =>
    intro core lane h n b w r e s hr hs hop hb hcall hi
    have hrun : exec (.collectiveCall core lane) s = .next (issueCall core.val lane.val h w s) := by
      refine (whenLive_running hr).trans (congrArg _ ((laneEvent_standing hs).trans ?_))
      rw [hop]
      dsimp only
      rw [hb]
    refine ⟨fun ht hrep => ?_, fun q st ht hq hst hlate hex hph => ?_, fun ht => ?_⟩
    · rw [hrun, issueCall_runs hcall hi ht, excludeLogged_noReplay hrep]
    · rw [hrun, issueCall_runs hcall hi ht, excludeLogged_late hq hst hlate hex hph]
    · rw [hrun, issueCall_thinned hcall hi ht]
  case fence =>
    intro core lane h n call r st e s hr hs hop hst hcall
    have hrun : exec (.collectiveFence core lane) s = .next (fenceCall core.val lane.val h call s) := by
      refine (whenLive_running hr).trans (congrArg _ ((laneEvent_standing hs).trans ?_))
      rw [hop]
    refine ⟨fun hd => ?_, fun hd ho => ?_, fun hd ho => ?_⟩
    · rw [hrun, fenceCall_done hst hcall hd]
    · rw [hrun, fenceCall_waits hst hcall hd, ho, if_neg Bool.false_ne_true]
    · rw [hrun, fenceCall_waits hst hcall hd, if_pos ho]
  case late =>
    exact fun part n call h c q m st s hr hc hq hst hdet hm hw hmode hkind hi hex hph hheld =>
      (whenLive_running hr).trans (congrArg _ (lateExclude_due hc hq hst hdet hm hw hmode hkind hi hex hph hheld))
  case early =>
    exact fun part n call h c q m st s hr hc hq hst hdet hm hw => (whenLive_running hr).trans (congrArg _ (lateExclude_early hc hq hst hdet hm hw))
  case dropped =>
    intro part n call h c q x m st src s hr hc hq hx hst hsrc hex hi hnew hm hpolicy
    refine (whenLive_running hr).trans (congrArg _ (lateContribution_dropped hc hq hx hst hsrc hex hi hnew hm ?_))
    cases hrep : st.replayOf with
    | none =>
      rw [hrep] at hpolicy
      exact beq_false_of_ne hpolicy
    | some r =>
      rw [hrep] at hpolicy
      exact hpolicy
  case quiet =>
    exact fun part n call h c q m s hr hc hq hm hph hl => (whenLive_running hr).trans (congrArg _ (peerTimeout_quiet hc hq hm hph hl))
  case heard =>
    exact fun part n call h c q m s hr hc hq hm hl => (whenLive_running hr).trans (congrArg _ (peerTimeout_heard hc hq hm hl))
  case aborted =>
    exact fun part n h x q m s hr hx hq hm hh => (whenLive_running hr).trans (congrArg _ (takeAbort_names hx hq hm hh))

end Sys2Proof.Architecture

/-!
PROOFS. Messages of collective calls: reduction and parameter gathers, exchanges, ring chunks and ring gradients (R310 to R313, R456,
R476 to R479, R499 to R501).
-/
namespace Sys2Proof.Architecture
open Sys2Proof Sys2Proof.Machine Sys2Proof.Safety

/-! ## The message that is taken -/

theorem callMessage_mtype {s : State} {x : Partition} {n mtype h : Nat} {m : CollMsg} {c : CallRun} (hm : callMessage s x n mtype m = some (h, c)) :
    m.mtype = mtype := by
  unfold callMessage at hm
  dsimp only at hm
  split at hm
  case isTrue => cases hm
  case isFalse hne => exact Decidable.of_not_not hne

/-- R472: the message that is taken was held, is of the type, and is held no longer. -/
theorem takeMessage_held {p n mtype h : Nat} {m : CollMsg} {hd : CollHead} {c : CallRun} {q : Peloton} {s t : State}
    (ht : takeMessage p n mtype s = some (m, hd, h, c, q, t)) :
    getPel s p n = some q ∧ m ∈ q.inbox ∧ m.mtype = mtype ∧ hd = readHead m.header ∧ t = received p n h m s := by
  unfold takeMessage at ht
  split at ht
  case h_1 => cases ht
  case h_2 x hx =>
    split at ht
    case h_1 => cases ht
    case h_2 q' hq =>
      obtain ⟨r, hr, he⟩ := Option.map_eq_some_iff.mp ht
      obtain ⟨o, ho, hfound⟩ := List.exists_of_findSome?_eq_some hr
      obtain ⟨k, hk, rfl⟩ := Option.map_eq_some_iff.mp hfound
      cases he
      exact ⟨by rw [getPel, hx]; exact hq, ho, callMessage_mtype hk, rfl, rfl⟩

/-! ## Commands of calls, once their message comes -/

section Calls
variable {p n h : Nat} {m : CollMsg} {c : CallRun} {q : Peloton} {src dst : Tensor} {s : State}

theorem redScatter_comes (hc : Comes s p n 0x10 m h c q) (hsrc : stepTensor (received p n h m s) h (cwSrc c.word) = some src) :
    redScatter p n s = scatterHop h n q c src m (readHead m.header) (received p n h m s) := by
  unfold redScatter
  rw [takeMessage_comes hc]
  dsimp only
  rw [hsrc]

theorem redGather_comes (hc : Comes s p n 0x11 m h c q) : redGather p n s = gatherHop h n q c m (readHead m.header) (received p n h m s) := by
  rw [redGather, takeMessage_comes hc]

theorem paramGather_comes (hc : Comes s p n 0x12 m h c q) : paramGather p n s = shardHop h n q c m (readHead m.header) (received p n h m s) := by
  rw [paramGather, takeMessage_comes hc]

theorem exchange_comes (hc : Comes s p n 0x13 m h c q) (hdst : stepTensor (received p n h m s) h (cwDst c.word) = some dst) :
    exchange p n s = exchangeRows h n c dst m (readHead m.header) (received p n h m s) := by
  unfold exchange
  rw [takeMessage_comes hc]
  dsimp only
  rw [hdst]

theorem exchangeReturn_comes (hc : Comes s p n 0x14 m h c q) (hdst : stepTensor (received p n h m s) h (cwDst c.word) = some dst) :
    exchangeReturn p n s = returnedRows h n c dst m (readHead m.header) (received p n h m s) := by
  unfold exchangeReturn
  rw [takeMessage_comes hc]
  dsimp only
  rw [hdst]

end Calls

/-! ## A member's hop -/

section Hops
variable {h n : Nat} {q : Peloton} {c : CallRun} {src : Tensor} {m : CollMsg} {hd : CollHead} {s : State}

/-- The state in which the blocks of a scatter hop are summed and their narrowings counted (R478). -/
def hopCounted (h : Nat) (c : CallRun) (src : Tensor) (m : CollMsg) (hd : CollHead) (s : State) : State :=
  addCounts c.core (((hopBlocks s h c src hd m.body).map Prod.snd).foldl Cnt.add {}) 0 s

/-- R477: a block that is another member's chunk goes on. -/
theorem scatterHop_on (hown : hd.chunk ≠ pelRank q) : scatterHop h n q c src m hd s =
    sendBlocks q n (nextRank q (cwDir c.word)) 0x10 m.stepEpoch (stepLayout (hopCounted h c src m hd (noteScale h n q c src hd s)) h n)
      { hd with hop := hd.hop + 1, late := hd.late + b2n c.excluded } true
      (((hopBlocks (noteScale h n q c src hd s) h c src hd m.body).map Prod.fst).length + 1)
      ((hopBlocks (noteScale h n q c src hd s) h c src hd m.body).map Prod.fst) (hopCounted h c src m hd (noteScale h n q c src hd s)) := by
  unfold scatterHop
  exact if_pos hown

/-- R479: blocks of the own chunk are finished. -/
theorem scatterHop_own (hown : hd.chunk = pelRank q) : scatterHop h n q c src m hd s =
    finishBlocks h n q c hd (hd.late + b2n c.excluded) ((hopBlocks (noteScale h n q c src hd s) h c src hd m.body).map Prod.fst)
      (hopCounted h c src m hd (noteScale h n q c src hd s)) := by
  unfold scatterHop
  exact if_neg (not_not_intro hown)

theorem passOn_goes (hh : hd.hop + 2 < pelN q) : passOn h n q c m hd s =
    sendTo q n (nextRank q (cwDir c.word)) m.mtype m.format m.stepEpoch (stepLayout s h n) { hd with hop := hd.hop + 1 } m.body s := if_pos hh

/-- R476: at its last hop a message goes no further. -/
theorem passOn_ends (hh : pelN q ≤ hd.hop + 2) : passOn h n q c m hd s = s := if_neg (Nat.not_lt.mpr hh)

/-- R479: the last member of a gather of KIND 0 writes the blocks and keeps their totals. -/
theorem gatherHop_last (hk : cwKind c.word = 0) (hh : pelN q ≤ hd.hop + 2) : gatherHop h n q c m hd s =
    startCalls h n (endPass h n c.call (modCall h n c.call (noteGather hd (readBlocks hd ((chunkLens s h c.word).getD hd.chunk 0) m.body))
      (writeFinal s h q c hd.chunk (readBlocks hd ((chunkLens s h c.word).getD hd.chunk 0) m.body)))) := by
  unfold gatherHop gatherBlocks
  dsimp only
  rw [if_pos hk, passOn_ends hh]

/-- R501: the last member of a parameter gather converts the shard and writes it. -/
theorem shardHop_last {outs : List (Nat × Cnt)} {k : Cnt} (hh : pelN q ≤ hd.hop + 2)
    (ho : outs = gatherOuts s h q (stepTensor s h (cwDst c.word)) (shardStart s h c hd.chunk)
      (shardElems (pelGin q) hd.elems (hd.elems / max 1 hd.count) m.body))
    (hk : k = (outs.map Prod.snd).foldl Cnt.add {}) : shardHop h n q c m hd s =
    startCalls h n (endGather h n c.call (modCall h n c.call (hear hd.chunk) (putShard h c hd.chunk outs (addCounts c.core k k.made
      (devEvent 0x3010 (4 + portTo q (nextRank q (!cwDir c.word)) / 4) (converterMade q outs) s))))) := by
  subst ho hk
  unfold shardHop
  dsimp only
  rw [passOn_ends hh]

end Hops

/-! ## Ring messages -/

section Rings
variable {p n h c l i : Nat} {m : CollMsg} {a : AWord} {x : Walk} {q : Peloton} {s : State}

theorem ringKv_comes (hc : ComesRing s p n 0x15 m h c l i a x q) : ringKv p n s = chunkHop h c l a x q m (dropMsg p n m s) := by
  rw [ringKv, takeRing_comes hc]

theorem ringGrad_comes (hc : ComesRing s p n 0x16 m h c l i a x q) : ringGrad p n s = gradHop h c l i a x q m (dropMsg p n m s) := by
  rw [ringGrad, takeRing_comes hc]

/-- The state in which a received chunk is staged for its hop (R310). -/
def chunkStaged (h c l : Nat) (a : AWord) (x : Walk) (m : CollMsg) (s : State) : State :=
  stageChunk h a (ringWidth s h a x) ((readHead m.header).hop + 1) m.body (setWalk c l { x with chunk := some m.body } s)

theorem chunkHop_last (hh : pelN q ≤ (readHead m.header).hop + 2) : chunkHop h c l a x q m s = ringReady c l a (chunkStaged h c l a x m s) := by
  unfold chunkHop
  dsimp only
  rw [if_neg (Nat.not_lt.mpr hh)]
  rfl

theorem chunkHop_on (hh : (readHead m.header).hop + 2 < pelN q) : chunkHop h c l a x q m s =
    ringReady c l a (sendRing h c 0x15 a (readHead m.header).chunk ((readHead m.header).hop + 1) m.body (chunkStaged h c l a x m s)) := by
  unfold chunkHop
  dsimp only
  rw [if_pos hh]
  rfl

theorem gradHop_kept (hh : (readHead m.header).hop + 1 < pelN q) : gradHop h c l i a x q m s = ringReady c l a (setWalk c l { x with
    dk := (readGrads a (ringChunk q (readHead m.header).chunk).2 m.body).1
    dv := (readGrads a (ringChunk q (readHead m.header).chunk).2 m.body).2
    grads := true } s) := by
  unfold gradHop
  exact if_pos hh

/-- R313: gradients that are home are written. -/
theorem gradHop_home {tk tv : Tensor} (hh : pelN q ≤ (readHead m.header).hop + 1) (hk : stepTensor s h (aDk a) = some tk)
    (hv : stepTensor s h (aDv a) = some tv) (ht : accessTrouble s (descPages tk.d ++ descPages tv.d) = none) :
    gradHop h c l i a x q m s = endWalk c l i (coreWaitFree c 0x5003
      (putGrads h tv (readGrads a (ringChunk q (readHead m.header).chunk).2 m.body).2
        (putGrads h tk (readGrads a (ringChunk q (readHead m.header).chunk).2 m.body).1 (protectTensor h tv (protectTensor h tk s))))) := by
  unfold gradHop
  dsimp only
  rw [if_neg (Nat.not_lt.mpr hh), hk, hv]
  dsimp only
  rw [ht]

theorem ringLate_walk {b : Nat} {e : Entry} (hs : (coreOf s c).step = some h) (he : laneEntry s c l = some (n, e)) (hop : e.op = .walk b)
    (ha : stepAttn s h b = some a) : ringLate c l s = if ((laneOf s c l).waitOn == some .ring) = true
      then recEvent 0x5013 (handlePart h) (some (handlePart h)) (dieOfCore c) c h [(16, aRing a), (16, (tget (coreOf s c).walk l {}).hop)]
        (coreWaitFree c 0x5003 s)
      else s := by
  unfold ringLate
  rw [hs, he]
  dsimp only
  rw [hop]
  dsimp only
  rw [ha]

end Rings

/-- Settles O55: each message of a call or a ring completes when the call or the walk waits for it. -/
theorem messagesOfCalls : Obligations.MessagesOfCalls := by
  refine ⟨?taken, ?scatter, ?scatterHop, ?gather, ?gatherHop, fun h n q c m hd s => passOn_goes,
    ?shard, ?shardHop, ?exchange, ?exchangeRows, ?returned, ?ringKv, ?ringGrad, ?ringLate⟩
  case taken =>
    intro p n mtype m hd h c q s t ht
    obtain ⟨hq, hin, htype, hhd, hafter⟩ := takeMessage_held ht
    subst hhd
    exact ⟨hq, hin, htype, rfl, hafter⟩
  case scatter =>
    exact fun part n m h c q src s hr hc hsrc => (whenLive_running hr).trans (congrArg _ (redScatter_comes hc hsrc))
  case scatterHop =>
    intro h n q c src m hd s t ht
    subst ht
    refine ⟨(hopBlocks (noteScale h n q c src hd s) h c src hd m.body).map Prod.fst, hopCounted h c src m hd (noteScale h n q c src hd s),
      ?_, rfl, scatterHop_on, scatterHop_own⟩
    exact List.map_map
  case gather => exact fun part n m h c q s hr hc => (whenLive_running hr).trans (congrArg _ (redGather_comes hc))
  case gatherHop =>
    intro h n q c m hd bs s hk hbs hh
    subst hbs
    exact gatherHop_last hk hh
  case shard => exact fun part n m h c q s hr hc => (whenLive_running hr).trans (congrArg _ (paramGather_comes hc))
  case shardHop => exact fun h n q c m hd s hh => ⟨_, _, rfl, rfl, shardHop_last hh rfl rfl⟩
  case exchange =>
    exact fun part n m h c q dst s hr hc hdst => (whenLive_running hr).trans (congrArg _ (exchange_comes hc hdst))
  case exchangeRows => exact fun h n c dst m hd s => ⟨_, _, rfl, rfl, rfl⟩
  case returned =>
    exact fun part n m h c q dst s hr hc hdst => (whenLive_running hr).trans (congrArg _ (exchangeReturn_comes hc hdst))
  case ringKv =>
    intro part n m h c l i a x q s hr hc
    have hrun : exec (.ringKv part n) s = .next (chunkHop h c l a x q m (dropMsg part.val n m s)) :=
      (whenLive_running hr).trans (congrArg _ (ringKv_comes hc))
    exact ⟨chunkStaged h c l a x m (dropMsg part.val n m s), rfl, fun hh => hrun.trans (congrArg _ (chunkHop_last hh)),
      fun hh => hrun.trans (congrArg _ (chunkHop_on hh))⟩
  case ringGrad =>
    intro part n m h c l i a x q s t hr hc ht
    subst ht
    have hrun : exec (.ringGrad part n) s = .next (gradHop h c l i a x q m (dropMsg part.val n m s)) :=
      (whenLive_running hr).trans (congrArg _ (ringGrad_comes hc))
    exact ⟨fun hh => hrun.trans (congrArg _ (gradHop_kept hh)),
      fun tk tv hh hk hv ht => hrun.trans (congrArg _ (gradHop_home hh hk hv ht))⟩
  case ringLate =>
    intro core lane h n b a e s hr hs he hop ha
    have hrun := (whenLive_running hr).trans (congrArg Host.Outcome.next (ringLate_walk hs he hop ha))
    exact ⟨fun hw => hrun.trans (congrArg _ (if_pos (beq_iff_eq.mpr hw))), fun hw => hrun.trans (congrArg _ (if_neg fun h => hw (beq_iff_eq.mp h)))⟩

end Sys2Proof.Architecture
